-- ==== Sys2Proof/Word.lean ====
section
/-! DEFINITION. The word types of the Z9 and their plainest arithmetic (R3, R5, R31). -/

namespace Sys2Proof

/-- One byte of memory. -/
abbrev Byte := BitVec 8
/-- A short kernel-level instruction word, or one half of a long one (R63). -/
abbrev W32 := BitVec 32
/-- A scalar register, an address or a context-level word (R58, R77). -/
abbrev Word := BitVec 64
/-- A vector register (R58). -/
abbrev Vec := BitVec 128

end Sys2Proof
end

