-- ==== Sys2Proof/Config.lean ====
section
/-! DEFINITION. Values that the spec leaves open, as constants without a body: nothing can be proved of them, so what is
proved of the model holds for every choice of them (log 3, DESIGN CHOICE). -/

namespace Sys2Proof.Config

/-- A byte whose value the spec leaves unstated (R217, R223, R307, R322), by the state's counter of such bytes. -/
opaque freeByte : Nat → Byte

/-- The ver field of the status word of a task whose latest version is above 15, which four bits do not hold (R302, R304;
log 7). -/
opaque lateVersion : Nat → BitVec 4

end Sys2Proof.Config
end

