-- ==== Sys2Proof/Machine/Numbers.lean ====
section
/-! DEFINITION. Number formats, exact values, rounding and its flags, and the counter generator (R30 to R48). -/

namespace Sys2Proof.Machine

/-- A format of an element, as a code or as a rounding target (R32, R34). -/
inductive Fmt where
  | fp32
  | bf16
  | fp16
  | e4m3
  | e5m2
  | e3m2
  | e2m3
  | e2m1
  | i32
  | i16
  | i8
  | u8
  | i4
  | u4
deriving DecidableEq, Repr

/-- An exact value: NaN, and whether it sets NV; an infinity; or a sign and a magnitude n / d × 2^e with d > 0. -/
inductive Val where
  | nan (nv : Bool)
  | inf (neg : Bool)
  | num (neg : Bool) (n d : Nat) (e : Int)
deriving DecidableEq, Repr

/-- Sticky flags as in `nflags` (R48): NV, DZ, OF, UF, NX, SAT, IOV from bit 0 upward. -/
abbrev FlagBits := BitVec 7

/-- NV. -/
def fNV : FlagBits := 1
/-- DZ. -/
def fDZ : FlagBits := 2
/-- OF. -/
def fOF : FlagBits := 4
/-- UF. -/
def fUF : FlagBits := 8
/-- NX. -/
def fNX : FlagBits := 16
/-- SAT. -/
def fSAT : FlagBits := 32
/-- IOV. -/
def fIOV : FlagBits := 64

/-- A flag where a condition holds. -/
def flagIf (b : Bool) (f : FlagBits) : FlagBits := if b then f else 0

/-- The width of a code in bits. -/
def fmtWidth : Fmt → Nat
  | .fp32 => 32
  | .bf16 => 16
  | .fp16 => 16
  | .e4m3 => 8
  | .e5m2 => 8
  | .e3m2 => 6
  | .e2m3 => 6
  | .e2m1 => 4
  | .i32 => 32
  | .i16 => 16
  | .i8 => 8
  | .u8 => 8
  | .i4 => 4
  | .u4 => 4

/-- Mantissa width m and bias of a floating format (R32); (0, 0) for an integer format. -/
def fmtMant : Fmt → Nat × Int
  | .fp32 => (23, 127)
  | .bf16 => (7, 127)
  | .fp16 => (10, 15)
  | .e4m3 => (3, 7)
  | .e5m2 => (2, 15)
  | .e3m2 => (2, 3)
  | .e2m3 => (3, 1)
  | .e2m1 => (1, 1)
  | _ => (0, 0)

/-- The least and the greatest value of an integer format (R34); none for a floating one. -/
def fmtRange : Fmt → Option (Int × Int)
  | .i32 => some (-2147483648, 2147483647)
  | .i16 => some (-32768, 32767)
  | .i8 => some (-128, 127)
  | .u8 => some (0, 255)
  | .i4 => some (-8, 7)
  | .u4 => some (0, 15)
  | _ => none

/-- The canonical NaN code, in a format that has a NaN (R32). -/
def fmtNan : Fmt → Option Nat
  | .fp32 => some 0x7FC00000
  | .bf16 => some 0x7FC0
  | .fp16 => some 0x7E00
  | .e4m3 => some 0x7F
  | .e5m2 => some 0x7E
  | _ => none

/-- The positive infinity code, in a format that has one (R32). -/
def fmtInf : Fmt → Option Nat
  | .fp32 => some 0x7F800000
  | .bf16 => some 0x7F80
  | .fp16 => some 0x7C00
  | .e5m2 => some 0x7C
  | _ => none

/-- The code of the largest finite value (R33). -/
def fmtMax : Fmt → Nat
  | .fp32 => 0x7F7FFFFF
  | .bf16 => 0x7F7F
  | .fp16 => 0x7BFF
  | .e4m3 => 0x7E
  | .e5m2 => 0x7B
  | .e3m2 => 0x1F
  | .e2m3 => 0x1F
  | .e2m1 => 0x7
  | _ => 0

/-- The exact value of an integer. -/
def valInt (i : Int) : Val := .num (i < 0) i.natAbs 1 0

/-- +0. -/
def valZero : Val := .num false 0 1 0

/-- A code read as a signed number of w bits. -/
def signedOf (w c : Nat) : Int := if c < 2 ^ (w - 1) then c else (c : Int) - 2 ^ w

/-- The value of a code (R32, R34). -/
def decodeFmt (f : Fmt) (c : Nat) : Val :=
  match fmtRange f with
  | some (lo, _) => if lo == 0 then valInt c else valInt (signedOf (fmtWidth f) c)
  | none =>
    let m := (fmtMant f).1
    let bias := (fmtMant f).2
    let neg := c / 2 ^ (fmtWidth f - 1) % 2 == 1
    let mag := c % 2 ^ (fmtWidth f - 1)
    let ex := mag / 2 ^ m
    let man := mag % 2 ^ m
    if fmtInf f == some mag then .inf neg
    else if (fmtInf f).isSome && mag > fmtMax f then .nan (man < 2 ^ (m - 1))
    else if f == .e4m3 && mag == 0x7F then .nan false
    else if ex == 0 then .num neg man 1 (1 - bias - m)
    else .num neg (2 ^ m + man) 1 ((ex : Int) - bias - m)

/-- Whether a value is a zero. -/
def valIsZero : Val → Bool
  | .num _ n _ _ => n == 0
  | _ => false

/-- Whether a value is a NaN. -/
def valIsNan : Val → Bool
  | .nan _ => true
  | _ => false

/-- The sign of a value; false for a NaN. -/
def valNeg : Val → Bool
  | .nan _ => false
  | .inf s => s
  | .num s _ _ _ => s

/-- Negation. -/
def valNegate : Val → Val
  | .nan v => .nan v
  | .inf s => .inf (!s)
  | .num s n d e => .num (!s) n d e

/-- Exact product; 0 × ∞ is a NaN that sets NV (R44). -/
def valMul : Val → Val → Val
  | .nan a, .nan b => .nan (a || b)
  | .nan a, .inf _ => .nan a
  | .nan a, .num .. => .nan a
  | .inf _, .nan a => .nan a
  | .num .., .nan a => .nan a
  | .inf s, .inf t => .inf (s != t)
  | .inf s, .num t n _ _ => if n == 0 then .nan true else .inf (s != t)
  | .num t n _ _, .inf s => if n == 0 then .nan true else .inf (s != t)
  | .num s n d e, .num t n' d' e' => .num (s != t) (n * n') (d * d') (e + e')

/-- A signed whole number over a power of two, from its sign and magnitude. -/
def signedNat (neg : Bool) (n : Nat) : Int := if neg then -(n : Int) else n

/-- Exact sum; ∞ − ∞ is a NaN that sets NV, an exact zero is −0 only from −0 and −0 (R44, R144). A quiet NaN met before the
second infinity hides its NV (log 120, DESIGN CHOICE). -/
def valAdd : Val → Val → Val
  | .nan a, .nan b => .nan (a || b)
  | .nan a, .inf _ => .nan a
  | .nan a, .num .. => .nan a
  | .inf _, .nan a => .nan a
  | .num .., .nan a => .nan a
  | .inf s, .inf t => if s == t then .inf s else .nan true
  | .inf s, .num .. => .inf s
  | .num .., .inf s => .inf s
  | .num s n d e, .num t n' d' e' =>
    if n == 0 && n' == 0 then .num (s && t) 0 1 0
    else if n == 0 then .num t n' d' e'
    else if n' == 0 then .num s n d e
    else
      let lo := min e e'
      let sum := signedNat s (n * d' * 2 ^ (e - lo).toNat) + signedNat t (n' * d * 2 ^ (e' - lo).toNat)
      .num (sum < 0) sum.natAbs (d * d') lo

/-- Exact difference. -/
def valSub (a b : Val) : Val := valAdd a (valNegate b)

/-- The sum of a list, from −0, in the order of the list; its NV where a quiet NaN stands beside both infinities follows that
order (log 120, DESIGN CHOICE). -/
def valSum (l : List Val) : Val := l.foldl valAdd (.num true 0 1 0)

/-- Exact quotient; the poles are the caller's (R44). -/
def valDiv : Val → Val → Val
  | .nan a, .nan b => .nan (a || b)
  | .nan a, _ => .nan a
  | _, .nan a => .nan a
  | .inf _, .inf _ => .nan true
  | .inf s, .num t _ _ _ => .inf (s != t)
  | .num s _ _ _, .inf t => .num (s != t) 0 1 0
  | .num s n d e, .num t n' d' e' =>
    if n' == 0 then (if n == 0 then .nan true else .inf (s != t))
    else .num (s != t) (n * d') (d * n') (e - e')

/-- The pole of a quotient: a finite nonzero value over a zero (R44). -/
def divFlag (a b : Val) : FlagBits :=
  match a with
  | .num .. => flagIf (!(valIsZero a) && valIsZero b) fDZ
  | _ => 0

/-- Numerical order of two values that are no NaNs, −0 equal to +0: −1, 0 or 1. -/
def valCmp : Val → Val → Int
  | .inf s, .inf t => if s == t then 0 else if s then -1 else 1
  | .inf s, _ => if s then -1 else 1
  | _, .inf t => if t then 1 else -1
  | .num s n d e, .num t n' d' e' =>
    let lo := min e e'
    let a := signedNat s (n * d' * 2 ^ (e - lo).toNat)
    let b := signedNat t (n' * d * 2 ^ (e' - lo).toNat)
    if a < b then -1 else if b < a then 1 else 0
  | _, _ => 0

/-- As `valCmp`, with −0 below +0 (R147). -/
def valCmpZ (a b : Val) : Int :=
  if valIsZero a && valIsZero b then
    (if valNeg a == valNeg b then 0 else if valNeg a then -1 else 1)
  else valCmp a b

/-- The floor of the base-2 logarithm of n / d × 2^e, for n > 0. -/
def floorLog2 (n d : Nat) (e : Int) : Int :=
  let l : Int := (Nat.log2 n : Int) - Nat.log2 d
  let ge := if 0 ≤ l then d * 2 ^ l.toNat ≤ n else d ≤ n * 2 ^ (-l).toNat
  (if ge then l else l - 1) + e

/-- Rounding of the magnitude k + r / den to an integer under a mode code of R41, with the 16-bit random word of R45. -/
def roundMag (mode : Nat) (neg : Bool) (rnd k r den : Nat) : Nat :=
  let up :=
    match mode with
    | 0 => den < 2 * r || (2 * r == den && k % 2 == 1)
    | 1 => false
    | 2 => 0 < r && !neg
    | 3 => 0 < r && neg
    | _ =>
      let t := r * 65536 / den
      let t := if r * 65536 % den == 0 then t else t / 2 * 2 + 1
      0 < r && 65536 ≤ t + rnd
  if up then k + 1 else k

/-- The scaled magnitude n / d × 2^s as whole part, remainder and denominator. -/
def splitMag (n d : Nat) (s : Int) : Nat × Nat × Nat :=
  let num := n * 2 ^ s.toNat
  let den := d * 2 ^ (-s).toNat
  (num / den, num % den, den)

/-- The code and flags of a value beyond the largest finite one, or infinite (R43). `fin`: x is finite. -/
def overflowCode (f : Fmt) (mode : Nat) (ns neg fin : Bool) : Nat × FlagBits :=
  let sign := if neg then 2 ^ (fmtWidth f - 1) else 0
  let ofnx := flagIf fin (fOF ||| fNX)
  let ieee (inf : Nat) : Nat × FlagBits :=
    let toInf :=
      if !fin then true
      else match mode with
        | 1 => false
        | 2 => !neg
        | 3 => neg
        | _ => true
    (sign + (if toInf then inf else fmtMax f), ofnx)
  match f with
  | .fp32 => ieee 0x7F800000
  | .bf16 => ieee 0x7F80
  | .fp16 => ieee 0x7C00
  | .e5m2 => if ns then ieee 0x7C else (sign + fmtMax f, fSAT ||| ofnx)
  | .e4m3 => if ns then (0x7F, if fin then ofnx else fNV) else (sign + fmtMax f, fSAT ||| ofnx)
  | _ => (sign + fmtMax f, fSAT ||| ofnx)

/-- RoundTo for a floating target and a finite nonzero x (R42 step 3, R45). -/
def roundFloat (f : Fmt) (mode : Nat) (ns : Bool) (rnd : Nat) (neg : Bool) (n d : Nat) (e : Int) : Nat × FlagBits :=
  let m := (fmtMant f).1
  let bias := (fmtMant f).2
  let lg := floorLog2 n d e
  -- beyond these exponents every magnitude rounds as its neighbours do
  let e := if 6000 < lg then e - (lg - 6000) else if lg < -6000 then e + (-6000 - lg) else e
  let lg := if 6000 < lg then 6000 else if lg < -6000 then -6000 else lg
  let u := max lg (1 - bias) - m
  let (k, r, den) := splitMag n d (e - u)
  let k' := roundMag mode neg rnd k r den
  let top := fmtMax f / 2 ^ m
  let uTop : Int := (top : Int) - bias - m
  let kTop := 2 ^ m + fmtMax f % 2 ^ m
  if uTop < u || (u == uTop && kTop < k') then overflowCode f mode ns neg true
  else
    let mag :=
      if k' < 2 ^ m then k'
      else if k' == 2 ^ (m + 1) then ((u + 1 + m + bias).toNat) * 2 ^ m
      else (u + m + bias).toNat * 2 ^ m + (k' - 2 ^ m)
    ((if neg then 2 ^ (fmtWidth f - 1) else 0) + mag,
      flagIf (r != 0) fNX ||| flagIf (r != 0 && lg < 1 - bias) fUF)

/-- RoundTo(fmt, mode, x) (R42 to R45): the code and the flags. `ns` is the saturation choice, `rnd` the random word. -/
def roundTo (f : Fmt) (mode : Nat) (ns : Bool) (rnd : Nat) : Val → Nat × FlagBits
  | .nan nv =>
    match fmtNan f with
    | some c => (c, flagIf nv fNV)
    | none => (0, fNV)
  | .inf neg =>
    match fmtRange f with
    | some (lo, hi) => (((if neg then lo else hi) % 2 ^ fmtWidth f).toNat, fSAT)
    | none => overflowCode f mode ns neg false
  | .num neg n d e =>
    match fmtRange f with
    | some (lo, hi) =>
      if n == 0 then (0, 0)
      else
        let lg := floorLog2 n d e
        let e := if 200 < lg then e - (lg - 200) else if lg < -200 then e + (-200 - lg) else e
        let (k, r, den) := splitMag n d e
        let v := signedNat neg (roundMag mode neg rnd k r den)
        let c := max lo (min hi v)
        ((c % 2 ^ fmtWidth f).toNat, flagIf (r != 0 || c != v) fNX ||| flagIf (c != v) fSAT)
    | none =>
      if n == 0 then (if neg then 2 ^ (fmtWidth f - 1) else 0, 0)
      else roundFloat f mode ns rnd neg n d e

/-- RoundTo(fmt, RNE, x) with ns = 0. -/
def rne (f : Fmt) (x : Val) : Nat × FlagBits := roundTo f 0 false 0 x

/-- The FP32 code RoundTo(FP32, RNE, x) as a value again. -/
def rne32 (x : Val) : Val := decodeFmt .fp32 (rne .fp32 x).1

/-- The formats of R30 that are plain element formats, by code. -/
def fmtOfCode : Nat → Fmt
  | 0 => .fp32
  | 1 => .bf16
  | 2 => .fp16
  | 3 => .e4m3
  | 4 => .e5m2
  | 5 => .e3m2
  | 6 => .e2m3
  | 7 => .e2m1
  | 8 => .i8
  | 9 => .u8
  | 10 => .i4
  | 11 => .u4
  | 12 => .e4m3
  | 13 => .e3m2
  | 14 => .e2m3
  | 15 => .e2m1
  | 16 => .i8
  | _ => .e2m1

/-- The block size of a format code, 0 for one without block scales (R30). -/
def blockOf (c : Nat) : Nat :=
  if 12 ≤ c && c ≤ 16 then 32 else if c == 17 then 16 else if c == 18 || c == 19 then 64 else 0

/-- Element width in bits of a format code (R30, R238). -/
def codeWidth (c : Nat) : Nat := if c == 18 || c == 19 then 2 else fmtWidth (fmtOfCode c)

/-- The result formats of R71. -/
def fmtOfFo : Nat → Fmt
  | 0 => .fp32
  | 1 => .bf16
  | 2 => .fp16
  | 3 => .e4m3
  | 4 => .e5m2
  | _ => .i32

/-- An E8M0 scale (R35). -/
def scaleE8M0 (c : Nat) : Val := if c == 0xFF then .nan false else .num false 1 1 ((c : Int) - 127)

/-- An E5M3 scale (R36). -/
def scaleE5M3 (c : Nat) : Val :=
  if c == 0xFF then .nan false
  else if c / 8 == 0 then .num false (c % 8) 1 (-17)
  else .num false (8 + c % 8) 1 ((c / 8 : Nat) - 15 - 3)

/-- The block scale of a format code (R35, R36, R38). -/
def scaleOf (fmt c : Nat) : Val :=
  if fmt == 17 then scaleE5M3 c
  else if fmt == 18 || fmt == 19 then decodeFmt .e4m3 c
  else scaleE8M0 c

/-- The exact value of an element of a format other than CB2 and CB2R under its block scale (R35, R36). -/
def elemScaled (fmt code sc : Nat) : Val :=
  let v := decodeFmt (fmtOfCode fmt) code
  let v := if fmt == 16 then valMul v (.num false 1 1 (-6)) else v
  if blockOf fmt == 0 then v else valMul v (scaleOf fmt sc)

/-- The parity of the flips of a codebook index (R38). -/
def flipParity (idx : Nat) : Bool :=
  (List.range 7).foldl (fun p j => p != (idx / 2 ^ j % 2 == 1)) false

/-- Weight j of a codebook index under its base-table entry, before any scale (R38). -/
def cbWeight (entry idx j : Nat) : Val :=
  let mag := entry / 2 ^ (4 * j) % 16 * 2 + idx / 128 % 2
  let neg := if j < 7 then idx / 2 ^ j % 2 == 1 else flipParity idx
  .num (neg && mag != 0) mag 1 (-3)

/-- Weight j under its block and tensor scales. A decoded value has no −0: a zero magnitude is +0 whatever their signs (R38),
and so is the product with a zero scale (R42); a zero magnitude is a NaN that sets NV under an infinite tensor scale (log 121,
DESIGN CHOICE). -/
def cbValue (entry idx j : Nat) (block tensor : Val) : Val :=
  let v := valMul (valMul (cbWeight entry idx j) block) tensor
  if valIsZero v then valZero else v

/-- Mix (R46). -/
def mix (z : Word) : Word :=
  let z := (z ^^^ (z >>> 31)) * 0xB7E151632A9D4C1B
  let z := (z ^^^ (z >>> 29)) * 0x8F3D6A27E50C91D5
  z ^^^ (z >>> 32)

/-- CGen (R46). -/
def cgen (seed : Word) (stream : W32) (ctr : Word) : Word :=
  let key := mix (seed ^^^ (stream.zeroExtend 64 * 0x6C8E9CF570932BD5))
  mix (mix (ctr ^^^ key) + key)

/-- The 16-bit random word of element e under a key (R47). -/
def stoWord (key : Word × W32 × Word) (e : Nat) : Nat :=
  ((cgen key.1 key.2.1 (key.2.2 + BitVec.ofNat 64 (e / 4))) >>> (16 * (e % 4))).toNat % 65536

/-- The sampler's order key of an FP32 code (R54). -/
def orderKey (c : Nat) : Nat :=
  if valIsNan (decodeFmt .fp32 c) then 0
  else if c == 0x80000000 then 0x80000000
  else if c < 0x80000000 then c + 0x80000000
  else 0xFFFFFFFF - c

/-- Clamp to the INT32 range, and whether it clamped (R51). -/
def clamp32 (i : Int) : Int × Bool :=
  let c := max (-2147483648) (min 2147483647 i)
  (c, c != i)

/-- Floating minimum or maximum of two codes of a format: −0 below +0, the canonical NaN for any NaN (R147). -/
def floatPick (f : Fmt) (wantMax : Bool) (a b : Nat) : Nat × FlagBits :=
  match decodeFmt f a, decodeFmt f b with
  | .nan x, .nan y => ((fmtNan f).getD 0, flagIf (x || y) fNV)
  | .nan x, _ => ((fmtNan f).getD 0, flagIf x fNV)
  | _, .nan y => ((fmtNan f).getD 0, flagIf y fNV)
  | x, y => (if (valCmpZ x y < 0) == wantMax then b else a, 0)

end Sys2Proof.Machine
end

