-- ==== Sys2Proof/Syntax.lean ====
section
/-! DEFINITION. The instructions, long instructions and events of the part: one constructor for every row of
spec/opcode_table.json. Kernel-level instructions (R63 to R75) and context-level words (R79) carry the fields of their
words; events carry what the environment supplies to them (a host's reply, the launch or access that moves). -/

namespace Sys2Proof

/-- The fields of a format-A word besides op and f (R64, R65) (log 25, DEDUCED) (log 38, DEDUCED) (log 41, DEDUCED)
(log 97, DESIGN CHOICE) (log 101, DESIGN CHOICE). -/
structure OpA where
  pr : BitVec 3 := 0
  k : BitVec 1 := 0
  q : BitVec 3 := 0
  b : BitVec 5 := 0
  a : BitVec 5 := 0
  d : BitVec 5 := 0
deriving DecidableEq, Repr

/-- The fields of a format-I word (R67). CMPI's d holds its predicate in [2:0]; its condition is the constructor. -/
structure OpI where
  pr : BitVec 3 := 0
  imm : BitVec 12 := 0
  a : BitVec 5 := 0
  d : BitVec 5 := 0
deriving DecidableEq, Repr

/-- The fields of a format-B word: the displacement and bits [11:7] (R69). -/
structure OpB where
  disp : BitVec 20 := 0
  lo : BitVec 5 := 0
deriving DecidableEq, Repr

/-- A long word with W1 in format M (R70). -/
structure OpM where
  o : OpA := {}
  sx : BitVec 4 := 0
  pol : BitVec 3 := 0
  nu : BitVec 5 := 0
  off : BitVec 20 := 0
deriving DecidableEq, Repr

/-- A long word with W1 in format E (R71). -/
structure OpE where
  o : OpA := {}
  fo : BitVec 3 := 0
  fb : BitVec 5 := 0
  shape : BitVec 4 := 0
  sg : BitVec 3 := 0
  ver : BitVec 2 := 0
  nuw : BitVec 5 := 0
  nur : BitVec 5 := 0
  guard : BitVec 5 := 0
deriving DecidableEq, Repr

/-- A long word with W1 in format X (R71). -/
structure OpX where
  o : OpA := {}
  imm : W32 := 0
deriving DecidableEq, Repr

/-- The fields of a context-level word besides aop (R79). -/
structure OpC where
  imm : W32 := 0
  m : BitVec 8 := 0
  w : BitVec 4 := 0
  z : BitVec 4 := 0
  y : BitVec 4 := 0
  x : BitVec 4 := 0
deriving DecidableEq, Repr

/-- Where a launch record comes from (R15): the tenant's launch queue, its supervisor field, or an agent's `a.klaunch`. -/
inductive LaunchSrc where
  | queue
  | supl
  | klaunch (slot : Nat)
deriving DecidableEq, Repr

/-- Which reuse clock of a launch (R21): that of the clock-level instance at a path of level indices, or the launch's
further clock for the actors bound above that level. -/
structure ClockId where
  launch : Nat := 0
  path : Option (List Nat) := none
deriving DecidableEq, Repr

/-- What a packet of another package asks (R236, R240). -/
inductive RemoteOp where
  | load
  | store
  | amo (fn q : Nat)
  | cas
  | red (fn q : Nat)
deriving DecidableEq, Repr

/-- A packet that performs at this package as remote home (R263): one this package sent to itself, or one that another
package sent, with what it asks (the virtual function, the remote VA, the size, the operation and its operands). -/
inductive PktRef where
  | own (c core acc : Nat)
  | incoming (vf va size : Nat) (op : RemoteOp) (data data2 : Vec)
deriving DecidableEq, Repr

/-- Every instruction and event of the part. -/
inductive Instr where
  /-- ALU_ADD (R120) -/
  | aluAdd (o : OpA)
  /-- ALU_SUB (R120) -/
  | aluSub (o : OpA)
  /-- ALU_AND (R120) -/
  | aluAnd (o : OpA)
  /-- ALU_OR (R120) -/
  | aluOr (o : OpA)
  /-- ALU_XOR (R120) -/
  | aluXor (o : OpA)
  /-- ALU_SHL (R120) -/
  | aluShl (o : OpA)
  /-- ALU_SHR (R120) -/
  | aluShr (o : OpA)
  /-- ALU_SRA (R120) -/
  | aluSra (o : OpA)
  /-- ALUI (R121) -/
  | alui (o : OpI)
  /-- MULDIV_MUL (R124) -/
  | muldivMul (o : OpA)
  /-- MULDIV_MULH (R124) -/
  | muldivMulh (o : OpA)
  /-- MULDIV_MULHU (R124) -/
  | muldivMulhu (o : OpA)
  /-- MULDIV_DIV (R124) -/
  | muldivDiv (o : OpA)
  /-- MULDIV_DIVU (R124) -/
  | muldivDivu (o : OpA)
  /-- MULDIV_REM (R124) -/
  | muldivRem (o : OpA)
  /-- MULDIV_REMU (R124) -/
  | muldivRemu (o : OpA)
  /-- BITS_CLZ (R125) -/
  | bitsClz (o : OpA)
  /-- BITS_CTZ (R125) -/
  | bitsCtz (o : OpA)
  /-- BITS_POPC (R125) -/
  | bitsPopc (o : OpA)
  /-- BITS_BREV (R125) -/
  | bitsBrev (o : OpA)
  /-- BITS_BSWAP (R125) -/
  | bitsBswap (o : OpA)
  /-- BITS_EXTU (R125) -/
  | bitsExtu (o : OpA)
  /-- BITS_EXTS (R125) -/
  | bitsExts (o : OpA)
  /-- BITS_ROTR (R125) -/
  | bitsRotr (o : OpA)
  /-- MINMAX_MIN (R126) -/
  | minmaxMin (o : OpA)
  /-- MINMAX_MAX (R126) -/
  | minmaxMax (o : OpA)
  /-- MINMAX_MINU (R126) -/
  | minmaxMinu (o : OpA)
  /-- MINMAX_MAXU (R126) -/
  | minmaxMaxu (o : OpA)
  /-- MINMAX_ABS (R126) -/
  | minmaxAbs (o : OpA)
  /-- MINMAX_ADDS (R126) -/
  | minmaxAdds (o : OpA)
  /-- MINMAX_SUBS (R126) -/
  | minmaxSubs (o : OpA)
  /-- CMP_EQ (R128) -/
  | cmpEq (o : OpA)
  /-- CMP_NE (R128) -/
  | cmpNe (o : OpA)
  /-- CMP_LT (R128) -/
  | cmpLt (o : OpA)
  /-- CMP_GE (R128) -/
  | cmpGe (o : OpA)
  /-- CMP_LTU (R128) -/
  | cmpLtu (o : OpA)
  /-- CMP_GEU (R128) -/
  | cmpGeu (o : OpA)
  /-- CMP_TST (R128) -/
  | cmpTst (o : OpA)
  /-- CMPI_EQ (R129) -/
  | cmpiEq (o : OpI)
  /-- CMPI_NE (R129) -/
  | cmpiNe (o : OpI)
  /-- CMPI_LT (R129) -/
  | cmpiLt (o : OpI)
  /-- CMPI_LTU (R129) -/
  | cmpiLtu (o : OpI)
  /-- PLOG_AND (R130) -/
  | plogAnd (o : OpA)
  /-- PLOG_OR (R130) -/
  | plogOr (o : OpA)
  /-- PLOG_XOR (R130) -/
  | plogXor (o : OpA)
  /-- PLOG_ANDN (R130) -/
  | plogAndn (o : OpA)
  /-- PLOG_NOT (R130) -/
  | plogNot (o : OpA)
  /-- PLOG_SETX (R130) -/
  | plogSetx (o : OpA)
  /-- PLOG_GETX (R130) -/
  | plogGetx (o : OpA)
  /-- GMOV_GET (R131) -/
  | gmovGet (o : OpA)
  /-- GMOV_AGREE (R131) -/
  | gmovAgree (o : OpA)
  /-- GMOV_PUT (R131) -/
  | gmovPut (o : OpA)
  /-- GMOV_ANY (R131) -/
  | gmovAny (o : OpA)
  /-- GMOV_ALL (R131) -/
  | gmovAll (o : OpA)
  /-- GMOV_COUNT (R131) -/
  | gmovCount (o : OpA)
  /-- ID_LVL (R132) -/
  | idLvl (o : OpA)
  /-- ID_CORE (R132) -/
  | idCore (o : OpA)
  /-- ID_GPOS (R132) -/
  | idGpos (o : OpA)
  /-- ID_GWID (R132) -/
  | idGwid (o : OpA)
  /-- ID_CLUS (R132) -/
  | idClus (o : OpA)
  /-- ID_CNT (R132) -/
  | idCnt (o : OpA)
  /-- ID_LANE (R132) -/
  | idLane (o : OpA)
  /-- ID_PKG (R132) -/
  | idPkg (o : OpA)
  /-- BR (R133) -/
  | br (o : OpB)
  /-- JAL (R134) -/
  | jal (o : OpB)
  /-- JR (R135) -/
  | jr (o : OpA)
  /-- END_COMMIT (R136) -/
  | endCommit (o : OpA)
  /-- END_RETRY (R136) -/
  | endRetry (o : OpA)
  /-- END_FAIL (R136) -/
  | endFail (o : OpA)
  /-- REGION_OPEN (R137) -/
  | regionOpen (o : OpA)
  /-- REGION_CLOSE (R137) -/
  | regionClose (o : OpA)
  /-- GANG_SPLIT (R114) -/
  | gangSplit (o : OpB)
  /-- GANG_FUSE (R115) -/
  | gangFuse (o : OpB)
  /-- GANG_ALIGN (R116) -/
  | gangAlign (o : OpB)
  /-- MOVI_LO (R122) -/
  | moviLo (o : OpX)
  /-- MOVI_HI (R122) -/
  | moviHi (o : OpX)
  /-- MOVI_Z (R122) -/
  | moviZ (o : OpX)
  /-- ALUL_ADD (R123) -/
  | alulAdd (o : OpX)
  /-- ALUL_AND (R123) -/
  | alulAnd (o : OpX)
  /-- ALUL_OR (R123) -/
  | alulOr (o : OpX)
  /-- ALUL_XOR (R123) -/
  | alulXor (o : OpX)
  /-- ALUL_SHL (R123) -/
  | alulShl (o : OpX)
  /-- ALUL_SHR (R123) -/
  | alulShr (o : OpX)
  /-- ALUL_SRA (R123) -/
  | alulSra (o : OpX)
  /-- VARITH_ADD (R147) -/
  | varithAdd (o : OpA)
  /-- VARITH_SUB (R147) -/
  | varithSub (o : OpA)
  /-- VARITH_MUL (R147) -/
  | varithMul (o : OpA)
  /-- VARITH_MIN (R147) -/
  | varithMin (o : OpA)
  /-- VARITH_MAX (R147) -/
  | varithMax (o : OpA)
  /-- VARITH_ADDS (R147) -/
  | varithAdds (o : OpA)
  /-- VARITH_SUBS (R147) -/
  | varithSubs (o : OpA)
  /-- VARITH_ABS (R147) -/
  | varithAbs (o : OpA)
  /-- VFMA_FMA (R148) -/
  | vfmaFma (o : OpA)
  /-- VFMA_FMS (R148) -/
  | vfmaFms (o : OpA)
  /-- VFMA_FNMA (R148) -/
  | vfmaFnma (o : OpA)
  /-- VFMA_FNMS (R148) -/
  | vfmaFnms (o : OpA)
  /-- VDOT_BF16 (R149) -/
  | vdotBf16 (o : OpA)
  /-- VDOT_FP16 (R149) -/
  | vdotFp16 (o : OpA)
  /-- VDOT_E4M3 (R149) -/
  | vdotE4m3 (o : OpA)
  /-- VDOT_E5M2 (R149) -/
  | vdotE5m2 (o : OpA)
  /-- VDOT_I8 (R149) -/
  | vdotI8 (o : OpA)
  /-- VDOT_U8 (R149) -/
  | vdotU8 (o : OpA)
  /-- VDOT_I8U8 (R149) -/
  | vdotI8u8 (o : OpA)
  /-- VRED_ADD (R150) -/
  | vredAdd (o : OpA)
  /-- VRED_MIN (R150) -/
  | vredMin (o : OpA)
  /-- VRED_MAX (R150) -/
  | vredMax (o : OpA)
  /-- VRED_ADDW (R150) -/
  | vredAddw (o : OpA)
  /-- VRED_AND (R150) -/
  | vredAnd (o : OpA)
  /-- VRED_OR (R150) -/
  | vredOr (o : OpA)
  /-- VRED_XOR (R150) -/
  | vredXor (o : OpA)
  /-- VRED_IMAX (R150) -/
  | vredImax (o : OpA)
  /-- VLOGIC_AND (R151) -/
  | vlogicAnd (o : OpA)
  /-- VLOGIC_OR (R151) -/
  | vlogicOr (o : OpA)
  /-- VLOGIC_XOR (R151) -/
  | vlogicXor (o : OpA)
  /-- VLOGIC_ANDN (R151) -/
  | vlogicAndn (o : OpA)
  /-- VLOGIC_NOT (R151) -/
  | vlogicNot (o : OpA)
  /-- VLOGIC_SHL (R151) -/
  | vlogicShl (o : OpA)
  /-- VLOGIC_SHR (R151) -/
  | vlogicShr (o : OpA)
  /-- VLOGIC_SRA (R151) -/
  | vlogicSra (o : OpA)
  /-- VCMP_EQ (R152) -/
  | vcmpEq (o : OpA)
  /-- VCMP_NE (R152) -/
  | vcmpNe (o : OpA)
  /-- VCMP_LT (R152) -/
  | vcmpLt (o : OpA)
  /-- VCMP_LE (R152) -/
  | vcmpLe (o : OpA)
  /-- VCMP_LTU (R152) -/
  | vcmpLtu (o : OpA)
  /-- VCMP_LEU (R152) -/
  | vcmpLeu (o : OpA)
  /-- VCMP_UN (R152) -/
  | vcmpUn (o : OpA)
  /-- VSEL_SEL (R153) -/
  | vselSel (o : OpA)
  /-- VSEL_ZERO (R153) -/
  | vselZero (o : OpA)
  /-- VSEL_CMPR (R153) -/
  | vselCmpr (o : OpA)
  /-- VSEL_EXPD (R153) -/
  | vselExpd (o : OpA)
  /-- VCVT_RNE (R154) -/
  | vcvtRne (o : OpA)
  /-- VCVT_RTZ (R154) -/
  | vcvtRtz (o : OpA)
  /-- VCVT_RUP (R154) -/
  | vcvtRup (o : OpA)
  /-- VCVT_RDN (R154) -/
  | vcvtRdn (o : OpA)
  /-- VCVT_STO (R155) -/
  | vcvtSto (o : OpA)
  /-- VCVT_WIDE (R156) -/
  | vcvtWide (o : OpA)
  /-- VSCALE_LDEXP (R157) -/
  | vscaleLdexp (o : OpA)
  /-- VSCALE_MX (R157) -/
  | vscaleMx (o : OpA)
  /-- VSCALE_SB4 (R157) -/
  | vscaleSb4 (o : OpA)
  /-- VSCALE_CB (R157) -/
  | vscaleCb (o : OpA)
  /-- VCB_DEC (R158) -/
  | vcbDec (o : OpA)
  /-- VSFU_EXP2 (R159) -/
  | vsfuExp2 (o : OpA)
  /-- VSFU_LOG2 (R159) -/
  | vsfuLog2 (o : OpA)
  /-- VSFU_RCP (R159) -/
  | vsfuRcp (o : OpA)
  /-- VSFU_RSQRT (R159) -/
  | vsfuRsqrt (o : OpA)
  /-- VSFU_SQRT (R159) -/
  | vsfuSqrt (o : OpA)
  /-- VSFU_SIN (R159) -/
  | vsfuSin (o : OpA)
  /-- VSFU_COS (R159) -/
  | vsfuCos (o : OpA)
  /-- VSFU_TANH (R159) -/
  | vsfuTanh (o : OpA)
  /-- VSFU2_SIGM (R159) -/
  | vsfu2Sigm (o : OpA)
  /-- VSFU2_GELUT (R159) -/
  | vsfu2Gelut (o : OpA)
  /-- VSFU2_GELUE (R159) -/
  | vsfu2Gelue (o : OpA)
  /-- VSFU2_SILU (R159) -/
  | vsfu2Silu (o : OpA)
  /-- VSFU2_ERF (R159) -/
  | vsfu2Erf (o : OpA)
  /-- VSFU2_SOFTP (R159) -/
  | vsfu2Softp (o : OpA)
  /-- VMOV_MOV (R160) -/
  | vmovMov (o : OpA)
  /-- VMOV_BCAST (R160) -/
  | vmovBcast (o : OpA)
  /-- VMOV_INS (R160) -/
  | vmovIns (o : OpA)
  /-- VMOV_EXT (R160) -/
  | vmovExt (o : OpA)
  /-- VPERM_PERM (R161) -/
  | vpermPerm (o : OpA)
  /-- VPERM_ZIPLO (R161) -/
  | vpermZiplo (o : OpA)
  /-- VPERM_ZIPHI (R161) -/
  | vpermZiphi (o : OpA)
  /-- VPERM_UZPE (R161) -/
  | vpermUzpe (o : OpA)
  /-- VPERM_UZPO (R161) -/
  | vpermUzpo (o : OpA)
  /-- VPERM_SPLAT (R161) -/
  | vpermSplat (o : OpA)
  /-- VPERM_REV (R161) -/
  | vpermRev (o : OpA)
  /-- VLINK_POP (R162) -/
  | vlinkPop (o : OpA)
  /-- VLINK_PEEK (R162) -/
  | vlinkPeek (o : OpA)
  /-- VLINK_SKIP (R162) -/
  | vlinkSkip (o : OpA)
  /-- SEND_X (R177) -/
  | sendX (o : OpA)
  /-- SEND_V (R177) -/
  | sendV (o : OpA)
  /-- SEND_NZ (R177) -/
  | sendNz (o : OpA)
  /-- RECV_W (R179) -/
  | recvW (o : OpA)
  /-- RECV_TRY (R179) -/
  | recvTry (o : OpA)
  /-- RECV_HDR (R179) -/
  | recvHdr (o : OpA)
  /-- RECV_DROP (R179) -/
  | recvDrop (o : OpA)
  /-- CHAN_SLOT (R181) -/
  | chanSlot (o : OpA)
  /-- CHAN_HDR (R181) -/
  | chanHdr (o : OpA)
  /-- CHAN_CNT (R181) -/
  | chanCnt (o : OpA)
  /-- BAR_INIT (R184) -/
  | barInit (o : OpA)
  /-- BAR_ARRIVE (R184) -/
  | barArrive (o : OpA)
  /-- BAR_WAIT (R184) -/
  | barWait (o : OpA)
  /-- BAR_SYNC (R184) -/
  | barSync (o : OpA)
  /-- BAR_QUERY (R184) -/
  | barQuery (o : OpA)
  /-- LD_B (R197) -/
  | ldB (o : OpM)
  /-- LD_H (R197) -/
  | ldH (o : OpM)
  /-- LD_W (R197) -/
  | ldW (o : OpM)
  /-- LD_D (R197) -/
  | ldD (o : OpM)
  /-- LD_BS (R197) -/
  | ldBs (o : OpM)
  /-- LD_HS (R197) -/
  | ldHs (o : OpM)
  /-- LD_WS (R197) -/
  | ldWs (o : OpM)
  /-- ST_B (R197) -/
  | stB (o : OpM)
  /-- ST_H (R197) -/
  | stH (o : OpM)
  /-- ST_W (R197) -/
  | stW (o : OpM)
  /-- ST_D (R197) -/
  | stD (o : OpM)
  /-- VLD_V (R198) -/
  | vldV (o : OpM)
  /-- VLD_BC (R198) -/
  | vldBc (o : OpM)
  /-- VST_V (R198) -/
  | vstV (o : OpM)
  /-- VST_E (R198) -/
  | vstE (o : OpM)
  /-- LDF_KEEP (R195) -/
  | ldfKeep (o : OpM)
  /-- LDF_TAKE (R195) -/
  | ldfTake (o : OpM)
  /-- STE_FILL (R195) -/
  | steFill (o : OpM)
  /-- STE_KEEP (R195) -/
  | steKeep (o : OpM)
  /-- FE_TEST (R196) -/
  | feTest (o : OpA)
  /-- FE_SET (R196) -/
  | feSet (o : OpA)
  /-- FE_CLR (R196) -/
  | feClr (o : OpA)
  /-- FE_TAS (R196) -/
  | feTas (o : OpA)
  /-- FE_SETR (R196) -/
  | feSetr (o : OpA)
  /-- FE_CLRR (R196) -/
  | feClrr (o : OpA)
  /-- WAIT_LE (R200) -/
  | waitLe (o : OpA)
  /-- WAIT_LEX (R200) -/
  | waitLex (o : OpA)
  /-- CACHE_PF (R221) -/
  | cachePf (o : OpM)
  /-- CACHE_PFL1 (R221) -/
  | cachePfl1 (o : OpM)
  /-- CACHE_NU (R221) -/
  | cacheNu (o : OpM)
  /-- CACHE_WB (R221) -/
  | cacheWb (o : OpM)
  /-- CACHE_WBINV (R221) -/
  | cacheWbinv (o : OpM)
  /-- RCLK_READ (R222) -/
  | rclkRead (o : OpX)
  /-- RCLK_ADV (R222) -/
  | rclkAdv (o : OpX)
  /-- RCLK_DFLT (R222) -/
  | rclkDflt (o : OpX)
  /-- PIN_WIN (R223) -/
  | pinWin (o : OpM)
  /-- PIN_SIZE (R223) -/
  | pinSize (o : OpM)
  /-- AMO_ADD (R241) -/
  | amoAdd (o : OpM)
  /-- AMO_ADDB (R241) -/
  | amoAddb (o : OpM)
  /-- AMO_MIN (R241) -/
  | amoMin (o : OpM)
  /-- AMO_MAX (R241) -/
  | amoMax (o : OpM)
  /-- AMO_AND (R241) -/
  | amoAnd (o : OpM)
  /-- AMO_OR (R241) -/
  | amoOr (o : OpM)
  /-- AMO_XOR (R241) -/
  | amoXor (o : OpM)
  /-- AMO_SWAP (R241) -/
  | amoSwap (o : OpM)
  /-- CAS (R242) -/
  | cas (o : OpM)
  /-- RED_ADD (R243) -/
  | redAdd (o : OpM)
  /-- RED_MIN (R243) -/
  | redMin (o : OpM)
  /-- RED_MAX (R243) -/
  | redMax (o : OpM)
  /-- RED_AND (R243) -/
  | redAnd (o : OpM)
  /-- RED_OR (R243) -/
  | redOr (o : OpM)
  /-- RED_XOR (R243) -/
  | redXor (o : OpM)
  /-- RED_FMIN (R243) -/
  | redFmin (o : OpM)
  /-- RED_FMAX (R243) -/
  | redFmax (o : OpM)
  /-- XLAT_PROBE (R244) -/
  | xlatProbe (o : OpM)
  /-- XLAT_TOUCH (R244) -/
  | xlatTouch (o : OpM)
  /-- XLAT_INV (R244) -/
  | xlatInv (o : OpM)
  /-- TRAP (R284) -/
  | trap (o : OpI)
  /-- SYS_R (R285) -/
  | sysR (o : OpI)
  /-- SYS_W (R285) -/
  | sysW (o : OpI)
  /-- VSTOP_CUR (R305) -/
  | vstopCur (o : OpX)
  /-- VWAIT_VER (R312) -/
  | vwaitVer (o : OpX)
  /-- VWAIT_FIN (R312) -/
  | vwaitFin (o : OpX)
  /-- VWAIT_SET (R312) -/
  | vwaitSet (o : OpX)
  /-- VWAIT_SETS (R312) -/
  | vwaitSets (o : OpX)
  /-- VWAIT_POLL (R312) -/
  | vwaitPoll (o : OpX)
  /-- ILLEGAL_ENCODING (R75) -/
  | illegalEncoding (w0 w1 : W32)
  /-- INSTRUCTION_FETCH_FAULT (R74) -/
  | instructionFetchFault (addr : Word) (sub : Nat) (w0 : W32)
  /-- AGENT_ILLEGAL_WORD (R80) -/
  | agentIllegalWord (w : Word)
  /-- AGENT_FETCH_FAULT (R80) -/
  | agentFetchFault
  /-- FENCE_ORD (R255) -/
  | fenceOrd (o : OpA)
  /-- TASK_MMA (R299) -/
  | taskMma (o : OpE)
  /-- TASK_MMAV (R299) -/
  | taskMmav (o : OpE)
  /-- TASK_EW (R300) -/
  | taskEw (o : OpE)
  /-- TASK_RED (R300) -/
  | taskRed (o : OpE)
  /-- TASK_CVT (R300) -/
  | taskCvt (o : OpE)
  /-- TASK_TR (R300) -/
  | taskTr (o : OpE)
  /-- CBLD_ME (R313) -/
  | cbldMe (o : OpE)
  /-- CBLD_NB (R313) -/
  | cbldNb (o : OpE)
  /-- COPY_CP (R325) -/
  | copyCp (o : OpE)
  /-- COPY_FILL (R325) -/
  | copyFill (o : OpE)
  /-- COPY_CHAN (R325) -/
  | copyChan (o : OpE)
  /-- COPY_STAT (R325) -/
  | copyStat (o : OpE)
  /-- COPY_RSM (R323) -/
  | copyRsm (o : OpE)
  /-- COPY_ABRT (R323) -/
  | copyAbrt (o : OpE)
  /-- GATHER_G (R326) -/
  | gatherG (o : OpE)
  /-- GATHER_S (R326) -/
  | gatherS (o : OpE)
  /-- TWALK_LD (R327) -/
  | twalkLd (o : OpE)
  /-- TWALK_WB (R327) -/
  | twalkWb (o : OpE)
  /-- NBMV_MV (R328) -/
  | nbmvMv (o : OpE)
  /-- ATTN_BLK (R330) -/
  | attnBlk (o : OpE)
  /-- ATTN_MRG (R331) -/
  | attnMrg (o : OpE)
  /-- SAMPLE_HIST (R334) -/
  | sampleHist (o : OpE)
  /-- SAMPLE_THR (R334) -/
  | sampleThr (o : OpE)
  /-- SAMPLE_MASS (R334) -/
  | sampleMass (o : OpE)
  /-- SAMPLE_DRAW (R333) -/
  | sampleDraw (o : OpE)
  /-- TEXT_NORM (R335) -/
  | textNorm (o : OpE)
  /-- TEXT_TBL (R384) -/
  | textTbl (o : OpE)
  /-- A_MOVI_LO (R376) -/
  | aMoviLo (o : OpC)
  /-- A_MOVI_HI (R376) -/
  | aMoviHi (o : OpC)
  /-- A_MOVI_Z (R376) -/
  | aMoviZ (o : OpC)
  /-- A_MOV (R376) -/
  | aMov (o : OpC)
  /-- A_ADD (R376) -/
  | aAdd (o : OpC)
  /-- A_SUB (R376) -/
  | aSub (o : OpC)
  /-- A_AND (R376) -/
  | aAnd (o : OpC)
  /-- A_OR (R376) -/
  | aOr (o : OpC)
  /-- A_XOR (R376) -/
  | aXor (o : OpC)
  /-- A_SHL (R376) -/
  | aShl (o : OpC)
  /-- A_SHR (R376) -/
  | aShr (o : OpC)
  /-- A_MUL (R376) -/
  | aMul (o : OpC)
  /-- A_CMP (R376) -/
  | aCmp (o : OpC)
  /-- A_BR (R376) -/
  | aBr (o : OpC)
  /-- A_JMP (R376) -/
  | aJmp (o : OpC)
  /-- A_CALL (R376) -/
  | aCall (o : OpC)
  /-- A_RET (R376) -/
  | aRet (o : OpC)
  /-- A_LD (R376) -/
  | aLd (o : OpC)
  /-- A_ST (R376) -/
  | aSt (o : OpC)
  /-- A_WAIT_PEND (R376) -/
  | aWaitPend (o : OpC)
  /-- A_WAIT_SIG (R376) -/
  | aWaitSig (o : OpC)
  /-- A_WAIT_ALL (R376) -/
  | aWaitAll (o : OpC)
  /-- A_SIG_SLOT (R376) -/
  | aSigSlot (o : OpC)
  /-- A_SIG_HOST (R376) -/
  | aSigHost (o : OpC)
  /-- A_YIELD (R376) -/
  | aYield (o : OpC)
  /-- A_HALT (R376) -/
  | aHalt (o : OpC)
  /-- A_KLAUNCH (R376) -/
  | aKlaunch (o : OpC)
  /-- A_FENCE (R376) -/
  | aFence (o : OpC)
  /-- C_NEW (R358) -/
  | cNew (o : OpC)
  /-- C_FORK (R358) -/
  | cFork (o : OpC)
  /-- C_DROP (R359) -/
  | cDrop (o : OpC)
  /-- C_TRIM (R360) -/
  | cTrim (o : OpC)
  /-- C_LEN (R361) -/
  | cLen (o : OpC)
  /-- C_READ (R362) -/
  | cRead (o : OpC)
  /-- C_HINT (R364) -/
  | cHint (o : OpC)
  /-- C_PIN (R365) -/
  | cPin (o : OpC)
  /-- C_UNPIN (R366) -/
  | cUnpin (o : OpC)
  /-- C_PROG (R363) -/
  | cProg (o : OpC)
  /-- C_BIND (R367) -/
  | cBind (o : OpC)
  /-- C_GRAM (R368) -/
  | cGram (o : OpC)
  /-- C_SAMP (R369) -/
  | cSamp (o : OpC)
  /-- C_APP (R382) -/
  | cApp (o : OpC)
  /-- C_GEN (R382) -/
  | cGen (o : OpC)
  /-- C_SCORE (R382) -/
  | cScore (o : OpC)
  /-- C_CHOOSE (R382) -/
  | cChoose (o : OpC)
  /-- C_SPEC (R382) -/
  | cSpec (o : OpC)
  /-- POWER_ON (R401) -/
  | powerOn
  /-- PART_READY (R401) -/
  | partReady (links : BitVec 18)
  /-- REGISTER_WRITE (R401) -/
  | registerWrite (fn bar off size : Nat) (val : Word)
  /-- PART_STATUS_ERROR_CLEAR (R401) -/
  | partStatusErrorClear
  /-- GROUP_ASSIGN (R404) -/
  | groupAssign (g : Nat) (val : Word)
  /-- GROUP_ZEROING_DONE (R225) -/
  | groupZeroingDone (g : Nat)
  /-- GROUP_REMOVE (R403) -/
  | groupRemove (g : Nat) (val : Word)
  /-- FORMAT_RANGE_WRITE (R237) -/
  | formatRangeWrite (reg word : Nat) (val : Word)
  /-- TENANT_BLOCK_WRITE (R402) -/
  | tenantBlockWrite (v off : Nat) (val : Word)
  /-- CLUSTER_LEAVE_PARTITION (R403) -/
  | clusterLeavePartition (v c : Nat)
  /-- PCMD_PREEMPT (R278) -/
  | pcmdPreempt (v : Nat) (val : W32)
  /-- PCMD_PREEMPT_URGENT (R279) -/
  | pcmdPreemptUrgent (v : Nat) (val : W32)
  /-- PCMD_RESUME (R411) -/
  | pcmdResume (v : Nat) (val : W32)
  /-- CONTEXT_SAVE (R280) -/
  | contextSave (v c : Nat)
  /-- CONTEXT_RESTORE (R411) -/
  | contextRestore (v c : Nat)
  /-- VCMD_READY (R407) -/
  | vcmdReady (v : Nat)
  /-- VCMD_RESET (R410) -/
  | vcmdReset (v : Nat)
  /-- FUNCTION_LEVEL_RESET (R410) -/
  | functionLevelReset (v : Nat)
  /-- SUPL_WRITE (R407) -/
  | suplWrite (v : Nat) (val : Word)
  /-- LQ_DOORBELL (R409) -/
  | lqDoorbell (v : Nat) (tail : W32)
  /-- LAUNCH_ACCEPT (R16) -/
  | launchAccept (v : Nat) (src : LaunchSrc)
  /-- LAUNCH_PROCEED (R20) -/
  | launchProceed (l : Nat)
  /-- LEVEL_TAKE_CONTEXT (R24) -/
  | levelTakeContext (l : Nat) (path : List Nat)
  /-- REPEAT_INSTANCE_FINISH (R20) -/
  | repeatInstanceFinish (l : Nat) (path : List Nat)
  /-- FIRING_BIND (R106) -/
  | firingBind (c : Nat)
  /-- STARVATION_CLOSE (R107) -/
  | starvationClose (c : Nat)
  /-- COMMIT_TAKE_EFFECT (R165) -/
  | commitTakeEffect (f : Nat)
  /-- WATCHDOG_EXPIRY (R28) -/
  | watchdogExpiry (f : Nat)
  /-- RECORD_WRITE (R274) -/
  | recordWrite (die idx : Nat)
  /-- MESSAGE_DELIVER (R168) -/
  | messageDeliver (idx : Nat)
  /-- MESSAGE_FILL_SLOT (R168) -/
  | messageFillSlot (c idx : Nat)
  /-- LAUNCH_COMPLETE (R23) -/
  | launchComplete (l : Nat)
  /-- HARDWARE_ERROR (R281) -/
  | hardwareError (f core : Nat) (passes : Bool)
  /-- EXPLICIT_STORE_PERFORM (R253) -/
  | explicitStorePerform (c core acc : Nat)
  /-- EXPLICIT_LOAD_PERFORM (R253) -/
  | explicitLoadPerform (c core acc : Nat)
  /-- LOAD_DATA_RETURN (R197) -/
  | loadDataReturn (c core acc lease : Nat)
  /-- FE_WAITER_SERVE (R194) -/
  | feWaiterServe (idx : Nat)
  /-- CLOCK_BROADCAST (R210) -/
  | clockBroadcast (clk : ClockId) (slice : Nat)
  /-- CREDIBILITY_WINDOW_CLOSE (R214) -/
  | credibilityWindowClose (v : Nat)
  /-- INV_WRITE (R231) -/
  | invWrite (v : Nat) (va : Word)
  /-- INVALIDATION_COMPLETE (R231) -/
  | invalidationComplete (idx : Nat)
  /-- PRI_RESTART (R233) -/
  | priRestart (v : Nat) (val : W32)
  /-- FRERR_READ (R406) -/
  | frerrRead (v : Nat)
  /-- APERTURE_ACCESS (R405) -/
  | apertureAccess (v off size : Nat) (wr : Bool) (val : Word)
  /-- SLOT_START (R372) -/
  | slotStart (slot : Nat)
  /-- SLOT_STOP (R372) -/
  | slotStop (slot : Nat)
  /-- SLOT_RESUME (R372) -/
  | slotResume (slot : Nat)
  /-- SLOT_RESET (R372) -/
  | slotReset (slot : Nat)
  /-- SIG_WRITE (R371) -/
  | sigWrite (slot : Nat) (val : Word)
  /-- MEMBERSHIP_WRITE (R415) -/
  | membershipWrite (word : Nat) (val : Word)
  /-- ATS_INVALIDATE_REQUEST (R234) -/
  | atsInvalidateRequest (v : Nat) (addr : Word) (size : Nat) (all : Bool)
  /-- TRANSLATION_COMPLETION (R232) -/
  | translationCompletion (idx : Nat) (ta : Word) (size : Nat) (r w u : Bool)
  /-- PRG_RESPONSE (R233) -/
  | prgResponse (idx code : Nat)
  /-- PAGE_REQUEST_TIMEOUT (R233) -/
  | pageRequestTimeout (idx : Nat)
  /-- HOST_COMPLETION_ERROR (R235) -/
  | hostCompletionError (c core acc : Nat)
  /-- FLIT_CRC_ERROR (R414) -/
  | flitCrcError (link : Nat)
  /-- LINK_DOWN (R416) -/
  | linkDown (link : Nat)
  /-- REMOTE_PACKET_PERFORM (R263) -/
  | remotePacketPerform (pkt : PktRef)
  /-- REMOTE_REPLY (R236) -/
  | remoteReply (c core acc : Nat) (cause : Nat) (val : Vec)
  /-- REMOTE_POSTED_FAULT (R236) -/
  | remotePostedFault (c core acc : Nat)
  /-- FLUSH_MARKER_ARRIVE (R264) -/
  | flushMarkerArrive (idx : Nat)
  /-- FLUSH_ANSWER_ARRIVE (R264) -/
  | flushAnswerArrive (idx : Nat)
  /-- ENGINE_COMMAND_START (R316) -/
  | engineCommandStart (id : Nat)
  /-- ENGINE_PARK (R322) -/
  | enginePark (id : Nat)
  /-- ENGINE_COMMAND_COMPLETE (R262) -/
  | engineCommandComplete (id : Nat)
  /-- ENGINE_COMMAND_FAULT (R322) -/
  | engineCommandFault (id cause : Nat)
  /-- ENGINE_PREEMPT_STOP (R324) -/
  | enginePreemptStop (id : Nat)
  /-- NBMV_PUBLISH (R329) -/
  | nbmvPublish (id : Nat)
  /-- TASK_ACCEPT (R290) -/
  | taskAccept (idx : Nat)
  /-- TASK_ISSUE (R298) -/
  | taskIssue (id : Nat)
  /-- TASK_PUBLISH (R303) -/
  | taskPublish (id : Nat)
  /-- TASK_REFIRE (R304) -/
  | taskRefire (id : Nat)
  /-- TASK_RETIRE (R296) -/
  | taskRetire (id : Nat)
  /-- TASK_FAULT (R307) -/
  | taskFault (id cause : Nat)
  /-- ENGINE_HW_RERUN (R298) -/
  | engineHwRerun (id : Nat)
  /-- TASK_PREEMPT_STOP (R308) -/
  | taskPreemptStop (id : Nat)
  /-- STEP_FILL (R378) -/
  | stepFill (v inst : Nat)
  /-- STEP_COMMIT (R379) -/
  | stepCommit (v inst : Nat)
  /-- EVICTION_START (R348) -/
  | evictionStart (v : Nat)
  /-- EVICTION_COMMIT (R349) -/
  | evictionCommit (v page : Nat)
  /-- PROMOTION_START (R351) -/
  | promotionStart (v : Nat)
  /-- PROMOTION_COMPLETE (R352) -/
  | promotionComplete (v page : Nat) (lost : List Host.Cell)
  /-- INTEGRITY_FAILURE (R353) -/
  | integrityFailure (v page : Nat)
  /-- BLOCK_REHOME (R344) -/
  | blockRehome (v ctx block : Nat)
  /-- TRESOLVE_WRITE (R275) -/
  | tresolveWrite (c core : Nat)
  /-- VF_ENABLE (R400) -/
  | vfEnable (v : Nat)
  /-- WINDOW_UNCORRECTABLE_ERROR (R217) -/
  | windowUncorrectableError (v die off : Nat)
  /-- CLUSTER_UNIT_FAILURE (R281) -/
  | clusterUnitFailure (c : Nat)
  /-- COHERENT_STORE_PERFORM (R251) -/
  | coherentStorePerform (c core acc : Nat)
deriving DecidableEq, Repr

end Sys2Proof
end

