-- ==== Sys2Proof/Machine/Forms.lean ====
section
/-! DEFINITION. The forms of the instruction words: which fields each major and function uses, in which register file,
and with which values (R65, R75, R80 and the entries of the majors). WellFormed.lean and Decode.lean rest on this file;
the interlocks read from it which registers an instruction names. -/

namespace Sys2Proof.Machine

/-- What a register field of a format-A word names (R65). -/
inductive Fld where
  /-- Not used: encodes 0. -/
  | no
  /-- A scalar: `x`, or `g` with k = 1. -/
  | x
  /-- A vector register or a link. -/
  | v
  /-- `v0` to `v29` only. -/
  | v29
  /-- `lw` or `le` only. -/
  | link
  /-- A predicate: `p`, or `gp` with k = 1. -/
  | p
  /-- A uniform register, whatever k (R131). -/
  | g
  /-- A uniform predicate, whatever k (R131). -/
  | gp
  /-- A number below n. -/
  | lit (n : Nat)
  /-- The first of a block of n consecutive scalars (R71). -/
  | blk (n : Nat)
  /-- A code or number, checked elsewhere. -/
  | any
deriving DecidableEq, Repr

/-- A register by file and number; for `p`, whether it is uniform. -/
inductive RegRef where
  | x (n : Nat)
  | g (n : Nat)
  | v (n : Nat)
  | p (uni : Bool) (n : Nat)
deriving DecidableEq, Repr

/-- Whether k is 1. -/
def k1 (o : OpA) : Bool := o.k == 1

/-- Whether a field's value is legal for what it names. -/
def fldOk (v : BitVec 5) : Fld → Bool
  | .no => v == 0
  | .v29 => v.toNat < 30
  | .link => 30 <= v.toNat
  | .p => v.toNat < 8
  | .gp => v.toNat < 8
  | .lit n => v.toNat < n
  | .blk n => v.toNat + n <= 32
  | _ => true

/-- q: none. -/
def q0 : List Nat := [0]
/-- q: the 64-bit or the `w` form (R119). -/
def qW : List Nat := [0, 1]
/-- q: 0 or 1. -/
def q01 : List Nat := [0, 1]
/-- q: BF16 or FP16. -/
def q12 : List Nat := [1, 2]
/-- q: `i8` only. -/
def q5 : List Nat := [5]
/-- q: 0 to 3. -/
def q03 : List Nat := [0, 1, 2, 3]
/-- q: 0 to 4; as a rounding mode, the codes of R41. -/
def q04 : List Nat := [0, 1, 2, 3, 4]
/-- q: any element type (R141). -/
def qE : List Nat := [0, 1, 2, 3, 4, 5]
/-- q: a floating element type. -/
def qF : List Nat := [0, 1, 2]
/-- q: an integer element type. -/
def qI : List Nat := [3, 4, 5]
/-- q: an element type narrower than 32 bits. -/
def qN : List Nat := [1, 2, 4, 5]
/-- q: a target of `vcvt.wide` (R156). -/
def qWide : List Nat := [0, 1, 2, 3, 4, 5]
/-- q: every value. -/
def qAll : List Nat := [0, 1, 2, 3, 4, 5, 6, 7]
/-- k: either file. -/
def kBoth : List Nat := [0, 1]
/-- k: no uniform form. -/
def k0 : List Nat := [0]

/-- The checks of R65 and R75 that every format-A word shares. -/
def okA (o : OpA) (q k : List Nat) (d a b : Fld) : Bool :=
  q.contains o.q.toNat && k.contains o.k.toNat && fldOk o.d d && fldOk o.a a && fldOk o.b b

/-- sx is reserved (R70). -/
def noSx (o : OpM) : Bool := o.sx == 0
/-- pol is reserved. -/
def noPol (o : OpM) : Bool := o.pol == 0
/-- nu is reserved. -/
def noNu (o : OpM) : Bool := o.nu == 0
/-- pol 4 to 7 is reserved (R187). -/
def polLow (o : OpM) : Bool := o.pol.toNat <= 3
/-- RED takes pol 0 or `nc` (R243). -/
def polRed (o : OpM) : Bool := o.pol == 0 || o.pol == 3

/-- An ALUL shift amount is below the width (R123). -/
def alulShift (o : OpX) : Bool := o.imm.toNat < (if o.o.q == 1 then 32 else 64)

/-- The immediate of `rclk.dflt` (R222). -/
def rclkDflt (i : W32) : Bool :=
  let c := i.toNat % 32
  let sp := i.toNat / 256 % 16
  1 <= c && c != 30 && sp <= 1 && i.toNat == c + 256 * sp

/-- The target code T of a VCVT; one narrower than 8 bits takes no mask (R143, R154). -/
def cvtTarget (o : OpA) : Bool :=
  let t := o.b.toNat % 16
  t <= 13 && (!([8, 9, 10, 12, 13].contains t) || o.pr == 0)

/-- The pairs of target and source that `vcvt.wide` allows (R156). -/
def cvtWide (o : OpA) : Bool :=
  let s := o.b.toNat
  match o.q.toNat with
  | 0 => [1, 2, 3, 4, 8, 9, 10].contains s
  | 1 => [3, 4, 8, 9, 10].contains s
  | 2 => [3, 4, 8, 9, 10].contains s
  | 3 => [6, 7, 11, 12, 13].contains s
  | 4 => [7, 11, 12, 13].contains s
  | 5 => [12, 13].contains s
  | _ => false

/-- The formats, result format and shape of `task.mma` and `task.mmav` (R310). -/
def taskMma (o : OpE) : Bool :=
  let a := o.o.b.toNat
  let b := o.fb.toNat
  let int := 8 <= a && a <= 11 && 8 <= b && b <= 11
  a <= 17 && b <= 18 && (if int then o.fo == 5 else o.fo.toNat <= 4) && o.shape.toNat <= 6 && o.ver != 3
/-- `task.ew` (R310). -/
def taskEw (o : OpE) : Bool :=
  o.o.b.toNat <= 7 && o.fb.toNat <= 7 && o.fo.toNat <= 4 && o.shape.toNat <= 4 && o.ver != 3
/-- `task.red` (R310). -/
def taskRed (o : OpE) : Bool :=
  o.o.b.toNat <= 7 && o.fb == 0 && o.fo.toNat <= 4 && o.shape.toNat <= 2 && o.ver != 3
/-- `task.cvt` (R310). -/
def taskCvt (o : OpE) : Bool :=
  o.o.b.toNat <= 17 && o.fb == 0 && o.fo.toNat <= 5 && o.shape == 0 && o.ver != 3
/-- `task.tr` (R310). -/
def taskTr (o : OpE) : Bool :=
  o.o.b.toNat <= 4 && o.fb == 0 && o.fo.toNat == o.o.b.toNat && o.shape == 0 && o.ver != 3
/-- CBLD (R313). -/
def cbld (o : OpE) : Bool :=
  (o.fb == 18 || o.fb == 19) && o.fo == 0 && o.shape == 0 && o.sg == 0 && o.ver == 0 && o.nuw == 0 && o.guard == 0
/-- The raw and converting shapes of COPY (R325). -/
def copyConv (o : OpE) : Bool :=
  if o.shape == 1 then o.o.b.toNat <= 17 && o.fo.toNat <= 5
  else o.shape == 0 && o.o.b == 0 && o.fo == 0 && o.o.q == 0
/-- W1 is 0. -/
def w1Zero (o : OpE) : Bool :=
  o.fo == 0 && o.fb == 0 && o.shape == 0 && o.sg == 0 && o.ver == 0 && o.nuw == 0 && o.nur == 0 && o.guard == 0
/-- Fields that ATTN does not use, and its head dimensions (R330, R331). -/
def attnRest (o : OpE) : Bool := o.fb == 0 && o.sg == 0 && o.ver == 0 && o.shape.toNat <= 7
/-- Fields that SAMPLE does not use (R334). -/
def sampleRest (o : OpE) : Bool := o.fo == 0 && o.fb == 0 && o.shape == 0 && o.sg == 0 && o.ver == 0
/-- Fields that TEXT does not use (R335). -/
def textRest (o : OpE) : Bool := o.fo == 0 && o.fb == 0 && o.sg == 0 && o.ver == 0

/-- System registers that exist (R62, R118, R276). -/
def sysReadable (n : Nat) : Bool :=
  n <= 0x015 || n == 0x040 || (0x050 <= n && n <= 0x053) || (0x060 <= n && n <= 0x065) || n == 0x080 || n == 0x081 ||
    (0x100 <= n && n <= 0x106)
/-- System registers that a write reaches (R62, R276). -/
def sysWritable (n : Nat) : Bool := n == 0x040 || n == 0x103 || n == 0x104

/-- The second source of a context-level arithmetic word is a_z or the immediate, never both (R376). -/
def agentSrc (o : OpC) : Bool := if o.m.getLsbD 0 then o.z == 0 else o.imm == 0
/-- A branch target is a multiple of 8 (R376). -/
def agentTarget (o : OpC) : Bool := o.imm.toNat % 8 == 0

/-- The registers that a register field names. -/
def fldRegs (k : Bool) (v : BitVec 5) : Fld → List RegRef
  | .x => [if k then .g v.toNat else .x v.toNat]
  | .v => [.v v.toNat]
  | .v29 => [.v v.toNat]
  | .link => [.v v.toNat]
  | .p => [.p k v.toNat]
  | .g => [.g v.toNat]
  | .gp => [.p true v.toNat]
  | .blk n => (List.range n).map fun j => if k then .g (v.toNat + j) else .x (v.toNat + j)
  | _ => []

/-- The registers named by d, a and b. -/
def regsA (o : OpA) (d a b : Fld) : List RegRef :=
  fldRegs (k1 o) o.d d ++ fldRegs (k1 o) o.a a ++ fldRegs (k1 o) o.b b
/-- The governing predicate. -/
def govReg (o : OpA) : List RegRef := [.p (k1 o) o.pr.toNat]
/-- The opposite link, which a VLINK with `fwd` pushes (R140, R162). -/
def fwdLink (o : OpA) : List RegRef := if o.q == 1 then [.v (61 - o.a.toNat)] else []
/-- The mask of a vector instruction. -/
def maskReg (o : OpA) : List RegRef := [.p false o.pr.toNat]
/-- The guard register, and the registers of a stochastic-rounding key (R71, R301). -/
def guardRegs (o : OpE) : List RegRef :=
  if k1 o.o then [.g o.guard.toNat, .g 29, .g 30, .g 31] else [.x o.guard.toNat, .x 29, .x 30, .x 31]

/-- Whether a kernel-level or context-level word is an instruction at all, and none of its fields is reserved or illegal
(R75, R80). An event is no word (log 21, DEDUCED). -/
def legalWord : Instr → Bool
  | .aluAdd o => okA o qW kBoth .x .x .x
  | .aluSub o => okA o qW kBoth .x .x .x
  | .aluAnd o => okA o qW kBoth .x .x .x
  | .aluOr o => okA o qW kBoth .x .x .x
  | .aluXor o => okA o qW kBoth .x .x .x
  | .aluShl o => okA o qW kBoth .x .x .x
  | .aluShr o => okA o qW kBoth .x .x .x
  | .aluSra o => okA o qW kBoth .x .x .x
  | .alui _ => true
  | .muldivMul o => okA o qW kBoth .x .x .x
  | .muldivMulh o => okA o qW kBoth .x .x .x
  | .muldivMulhu o => okA o qW kBoth .x .x .x
  | .muldivDiv o => okA o qW kBoth .x .x .x
  | .muldivDivu o => okA o qW kBoth .x .x .x
  | .muldivRem o => okA o qW kBoth .x .x .x
  | .muldivRemu o => okA o qW kBoth .x .x .x
  | .bitsClz o => okA o qW kBoth .x .x .no
  | .bitsCtz o => okA o qW kBoth .x .x .no
  | .bitsPopc o => okA o qW kBoth .x .x .no
  | .bitsBrev o => okA o qW kBoth .x .x .no
  | .bitsBswap o => okA o qW kBoth .x .x .no
  | .bitsExtu o => okA o q0 kBoth .x .x .x
  | .bitsExts o => okA o q0 kBoth .x .x .x
  | .bitsRotr o => okA o qW kBoth .x .x .x
  | .minmaxMin o => okA o qW kBoth .x .x .x
  | .minmaxMax o => okA o qW kBoth .x .x .x
  | .minmaxMinu o => okA o qW kBoth .x .x .x
  | .minmaxMaxu o => okA o qW kBoth .x .x .x
  | .minmaxAbs o => okA o qW kBoth .x .x .no
  | .minmaxAdds o => okA o qW kBoth .x .x .x
  | .minmaxSubs o => okA o qW kBoth .x .x .x
  | .cmpEq o => okA o qW kBoth .p .x .x
  | .cmpNe o => okA o qW kBoth .p .x .x
  | .cmpLt o => okA o qW kBoth .p .x .x
  | .cmpGe o => okA o qW kBoth .p .x .x
  | .cmpLtu o => okA o qW kBoth .p .x .x
  | .cmpGeu o => okA o qW kBoth .p .x .x
  | .cmpTst o => okA o qW kBoth .p .x .x
  | .cmpiEq o => o.d.toNat < 8
  | .cmpiNe o => o.d.toNat < 8
  | .cmpiLt o => o.d.toNat < 8
  | .cmpiLtu o => o.d.toNat < 8
  | .plogAnd o => okA o q0 kBoth .p .p .p
  | .plogOr o => okA o q0 kBoth .p .p .p
  | .plogXor o => okA o q0 kBoth .p .p .p
  | .plogAndn o => okA o q0 kBoth .p .p .p
  | .plogNot o => okA o q0 kBoth .p .p .no
  | .plogSetx o => okA o q0 kBoth .p .x .no
  | .plogGetx o => okA o q0 kBoth .x .p .no
  | .gmovGet o => okA o q0 k0 .g .x .no
  | .gmovAgree o => okA o q0 k0 .g .x .no
  | .gmovPut o => okA o q0 k0 .x .g .no
  | .gmovAny o => okA o q0 k0 .gp .p .no
  | .gmovAll o => okA o q0 k0 .gp .p .no
  | .gmovCount o => okA o q0 k0 .g .p .no
  | .idLvl o => okA o qAll kBoth .x .no .no
  | .idCore o => okA o q0 k0 .x .no .no
  | .idGpos o => okA o q0 k0 .x .no .no
  | .idGwid o => okA o q0 kBoth .x .no .no
  | .idClus o => okA o q0 kBoth .x .no .no
  | .idCnt o => okA o qAll kBoth .x .no .no
  | .idLane o => okA o q03 k0 .v .no .no
  | .idPkg o => okA o q0 kBoth .x .no .no
  | .br _ => true
  | .jal _ => true
  | .jr o => okA o q0 kBoth .x .x .no
  | .endCommit o => okA o q0 kBoth .no .no .no
  | .endRetry o => okA o q0 kBoth .no .no .no
  | .endFail o => okA o q0 kBoth .no .no .no
  | .regionOpen o => okA o q0 k0 .no .x .no
  | .regionClose o => okA o q0 k0 .no .no .no
  | .gangSplit o => o.lo == 0 && o.disp == 0
  | .gangFuse o => o.lo == 1
  | .gangAlign o => o.lo == 2 && o.disp == 0
  | .moviLo o => okA o.o q0 kBoth .x .no .no
  | .moviHi o => okA o.o q0 kBoth .x .no .no
  | .moviZ o => okA o.o q0 kBoth .x .no .no
  | .alulAdd o => okA o.o q01 kBoth .x .x .no
  | .alulAnd o => okA o.o q01 kBoth .x .x .no
  | .alulOr o => okA o.o q01 kBoth .x .x .no
  | .alulXor o => okA o.o q01 kBoth .x .x .no
  | .alulShl o => okA o.o q01 kBoth .x .x .no && alulShift o
  | .alulShr o => okA o.o q01 kBoth .x .x .no && alulShift o
  | .alulSra o => okA o.o q01 kBoth .x .x .no && alulShift o
  | .varithAdd o => okA o qE k0 .v .v .v
  | .varithSub o => okA o qE k0 .v .v .v
  | .varithMul o => okA o qE k0 .v .v .v
  | .varithMin o => okA o qE k0 .v .v .v
  | .varithMax o => okA o qE k0 .v .v .v
  | .varithAdds o => okA o qI k0 .v .v .v
  | .varithSubs o => okA o qI k0 .v .v .v
  | .varithAbs o => okA o qE k0 .v .v .no
  | .vfmaFma o => okA o qE k0 .v .v .v
  | .vfmaFms o => okA o qE k0 .v .v .v
  | .vfmaFnma o => okA o qE k0 .v .v .v
  | .vfmaFnms o => okA o qE k0 .v .v .v
  | .vdotBf16 o => okA o q0 k0 .v .v .v
  | .vdotFp16 o => okA o q0 k0 .v .v .v
  | .vdotE4m3 o => okA o q0 k0 .v .v .v
  | .vdotE5m2 o => okA o q0 k0 .v .v .v
  | .vdotI8 o => okA o q0 k0 .v .v .v
  | .vdotU8 o => okA o q0 k0 .v .v .v
  | .vdotI8u8 o => okA o q0 k0 .v .v .v
  | .vredAdd o => okA o qE k0 .v .v .no
  | .vredMin o => okA o qE k0 .v .v .no
  | .vredMax o => okA o qE k0 .v .v .no
  | .vredAddw o => okA o qN k0 .v .v .no
  | .vredAnd o => okA o qI k0 .v .v .no
  | .vredOr o => okA o qI k0 .v .v .no
  | .vredXor o => okA o qI k0 .v .v .no
  | .vredImax o => okA o qE k0 .v .v .no
  | .vlogicAnd o => okA o qE k0 .v .v .v
  | .vlogicOr o => okA o qE k0 .v .v .v
  | .vlogicXor o => okA o qE k0 .v .v .v
  | .vlogicAndn o => okA o qE k0 .v .v .v
  | .vlogicNot o => okA o qE k0 .v .v .no
  | .vlogicShl o => okA o qI k0 .v .v .v
  | .vlogicShr o => okA o qI k0 .v .v .v
  | .vlogicSra o => okA o qI k0 .v .v .v
  | .vcmpEq o => okA o qE k0 .p .v .v
  | .vcmpNe o => okA o qE k0 .p .v .v
  | .vcmpLt o => okA o qE k0 .p .v .v
  | .vcmpLe o => okA o qE k0 .p .v .v
  | .vcmpLtu o => okA o qI k0 .p .v .v
  | .vcmpLeu o => okA o qI k0 .p .v .v
  | .vcmpUn o => okA o qF k0 .p .v .v
  | .vselSel o => okA o q0 k0 .v .v .v
  | .vselZero o => okA o q0 k0 .v .v .no
  | .vselCmpr o => okA o qE k0 .v .v .no
  | .vselExpd o => okA o qE k0 .v .v .no
  | .vcvtRne o => okA o qE k0 .v .v .any && cvtTarget o
  | .vcvtRtz o => okA o qE k0 .v .v .any && cvtTarget o
  | .vcvtRup o => okA o qE k0 .v .v .any && cvtTarget o
  | .vcvtRdn o => okA o qE k0 .v .v .any && cvtTarget o
  | .vcvtSto o => okA o qE k0 .v .v .any && cvtTarget o
  | .vcvtWide o => okA o qWide k0 .v .v .any && cvtWide o
  | .vscaleLdexp o => okA o qF k0 .v .v .v
  | .vscaleMx o => okA o qF k0 .v .v .v
  | .vscaleSb4 o => okA o qF k0 .v .v .v
  | .vscaleCb o => okA o qF k0 .v .v .v
  | .vcbDec o => okA o q12 k0 .v .v .no
  | .vsfuExp2 o => okA o qF k0 .v .v .no
  | .vsfuLog2 o => okA o qF k0 .v .v .no
  | .vsfuRcp o => okA o qF k0 .v .v .no
  | .vsfuRsqrt o => okA o qF k0 .v .v .no
  | .vsfuSqrt o => okA o qF k0 .v .v .no
  | .vsfuSin o => okA o qF k0 .v .v .no
  | .vsfuCos o => okA o qF k0 .v .v .no
  | .vsfuTanh o => okA o qF k0 .v .v .no
  | .vsfu2Sigm o => okA o qF k0 .v .v .no
  | .vsfu2Gelut o => okA o qF k0 .v .v .no
  | .vsfu2Gelue o => okA o qF k0 .v .v .no
  | .vsfu2Silu o => okA o qF k0 .v .v .no
  | .vsfu2Erf o => okA o qF k0 .v .v .no
  | .vsfu2Softp o => okA o qF k0 .v .v .no
  | .vmovMov o => okA o qE k0 .v .v .no
  | .vmovBcast o => okA o qE k0 .v .x .no
  | .vmovIns o => okA o qE k0 .v .x .x
  | .vmovExt o => okA o qE k0 .x .v .x && o.pr == 0
  | .vpermPerm o => okA o q5 k0 .v29 .v .v
  | .vpermZiplo o => okA o qE k0 .v .v .v
  | .vpermZiphi o => okA o qE k0 .v .v .v
  | .vpermUzpe o => okA o qE k0 .v .v .v
  | .vpermUzpo o => okA o qE k0 .v .v .v
  | .vpermSplat o => okA o qE k0 .v .v .x
  | .vpermRev o => okA o qE k0 .v .v .no
  | .vlinkPop o => okA o q01 k0 .v29 .link .no
  | .vlinkPeek o => okA o q0 k0 .v29 .link .no
  | .vlinkSkip o => okA o q01 k0 .no .link .no && o.pr == 0
  | .sendX o => okA o q0 kBoth .no .x .x
  | .sendV o => okA o qE k0 .no .x .v
  | .sendNz o => okA o qE k0 .x .x .v
  | .recvW o => okA o q0 k0 .x .no .no
  | .recvTry o => okA o q0 k0 .x .no .p
  | .recvHdr o => okA o q0 k0 .x .no .no
  | .recvDrop o => okA o q0 k0 .no .no .no
  | .chanSlot o => okA o q0 kBoth .x (.lit 16) .x
  | .chanHdr o => okA o q0 kBoth .x (.lit 8) .x
  | .chanCnt o => okA o q0 kBoth .x (.lit 16) .no
  | .barInit o => okA o q0 kBoth .no (.lit 4) .x
  | .barArrive o => okA o q0 kBoth .x (.lit 4) .no
  | .barWait o => okA o q0 kBoth .no (.lit 4) .no
  | .barSync o => okA o q0 kBoth .x (.lit 4) .no
  | .barQuery o => okA o q0 kBoth .x (.lit 4) .no
  | .ldB o => okA o.o q0 kBoth .x .x .x && polLow o
  | .ldH o => okA o.o q0 kBoth .x .x .x && polLow o
  | .ldW o => okA o.o q0 kBoth .x .x .x && polLow o
  | .ldD o => okA o.o q0 kBoth .x .x .x && polLow o
  | .ldBs o => okA o.o q0 kBoth .x .x .x && polLow o
  | .ldHs o => okA o.o q0 kBoth .x .x .x && polLow o
  | .ldWs o => okA o.o q0 kBoth .x .x .x && polLow o
  | .stB o => okA o.o q0 kBoth .x .x .x && polLow o
  | .stH o => okA o.o q0 kBoth .x .x .x && polLow o
  | .stW o => okA o.o q0 kBoth .x .x .x && polLow o
  | .stD o => okA o.o q0 kBoth .x .x .x && polLow o
  | .vldV o => okA o.o qE k0 .v .x .x && polLow o
  | .vldBc o => okA o.o qE k0 .v .x .x && polLow o
  | .vstV o => okA o.o qE k0 .v .x .x && polLow o
  | .vstE o => okA o.o qE k0 .v .x .x && polLow o
  | .ldfKeep o => okA o.o q0 kBoth .x .x .x && polLow o
  | .ldfTake o => okA o.o q0 kBoth .x .x .x && polLow o
  | .steFill o => okA o.o q0 kBoth .x .x .x && polLow o
  | .steKeep o => okA o.o q0 kBoth .x .x .x && polLow o
  | .feTest o => okA o q0 kBoth .p .x .no
  | .feSet o => okA o q0 kBoth .no .x .no
  | .feClr o => okA o q0 kBoth .no .x .no
  | .feTas o => okA o q0 kBoth .p .x .no
  | .feSetr o => okA o q0 kBoth .no .x .x
  | .feClrr o => okA o q0 kBoth .no .x .x
  | .waitLe o => okA o q04 k0 .no .no .any
  | .waitLex o => okA o q04 k0 .no .no .x
  | .cachePf o => okA o.o q0 kBoth .no .x .no && noSx o && noPol o
  | .cachePfl1 o => okA o.o q0 kBoth .no .x .no && noSx o && noPol o
  | .cacheNu o => okA o.o q0 kBoth .no .x .no && noSx o && noPol o
  | .cacheWb o => okA o.o q0 kBoth .no .x .no && noSx o && noPol o && noNu o
  | .cacheWbinv o => okA o.o q0 kBoth .no .x .no && noSx o && noPol o && noNu o
  | .rclkRead o => okA o.o q0 kBoth .x .no .no && o.imm == 0
  | .rclkAdv o => okA o.o q0 kBoth .no .no .no && 1 <= o.imm.toNat && o.imm.toNat <= 131072
  | .rclkDflt o => okA o.o q0 k0 .no .no .no && rclkDflt o.imm
  | .pinWin o => okA o.o q0 kBoth .x .x .x && noSx o && noPol o && noNu o
  | .pinSize o => okA o.o q0 kBoth .x .x .no && noSx o && noPol o && noNu o
  | .amoAdd o => okA o.o q01 kBoth .x .x .x && noSx o && noPol o
  | .amoAddb o => okA o.o qAll kBoth .x .x .x && noSx o && noPol o
  | .amoMin o => okA o.o q03 kBoth .x .x .x && noSx o && noPol o
  | .amoMax o => okA o.o q03 kBoth .x .x .x && noSx o && noPol o
  | .amoAnd o => okA o.o q01 kBoth .x .x .x && noSx o && noPol o
  | .amoOr o => okA o.o q01 kBoth .x .x .x && noSx o && noPol o
  | .amoXor o => okA o.o q01 kBoth .x .x .x && noSx o && noPol o
  | .amoSwap o => okA o.o q01 kBoth .x .x .x && noSx o && noPol o
  | .cas o => okA o.o q01 kBoth .x .x .x && noSx o && noPol o
  | .redAdd o => okA o.o q01 kBoth .no .x .x && noSx o && polRed o
  | .redMin o => okA o.o q03 kBoth .no .x .x && noSx o && polRed o
  | .redMax o => okA o.o q03 kBoth .no .x .x && noSx o && polRed o
  | .redAnd o => okA o.o q01 kBoth .no .x .x && noSx o && polRed o
  | .redOr o => okA o.o q01 kBoth .no .x .x && noSx o && polRed o
  | .redXor o => okA o.o q01 kBoth .no .x .x && noSx o && polRed o
  | .redFmin o => okA o.o q0 kBoth .no .x .x && noSx o && polRed o
  | .redFmax o => okA o.o q0 kBoth .no .x .x && noSx o && polRed o
  | .xlatProbe o => okA o.o q03 kBoth .x .x .no && noSx o && noPol o && noNu o
  | .xlatTouch o => okA o.o q03 kBoth .x .x .no && noSx o && noPol o && noNu o
  | .xlatInv o => okA o.o q0 kBoth .no .x .no && noSx o && noPol o && noNu o
  | .fenceOrd o => okA o qAll k0 .no .any .any
  | .trap o => o.d == 0
  | .sysR o => o.d != 0 && o.a == 0 && sysReadable o.imm.toNat
  | .sysW o => o.d == 0 && sysWritable o.imm.toNat
  | .taskMma o => okA o.o q04 kBoth .x (.blk 9) .any && taskMma o
  | .taskMmav o => okA o.o q04 kBoth .x (.blk 11) .any && taskMma o
  | .taskEw o => okA o.o q04 kBoth .x (.blk 9) .any && taskEw o
  | .taskRed o => okA o.o q04 kBoth .x (.blk 9) .any && taskRed o
  | .taskCvt o => okA o.o q04 kBoth .x (.blk 9) .any && taskCvt o
  | .taskTr o => okA o.o q04 kBoth .x (.blk 9) .any && taskTr o
  | .vstopCur o => okA o.o q0 kBoth .x .x .no && o.imm == 0
  | .vwaitVer o => okA o.o q0 kBoth .x .x .no && 1 <= o.imm.toNat && o.imm.toNat <= 15
  | .vwaitFin o => okA o.o q0 kBoth .x .x .no && o.imm == 0
  | .vwaitSet o => okA o.o q0 kBoth .x .no .no && o.imm.toNat <= 0xFFF
  | .vwaitSets o => okA o.o q0 kBoth .x .x .no && o.imm.toNat <= 0xFFF
  | .vwaitPoll o => okA o.o q0 kBoth .x .x .no && o.imm == 0
  | .cbldMe o => okA o.o q0 kBoth .x (.blk 2) .no && cbld o
  | .cbldNb o => okA o.o q0 kBoth .x (.blk 2) .no && cbld o
  | .copyCp o => okA o.o q04 kBoth .x (.blk 6) .any && copyConv o && o.fb == 0 && o.ver == 0
  | .copyFill o => okA o.o q0 kBoth .x (.blk 5) .no && o.fo == 0 && o.fb == 0 && o.shape == 0 && o.ver == 0 && o.nur == 0
  | .copyChan o => okA o.o q04 kBoth .x (.blk 6) .any && copyConv o && o.fb == 0 && o.ver == 0 && o.nuw == 0
  | .copyStat o => okA o.o q0 kBoth .x (.blk 1) .no && w1Zero o
  | .copyRsm o => okA o.o q0 kBoth .x (.blk 1) .no && w1Zero o
  | .copyAbrt o => okA o.o q0 kBoth .x (.blk 1) .no && w1Zero o
  | .gatherG o => okA o.o q0 kBoth .x (.blk 6) .no && o.fo == 0 && o.fb == 0 && o.ver == 0 && o.shape.toNat <= 1
  | .gatherS o => okA o.o q0 kBoth .x (.blk 6) .no && o.fo == 0 && o.fb == 0 && o.ver == 0 && o.shape.toNat <= 1
  | .twalkLd o => okA o.o q0 kBoth .x (.blk 6) .no && o.fo == 0 && o.fb == 0 && o.ver == 0 && o.shape == 0 && o.nuw == 0
  | .twalkWb o => okA o.o q0 kBoth .x (.blk 6) .no && o.fo == 0 && o.fb == 0 && o.ver == 0 && o.shape == 0 && o.nur == 0
  | .nbmvMv o => okA o.o q03 kBoth .x (.blk 7) (.lit 2) && o.fo.toNat <= 2 && o.fb == 0 && o.shape.toNat <= 3 && o.ver.toNat <= 1 && o.sg == 0
  | .attnBlk o => okA o.o q0 kBoth .x (.blk 8) .any && (o.o.b == 1 || o.o.b == 2) && o.fo == 0 && attnRest o
  | .attnMrg o => okA o.o q01 kBoth .x (.blk 4) .no && (if o.o.q == 0 then o.fo == 0 else o.fo.toNat <= 2) && attnRest o
  | .sampleHist o => okA o.o q0 kBoth .x (.blk 10) .no && sampleRest o
  | .sampleThr o => okA o.o q0 kBoth .x (.blk 9) .no && sampleRest o
  | .sampleMass o => okA o.o q0 kBoth .x (.blk 10) .no && sampleRest o
  | .sampleDraw o => okA o.o q0 kBoth .x (.blk 9) .no && sampleRest o
  | .textNorm o => okA o.o q0 kBoth .x (.blk 7) .no && o.shape.toNat <= 1 && textRest o
  | .textTbl o => okA o.o q0 kBoth .x (.blk 6) .no && o.shape == 0 && o.nuw == 0 && o.guard == 0 && textRest o
  | .aMoviLo o => o.y == 0 && o.z == 0 && o.w == 0 && o.m == 0
  | .aMoviHi o => o.y == 0 && o.z == 0 && o.w == 0 && o.m == 1
  | .aMoviZ o => o.y == 0 && o.z == 0 && o.w == 0 && o.m == 2
  | .aMov o => o.z == 0 && o.w == 0 && o.imm == 0 && o.m == 0
  | .aAdd o => o.w == 0 && agentSrc o && o.m.toNat <= 1
  | .aSub o => o.w == 0 && agentSrc o && o.m.toNat <= 1
  | .aAnd o => o.w == 0 && agentSrc o && o.m.toNat <= 1
  | .aOr o => o.w == 0 && agentSrc o && o.m.toNat <= 1
  | .aXor o => o.w == 0 && agentSrc o && o.m.toNat <= 1
  | .aShl o => o.w == 0 && agentSrc o && o.m.toNat <= 1
  | .aShr o => o.w == 0 && agentSrc o && o.m.toNat <= 3
  | .aMul o => o.w == 0 && agentSrc o && o.m.toNat <= 1
  | .aCmp o => o.w == 0 && agentSrc o && o.m.toNat <= 11
  | .aBr o => o.x == 0 && o.z == 0 && o.w == 0 && o.m.toNat <= 1 && agentTarget o
  | .aJmp o => o.x == 0 && o.y == 0 && o.z == 0 && o.w == 0 && o.m == 0 && agentTarget o
  | .aCall o => o.y == 0 && o.z == 0 && o.w == 0 && o.m == 0 && agentTarget o
  | .aRet o => o.x == 0 && o.z == 0 && o.w == 0 && o.imm == 0 && o.m == 0
  | .aLd o => o.z == 0 && o.w == 0 && o.m.toNat <= 3
  | .aSt o => o.z == 0 && o.w == 0 && o.m.toNat <= 3
  | .aWaitPend o => o.x == 0 && o.z == 0 && o.w == 0 && o.imm == 0 && o.m == 0
  | .aWaitSig o => o.z == 0 && o.w == 0 && o.imm == 0 && o.m == 1
  | .aWaitAll o => o.x == 0 && o.y == 0 && o.z == 0 && o.w == 0 && o.imm == 0 && o.m == 2
  | .aSigSlot o => o.x == 0 && o.w == 0 && o.imm == 0 && o.m == 0
  | .aSigHost o => o.x == 0 && o.z == 0 && o.w == 0 && o.imm == 0 && o.m == 1
  | .aYield o => o.x == 0 && o.y == 0 && o.z == 0 && o.w == 0 && o.imm == 0 && o.m == 0
  | .aHalt o => o.x == 0 && o.z == 0 && o.w == 0 && o.imm == 0 && o.m == 0
  | .aKlaunch o => o.z == 0 && o.w == 0 && o.imm == 0 && o.m == 0
  | .aFence o => o.x == 0 && o.y == 0 && o.z == 0 && o.w == 0 && o.imm == 0 && o.m == 0
  | .cNew o => o.z == 0 && o.w == 0 && o.imm == 0 && o.m == 0
  | .cFork o => o.w == 0 && o.imm == 0 && o.m == 0
  | .cDrop o => o.y == 0 && o.z == 0 && o.w == 0 && o.imm == 0 && o.m == 0
  | .cTrim o => o.w == 0 && o.imm == 0 && o.m == 0
  | .cLen o => o.z == 0 && o.w == 0 && o.imm == 0 && o.m.toNat <= 2
  | .cRead o => o.m == 0 && 1 <= o.imm.toNat && o.imm.toNat <= 65536
  | .cHint o => o.z == 0 && o.w == 0 && o.imm == 0 && o.m == 0
  | .cPin o => o.z == 0 && o.w == 0 && o.imm == 0 && o.m == 0
  | .cUnpin o => o.y == 0 && o.z == 0 && o.w == 0 && o.imm == 0 && o.m == 0
  | .cProg o => o.w == 0 && o.imm == 0 && o.m == 0
  | .cBind o => o.w == 0 && o.imm == 0 && o.m == 0
  | .cGram o => o.w == 0 && o.m == 0
  | .cSamp o => o.z == 0 && o.w == 0 && o.imm == 0 && o.m == 0
  | .cApp o => o.imm == 0 && o.m.toNat <= 15
  | .cGen o => o.w == 0 && o.m.toNat <= 1 && (o.m == 1 || o.imm == 0)
  | .cScore o => o.m.toNat <= 1
  | .cChoose o => o.m.toNat <= 1
  | .cSpec o => o.m.toNat <= 127 && (o.m.getLsbD 6 || o.imm == 0)
  | .powerOn => false
  | .partReady _ => false
  | .registerWrite _ _ _ _ _ => false
  | .partStatusErrorClear => false
  | .groupAssign _ _ => false
  | .groupZeroingDone _ => false
  | .groupRemove _ _ => false
  | .formatRangeWrite _ _ _ => false
  | .tenantBlockWrite _ _ _ => false
  | .clusterLeavePartition _ _ => false
  | .pcmdPreempt _ _ => false
  | .pcmdPreemptUrgent _ _ => false
  | .pcmdResume _ _ => false
  | .contextSave _ _ => false
  | .contextRestore _ _ => false
  | .vcmdReady _ => false
  | .vcmdReset _ => false
  | .functionLevelReset _ => false
  | .suplWrite _ _ => false
  | .lqDoorbell _ _ => false
  | .launchAccept _ _ => false
  | .launchProceed _ => false
  | .levelTakeContext _ _ => false
  | .repeatInstanceFinish _ _ => false
  | .firingBind _ => false
  | .starvationClose _ => false
  | .commitTakeEffect _ => false
  | .watchdogExpiry _ => false
  | .recordWrite _ _ => false
  | .messageDeliver _ => false
  | .messageFillSlot _ _ => false
  | .launchComplete _ => false
  | .hardwareError _ _ _ => false
  | .explicitStorePerform _ _ _ => false
  | .explicitLoadPerform _ _ _ => false
  | .loadDataReturn _ _ _ _ => false
  | .feWaiterServe _ => false
  | .clockBroadcast _ _ => false
  | .credibilityWindowClose _ => false
  | .invWrite _ _ => false
  | .invalidationComplete _ => false
  | .priRestart _ _ => false
  | .frerrRead _ => false
  | .apertureAccess _ _ _ _ _ => false
  | .slotStart _ => false
  | .slotStop _ => false
  | .slotResume _ => false
  | .slotReset _ => false
  | .sigWrite _ _ => false
  | .membershipWrite _ _ => false
  | .atsInvalidateRequest _ _ _ _ => false
  | .translationCompletion _ _ _ _ _ _ => false
  | .prgResponse _ _ => false
  | .pageRequestTimeout _ => false
  | .hostCompletionError _ _ _ => false
  | .flitCrcError _ => false
  | .linkDown _ => false
  | .remotePacketPerform _ => false
  | .remoteReply _ _ _ _ _ => false
  | .remotePostedFault _ _ _ => false
  | .flushMarkerArrive _ => false
  | .flushAnswerArrive _ => false
  | .engineCommandStart _ => false
  | .enginePark _ => false
  | .engineCommandComplete _ => false
  | .engineCommandFault _ _ => false
  | .enginePreemptStop _ => false
  | .nbmvPublish _ => false
  | .taskAccept _ => false
  | .taskIssue _ => false
  | .taskPublish _ => false
  | .taskRefire _ => false
  | .taskRetire _ => false
  | .taskFault _ _ => false
  | .engineHwRerun _ => false
  | .taskPreemptStop _ => false
  | .stepFill _ _ => false
  | .stepCommit _ _ => false
  | .evictionStart _ => false
  | .evictionCommit _ _ => false
  | .promotionStart _ => false
  | .promotionComplete _ _ _ => false
  | .integrityFailure _ _ => false
  | .blockRehome _ _ _ => false
  | .tresolveWrite _ _ => false
  | .vfEnable _ => false
  | .illegalEncoding _ _ => false
  | .instructionFetchFault _ _ _ => false
  | .agentIllegalWord _ => false
  | .agentFetchFault => false
  | .windowUncorrectableError _ _ _ => false
  | .clusterUnitFailure _ => false
  | .coherentStorePerform _ _ _ => false

/-- The registers that an instruction names, with the file each lies in, for the interlocks of R58 and R140. -/
def touched : Instr → List RegRef
  | .aluAdd o => regsA o .x .x .x ++ govReg o
  | .aluSub o => regsA o .x .x .x ++ govReg o
  | .aluAnd o => regsA o .x .x .x ++ govReg o
  | .aluOr o => regsA o .x .x .x ++ govReg o
  | .aluXor o => regsA o .x .x .x ++ govReg o
  | .aluShl o => regsA o .x .x .x ++ govReg o
  | .aluShr o => regsA o .x .x .x ++ govReg o
  | .aluSra o => regsA o .x .x .x ++ govReg o
  | .alui o => [.x o.d.toNat, .x o.a.toNat, .p false o.pr.toNat]
  | .muldivMul o => regsA o .x .x .x ++ govReg o
  | .muldivMulh o => regsA o .x .x .x ++ govReg o
  | .muldivMulhu o => regsA o .x .x .x ++ govReg o
  | .muldivDiv o => regsA o .x .x .x ++ govReg o
  | .muldivDivu o => regsA o .x .x .x ++ govReg o
  | .muldivRem o => regsA o .x .x .x ++ govReg o
  | .muldivRemu o => regsA o .x .x .x ++ govReg o
  | .bitsClz o => regsA o .x .x .no ++ govReg o
  | .bitsCtz o => regsA o .x .x .no ++ govReg o
  | .bitsPopc o => regsA o .x .x .no ++ govReg o
  | .bitsBrev o => regsA o .x .x .no ++ govReg o
  | .bitsBswap o => regsA o .x .x .no ++ govReg o
  | .bitsExtu o => regsA o .x .x .x ++ govReg o
  | .bitsExts o => regsA o .x .x .x ++ govReg o
  | .bitsRotr o => regsA o .x .x .x ++ govReg o
  | .minmaxMin o => regsA o .x .x .x ++ govReg o
  | .minmaxMax o => regsA o .x .x .x ++ govReg o
  | .minmaxMinu o => regsA o .x .x .x ++ govReg o
  | .minmaxMaxu o => regsA o .x .x .x ++ govReg o
  | .minmaxAbs o => regsA o .x .x .no ++ govReg o
  | .minmaxAdds o => regsA o .x .x .x ++ govReg o
  | .minmaxSubs o => regsA o .x .x .x ++ govReg o
  | .cmpEq o => regsA o .p .x .x ++ govReg o
  | .cmpNe o => regsA o .p .x .x ++ govReg o
  | .cmpLt o => regsA o .p .x .x ++ govReg o
  | .cmpGe o => regsA o .p .x .x ++ govReg o
  | .cmpLtu o => regsA o .p .x .x ++ govReg o
  | .cmpGeu o => regsA o .p .x .x ++ govReg o
  | .cmpTst o => regsA o .p .x .x ++ govReg o
  | .cmpiEq o => [.x o.a.toNat, .p false o.d.toNat, .p false o.pr.toNat]
  | .cmpiNe o => [.x o.a.toNat, .p false o.d.toNat, .p false o.pr.toNat]
  | .cmpiLt o => [.x o.a.toNat, .p false o.d.toNat, .p false o.pr.toNat]
  | .cmpiLtu o => [.x o.a.toNat, .p false o.d.toNat, .p false o.pr.toNat]
  | .plogAnd o => regsA o .p .p .p ++ govReg o
  | .plogOr o => regsA o .p .p .p ++ govReg o
  | .plogXor o => regsA o .p .p .p ++ govReg o
  | .plogAndn o => regsA o .p .p .p ++ govReg o
  | .plogNot o => regsA o .p .p .no ++ govReg o
  | .plogSetx o => regsA o .p .x .no ++ govReg o
  | .plogGetx o => regsA o .x .p .no ++ govReg o
  | .gmovGet o => regsA o .g .x .no ++ govReg o
  | .gmovAgree o => regsA o .g .x .no ++ govReg o
  | .gmovPut o => regsA o .x .g .no ++ govReg o
  | .gmovAny o => regsA o .gp .p .no ++ govReg o
  | .gmovAll o => regsA o .gp .p .no ++ govReg o
  | .gmovCount o => regsA o .g .p .no ++ govReg o
  | .idLvl o => regsA o .x .no .no ++ govReg o
  | .idCore o => regsA o .x .no .no ++ govReg o
  | .idGpos o => regsA o .x .no .no ++ govReg o
  | .idGwid o => regsA o .x .no .no ++ govReg o
  | .idClus o => regsA o .x .no .no ++ govReg o
  | .idCnt o => regsA o .x .no .no ++ govReg o
  | .idLane o => regsA o .v .no .no ++ govReg o
  | .idPkg o => regsA o .x .no .no ++ govReg o
  | .br o => [.p (o.lo.getLsbD 4) (o.lo.toNat % 8)]
  | .jal o => [.x o.lo.toNat]
  | .jr o => regsA o .x .x .no ++ govReg o
  | .endCommit o => regsA o .no .no .no ++ govReg o
  | .endRetry o => regsA o .no .no .no ++ govReg o
  | .endFail o => regsA o .no .no .no ++ govReg o
  | .regionOpen o => regsA o .no .x .no ++ govReg o
  | .regionClose o => regsA o .no .no .no ++ govReg o
  | .gangSplit _ => []
  | .gangFuse _ => []
  | .gangAlign _ => []
  | .moviLo o => regsA o.o .x .no .no ++ govReg o.o
  | .moviHi o => regsA o.o .x .no .no ++ govReg o.o
  | .moviZ o => regsA o.o .x .no .no ++ govReg o.o
  | .alulAdd o => regsA o.o .x .x .no ++ govReg o.o
  | .alulAnd o => regsA o.o .x .x .no ++ govReg o.o
  | .alulOr o => regsA o.o .x .x .no ++ govReg o.o
  | .alulXor o => regsA o.o .x .x .no ++ govReg o.o
  | .alulShl o => regsA o.o .x .x .no ++ govReg o.o
  | .alulShr o => regsA o.o .x .x .no ++ govReg o.o
  | .alulSra o => regsA o.o .x .x .no ++ govReg o.o
  | .varithAdd o => regsA o .v .v .v ++ maskReg o
  | .varithSub o => regsA o .v .v .v ++ maskReg o
  | .varithMul o => regsA o .v .v .v ++ maskReg o
  | .varithMin o => regsA o .v .v .v ++ maskReg o
  | .varithMax o => regsA o .v .v .v ++ maskReg o
  | .varithAdds o => regsA o .v .v .v ++ maskReg o
  | .varithSubs o => regsA o .v .v .v ++ maskReg o
  | .varithAbs o => regsA o .v .v .no ++ maskReg o
  | .vfmaFma o => regsA o .v .v .v ++ maskReg o
  | .vfmaFms o => regsA o .v .v .v ++ maskReg o
  | .vfmaFnma o => regsA o .v .v .v ++ maskReg o
  | .vfmaFnms o => regsA o .v .v .v ++ maskReg o
  | .vdotBf16 o => regsA o .v .v .v ++ maskReg o
  | .vdotFp16 o => regsA o .v .v .v ++ maskReg o
  | .vdotE4m3 o => regsA o .v .v .v ++ maskReg o
  | .vdotE5m2 o => regsA o .v .v .v ++ maskReg o
  | .vdotI8 o => regsA o .v .v .v ++ maskReg o
  | .vdotU8 o => regsA o .v .v .v ++ maskReg o
  | .vdotI8u8 o => regsA o .v .v .v ++ maskReg o
  | .vredAdd o => regsA o .v .v .no ++ maskReg o
  | .vredMin o => regsA o .v .v .no ++ maskReg o
  | .vredMax o => regsA o .v .v .no ++ maskReg o
  | .vredAddw o => regsA o .v .v .no ++ maskReg o
  | .vredAnd o => regsA o .v .v .no ++ maskReg o
  | .vredOr o => regsA o .v .v .no ++ maskReg o
  | .vredXor o => regsA o .v .v .no ++ maskReg o
  | .vredImax o => regsA o .v .v .no ++ maskReg o
  | .vlogicAnd o => regsA o .v .v .v ++ maskReg o
  | .vlogicOr o => regsA o .v .v .v ++ maskReg o
  | .vlogicXor o => regsA o .v .v .v ++ maskReg o
  | .vlogicAndn o => regsA o .v .v .v ++ maskReg o
  | .vlogicNot o => regsA o .v .v .no ++ maskReg o
  | .vlogicShl o => regsA o .v .v .v ++ maskReg o
  | .vlogicShr o => regsA o .v .v .v ++ maskReg o
  | .vlogicSra o => regsA o .v .v .v ++ maskReg o
  | .vcmpEq o => regsA o .p .v .v ++ maskReg o
  | .vcmpNe o => regsA o .p .v .v ++ maskReg o
  | .vcmpLt o => regsA o .p .v .v ++ maskReg o
  | .vcmpLe o => regsA o .p .v .v ++ maskReg o
  | .vcmpLtu o => regsA o .p .v .v ++ maskReg o
  | .vcmpLeu o => regsA o .p .v .v ++ maskReg o
  | .vcmpUn o => regsA o .p .v .v ++ maskReg o
  | .vselSel o => regsA o .v .v .v ++ maskReg o
  | .vselZero o => regsA o .v .v .no ++ maskReg o
  | .vselCmpr o => regsA o .v .v .no ++ maskReg o
  | .vselExpd o => regsA o .v .v .no ++ maskReg o
  | .vcvtRne o => regsA o .v .v .any ++ maskReg o
  | .vcvtRtz o => regsA o .v .v .any ++ maskReg o
  | .vcvtRup o => regsA o .v .v .any ++ maskReg o
  | .vcvtRdn o => regsA o .v .v .any ++ maskReg o
  | .vcvtSto o => regsA o .v .v .any ++ maskReg o ++ [.x 29, .x 30, .x 31]
  | .vcvtWide o => regsA o .v .v .any ++ maskReg o
  | .vscaleLdexp o => regsA o .v .v .v ++ maskReg o
  | .vscaleMx o => regsA o .v .v .v ++ maskReg o
  | .vscaleSb4 o => regsA o .v .v .v ++ maskReg o
  | .vscaleCb o => regsA o .v .v .v ++ maskReg o
  | .vcbDec o => regsA o .v .v .no ++ maskReg o
  | .vsfuExp2 o => regsA o .v .v .no ++ maskReg o
  | .vsfuLog2 o => regsA o .v .v .no ++ maskReg o
  | .vsfuRcp o => regsA o .v .v .no ++ maskReg o
  | .vsfuRsqrt o => regsA o .v .v .no ++ maskReg o
  | .vsfuSqrt o => regsA o .v .v .no ++ maskReg o
  | .vsfuSin o => regsA o .v .v .no ++ maskReg o
  | .vsfuCos o => regsA o .v .v .no ++ maskReg o
  | .vsfuTanh o => regsA o .v .v .no ++ maskReg o
  | .vsfu2Sigm o => regsA o .v .v .no ++ maskReg o
  | .vsfu2Gelut o => regsA o .v .v .no ++ maskReg o
  | .vsfu2Gelue o => regsA o .v .v .no ++ maskReg o
  | .vsfu2Silu o => regsA o .v .v .no ++ maskReg o
  | .vsfu2Erf o => regsA o .v .v .no ++ maskReg o
  | .vsfu2Softp o => regsA o .v .v .no ++ maskReg o
  | .vmovMov o => regsA o .v .v .no ++ maskReg o
  | .vmovBcast o => regsA o .v .x .no ++ maskReg o
  | .vmovIns o => regsA o .v .x .x ++ maskReg o
  | .vmovExt o => regsA o .x .v .x ++ maskReg o
  | .vpermPerm o => regsA o .v29 .v .v ++ maskReg o
  | .vpermZiplo o => regsA o .v .v .v ++ maskReg o
  | .vpermZiphi o => regsA o .v .v .v ++ maskReg o
  | .vpermUzpe o => regsA o .v .v .v ++ maskReg o
  | .vpermUzpo o => regsA o .v .v .v ++ maskReg o
  | .vpermSplat o => regsA o .v .v .x ++ maskReg o
  | .vpermRev o => regsA o .v .v .no ++ maskReg o
  | .vlinkPop o => regsA o .v29 .link .no ++ fwdLink o ++ maskReg o
  | .vlinkPeek o => regsA o .v29 .link .no ++ maskReg o
  | .vlinkSkip o => regsA o .no .link .no ++ fwdLink o ++ maskReg o
  | .sendX o => regsA o .no .x .x ++ govReg o
  | .sendV o => regsA o .no .x .v ++ govReg o
  | .sendNz o => regsA o .x .x .v ++ govReg o
  | .recvW o => regsA o .x .no .no ++ govReg o
  | .recvTry o => regsA o .x .no .p ++ govReg o
  | .recvHdr o => regsA o .x .no .no ++ govReg o
  | .recvDrop o => regsA o .no .no .no ++ govReg o
  | .chanSlot o => regsA o .x (.lit 16) .x ++ govReg o
  | .chanHdr o => regsA o .x (.lit 8) .x ++ govReg o
  | .chanCnt o => regsA o .x (.lit 16) .no ++ govReg o
  | .barInit o => regsA o .no (.lit 4) .x ++ govReg o
  | .barArrive o => regsA o .x (.lit 4) .no ++ govReg o
  | .barWait o => regsA o .no (.lit 4) .no ++ govReg o
  | .barSync o => regsA o .x (.lit 4) .no ++ govReg o
  | .barQuery o => regsA o .x (.lit 4) .no ++ govReg o
  | .ldB o => regsA o.o .x .x .x ++ govReg o.o
  | .ldH o => regsA o.o .x .x .x ++ govReg o.o
  | .ldW o => regsA o.o .x .x .x ++ govReg o.o
  | .ldD o => regsA o.o .x .x .x ++ govReg o.o
  | .ldBs o => regsA o.o .x .x .x ++ govReg o.o
  | .ldHs o => regsA o.o .x .x .x ++ govReg o.o
  | .ldWs o => regsA o.o .x .x .x ++ govReg o.o
  | .stB o => regsA o.o .x .x .x ++ govReg o.o
  | .stH o => regsA o.o .x .x .x ++ govReg o.o
  | .stW o => regsA o.o .x .x .x ++ govReg o.o
  | .stD o => regsA o.o .x .x .x ++ govReg o.o
  | .vldV o => regsA o.o .v .x .x ++ maskReg o.o
  | .vldBc o => regsA o.o .v .x .x ++ maskReg o.o
  | .vstV o => regsA o.o .v .x .x ++ maskReg o.o
  | .vstE o => regsA o.o .v .x .x ++ maskReg o.o
  | .ldfKeep o => regsA o.o .x .x .x ++ govReg o.o
  | .ldfTake o => regsA o.o .x .x .x ++ govReg o.o
  | .steFill o => regsA o.o .x .x .x ++ govReg o.o
  | .steKeep o => regsA o.o .x .x .x ++ govReg o.o
  | .feTest o => regsA o .p .x .no ++ govReg o
  | .feSet o => regsA o .no .x .no ++ govReg o
  | .feClr o => regsA o .no .x .no ++ govReg o
  | .feTas o => regsA o .p .x .no ++ govReg o
  | .feSetr o => regsA o .no .x .x ++ govReg o
  | .feClrr o => regsA o .no .x .x ++ govReg o
  | .waitLe o => regsA o .no .no .any ++ govReg o
  | .waitLex o => regsA o .no .no .x ++ govReg o
  | .cachePf o => regsA o.o .no .x .no ++ govReg o.o
  | .cachePfl1 o => regsA o.o .no .x .no ++ govReg o.o
  | .cacheNu o => regsA o.o .no .x .no ++ govReg o.o
  | .cacheWb o => regsA o.o .no .x .no ++ govReg o.o
  | .cacheWbinv o => regsA o.o .no .x .no ++ govReg o.o
  | .rclkRead o => regsA o.o .x .no .no ++ govReg o.o
  | .rclkAdv o => regsA o.o .no .no .no ++ govReg o.o
  | .rclkDflt o => regsA o.o .no .no .no ++ govReg o.o
  | .pinWin o => regsA o.o .x .x .x ++ govReg o.o
  | .pinSize o => regsA o.o .x .x .no ++ govReg o.o
  | .amoAdd o => regsA o.o .x .x .x ++ govReg o.o
  | .amoAddb o => regsA o.o .x .x .x ++ govReg o.o ++ [.p (k1 o.o) o.o.q.toNat]
  | .amoMin o => regsA o.o .x .x .x ++ govReg o.o
  | .amoMax o => regsA o.o .x .x .x ++ govReg o.o
  | .amoAnd o => regsA o.o .x .x .x ++ govReg o.o
  | .amoOr o => regsA o.o .x .x .x ++ govReg o.o
  | .amoXor o => regsA o.o .x .x .x ++ govReg o.o
  | .amoSwap o => regsA o.o .x .x .x ++ govReg o.o
  | .cas o => regsA o.o .x .x .x ++ govReg o.o
  | .redAdd o => regsA o.o .no .x .x ++ govReg o.o
  | .redMin o => regsA o.o .no .x .x ++ govReg o.o
  | .redMax o => regsA o.o .no .x .x ++ govReg o.o
  | .redAnd o => regsA o.o .no .x .x ++ govReg o.o
  | .redOr o => regsA o.o .no .x .x ++ govReg o.o
  | .redXor o => regsA o.o .no .x .x ++ govReg o.o
  | .redFmin o => regsA o.o .no .x .x ++ govReg o.o
  | .redFmax o => regsA o.o .no .x .x ++ govReg o.o
  | .xlatProbe o => regsA o.o .x .x .no ++ govReg o.o
  | .xlatTouch o => regsA o.o .x .x .no ++ govReg o.o
  | .xlatInv o => regsA o.o .no .x .no ++ govReg o.o
  | .fenceOrd o => regsA o .no .any .any ++ govReg o
  | .trap o => [.x o.a.toNat, .p false o.pr.toNat]
  | .sysR o => [.x o.d.toNat, .x o.a.toNat, .p false o.pr.toNat]
  | .sysW o => [.x o.d.toNat, .x o.a.toNat, .p false o.pr.toNat]
  | .taskMma o => regsA o.o .x (.blk 9) .any ++ govReg o.o ++ guardRegs o
  | .taskMmav o => regsA o.o .x (.blk 11) .any ++ govReg o.o ++ guardRegs o
  | .taskEw o => regsA o.o .x (.blk 9) .any ++ govReg o.o ++ guardRegs o
  | .taskRed o => regsA o.o .x (.blk 9) .any ++ govReg o.o ++ guardRegs o
  | .taskCvt o => regsA o.o .x (.blk 9) .any ++ govReg o.o ++ guardRegs o
  | .taskTr o => regsA o.o .x (.blk 9) .any ++ govReg o.o ++ guardRegs o
  | .vstopCur o => regsA o.o .x .x .no ++ govReg o.o
  | .vwaitVer o => regsA o.o .x .x .no ++ govReg o.o
  | .vwaitFin o => regsA o.o .x .x .no ++ govReg o.o
  | .vwaitSet o => regsA o.o .x .no .no ++ govReg o.o
  | .vwaitSets o => regsA o.o .x .x .no ++ govReg o.o
  | .vwaitPoll o => regsA o.o .x .x .no ++ govReg o.o
  | .cbldMe o => regsA o.o .x (.blk 2) .no ++ govReg o.o ++ guardRegs o
  | .cbldNb o => regsA o.o .x (.blk 2) .no ++ govReg o.o ++ guardRegs o
  | .copyCp o => regsA o.o .x (.blk 6) .any ++ govReg o.o ++ guardRegs o
  | .copyFill o => regsA o.o .x (.blk 5) .no ++ govReg o.o ++ guardRegs o
  | .copyChan o => regsA o.o .x (.blk 6) .any ++ govReg o.o ++ guardRegs o
  | .copyStat o => regsA o.o .x (.blk 1) .no ++ govReg o.o ++ guardRegs o
  | .copyRsm o => regsA o.o .x (.blk 1) .no ++ govReg o.o ++ guardRegs o
  | .copyAbrt o => regsA o.o .x (.blk 1) .no ++ govReg o.o ++ guardRegs o
  | .gatherG o => regsA o.o .x (.blk 6) .no ++ govReg o.o ++ guardRegs o
  | .gatherS o => regsA o.o .x (.blk 6) .no ++ govReg o.o ++ guardRegs o
  | .twalkLd o => regsA o.o .x (.blk 6) .no ++ govReg o.o ++ guardRegs o
  | .twalkWb o => regsA o.o .x (.blk 6) .no ++ govReg o.o ++ guardRegs o
  | .nbmvMv o => regsA o.o .x (.blk 7) (.lit 2) ++ govReg o.o ++ guardRegs o
  | .attnBlk o => regsA o.o .x (.blk 8) .any ++ govReg o.o ++ guardRegs o
  | .attnMrg o => regsA o.o .x (.blk 4) .no ++ govReg o.o ++ guardRegs o
  | .sampleHist o => regsA o.o .x (.blk 10) .no ++ govReg o.o ++ guardRegs o
  | .sampleThr o => regsA o.o .x (.blk 9) .no ++ govReg o.o ++ guardRegs o
  | .sampleMass o => regsA o.o .x (.blk 10) .no ++ govReg o.o ++ guardRegs o
  | .sampleDraw o => regsA o.o .x (.blk 9) .no ++ govReg o.o ++ guardRegs o
  | .textNorm o => regsA o.o .x (.blk 7) .no ++ govReg o.o ++ guardRegs o
  | .textTbl o => regsA o.o .x (.blk 6) .no ++ govReg o.o ++ guardRegs o
  | .aMoviLo _ => []
  | .aMoviHi _ => []
  | .aMoviZ _ => []
  | .aMov _ => []
  | .aAdd _ => []
  | .aSub _ => []
  | .aAnd _ => []
  | .aOr _ => []
  | .aXor _ => []
  | .aShl _ => []
  | .aShr _ => []
  | .aMul _ => []
  | .aCmp _ => []
  | .aBr _ => []
  | .aJmp _ => []
  | .aCall _ => []
  | .aRet _ => []
  | .aLd _ => []
  | .aSt _ => []
  | .aWaitPend _ => []
  | .aWaitSig _ => []
  | .aWaitAll _ => []
  | .aSigSlot _ => []
  | .aSigHost _ => []
  | .aYield _ => []
  | .aHalt _ => []
  | .aKlaunch _ => []
  | .aFence _ => []
  | .cNew _ => []
  | .cFork _ => []
  | .cDrop _ => []
  | .cTrim _ => []
  | .cLen _ => []
  | .cRead _ => []
  | .cHint _ => []
  | .cPin _ => []
  | .cUnpin _ => []
  | .cProg _ => []
  | .cBind _ => []
  | .cGram _ => []
  | .cSamp _ => []
  | .cApp _ => []
  | .cGen _ => []
  | .cScore _ => []
  | .cChoose _ => []
  | .cSpec _ => []
  | .powerOn => []
  | .partReady _ => []
  | .registerWrite _ _ _ _ _ => []
  | .partStatusErrorClear => []
  | .groupAssign _ _ => []
  | .groupZeroingDone _ => []
  | .groupRemove _ _ => []
  | .formatRangeWrite _ _ _ => []
  | .tenantBlockWrite _ _ _ => []
  | .clusterLeavePartition _ _ => []
  | .pcmdPreempt _ _ => []
  | .pcmdPreemptUrgent _ _ => []
  | .pcmdResume _ _ => []
  | .contextSave _ _ => []
  | .contextRestore _ _ => []
  | .vcmdReady _ => []
  | .vcmdReset _ => []
  | .functionLevelReset _ => []
  | .suplWrite _ _ => []
  | .lqDoorbell _ _ => []
  | .launchAccept _ _ => []
  | .launchProceed _ => []
  | .levelTakeContext _ _ => []
  | .repeatInstanceFinish _ _ => []
  | .firingBind _ => []
  | .starvationClose _ => []
  | .commitTakeEffect _ => []
  | .watchdogExpiry _ => []
  | .recordWrite _ _ => []
  | .messageDeliver _ => []
  | .messageFillSlot _ _ => []
  | .launchComplete _ => []
  | .hardwareError _ _ _ => []
  | .explicitStorePerform _ _ _ => []
  | .explicitLoadPerform _ _ _ => []
  | .loadDataReturn _ _ _ _ => []
  | .feWaiterServe _ => []
  | .clockBroadcast _ _ => []
  | .credibilityWindowClose _ => []
  | .invWrite _ _ => []
  | .invalidationComplete _ => []
  | .priRestart _ _ => []
  | .frerrRead _ => []
  | .apertureAccess _ _ _ _ _ => []
  | .slotStart _ => []
  | .slotStop _ => []
  | .slotResume _ => []
  | .slotReset _ => []
  | .sigWrite _ _ => []
  | .membershipWrite _ _ => []
  | .atsInvalidateRequest _ _ _ _ => []
  | .translationCompletion _ _ _ _ _ _ => []
  | .prgResponse _ _ => []
  | .pageRequestTimeout _ => []
  | .hostCompletionError _ _ _ => []
  | .flitCrcError _ => []
  | .linkDown _ => []
  | .remotePacketPerform _ => []
  | .remoteReply _ _ _ _ _ => []
  | .remotePostedFault _ _ _ => []
  | .flushMarkerArrive _ => []
  | .flushAnswerArrive _ => []
  | .engineCommandStart _ => []
  | .enginePark _ => []
  | .engineCommandComplete _ => []
  | .engineCommandFault _ _ => []
  | .enginePreemptStop _ => []
  | .nbmvPublish _ => []
  | .taskAccept _ => []
  | .taskIssue _ => []
  | .taskPublish _ => []
  | .taskRefire _ => []
  | .taskRetire _ => []
  | .taskFault _ _ => []
  | .engineHwRerun _ => []
  | .taskPreemptStop _ => []
  | .stepFill _ _ => []
  | .stepCommit _ _ => []
  | .evictionStart _ => []
  | .evictionCommit _ _ => []
  | .promotionStart _ => []
  | .promotionComplete _ _ _ => []
  | .integrityFailure _ _ => []
  | .blockRehome _ _ _ => []
  | .tresolveWrite _ _ => []
  | .vfEnable _ => []
  | .illegalEncoding _ _ => []
  | .instructionFetchFault _ _ _ => []
  | .agentIllegalWord _ => []
  | .agentFetchFault => []
  | .windowUncorrectableError _ _ _ => []
  | .clusterUnitFailure _ => []
  | .coherentStorePerform _ _ _ => []

end Sys2Proof.Machine
end

