-- ==== Sys2Proof/WellFormed.lean ====
section
/-! DEFINITION. Which instructions are well formed: a word whose fields are all legal (R75, R80), and an event whose
numbers name units that the part has (R1, R106, R371, R401). -/

namespace Sys2Proof

open Machine

/-- A word is well formed when no field takes ILL or AILL; an event when its units exist (log 99, DESIGN CHOICE). -/
def wellFormed : Instr → Bool
  | .powerOn => true
  | .partReady _ => true
  | .registerWrite _ _ _ _ _ => true
  | .partStatusErrorClear => true
  | .groupAssign g _ => g < 48
  | .groupZeroingDone g => g < 48
  | .groupRemove g _ => g < 48
  | .formatRangeWrite reg word _ => reg < 16 && word < 4
  | .tenantBlockWrite v _ _ => v < 16
  | .clusterLeavePartition v c => v < 16 && c < 1024
  | .pcmdPreempt v _ => v < 16
  | .pcmdPreemptUrgent v _ => v < 16
  | .pcmdResume v _ => v < 16
  | .contextSave v c => v < 16 && c < 1024
  | .contextRestore v c => v < 16 && c < 1024
  | .vcmdReady v => v < 16
  | .vcmdReset v => v < 16
  | .functionLevelReset v => v < 16
  | .suplWrite v _ => v < 16
  | .lqDoorbell v _ => v < 16
  | .launchAccept v _ => v < 16
  | .launchProceed _ => true
  | .levelTakeContext _ _ => true
  | .repeatInstanceFinish _ _ => true
  | .firingBind c => c < 1024
  | .starvationClose c => c < 1024
  | .commitTakeEffect _ => true
  | .watchdogExpiry _ => true
  | .recordWrite die _ => die < 5
  | .messageDeliver _ => true
  | .messageFillSlot c _ => c < 1024
  | .launchComplete _ => true
  | .hardwareError _ core _ => core < 8
  | .explicitStorePerform c core _ => c < 1024 && core < 8
  | .explicitLoadPerform c core _ => c < 1024 && core < 8
  | .loadDataReturn c core _ _ => c < 1024 && core < 8
  | .feWaiterServe _ => true
  | .clockBroadcast _ slice => slice < 8192
  | .credibilityWindowClose v => v < 16
  | .invWrite v _ => v < 16
  | .invalidationComplete _ => true
  | .priRestart v _ => v < 16
  | .frerrRead v => v < 16
  | .apertureAccess v _ _ _ _ => v < 16
  | .slotStart slot => slot < 65536
  | .slotStop slot => slot < 65536
  | .slotResume slot => slot < 65536
  | .slotReset slot => slot < 65536
  | .sigWrite slot _ => slot < 65536
  | .membershipWrite word _ => word < 64
  | .atsInvalidateRequest v _ _ _ => v < 16
  | .translationCompletion _ _ _ _ _ _ => true
  | .prgResponse _ _ => true
  | .pageRequestTimeout _ => true
  | .hostCompletionError c core _ => c < 1024 && core < 8
  | .flitCrcError link => link < 18
  | .linkDown link => link < 18
  | .remotePacketPerform _ => true
  | .remoteReply c core _ _ _ => c < 1024 && core < 8
  | .remotePostedFault c core _ => c < 1024 && core < 8
  | .flushMarkerArrive _ => true
  | .flushAnswerArrive _ => true
  | .engineCommandStart _ => true
  | .enginePark _ => true
  | .engineCommandComplete _ => true
  | .engineCommandFault _ _ => true
  | .enginePreemptStop _ => true
  | .nbmvPublish _ => true
  | .taskAccept _ => true
  | .taskIssue _ => true
  | .taskPublish _ => true
  | .taskRefire _ => true
  | .taskRetire _ => true
  | .taskFault _ _ => true
  | .engineHwRerun _ => true
  | .taskPreemptStop _ => true
  | .stepFill v inst => v < 16 && inst < 256
  | .stepCommit v inst => v < 16 && inst < 256
  | .evictionStart v => v < 16
  | .evictionCommit v _ => v < 16
  | .promotionStart v => v < 16
  | .promotionComplete v _ _ => v < 16
  | .integrityFailure v _ => v < 16
  | .blockRehome v _ _ => v < 16
  | .tresolveWrite c core => c < 1024 && core < 8
  | .vfEnable v => v < 16
  | .illegalEncoding _ _ => true
  | .instructionFetchFault _ _ _ => true
  | .agentIllegalWord _ => true
  | .agentFetchFault => true
  | .windowUncorrectableError v die _ => v < 16 && die < 4
  | .clusterUnitFailure c => c < 1024
  | .coherentStorePerform c core _ => c < 1024 && core < 8
  | i => legalWord i

end Sys2Proof
end

