-- ==== Sys2Proof/Decode.lean ====
section
/-! DEFINITION. Decoding of instruction words, and after it the encoder (R63 to R80). The definitions that build an Instr
are noncomputable only because compiled code holds at most 245 constructors of a type; the kernel evaluates them. -/

namespace Sys2Proof

open Machine

/-- Why bytes are no instruction. -/
inductive Reject where
  /-- The bytes end before the word does. -/
  | tooShort
  /-- A reserved major, function or aop (R75, R80). -/
  | reserved
  /-- A field of a known instruction is reserved or illegal (R75, R80). -/
  | illegalField
deriving DecidableEq, Repr

/-- What a word decodes to. -/
inductive Decoded where
  | instr (i : Instr)
  | reject (r : Reject)
deriving DecidableEq, Repr

/-! ### Fields of the words -/

/-- The fields of format A (R64). -/
def fieldsA (w : W32) : OpA where
  pr := w.extractLsb' 29 3
  k := w.extractLsb' 28 1
  q := w.extractLsb' 25 3
  b := w.extractLsb' 17 5
  a := w.extractLsb' 12 5
  d := w.extractLsb' 7 5

/-- The function field of format A. -/
def fOf (w : W32) : Nat := (w.extractLsb' 22 3).toNat

/-- The fields of format I (R67). -/
def fieldsI (w : W32) : OpI where
  pr := w.extractLsb' 29 3
  imm := w.extractLsb' 17 12
  a := w.extractLsb' 12 5
  d := w.extractLsb' 7 5

/-- CMPI's d field: the predicate in [2:0], the condition above it (R67). -/
def cmpiFields (o : OpI) : OpI := { o with d := o.d &&& 7 }

/-- The fields of format B (R69). -/
def fieldsB (w : W32) : OpB where
  disp := w.extractLsb' 12 20
  lo := w.extractLsb' 7 5

/-- The fields of a long instruction of format M (R70). -/
def fieldsM (w0 w1 : W32) : OpM where
  o := fieldsA w0
  sx := w1.extractLsb' 28 4
  pol := w1.extractLsb' 25 3
  nu := w1.extractLsb' 20 5
  off := w1.extractLsb' 0 20

/-- The fields of a long instruction of format E (R71). -/
def fieldsE (w0 w1 : W32) : OpE where
  o := fieldsA w0
  fo := w1.extractLsb' 29 3
  fb := w1.extractLsb' 24 5
  shape := w1.extractLsb' 20 4
  sg := w1.extractLsb' 17 3
  ver := w1.extractLsb' 15 2
  nuw := w1.extractLsb' 10 5
  nur := w1.extractLsb' 5 5
  guard := w1.extractLsb' 0 5

/-- The fields of a long instruction of format X (R71). -/
def fieldsX (w0 w1 : W32) : OpX where
  o := fieldsA w0
  imm := w1

/-- The fields of a context-level word (R79). -/
def fieldsC (w : Word) : OpC where
  imm := w.extractLsb' 32 32
  m := w.extractLsb' 24 8
  w := w.extractLsb' 20 4
  z := w.extractLsb' 16 4
  y := w.extractLsb' 12 4
  x := w.extractLsb' 8 4

/-! ### Decoding -/

/-- The instruction that a short word's op and f name, its other fields not yet checked (R72). -/
noncomputable def candidateShort (w : W32) : Option Instr :=
  let o := fieldsA w
  let i := fieldsI w
  let b := fieldsB w
  match (w.extractLsb' 0 7).toNat with
  | 0x02 => match fOf w with
    | 0 => some (.aluAdd o)
    | 1 => some (.aluSub o)
    | 2 => some (.aluAnd o)
    | 3 => some (.aluOr o)
    | 4 => some (.aluXor o)
    | 5 => some (.aluShl o)
    | 6 => some (.aluShr o)
    | 7 => some (.aluSra o)
    | _ => none
  | 0x04 => some (.alui i)
  | 0x06 => match fOf w with
    | 0 => some (.muldivMul o)
    | 1 => some (.muldivMulh o)
    | 2 => some (.muldivMulhu o)
    | 3 => some (.muldivDiv o)
    | 4 => some (.muldivDivu o)
    | 5 => some (.muldivRem o)
    | 6 => some (.muldivRemu o)
    | _ => none
  | 0x08 => match fOf w with
    | 0 => some (.bitsClz o)
    | 1 => some (.bitsCtz o)
    | 2 => some (.bitsPopc o)
    | 3 => some (.bitsBrev o)
    | 4 => some (.bitsBswap o)
    | 5 => some (.bitsExtu o)
    | 6 => some (.bitsExts o)
    | 7 => some (.bitsRotr o)
    | _ => none
  | 0x0A => match fOf w with
    | 0 => some (.minmaxMin o)
    | 1 => some (.minmaxMax o)
    | 2 => some (.minmaxMinu o)
    | 3 => some (.minmaxMaxu o)
    | 4 => some (.minmaxAbs o)
    | 5 => some (.minmaxAdds o)
    | 6 => some (.minmaxSubs o)
    | _ => none
  | 0x0C => match fOf w with
    | 0 => some (.cmpEq o)
    | 1 => some (.cmpNe o)
    | 2 => some (.cmpLt o)
    | 3 => some (.cmpGe o)
    | 4 => some (.cmpLtu o)
    | 5 => some (.cmpGeu o)
    | 6 => some (.cmpTst o)
    | _ => none
  | 0x0E => match i.d.toNat / 8 with
    | 0 => some (.cmpiEq (cmpiFields i))
    | 1 => some (.cmpiNe (cmpiFields i))
    | 2 => some (.cmpiLt (cmpiFields i))
    | _ => some (.cmpiLtu (cmpiFields i))
  | 0x10 => match fOf w with
    | 0 => some (.plogAnd o)
    | 1 => some (.plogOr o)
    | 2 => some (.plogXor o)
    | 3 => some (.plogAndn o)
    | 4 => some (.plogNot o)
    | 5 => some (.plogSetx o)
    | 6 => some (.plogGetx o)
    | _ => none
  | 0x12 => match fOf w with
    | 0 => some (.gmovGet o)
    | 1 => some (.gmovAgree o)
    | 2 => some (.gmovPut o)
    | 3 => some (.gmovAny o)
    | 4 => some (.gmovAll o)
    | 5 => some (.gmovCount o)
    | _ => none
  | 0x14 => match fOf w with
    | 0 => some (.idLvl o)
    | 1 => some (.idCore o)
    | 2 => some (.idGpos o)
    | 3 => some (.idGwid o)
    | 4 => some (.idClus o)
    | 5 => some (.idCnt o)
    | 6 => some (.idLane o)
    | 7 => some (.idPkg o)
    | _ => none
  | 0x20 => some (.br b)
  | 0x22 => some (.jal b)
  | 0x24 => match fOf w with
    | 0 => some (.jr o)
    | _ => none
  | 0x26 => match fOf w with
    | 0 => some (.endCommit o)
    | 1 => some (.endRetry o)
    | 2 => some (.endFail o)
    | _ => none
  | 0x28 => match fOf w with
    | 0 => some (.regionOpen o)
    | 1 => some (.regionClose o)
    | _ => none
  | 0x2A => match b.lo.toNat % 8 with
    | 0 => some (.gangSplit b)
    | 1 => some (.gangFuse b)
    | 2 => some (.gangAlign b)
    | _ => none
  | 0x30 => match fOf w with
    | 0 => some (.varithAdd o)
    | 1 => some (.varithSub o)
    | 2 => some (.varithMul o)
    | 3 => some (.varithMin o)
    | 4 => some (.varithMax o)
    | 5 => some (.varithAdds o)
    | 6 => some (.varithSubs o)
    | 7 => some (.varithAbs o)
    | _ => none
  | 0x32 => match fOf w with
    | 0 => some (.vfmaFma o)
    | 1 => some (.vfmaFms o)
    | 2 => some (.vfmaFnma o)
    | 3 => some (.vfmaFnms o)
    | _ => none
  | 0x34 => match fOf w with
    | 0 => some (.vlogicAnd o)
    | 1 => some (.vlogicOr o)
    | 2 => some (.vlogicXor o)
    | 3 => some (.vlogicAndn o)
    | 4 => some (.vlogicNot o)
    | 5 => some (.vlogicShl o)
    | 6 => some (.vlogicShr o)
    | 7 => some (.vlogicSra o)
    | _ => none
  | 0x36 => match fOf w with
    | 0 => some (.vcmpEq o)
    | 1 => some (.vcmpNe o)
    | 2 => some (.vcmpLt o)
    | 3 => some (.vcmpLe o)
    | 4 => some (.vcmpLtu o)
    | 5 => some (.vcmpLeu o)
    | 6 => some (.vcmpUn o)
    | _ => none
  | 0x38 => match fOf w with
    | 0 => some (.vselSel o)
    | 1 => some (.vselZero o)
    | 2 => some (.vselCmpr o)
    | 3 => some (.vselExpd o)
    | _ => none
  | 0x3A => match fOf w with
    | 0 => some (.vcvtRne o)
    | 1 => some (.vcvtRtz o)
    | 2 => some (.vcvtRup o)
    | 3 => some (.vcvtRdn o)
    | 4 => some (.vcvtSto o)
    | 5 => some (.vcvtWide o)
    | _ => none
  | 0x3C => match fOf w with
    | 0 => some (.vpermPerm o)
    | 1 => some (.vpermZiplo o)
    | 2 => some (.vpermZiphi o)
    | 3 => some (.vpermUzpe o)
    | 4 => some (.vpermUzpo o)
    | 5 => some (.vpermSplat o)
    | 6 => some (.vpermRev o)
    | _ => none
  | 0x3E => match fOf w with
    | 0 => some (.vredAdd o)
    | 1 => some (.vredMin o)
    | 2 => some (.vredMax o)
    | 3 => some (.vredAddw o)
    | 4 => some (.vredAnd o)
    | 5 => some (.vredOr o)
    | 6 => some (.vredXor o)
    | 7 => some (.vredImax o)
    | _ => none
  | 0x40 => match fOf w with
    | 0 => some (.vdotBf16 o)
    | 1 => some (.vdotFp16 o)
    | 2 => some (.vdotE4m3 o)
    | 3 => some (.vdotE5m2 o)
    | 4 => some (.vdotI8 o)
    | 5 => some (.vdotU8 o)
    | 6 => some (.vdotI8u8 o)
    | _ => none
  | 0x42 => match fOf w with
    | 0 => some (.vsfuExp2 o)
    | 1 => some (.vsfuLog2 o)
    | 2 => some (.vsfuRcp o)
    | 3 => some (.vsfuRsqrt o)
    | 4 => some (.vsfuSqrt o)
    | 5 => some (.vsfuSin o)
    | 6 => some (.vsfuCos o)
    | 7 => some (.vsfuTanh o)
    | _ => none
  | 0x44 => match fOf w with
    | 0 => some (.vsfu2Sigm o)
    | 1 => some (.vsfu2Gelut o)
    | 2 => some (.vsfu2Gelue o)
    | 3 => some (.vsfu2Silu o)
    | 4 => some (.vsfu2Erf o)
    | 5 => some (.vsfu2Softp o)
    | _ => none
  | 0x46 => match fOf w with
    | 0 => some (.vmovMov o)
    | 1 => some (.vmovBcast o)
    | 2 => some (.vmovIns o)
    | 3 => some (.vmovExt o)
    | _ => none
  | 0x48 => match fOf w with
    | 0 => some (.vlinkPop o)
    | 1 => some (.vlinkPeek o)
    | 2 => some (.vlinkSkip o)
    | _ => none
  | 0x4A => match fOf w with
    | 0 => some (.vcbDec o)
    | _ => none
  | 0x4C => match fOf w with
    | 0 => some (.vscaleLdexp o)
    | 1 => some (.vscaleMx o)
    | 2 => some (.vscaleSb4 o)
    | 3 => some (.vscaleCb o)
    | _ => none
  | 0x50 => match fOf w with
    | 0 => some (.sendX o)
    | 1 => some (.sendV o)
    | 2 => some (.sendNz o)
    | _ => none
  | 0x52 => match fOf w with
    | 0 => some (.recvW o)
    | 1 => some (.recvTry o)
    | 2 => some (.recvHdr o)
    | 3 => some (.recvDrop o)
    | _ => none
  | 0x54 => match fOf w with
    | 0 => some (.chanSlot o)
    | 1 => some (.chanHdr o)
    | 2 => some (.chanCnt o)
    | _ => none
  | 0x56 => match fOf w with
    | 0 => some (.barInit o)
    | 1 => some (.barArrive o)
    | 2 => some (.barWait o)
    | 3 => some (.barSync o)
    | 4 => some (.barQuery o)
    | _ => none
  | 0x5C => match fOf w with
    | 0 => some (.waitLe o)
    | 1 => some (.waitLex o)
    | _ => none
  | 0x5E => match fOf w with
    | 0 => some (.feTest o)
    | 1 => some (.feSet o)
    | 2 => some (.feClr o)
    | 3 => some (.feTas o)
    | 4 => some (.feSetr o)
    | 5 => some (.feClrr o)
    | _ => none
  | 0x64 => match fOf w with
    | 0 => some (.fenceOrd o)
    | _ => none
  | 0x6A => some (.trap i)
  | 0x6C => if i.d == 0 then some (.sysW i) else some (.sysR i)
  | _ => none

/-- The instruction that a long instruction's op and f name, its other fields not yet checked (R73). -/
noncomputable def candidateLong (w0 w1 : W32) : Option Instr :=
  let m := fieldsM w0 w1
  let e := fieldsE w0 w1
  let x := fieldsX w0 w1
  match (w0.extractLsb' 0 7).toNat with
  | 0x01 => match fOf w0 with
    | 0 => some (.moviLo x)
    | 1 => some (.moviHi x)
    | 2 => some (.moviZ x)
    | _ => none
  | 0x03 => match fOf w0 with
    | 0 => some (.alulAdd x)
    | 1 => some (.alulAnd x)
    | 2 => some (.alulOr x)
    | 3 => some (.alulXor x)
    | 4 => some (.alulShl x)
    | 5 => some (.alulShr x)
    | 6 => some (.alulSra x)
    | _ => none
  | 0x11 => match fOf w0 with
    | 0 => some (.ldB m)
    | 1 => some (.ldH m)
    | 2 => some (.ldW m)
    | 3 => some (.ldD m)
    | 4 => some (.ldBs m)
    | 5 => some (.ldHs m)
    | 6 => some (.ldWs m)
    | _ => none
  | 0x13 => match fOf w0 with
    | 0 => some (.stB m)
    | 1 => some (.stH m)
    | 2 => some (.stW m)
    | 3 => some (.stD m)
    | _ => none
  | 0x15 => match fOf w0 with
    | 0 => some (.vldV m)
    | 1 => some (.vldBc m)
    | _ => none
  | 0x17 => match fOf w0 with
    | 0 => some (.vstV m)
    | 1 => some (.vstE m)
    | _ => none
  | 0x19 => match fOf w0 with
    | 0 => some (.ldfKeep m)
    | 1 => some (.ldfTake m)
    | _ => none
  | 0x1B => match fOf w0 with
    | 0 => some (.steFill m)
    | 1 => some (.steKeep m)
    | _ => none
  | 0x21 => match fOf w0 with
    | 0 => some (.cachePf m)
    | 1 => some (.cachePfl1 m)
    | 2 => some (.cacheNu m)
    | 3 => some (.cacheWb m)
    | 4 => some (.cacheWbinv m)
    | _ => none
  | 0x23 => match fOf w0 with
    | 0 => some (.rclkRead x)
    | 1 => some (.rclkAdv x)
    | 2 => some (.rclkDflt x)
    | _ => none
  | 0x25 => match fOf w0 with
    | 0 => some (.pinWin m)
    | 1 => some (.pinSize m)
    | _ => none
  | 0x29 => match fOf w0 with
    | 0 => some (.amoAdd m)
    | 1 => some (.amoAddb m)
    | 2 => some (.amoMin m)
    | 3 => some (.amoMax m)
    | 4 => some (.amoAnd m)
    | 5 => some (.amoOr m)
    | 6 => some (.amoXor m)
    | 7 => some (.amoSwap m)
    | _ => none
  | 0x2B => match fOf w0 with
    | 0 => some (.cas m)
    | _ => none
  | 0x2D => match fOf w0 with
    | 0 => some (.redAdd m)
    | 1 => some (.redMin m)
    | 2 => some (.redMax m)
    | 3 => some (.redAnd m)
    | 4 => some (.redOr m)
    | 5 => some (.redXor m)
    | 6 => some (.redFmin m)
    | 7 => some (.redFmax m)
    | _ => none
  | 0x2F => match fOf w0 with
    | 0 => some (.xlatProbe m)
    | 1 => some (.xlatTouch m)
    | 2 => some (.xlatInv m)
    | _ => none
  | 0x31 => match fOf w0 with
    | 0 => some (.taskMma e)
    | 1 => some (.taskMmav e)
    | 2 => some (.taskEw e)
    | 3 => some (.taskRed e)
    | 4 => some (.taskCvt e)
    | 5 => some (.taskTr e)
    | _ => none
  | 0x33 => match fOf w0 with
    | 0 => some (.vstopCur x)
    | _ => none
  | 0x35 => match fOf w0 with
    | 0 => some (.vwaitVer x)
    | 1 => some (.vwaitFin x)
    | 2 => some (.vwaitSet x)
    | 3 => some (.vwaitSets x)
    | 4 => some (.vwaitPoll x)
    | _ => none
  | 0x37 => match fOf w0 with
    | 0 => some (.cbldMe e)
    | 1 => some (.cbldNb e)
    | _ => none
  | 0x41 => match fOf w0 with
    | 0 => some (.copyCp e)
    | 1 => some (.copyFill e)
    | 2 => some (.copyChan e)
    | 5 => some (.copyStat e)
    | 6 => some (.copyRsm e)
    | 7 => some (.copyAbrt e)
    | _ => none
  | 0x43 => match fOf w0 with
    | 0 => some (.gatherG e)
    | 1 => some (.gatherS e)
    | _ => none
  | 0x45 => match fOf w0 with
    | 0 => some (.twalkLd e)
    | 1 => some (.twalkWb e)
    | _ => none
  | 0x47 => match fOf w0 with
    | 0 => some (.nbmvMv e)
    | _ => none
  | 0x49 => match fOf w0 with
    | 0 => some (.attnBlk e)
    | 1 => some (.attnMrg e)
    | _ => none
  | 0x4B => match fOf w0 with
    | 0 => some (.sampleHist e)
    | 1 => some (.sampleThr e)
    | 2 => some (.sampleMass e)
    | 3 => some (.sampleDraw e)
    | _ => none
  | 0x4D => match fOf w0 with
    | 0 => some (.textNorm e)
    | 1 => some (.textTbl e)
    | _ => none
  | _ => none

/-- The instruction that a context-level word's aop and m name, its other fields not yet checked (R79, R376). -/
noncomputable def candidateAgent (w : Word) : Option Instr :=
  let o := fieldsC w
  match (w.extractLsb' 0 8).toNat with
  | 0x01 => match o.m.toNat with
    | 0 => some (.aMoviLo o)
    | 1 => some (.aMoviHi o)
    | 2 => some (.aMoviZ o)
    | _ => none
  | 0x02 => some (.aMov o)
  | 0x03 => some (.aAdd o)
  | 0x04 => some (.aSub o)
  | 0x05 => some (.aAnd o)
  | 0x06 => some (.aOr o)
  | 0x07 => some (.aXor o)
  | 0x08 => some (.aShl o)
  | 0x09 => some (.aShr o)
  | 0x0A => some (.aMul o)
  | 0x0B => some (.aCmp o)
  | 0x10 => some (.aBr o)
  | 0x11 => some (.aJmp o)
  | 0x12 => some (.aCall o)
  | 0x13 => some (.aRet o)
  | 0x18 => some (.aLd o)
  | 0x19 => some (.aSt o)
  | 0x20 => match o.m.toNat with
    | 0 => some (.aWaitPend o)
    | 1 => some (.aWaitSig o)
    | 2 => some (.aWaitAll o)
    | _ => none
  | 0x21 => match o.m.toNat with
    | 0 => some (.aSigSlot o)
    | 1 => some (.aSigHost o)
    | _ => none
  | 0x22 => some (.aYield o)
  | 0x23 => some (.aHalt o)
  | 0x28 => some (.aKlaunch o)
  | 0x29 => some (.aFence o)
  | 0x40 => some (.cNew o)
  | 0x41 => some (.cFork o)
  | 0x42 => some (.cDrop o)
  | 0x43 => some (.cTrim o)
  | 0x44 => some (.cLen o)
  | 0x45 => some (.cRead o)
  | 0x46 => some (.cHint o)
  | 0x47 => some (.cPin o)
  | 0x48 => some (.cUnpin o)
  | 0x49 => some (.cProg o)
  | 0x4A => some (.cBind o)
  | 0x4B => some (.cGram o)
  | 0x4C => some (.cSamp o)
  | 0x60 => some (.cApp o)
  | 0x61 => some (.cGen o)
  | 0x62 => some (.cScore o)
  | 0x63 => some (.cChoose o)
  | 0x64 => some (.cSpec o)
  | _ => none

/-- A candidate is the instruction when all its fields are legal (R75, R80). -/
def checked : Option Instr → Decoded
  | none => .reject .reserved
  | some i => if wellFormed i then .instr i else .reject .illegalField

/-- Whether a first word opens a long instruction (R63). -/
def isLong (w0 : W32) : Bool := w0.getLsbD 0

/-- The kernel-level instruction in W0 and, for a long one, W1 (R74, R75) (log 24, DESIGN CHOICE). -/
noncomputable def decodeKernel (w0 w1 : W32) : Decoded :=
  checked (if isLong w0 then candidateLong w0 w1 else candidateShort w0)

/-- The context-level instruction in a word (R80). -/
noncomputable def decodeAgent (w : Word) : Decoded := checked (candidateAgent w)

/-- Whether a context-level word is an instruction: its aop and m are listed and its fields legal (R79, R80). It agrees with
`decodeAgent`, and code can run it. -/
def agentLegal (w : Word) : Bool :=
  let o := fieldsC w
  match (w.extractLsb' 0 8).toNat with
  | 0x01 => match o.m.toNat with
    | 0 => o.y == 0 && o.z == 0 && o.w == 0 && o.m == 0
    | 1 => o.y == 0 && o.z == 0 && o.w == 0 && o.m == 1
    | 2 => o.y == 0 && o.z == 0 && o.w == 0 && o.m == 2
    | _ => false
  | 0x02 => o.z == 0 && o.w == 0 && o.imm == 0 && o.m == 0
  | 0x03 => o.w == 0 && agentSrc o && o.m.toNat <= 1
  | 0x04 => o.w == 0 && agentSrc o && o.m.toNat <= 1
  | 0x05 => o.w == 0 && agentSrc o && o.m.toNat <= 1
  | 0x06 => o.w == 0 && agentSrc o && o.m.toNat <= 1
  | 0x07 => o.w == 0 && agentSrc o && o.m.toNat <= 1
  | 0x08 => o.w == 0 && agentSrc o && o.m.toNat <= 1
  | 0x09 => o.w == 0 && agentSrc o && o.m.toNat <= 3
  | 0x0A => o.w == 0 && agentSrc o && o.m.toNat <= 1
  | 0x0B => o.w == 0 && agentSrc o && o.m.toNat <= 11
  | 0x10 => o.x == 0 && o.z == 0 && o.w == 0 && o.m.toNat <= 1 && agentTarget o
  | 0x11 => o.x == 0 && o.y == 0 && o.z == 0 && o.w == 0 && o.m == 0 && agentTarget o
  | 0x12 => o.y == 0 && o.z == 0 && o.w == 0 && o.m == 0 && agentTarget o
  | 0x13 => o.x == 0 && o.z == 0 && o.w == 0 && o.imm == 0 && o.m == 0
  | 0x18 => o.z == 0 && o.w == 0 && o.m.toNat <= 3
  | 0x19 => o.z == 0 && o.w == 0 && o.m.toNat <= 3
  | 0x20 => match o.m.toNat with
    | 0 => o.x == 0 && o.z == 0 && o.w == 0 && o.imm == 0 && o.m == 0
    | 1 => o.z == 0 && o.w == 0 && o.imm == 0 && o.m == 1
    | 2 => o.x == 0 && o.y == 0 && o.z == 0 && o.w == 0 && o.imm == 0 && o.m == 2
    | _ => false
  | 0x21 => match o.m.toNat with
    | 0 => o.x == 0 && o.w == 0 && o.imm == 0 && o.m == 0
    | 1 => o.x == 0 && o.z == 0 && o.w == 0 && o.imm == 0 && o.m == 1
    | _ => false
  | 0x22 => o.x == 0 && o.y == 0 && o.z == 0 && o.w == 0 && o.imm == 0 && o.m == 0
  | 0x23 => o.x == 0 && o.z == 0 && o.w == 0 && o.imm == 0 && o.m == 0
  | 0x28 => o.z == 0 && o.w == 0 && o.imm == 0 && o.m == 0
  | 0x29 => o.x == 0 && o.y == 0 && o.z == 0 && o.w == 0 && o.imm == 0 && o.m == 0
  | 0x40 => o.z == 0 && o.w == 0 && o.imm == 0 && o.m == 0
  | 0x41 => o.w == 0 && o.imm == 0 && o.m == 0
  | 0x42 => o.y == 0 && o.z == 0 && o.w == 0 && o.imm == 0 && o.m == 0
  | 0x43 => o.w == 0 && o.imm == 0 && o.m == 0
  | 0x44 => o.z == 0 && o.w == 0 && o.imm == 0 && o.m.toNat <= 2
  | 0x45 => o.m == 0 && 1 <= o.imm.toNat && o.imm.toNat <= 65536
  | 0x46 => o.z == 0 && o.w == 0 && o.imm == 0 && o.m == 0
  | 0x47 => o.z == 0 && o.w == 0 && o.imm == 0 && o.m == 0
  | 0x48 => o.y == 0 && o.z == 0 && o.w == 0 && o.imm == 0 && o.m == 0
  | 0x49 => o.w == 0 && o.imm == 0 && o.m == 0
  | 0x4A => o.w == 0 && o.imm == 0 && o.m == 0
  | 0x4B => o.w == 0 && o.m == 0
  | 0x4C => o.z == 0 && o.w == 0 && o.imm == 0 && o.m == 0
  | 0x60 => o.imm == 0 && o.m.toNat <= 15
  | 0x61 => o.w == 0 && o.m.toNat <= 1 && (o.m == 1 || o.imm == 0)
  | 0x62 => o.m.toNat <= 1
  | 0x63 => o.m.toNat <= 1
  | 0x64 => o.m.toNat <= 127 && (o.m.getLsbD 6 || o.imm == 0)
  | _ => false

/-- A little-endian number of the given bytes (R3). -/
def ofBytes : List Byte → Nat
  | [] => 0
  | b :: bs => b.toNat + 256 * ofBytes bs

/-- The n bytes of a number, lowest first (R3). -/
def toBytes : Nat → Nat → List Byte
  | 0, _ => []
  | n + 1, v => BitVec.ofNat 8 v :: toBytes n (v / 256)

/-- The kernel-level instruction at the head of a list of bytes; later bytes are not looked at (R63)
(log 100, DEDUCED). -/
noncomputable def decodeBytes (bs : List Byte) : Decoded :=
  if bs.length < 4 then .reject .tooShort
  else
    let w0 := BitVec.ofNat 32 (ofBytes (bs.take 4))
    if isLong w0 then
      if bs.length < 8 then .reject .tooShort
      else decodeKernel w0 (BitVec.ofNat 32 (ofBytes ((bs.drop 4).take 4)))
    else decodeKernel w0 0

/-- The context-level instruction at the head of a list of bytes (R79). -/
noncomputable def decodeAgentBytes (bs : List Byte) : Decoded :=
  if bs.length < 8 then .reject .tooShort
  else decodeAgent (BitVec.ofNat 64 (ofBytes (bs.take 8)))

/-- The instruction that eight bytes laid out in memory hold: a kernel-level one, or where that is none a context-level
one. -/
noncomputable def decodeEither (bs : List Byte) : Option Instr :=
  match decodeBytes bs with
  | .instr i => some i
  | .reject _ =>
    match decodeAgentBytes bs with
    | .instr i => some i
    | .reject _ => none

/-- The instruction of a word numbered as spec/opcode_table.json numbers it; the bits above nbits are 0. -/
noncomputable def decodeTableWord (nbits w : Nat) : Option Instr :=
  decodeEither (toBytes 8 (w % 2 ^ nbits))

/-! ### Encoding -/

/-- A format-A word (R64). -/
def packA (o : OpA) (f : BitVec 3) (op : BitVec 7) : W32 :=
  o.pr ++ o.k ++ o.q ++ f ++ o.b ++ o.a ++ o.d ++ op

/-- A format-I word (R67). -/
def packI (o : OpI) (op : BitVec 7) : W32 := o.pr ++ o.imm ++ o.a ++ o.d ++ op

/-- CMPI's d field from predicate and condition (R67). -/
def cmpiPack (o : OpI) (cond : BitVec 2) : OpI := { o with d := cond ++ o.d.extractLsb' 0 3 }

/-- A format-B word (R69). -/
def packB (o : OpB) (op : BitVec 7) : W32 := o.disp ++ o.lo ++ op

/-- W1 of format M (R70). -/
def packM (o : OpM) : W32 := o.sx ++ o.pol ++ o.nu ++ o.off

/-- W1 of format E (R71). -/
def packE (o : OpE) : W32 :=
  o.fo ++ o.fb ++ o.shape ++ o.sg ++ o.ver ++ o.nuw ++ o.nur ++ o.guard

/-- The halves of a context-level word, the low half first (R79). -/
def packC (o : OpC) (aop : BitVec 8) : List W32 := [o.m ++ o.w ++ o.z ++ o.y ++ o.x ++ aop, o.imm]

/-- The words of an instruction, lowest address first, from the encoding tables of R64 to R79: one word for a short
instruction, two for a long one or for a context-level word. An event has no words. -/
def encode : Instr → List W32
  | .powerOn => []
  | .partReady _ => []
  | .registerWrite _ _ _ _ _ => []
  | .partStatusErrorClear => []
  | .groupAssign _ _ => []
  | .groupZeroingDone _ => []
  | .groupRemove _ _ => []
  | .formatRangeWrite _ _ _ => []
  | .tenantBlockWrite _ _ _ => []
  | .clusterLeavePartition _ _ => []
  | .pcmdPreempt _ _ => []
  | .pcmdPreemptUrgent _ _ => []
  | .pcmdResume _ _ => []
  | .contextSave _ _ => []
  | .contextRestore _ _ => []
  | .vcmdReady _ => []
  | .vcmdReset _ => []
  | .functionLevelReset _ => []
  | .suplWrite _ _ => []
  | .lqDoorbell _ _ => []
  | .launchAccept _ _ => []
  | .launchProceed _ => []
  | .levelTakeContext _ _ => []
  | .repeatInstanceFinish _ _ => []
  | .firingBind _ => []
  | .starvationClose _ => []
  | .commitTakeEffect _ => []
  | .watchdogExpiry _ => []
  | .recordWrite _ _ => []
  | .messageDeliver _ => []
  | .messageFillSlot _ _ => []
  | .launchComplete _ => []
  | .hardwareError _ _ _ => []
  | .explicitStorePerform _ _ _ => []
  | .explicitLoadPerform _ _ _ => []
  | .loadDataReturn _ _ _ _ => []
  | .feWaiterServe _ => []
  | .clockBroadcast _ _ => []
  | .credibilityWindowClose _ => []
  | .invWrite _ _ => []
  | .invalidationComplete _ => []
  | .priRestart _ _ => []
  | .frerrRead _ => []
  | .apertureAccess _ _ _ _ _ => []
  | .slotStart _ => []
  | .slotStop _ => []
  | .slotResume _ => []
  | .slotReset _ => []
  | .sigWrite _ _ => []
  | .membershipWrite _ _ => []
  | .atsInvalidateRequest _ _ _ _ => []
  | .translationCompletion _ _ _ _ _ _ => []
  | .prgResponse _ _ => []
  | .pageRequestTimeout _ => []
  | .hostCompletionError _ _ _ => []
  | .flitCrcError _ => []
  | .linkDown _ => []
  | .remotePacketPerform _ => []
  | .remoteReply _ _ _ _ _ => []
  | .remotePostedFault _ _ _ => []
  | .flushMarkerArrive _ => []
  | .flushAnswerArrive _ => []
  | .engineCommandStart _ => []
  | .enginePark _ => []
  | .engineCommandComplete _ => []
  | .engineCommandFault _ _ => []
  | .enginePreemptStop _ => []
  | .nbmvPublish _ => []
  | .taskAccept _ => []
  | .taskIssue _ => []
  | .taskPublish _ => []
  | .taskRefire _ => []
  | .taskRetire _ => []
  | .taskFault _ _ => []
  | .engineHwRerun _ => []
  | .taskPreemptStop _ => []
  | .stepFill _ _ => []
  | .stepCommit _ _ => []
  | .evictionStart _ => []
  | .evictionCommit _ _ => []
  | .promotionStart _ => []
  | .promotionComplete _ _ _ => []
  | .integrityFailure _ _ => []
  | .blockRehome _ _ _ => []
  | .aluAdd o => [packA o 0 0x02]
  | .aluSub o => [packA o 1 0x02]
  | .aluAnd o => [packA o 2 0x02]
  | .aluOr o => [packA o 3 0x02]
  | .aluXor o => [packA o 4 0x02]
  | .aluShl o => [packA o 5 0x02]
  | .aluShr o => [packA o 6 0x02]
  | .aluSra o => [packA o 7 0x02]
  | .alui o => [packI o 0x04]
  | .muldivMul o => [packA o 0 0x06]
  | .muldivMulh o => [packA o 1 0x06]
  | .muldivMulhu o => [packA o 2 0x06]
  | .muldivDiv o => [packA o 3 0x06]
  | .muldivDivu o => [packA o 4 0x06]
  | .muldivRem o => [packA o 5 0x06]
  | .muldivRemu o => [packA o 6 0x06]
  | .bitsClz o => [packA o 0 0x08]
  | .bitsCtz o => [packA o 1 0x08]
  | .bitsPopc o => [packA o 2 0x08]
  | .bitsBrev o => [packA o 3 0x08]
  | .bitsBswap o => [packA o 4 0x08]
  | .bitsExtu o => [packA o 5 0x08]
  | .bitsExts o => [packA o 6 0x08]
  | .bitsRotr o => [packA o 7 0x08]
  | .minmaxMin o => [packA o 0 0x0A]
  | .minmaxMax o => [packA o 1 0x0A]
  | .minmaxMinu o => [packA o 2 0x0A]
  | .minmaxMaxu o => [packA o 3 0x0A]
  | .minmaxAbs o => [packA o 4 0x0A]
  | .minmaxAdds o => [packA o 5 0x0A]
  | .minmaxSubs o => [packA o 6 0x0A]
  | .cmpEq o => [packA o 0 0x0C]
  | .cmpNe o => [packA o 1 0x0C]
  | .cmpLt o => [packA o 2 0x0C]
  | .cmpGe o => [packA o 3 0x0C]
  | .cmpLtu o => [packA o 4 0x0C]
  | .cmpGeu o => [packA o 5 0x0C]
  | .cmpTst o => [packA o 6 0x0C]
  | .cmpiEq o => [packI (cmpiPack o 0) 0x0E]
  | .cmpiNe o => [packI (cmpiPack o 1) 0x0E]
  | .cmpiLt o => [packI (cmpiPack o 2) 0x0E]
  | .cmpiLtu o => [packI (cmpiPack o 3) 0x0E]
  | .plogAnd o => [packA o 0 0x10]
  | .plogOr o => [packA o 1 0x10]
  | .plogXor o => [packA o 2 0x10]
  | .plogAndn o => [packA o 3 0x10]
  | .plogNot o => [packA o 4 0x10]
  | .plogSetx o => [packA o 5 0x10]
  | .plogGetx o => [packA o 6 0x10]
  | .gmovGet o => [packA o 0 0x12]
  | .gmovAgree o => [packA o 1 0x12]
  | .gmovPut o => [packA o 2 0x12]
  | .gmovAny o => [packA o 3 0x12]
  | .gmovAll o => [packA o 4 0x12]
  | .gmovCount o => [packA o 5 0x12]
  | .idLvl o => [packA o 0 0x14]
  | .idCore o => [packA o 1 0x14]
  | .idGpos o => [packA o 2 0x14]
  | .idGwid o => [packA o 3 0x14]
  | .idClus o => [packA o 4 0x14]
  | .idCnt o => [packA o 5 0x14]
  | .idLane o => [packA o 6 0x14]
  | .idPkg o => [packA o 7 0x14]
  | .br o => [packB o 0x20]
  | .jal o => [packB o 0x22]
  | .jr o => [packA o 0 0x24]
  | .endCommit o => [packA o 0 0x26]
  | .endRetry o => [packA o 1 0x26]
  | .endFail o => [packA o 2 0x26]
  | .regionOpen o => [packA o 0 0x28]
  | .regionClose o => [packA o 1 0x28]
  | .gangSplit o => [packB o 0x2A]
  | .gangFuse o => [packB o 0x2A]
  | .gangAlign o => [packB o 0x2A]
  | .moviLo o => [packA o.o 0 0x01, o.imm]
  | .moviHi o => [packA o.o 1 0x01, o.imm]
  | .moviZ o => [packA o.o 2 0x01, o.imm]
  | .alulAdd o => [packA o.o 0 0x03, o.imm]
  | .alulAnd o => [packA o.o 1 0x03, o.imm]
  | .alulOr o => [packA o.o 2 0x03, o.imm]
  | .alulXor o => [packA o.o 3 0x03, o.imm]
  | .alulShl o => [packA o.o 4 0x03, o.imm]
  | .alulShr o => [packA o.o 5 0x03, o.imm]
  | .alulSra o => [packA o.o 6 0x03, o.imm]
  | .varithAdd o => [packA o 0 0x30]
  | .varithSub o => [packA o 1 0x30]
  | .varithMul o => [packA o 2 0x30]
  | .varithMin o => [packA o 3 0x30]
  | .varithMax o => [packA o 4 0x30]
  | .varithAdds o => [packA o 5 0x30]
  | .varithSubs o => [packA o 6 0x30]
  | .varithAbs o => [packA o 7 0x30]
  | .vfmaFma o => [packA o 0 0x32]
  | .vfmaFms o => [packA o 1 0x32]
  | .vfmaFnma o => [packA o 2 0x32]
  | .vfmaFnms o => [packA o 3 0x32]
  | .vdotBf16 o => [packA o 0 0x40]
  | .vdotFp16 o => [packA o 1 0x40]
  | .vdotE4m3 o => [packA o 2 0x40]
  | .vdotE5m2 o => [packA o 3 0x40]
  | .vdotI8 o => [packA o 4 0x40]
  | .vdotU8 o => [packA o 5 0x40]
  | .vdotI8u8 o => [packA o 6 0x40]
  | .vredAdd o => [packA o 0 0x3E]
  | .vredMin o => [packA o 1 0x3E]
  | .vredMax o => [packA o 2 0x3E]
  | .vredAddw o => [packA o 3 0x3E]
  | .vredAnd o => [packA o 4 0x3E]
  | .vredOr o => [packA o 5 0x3E]
  | .vredXor o => [packA o 6 0x3E]
  | .vredImax o => [packA o 7 0x3E]
  | .vlogicAnd o => [packA o 0 0x34]
  | .vlogicOr o => [packA o 1 0x34]
  | .vlogicXor o => [packA o 2 0x34]
  | .vlogicAndn o => [packA o 3 0x34]
  | .vlogicNot o => [packA o 4 0x34]
  | .vlogicShl o => [packA o 5 0x34]
  | .vlogicShr o => [packA o 6 0x34]
  | .vlogicSra o => [packA o 7 0x34]
  | .vcmpEq o => [packA o 0 0x36]
  | .vcmpNe o => [packA o 1 0x36]
  | .vcmpLt o => [packA o 2 0x36]
  | .vcmpLe o => [packA o 3 0x36]
  | .vcmpLtu o => [packA o 4 0x36]
  | .vcmpLeu o => [packA o 5 0x36]
  | .vcmpUn o => [packA o 6 0x36]
  | .vselSel o => [packA o 0 0x38]
  | .vselZero o => [packA o 1 0x38]
  | .vselCmpr o => [packA o 2 0x38]
  | .vselExpd o => [packA o 3 0x38]
  | .vcvtRne o => [packA o 0 0x3A]
  | .vcvtRtz o => [packA o 1 0x3A]
  | .vcvtRup o => [packA o 2 0x3A]
  | .vcvtRdn o => [packA o 3 0x3A]
  | .vcvtSto o => [packA o 4 0x3A]
  | .vcvtWide o => [packA o 5 0x3A]
  | .vscaleLdexp o => [packA o 0 0x4C]
  | .vscaleMx o => [packA o 1 0x4C]
  | .vscaleSb4 o => [packA o 2 0x4C]
  | .vscaleCb o => [packA o 3 0x4C]
  | .vcbDec o => [packA o 0 0x4A]
  | .vsfuExp2 o => [packA o 0 0x42]
  | .vsfuLog2 o => [packA o 1 0x42]
  | .vsfuRcp o => [packA o 2 0x42]
  | .vsfuRsqrt o => [packA o 3 0x42]
  | .vsfuSqrt o => [packA o 4 0x42]
  | .vsfuSin o => [packA o 5 0x42]
  | .vsfuCos o => [packA o 6 0x42]
  | .vsfuTanh o => [packA o 7 0x42]
  | .vsfu2Sigm o => [packA o 0 0x44]
  | .vsfu2Gelut o => [packA o 1 0x44]
  | .vsfu2Gelue o => [packA o 2 0x44]
  | .vsfu2Silu o => [packA o 3 0x44]
  | .vsfu2Erf o => [packA o 4 0x44]
  | .vsfu2Softp o => [packA o 5 0x44]
  | .vmovMov o => [packA o 0 0x46]
  | .vmovBcast o => [packA o 1 0x46]
  | .vmovIns o => [packA o 2 0x46]
  | .vmovExt o => [packA o 3 0x46]
  | .vpermPerm o => [packA o 0 0x3C]
  | .vpermZiplo o => [packA o 1 0x3C]
  | .vpermZiphi o => [packA o 2 0x3C]
  | .vpermUzpe o => [packA o 3 0x3C]
  | .vpermUzpo o => [packA o 4 0x3C]
  | .vpermSplat o => [packA o 5 0x3C]
  | .vpermRev o => [packA o 6 0x3C]
  | .vlinkPop o => [packA o 0 0x48]
  | .vlinkPeek o => [packA o 1 0x48]
  | .vlinkSkip o => [packA o 2 0x48]
  | .sendX o => [packA o 0 0x50]
  | .sendV o => [packA o 1 0x50]
  | .sendNz o => [packA o 2 0x50]
  | .recvW o => [packA o 0 0x52]
  | .recvTry o => [packA o 1 0x52]
  | .recvHdr o => [packA o 2 0x52]
  | .recvDrop o => [packA o 3 0x52]
  | .chanSlot o => [packA o 0 0x54]
  | .chanHdr o => [packA o 1 0x54]
  | .chanCnt o => [packA o 2 0x54]
  | .barInit o => [packA o 0 0x56]
  | .barArrive o => [packA o 1 0x56]
  | .barWait o => [packA o 2 0x56]
  | .barSync o => [packA o 3 0x56]
  | .barQuery o => [packA o 4 0x56]
  | .ldB o => [packA o.o 0 0x11, packM o]
  | .ldH o => [packA o.o 1 0x11, packM o]
  | .ldW o => [packA o.o 2 0x11, packM o]
  | .ldD o => [packA o.o 3 0x11, packM o]
  | .ldBs o => [packA o.o 4 0x11, packM o]
  | .ldHs o => [packA o.o 5 0x11, packM o]
  | .ldWs o => [packA o.o 6 0x11, packM o]
  | .stB o => [packA o.o 0 0x13, packM o]
  | .stH o => [packA o.o 1 0x13, packM o]
  | .stW o => [packA o.o 2 0x13, packM o]
  | .stD o => [packA o.o 3 0x13, packM o]
  | .vldV o => [packA o.o 0 0x15, packM o]
  | .vldBc o => [packA o.o 1 0x15, packM o]
  | .vstV o => [packA o.o 0 0x17, packM o]
  | .vstE o => [packA o.o 1 0x17, packM o]
  | .ldfKeep o => [packA o.o 0 0x19, packM o]
  | .ldfTake o => [packA o.o 1 0x19, packM o]
  | .steFill o => [packA o.o 0 0x1B, packM o]
  | .steKeep o => [packA o.o 1 0x1B, packM o]
  | .feTest o => [packA o 0 0x5E]
  | .feSet o => [packA o 1 0x5E]
  | .feClr o => [packA o 2 0x5E]
  | .feTas o => [packA o 3 0x5E]
  | .feSetr o => [packA o 4 0x5E]
  | .feClrr o => [packA o 5 0x5E]
  | .waitLe o => [packA o 0 0x5C]
  | .waitLex o => [packA o 1 0x5C]
  | .cachePf o => [packA o.o 0 0x21, packM o]
  | .cachePfl1 o => [packA o.o 1 0x21, packM o]
  | .cacheNu o => [packA o.o 2 0x21, packM o]
  | .cacheWb o => [packA o.o 3 0x21, packM o]
  | .cacheWbinv o => [packA o.o 4 0x21, packM o]
  | .rclkRead o => [packA o.o 0 0x23, o.imm]
  | .rclkAdv o => [packA o.o 1 0x23, o.imm]
  | .rclkDflt o => [packA o.o 2 0x23, o.imm]
  | .pinWin o => [packA o.o 0 0x25, packM o]
  | .pinSize o => [packA o.o 1 0x25, packM o]
  | .amoAdd o => [packA o.o 0 0x29, packM o]
  | .amoAddb o => [packA o.o 1 0x29, packM o]
  | .amoMin o => [packA o.o 2 0x29, packM o]
  | .amoMax o => [packA o.o 3 0x29, packM o]
  | .amoAnd o => [packA o.o 4 0x29, packM o]
  | .amoOr o => [packA o.o 5 0x29, packM o]
  | .amoXor o => [packA o.o 6 0x29, packM o]
  | .amoSwap o => [packA o.o 7 0x29, packM o]
  | .cas o => [packA o.o 0 0x2B, packM o]
  | .redAdd o => [packA o.o 0 0x2D, packM o]
  | .redMin o => [packA o.o 1 0x2D, packM o]
  | .redMax o => [packA o.o 2 0x2D, packM o]
  | .redAnd o => [packA o.o 3 0x2D, packM o]
  | .redOr o => [packA o.o 4 0x2D, packM o]
  | .redXor o => [packA o.o 5 0x2D, packM o]
  | .redFmin o => [packA o.o 6 0x2D, packM o]
  | .redFmax o => [packA o.o 7 0x2D, packM o]
  | .xlatProbe o => [packA o.o 0 0x2F, packM o]
  | .xlatTouch o => [packA o.o 1 0x2F, packM o]
  | .xlatInv o => [packA o.o 2 0x2F, packM o]
  | .fenceOrd o => [packA o 0 0x64]
  | .trap o => [packI o 0x6A]
  | .sysR o => [packI o 0x6C]
  | .sysW o => [packI o 0x6C]
  | .tresolveWrite _ _ => []
  | .taskMma o => [packA o.o 0 0x31, packE o]
  | .taskMmav o => [packA o.o 1 0x31, packE o]
  | .taskEw o => [packA o.o 2 0x31, packE o]
  | .taskRed o => [packA o.o 3 0x31, packE o]
  | .taskCvt o => [packA o.o 4 0x31, packE o]
  | .taskTr o => [packA o.o 5 0x31, packE o]
  | .vstopCur o => [packA o.o 0 0x33, o.imm]
  | .vwaitVer o => [packA o.o 0 0x35, o.imm]
  | .vwaitFin o => [packA o.o 1 0x35, o.imm]
  | .vwaitSet o => [packA o.o 2 0x35, o.imm]
  | .vwaitSets o => [packA o.o 3 0x35, o.imm]
  | .vwaitPoll o => [packA o.o 4 0x35, o.imm]
  | .cbldMe o => [packA o.o 0 0x37, packE o]
  | .cbldNb o => [packA o.o 1 0x37, packE o]
  | .copyCp o => [packA o.o 0 0x41, packE o]
  | .copyFill o => [packA o.o 1 0x41, packE o]
  | .copyChan o => [packA o.o 2 0x41, packE o]
  | .copyStat o => [packA o.o 5 0x41, packE o]
  | .copyRsm o => [packA o.o 6 0x41, packE o]
  | .copyAbrt o => [packA o.o 7 0x41, packE o]
  | .gatherG o => [packA o.o 0 0x43, packE o]
  | .gatherS o => [packA o.o 1 0x43, packE o]
  | .twalkLd o => [packA o.o 0 0x45, packE o]
  | .twalkWb o => [packA o.o 1 0x45, packE o]
  | .nbmvMv o => [packA o.o 0 0x47, packE o]
  | .attnBlk o => [packA o.o 0 0x49, packE o]
  | .attnMrg o => [packA o.o 1 0x49, packE o]
  | .sampleHist o => [packA o.o 0 0x4B, packE o]
  | .sampleThr o => [packA o.o 1 0x4B, packE o]
  | .sampleMass o => [packA o.o 2 0x4B, packE o]
  | .sampleDraw o => [packA o.o 3 0x4B, packE o]
  | .textNorm o => [packA o.o 0 0x4D, packE o]
  | .textTbl o => [packA o.o 1 0x4D, packE o]
  | .aMoviLo o => packC o 0x01
  | .aMoviHi o => packC o 0x01
  | .aMoviZ o => packC o 0x01
  | .aMov o => packC o 0x02
  | .aAdd o => packC o 0x03
  | .aSub o => packC o 0x04
  | .aAnd o => packC o 0x05
  | .aOr o => packC o 0x06
  | .aXor o => packC o 0x07
  | .aShl o => packC o 0x08
  | .aShr o => packC o 0x09
  | .aMul o => packC o 0x0A
  | .aCmp o => packC o 0x0B
  | .aBr o => packC o 0x10
  | .aJmp o => packC o 0x11
  | .aCall o => packC o 0x12
  | .aRet o => packC o 0x13
  | .aLd o => packC o 0x18
  | .aSt o => packC o 0x19
  | .aWaitPend o => packC o 0x20
  | .aWaitSig o => packC o 0x20
  | .aWaitAll o => packC o 0x20
  | .aSigSlot o => packC o 0x21
  | .aSigHost o => packC o 0x21
  | .aYield o => packC o 0x22
  | .aHalt o => packC o 0x23
  | .aKlaunch o => packC o 0x28
  | .aFence o => packC o 0x29
  | .cNew o => packC o 0x40
  | .cFork o => packC o 0x41
  | .cDrop o => packC o 0x42
  | .cTrim o => packC o 0x43
  | .cLen o => packC o 0x44
  | .cRead o => packC o 0x45
  | .cHint o => packC o 0x46
  | .cPin o => packC o 0x47
  | .cUnpin o => packC o 0x48
  | .cProg o => packC o 0x49
  | .cBind o => packC o 0x4A
  | .cGram o => packC o 0x4B
  | .cSamp o => packC o 0x4C
  | .cApp o => packC o 0x60
  | .cGen o => packC o 0x61
  | .cScore o => packC o 0x62
  | .cChoose o => packC o 0x63
  | .cSpec o => packC o 0x64
  | .vfEnable _ => []
  | .illegalEncoding _ _ => []
  | .instructionFetchFault _ _ _ => []
  | .agentIllegalWord _ => []
  | .agentFetchFault => []
  | .windowUncorrectableError _ _ _ => []
  | .clusterUnitFailure _ => []
  | .coherentStorePerform _ _ _ => []

end Sys2Proof
end

