-- ==== Sys2Proof/Machine/State.lean ====
section
/-! DEFINITION. The state of the part as plain data, and the state right after reset. Sparse lists stand for the
part's many like units (8,192 cores, 65,536 slots): a unit that no entry names is at its reset value. -/

namespace Sys2Proof.Machine

/-- Memory as (key, byte) pairs, keys strictly rising, no byte 0 listed: an unlisted byte reads as 0 (log 1 and log 2, DESIGN CHOICE). A
key is region × 2^64 + address; the regions are those of `Region` in Ops.lean. -/
abbrev Mem := List Host.Cell

/-- A reason the machine stops. -/
inductive Fault where
  /-- Raised when the state names a launch, actor, channel or register that it does not hold, which no run from reset
  reaches. Safe: the machine stops where the hardware has no such state. -/
  | inconsistent (what : String)
deriving DecidableEq, Repr

/-- Why a move has no meaning in a state. -/
inductive Refusal where
  /-- Raised by an arm of exec whose instruction has no meaning yet. Safe. -/
  | notModelled (mnemonic : String)
  /-- Raised by an event whose condition (R246) does not hold: no such step of the part exists in this state. Safe. -/
  | notEnabled (event : String)
  /-- Raised by a kernel-level instruction when no firing runs on the acting core (R15: nothing runs that was not
  started). Safe. -/
  | noFiring
  /-- Raised by a context-level word when no running agent is the acting party (R372). Safe. -/
  | noAgent
deriving DecidableEq, Repr

/-- The party whose move it is. -/
inductive Party where
  | none
  | core (c i : Nat)
  | agent (slot : Nat)
deriving DecidableEq, Repr

/-! ### Kernel level: launches, actors, channels (R15 to R29, R89, R163 to R185) -/

/-- A level entry of a launch record (R16). -/
structure Level where
  dom : Nat := 0
  scope : Nat := 0
  clk : Bool := false
  ind : Bool := false
  count : Word := 0
  max : Nat := 0
deriving DecidableEq, Repr

/-- An actor entry of a graph block (R89); a rate list is (channel id, rate) pairs. -/
structure Actor where
  entry : Word := 0
  wdog : Nat := 0
  rst : Bool := false
  gw : Nat := 0
  scope : Nat := 0
  lvl : Nat := 0
  ins : List (Nat × Nat) := []
  outs : List (Nat × Nat) := []
deriving DecidableEq, Repr

/-- A channel entry of a graph block (R89). -/
structure ChanDecl where
  slots : Nat := 1
  bytes : Nat := 8
  base : Nat := 0
deriving DecidableEq, Repr

/-- A graph block as read at acceptance (R89). -/
structure Graph where
  swin : Nat := 0
  cwin : Nat := 0
  chwin : Nat := 0
  actors : List Actor := []
  chans : List ChanDecl := []
deriving DecidableEq, Repr

/-- Who asked for a launch (R15); a step launch names the tenant and the model instance it serves. -/
inductive Origin where
  | queue
  | supl
  | klaunch (slot reg : Nat)
  | step (v inst : Nat)
deriving DecidableEq, Repr

/-- A window of a launch in an explicit memory (R189): space 4, 5 or 6, the die or cluster, and its place there. -/
structure Window where
  space : Nat := 5
  place : Nat := 0
  base : Nat := 0
  size : Nat := 0
deriving DecidableEq, Repr

/-- An accepted launch (R16 to R23). -/
structure Launch where
  id : Nat := 0
  tenant : Nat := 0
  recVa : Word := 0
  done : Word := 0
  after : Word := 0
  wdg : Nat := 0
  rst : Bool := false
  levels : List Level := []
  graph : Graph := {}
  origin : Origin := .queue
  /-- Waiting for the after word or for its indirect counts (R20). -/
  held : Bool := true
  counts : List Nat := []
  failed : Bool := false
  taken : List (List Nat) := []
  finished : List (List Nat) := []
  clocks : List (ClockId × W32) := []
  /-- The partition as it stood at acceptance, over which its instances are numbered (R20). -/
  part : BitVec 1024 := 0
  /-- The timestamp that its acceptance acquires (R251, R267). -/
  ts : Nat := 0
  /-- The greatest timestamp of a write of a coherent line that its completion covers (R251, R266). -/
  wts : Nat := 0
  windows : List Window := []
deriving DecidableEq, Repr

/-- What an actor instance is doing (R25 to R27, R90, R271). `spent` is a source that has ended. -/
inductive InstState where
  | waiting
  | eligible
  | firing (f : Nat)
  | held (seq : Nat)
  | failed
  | spent
deriving DecidableEq, Repr

/-- The registers captured at `region.open` and kept by an urgent discard (R279). -/
structure Capture where
  entry : Word := 0
  mask : Word := 0
  x : Vector Word 32 := .replicate 32 0
  v : Vector Vec 32 := .replicate 32 0
  p : Vector (BitVec 16) 8 := .replicate 8 0
  g : Vector Word 32 := .replicate 32 0
  gp : BitVec 8 := 0
deriving DecidableEq, Repr

/-- A message in flight, in an inbox or staged (R169 to R175). `pop` counts the words already popped from it. -/
structure Msg where
  id : Nat := 0
  tenant : Nat := 0
  launch : Nat := 0
  kind : Nat := 1
  wq : Nat := 0
  sclus : Nat := 0
  sact : Nat := 0
  addr : Word := 0
  /-- The payload as local elements, widened at the receiver (R175). -/
  words : List Word := []
  pop : Nat := 0
  /-- Sent by the part on its own path, not through an outbound queue (R274, R303). -/
  own : Bool := false
  /-- For a notice (R303): the task and the version it announces. -/
  note : Option (Nat × Nat) := none
  /-- The firing whose commit sent it (R257). -/
  firing : Nat := 0
  /-- The accesses that this release covers and that were not yet Done at system scope (R257, R259). -/
  covers : List Nat := []
  /-- The timestamp that its release carries (R251, R258). -/
  ts : Nat := 0
  /-- The actor instance that it was delivered to. -/
  inst : Nat := 0
  /-- FENCEs with M in succ that its cores had issued and that had not completed when it was staged (R255). -/
  fences : List Nat := []
deriving DecidableEq, Repr

/-- One port's reservation of a firing (R164): the channel id, the direction and the slots in the order taken. -/
structure Resv where
  chan : Nat := 0
  input : Bool := true
  slots : List Nat := []
deriving DecidableEq, Repr

/-- An urgent discard's saved firing (R279): one capture for each core, flags, count and transaction state. -/
structure Discard where
  cores : List (Capture × BitVec 7) := []
  wdcount : Nat := 0
  resv : List Resv := []
  staged : List Msg := []
  popped : Nat := 0
deriving DecidableEq, Repr

/-- An actor instance (R24 to R27). `group` restricts it to a core or gang (R106): first core and width. -/
structure Inst where
  id : Nat := 0
  launch : Nat := 0
  tenant : Nat := 0
  actor : Nat := 0
  path : List Nat := []
  clus : Nat := 0
  group : Option (Nat × Nat) := none
  st : InstState := .waiting
  age : Nat := 0
  since : Nat := 0
  attempt : Nat := 0
  /-- Cores that a restart must exclude (R281). -/
  avoid : Option Nat := none
  /-- Reservations kept by a restart (R281). -/
  kept : Option (List Resv) := none
  disc : Option Discard := none
  /-- The timestamp of the resolution that its next firing acquires with its binding (R258, R275). -/
  ts : Nat := 0
  /-- The accesses that this resolution covers and that were not yet Done at system scope. -/
  pend : List Nat := []
  /-- Notices that the trapped firing had reserved or popped, which a resolution by fail acknowledges (R303). -/
  notes : List (Nat × Nat) := []
  /-- A resolution written while its cluster's state is saved: its act, timestamp and pending accesses, for the
  tenant's return (R283). -/
  todo : Option (Nat × Nat × List Nat) := none
deriving DecidableEq, Repr

/-- A channel instance (R163, R164): the free and filled lists, the reserved counts and each slot's header (R170). -/
structure Chan where
  clus : Nat := 0
  launch : Nat := 0
  tenant : Nat := 0
  chan : Nat := 0
  slots : Nat := 1
  bytes : Nat := 8
  /-- Absolute offset of slot 0 in the cluster memory. -/
  base : Nat := 0
  free : List Nat := []
  filled : List Nat := []
  er : Nat := 0
  fr : Nat := 0
  hdrs : List Word := []
  /-- The notice a slot holds, if any (R303), by slot. -/
  notes : List (Nat × Nat × Nat) := []
  /-- What the commit that filled a slot covers and was not yet Done at system scope, by slot (R257, R259). -/
  rel : List (Nat × List Nat) := []
  /-- The timestamp that this release carries, by slot (R251, R258). -/
  relTs : List (Nat × Nat) := []
deriving DecidableEq, Repr

/-- What the arrivals of one phase of a barrier release (R185): the phase, counted from the allotment of the group, the
cores whose lead counters went to it, the accesses covered and not yet Done at system scope, and the greatest timestamp of
an arrival (R251). -/
structure BarRel where
  no : Nat := 0
  cores : List Nat := []
  pend : List Nat := []
  ts : Nat := 0
deriving DecidableEq, Repr

/-- A barrier (R183). -/
structure Bar where
  n : Nat := 0
  phase : BitVec 2 := 0
  counts : Nat × Nat × Nat := (0, 0, 0)
  lead : List Nat := [0, 0, 0, 0, 0, 0, 0, 0]
  /-- Phases that have completed. -/
  done : Nat := 0
  rels : List BarRel := []
deriving DecidableEq, Repr

/-- A barrier group held by a launch on a cluster (R182). -/
structure BarGroup where
  clus : Nat := 0
  launch : Nat := 0
  group : Nat := 0
  bars : List Bar := [{}, {}, {}, {}]
deriving DecidableEq, Repr

/-! ### Kernel level: firings and cores (R58 to R62, R109, R112 to R118, R247) -/

/-- A uniform file (R58). Bit 0 of gp is not used: gp0 reads 1. -/
structure UFile where
  g : Vector Word 32 := .replicate 32 0
  gp : BitVec 8 := 0
deriving DecidableEq, Repr

/-- What holds a core's issue besides its instruction's own condition. -/
inductive Busy where
  | none
  /-- Waiting at `gang.fuse` with its target, and the word of that instruction (R115, R272). -/
  | fuse (target : Word) (w0 : W32)
  /-- Waiting in a write of `tresolve` (R275). -/
  | resolve (val : Word)
  /-- Arrived at a `bar.sync` in this phase and waiting (R184). -/
  | arrived (phase : BitVec 2)
  /-- Waiting at a bank or for a reply that must return before issue goes on (R195, R236, R240). -/
  | reply (acc : Nat)
  /-- Waiting for a task's acceptance (R290). -/
  | task (sub : Nat)
  /-- Waiting on a page request or translation request (R233). -/
  | page (req : Nat)
  /-- In an `fe.setr` or `fe.clrr`: the key of its first word, how many words have changed, and how many it names (R196). -/
  | words (key done n : Nat)
  /-- Its engine command or task has issued, and other cores of the gang have still to issue theirs (R260). -/
  | issued
deriving DecidableEq, Repr

/-- The firing registers of one core (R58, R109), its region (R137) and its two link queues (R145). -/
structure Core where
  idx : Nat := 0
  pc : Word := 0
  x : Vector Word 32 := .replicate 32 0
  v : Vector Vec 32 := .replicate 32 0
  p : Vector (BitVec 16) 8 := .replicate 8 0
  /-- The private uniform file while the gang is split (R114). -/
  u : UFile := {}
  nflags : BitVec 7 := 0
  rgentry : Word := 0
  rgmask : Word := 0
  capture : Option (Capture × BitVec 7) := none
  /-- The queue that this core pops through `lw`, and the one it pops through `le`. -/
  lw : List Vec := []
  le : List Vec := []
  /-- Default next-use classes of spaces 0x0 and 0x1 (R207, R222). -/
  dfl0 : BitVec 5 := 16
  dfl1 : BitVec 5 := 16
  busy : Busy := .none
deriving DecidableEq, Repr

/-- A firing (R26, R27). `u` is the gang's one uniform file while fused. -/
structure Firing where
  id : Nat := 0
  inst : Nat := 0
  launch : Nat := 0
  tenant : Nat := 0
  clus : Nat := 0
  actor : Nat := 0
  lead : Nat := 0
  split : Bool := false
  u : UFile := {}
  cores : List Core := []
  wdcount : Nat := 0
  wdlimit : Nat := 65536
  issued : Bool := false
  attempt : Nat := 0
  resv : List Resv := []
  staged : List Msg := []
  /-- Words popped from the direct queue by this firing (R179, R180). -/
  popped : Nat := 0
  /-- Staged sends, popped words as they stood at the last `region.open` (R279). -/
  mark : Nat × Nat := (0, 0)
  /-- Ended by `end.commit`, waiting for R165 and R173. -/
  ending : Bool := false
deriving DecidableEq, Repr

/-- How an access is ordered (R248) and served. -/
inductive AccKind where
  | load
  | store
  | ldf
  | ste
  | fe
  | amo
  | cas
  | red
  | cache
  | pin
  | xlatInv
  | fence
deriving DecidableEq, Repr

/-- Where a returning value goes. A vector destination holds the element width in bytes and whether one element is
broadcast (R198); 30 and 31 push a link. -/
inductive Dest where
  | none
  | x (r : Nat)
  | g (r : Nat)
  | vec (r w : Nat) (bc : Bool) (mask : BitVec 16)
deriving DecidableEq, Repr

/-- An access of a core, from issue until it is Done: one entry of the core's order (R247, R253). A FENCE is an entry
too: it holds the later accesses of its successor sets (R255). -/
structure Acc where
  id : Nat := 0
  firing : Nat := 0
  /-- Made once for a fused gang (k = 1), in the leader's order (R248). -/
  gang : Bool := false
  /-- The cores that it belongs to, from its own on; for a FENCE, the width of its firing and `home` the first core. -/
  width : Nat := 1
  launch : Nat := 0
  tenant : Nat := 0
  kind : AccKind := .load
  /-- Space code of the effective address (R186). -/
  space : Nat := 0
  /-- Bits L, S, E, M, A of R255 that name it. -/
  sets : BitVec 5 := 0
  ea : Word := 0
  /-- Key of its first byte in memory. -/
  key : Nat := 0
  size : Nat := 8
  /-- Bytes it writes (R198). -/
  bytes : BitVec 16 := 0
  /-- The four 4-byte pieces of a lane-slice vector access (R198). -/
  lanes : Bool := false
  data : Vec := 0
  data2 : Vec := 0
  /-- Function and q of an atomic, a full/empty operation or a CACHE operation. -/
  fn : Nat := 0
  q : Nat := 0
  sext : Bool := false
  dest : Dest := .none
  /-- Predicate written besides the destination (addb, FE); 0 for none, and whether it is a gp. -/
  pred : Nat := 0
  predGp : Bool := false
  performed : Bool := false
  val : Vec := 0
  /-- Refusal or full/empty outcome returned in the predicate. -/
  flag : Bool := false
  /-- The page it translated through (R231): device or host, base and size. -/
  page : Option (Bool × Nat × Nat) := none
  /-- Home core of a coherent or host line (R202), die × 2048 + core. -/
  home : Nat := 0
  nu : BitVec 5 := 0
  /-- The issuing core's default class for the space (R207). -/
  dfl : BitVec 5 := 16
  pol : BitVec 3 := 0
  /-- Reuse-clock value it took (R205) and that clock. -/
  tick : W32 := 0
  clk : ClockId := {}
  /-- A remote access that has been sent (R263), and one whose flush markers are gathered (R264). -/
  sent : Bool := false
  /-- The path that it was sent on. -/
  path : Nat := 0
  gathered : Bool := false
  /-- FENCE only (R255): predecessor and successor sets and the scope; `fn` is how many sends were staged before it. A FENCE
  that has completed leaves the order. -/
  pset : BitVec 5 := 0
  sset : BitVec 5 := 0
  scope : Nat := 0
  /-- Accesses that it releases when it performs (R257). -/
  covers : List Nat := []
  /-- The greatest timestamp of what it covers (R251, R258). -/
  ts : Nat := 0
  /-- The instruction by which a fused gang makes one atomic for each core, 0 for none (R287). -/
  grp : Nat := 0
  /-- FENCE only: for each message popped before it, the accesses that its commit covers and the timestamp that it carries
  (R265). -/
  senders : List (List Nat × Nat) := []
  /-- The words of its instruction and their address, for a trap that comes after its issue (R219, R236). -/
  words : List W32 := []
  pc : Word := 0
  /-- Cause that a remote package answered with, 0 for none (R236). -/
  cause : Nat := 0
deriving DecidableEq, Repr

/-- What a release leaves at the location that it wrote: an entry of a narrow-holder directory (R247, R259). Core i of
cluster c released it at a scope, from a gang of `width` cores from `lead` on; `pend` are the covered accesses, by
identity, that were not yet Done at system scope (log 12, DEDUCED). An entry whose location has been written since is
`old`: a read publishes it, and acquires nothing. -/
structure Rel where
  c : Nat := 0
  i : Nat := 0
  scope : Nat := 0
  lead : Nat := 0
  width : Nat := 1
  key : Nat := 0
  size : Nat := 8
  pend : List Nat := []
  old : Bool := false
deriving DecidableEq, Repr

/-- A timestamp that a released location carries to the reader of its value (R251, R258). -/
structure Carry where
  key : Nat := 0
  size : Nat := 8
  ts : Nat := 0
deriving DecidableEq, Repr

/-- A coherent line held by an L1 (R247): its bytes when it was leased, and what its locations then carried. -/
structure Lease where
  line : Nat := 0
  data : Mem := []
  wts : Nat := 0
  rts : Nat := 0
  rels : List Rel := []
  acq : List Carry := []
deriving DecidableEq, Repr

/-- A RED update copy of one word in an L1 (R243). -/
structure Update where
  key : Nat := 0
  size : Nat := 8
  fn : Nat := 0
  q : Nat := 0
  val : Word := 0
  /-- The greatest timestamp of its core when an operand entered. -/
  ts : Nat := 0
deriving DecidableEq, Repr

/-- What a load or atomic has read of a release, until a FENCE with its set in pred acquires it (R257, R258). -/
structure Seen where
  acc : Nat := 0
  sets : BitVec 5 := 0
  pend : List Nat := []
  ts : Nat := 0
deriving DecidableEq, Repr

/-- A FENCE of a core that has completed (R255): later accesses with their set in `sset` are releases at its scope (R257).
They cover the accesses `pend`, not yet Done at system scope, and carry `ts`. -/
structure FenceRec where
  sset : BitVec 5 := 0
  scope : Nat := 0
  lead : Nat := 0
  width : Nat := 1
  pend : List Nat := []
  ts : Nat := 0
deriving DecidableEq, Repr

/-- What a core holds beyond its firing (R247, R281). -/
structure PCore where
  c : Nat := 0
  i : Nat := 0
  pts : Nat := 0
  /-- The greatest timestamp that an explicit access of its own gave a coherent line. -/
  ets : Nat := 0
  accs : List Acc := []
  leases : List Lease := []
  updates : List Update := []
  /-- Accesses of other cores that it has acquired and that were not yet Done at system scope (R258). -/
  owed : List Nat := []
  seen : List Seen := []
  fences : List FenceRec := []
  /-- Paths to other packages that it has used since its last flush marker there (R264): package and path. -/
  used : List (Nat × Nat) := []
  errAt : Option Nat := none
  out : Bool := false
deriving DecidableEq, Repr

/-- An LDF or STE waiting at a bank (R194). -/
structure FeWaiter where
  c : Nat := 0
  i : Nat := 0
  acc : Nat := 0
deriving DecidableEq, Repr

/-- A group of cores that the scheduler keeps closed for a starved instance (R107). -/
structure Closed where
  c : Nat := 0
  inst : Nat := 0
  lead : Nat := 0
  width : Nat := 1
deriving DecidableEq, Repr

/-! ### Records (R272 to R275) -/

/-- A record waiting to be written (R272, R274). -/
structure Record where
  die : Nat := 0
  tenant : Nat := 0
  cause : Nat := 0
  rtype : Nat := 0
  core : Nat := 0xFF
  clus : Nat := 0xFFFF
  actid : Nat := 0xFF
  sub : Nat := 0
  pc : Word := 0
  addr : Word := 0
  w0 : W32 := 0
  w1 : W32 := 0
  val : Word := 0
  info : Word := 0
  wdc : Nat := 0
  flags : BitVec 7 := 0
  /-- The reporting firing, whose stores it waits for, and the instance that an rtype-1 record holds. -/
  firing : Nat := 0
  inst : Nat := 0
  /-- The greatest timestamp of that firing's cores, which its announcement carries (R251, R274). -/
  ts : Nat := 0
deriving DecidableEq, Repr

/-! ### L2 (R201 to R219) -/

/-- A line of a slice (R208). `line` is its key / 256; `since` the clk at which it became dead, overdue, an orphan or
protected. -/
structure Line where
  slice : Nat := 0
  set : Nat := 0
  way : Nat := 0
  line : Nat := 0
  owner : Nat := 0
  kind : Nat := 0
  clk : Nat := 0
  due : Nat := 0
  touched : Bool := false
  wclk : Option Nat := none
  overdue : Bool := false
  since : Nat := 0
  valid : BitVec 4 := 0
  dirty : BitVec 4 := 0
deriving DecidableEq, Repr

/-- A clock-table entry of a slice (R206). -/
structure ClkEntry where
  slice : Nat := 0
  idx : Nat := 0
  clk : ClockId := {}
  t : Nat := 0
  last : Nat := 0
deriving DecidableEq, Repr

/-- The L2: its lines, its clock tables, the timestamps of coherent lines (R251), poisoned sectors (key / 64, R219) and
lost window bytes (R217). `casts` are the broadcasts on their way, oldest first: slice, clock and value (R206). -/
structure L2 where
  lines : List Line := []
  clks : List ClkEntry := []
  stamps : List (Nat × Nat × Nat) := []
  poison : List Nat := []
  lost : List Nat := []
  casts : List (Nat × ClockId × Nat) := []
deriving DecidableEq, Repr

/-! ### Translation (R226 to R236) -/

/-- A leaf result in a translation cache (R231): of a cluster (sector = false) or of a sector. -/
structure TEntry where
  sector : Bool := false
  unit : Nat := 0
  tenant : Nat := 0
  host : Bool := false
  va : Nat := 0
  size : Nat := 65536
  pa : Nat := 0
  r : Bool := false
  w : Bool := false
  x : Bool := false
  hm : Nat := 0
  die : Nat := 0
  core : Nat := 0
deriving DecidableEq, Repr

/-- What an access wants of a translation (R226). -/
inductive Want where
  | rd
  | wr
  | ex
  | rmw
deriving DecidableEq, Repr

/-- An outstanding Translation Request (phase 0), Page Request (1), the Translation Request after a Success (2), a Page
Request that waits for a free one (3), or the Translation Request of a probe (4), which accesses may join. A waiter is paired
with what it wants (R286). -/
structure PageReq where
  id : Nat := 0
  fn : Nat := 0
  sec : Nat := 0
  page : Nat := 0
  /-- Whether its Page Request asks for write access (R233). -/
  wr : Bool := false
  phase : Nat := 0
  /-- The clk at which its Page Request was sent, or began to wait for a free one (R245). -/
  since : Nat := 0
  waiters : List (Party × Want) := []
  /-- Engine commands that wait on it, and the part's own accesses as command 0. -/
  cmds : List (Nat × Want) := []
  /-- Cores whose probe it answers (R244). -/
  probers : List Party := []
deriving DecidableEq, Repr

/-- An invalidation in progress (R231, R234): what it covers and who is told. -/
structure Inval where
  id : Nat := 0
  fn : Nat := 0
  host : Bool := false
  va : Nat := 0
  size : Nat := 65536
  /-- Counted in invdone when complete; otherwise an `xlat.inv`, an ATS request or the part's own. -/
  driver : Bool := false
  core : Option (Nat × Nat × Nat) := none
deriving DecidableEq, Repr

/-- Translation state of the package. -/
structure Xlat where
  entries : List TEntry := []
  reqs : List PageReq := []
  /-- Parties whose access ends in HOSTPF: the party and the page (R233). -/
  failed : List (Party × Nat) := []
  /-- The same of engine commands, and of the part's own accesses under command number 0: command and page of a function. -/
  failedCmds : List (Nat × Nat) := []
  /-- Completions of probes, not cached (R244). -/
  probed : List (Party × TEntry) := []
  invals : List Inval := []
  /-- The next host read of an engine, a tile task or the part itself is answered with an error (R235). -/
  hostError : Bool := false
deriving DecidableEq, Repr

/-! ### Engines (R316 to R335) -/

/-- A declared range in a cluster's range-lock table (R247, R261). -/
structure Lock where
  c : Nat := 0
  lo : Nat := 0
  hi : Nat := 0
  dst : Bool := false
  cmd : Nat := 0
deriving DecidableEq, Repr

/-- A write of a granule that has not wholly performed (R262, R322): its place, its bytes, those of them still to perform,
and its granule. -/
structure Posted where
  acc : Acc := {}
  bytes : List Byte := []
  mask : Nat := 0
  gran : Nat := 0
deriving DecidableEq, Repr

/-- An engine command from issue to its end (R316 to R324). -/
structure Cmd where
  id : Nat := 0
  tenant : Nat := 0
  launch : Nat := 0
  firing : Nat := 0
  /-- The actor instance whose firing issued it (R20). -/
  inst : Nat := 0
  actor : Nat := 0
  c : Nat := 0
  /-- Cores whose occp it counts in. -/
  cores : List Nat := []
  serial : Nat := 0
  /-- Unit code of R318 and which unit. -/
  unit : Nat := 1
  uidx : Nat := 0
  /-- Major opcode and function. -/
  maj : Nat := 0x41
  fn : Nat := 0
  e : OpE := {}
  blk : List Word := []
  sto : Word × W32 × Word := (0, 0, 0)
  /-- 0 queued, 1 running or stopped, 7 parked (R319). -/
  code : Nat := 0
  /-- Value of the guard register, and whether the guard word has been read (R321). -/
  guard : Word := 0
  begun : Bool := false
  skip : Bool := false
  count : Nat := 0
  /-- Granules that have read, and whose writes are performed or posted (R322); and the one at work. -/
  perf : List Nat := []
  gran : Nat := 0
  outs : List Posted := []
  /-- TWALK `wb`: the slots that it has taken, by tile; each is freed once the tile's writes have performed (R262, R327). -/
  taken : List (Nat × Nat) := []
  /-- Bytes that have been written before the rest of their granule: granule and effective address (R262). -/
  early : List (Nat × Nat) := []
  /-- Source bytes read ahead, by effective address (R262); NBMV's weights by their device address above 15·2^60. -/
  got : List Host.Cell := []
  /-- GATHER `s`: ranges that elements have written, as first address, length and element (R326). -/
  spans : List (Nat × Nat × Nat) := []
  /-- Other packages with writes of it that are not gathered (R262, R264). -/
  away : List Nat := []
  flags : BitVec 7 := 0
  cause : Nat := 0
  /-- NBMV: a VSTOP reached it, and the clk of the latest one, plus 1; its status bits (R329). -/
  halt : Bool := false
  haltAt : Nat := 0
  stp : Bool := false
  ver : Nat := 0
  /-- NBMV: accumulators by vector and row after the published passes (R329), and the base tables that stood when it started:
  it uses one table throughout (R313). -/
  accs : List W32 := []
  tables : List ((Nat × Nat) × List W32) := []
  /-- Stopped under pre-emption (R324). -/
  stopped : Bool := false
  /-- Reuse clock, its value at issue, and the issuing core's default classes (R205, R207). -/
  clk : ClockId := {}
  tick : W32 := 0
  dfl0 : BitVec 5 := 16
  dfl1 : BitVec 5 := 16
  /-- The greatest timestamp of its writes of coherent lines (R251, R262). -/
  wts : Nat := 0
deriving DecidableEq, Repr

/-- Engine state of the package: commands, per-cluster serials (R318), range locks, near-bank tables (R313) by (group,
0 for CB2 and 1 for CB2R), and the check of the latest rejected command by tenant and the unit and cluster that its handle
names (R320). -/
structure Eng where
  cmds : List Cmd := []
  serials : List (Nat × Nat) := []
  locks : List Lock := []
  nbTables : List ((Nat × Nat) × List W32) := []
  rejects : List ((Nat × Nat) × Nat) := []
deriving DecidableEq, Repr

/-! ### Tile tasks (R288 to R315) -/

/-- A TASK or CBLD `me` that waits for acceptance (R290). -/
structure TaskSub where
  id : Nat := 0
  sec : Nat := 0
  c : Nat := 0
  i : Nat := 0
  /-- The cores that wait for it. -/
  cores : List Nat := []
  firing : Nat := 0
  fn : Nat := 0
  cbld : Bool := false
  e : OpE := {}
  blk : List Word := []
  sto : Word × W32 × Word := (0, 0, 0)
  guard : Word := 0
deriving DecidableEq, Repr

/-- An accepted tile task (R290 to R309). -/
structure Task where
  id : Nat := 0
  sec : Nat := 0
  entry : Nat := 0
  serial : Nat := 0
  tenant : Nat := 0
  launch : Nat := 0
  firing : Nat := 0
  inst : Nat := 0
  actor : Nat := 0
  c : Nat := 0
  cores : List Nat := []
  fn : Nat := 0
  cbld : Bool := false
  e : OpE := {}
  blk : List Word := []
  sto : Word × W32 × Word := (0, 0, 0)
  /-- Value of the guard register (R297). -/
  guard : Word := 0
  settle : Nat := 0
  code : Nat := 0
  ver : Nat := 0
  fin : Bool := false
  stp : Bool := false
  flags : BitVec 7 := 0
  cause : Nat := 0
  /-- Rows to write, fixed at the first issue (R297). -/
  rows : Option Nat := none
  /-- The engine (cluster) it runs on. -/
  engine : Option Nat := none
  /-- Passes computed by the latest firing, and the number of firings. -/
  pass : Nat := 0
  firings : Nat := 0
  /-- Producers, not final then, whose versions the latest firing read (producer, version). -/
  seen : List (Nat × Nat) := []
  /-- Operands, by role, that met a producer that was not final at the first firing (R304). -/
  vroles : List Nat := []
  /-- Operand bytes of the latest firing (R304); a key is role × 2^64 + effective address. -/
  inputs : Mem := []
  /-- Accumulators left by the last pass, row-major FP32 or INT32. -/
  accs : List W32 := []
  /-- Rename tile (R295): a computed version that waits to be moved to D, whether it is the last of its firing,
  and its rows. -/
  tile : Option (Nat × Bool × List (Word × List Byte)) := none
  renamed : Bool := false
  /-- The operands, by role, of which a producer that has retired was final on a version that the latest firing did not read,
  and whether one had faulted (R296, R304, R307). -/
  late : List Nat := []
  spoiled : Bool := false
  /-- The engine that a hardware error struck in this pass (R298), and the clk of the latest VSTOP, plus 1 (R315). -/
  shun : Option Nat := none
  stopAt : Nat := 0
  /-- Operand bytes read before the firing starts, by effective address, and bytes of D that the publication under way has
  written (R262, R303). -/
  got : List Host.Cell := []
  early : List Nat := []
  /-- Versions whose notice is not acknowledged (R303). -/
  notes : List Nat := []
  stopped : Bool := false
  clk : ClockId := {}
  tick : W32 := 0
  dfl0 : BitVec 5 := 16
  dfl1 : BitVec 5 := 16
  /-- The greatest timestamp of its writes of coherent lines (R251, R262). -/
  wts : Nat := 0
deriving DecidableEq, Repr

/-- The task schedulers: tasks in acceptance order, submissions, serials, the engines' base tables by tenant, cluster, and
0 for CB2 and 1 for CB2R (those of a saved tenant rest under its number), and the check of the latest rejected task by tenant
and sector (R302). -/
structure Tasks where
  subs : List TaskSub := []
  tasks : List Task := []
  serials : List (Nat × Nat) := []
  meTables : List ((Nat × Nat × Nat) × List W32) := []
  rejects : List ((Nat × Nat) × Nat) := []
deriving DecidableEq, Repr

/-! ### Context level (R77, R338 to R399) -/

/-- The sampler block (R78). A block that nothing has set yet holds the values of R372's start (log 2, DESIGN CHOICE). -/
structure Samp where
  seed : Word := 0
  delta : W32 := 0
  eps : W32 := 0
  topP : W32 := 0x3F800000
  topK : W32 := 0
  res : W32 := 0
  temp : W32 := 0x3F800000
deriving DecidableEq, Repr

/-- A progress record (R380). -/
structure Prog where
  status : Nat := 0
  op : Nat := 0
  resume : Bool := false
  fin : Bool := false
  stop : Nat := 0
  lpc : W32 := 0
  done : Nat := 0
  limit : Nat := 0
  pos : Nat := 0
  draw : Nat := 0
  entry : Nat := 0
  last : Nat := 0
  ref : Nat := 0
  gstate : Nat := 0
  samp : Samp := {}
deriving DecidableEq, Repr

/-- A context's grammar (R368, R392): its number, state, stack reference and stack area. -/
structure Gram where
  num : Nat := 0
  state : Nat := 0
  ref : Nat := 0
  off : Nat := 0
  units : Nat := 1
deriving DecidableEq, Repr

/-- An entry of a context (R340): its length in bytes and its emission, if it is one. -/
structure Entry where
  len : Nat := 1
  em : Option Nat := none
deriving DecidableEq, Repr

/-- A live context (R338), held by register `reg` of slot `slot`. -/
structure Ctx where
  slot : Nat := 0
  reg : Nat := 0
  tenant : Nat := 0
  key : W32 := 0
  bound : Option Nat := none
  /-- B, Q and the home set, as the latest `c.bind` set them (R341, R344, R367). -/
  block : Nat := 256
  ppb : Nat := 1
  homeSet : List Nat := []
  bytes : List Byte := []
  entries : List Entry := []
  /-- For each block, its pages' numbers; and the table index of the context that first wrote it (R344). -/
  blocks : List (List Nat) := []
  first : List Nat := []
  gram : Option Gram := none
  pinned : Bool := false
  hint : Option W32 := none
  poisoned : Bool := false
  prog : Option Prog := none
deriving DecidableEq, Repr

/-- Residency of a context page (R342). -/
inductive PageState where
  | resident
  | twilight
  | absent
  | promoting
deriving DecidableEq, Repr

/-- A context page (R342, R419). -/
structure Page where
  tenant : Nat := 0
  num : Nat := 0
  st : PageState := .resident
  frame : Option Nat := none
  /-- The physical address of the frame, which the part's own table gives (R419). -/
  pa : Nat := 0
  /-- Its place in the backing store from twilight until it is resident again, and the tag computed as it entered twilight
  (R349, R352). -/
  place : Option Nat := none
  tag : Word := 0
  home : Nat := 0
  lastUse : Nat := 0
  /-- Chosen for a `c.pin` (R399). -/
  forPin : Bool := false
  failed : Bool := false
deriving DecidableEq, Repr

/-- A prefix-index entry (R345). -/
structure Pfx where
  tenant : Nat := 0
  model : Nat := 0
  block : Nat := 0
  bytes : List Byte := []
  lens : List Nat := []
  pages : List Nat := []
  first : Nat := 0
deriving DecidableEq, Repr

/-- A loaded model instance (R94, R341, R388, R397) and its batcher (R378). -/
structure Model where
  tenant : Nat := 0
  num : Nat := 0
  block : Nat := 256
  ppb : Nat := 1
  rot : List Word := []
  emits : List (List Byte) := []
  /-- Device VA and state count of each grammar table. -/
  grams : List (Word × Nat) := []
  area : Word := 0
  /-- The numbers of its step and its prefill actor in the image; the image's launch templates, as 20 dwords each; and the
  actor list of each. -/
  step : Nat := 0
  prefill : Nat := 0
  templates : List (List Word) := []
  lists : List (List Nat) := []
  homeSet : List Nat := []
  stepNo : Nat := 0
  /-- The deficit of each tenant, and the tenant visited last (R378). -/
  deficits : List (Nat × Nat) := []
  visited : Nat := 16
deriving DecidableEq, Repr

/-- A seat of a step (R377, R379). -/
structure Seat where
  slot : Nat := 0
  reg : Nat := 0
  kind : Nat := 0
  count : Nat := 1
  entry : Nat := 0
  pos : Nat := 0
  /-- Alternative (c.choose) or chain and depth (c.spec) served. -/
  alt : Nat := 0
  /-- Bytes and entries the seat places or scores. -/
  bytes : List Byte := []
  entries : List Entry := []
  /-- The context's blocks as the step sees them, and the context that first wrote each (R343, R344). -/
  blocks : List (List Nat) := []
  first : List Nat := []
deriving DecidableEq, Repr

/-- A step in flight: its model instance, seats, and the launches still to complete (R379). -/
structure Step where
  tenant : Nat := 0
  inst : Nat := 0
  seats : List Seat := []
  launches : List Nat := []
  bad : Bool := false
deriving DecidableEq, Repr

/-- A `c.pin` that waits for its pages (R365). -/
structure PinWait where
  slot : Nat := 0
  reg : Nat := 0
  dest : Nat := 0
deriving DecidableEq, Repr

/-- A forwarding stub (R344): the pages of a block that has moved, its old and its new home, and the launches accepted before
the move. -/
structure Stub where
  tenant : Nat := 0
  pages : List Nat := []
  old : Nat := 0
  new : Nat := 0
  launches : List Nat := []
deriving DecidableEq, Repr

/-- Context-level state of the package. -/
structure CtxSt where
  ctxs : List Ctx := []
  pages : List Page := []
  pfx : List Pfx := []
  models : List Model := []
  steps : List Step := []
  pins : List PinWait := []
  /-- Faults waiting for promotion, in the order they arose: tenant and page (R351). -/
  faults : List (Nat × Nat) := []
  stubs : List Stub := []
  /-- Frames of pages that were freed with accesses to them not drained (R231, R342): tenant, frame, physical address. -/
  freeing : List (Nat × Nat × Nat) := []
deriving DecidableEq, Repr

/-- A long instruction in flight (R373, R380, R382). -/
structure Long where
  o : OpC := {}
  prog : Prog := {}
  /-- Suspended by a stop or a trap (R377). -/
  susp : Bool := false
  /-- Bytes still to append or to score (with keep). -/
  data : List Byte := []
  stops : List (List Byte) := []
  /-- Last bytes emitted by this instruction, for the stop test. -/
  out : List Byte := []
  /-- Alternatives, as captured, and for each the bytes and entries scored so far and the sum of their terms. -/
  alts : List (List Byte) := []
  used : List (Nat × Nat) := []
  sums : List (Option W32) := []
  /-- c.choose with app: the alternative chosen is being appended. -/
  appending : Bool := false
  /-- c.spec: the emissions of each draft chain of this round, and the blocks that hold its state. -/
  chains : List (List Nat) := []
  tent : List (List (List Nat)) := []
  /-- c.spec: the grammar state and reference after each of those emissions, none where its walk failed (R394), and the nodes
  that these walks made (R392). -/
  walks : List (List (Option (Nat × Nat))) := []
  nodes : List Nat := []
  /-- The pages made for its next seats so far, each with the seat's number, the block and the page of the block (R343,
  R398). -/
  made : List ((Nat × Nat × Nat) × Nat) := []
deriving DecidableEq, Repr

/-- State of an agent slot (R371). -/
inductive SlotState where
  | idle
  | running
  | stopping
  | stopped
  | trapped
  | halted
deriving DecidableEq, Repr

/-- An agent slot and its agent (R77, R371). -/
structure Slot where
  num : Nat := 0
  tenant : Nat := 0
  prog : Word := 0
  psize : W32 := 0
  entry : W32 := 0
  amem : Word := 0
  ctl : W32 := 0
  init : List Word := [0, 0, 0, 0]
  /-- prog, psize and amem as the latest start read them (R372). -/
  rprog : Word := 0
  rpsize : W32 := 0
  ramem : Word := 0
  st : SlotState := .idle
  pc : W32 := 0
  cause : W32 := 0
  sig : Word := 0
  hmsg : Word := 0
  lpc : W32 := 0
  a : Vector Word 16 := .replicate 16 0
  pend : BitVec 16 := 0
  /-- Context registers that hold a handle; the context itself is in `CtxSt.ctxs` (R339). -/
  samp : Samp := {}
  long : Option Long := none
  /-- A long instruction's late write faulted: AMEM is taken at the next word (R375). -/
  owed : Bool := false
  /-- An `a.klaunch` waits for acceptance: its destination and the record's address. -/
  klaunch : Option (Nat × Word) := none
  /-- A reset waits for the step that seats the agent (R383). -/
  rst : Bool := false
  /-- When the agent was last seated, and the steps for which it was ready and not seated since (R378). -/
  seated : Nat := 0
  waited : Nat := 0
deriving DecidableEq, Repr

/-! ### Tenants and the package (R400 to R413) -/

/-- A channel group's table entry (R404). -/
structure Group where
  owner : Nat := 0
  assigned : Bool := false
  ready : Bool := false
deriving DecidableEq, Repr

/-- A tenant: its configuration page (R406), its block of quotas (R402) and what the part counts for it. -/
structure Tenant where
  enabled : Bool := false
  vstate : Nat := 0
  faccept : Word := 0
  troot : Word := 0
  trbase : Word := 0
  trlog : W32 := 0
  save : Word := 0
  savesz : Word := 0
  pool : Word := 0
  poolfr : W32 := 0
  headroom : W32 := 64
  backing : Word := 0
  backsz : Word := 0
  lqbase : Word := 0
  lqlog : W32 := 0
  lqhead : W32 := 0
  lqtail : W32 := 0
  lqerr : W32 := 0
  invdone : Word := 0
  frerr : BitVec 16 := 0
  pasid : W32 := 0
  /-- A supervisor launch written and not yet accepted, one held behind the running supervisor, and the running one. -/
  supl : Option Word := none
  suplHeld : Option Word := none
  suplLaunch : Option Nat := none
  trhead : Word := 0
  trtail : Word := 0
  trlost : W32 := 0
  clmask : BitVec 1024 := 0
  /-- Clusters removed by a clmask write that have not left yet (R403). -/
  leaving : List Nat := []
  grpmask : BitVec 48 := 0
  sbase : W32 := 0
  scount : W32 := 0
  l2q : W32 := 0
  sched : W32 := 0x4001
  prlim : W32 := 27
  hmreg : Word := 0
  cred : Nat := 0
  promises : Nat := 0
  broken : Nat := 0
  slice : Bool := false
  pstat : Nat := 0
  /-- Clusters under a pre-emption request, those of them requested urgently, and clusters named by a resume (R411). -/
  preempt : List Nat := []
  urgent : List Nat := []
  resume : List Nat := []
  priStop : Bool := false
  /-- Pinned-window ways by die (R216). -/
  windows : List Nat := [0, 0, 0, 0]
  /-- Table images of the four text table sets (R384); empty is form 0 with no tables. -/
  text : List (List Byte) := [[], [], [], []]
deriving DecidableEq, Repr

/-- A tenant's state saved from one cluster, or (place 1,024 + d) the chip windows of die d once all its clusters there are
saved (R280): the bytes and full bits of its windows there. The tenant's lists
(instances, channels, messages, barriers, locks) stay in State and rest while the pair is saved (log 30, DESIGN CHOICE). -/
structure Saved where
  v : Nat := 0
  c : Nat := 0
  cells : Mem := []
  full : List Nat := []
deriving DecidableEq, Repr

/-- A flush marker to a package (R264), with the accesses of its core that it covers. Until they are all sent it waits
(`sent` false); then one goes down every path that the core has used, all of one `group`. -/
structure Marker where
  c : Nat := 0
  i : Nat := 0
  /-- The engine command or tile task whose posted writes it covers, if it is no core's. -/
  cmd : Nat := 0
  accs : List Nat := []
  pkg : Nat := 0
  path : Nat := 0
  group : Nat := 0
  sent : Bool := false
  answered : Bool := false
deriving DecidableEq, Repr

/-- What travels on a path (R247, R263): the packet of an access of a core, a posted write of an engine command or tile
task, or a flush marker. -/
inductive Packet where
  | acc (c i id : Nat)
  | write (cmd : Nat) (ea : Word)
  | marker (group : Nat)
deriving DecidableEq, Repr

/-- A path to a package, first in, first out (R247, R263). -/
structure FPath where
  pkg : Nat := 0
  path : Nat := 0
  queue : List Packet := []
deriving DecidableEq, Repr

/-- Part-wide configuration and status (R401). -/
structure Cfg where
  powered : Bool := false
  ready : Bool := false
  error : Bool := false
  links : BitVec 18 := 0
  pkgid : BitVec 12 := 0
  members : BitVec 4096 := 0
  groups : Vector Group 48 := .replicate 48 {}
  fregs : Vector (BitVec 256) 16 := .replicate 16 0
  perms : List (Nat × BitVec 1024) := []
  hmasks : List ((Nat × Nat) × BitVec 256) := []
  fenced : List Nat := []
  /-- The tenant whose firings last ran on a cluster (R411). -/
  lastOn : List (Nat × Nat) := []
  msix : List (Nat × Nat) := []
  /-- Writes of tenant blocks that wait for a pre-emption (R418): tenant, offset and value, oldest first. -/
  held : List (Nat × Nat × Word) := []
  /-- Which of this part's links a path crosses, by package and path; one that is not listed crosses link path mod 18 (R414,
  R416) (log 127, DESIGN CHOICE). Nothing writes it. -/
  routes : List ((Nat × Nat) × BitVec 18) := []
deriving DecidableEq, Repr

/-- What may come next, chosen by the environment: a party's own next word, an event, the passing of clocks, a write of
the host to its own memory, one granule of an engine command, the runtime's load of a model image, or its unloading (R346),
a read of a register by the host (R371, R401), an uncorrectable error in a dirty sector that is evicted (R219), the path that a
remote access takes (R263), an early read or one posted word of an engine command, its flush markers (R262), a word that an
instruction cache drops or fetches ahead (R76), the error with which the host answers the next read of an engine or of the
part (R235), or the training of a link (R401) (log 4, DESIGN CHOICE). -/
inductive Move where
  | run (p : Party)
  | event (i : Instr)
  | tick (n : Nat)
  | hostWrite (addr : Nat) (data : List Byte)
  | granule (cmd g : Nat)
  | loadModel (m : Model)
  | unloadModel (v num : Nat)
  | registerRead (fn bar off size : Nat)
  | poisonLine (slice set way sector : Nat)
  | route (c i acc path : Nat)
  | readAhead (cmd : Nat) (ea : Word)
  | drain (cmd : Nat) (ea : Word)
  | flush (cmd : Nat)
  | dropFetched (c key : Nat)
  | fetchAhead (c key : Nat)
  | hostError
  | linkUp (link : Nat)
deriving DecidableEq, Repr

/-- The whole state. -/
structure State where
  cfg : Cfg
  tenants : Vector Tenant 16
  mem : Mem
  /-- Keys of the full words of core scratchpad and cluster memory, rising (R194). -/
  full : List Nat
  waiters : List FeWaiter
  l2 : L2
  xlat : Xlat
  launches : List Launch
  insts : List Inst
  closed : List Closed
  chans : List Chan
  bars : List BarGroup
  /-- Messages on their way (R168), and those in each cluster's inbox. -/
  transit : List Msg
  inbox : List (Nat × Msg)
  firings : List Firing
  pcores : List PCore
  eng : Eng
  tasks : Tasks
  ctx : CtxSt
  slots : List Slot
  markers : List Marker
  /-- The fabric paths that carry something (R247). -/
  paths : List FPath
  dir : List Rel
  acq : List Carry
  /-- The greatest timestamp of a write of a coherent line by the host, an agent or the part itself, which an acceptance
  acquires (R251, R267) (log 105, DESIGN CHOICE). -/
  hts : Nat
  /-- What the host's latest read of a register or of an aperture returned (R371, R401, R405) (log 116, DESIGN CHOICE). -/
  hostRead : Word
  /-- The instruction caches (R76): cluster, key and word, oldest first. -/
  icache : List (Nat × Nat × W32)
  records : List Record
  saved : List Saved
  clk : Nat
  /-- The next identity to hand out, and the counter of free values (log 3, DESIGN CHOICE). -/
  nextId : Nat
  free : Nat
  cur : Party
  plan : List Move
deriving DecidableEq, Repr

/-- The part right after reset: nothing started, every table empty, the PF and VFs disabled, and every register that the
spec gives no reset value at zero (log 2, DESIGN CHOICE). -/
def State.reset : State where
  cfg := {}
  tenants := .replicate 16 {}
  mem := []
  full := []
  waiters := []
  l2 := {}
  xlat := {}
  launches := []
  insts := []
  closed := []
  chans := []
  bars := []
  transit := []
  inbox := []
  firings := []
  pcores := []
  eng := {}
  tasks := {}
  ctx := {}
  slots := []
  markers := []
  paths := []
  dir := []
  acq := []
  hts := 0
  hostRead := 0
  icache := []
  records := []
  saved := []
  clk := 0
  nextId := 1
  free := 0
  cur := .core 0 0
  plan := []

end Sys2Proof.Machine
end

