-- ==== Sys2Proof/Machine/Memory.lean ====
section
/-! DEFINITION. Memory: one list of (key, byte) pairs in one canonical form, and its reads and writes. A key is a region
and an address within it. -/

namespace Sys2Proof.Machine

/-- The memories of the part and of the host (R186 to R191, R216, R224, R232). -/
inductive Region where
  /-- Device memory as the homes hold it, by PA (R247); from 2^42 upward the context die's own memory. -/
  | device
  /-- Host memory by translated address. -/
  | host
  /-- Chip scratchpads: die × 2^25 + offset. -/
  | chip
  /-- Cluster memories: cluster × 2^19 + offset. -/
  | cluster
  /-- Core scratchpads: (cluster × 8 + core) × 2^15 + offset. -/
  | scratch
  /-- Lane slices: (cluster × 8 + core) × 2^14 + slice × 2^12 + offset. -/
  | lane
  /-- Bytes of L2 ways that serve as pinned windows: ((die core × 16 + way) × 12 + set) × 256 + byte. -/
  | window
  /-- HBM as the walkers and the aperture read it, by PA: a line reaches it when it is written back. -/
  | hbm
deriving DecidableEq, Repr

/-- The number of a region in a key. -/
def regionNum : Region → Nat
  | .device => 0
  | .host => 1
  | .chip => 4
  | .cluster => 5
  | .scratch => 6
  | .lane => 7
  | .window => 8
  | .hbm => 10

/-- The key of an address of a region. -/
def memKey (r : Region) (a : Nat) : Nat := regionNum r * 2 ^ 64 + a

/-- What an unlisted byte of any region reads as (log 1, DESIGN CHOICE). -/
def unlisted : Byte := 0

/-- The byte at a key. -/
def memRead : Mem → Nat → Byte
  | [], _ => unlisted
  | (k', b) :: t, k => if k == k' then b else if k < k' then unlisted else memRead t k

/-- Write one byte, keeping the keys rising and no unlisted value listed. -/
def memWrite : Mem → Nat → Byte → Mem
  | [], k, b => if b == unlisted then [] else [(k, b)]
  | (k', b') :: t, k, b =>
    if k < k' then (if b == unlisted then (k', b') :: t else (k, b) :: (k', b') :: t)
    else if k == k' then (if b == unlisted then t else (k, b) :: t)
    else (k', b') :: memWrite t k b

/-- Keys strictly rising, from a lower bound on, and no byte equal to what an unlisted one reads as. -/
def Memory.wfFrom : Nat → Mem → Bool
  | _, [] => true
  | lo, (k, b) :: t => lo ≤ k && b != unlisted && Memory.wfFrom (k + 1) t

/-- The canonical form of memory. -/
def Memory.wf (m : Mem) : Bool := Memory.wfFrom 0 m

/-- n bytes from a key, as a little-endian number (R3). -/
def memReadN (m : Mem) (k : Nat) : Nat → Nat
  | 0 => 0
  | n + 1 => (memRead m k).toNat + 256 * memReadN m (k + 1) n

/-- n bytes from a key. -/
def memReadBytes (m : Mem) (k : Nat) : Nat → List Byte
  | 0 => []
  | n + 1 => memRead m k :: memReadBytes m (k + 1) n

/-- Write bytes at consecutive keys. -/
def memWriteBytes (m : Mem) (k : Nat) : List Byte → Mem
  | [] => m
  | b :: bs => memWriteBytes (memWrite m k b) (k + 1) bs

/-- Write the low n bytes of a number, lowest first. -/
def memWriteN (m : Mem) (k n v : Nat) : Mem := memWriteBytes m k (toBytes n v)

/-- Write those bytes whose mask bit is set. -/
def memWriteMasked (m : Mem) (k : Nat) (mask : Nat) : List Byte → Mem
  | [] => m
  | b :: bs =>
    memWriteMasked (if mask % 2 == 1 then memWrite m k b else m) (k + 1) (mask / 2) bs

/-- Write the bytes of a list of cells. -/
def memWriteCells (m : Mem) : List Host.Cell → Mem
  | [] => m
  | (k, b) :: cs => memWriteCells (memWrite m k b) cs

/-- The cells of memory with keys from lo up to, not including, hi. -/
def memSlice (m : Mem) (lo hi : Nat) : Mem := m.filter fun (k, _) => lo ≤ k && k < hi

/-- Make the bytes of a range read as unlisted. -/
def memClear (m : Mem) (lo hi : Nat) : Mem := m.filter fun (k, _) => k < lo || hi ≤ k

/-- Copy n bytes between keys. -/
def memCopy (m : Mem) (src dst n : Nat) : Mem := memWriteBytes m dst (memReadBytes m src n)

/-! ### Lists of units -/

/-- Apply f to the entries that satisfy p. -/
def updWhere {α : Type} (p : α → Bool) (f : α → α) (l : List α) : List α := l.map fun x => if p x then f x else x

/-- Replace the entries that satisfy p by one value, or add it where there is none. -/
def putWhere {α : Type} (p : α → Bool) (v : α) (l : List α) : List α :=
  if l.any p then l.map fun x => if p x then v else x else l ++ [v]

/-- Insert a number into a rising list without repeats. -/
def insertNat (n : Nat) : List Nat → List Nat
  | [] => [n]
  | x :: xs => if n < x then n :: x :: xs else if n == x then x :: xs else x :: insertNat n xs

/-- The numbers from lo, count of them. -/
def rangeFrom (lo count : Nat) : List Nat := (List.range count).map (lo + ·)

/-- The bytes of a vector value, lowest first. -/
def vecBytes (v : Vec) : List Byte := toBytes 16 v.toNat

/-- The numbers of the set bits of an n-bit mask, ascending. -/
def bitsSet (n mask : Nat) : List Nat := (List.range n).filter fun j => mask / 2 ^ j % 2 == 1

/-- A field of a 64-bit number: bits [lo + w − 1 : lo]. -/
def fieldOf (v lo w : Nat) : Nat := v / 2 ^ lo % 2 ^ w

/-- SignExtend of the low w bits of v, modulo 2^64 (R31). -/
def signExt64 (w v : Nat) : Word := BitVec.ofInt 64 (signedOfBits w v)
where
  /-- The low w bits as a signed number. -/
  signedOfBits (w v : Nat) : Int :=
    let u := v % 2 ^ w
    if u < 2 ^ (w - 1) then u else (u : Int) - 2 ^ w

end Sys2Proof.Machine
end

