-- ==== Sys2Proof/Machine/Ops.lean ====
section
/-! DEFINITION. The named operations over the state that the meanings share: lookups and replacements, records, ending a
firing, taking a trap and resolving it (R26, R27, R163 to R165, R180, R270 to R275). -/

namespace Sys2Proof.Machine

/-- What a step or an instruction answers. -/
abbrev Out := Host.Outcome State Fault Refusal

/-! ### Replacing a field -/

/-- Replace the field cfg. -/
def setCfg (s : State) (v : Cfg) : State := { s with cfg := v }
/-- Replace the field tenants. -/
def setTenants (s : State) (v : Vector Tenant 16) : State := { s with tenants := v }
/-- Replace the field mem. -/
def setMem (s : State) (v : Mem) : State := { s with mem := v }
/-- Replace the field full. -/
def setFull (s : State) (v : List Nat) : State := { s with full := v }
/-- Replace the field waiters. -/
def setWaiters (s : State) (v : List FeWaiter) : State := { s with waiters := v }
/-- Replace the field l2. -/
def setL2 (s : State) (v : L2) : State := { s with l2 := v }
/-- Replace the field xlat. -/
def setXlat (s : State) (v : Xlat) : State := { s with xlat := v }
/-- Replace the field launches. -/
def setLaunches (s : State) (v : List Launch) : State := { s with launches := v }
/-- Replace the field insts. -/
def setInsts (s : State) (v : List Inst) : State := { s with insts := v }
/-- Replace the field closed. -/
def setClosed (s : State) (v : List Closed) : State := { s with closed := v }
/-- Replace the field chans. -/
def setChans (s : State) (v : List Chan) : State := { s with chans := v }
/-- Replace the field bars. -/
def setBars (s : State) (v : List BarGroup) : State := { s with bars := v }
/-- Replace the field transit. -/
def setTransit (s : State) (v : List Msg) : State := { s with transit := v }
/-- Replace the field inbox. -/
def setInbox (s : State) (v : List (Nat × Msg)) : State := { s with inbox := v }
/-- Replace the field firings. -/
def setFirings (s : State) (v : List Firing) : State := { s with firings := v }
/-- Replace the field pcores. -/
def setPcores (s : State) (v : List PCore) : State := { s with pcores := v }
/-- Replace the field eng. -/
def setEng (s : State) (v : Eng) : State := { s with eng := v }
/-- Replace the field tasks. -/
def setTasks (s : State) (v : Tasks) : State := { s with tasks := v }
/-- Replace the field ctx. -/
def setCtx (s : State) (v : CtxSt) : State := { s with ctx := v }
/-- Replace the field slots. -/
def setSlots (s : State) (v : List Slot) : State := { s with slots := v }
/-- Replace the field markers. -/
def setMarkers (s : State) (v : List Marker) : State := { s with markers := v }
/-- Replace the field paths. -/
def setPaths (s : State) (v : List FPath) : State := { s with paths := v }
/-- Replace the field hts. -/
def setHts (s : State) (v : Nat) : State := { s with hts := v }
/-- Replace the field hostRead. -/
def setHostRead (s : State) (v : Word) : State := { s with hostRead := v }
/-- Replace the field icache. -/
def setIcache (s : State) (v : List (Nat × Nat × W32)) : State := { s with icache := v }
/-- Replace the field dir. -/
def setDir (s : State) (v : List Rel) : State := { s with dir := v }
/-- Replace the field acq. -/
def setAcq (s : State) (v : List Carry) : State := { s with acq := v }
/-- Replace the field records. -/
def setRecords (s : State) (v : List Record) : State := { s with records := v }
/-- Replace the field saved. -/
def setSaved (s : State) (v : List Saved) : State := { s with saved := v }
/-- Replace the field clk. -/
def setClk (s : State) (v : Nat) : State := { s with clk := v }
/-- Replace the field nextId. -/
def setNextId (s : State) (v : Nat) : State := { s with nextId := v }
/-- Replace the field free. -/
def setFree (s : State) (v : Nat) : State := { s with free := v }
/-- Replace the field cur. -/
def setCur (s : State) (v : Party) : State := { s with cur := v }
/-- Replace the field plan. -/
def setPlan (s : State) (v : List Move) : State := { s with plan := v }

/-! ### Lookups -/

/-- The tenant of a number; tenant 0 is the PF. -/
def tenantOf (s : State) (v : Nat) : Tenant := s.tenants.toList[v]?.getD {}
/-- Replace a tenant. -/
def putTenant (s : State) (v : Nat) (t : Tenant) : State := setTenants s (s.tenants.setIfInBounds v t)
/-- The firing that runs on a core. -/
def firingAt (s : State) (c i : Nat) : Option Firing :=
  s.firings.find? fun f => f.clus == c && f.cores.any fun k => k.idx == i
/-- The firing of an identity. -/
def firingOf (s : State) (id : Nat) : Option Firing := s.firings.find? fun f => f.id == id
/-- Replace a firing by identity. -/
def putFiring (s : State) (f : Firing) : State := setFirings s (updWhere (fun g => g.id == f.id) (fun _ => f) s.firings)
/-- The launch of an identity. -/
def launchOf (s : State) (id : Nat) : Option Launch := s.launches.find? fun l => l.id == id
/-- Replace a launch by identity. -/
def putLaunch (s : State) (l : Launch) : State := setLaunches s (updWhere (fun g => g.id == l.id) (fun _ => l) s.launches)
/-- The actor instance of an identity. -/
def instOf (s : State) (id : Nat) : Option Inst := s.insts.find? fun x => x.id == id
/-- Change an actor instance. -/
def updInst (s : State) (id : Nat) (f : Inst → Inst) : State := setInsts s (updWhere (fun x => x.id == id) f s.insts)
/-- What a core holds beyond its firing; a core that no entry names is at its reset value. -/
def pcoreAt (s : State) (c i : Nat) : PCore := (s.pcores.find? fun p => p.c == c && p.i == i).getD { c := c, i := i }
/-- Replace what a core holds. -/
def putPcore (s : State) (p : PCore) : State := setPcores s (putWhere (fun q => q.c == p.c && q.i == p.i) p s.pcores)
/-- A launch's channel instance on a cluster. -/
def chanAt (s : State) (c launch ch : Nat) : Option Chan :=
  s.chans.find? fun x => x.clus == c && x.launch == launch && x.chan == ch
/-- Change a launch's channel instance on a cluster. -/
def updChan (s : State) (c launch ch : Nat) (f : Chan → Chan) : State :=
  setChans s (updWhere (fun x => x.clus == c && x.launch == launch && x.chan == ch) f s.chans)
/-- The actor entry of an actor of a launch. -/
def actorOf (s : State) (launch actor : Nat) : Actor := ((launchOf s launch).bind fun l => l.graph.actors[actor]?).getD {}
/-- A new identity, and the state that has handed it out. -/
def newId (s : State) : Nat × State := (s.nextId, setNextId s (s.nextId + 1))
/-- The die of a cluster (R118). -/
def dieOf (c : Nat) : Nat := c / 256
/-- The sector of a cluster within the package. -/
def sectorOf (c : Nat) : Nat := c / 16
/-- The die core index of a core of a cluster (R202). -/
def dieCore (c i : Nat) : Nat := c % 256 * 8 + i
/-- Whether a tenant holds a cluster (R402). -/
def holdsCluster (s : State) (v c : Nat) : Bool := (tenantOf s v).clmask.getLsbD c
/-- Whether a firing is of the supervisor handler actor: actor 0 of the supervisor launch (R407). -/
def isHandler (s : State) (f : Firing) : Bool :=
  f.actor == 0 && match launchOf s f.launch with
    | some l => l.origin == .supl
    | none => false
/-- The supervisor handler's instance of a tenant: that on level index 0, while its launch has not completed (R275, R407). -/
def handlerInst (s : State) (v : Nat) : Option Inst :=
  s.insts.find? fun x => x.tenant == v && x.actor == 0 && (x.path.all fun j => j == 0) &&
    match launchOf s x.launch with
    | some l => l.origin == .supl
    | none => false
/-- Make a launch FAILED (R23). -/
def failLaunch (s : State) (id : Nat) : State :=
  setLaunches s (updWhere (fun l => l.id == id) (fun l => { l with failed := true }) s.launches)

/-! ### Eligibility (R25, R90, R106) -/

/-- The reservation that an instance's rates need, if every channel has the slots (R25, R164). -/
def reserve (s : State) (c launch : Nat) (a : Actor) : Option (State × List Resv) :=
  let go (input : Bool) (rates : List (Nat × Nat)) (st : State × List Resv) : Option (State × List Resv) :=
    rates.foldlM (init := st) fun (s, rs) (ch, rate) =>
      match chanAt s c launch ch with
      | none => none
      | some x =>
        let src := if input then x.filled else x.free
        if src.length < rate then none
        else
          let s := updChan s c launch ch fun x =>
            if input then { x with filled := x.filled.drop rate, fr := x.fr + rate }
            else { x with free := x.free.drop rate, er := x.er + rate }
          some (s, rs ++ [{ chan := ch, input := input, slots := src.take rate }])
  (go true a.ins (s, [])).bind (go false a.outs)

/-- An instance becomes eligible: it stands behind those that are, and its time without binding begins (R106, R107). One that a
hardware error restarts or an urgent discard returns becomes eligible anew (log 138, DESIGN CHOICE). -/
def makeEligible (s : State) (id : Nat) (change : Inst → Inst) : State :=
  let (n, s) := newId s
  updInst s id fun x => { change x with st := .eligible, age := n, since := s.clk }
/-- Make every waiting instance of a cluster eligible that can be, each taking its reservation with the test (R25). Of those
that compete for the same slots, and of those that become eligible in one act, the one placed first comes first (log 119, DESIGN
CHOICE). -/
def settle (s : State) (c : Nat) : State :=
  s.insts.foldl (init := s) fun s x =>
    if x.clus == c && x.st == .waiting then
      match reserve s c x.launch (actorOf s x.launch x.actor) with
      | none => s
      | some (s, rs) => makeEligible s x.id fun x => { x with kept := some rs }
    else s

/-! ### Direct queues (R179, R180) -/

/-- The words of a message's local payload (R179). -/
def msgLen (m : Msg) : Nat := m.words.length
/-- The fields of a message address (R169). -/
def maClus (a : Word) : Nat := fieldOf a.toNat 32 10
/-- Its actor. -/
def maActor (a : Word) : Nat := fieldOf a.toNat 24 8
/-- Its instance number. -/
def maInst (a : Word) : Nat := fieldOf a.toNat 18 6
/-- Its port. -/
def maPort (a : Word) : Nat := fieldOf a.toNat 12 4
/-- Its tag. -/
def maTag (a : Word) : Nat := fieldOf a.toNat 0 12
/-- Whether its reserved fields are 0. -/
def maOk (a : Word) : Bool := a.toNat / 2 ^ 42 == 0 && fieldOf a.toNat 16 2 == 0
/-- Whether an inbox entry is in the direct queue of an instance. -/
def inDirect (_ : State) (x : Inst) (e : Nat × Msg) : Bool :=
  e.1 == x.clus && maPort e.2.addr == 15 && e.2.inst == x.id
/-- Set how many words of an instance's direct queue are popped: whole messages from the oldest, then part of one. -/
def setPopped (s : State) (x : Inst) (total : Nat) : State :=
  let step (acc : Nat × List (Nat × Msg)) (e : Nat × Msg) : Nat × List (Nat × Msg) :=
    if inDirect s x e then
      let n := min (msgLen e.2) acc.1
      (acc.1 - n, acc.2 ++ [(e.1, { e.2 with pop := n })])
    else (acc.1, acc.2 ++ [e])
  setInbox s (s.inbox.foldl step (total, [])).2
/-- The words popped from an instance's direct queue. -/
def poppedOf (s : State) (x : Inst) : Nat :=
  ((s.inbox.filter (inDirect s x)).map fun e => e.2.pop).sum
/-- The direct queue of an instance, oldest first. -/
def directQueue (s : State) (x : Inst) : List Msg := (s.inbox.filter (inDirect s x)).map (·.2)
/-- Remove the messages of an instance whose every word is popped (R180); the popped words of a message that is left stay
popped (log 115, DESIGN CHOICE). -/
def dropPopped (s : State) (x : Inst) : State :=
  setInbox s (s.inbox.filter fun e => !(inDirect s x e && e.2.pop == msgLen e.2))

/-! ### Ending a firing (R27, R136, R165, R180, R270) -/

/-- The header of a slot filled by a local commit or an engine (R170). -/
def localHeader (c actor : Nat) : Word := BitVec.ofNat 64 (c * 2 ^ 54 + actor * 2 ^ 40)
/-- Return reserved slots to the heads of their lists (R165). -/
def returnResv (s : State) (c launch : Nat) (rs : List Resv) : State :=
  rs.foldr (init := s) fun r s => updChan s c launch r.chan fun x =>
    if r.input then { x with filled := r.slots ++ x.filled, fr := x.fr - r.slots.length }
    else { x with free := r.slots ++ x.free, er := x.er - r.slots.length }
/-- Move reserved slots on at a commit: inputs become free, outputs become filled with the commit's header (R165, R170). -/
def commitResv (s : State) (c launch actor : Nat) (covers : List Nat) (ts : Nat) (rs : List Resv) : State :=
  rs.foldl (init := s) fun s r => updChan s c launch r.chan fun x =>
    if r.input then { x with free := x.free ++ r.slots, fr := x.fr - r.slots.length,
                             notes := x.notes.filter fun n => !(r.slots.contains n.1) }
    else { x with filled := x.filled ++ r.slots, er := x.er - r.slots.length,
                  hdrs := r.slots.foldl (fun h j => h.set j (localHeader c actor)) x.hdrs,
                  rel := (x.rel.filter fun e => !(r.slots.contains e.1)) ++ r.slots.map fun j => (j, covers)
                  relTs := (x.relTs.filter fun e => !(r.slots.contains e.1)) ++ r.slots.map fun j => (j, ts) }
/-- Take acknowledged notices, as pairs of a task and a version, off their tasks (R303). -/
def ackAll (s : State) (acks : List (Nat × Nat)) : State :=
  let upd (t : Task) : Task := { t with notes := t.notes.filter fun v => !(acks.contains (t.id, v)) }
  if acks.isEmpty then s else setTasks s { s.tasks with tasks := s.tasks.tasks.map upd }
/-- The notices that a firing reserved or popped. -/
def noticesOf (s : State) (f : Firing) : List (Nat × Nat) :=
  let slots := (f.resv.filter (·.input)).flatMap fun r =>
    ((chanAt s f.clus f.launch r.chan).map fun x =>
      (x.notes.filter fun n => r.slots.contains n.1).map (·.2)).getD []
  let popped := match instOf s f.inst with
    | none => []
    | some x => (directQueue s x).filterMap fun m => if 0 < m.pop then m.note else none
  slots ++ popped
/-- Acknowledge the notices that a firing reserved or popped (R303). -/
def ackNotices (s : State) (f : Firing) : State := ackAll s (noticesOf s f)
/-- Whether an entry of a core's order is a load, whose register write an end cancels (R136). -/
def isLoadKind : AccKind → Bool
  | .load => true
  | .ldf => true
  | _ => false
/-- The cores whose order an access is part of: from, and up to but not including. -/
def accCores (i : Nat) (a : Acc) : Nat × Nat := (i, if a.gang then i + a.width else i + 1)
/-- Those cores, ascending. -/
def coresOf (i : Nat) (a : Acc) : List Nat := rangeFrom i ((accCores i a).2 - i)
/-- The timestamp that a release of some cores of a cluster carries: that of their coherent accesses, and that which their
explicit ones gave coherent lines. -/
def maxPts (s : State) (c : Nat) (cores : List Nat) : Nat :=
  cores.foldl (fun m i => max m (max (pcoreAt s c i).pts (pcoreAt s c i).ets)) 0
/-- The timestamp that a firing's record carries. -/
def firingTs (s : State) (f : Firing) : Nat := maxPts s f.clus (f.cores.map (·.idx))
/-- What an END leaves of a core's order: loads of the firing are cancelled, and an STE that waits at its bank (R195); the
rest stands without its register write (R136). -/
def endAccs (f : Nat) (l : List Acc) : List Acc :=
  (l.filter fun a => !(a.firing == f && (isLoadKind a.kind || a.kind == .ste))).map fun a =>
    if a.firing == f then { a with dest := .none, pred := 0 } else a
/-- The FENCEs of a firing that wait, and the accesses of the firing that one of them holds on some core of theirs: its set is
among the FENCE's successor sets (R255). A FENCE that has completed has left the order. -/
def heldAccs (s : State) (f : Firing) : List Nat :=
  let mine := (s.pcores.filter fun p => p.c == f.clus).flatMap fun p =>
    (p.accs.filter fun a => a.firing == f.id).map fun a => (p.i, a)
  let fences := mine.filter fun e => e.2.kind == .fence
  let held (e : Nat × Acc) : Bool := fences.any fun b =>
    b.2.id < e.2.id && b.2.sset &&& e.2.sets != 0 && (coresOf e.1 e.2).contains b.1
  (mine.filter fun e => e.2.kind == .fence || held e).map (·.2.id)
/-- What a trap leaves: as an END, and a FENCE that waits ends with the firing, with every access that it holds (R255). -/
def trapAccs (f : Nat) (held : List Nat) (l : List Acc) : List Acc := endAccs f (l.filter fun a => !(held.contains a.id))
/-- Change the orders of a firing's cores. -/
def updAccs (s : State) (f : Firing) (g : List Acc → List Acc) : State :=
  setPcores s (updWhere (fun p => p.c == f.clus && f.cores.any fun k => k.idx == p.i)
    (fun p => { p with accs := g p.accs }) s.pcores)
/-- Release the cores of a firing and forget what waits for it (R108). -/
def releaseCores (s : State) (f : Firing) : State :=
  let mine (c i : Nat) : Bool := c == f.clus && f.cores.any fun k => k.idx == i
  let notMine (p : Party) : Bool := match p with
    | .core c i => !(mine c i)
    | _ => true
  let s := setFirings s (s.firings.filter fun g => g.id != f.id)
  let s := setWaiters s (s.waiters.filter fun w => !(mine w.c w.i))
  let s := setTasks s { s.tasks with subs := s.tasks.subs.filter fun t => t.firing != f.id }
  setXlat s { s.xlat with
    reqs := s.xlat.reqs.map fun r => { r with waiters := r.waiters.filter fun w => notMine w.1
                                              probers := r.probers.filter notMine }
    failed := s.xlat.failed.filter fun w => notMine w.1
    probed := s.xlat.probed.filter fun w => notMine w.1 }
/-- The words that a firing popped go back to its direct queue (R180). -/
def returnPopped (s : State) (f : Firing) : State :=
  match instOf s f.inst with
  | none => s
  | some x => setPopped s x (poppedOf s x - f.popped)
/-- Abort a firing: reservations and popped words return, staged sends are discarded with it, cores are released (R165,
R173, R180, R270) (log 51, DEDUCED). -/
def abortFiring (s : State) (f : Firing) (g : List Acc → List Acc) : State :=
  releaseCores (returnPopped (returnResv (updAccs s f g) f.clus f.launch f.resv) f) f
/-- An instance fails for good, and with it its launch; the notices of its trapped firing are acknowledged (R27, R303). -/
def failInst (s : State) (id launch : Nat) : State :=
  let s := match instOf s id with
    | some x => ackAll s x.notes
    | none => s
  failLaunch (updInst s id fun x => { x with st := .failed, kept := none, disc := none, notes := [], todo := none }) launch
/-- An instance waits to fire again, behind every eligible one (R27). -/
def retryInst (s : State) (id c : Nat) : State :=
  settle (updInst s id fun x =>
    { x with st := .waiting, kept := none, disc := none, attempt := 0, ts := 0, pend := [], notes := [], todo := none }) c

/-! ### Records (R272 to R275) -/

/-- Resolve a held instance: act 1 fails it, act 2 makes it wait to fire again (R275). -/
def resolveInst (s : State) (x : Inst) (act : Nat) : State :=
  if act == 1 then settle (failInst s x.id x.launch) x.clus else retryInst s x.id x.clus
/-- A record that is lost: trlost counts it, and a held instance is resolved by fail (R274). -/
def loseRecord (s : State) (r : Record) : State :=
  let t := tenantOf s r.tenant
  let s := putTenant s r.tenant { t with trlost := t.trlost + 1 }
  if r.rtype == 1 then
    match instOf s r.inst with
    | some x => (match x.st with
      | .held _ => resolveInst s x 1
      | _ => s)
    | none => s
  else s
/-- Whether a tenant's state is saved from a cluster (R280). -/
def isSaved (s : State) (v c : Nat) : Bool := s.saved.any fun x => x.v == v && x.c == c
/-- Queue a record at its die; a full queue of 256 loses it (R274). Records that rest in a save area take no place (R280). -/
def queueRecord (s : State) (r : Record) : State :=
  if 256 ≤ (s.records.filter fun q => q.die == r.die && !(isSaved s q.tenant q.clus)).length then loseRecord s r
  else setRecords s (s.records ++ [r])

/-! ### Taking a trap (R269 to R275) -/

/-- A trap before it is taken: the core's index, the cause and what the record holds. -/
structure TrapInfo where
  core : Nat := 0
  cause : Nat := 0
  sub : Nat := 0
  addr : Word := 0
  val : Word := 0
  info : Word := 0
  /-- The address of the instruction, where it is not the core's program counter any more (R219, R236). -/
  pc : Option Word := none
deriving DecidableEq, Repr

/-- The record of a trap of a firing, with the words as fetched (R272, R273). -/
def trapRecord (s : State) (f : Firing) (t : TrapInfo) (w0 w1 : W32) : Record :=
  let k := (f.cores.find? fun k => k.idx == t.core).getD {}
  { die := dieOf f.clus, tenant := f.tenant, cause := t.cause, rtype := 1, core := t.core, clus := f.clus,
    actid := f.actor, sub := t.sub, pc := t.pc.getD k.pc, addr := t.addr, w0 := w0, w1 := w1, val := t.val, info := t.info,
    wdc := f.wdcount, flags := k.nflags, firing := f.id, inst := f.inst, ts := firingTs s f }

/-- Engine commands and tile tasks of a firing that a FENCE of it holds (set E) make no effect, since its wait ends with the
firing (R255). -/
def dropHeld (s : State) (f : Firing) : State :=
  let held (c : Nat) (cores : List Nat) (id : Nat) : Bool := s.pcores.any fun p =>
    p.c == c && cores.contains p.i && p.accs.any fun a =>
      a.kind == .fence && a.firing == f.id && a.sset.getLsbD 2 && a.id < id
  let out (m : Cmd) : Bool := m.firing == f.id && m.code == 0 && held m.c m.cores m.id
  let ids := (s.eng.cmds.filter out).map (·.id)
  let s := setEng s { s.eng with cmds := s.eng.cmds.filter fun m => !(out m)
                                 locks := s.eng.locks.filter fun k => !(ids.contains k.cmd) }
  setTasks s { s.tasks with
    tasks := s.tasks.tasks.filter fun t => !(t.firing == f.id && t.firings == 0 && held t.c t.cores t.id) }
/-- Take a trap: the one operation that every kernel-level trap shares (R270, R271). The firing is aborted, its instance
is held, and the record waits to be written; a trap of the handler itself is resolved by fail at once (R275). -/
def trapFiring (s : State) (f : Firing) (t : TrapInfo) (w0 w1 : W32) : State :=
  let handler := isHandler s f
  let r := trapRecord s f t w0 w1
  let notes := noticesOf s f
  let s := abortFiring (dropHeld s f) f (trapAccs f.id (heldAccs s f))
  let s := updInst s f.inst fun x => { x with st := .held 0, kept := none, notes := notes }
  let s := if handler then failInst s f.inst f.launch else s
  settle (queueRecord s r) f.clus

/-- Resolve a held instance; where it is retried, it will acquire a timestamp and accesses that are pending. -/
def resolveAs (s : State) (x : Inst) (act ts : Nat) (pend : List Nat) : State :=
  updInst (resolveInst s x act) x.id fun x => { x with ts := ts, pend := pend }
/-- A write of `tresolve`: the instance held under the record's sequence number is resolved; a reserved act, a reserved
bit or a number that names no held instance changes nothing (R275). A retried instance acquires the write's release, with
the timestamp ts and what it covers, at its next binding. One that is saved is resolved after its tenant returns (R283). -/
def resolveWrite (s : State) (v : Nat) (w : Word) (ts : Nat) (pend : List Nat) : State :=
  let act := fieldOf w.toNat 62 2
  let seq := fieldOf w.toNat 0 32
  if fieldOf w.toNat 32 30 != 0 || !(act == 1 || act == 2) then s
  else
    match s.insts.find? fun x => x.tenant == v && (match x.st with
      | .held q => q != 0 && q % 2 ^ 32 == seq
      | _ => false) with
    | some x =>
      if isSaved s v x.clus then updInst s x.id fun x => { x with todo := some (act, ts, pend) }
      else resolveAs s x act ts pend
    | none => s

end Sys2Proof.Machine
end

