-- ==== Sys2Proof/Machine/Operands.lean ====
section
/-! DEFINITION. Operand forms: the register file that k selects, governing predicates, effective addresses, interlocks,
and the shapes in which an instruction runs on the cores of a gang (R58, R65, R66, R70, R112 to R114, R140). -/

namespace Sys2Proof.Machine

/-- What an instruction does on one core, or once for the gang. -/
inductive Res (α : Type) where
  | ok (a : α)
  | trap (t : TrapInfo)
  | stall
deriving DecidableEq, Repr

/-- Carry on from a result. -/
def Res.bindOk {α β : Type} (r : Res α) (f : α → Res β) : Res β :=
  match r with
  | .ok a => f a
  | .trap t => .trap t
  | .stall => .stall

/-- The results of several cores, in ascending core order: the lowest core's trap wins, then a stall holds all (R112). -/
def collect {α : Type} (l : List (Res α)) : Res (List α) :=
  match l.findSome? (fun r => match r with
    | .trap t => some t
    | _ => none) with
  | some t => .trap t
  | none =>
    l.foldr (init := .ok []) fun r acc =>
      match r, acc with
      | .ok a, .ok as => .ok (a :: as)
      | .trap t, _ => .trap t
      | _, _ => .stall

/-- The registers that an instruction acts on: one core's files, or with `uni` the uniform file, and the flags that it
raises. -/
structure RFile where
  uni : Bool := false
  core : Core := {}
  u : UFile := {}
  fl : FlagBits := 0
deriving DecidableEq, Repr

/-- A register of a file, by number. -/
def vget {α : Type} {n : Nat} (v : Vector α n) (i : Nat) (d : α) : α := v[i]?.getD d

/-- An `x` register; `x0` reads 0 (R58). -/
def getX (c : Core) (n : Nat) : Word := if n == 0 then 0 else vget c.x n 0
/-- Write an `x` register; a write of `x0` is discarded (R58). -/
def setX (c : Core) (n : Nat) (w : Word) : Core := if n == 0 then c else { c with x := c.x.setIfInBounds n w }
/-- A `p` register; `p0` reads 0xFFFF (R58). -/
def getPr (c : Core) (n : Nat) : BitVec 16 := if n == 0 then 0xFFFF else vget c.p n 0
/-- Write a `p` register; a write of `p0` is discarded (R58). -/
def setPr (c : Core) (n : Nat) (m : BitVec 16) : Core := if n == 0 then c else { c with p := c.p.setIfInBounds n m }
/-- A `gp` register as a bit; `gp0` reads 1 (R58). -/
def getGp (u : UFile) (n : Nat) : Bool := n == 0 || u.gp.getLsbD n
/-- Write a `gp` register; a write of `gp0` is discarded (R58). -/
def setGp (u : UFile) (n : Nat) (b : Bool) : UFile :=
  if n == 0 then u
  else { u with gp := (u.gp &&& ~~~(1#8 <<< n)) ||| (if b then 1#8 <<< n else 0) }
/-- A `g` register; `g0` is ordinary (R58). -/
def getG (u : UFile) (n : Nat) : Word := vget u.g n 0
/-- Write a `g` register. -/
def setG (u : UFile) (n : Nat) (w : Word) : UFile := { u with g := u.g.setIfInBounds n w }

/-- A scalar operand: `x`, or `g` with k = 1 (R65). -/
def getS (r : RFile) (n : Nat) : Word := if r.uni then getG r.u n else getX r.core n
/-- Write a scalar destination. -/
def setS (r : RFile) (n : Nat) (w : Word) : RFile :=
  if r.uni then { r with u := setG r.u n w } else { r with core := setX r.core n w }
/-- A predicate operand: `p`, or a `gp` spread over 16 bits (R65). -/
def getP (r : RFile) (n : Nat) : BitVec 16 := if r.uni then (if getGp r.u n then 0xFFFF else 0) else getPr r.core n
/-- Write a predicate destination; a `gp` takes bit 0. -/
def setP (r : RFile) (n : Nat) (m : BitVec 16) : RFile :=
  if r.uni then { r with u := setGp r.u n (m.getLsbD 0) } else { r with core := setPr r.core n m }
/-- Write a predicate from a condition (R127). -/
def setCond (r : RFile) (n : Nat) (b : Bool) : RFile := setP r n (if b then 0xFFFF else 0)
/-- Whether a governing predicate selects the instruction (R66). -/
def takes (r : RFile) (pr : BitVec 3) : Bool := (getP r pr.toNat).getLsbD 0
/-- Raise flags. -/
def raise (r : RFile) (f : FlagBits) : RFile := { r with fl := r.fl ||| f }

/-- The effective address of LD, ST, VLD, VST, LDF and STE (R70). -/
def eaIndexed (r : RFile) (o : OpM) : Word :=
  getS r o.o.a.toNat + (getS r o.o.b.toNat <<< o.sx.toNat) + o.off.signExtend 64
/-- The effective address of CACHE, PIN, AMO, CAS, RED and XLAT (R70). -/
def eaPlain (r : RFile) (o : OpM) : Word := getS r o.o.a.toNat + o.off.signExtend 64

/-! ### Cores of a firing -/

/-- The cores that act: all of a fused gang, the one core of a split one (R112, R114). -/
def actingCores (f : Firing) (i : Nat) : List Core := if f.split then f.cores.filter fun c => c.idx == i else f.cores
/-- Replace cores by index. -/
def putCores (f : Firing) (cs : List Core) : Firing :=
  { f with cores := f.cores.map fun c => (cs.find? fun d => d.idx == c.idx).getD c }
/-- The uniform file that a k = 1 instruction acts on (R112, R114). -/
def uniformOf (f : Firing) (units : List Core) : UFile :=
  if f.split then (match units with
    | c :: _ => c.u
    | [] => {}) else f.u
/-- Replace that file. -/
def putUniform (f : Firing) (units : List Core) (u : UFile) : Firing :=
  if f.split then putCores f (units.map fun c => { c with u := u }) else { f with u := u }
/-- Move the acting cores past an instruction (R63). -/
def advance (f : Firing) (units : List Core) (len : Word) : Firing :=
  { f with cores := f.cores.map fun c => if units.any fun d => d.idx == c.idx then { c with pc := c.pc + len } else c }
/-- Set the acting cores' program counters. -/
def jumpTo (f : Firing) (units : List Core) (t : Word) : Firing :=
  { f with cores := f.cores.map fun c => if units.any fun d => d.idx == c.idx then { c with pc := t } else c }
/-- OR flags into `nflags` of every core of the gang, fused or split, as a uniform instruction does (R48). -/
def flagAll (f : Firing) (fl : FlagBits) : Firing :=
  { f with cores := f.cores.map fun c => { c with nflags := c.nflags ||| fl } }
/-- The file of one core, or the uniform file. -/
def fileOf (f : Firing) (units : List Core) (uni : Bool) (c : Core) : RFile :=
  { uni := uni, core := c, u := uniformOf f units }

/-- What the sequencing of an instruction needs of it: its words, and the registers that it names. -/
structure Site where
  words : List W32 := []
  regs : List RegRef := []
deriving DecidableEq, Repr

/-- The site of an instruction. -/
def siteOf (i : Instr) : Site := { words := encode i, regs := touched i }
/-- The site of a format-E instruction of a major, function and block length (R71). -/
def siteE (o : OpE) (fn : BitVec 3) (maj : BitVec 7) (blk : Nat) : Site :=
  { words := [packA o.o fn maj, packE o], regs := regsA o.o .x (.blk blk) .no ++ govReg o.o ++ guardRegs o }
/-- The site of a format-X instruction whose a field is an x register, or is reserved (R70). -/
def siteX (o : OpX) (fn : BitVec 3) (maj : BitVec 7) (a : Fld) : Site :=
  { words := [packA o.o fn maj, o.imm], regs := regsA o.o .x a .no ++ govReg o.o }
/-- The length in bytes of an instruction's words (R63). -/
def siteLen (t : Site) : Word := if t.words.length == 2 then 8 else 4

/-! ### Interlocks (R58, R140, R197) -/

/-- The registers that an access still has to write. -/
def pendingRegs (a : Acc) : List RegRef :=
  (match a.dest with
    | .none => []
    | .x r => if r == 0 then [] else [.x r]
    | .g r => [.g r]
    | .vec r _ _ _ => [.v r]) ++ (if a.pred == 0 then [] else [.p a.predGp a.pred])
/-- The unfinished accesses of a core that belong to a firing. -/
def accsOf (s : State) (f : Firing) (c : Core) : List Acc :=
  (pcoreAt s f.clus c.idx).accs.filter fun a => a.firing == f.id
/-- Whether an instruction names a register that an unfinished load of its cores will write. -/
def interlocked (s : State) (f : Firing) (units : List Core) (t : Site) : Bool :=
  units.any fun c => (accsOf s f c).any fun a => (pendingRegs a).any fun r => t.regs.contains r
/-- Whether an unfinished load of these cores will write any register. -/
def anyPending (s : State) (f : Firing) (units : List Core) : Bool :=
  units.any fun c => (accsOf s f c).any fun a => !(pendingRegs a).isEmpty

/-- Whether something holds a core's issue that only another move ends. -/
def busyHolds : Busy → Bool
  | .none => false
  | .arrived _ => false
  | .words _ _ _ => false
  | .issued => false
  | _ => true

/-! ### Counters (R61, R199, R309) -/

/-- The unfinished accesses that count on a core: its own, and the gang's. -/
def countedAccs (s : State) (f : Firing) (c : Core) : List Acc :=
  accsOf s f c ++ (if c.idx == f.lead then [] else (accsOf s f { idx := f.lead }).filter fun a => a.gang)
/-- Whether an access counts against `ocld`. -/
def countsLoad (a : Acc) : Bool :=
  match a.kind with
  | .load => true
  | .ldf => true
  | .amo => true
  | .cas => true
  | _ => false
/-- Whether an access counts against `ocst`. -/
def countsStore (a : Acc) : Bool := !(countsLoad a) && a.kind != .fence && !a.performed
/-- `ocld`. -/
def ocld (s : State) (f : Firing) (c : Core) : Nat := (countedAccs s f c).countP countsLoad
/-- `ocst`. -/
def ocst (s : State) (f : Firing) (c : Core) : Nat := (countedAccs s f c).countP countsStore
/-- `occp`. -/
def occp (s : State) (f : Firing) (c : Core) : Nat :=
  s.eng.cmds.countP fun m => m.firing == f.id && m.cores.contains c.idx
/-- `octk`. -/
def octk (s : State) (f : Firing) (c : Core) : Nat :=
  (s.tasks.tasks.countP fun t => t.firing == f.id && t.cores.contains c.idx && !t.fin) +
    (s.tasks.subs.countP fun t => t.firing == f.id && t.cores.contains c.idx)

/-! ### The shapes of an instruction -/

/-- Whether a firing has reached its watchdog limit: it does nothing more but trap (R28). -/
def expired (f : Firing) : Bool := f.issued && f.wdlimit ≤ f.wdcount
/-- Take a trap of an instruction (R270). -/
def trapAt (s : State) (f : Firing) (t : TrapInfo) (w : Site) : Out :=
  .next (trapFiring s f t (w.words.head?.getD 0) (w.words[1]?.getD 0))

/-- Run an instruction of the firing on the acting core. It holds, and the state stays but for the firing's first issue
(R28), while its commit waits, while something holds a core's issue, or under an interlock (log 102, DESIGN CHOICE). -/
def withFiring (t : Site) (s : State) (body : State → Firing → List Core → Out) : Out :=
  match s.cur with
  | .core c ix =>
    match firingAt s c ix with
    | none => .refused .noFiring
    | some f0 =>
      let f := { f0 with issued := true }
      let s := putFiring s f
      let units := actingCores f ix
      if f.ending || expired f || units.any (fun k => busyHolds k.busy) || interlocked s f units t then .next s
      else body s f units
  | _ => .refused .noFiring

/-- Run f once on the uniform file, or on each acting core's files, where the governing predicate selects (R66, R112). -/
def runFile (f : Firing) (units : List Core) (uni : Bool) (pr : BitVec 3) (g : RFile → Res RFile) : Res Firing :=
  if uni then
    let r := fileOf f units true (units.head?.getD {})
    if takes r pr then (g r).bindOk fun r' => .ok (flagAll (putUniform f units r'.u) r'.fl)
    else .ok f
  else
    let go (c : Core) : Res RFile :=
      let r := fileOf f units false c
      if takes r pr then g r else .ok r
    (collect (units.map go)).bindOk fun rs =>
      .ok (putCores f (rs.map fun r => { r.core with nflags := r.core.nflags ||| r.fl }))

/-- An instruction that works on the register files alone and then goes on to the next word. -/
def fileInstr (w : Site) (uni : Bool) (pr : BitVec 3) (g : State → Firing → RFile → Res RFile) (s : State) : Out :=
  withFiring w s fun s f units =>
    match runFile f units uni pr (g s f) with
    | .ok f' => .next (putFiring s (advance f' units (siteLen w)))
    | .trap t => trapAt s f t w
    | .stall => .next s

/-- A scalar result from the sources A and B to d (R119). -/
def scalarAB (i : Instr) (o : OpA) (g : Word → Word → Word × FlagBits) (s : State) : Out :=
  fileInstr (siteOf i) (k1 o) o.pr (fun _ _ r =>
    let v := g (getS r o.a.toNat) (getS r o.b.toNat)
    .ok (raise (setS r o.d.toNat v.1) v.2)) s

/-- A predicate from a condition on the sources A and B (R127). -/
def condAB (i : Instr) (o : OpA) (g : Word → Word → Bool) (s : State) : Out :=
  fileInstr (siteOf i) (k1 o) o.pr (fun _ _ r => .ok (setCond r o.d.toNat (g (getS r o.a.toNat) (getS r o.b.toNat)))) s

end Sys2Proof.Machine
end

