-- ==== Sys2Proof/Machine/Translate.lean ====
section
/-! DEFINITION. Translation: device walks, the translation caches, the context-page range, host translations and page
requests (R186, R224 to R236, R408, R419). -/

namespace Sys2Proof.Machine

/-- A translation of an address: the page it lies in, and the home of a device page. -/
structure Leaf where
  va : Nat := 0
  size : Nat := 65536
  pa : Nat := 0
  r : Bool := false
  w : Bool := false
  x : Bool := false
  hm : Nat := 0
  die : Nat := 0
  core : Nat := 0
deriving DecidableEq, Repr

/-- The space code of an address (R186). -/
def spaceOf (ea : Word) : Nat := fieldOf ea.toNat 60 4
/-- The virtual address of a space-0x0 or space-0x1 pointer. -/
def vaOf (ea : Word) : Nat := fieldOf ea.toNat 0 57
/-- Whether bits [59:57] of such a pointer are 0 (R226, R232). -/
def vaClean (ea : Word) : Bool := fieldOf ea.toNat 57 3 == 0
/-- Whether a tenant accepted a feature bit (R408). -/
def accepted (s : State) (v bit : Nat) : Bool := (tenantOf s v).faccept.getLsbD bit

/-- Whether a leaf grants what an access wants (R230). -/
def grants (l : Leaf) : Want → Bool
  | .rd => l.r
  | .wr => l.w
  | .ex => l.x
  | .rmw => l.r && l.w

/-! ### Device walks (R227 to R229) -/

/-- Whether a physical address lies in a ready group of a tenant (R225, R404). -/
def readyPa (s : State) (v pa : Nat) : Bool :=
  match s.cfg.groups.toList[pa / 2 ^ 34]? with
  | some g => pa < 2 ^ 40 && g.assigned && g.ready && g.owner == v
  | none => false
/-- The owner of a format range register (R237). -/
def fregVf (f : BitVec 256) : Nat := fieldOf f.toNat 212 4
/-- Whether an address lies in the alias window of a register of the tenant (R224, R237). -/
def aliasPa (s : State) (v pa : Nat) : Bool :=
  pa / 2 ^ 40 == 1 && fregVf (vget s.cfg.fregs (pa / 2 ^ 36 % 16) 0) == v
/-- The size that a leaf at a level maps. -/
def leafSize : Nat → Nat
  | 0 => 2 ^ 16
  | 1 => 2 ^ 21
  | _ => 2 ^ 30
/-- The index of a VA at a level. -/
def vaIndex (va lvl : Nat) : Nat := if lvl == 0 then fieldOf va 16 5 else fieldOf va (12 + 9 * lvl) 9
/-- Whether an entry with V = 1 is well formed (R229). -/
def entryOk (s : State) (v e lvl : Nat) : Bool :=
  let addr := fieldOf e 64 41
  let leaf := fieldOf e 1 1 == 1
  let hm := fieldOf e 8 2
  let res := fieldOf e 105 23 == 0 && fieldOf e 23 41 == 0 && fieldOf e 5 3 == 0
  if leaf then
    let al := addr / 2 ^ 40 == 1
    res && lvl ≤ 2 && addr % leafSize lvl == 0 && hm ≤ 1 &&
      (hm == 0 || (fieldOf e 18 5 == 0 && (tenantOf s v).hmreg.getLsbD (fieldOf e 12 6))) &&
      (if al then aliasPa s v addr && fieldOf e 3 1 == 0 && fieldOf e 4 1 == 0 else readyPa s v addr)
  else
    res && 1 ≤ lvl && addr % (if lvl == 1 then 512 else 8192) == 0 && readyPa s v addr &&
      fieldOf e 2 3 == 0 && fieldOf e 8 15 == 0
/-- The leaf that a well-formed entry stands for. -/
def leafOf (e lvl va : Nat) : Leaf :=
  { va := va / leafSize lvl * leafSize lvl, size := leafSize lvl, pa := fieldOf e 64 41, r := fieldOf e 2 1 == 1,
    w := fieldOf e 3 1 == 1, x := fieldOf e 4 1 == 1, hm := fieldOf e 8 2, die := fieldOf e 10 2, core := fieldOf e 12 11 }
/-- A walk from a table at some level on; entries are read from HBM. It answers a leaf or a cause. -/
def walkFrom (s : State) (v va : Nat) : List Nat → Nat → Except Nat Leaf
  | [], _ => .error 0x09
  | lvl :: rest, t =>
    let e := memReadN s.mem (memKey .hbm (t + 16 * vaIndex va lvl)) 16
    if e % 2 == 0 then .error 0x08
    else if !(entryOk s v e lvl) then .error 0x09
    else if fieldOf e 1 1 == 1 then .ok (leafOf e lvl va)
    else walkFrom s v va rest (fieldOf e 64 41)
/-- DeviceWalk (R227): from the table root as it was written, wherever it lies (log 137, DESIGN CHOICE). -/
def deviceWalk (s : State) (v va : Nat) : Except Nat Leaf :=
  walkFrom s v va [4, 3, 2, 1, 0] (tenantOf s v).troot.toNat

/-! ### The context-page range (R419), and the context die's own memory -/

/-- Whether a VA lies in the context-page range. -/
def inCtxRange (va : Nat) : Bool := 0xC000000000 ≤ va && va < 0x2C000000000
/-- The VA of a context page. -/
def ctxVa (num : Nat) : Nat := 0xC000000000 + 2 ^ 21 * num
/-- Size of a frame and of a context page. -/
def frameSize : Nat := 2 ^ 21
/-- A frame of a tenant's pool: its device VA (R342). -/
def frameVa (s : State) (v frame : Nat) : Nat := vaOf (tenantOf s v).pool + frameSize * frame
/-- The translation of a context page, from the table that the part keeps beside the tenant's own (R419). -/
def ctxLeaf (s : State) (v va : Nat) : Except Nat Leaf :=
  let num := (va - 0xC000000000) / frameSize
  match s.ctx.pages.find? fun p => p.tenant == v && p.num == num with
  | none => .error 0x08
  | some p =>
    let page : Leaf := { va := ctxVa num, size := frameSize, pa := p.pa, r := true, w := p.st == .resident, hm := 0,
                         die := p.home / 2048, core := p.home % 2048 }
    match p.st with
    | .resident => .ok page
    | .twilight => .ok page
    | _ => .error 0x08
/-- The first VA behind which the context die's own memory lies (log 13, DESIGN CHOICE). -/
def ownVa : Nat := 0x180000000000000
/-- The bytes of the context die's own memory for one seat (log 13, DESIGN CHOICE). -/
def seatSize : Nat := 2 ^ 24
/-- Where a seat's work area begins in them: what lies above is written by the step program. -/
def workOff : Nat := 0xA00000
/-- Where the completion words and the copies of launch records of a step begin in its first seat's part, and their size. -/
def recOff : Nat := 0x8F0000
/-- The bytes of them. -/
def recSize : Nat := 0x10000
/-- Whether a VA lies in that memory: behind the seats of a model instance that the tenant has loaded. No pointer reaches
the completion words and the copies of launch records (R397) (log 13, DESIGN CHOICE). -/
def inOwn (s : State) (v va : Nat) : Bool :=
  ownVa ≤ va && (va % seatSize < recOff || recOff + recSize ≤ va % seatSize) &&
    s.ctx.models.any fun m => m.tenant == v && m.num == (va - ownVa) / (2048 * seatSize)
/-- The translation of the context die's own memory, for the tenant that it serves. -/
def ownLeaf (v va : Nat) : Leaf :=
  { va := va / frameSize * frameSize, size := frameSize,
    pa := 2 ^ 48 + v * 2 ^ 43 + va % 2 ^ 43 / frameSize * frameSize, r := true, w := workOff ≤ va % seatSize }
/-- The key of a VA there. -/
def ownKey (v va : Nat) : Nat := memKey .device ((ownLeaf v va).pa + (va - (ownLeaf v va).va))

/-! ### Device translation with its caches (R226, R230, R231) -/

/-- A cached leaf of a cluster or its sector. -/
def cachedLeaf (s : State) (c v va : Nat) : Option Leaf :=
  (s.xlat.entries.find? fun e => !e.host && e.tenant == v && e.va ≤ va && va < e.va + e.size &&
    (if e.sector then e.unit == sectorOf c else e.unit == c)).map fun e =>
      { va := e.va, size := e.size, pa := e.pa, r := e.r, w := e.w, x := e.x, hm := e.hm, die := e.die, core := e.core }
/-- The entry of a leaf in one cache. -/
def entryOf (sector : Bool) (unit v : Nat) (host : Bool) (l : Leaf) : TEntry :=
  { sector := sector, unit := unit, tenant := v, host := host, va := l.va, size := l.size, pa := l.pa, r := l.r, w := l.w,
    x := l.x, hm := l.hm, die := l.die, core := l.core }
/-- Put an entry into its cache, which holds 256 entries in a cluster and 8,192 in a sector: a full cache loses its oldest
(R231) (log 31, DESIGN CHOICE). -/
def addEntry (l : List TEntry) (e : TEntry) : List TEntry :=
  let same (o : TEntry) : Bool := o.sector == e.sector && o.unit == e.unit
  (if (if e.sector then 8192 else 256) ≤ l.countP same then l.eraseP same else l) ++ [e]
/-- Fill a leaf into a cluster's cache and its sector's. -/
def fillLeaf (s : State) (c v : Nat) (l : Leaf) : State :=
  setXlat s { s.xlat with
    entries := addEntry (addEntry s.xlat.entries (entryOf false c v false l)) (entryOf true (sectorOf c) v false l) }
/-- The leaf of a device VA for a cluster, before permissions; with `fill`, a walk fills the caches. -/
def deviceLeaf (s : State) (c v va : Nat) (fill : Bool) : State × Except Nat Leaf :=
  if inCtxRange va then (s, ctxLeaf s v va)
  else if inOwn s v va then (s, .ok (ownLeaf v va))
  else
    match cachedLeaf s c v va with
    | some l => (s, .ok l)
    | none =>
      match deviceWalk s v va with
      | .error e => (s, .error e)
      | .ok l => (if fill then fillLeaf s c v l else s, .ok l)
/-- Translate a device VA (R226): a leaf that grants the access, or the cause. -/
def translateDev (s : State) (c v va : Nat) (want : Want) : State × Except Nat Leaf :=
  match deviceLeaf s c v va true with
  | (s, .error e) => (s, .error e)
  | (s, .ok l) => (s, if grants l want then .ok l else .error 0x0A)
/-- The physical address of a VA within its leaf. -/
def paIn (l : Leaf) (va : Nat) : Nat := l.pa + (va - l.va)

/-! ### Homes (R202) -/

/-- The register of home mask j of a die (R203). -/
def homeMask (s : State) (die j : Nat) : BitVec 256 :=
  ((s.cfg.hmasks.find? fun m => m.1 == (die, j)).map (·.2)).getD 0
/-- Home(pa) in masked mode: the die core index on a die. -/
def maskedCore (mask : BitVec 256) (pa : Nat) : Nat :=
  let cl := (List.range 256).filter fun j => mask.getLsbD j
  let cl := if cl.isEmpty then [0] else cl
  let l := pa / 256
  let h := (l ^^^ l / 2 ^ 13 ^^^ l / 2 ^ 26) % (8 * cl.length)
  cl.getD (h / 8) 0 * 8 + h % 8
/-- Home(pa) of a device page: die × 2048 + die core index. -/
def homeDev (s : State) (l : Leaf) (pa : Nat) : Nat :=
  l.die * 2048 + (if l.hm == 1 then maskedCore (homeMask s l.die (l.core % 64)) pa else l.core)
/-- Home of a host line. -/
def homeHost (s : State) (ta : Nat) : Nat :=
  let d := ta / 256 % 4
  d * 2048 + maskedCore (homeMask s d 0) ta

/-! ### Host translation (R232, R233) -/

/-- A cached host translation of a sector. -/
def hostLeaf (s : State) (sec v va : Nat) : Option Leaf :=
  (s.xlat.entries.find? fun e => e.host && e.unit == sec && e.tenant == v && e.va ≤ va && va < e.va + e.size).map fun e =>
    { va := e.va, size := e.size, pa := e.pa, r := e.r, w := e.w, x := e.x }
/-- The outcome of a host translation: a leaf, or a page to ask for and whether a cached completion withholds it. -/
inductive HostRes where
  | ok (l : Leaf)
  | ask (page : Nat) (cached : Bool)
deriving DecidableEq, Repr
/-- Translate a host VA by the sector's cache. -/
def translateHost (s : State) (sec v va : Nat) (want : Want) : HostRes :=
  match hostLeaf s sec v va with
  | some l => if grants l want then .ok l else .ask (va / 4096) true
  | none => .ask (va / 4096) false
/-- Whether an access wants to write. -/
def wantsWrite : Want → Bool
  | .wr => true
  | .rmw => true
  | _ => false
/-- Change a request. -/
def updReq (s : State) (id : Nat) (f : PageReq → PageReq) : State :=
  setXlat s { s.xlat with reqs := updWhere (fun q => q.id == id) f s.xlat.reqs }
/-- Page requests of a function that are outstanding at the host. -/
def outstanding (s : State) (v : Nat) : Nat := s.xlat.reqs.countP fun r => r.fn == v && r.phase == 1
/-- The request of a sector for a page that an access joins (R286). -/
def requestFor (s : State) (v sec page : Nat) : Option PageReq :=
  s.xlat.reqs.find? fun r => r.fn == v && r.sec == sec && r.page == page
/-- Join the request of a sector for a page (R286), or start one: a Translation Request, or a Page Request where the cached
completion withholds the permission (R233). A Page Request beyond 512 waits (log 28, DEDUCED). -/
def askPage (s : State) (v sec page : Nat) (want : Want) (cached : Bool) (who : List Party) (cmd : List Nat) : Nat × State :=
  let ws := who.map fun p => (p, want)
  let cs := cmd.map fun m => (m, want)
  match requestFor s v sec page with
  | some r =>
    (r.id, updReq s r.id fun q => { q with waiters := q.waiters ++ ws.filter fun w => !(q.waiters.contains w)
                                           cmds := q.cmds ++ cs.filter fun w => !(q.cmds.contains w) })
  | none =>
    let (n, s) := newId s
    let ph := if !cached then 0 else if outstanding s v < 512 then 1 else 3
    let r : PageReq := { id := n, fn := v, sec := sec, page := page, wr := wantsWrite want, phase := ph, since := s.clk,
                         waiters := ws, cmds := cs }
    (n, setXlat s { s.xlat with reqs := s.xlat.reqs ++ [r] })
/-- Whether an access that needs a page meets PRI stopped: its Page Request would fail at once, and no request for the page is
outstanding that it could join (R233, R286). -/
def priFails (s : State) (v sec page : Nat) (cached : Bool) : Bool :=
  cached && (tenantOf s v).priStop && (requestFor s v sec page).isNone
/-- Whether a party's access to a page has ended in HOSTPF (R233). -/
def pageFailed (s : State) (p : Party) (page : Nat) : Bool := s.xlat.failed.contains (p, page)
/-- Forget that. -/
def clearFailed (s : State) (p : Party) : State :=
  setXlat s { s.xlat with failed := s.xlat.failed.filter fun w => w.1 != p }
/-- Cores that wait on a request go on, and try their access again. -/
def wakeParty (id : Nat) (f : Firing) : Firing :=
  { f with cores := f.cores.map fun c => if c.busy == .page id then { c with busy := .none } else c }
/-- Where the end of a function's page request without a page is kept for an engine command, or for the part's own accesses
(0). -/
def failKey (cmd fn page : Nat) : Nat × Nat := (cmd, fn * 2 ^ 52 + page)
/-- End a request: its parties try again, and those that `fail` selects find HOSTPF. -/
def endReq (s : State) (r : PageReq) (fail : Want → Bool) : State :=
  let bad := (r.waiters.filter fun w => fail w.2).map fun w => (w.1, r.page)
  let badCmds := (r.cmds.filter fun w => fail w.2).map fun w => failKey w.1 r.fn r.page
  let x := { s.xlat with reqs := s.xlat.reqs.filter fun q => q.id != r.id
                         failed := s.xlat.failed ++ bad, failedCmds := s.xlat.failedCmds ++ badCmds }
  setFirings (setXlat s x) (s.firings.map (wakeParty r.id))
/-- Whether a request answers an access: a Page Request that asks for no write access leaves a writer to ask anew (R286). -/
def answers (r : PageReq) (want : Want) : Bool := r.wr || !(wantsWrite want)
/-- Send the first waiting Page Request of a function, now that one has ended. -/
def nextPri (s : State) (v : Nat) : State :=
  match s.xlat.reqs.find? fun r => r.fn == v && r.phase == 3 with
  | some r => if outstanding s v < 512 then updReq s r.id fun q => { q with phase := 1, since := s.clk } else s
  | none => s

end Sys2Proof.Machine
end

