-- ==== Sys2Proof/Machine/Cache.lean ====
section
/-! DEFINITION. The L2: reuse clocks, promises, fills and victims, write-backs, alias windows, RED update copies and
pinned windows (R21, R201 to R219, R224, R237 to R239, R243). -/

namespace Sys2Proof.Machine

/-! ### Reuse clocks (R21, R205) -/

/-- The domain of a level: that of the level above for a repeat level (R17). -/
def domAt : List Level → Nat → Nat → Nat
  | [], _, above => above
  | l :: _, 0, above => if l.dom == 6 then above else l.dom
  | l :: rest, j + 1, above => domAt rest j (if l.dom == 6 then above else l.dom)
/-- The level whose instances own the launch's clocks: the one with clk set, else the innermost of domain cluster or
wider. -/
def clockLevel (l : Launch) : Option Nat :=
  let js := List.range l.levels.length
  match js.find? fun j => ((l.levels[j]?).map (·.clk)).getD false with
  | some j => some j
  | none => js.reverse.find? fun j => domAt l.levels j 0 ≤ 3
/-- The clock that the firings of an instance tick. -/
def clockOf (s : State) (f : Firing) : ClockId :=
  match launchOf s f.launch, instOf s f.inst with
  | some l, some x =>
    match clockLevel l with
    | none => { launch := f.launch }
    | some j =>
      if ((l.graph.actors[f.actor]?).map (·.lvl)).getD 0 < j then { launch := f.launch }
      else { launch := f.launch, path := some (x.path.take (j + 1)) }
  | _, _ => { launch := f.launch }
/-- The value of a clock; one that has not ticked holds 0. -/
def clockVal (s : State) (k : ClockId) : W32 :=
  ((launchOf s k.launch).bind fun l => (l.clocks.find? fun e => e.1 == k).map (·.2)).getD 0
/-- Advance a clock (log 72, DEDUCED). Where its bits [31:4] change, it sends its value to every slice whose table holds it
(R206). -/
def tickClock (s : State) (k : ClockId) (n : W32) : State :=
  match launchOf s k.launch, n == 0 with
  | none, _ => s
  | _, true => s
  | some l, false =>
    let old := clockVal s k
    let s := putLaunch s { l with clocks := putWhere (fun e => e.1 == k) (k, old + n) l.clocks }
    let t := (old + n).toNat / 16
    if t == old.toNat / 16 then s
    else
      let dest := s.l2.clks.filter fun e => e.clk == k
      setL2 s { s.l2 with casts := s.l2.casts ++ dest.map fun e => (e.slice, k, t % 65536) }

/-- The distance of a class (R207). -/
def classDist (c : Nat) : Nat :=
  if c == 1 then 4 else if c == 2 then 8 else 2 ^ (3 + (c - 3) / 2) * (2 + (c - 3) % 2)
/-- Due(C, nu). -/
def dueOf (c : W32) (nu : Nat) : Nat := (c.toNat + classDist nu) % 2 ^ 32 / 16 % 65536

/-! ### Clock tables (R206) -/

/-- Make every promise that names a table entry an orphan, and forget it as a last writer. -/
def orphanLines (s : State) (slice idx : Nat) : State :=
  let go (l : Line) : Line :=
    if l.slice == slice then
      let l := if l.clk == idx && (l.kind == 1 || l.kind == 2) then { l with kind := 3, since := s.clk } else l
      if l.wclk == some idx then { l with wclk := none } else l
    else l
  setL2 s { s.l2 with lines := s.l2.lines.map go }
/-- The entry of a clock in a slice's table, allotted where it has none: a free one, else the one whose broadcast is
oldest. A new entry holds the clock's value at its allotment, which counts as its latest broadcast (log 107, DESIGN
CHOICE). -/
def clkEntry (s : State) (slice : Nat) (k : ClockId) : State × Nat :=
  let mine := s.l2.clks.filter fun e => e.slice == slice
  match mine.find? fun e => e.clk == k with
  | some e => (s, e.idx)
  | none =>
    let (n, s) := newId s
    let t := (clockVal s k).toNat / 16 % 65536
    match (List.range 32).find? fun j => mine.all fun e => e.idx != j with
    | some j =>
      let e : ClkEntry := { slice := slice, idx := j, clk := k, t := t, last := n }
      (setL2 s { s.l2 with clks := s.l2.clks ++ [e] }, j)
    | none =>
      let old := mine.foldl (fun (b : ClkEntry) e => if e.last < b.last then e else b) (mine.head?.getD {})
      let s := orphanLines s slice old.idx
      let e : ClkEntry := { slice := slice, idx := old.idx, clk := k, t := t, last := n }
      (setL2 s { s.l2 with clks := putWhere (fun c => c.slice == slice && c.idx == old.idx) e s.l2.clks
                           casts := s.l2.casts.filter fun b => b.1 != slice || b.2.1 != old.clk }, old.idx)
/-- The value that a slice's table holds for an entry. -/
def tableT (s : State) (slice idx : Nat) : Nat :=
  ((s.l2.clks.find? fun e => e.slice == slice && e.idx == idx).map (·.t)).getD 0
/-- Retire a launch's clocks: their entries are freed and the lines that name them become orphans. -/
def retireClocks (s : State) (launch : Nat) : State :=
  let s := (s.l2.clks.filter fun e => e.clk.launch == launch).foldl (fun s e => orphanLines s e.slice e.idx) s
  setL2 s { s.l2 with clks := s.l2.clks.filter fun e => e.clk.launch != launch
                      casts := s.l2.casts.filter fun b => b.2.1.launch != launch }

/-! ### Quotas and windows (R204, R216) -/

/-- A tenant's share, prio, protect and window quotas, and wofs (R402). -/
def qShare (t : Tenant) : Nat := fieldOf t.l2q.toNat 0 5
/-- Its priority. -/
def qPrio (t : Tenant) : Nat := fieldOf t.l2q.toNat 8 2
/-- Its protected lines per set. -/
def qProtect (t : Tenant) : Nat := fieldOf t.l2q.toNat 16 4
/-- Its largest window. -/
def qWindow (t : Tenant) : Nat := fieldOf t.l2q.toNat 24 4
/-- Its window offset. -/
def qWofs (t : Tenant) : Nat := fieldOf t.l2q.toNat 28 4
/-- The cluster of a slice: slices are numbered die × 2048 + die core index. -/
def sliceCluster (slice : Nat) : Nat := slice / 8
/-- The ways of a tenant's window on a die. -/
def windowWays (t : Tenant) (die : Nat) : Nat := t.windows.getD die 0
/-- Whether a way of a slice belongs to the pinned window of a tenant that holds the slice. -/
def wayPinned (s : State) (slice way : Nat) : Bool :=
  s.tenants.toList.any fun t =>
    t.clmask.getLsbD (sliceCluster slice) && way + qWofs t ≤ 15 && 16 ≤ way + qWofs t + windowWays t (slice / 2048)
/-- The clusters of a tenant's partition on a die, ascending. -/
def dieClusters (t : Tenant) (die : Nat) : List Nat := (rangeFrom (256 * die) 256).filter fun c => t.clmask.getLsbD c
/-- The size of a tenant's window on a die. -/
def windowSize (s : State) (v die : Nat) : Nat :=
  let t := tenantOf s v
  windowWays t die * 3072 * (8 * (dieClusters t die).length)
/-- The key of a byte of a way of a slice's set that serves as window. -/
def wayKey (slice way set byte : Nat) : Nat := memKey .window (((slice * 16 + way) * 12 + set) * 256 + byte)
/-- No byte of a way of a slice counts as lost any more (R217): the way joins a window, or leaves one. -/
def forgetLost (s : State) (slice way : Nat) : State :=
  let k := wayKey slice way 0 0
  setL2 s { s.l2 with lost := s.l2.lost.filter fun b => b < k || k + 3072 ≤ b }
/-- The place of an offset of a tenant's window on a die (R216). -/
def windowKey (s : State) (v die off : Nat) : Nat :=
  let t := tenantOf s v
  let cl := dieClusters t die
  let n := 8 * cl.length
  let g := off / 256
  let slice := cl.getD (g % n / 8) 0 * 8 + g % n % 8
  let j := g / n
  wayKey slice (15 - qWofs t - j / 12) (j % 12) (off % 256)

/-! ### RED update copies (R243) -/

/-- A new value of an atomic or reduction: function, q, width in bytes, old value and operand (R241, R243). -/
def combine (fn q size old b : Nat) : Nat :=
  let w := 8 * size
  let o := old % 2 ^ w
  let x := b % 2 ^ w
  let lt (p r : Nat) : Bool := if q == 2 || q == 3 then p < r else signedOf w p < signedOf w r
  match fn with
  | 0 => (o + x) % 2 ^ w
  | 1 => if lt x o then x else o
  | 2 => if lt o x then x else o
  | 3 => o &&& x
  | 4 => o ||| x
  | 5 => o ^^^ x
  | 6 => (floatPick .fp32 false o x).1
  | _ => (floatPick .fp32 true o x).1
/-- The lines that a region key lies in. -/
def lineOf (key : Nat) : Nat := key / 256
/-- Whether a slice holds a line. -/
def lineHeld (s : State) (line : Nat) : Bool := s.l2.lines.any fun l => l.line == line
/-- The key in HBM of a key in device memory. -/
def hbmKey (key : Nat) : Nat := key + memKey .hbm 0
/-- Whether a key lies in device memory that HBM backs. -/
def hbmBacked (key : Nat) : Bool := key < 2 ^ 40
/-- Write bytes at a home: a line that a slice holds becomes dirty there, and otherwise the bytes reach HBM at once. -/
def putHome (s : State) (key : Nat) (mask : Nat) (bytes : List Byte) : State :=
  let m := memWriteMasked s.mem key mask bytes
  if hbmBacked key && !(lineHeld s (lineOf key)) then setMem s (memWriteMasked m (hbmKey key) mask bytes)
  else
    let n := (key + bytes.length - 1) / 64 - key / 64 + 1
    let sec : BitVec 4 := BitVec.ofNat 4 ((2 ^ n - 1) * 2 ^ (key / 64 % 4))
    let lines := updWhere (fun l => l.line == lineOf key) (fun l => { l with dirty := l.dirty ||| sec }) s.l2.lines
    setL2 (setMem s m) { s.l2 with lines := lines }
/-- A line's write and read timestamps. -/
def stampOf (s : State) (line : Nat) : Nat × Nat :=
  ((s.l2.stamps.find? fun e => e.1 == line).map fun e => (e.2.1, e.2.2)).getD (0, 0)
/-- Set them. -/
def setStamp (s : State) (line wts rts : Nat) : State :=
  setL2 s { s.l2 with stamps := putWhere (fun e => e.1 == line) (line, wts, rts) s.l2.stamps }
/-- Give a line the timestamp of a write that belongs to no core's coherent order, and no less than a floor. -/
def bumpStamp (s : State) (line floor : Nat) : State :=
  let r := max floor ((stampOf s line).2 + 1)
  setStamp s line r r
/-- Combine one update copy into its line. -/
def applyUpdate (s : State) (u : Update) : State :=
  let v := combine u.fn u.q u.size (memReadN s.mem u.key u.size) u.val.toNat
  bumpStamp (putHome s u.key (2 ^ u.size - 1) (toBytes u.size v)) (lineOf u.key) u.ts
/-- Recall every update copy that satisfies p, and combine it. -/
def recallWhere (s : State) (p : Nat → Nat → Update → Bool) : State :=
  let us := s.pcores.flatMap fun c => c.updates.filter (p c.c c.i)
  let cs := s.pcores.map fun c => { c with updates := c.updates.filter fun u => !(p c.c c.i u) }
  us.foldl applyUpdate (setPcores s cs)
/-- Recall every update copy of a line in the package. -/
def recallLine (s : State) (line : Nat) : State :=
  if s.pcores.any fun c => c.updates.any fun u => lineOf u.key == line then
    recallWhere s fun _ _ u => lineOf u.key == line
  else s

/-! ### Alias windows (R237, R238) -/

/-- The first byte of a register's raw range. -/
def fregBase (f : BitVec 256) : Nat := fieldOf f.toNat 16 25 * 2 ^ 16
/-- The first byte of its scale region. -/
def fregScales (f : BitVec 256) : Nat := fieldOf f.toNat 139 30 * 2 ^ 11
/-- A number of n bytes at a device address as the memory controller reads it. -/
def hbmWord (s : State) (a n : Nat) : Nat := memReadN s.mem (memKey .hbm a) n
/-- An element of a register's raw range, exactly; `rd` reads numbers of n bytes at device addresses. -/
def rawElem (rd : Nat → Nat → Nat) (f g : BitVec 256) (fmt i : Nat) : Val :=
  let base := fregBase f
  let scales := fregScales
  if fmt == 18 || fmt == 19 then
    let idx := rd (base + 2 * (i / 8)) 2
    cbValue (rd (scales f + 4 * (idx / 256)) 4) idx (i % 8) (decodeFmt .e4m3 (rd (scales f + 2048 + i / 64) 1))
      (decodeFmt .fp32 (rd (scales g + 1024) 4))
  else
    let w := codeWidth fmt
    let code := rd (base + i * w / 8) 5 / 2 ^ (i * w % 8) % 2 ^ w
    let b := blockOf fmt
    elemScaled fmt code (if b == 0 then 0 else rd (scales f + 2048 + i / b) 1)
/-- The code that a read of an alias element returns. -/
def aliasElem (s : State) (reg i : Nat) : Nat :=
  let f := vget s.cfg.fregs reg 0
  let fmt := fieldOf f.toNat 192 5
  let out := if f.getLsbD 200 then Fmt.bf16 else Fmt.fp32
  if !(f.getLsbD 0) || fieldOf f.toNat 80 25 * 2 ^ 16 * 8 / codeWidth fmt ≤ i then 0
  else if fmt == 19 then
    let p := vget s.cfg.fregs (fieldOf f.toNat 208 4) 0
    (rne out (valAdd (rawElem (hbmWord s) p p 18 i) (rawElem (hbmWord s) f p 19 i))).1
  else (rne out (rawElem (hbmWord s) f f fmt i)).1
/-- A byte of an alias window. -/
def aliasByte (s : State) (pa : Nat) : Byte :=
  let reg := pa / 2 ^ 36 % 16
  let n := if (vget s.cfg.fregs reg 0).getLsbD 200 then 2 else 4
  let off := pa % 2 ^ 36
  BitVec.ofNat 8 (aliasElem s reg (off / n) / 2 ^ (8 * (off % n)))
/-- Whether a key lies in an alias window. -/
def isAlias (key : Nat) : Bool := key / 2 ^ 40 == 1
/-- Decode the sectors of an alias line that are fetched. -/
def decodeSectors (s : State) (line : Nat) (secs : BitVec 4) : State :=
  if isAlias (line * 256) then
    (List.range 4).foldl (init := s) fun s j =>
      if secs.getLsbD j then
        let k := line * 256 + 64 * j
        setMem s (memWriteBytes s.mem k ((List.range 64).map fun b => aliasByte s (k + b)))
      else s
  else s

/-! ### Lines (R208 to R213, R218) -/

/-- Write back the dirty sectors of a line, leaving it clean; the copies of R243 are recalled first. -/
def writeBack (s : State) (line : Nat) : State :=
  let s := recallLine s line
  match s.l2.lines.find? fun l => l.line == line with
  | none => s
  | some l =>
    let m := if hbmBacked (line * 256) then
        (List.range 4).foldl (init := s.mem) fun m j =>
          if l.dirty.getLsbD j then memCopy m (line * 256 + 64 * j) (hbmKey (line * 256 + 64 * j)) 64 else m
      else s.mem
    setL2 (setMem s m) { s.l2 with lines := updWhere (fun k => k.line == line) (fun k => { k with dirty := 0 }) s.l2.lines }
/-- Write back and invalidate a line; the decoded bytes of an alias line go with it. -/
def dropLine (s : State) (line : Nat) : State :=
  let s := writeBack s line
  let m := if isAlias (line * 256) then memClear s.mem (line * 256) (line * 256 + 256) else s.mem
  setL2 (setMem s m) { s.l2 with lines := s.l2.lines.filter fun k => k.line != line }
/-- Write back and invalidate every line that satisfies p. -/
def dropLines (s : State) (p : Line → Bool) : State :=
  (s.l2.lines.filter p).foldl (fun s l => dropLine s l.line) s

/-- An access as a slice sees it. -/
structure L2Req where
  tenant : Nat := 0
  slice : Nat := 0
  line : Nat := 0
  secs : BitVec 4 := 0
  write : Bool := false
  alloc : Bool := true
  nu : Nat := 0
  dflt : Nat := 16
  clk : ClockId := {}
  c : W32 := 0
deriving DecidableEq, Repr

/-- The set of a line (R201). -/
def setOf (line : Nat) : Nat := line % 2 ^ 56 % 12
/-- The lines of one set. -/
def setLines (s : State) (slice set : Nat) : List Line := s.l2.lines.filter fun l => l.slice == slice && l.set == set
/-- The resolved nu of an access (R207): a tenant that holds its protect quota of protected lines in the set, the line
itself among them, has nu 31 treated as nu 30. A default class of 31 then resolves to 16 (log 14, DEDUCED). -/
def resolveNu (s : State) (r : L2Req) : Nat :=
  let t := tenantOf s r.tenant
  let held := (setLines s r.slice (setOf r.line)).countP fun l => l.owner == r.tenant && l.kind == 2
  let within := held < qProtect t
  let d := if r.dflt == 31 then (if within then 31 else 16) else r.dflt
  if r.nu == 30 then d else if r.nu == 31 then (if within then 31 else d) else r.nu
/-- Give a line its promise (R209); one that is given again counts its time from now (R212) (log 134, DESIGN CHOICE). -/
def promise (l : Line) (nu idx : Nat) (c : W32) (now : Nat) : Line :=
  let l := { l with touched := false, overdue := false }
  if nu == 0 then { l with kind := 0, since := now }
  else if nu == 31 then { l with kind := 2, clk := idx, since := now }
  else { l with kind := 1, clk := idx, due := dueOf c nu }
/-- Close the credibility window of a tenant (R214). -/
def closeWindow (t : Tenant) : Tenant :=
  let c := if 8192 < t.broken then min 7 (t.cred + 1) else if t.broken < 2048 then t.cred - 1 else t.cred
  { t with cred := c, promises := 0, broken := 0 }
/-- A tenant with its window closed at the 65,536th promise; the new shift is in force at once (log 106, DESIGN CHOICE). -/
def settled (t : Tenant) : Tenant := if 65536 ≤ t.promises then closeWindow t else t
/-- The credibility shift in force (R214). -/
def credOf (s : State) (v : Nat) : Nat := (settled (tenantOf s v)).cred
/-- Count a promise of a tenant where a line is left promised (R209, R214). -/
def countPromise (s : State) (v nu : Nat) : State :=
  if 1 ≤ nu && nu ≤ 29 then
    let t := settled (tenantOf s v)
    putTenant s v { t with promises := t.promises + 1 }
  else s
/-- Lexicographic order of keys. -/
def keyLt : List Nat → List Nat → Bool
  | [], [] => false
  | [], _ => true
  | _, [] => false
  | a :: as, b :: bs => a < b || (a == b && keyLt as bs)
/-- The first line of the least key. -/
def leastLine (key : Line → List Nat) : List Line → Option Line
  | [] => none
  | l :: ls => some (ls.foldl (fun b x => if keyLt (key x) (key b) then x else b) l)
/-- Effective remaining distance of a promised line (R211). -/
def effective (s : State) (l : Line) : Nat :=
  (l.due + 65536 - tableT s l.slice l.clk) % 65536 * 2 ^ credOf s l.owner
/-- Whether a line is dead, overdue or an orphan. -/
def isLoose (l : Line) : Bool := l.kind == 0 || l.kind == 3 || (l.kind == 1 && l.overdue)
/-- The lines of a set that a fill may evict: none of a pinned window's ways. -/
def evictable (s : State) (r : L2Req) : List Line :=
  (setLines s r.slice (setOf r.line)).filter fun l => !(wayPinned s r.slice l.way)
/-- The candidates of step 1 of R212: where some tenant would be over its share, only the lines of such tenants. -/
def candidates (s : State) (r : L2Req) : List Line :=
  let ls := evictable s r
  let beyond (v : Nat) : Bool :=
    let t := tenantOf s v
    let pins := if t.clmask.getLsbD (sliceCluster r.slice) then windowWays t (r.slice / 2048) else 0
    qShare t < (ls.countP fun l => l.owner == v) + pins + (if v == r.tenant then 1 else 0)
  if (List.range 16).any beyond then ls.filter fun l => beyond l.owner else ls
/-- The victim among some lines of a set and the step of R212 that chose it. -/
def victimIn (s : State) (cand : List Line) : Option (Line × Nat) :=
  let tie (l : Line) : List Nat :=
    [qPrio (tenantOf s l.owner), if l.dirty == 0 then 0 else 1, l.way]
  match leastLine (fun l => l.since :: tie l) (cand.filter isLoose) with
  | some l => some (l, 2)
  | none =>
    match leastLine (fun l => (2 ^ 24 - effective s l) :: tie l) (cand.filter fun l => l.kind == 1) with
    | some l => some (l, 3)
    | none => (leastLine (fun l => l.since :: tie l) (cand.filter fun l => l.kind == 2)).map fun l => (l, 4)
/-- The victim of a fill: the tenants over their share may own no line of the set that can go, and then there is none, but for
a fill with nu 31 within quota, which is never bypassed and chooses among all of them (R213) (log 15, DEDUCED). -/
def victim (s : State) (r : L2Req) (nu : Nat) : Option (Line × Nat) :=
  match victimIn s (candidates s r) with
  | some v => some v
  | none => if nu == 31 then victimIn s (evictable s r) else none
/-- The way that a fill takes, with the line that it evicts; none where the access is not allocated (R212, R213). A fill
with nu 0 takes no promised or protected line, whichever step chose it (log 15, DEDUCED). -/
def chooseWay (s : State) (r : L2Req) (nu : Nat) : Option (Nat × Option Nat) :=
  let ls := setLines s r.slice (setOf r.line)
  match (List.range 16).find? fun w => !(wayPinned s r.slice w) && ls.all fun l => l.way != w with
  | some w => some (w, none)
  | none =>
    match victim s r nu with
    | none => none
    | some (l, step) =>
      let inc := (dueOf r.c nu + 65536 - r.c.toNat / 16 % 65536) % 65536 * 2 ^ credOf s r.tenant
      if nu == 31 then some (l.way, some l.line)
      else if nu == 0 then (if step == 2 then some (l.way, some l.line) else none)
      else if step == 3 && effective s l < inc then none
      else some (l.way, some l.line)
/-- An access at a slice: a hit, a fill or a bypass; whether the slice holds the line afterwards. -/
def l2Access (s : State) (r : L2Req) : State × Bool :=
  match s.l2.lines.find? fun l => l.line == r.line && l.slice == r.slice with
  | some l =>
    let (s, idx) := clkEntry s r.slice r.clk
    let nu := resolveNu s r
    let s := decodeSectors s r.line (r.secs &&& ~~~l.valid)
    let upd (l : Line) : Line :=
      let l := if l.owner == r.tenant then promise l nu idx r.c s.clk else { l with touched := true }
      { l with valid := l.valid ||| r.secs, dirty := if r.write then l.dirty ||| r.secs else l.dirty
               wclk := if r.write then some idx else l.wclk }
    let s := if l.owner == r.tenant then countPromise s r.tenant nu else s
    (setL2 s { s.l2 with lines := updWhere (fun k => k.line == r.line) upd s.l2.lines }, true)
  | none =>
    if !r.alloc then (s, false)
    else
      let nu := resolveNu s r
      match chooseWay s r nu with
      | none => (s, false)
      | some (way, old) =>
        let s := match old with
          | some k => dropLine s k
          | none => s
        let (s, idx) := clkEntry s r.slice r.clk
        let s := decodeSectors s r.line r.secs
        let l : Line :=
          { slice := r.slice, set := setOf r.line, way := way, line := r.line, owner := r.tenant, valid := r.secs,
            dirty := if r.write then r.secs else 0, wclk := if r.write then some idx else none }
        let s := countPromise s r.tenant nu
        (setL2 s { s.l2 with lines := s.l2.lines ++ [promise l nu idx r.c s.clk] }, true)
/-- An `cache.nu`: an owner hit without any data access (R221). -/
def l2Nu (s : State) (r : L2Req) : State :=
  match s.l2.lines.find? fun l => l.line == r.line && l.slice == r.slice && l.owner == r.tenant with
  | none => s
  | some _ =>
    let (s, idx) := clkEntry s r.slice r.clk
    let nu := resolveNu s r
    let s := countPromise s r.tenant nu
    let lines := updWhere (fun k => k.line == r.line) (fun k => promise k nu idx r.c s.clk) s.l2.lines
    setL2 s { s.l2 with lines := lines }

/-- Whether some slice holds the sector of a byte. -/
def sectorHeld (s : State) (k : Nat) : Bool :=
  s.l2.lines.any fun l => l.line == lineOf k && l.valid.getLsbD (k / 64 % 4)
/-- The bytes that a read at a home returns: update copies are recalled first, and an alias sector that no slice holds is
decoded. -/
def getHome (s : State) (key n : Nat) : State × List Byte :=
  let s := recallLine s (lineOf key)
  let byte (k : Nat) : Byte := if sectorHeld s k then memRead s.mem k else aliasByte s k
  if isAlias key then (s, (List.range n).map fun j => byte (key + j)) else (s, memReadBytes s.mem key n)
/-- Whether a read of n bytes from a key meets a poisoned sector or a lost window byte (R217, R219). -/
def poisoned (s : State) (key n : Nat) : Bool :=
  s.l2.poison.any (fun p => key / 64 ≤ p && p ≤ (key + n - 1) / 64) ||
    s.l2.lost.any (fun k => key ≤ k && k < key + n)
/-- The next free bytes (log 3, DESIGN CHOICE). -/
def freeBytes (s : State) (n : Nat) : State × List Byte :=
  (setFree s (s.free + n), (List.range n).map fun j => Config.freeByte (s.free + j))
/-- A store to a lost window line makes it good: the bytes of the line are no longer lost, and those that the store does not
write are left open (R217) (log 108, DEDUCED). -/
def healLine (s : State) (key : Nat) : State :=
  let hit (k : Nat) : Bool := lineOf k == lineOf key
  if s.l2.lost.any hit then
    let (s, bs) := freeBytes s 256
    setL2 (setMem s (memWriteBytes s.mem (lineOf key * 256) bs)) { s.l2 with lost := s.l2.lost.filter fun k => !(hit k) }
  else s
/-- Whether a fill of an access finds only ways of pinned windows in its set, so that the access waits (R220). -/
def setBlocked (s : State) (r : L2Req) : Bool :=
  r.alloc && !(s.l2.lines.any fun l => l.line == r.line && l.slice == r.slice) &&
    (List.range 16).all (wayPinned s r.slice)

/-! ### The broadcast of a clock (R206, R210, R214) -/

/-- A value of a clock reaches a slice's table: promises whose due it has reached become overdue, and those not met count
as broken. -/
def broadcast (s : State) (slice : Nat) (clk : ClockId) (t : Nat) : State :=
  match s.l2.clks.find? fun e => e.slice == slice && e.clk == clk with
  | none => s
  | some e =>
    let (n, s) := newId s
    let clks := updWhere (fun c => c.slice == slice && c.idx == e.idx) (fun c => { c with t := t, last := n }) s.l2.clks
    let ripe (l : Line) : Bool :=
      l.slice == slice && l.clk == e.idx && l.kind == 1 && !l.overdue && (t + 65536 - l.due) % 65536 < 32768
    let broke := s.l2.lines.filter fun l => ripe l && !l.touched
    let s := broke.foldl (init := s) fun s l =>
      let o := settled (tenantOf s l.owner)
      putTenant s l.owner { o with broken := o.broken + 1 }
    let lines := updWhere ripe (fun l => { l with overdue := true, since := s.clk }) s.l2.lines
    setL2 s { s.l2 with clks := clks, lines := lines }

end Sys2Proof.Machine
end

