-- ==== Sys2Proof/Machine/Page.lean ====
section
/-! DEFINITION. What the configuration page of a function and space 0xE read as (R277, R406). -/

namespace Sys2Proof.Machine

/-- Two 32-bit fields of one 8-byte word, the lower at the lower offset. -/
def pair32 (lo hi : Nat) : Word := BitVec.ofNat 64 (lo % 2 ^ 32 + hi % 2 ^ 32 * 2 ^ 32)

/-- The 8-byte word of a function's configuration page at an offset; write-only and reserved fields read 0 (R406, R6). -/
def pageWord (s : State) (v off : Nat) : Word :=
  let t := tenantOf s v
  match off with
  | 0x000 => BitVec.ofNat 64 v
  | 0x008 => 0x3F
  | 0x010 => t.faccept
  | 0x018 => BitVec.ofNat 64 t.vstate
  | 0x020 => t.troot
  | 0x028 => t.trbase
  | 0x030 => BitVec.ofNat 64 t.trlog.toNat
  | 0x038 => t.save
  | 0x040 => t.savesz
  | 0x048 => t.pool
  | 0x050 => pair32 t.poolfr.toNat t.headroom.toNat
  | 0x058 => t.backing
  | 0x060 => t.backsz
  | 0x068 => t.lqbase
  | 0x070 => pair32 t.lqlog.toNat t.lqhead.toNat
  | 0x078 => pair32 0 t.lqerr.toNat
  | 0x088 => t.invdone
  | 0x090 => pair32 0 t.frerr.toNat
  | 0x098 => BitVec.ofNat 64 t.pasid.toNat
  | _ => 0
/-- A read of the word that holds `frerr` clears it (R406). -/
def pageAfterRead (s : State) (v off : Nat) : State :=
  if off == 0x090 then putTenant s v { tenantOf s v with frerr := 0 } else s

/-- The held instances of a tenant on a cluster (R277). -/
def heldOn (s : State) (v c : Nat) : Nat :=
  s.insts.countP fun x => x.tenant == v && x.clus == c && match x.st with
    | .held _ => true
    | _ => false
/-- Whether an offset of space 0xE is listed (R277). -/
def sysListed (off : Nat) : Bool := off < 0x1000 || (0x10000 ≤ off && off < 0x10000 + 256 * 1024)
/-- The cluster whose status an offset names. -/
def sysCluster (off : Nat) : Nat := (off - 0x10000) / 256
/-- The 8-byte word of space 0xE at an offset, for a tenant. -/
def sysWord (s : State) (v off : Nat) : Word :=
  if off < 0x1000 then pageWord s v off
  else if off % 256 < 8 then
    BitVec.ofNat 64 ((if s.cfg.fenced.contains (sysCluster off) then 1 else 0) + heldOn s v (sysCluster off) % 256 * 256)
  else 0

end Sys2Proof.Machine
end

