-- ==== Sys2Proof/Machine/Release.lean ====
section
/-! DEFINITION. The order among the accesses of a cluster's cores, FENCE, and releases and acquires: what is Done at which
scope, what a released location covers and carries, and what an acquirer then waits for (R247 to R259, R264, R265). -/

namespace Sys2Proof.Machine

/-! ### Order among the accesses of a cluster's cores (R248, R249, R253 to R255) -/

/-- Whether an access is a store to the range-lock table (R261): FE `test` (function 0) is not. -/
def accWrites (a : Acc) : Bool :=
  match a.kind with
  | .load => false
  | .ldf => false
  | .fe => a.fn != 0
  | _ => true
/-- Whether an access reads its location at the home, bank or point of service (R259). -/
def accReads (a : Acc) : Bool :=
  match a.kind with
  | .load => true
  | .ldf => true
  | .amo => true
  | .cas => true
  | .fe => a.fn == 0 || a.fn == 3
  | _ => false
/-- Whether an access is an atomic or a reduction. -/
def isAtomic (a : Acc) : Bool := a.kind == .amo || a.kind == .cas || a.kind == .red
/-- The key of byte j of an access; a lane-slice vector reaches four slices (R198). -/
def byteKey (a : Acc) (j : Nat) : Nat := if a.lanes then a.key + j / 4 * 4096 + j % 4 else a.key + j
/-- The keys of the bytes that an access touches. -/
def accKeys (a : Acc) : List Nat :=
  match a.kind with
  | .store => ((List.range a.size).filter fun j => a.bytes.getLsbD j).map (byteKey a)
  | _ => (List.range a.size).map (byteKey a)

/-- The unfinished accesses of a cluster's cores, each with the core in whose order it stands. -/
def clusAccs (s : State) (c : Nat) : List (Nat × Acc) :=
  (s.pcores.filter fun p => p.c == c).flatMap fun p => p.accs.map fun a => (p.i, a)
/-- The unfinished accesses that stand before an access in the order of some core of it. -/
def before (s : State) (c i : Nat) (a : Acc) : List (Nat × Acc) :=
  (clusAccs s c).filter fun e =>
    e.2.id < a.id && (accCores e.1 e.2).1 < (accCores i a).2 && (accCores i a).1 < (accCores e.1 e.2).2
/-- Whether an access is coherent (R248). -/
def coherent (a : Acc) : Bool :=
  a.space == 0 && (a.kind == .load || a.kind == .store || a.kind == .amo || a.kind == .cas)
/-- Whether an access is Done at system scope (R254): performed, and for posted remote ones gathered. -/
def sysDone (a : Acc) : Bool := a.performed && (a.space != 2 || a.gathered || isLoadKind a.kind)
/-- Whether an access of an identity is unfinished at system scope. -/
def unfinished (s : State) (id : Nat) : Bool := s.pcores.any fun p => p.accs.any fun a => a.id == id && !(sysDone a)
/-- The narrowest scope whose units can contain the home unit of a space (R254). -/
def homeLevel (sp : Nat) : Nat :=
  match sp with
  | 5 => 2
  | 4 => 4
  | 8 => 4
  | 2 => 6
  | 14 => 7
  | _ => 0
/-- Whether an access's home unit lies within the unit of a scope that contains core i of cluster c; a gang is its first
core and width (R254). -/
def homeWithin (a : Acc) (scope c i lead width : Nat) : Bool :=
  let lvl := homeLevel a.space
  if scope < lvl then false
  else if 5 ≤ scope then true
  else
    let core := a.home
    let clus := if lvl == 2 then a.home else a.home / 8
    let die := if lvl == 4 then a.home else dieOf clus
    match scope with
    | 0 => core == c * 8 + i
    | 1 => c * 8 + lead ≤ core && core < c * 8 + lead + width
    | 2 => clus == c
    | 3 => sectorOf clus == sectorOf c
    | _ => die == dieOf c
/-- Done(a, scope) for a core (R254). -/
def doneAt (a : Acc) (scope c i lead width : Nat) : Bool := !(homeWithin a scope c i lead width) || sysDone a
/-- Whether an engine command or tile task that a core issued before an identity is unfinished. -/
def engineBusy (s : State) (c i id : Nat) : Bool :=
  (s.eng.cmds.any fun m => m.c == c && m.cores.contains i && m.id < id) ||
    (s.tasks.tasks.any fun t => t.c == c && t.cores.contains i && t.id < id && !t.fin) ||
    (s.tasks.subs.any fun t => t.c == c && t.cores.contains i && t.id < id)

/-! ### The scope that holds two parties (R259) -/

/-- A party that reads a released location: a core (an engine of a cluster counts as core 8 there), a unit of a die or of the
package, another package, or the host and the part itself. -/
inductive Reader where
  | core (c i : Nat)
  | die (d : Nat)
  | pkg
  | dom
  | sys
deriving DecidableEq, Repr
/-- The narrowest scope whose unit holds core i of cluster c and a reader; two cores of a cluster count as held by the
cluster (log 109, DEDUCED). -/
def holdScope (c i : Nat) : Reader → Nat
  | .core d j =>
    if c == d then (if i == j then 0 else 2)
    else if sectorOf c == sectorOf d then 3
    else if dieOf c == dieOf d then 4
    else 5
  | .die d => if dieOf c == d then 4 else 5
  | .pkg => 5
  | .dom => 6
  | .sys => 7
/-- Whether the accesses of some identities are Done at the scope that holds each one's core and a reader. -/
def pendDone (s : State) (ids : List Nat) (r : Reader) : Bool :=
  ids.isEmpty || s.pcores.all fun p => p.accs.all fun a =>
    !(ids.contains a.id) || doneAt a (holdScope p.c p.i r) p.c p.i p.i 1
/-- Whether a reader lies within the unit at which a release was made. -/
def inUnit (e : Rel) : Reader → Bool
  | .core c i =>
    match e.scope with
    | 0 => c == e.c && i == e.i
    | 1 => c == e.c && e.lead ≤ i && i < e.lead + e.width
    | 2 => c == e.c
    | 3 => sectorOf c == sectorOf e.c
    | 4 => dieOf c == dieOf e.c
    | _ => true
  | .die d => 5 ≤ e.scope || (e.scope == 4 && dieOf e.c == d)
  | .pkg => 5 ≤ e.scope
  | .dom => 6 ≤ e.scope
  | .sys => 7 ≤ e.scope
/-- Whether a location of n bytes meets a range. -/
def keysMeet (k n key size : Nat) : Bool := k < key + size && key < k + n
/-- Whether a reader's read of a range may be served: each release there is published to it (R258, R259). -/
def served (s : State) (r : Reader) (key n : Nat) : Bool :=
  s.dir.all fun e => !(keysMeet key n e.key e.size) || inUnit e r || pendDone s e.pend r

/-! ### FENCE (R255, R265) -/

/-- Whether a FENCE of core i of cluster c may complete (R255, R265). -/
def fenceDone (s : State) (c i : Nat) (e : Acc) : Bool :=
  (before s c i e).all (fun b =>
    b.2.kind == .fence || b.2.sets &&& e.pset == 0 || doneAt b.2 e.scope c i (e.home % 8) e.width) &&
    !(e.pset.getLsbD 2 && engineBusy s c i e.id) &&
    (!(e.pset.getLsbD 3) || e.senders.all fun m => pendDone s m.1 (.core c i))
/-- Whether a FENCE holds an access. -/
def fenced (s : State) (c i : Nat) (a : Acc) : Bool :=
  (before s c i a).any fun b => b.2.kind == .fence && b.2.sset &&& a.sets != 0
/-- Whether a FENCE holds an engine command or tile task, which a core issued under an identity: it may not start reading
(set E, R255). -/
def engineFenced (s : State) (c : Nat) (cores : List Nat) (id : Nat) : Bool :=
  (clusAccs s c).any fun b =>
    b.2.kind == .fence && b.2.sset.getLsbD 2 && b.2.id < id && cores.contains b.1
/-- Whether two accesses share a byte. -/
def overlaps (a b : Acc) : Bool := (accKeys a).any fun k => (accKeys b).contains k
/-- Whether an entry of a core's order is no load or store: a FENCE, a CACHE write-back (R221) or an `xlat.inv`. -/
def noAccess (a : Acc) : Bool := a.kind == .fence || a.kind == .cache || a.kind == .xlatInv || a.kind == .pin
/-- The earlier accesses that overlap an access and have not performed. -/
def clashes (s : State) (c i : Nat) (a : Acc) : List (Nat × Acc) :=
  if noAccess a then [] else (before s c i a).filter fun b => !(noAccess b.2) && !b.2.performed && overlaps a b.2
/-- The accesses of other cores that some cores of a cluster have acquired. -/
def owedTo (s : State) (c : Nat) (cores : List Nat) : List Nat := cores.flatMap fun i => (pcoreAt s c i).owed
/-- Whether an acquired access to a range of keys has still to perform: the acquirer's own access there waits (R258). -/
def owesRange (s : State) (c : Nat) (cores : List Nat) (key n : Nat) : Bool :=
  let ids := owedTo s c cores
  !ids.isEmpty && s.pcores.any fun p => p.accs.any fun b =>
    ids.contains b.id && !b.performed && (accKeys b).any fun k => key ≤ k && k < key + n
/-- The same for an access. -/
def owes (s : State) (c i : Nat) (a : Acc) : Bool :=
  let ids := owedTo s c (coresOf i a)
  !(noAccess a) && !ids.isEmpty && s.pcores.any fun p => p.accs.any fun b => ids.contains b.id && !b.performed && overlaps a b
/-- The completed FENCEs of an access's cores that make it a release (R257). -/
def fenceRecs (s : State) (c i : Nat) (a : Acc) : List FenceRec :=
  (coresOf i a).flatMap fun j => (pcoreAt s c j).fences.filter fun e => e.sset &&& a.sets != 0
/-- The earlier loads, stores, atomics and reductions of a core (R257). -/
def priorLSA (s : State) (c i : Nat) (a : Acc) : List Nat :=
  ((before s c i a).filter fun b => b.2.kind != .fence && b.2.sets &&& 0b10011#5 != 0).map fun b => b.2.id
/-- Whether those of an access that it releases are Done at cluster scope. -/
def coversDone (s : State) (c i : Nat) (a : Acc) : Bool :=
  (before s c i a).all fun b => !(a.covers.contains b.2.id) || doneAt b.2 2 c i i 1
/-- The greatest timestamp of the cores that a coherent access moves. -/
def ptsOf (s : State) (c i : Nat) (a : Acc) : Nat := (coresOf i a).foldl (fun m j => max m (pcoreAt s c j).pts) 0
/-- The lease that a coherent load hits: its core's copy of the line, while its read timestamp covers the core's and the core
holds no update copy there (R243, R251). -/
def leaseOf (s : State) (c i : Nat) (a : Acc) : Option Lease :=
  let p := pcoreAt s c i
  if a.kind == .load && coherent a && (a.pol == 0 || a.pol == 1) &&
      !(p.updates.any fun u => lineOf u.key == lineOf a.key) then
    p.leases.find? fun l => l.line == lineOf a.key && ptsOf s c i a ≤ l.rts
  else none
/-- Whether an access may perform, overlapping ones of its own core apart. A read that a lease answers does not reach the
home, and publishes nothing (R259). -/
def mayPerform (s : State) (c i : Nat) (a : Acc) : Bool :=
  !(fenced s c i a) && (!(coherent a) || (before s c i a).all fun b => !(coherent b.2) || b.2.performed) &&
    (!(accReads a) || (leaseOf s c i a).isSome || served s (.core c i) a.key a.size) && !(owes s c i a)

/-! ### Timestamps (R251) -/

/-- Move those timestamps. -/
def setPts (s : State) (c i : Nat) (a : Acc) (n : Nat) : State :=
  (coresOf i a).foldl (fun s j => putPcore s { pcoreAt s c j with pts := n }) s
/-- Move the timestamps of cores of a cluster up to one that they acquire (R258). -/
def raisePts (s : State) (c : Nat) (cores : List Nat) (ts : Nat) : State :=
  cores.foldl (init := s) fun s i =>
    let p := pcoreAt s c i
    if p.pts < ts then putPcore s { p with pts := ts } else s
/-- The greatest timestamp that the locations of a range carry. -/
def carriedIn (l : List Carry) (key n : Nat) : Nat :=
  (l.filter fun e => keysMeet key n e.key e.size).foldl (fun m e => max m e.ts) 0
/-- The same in the state. -/
def carriedTs (s : State) (key n : Nat) : Nat := carriedIn s.acq key n
/-- Let a location carry a timestamp. -/
def noteTs (s : State) (key n ts : Nat) : State :=
  if ts == 0 then s
  else
    let old := ((s.acq.find? fun e => e.key == key && e.size == n).map (·.ts)).getD 0
    setAcq s (putWhere (fun e => e.key == key && e.size == n) { key := key, size := n, ts := max ts old } s.acq)
/-- A write of a range: releases whose whole location it overwrites are read no more, and carry nothing (R257). -/
def overwrite (s : State) (key n : Nat) : State :=
  let gone (k m : Nat) : Bool := key ≤ k && k + m ≤ key + n
  setAcq (setDir s (s.dir.map fun e => if gone e.key e.size then { e with old := true } else e))
    (s.acq.filter fun e => !(gone e.key e.size))
/-- The host, an agent, another package or the part itself has written a coherent line, all of them one party whose
timestamps rise (log 105, DESIGN CHOICE): the line's timestamp is no less than theirs. -/
def outsideWrite (s : State) (line : Nat) : State :=
  let s := bumpStamp s line s.hts
  setHts s (stampOf s line).1
/-- That party has read a location, and acquires what it carries; a later write of a coherent line stands after the read
(R250, R251). -/
def outsideRead (s : State) (key n : Nat) : State :=
  let e := stampOf s (lineOf key)
  let w := if hbmBacked key || isAlias key then e.1 else 0
  let t := max s.hts (max w (carriedTs s key n))
  let s := if hbmBacked key && e.2 < t then setStamp s (lineOf key) e.1 t else s
  if s.hts < t then setHts s t else s

/-! ### Acquires (R258) -/

/-- Cores of a cluster acquire a release: the accesses that it covers are owed to them, and its timestamp is theirs. -/
def acquire (s : State) (c : Nat) (cores ids : List Nat) (ts : Nat) : State :=
  let ids := ids.filter (unfinished s)
  let s := raisePts s c cores ts
  if ids.isEmpty then s
  else cores.foldl (init := s) fun s i =>
    let p := pcoreAt s c i
    putPcore s { p with owed := (p.owed.filter (unfinished s)) ++ ids.filter fun k => !(p.owed.contains k) }
/-- The accesses that the releases of a range in a directory cover, as core i of cluster c reads it. -/
def relIds (l : List Rel) (c i key n : Nat) : List Nat :=
  (l.filter fun e => keysMeet key n e.key e.size && !e.old && !(e.c == c && e.i == i)).flatMap (·.pend)
/-- An acquire of a location that is complete with its read: LDF, and FE that finds a word full. -/
def acquireRead (s : State) (c i : Nat) (a : Acc) : State :=
  acquire s c (coresOf i a) (relIds s.dir c i a.key a.size) (carriedTs s a.key a.size)
/-- A load or atomic has read a location: what it read of releases is acquired by a later FENCE (R257). `l` and `acq` are
the directory and what the locations carry, at the home or when the line was leased. -/
def noteSeen (s : State) (c i : Nat) (a : Acc) (l : List Rel) (acq : List Carry) : State :=
  let ts := carriedIn acq a.key a.size
  (coresOf i a).foldl (init := s) fun s j =>
    let p := pcoreAt s c j
    let ids := (relIds l c j a.key a.size).filter (unfinished s)
    if ids.isEmpty && ts ≤ p.pts then s
    else putPcore s { p with seen := p.seen ++ [{ acc := a.id, sets := a.sets, pend := ids, ts := ts }] }

/-! ### Releases (R257, R259) -/

/-- The unit at which an access is a release, if it is one: that of the narrowest FENCE before it, or the cluster for an STE
`fill` and an FE that sets a bit (R257) (log 110, DEDUCED). -/
def releaseUnit (s : State) (c i : Nat) (a : Acc) : Option (Nat × Nat × Nat) :=
  if (a.kind == .ste && a.fn == 0) || (a.kind == .fe && (a.fn == 1 || a.fn == 3)) then some (2, i, 1)
  else (fenceRecs s c i a).foldl (fun m e => match m with
    | some u => if e.scope < u.1 then some (e.scope, e.lead, e.width) else m
    | none => some (e.scope, e.lead, e.width)) none
/-- An access has performed as a release: its location carries its timestamp, and what it covers and is not Done at system
scope is recorded in the directory, with the unit of the release. -/
def recordRelease (s : State) (c i : Nat) (a : Acc) (key : Nat) (u : Nat × Nat × Nat) : State :=
  let s := noteTs s key a.size a.ts
  let pend := a.covers.filter (unfinished s)
  if pend.isEmpty then s
  else
    let e : Rel := { c := c, i := i, scope := u.1, lead := u.2.1, width := u.2.2, key := key, size := a.size, pend := pend }
    setDir s (s.dir ++ [e])
/-- A write has performed at a location: releases there are overwritten, and where it is a release itself, it is recorded.
`rel` is its unit as a release. -/
def afterWrite (s : State) (c i : Nat) (a : Acc) (key : Nat) (rel : Option (Nat × Nat × Nat)) : State :=
  if a.lanes then s
  else
    let s := overwrite s key a.size
    match rel with
    | none => s
    | some u => recordRelease s c i a key u
/-- A write of an access has given a coherent line a timestamp: every release that covers the access carries it, whoever has
acquired it takes it, and so do the records of its firing and its launch's completion (R251, R258, R266, R274). -/
def noteWrite (s : State) (a : Acc) (ts : Nat) : State :=
  let up (n : Nat) : Nat := max n ts
  let cov (l : List Nat) : Bool := l.contains a.id
  let locs := (s.dir.filter fun e => cov e.pend && !e.old).map fun e => (e.key, e.size)
  let s := locs.foldl (fun s e => noteTs s e.1 e.2 ts) s
  let acc (b : Acc) : Acc := if cov b.covers then { b with ts := up b.ts } else b
  let s := setInsts s (s.insts.map fun x => if cov x.pend then { x with ts := up x.ts } else x)
  let s := setPcores s (s.pcores.map fun p =>
    { p with pts := if cov p.owed then up p.pts else p.pts
             accs := p.accs.map acc
             fences := p.fences.map fun e => if cov e.pend then { e with ts := up e.ts } else e
             seen := p.seen.map fun e => if cov e.pend then { e with ts := up e.ts } else e })
  let msg (m : Msg) : Msg := if cov m.covers then { m with ts := up m.ts } else m
  let s := setInbox (setTransit s (s.transit.map msg)) (s.inbox.map fun e => (e.1, msg e.2))
  let chan (x : Chan) : Chan :=
    let js := (x.rel.filter fun e => cov e.2).map (·.1)
    if js.isEmpty then x
    else { x with relTs := (x.relTs.filter fun e => !(js.contains e.1)) ++ js.map fun j =>
                    (j, up (((x.relTs.find? fun e => e.1 == j).map (·.2)).getD 0)) }
  let s := setChans s (s.chans.map chan)
  let bar (b : Bar) : Bar := { b with rels := b.rels.map fun r => if cov r.pend then { r with ts := up r.ts } else r }
  let s := setBars s (s.bars.map fun g => { g with bars := g.bars.map bar })
  let s := setRecords s (s.records.map fun r => if r.firing == a.firing then { r with ts := up r.ts } else r)
  setLaunches s (updWhere (fun l => l.id == a.launch) (fun l => { l with wts := up l.wts }) s.launches)
/-- What a firing's commit covers and is not yet Done at system scope: its own loads, stores, atomics and reductions, and
what its cores have acquired or popped (R257, R258). -/
def commitCovers (s : State) (c : Nat) (cores : List Nat) (firing : Nat) (popped : List Nat) : List Nat :=
  let own := (clusAccs s c).filter fun e => e.2.firing == firing && !(noAccess e.2) && !(sysDone e.2)
  (own.map fun e => e.2.id) ++ ((owedTo s c cores) ++ popped).filter (unfinished s)

/-! ### Completed FENCEs, flush markers, and what is freed (R255, R259, R264) -/

/-- What a FENCE acquires as it completes: of the loads and atomics in its pred, and of the messages popped before it
(R257, R265). -/
def fenceGains (p : PCore) (e : Acc) : List Nat × Nat :=
  let l := p.seen.filter fun x => x.acc < e.id && x.sets &&& e.pset != 0
  let ms := if e.pset.getLsbD 3 then e.senders else []
  (l.flatMap (·.pend) ++ ms.flatMap (·.1), (l.foldl (fun m x => max m x.ts) 0) |> fun n => ms.foldl (fun m x => max m x.2) n)
/-- Add a completed FENCE to those of its core; one of the same sets and unit stands for both. -/
def addFence (l : List FenceRec) (e : FenceRec) : List FenceRec :=
  let same (x : FenceRec) : Bool := x.sset == e.sset && x.scope == e.scope && x.lead == e.lead && x.width == e.width
  match l.find? same with
  | none => l ++ [e]
  | some x => putWhere same { e with pend := x.pend ++ e.pend.filter (fun k => !(x.pend.contains k)), ts := max x.ts e.ts } l
/-- A FENCE of a core completes and leaves the order: what it acquires is its core's, and the accesses that it held, the gang's
among them, become releases of what it covers. -/
def completeFence (s : State) (c i : Nat) (e : Acc) : State :=
  let g := fenceGains (pcoreAt s c i) e
  let s := acquire s c [i] g.1 g.2
  let p := pcoreAt s c i
  let own := (before s c i e).filter fun b => !(noAccess b.2) && b.2.sets &&& e.pset != 0 && !(sysDone b.2)
  let pend := own.map (fun b => b.2.id) ++ p.owed
  let ts := maxPts s c [i]
  let done : FenceRec :=
    { sset := e.sset, scope := e.scope, lead := e.home % 8, width := e.width, pend := pend, ts := ts }
  let s := putPcore s { p with accs := p.accs.filter fun a => a.id != e.id
                               fences := addFence p.fences done
                               seen := p.seen.filter fun x => !(x.acc < e.id && x.sets &&& e.pset != 0) }
  let upd (j : Nat) (a : Acc) : Acc :=
    if e.id < a.id && e.sset &&& a.sets != 0 && (coresOf j a).contains i then
      { a with covers := a.covers ++ pend, ts := max a.ts ts }
    else a
  setPcores s (updWhere (fun q => q.c == c) (fun q => { q with accs := q.accs.map (upd q.i) }) s.pcores)
/-- Complete every FENCE that may complete, oldest first in each core. -/
def completeFences (s : State) : State :=
  let fs := s.pcores.flatMap fun p => (p.accs.filter fun a => a.kind == .fence).map fun a => (p.c, p.i, a)
  fs.foldl (fun s e => if fenceDone s e.1 e.2.1 e.2.2 then completeFence s e.1 e.2.1 e.2.2 else s) s
/-- Whether the accesses that a flush marker covers, of those still in the orders of its cluster, are all sent. -/
def markerReady (s : State) (m : Marker) : Bool :=
  (clusAccs s m.c).all fun e => !(m.accs.contains e.2.id) || e.2.sent
/-- Put a packet on a path (R263). -/
def pushPath (s : State) (pkg path : Nat) (k : Packet) : State :=
  let q := ((s.paths.find? fun p => p.pkg == pkg && p.path == path).map (·.queue)).getD []
  setPaths s (putWhere (fun p => p.pkg == pkg && p.path == path) { pkg := pkg, path := path, queue := q ++ [k] } s.paths)
/-- Whether a packet is a write of an engine command or tile task. What it writes is another package's, so nothing here tells
when it arrives, and nothing waits behind it. -/
def isWrite (k : Packet) : Bool := match k with
  | .write _ _ => true
  | _ => false
/-- Whether every link of a path to a package is trained (R416); what goes to the part's own package crosses none. -/
def pathUp (s : State) (pkg path : Nat) : Bool :=
  pkg == s.cfg.pkgid.toNat ||
    (((s.cfg.routes.find? fun e => e.1 == (pkg, path)).map (·.2)).getD (1 <<< (path % 18))) &&& ~~~s.cfg.links == 0
/-- The lowest path to a package that survives. -/
def firstUp (s : State) (pkg : Nat) : Option Nat := (List.range 64).find? (pathUp s pkg)
/-- What is oldest on a path. -/
def pathHead (s : State) (pkg path : Nat) : Option Packet :=
  (s.paths.find? fun p => p.pkg == pkg && p.path == path).bind fun p => (p.queue.dropWhile isWrite).head?
/-- Take a packet off its path; where it is the oldest, the writes before it go too. -/
def popPath (s : State) (k : Packet) : State :=
  let pop (q : List Packet) : List Packet :=
    if (q.dropWhile isWrite).head? == some k then (q.dropWhile isWrite).drop 1 else q.erase k
  setPaths s ((s.paths.map fun p => { p with queue := pop p.queue }).filter fun p => !p.queue.isEmpty)
/-- The paths with a marker taken off its own path. -/
def takeMarker (m : Marker) (l : List FPath) : List FPath :=
  (l.map fun p => if p.pkg == m.pkg && p.path == m.path then { p with queue := p.queue.erase (.marker m.group) } else p).filter
    fun p => !p.queue.isEmpty
/-- Whether some surviving path to a package carries nothing. -/
def freePath (s : State) (pkg : Nat) : Bool :=
  (List.range 64).any fun j => pathUp s pkg j && !(s.paths.any fun p => p.pkg == pkg && p.path == j)
/-- Take the answers of a group of markers: what they cover is gathered, and Done. -/
def gatherMarker (s : State) (m : Marker) : State :=
  if m.cmd != 0 then
    let upd (k : Cmd) : Cmd := { k with away := k.away.filter (· != m.pkg) }
    setEng s { s.eng with cmds := updWhere (fun k => k.id == m.cmd) upd s.eng.cmds }
  else
  let take (p : PCore) : PCore :=
    let accs := updWhere (fun a => m.accs.contains a.id) (fun a => { a with gathered := true }) p.accs
    { p with accs := accs.filter fun a => !(m.accs.contains a.id && a.performed && a.cause == 0) }
  setPcores s (updWhere (fun p => p.c == m.c) take s.pcores)
/-- Send a marker down every path that its core has used to its package since its last one (R264); with none, it is
gathered. -/
def launchMarker (s : State) (m : Marker) : State :=
  let p := pcoreAt s m.c m.i
  let ps := (p.used.filter fun e => e.1 == m.pkg).map (·.2)
  let s := setMarkers s (s.markers.filter fun k => k.group != m.group)
  let s := putPcore s { p with used := p.used.filter fun e => e.1 != m.pkg }
  let s := setMarkers s (s.markers ++ ps.map fun j => { m with path := j, sent := true })
  let s := ps.foldl (fun s j => pushPath s m.pkg j (.marker m.group)) s
  if ps.isEmpty then gatherMarker s m else s
/-- Complete the FENCEs that may, send the flush markers that may go, and drop what is finished: directory entries with
nothing pending, and the identities of accesses that are Done. -/
def sweep (s : State) : State :=
  let s := completeFences s
  let s := (s.markers.filter fun m => !m.sent && m.cmd == 0 && markerReady s m).foldl launchMarker s
  let ps := s.pcores.map fun p =>
    { p with owed := p.owed.filter (unfinished s)
             fences := p.fences.map fun e => { e with pend := e.pend.filter (unfinished s) } }
  setDir (setPcores s ps) (s.dir.filter fun e => e.pend.any (unfinished s))

end Sys2Proof.Machine
end

