-- ==== Sys2Proof/Machine/Flags.lean ====
section
/-! DEFINITION. Results of the scalar operations at 64 and 32 bits, with the flags that they raise (R48, R119 to R128). -/

namespace Sys2Proof.Machine

/-- An operation at the width that q selects; a 32-bit result is sign-extended (R119). -/
def atWidth (q : BitVec 3) (f : (n : Nat) → BitVec n → BitVec n → BitVec n × FlagBits) (a b : Word) :
    Word × FlagBits :=
  if q == 1 then
    let r := f 32 (a.setWidth 32) (b.setWidth 32)
    (r.1.signExtend 64, r.2)
  else f 64 a b

/-- The same of an operation without flags. -/
def plainWidth (q : BitVec 3) (f : (n : Nat) → BitVec n → BitVec n → BitVec n) (a b : Word) : Word × FlagBits :=
  atWidth q (fun n a b => (f n a b, 0)) a b

/-- A comparison at the width that q selects (R128). -/
def condWidth (q : BitVec 3) (f : (n : Nat) → BitVec n → BitVec n → Bool) (a b : Word) : Bool :=
  if q == 1 then f 32 (a.setWidth 32) (b.setWidth 32) else f 64 a b

/-- A shift amount: the low log2(n) bits of B (R120). -/
def shAmt (n : Nat) (b : BitVec n) : Nat := b.toNat % n

/-- A << s. -/
def opShl (n : Nat) (a b : BitVec n) : BitVec n := a <<< shAmt n b
/-- A >> s, logical. -/
def opShr (n : Nat) (a b : BitVec n) : BitVec n := a >>> shAmt n b
/-- A >> s, arithmetic. -/
def opSra (n : Nat) (a b : BitVec n) : BitVec n := a.sshiftRight (shAmt n b)

/-- High half of the signed product (R124). -/
def opMulh (n : Nat) (a b : BitVec n) : BitVec n := BitVec.ofInt n (a.toInt * b.toInt / 2 ^ n)
/-- High half of the unsigned product. -/
def opMulhu (n : Nat) (a b : BitVec n) : BitVec n := BitVec.ofNat n (a.toNat * b.toNat / 2 ^ n)
/-- Signed quotient toward zero; by zero it is −1 with DZ (R124). -/
def opDiv (n : Nat) (a b : BitVec n) : BitVec n × FlagBits :=
  if b == 0 then (BitVec.allOnes n, fDZ) else (BitVec.ofInt n (a.toInt.tdiv b.toInt), 0)
/-- Unsigned quotient; by zero it is 2^n − 1 with DZ. -/
def opDivu (n : Nat) (a b : BitVec n) : BitVec n × FlagBits :=
  if b == 0 then (BitVec.allOnes n, fDZ) else (BitVec.ofNat n (a.toNat / b.toNat), 0)
/-- Signed remainder with the sign of A; by zero it is A with DZ. -/
def opRem (n : Nat) (a b : BitVec n) : BitVec n × FlagBits :=
  if b == 0 then (a, fDZ) else (BitVec.ofInt n (a.toInt.tmod b.toInt), 0)
/-- Unsigned remainder; by zero it is A with DZ. -/
def opRemu (n : Nat) (a b : BitVec n) : BitVec n × FlagBits :=
  if b == 0 then (a, fDZ) else (BitVec.ofNat n (a.toNat % b.toNat), 0)

/-- Leading zeros (R125). -/
def opClz (n : Nat) (a : BitVec n) : Nat := if a.toNat == 0 then n else n - 1 - Nat.log2 a.toNat
/-- Trailing zeros. -/
def opCtz (n : Nat) (a : BitVec n) : Nat := ((List.range n).find? fun j => a.getLsbD j).getD n
/-- One bits. -/
def opPopc (n : Nat) (a : BitVec n) : Nat := (List.range n).countP fun j => a.getLsbD j
/-- The bytes in reverse order. -/
def opBswap (n : Nat) (a : BitVec n) : BitVec n := BitVec.ofNat n (ofBytes (toBytes (n / 8) a.toNat).reverse)
/-- The field of A that B names: its bits, and its width (R125). -/
def bitField (a b : Word) : Nat × Nat :=
  let pos := fieldOf b.toNat 0 6
  let len := min (fieldOf b.toNat 8 7) 64
  let w := min (pos + len) 64 - pos
  (fieldOf a.toNat pos w, w)

/-- An exact result clamped to the signed n-bit range, with SAT when it clamps (R126). -/
def clampSigned (n : Nat) (i : Int) : BitVec n × FlagBits :=
  let hi : Int := 2 ^ (n - 1) - 1
  let c := max (-(hi + 1)) (min hi i)
  (BitVec.ofInt n c, flagIf (c != i) fSAT)

/-- |A|, clamped (R126). -/
def opAbs (n : Nat) (a : BitVec n) : BitVec n × FlagBits := clampSigned n a.toInt.natAbs

end Sys2Proof.Machine
end

