-- ==== Sys2Proof/Machine/Control.lean ====
section
/-! DEFINITION. GMOV, ID, control transfer, END, REGION, GANG, WAIT, TRAP and SYS (R114 to R138, R200, R284, R285). -/

namespace Sys2Proof.Machine

/-! ### Identity and system registers (R62, R118, R276) -/

/-- The level index i_j of a firing (R22); 0 for a declared level below the one at which its actor is bound, where it has no
instance number (log 113, DESIGN CHOICE). -/
def levelIndex (s : State) (f : Firing) (j : Nat) : Nat := ((instOf s f.inst).bind fun x => x.path[j]?).getD 0
/-- The count applied at a level (R118). -/
def levelCount (s : State) (f : Firing) (j : Nat) : Nat := ((launchOf s f.launch).bind fun l => l.counts[j]?).getD 0

/-- The value of a system register as a core reads it (R118, R276). -/
def sysRead (s : State) (f : Firing) (c : Core) (n : Nat) : Word :=
  let t := tenantOf s f.tenant
  let nat (v : Nat) : Word := BitVec.ofNat 64 v
  if n < 0x008 then nat (levelIndex s f n)
  else if n < 0x010 then nat (levelCount s f (n - 8))
  else
    match n with
    | 0x010 => nat c.idx
    | 0x011 => nat (c.idx - f.lead)
    | 0x012 => nat f.cores.length
    | 0x013 => nat f.clus
    | 0x014 => nat s.cfg.pkgid.toNat
    | 0x015 => nat f.tenant
    | 0x040 => nat c.nflags.toNat
    | 0x050 => nat (ocld s f c)
    | 0x051 => nat (ocst s f c)
    | 0x052 => nat (occp s f c)
    | 0x053 => nat (octk s f c)
    | 0x060 => nat f.wdcount
    | 0x061 => nat f.wdlimit
    | 0x062 => if f.split then 1 else 0
    | 0x063 => nat f.actor
    | 0x064 => c.rgentry
    | 0x065 => c.rgmask
    | 0x080 => if t.preempt.contains f.clus then 1 else 0
    | 0x081 => nat f.attempt
    | 0x100 => t.trbase
    | 0x101 => nat (t.trlog.toNat % 32)
    | 0x102 => t.trhead
    | 0x103 => t.trtail
    | 0x105 => nat t.trlost.toNat
    | 0x106 => nat (s.insts.countP fun x => x.tenant == f.tenant && match x.st with
        | .held _ => true
        | _ => false)
    | _ => 0

/-! ### GMOV (R131) -/

/-- GMOV: the active cores, ascending, and the gang's uniform file decide a new gang. -/
def gmov (w : Site) (o : OpA) (g : Firing → List Core → List Core → UFile → Res Firing) (s : State) : Out :=
  withFiring w s fun s f units =>
    let act := units.filter fun c => (getPr c o.pr.toNat).getLsbD 0
    match g f units act (uniformOf f units) with
    | .ok f' => .next (putFiring s (advance f' units 4))
    | .trap t => trapAt s f t w
    | .stall => .next s

/-- g_d := x_a of the lowest active core; unchanged if none is active. -/
def execGmovGet (o : OpA) (s : State) : Out :=
  gmov (siteOf (.gmovGet o)) o (fun f units act u =>
    match act with
    | [] => .ok f
    | c :: _ => .ok (putUniform f units (setG u o.d.toNat (getX c o.a.toNat)))) s
/-- As `get`; two active cores with different x_a trap AGREE. The record names the lowest active core (R131, R273) (log 131, DESIGN
CHOICE). -/
def execGmovAgree (o : OpA) (s : State) : Out :=
  gmov (siteOf (.gmovAgree o)) o (fun f units act u =>
    match act with
    | [] => .ok f
    | c :: cs =>
      if cs.all fun k => getX k o.a.toNat == getX c o.a.toNat then
        .ok (putUniform f units (setG u o.d.toNat (getX c o.a.toNat)))
      else .trap { core := c.idx, cause := 0x10 }) s
/-- On each active core, x_d := g_a. -/
def execGmovPut (o : OpA) (s : State) : Out :=
  gmov (siteOf (.gmovPut o)) o (fun f _ act u =>
    .ok (putCores f (act.map fun c => setX c o.d.toNat (getG u o.a.toNat)))) s
/-- gp_d := some active core has bit 0 of p_a. -/
def execGmovAny (o : OpA) (s : State) : Out :=
  gmov (siteOf (.gmovAny o)) o (fun f units act u =>
    .ok (putUniform f units (setGp u o.d.toNat (act.any fun c => (getPr c o.a.toNat).getLsbD 0)))) s
/-- gp_d := every active core has bit 0 of p_a. -/
def execGmovAll (o : OpA) (s : State) : Out :=
  gmov (siteOf (.gmovAll o)) o (fun f units act u =>
    .ok (putUniform f units (setGp u o.d.toNat (act.all fun c => (getPr c o.a.toNat).getLsbD 0)))) s
/-- g_d := how many active cores have bit 0 of p_a. -/
def execGmovCount (o : OpA) (s : State) : Out :=
  gmov (siteOf (.gmovCount o)) o (fun f units act u =>
    .ok (putUniform f units (setG u o.d.toNat
      (BitVec.ofNat 64 (act.countP fun c => (getPr c o.a.toNat).getLsbD 0))))) s

/-! ### ID (R132) -/

/-- d := an identity value. -/
def idValue (w : Site) (o : OpA) (n : Nat) (s : State) : Out :=
  fileInstr w (k1 o) o.pr (fun s f r => .ok (setS r o.d.toNat (sysRead s f r.core n))) s

/-- The level index of level q. -/
def execIdLvl (o : OpA) (s : State) : Out := idValue (siteOf (.idLvl o)) o o.q.toNat s
/-- `coreid`. -/
def execIdCore (o : OpA) (s : State) : Out := idValue (siteOf (.idCore o)) o 0x010 s
/-- `gpos`. -/
def execIdGpos (o : OpA) (s : State) : Out := idValue (siteOf (.idGpos o)) o 0x011 s
/-- `gwid`. -/
def execIdGwid (o : OpA) (s : State) : Out := idValue (siteOf (.idGwid o)) o 0x012 s
/-- `clusid`. -/
def execIdClus (o : OpA) (s : State) : Out := idValue (siteOf (.idClus o)) o 0x013 s
/-- The count of level q. -/
def execIdCnt (o : OpA) (s : State) : Out := idValue (siteOf (.idCnt o)) o (8 + o.q.toNat) s
/-- `pkgid`. -/
def execIdPkg (o : OpA) (s : State) : Out := idValue (siteOf (.idPkg o)) o 0x014 s

/-! ### Control transfer (R113, R133 to R135) -/

/-- The target of a format-B word (R69). -/
def targetB (pc : Word) (o : OpB) : Word := pc + (o.disp.signExtend 64 <<< 2)
/-- The program counter of the acting cores: they agree while fused. -/
def pcOf (units : List Core) : Word := (units.head?.map (·.pc)).getD 0
/-- The lowest acting core's index. -/
def lowest (units : List Core) : Nat := (units.head?.map (·.idx)).getD 0
/-- The value on which all agree, or none. -/
def agreed {α : Type} [DecidableEq α] : List α → Option α
  | [] => none
  | a :: as => if as.all fun b => b == a then some a else none

/-- BR: taken where the predicate, negated with n, says so; cores that disagree trap DIVERGE. -/
def execBr (o : OpB) (s : State) : Out :=
  withFiring (siteOf (.br o)) s fun s f units =>
    let p := o.lo.toNat % 8
    let n := o.lo.getLsbD 3
    let votes := if o.lo.getLsbD 4 then [getGp (uniformOf f units) p != n]
      else units.map fun c => (getPr c p).getLsbD 0 != n
    match agreed votes with
    | none => trapAt s f { core := lowest units, cause := 0x0E } (siteOf (.br o))
    | some true => .next (putFiring s (jumpTo f units (targetB (pcOf units) o)))
    | some false => .next (putFiring s (advance f units 4))

/-- JAL: x_d := PC + 4 on every acting core, PC := target. -/
def execJal (o : OpB) (s : State) : Out :=
  withFiring (siteOf (.jal o)) s fun s f units =>
    let f' := putCores f (units.map fun c => setX c o.lo.toNat (c.pc + 4))
    .next (putFiring s (jumpTo f' units (targetB (pcOf units) o)))

/-- JR: the target is read before the link is written; cores that disagree trap DIVERGE. -/
def execJr (o : OpA) (s : State) : Out :=
  withFiring (siteOf (.jr o)) s fun s f units =>
    let pc := pcOf units
    if k1 o then
      let r := fileOf f units true (units.head?.getD {})
      if takes r o.pr then
        let t := getS r o.a.toNat
        .next (putFiring s (jumpTo (putUniform f units (setS r o.d.toNat (pc + 4)).u) units t))
      else .next (putFiring s (advance f units 4))
    else
      let votes := units.map fun c =>
        if (getPr c o.pr.toNat).getLsbD 0 then some (getX c o.a.toNat) else none
      match agreed votes with
      | none => trapAt s f { core := lowest units, cause := 0x0E } (siteOf (.jr o))
      | some none => .next (putFiring s (advance f units 4))
      | some (some t) =>
        .next (putFiring s (jumpTo (putCores f (units.map fun c => setX c o.d.toNat (pc + 4))) units t))

/-! ### END (R27, R136) -/

/-- END: where the predicate selects it, and every core agrees on that, the firing ends; while split it traps GANG. -/
def endFiring (w : Site) (o : OpA) (fin : State → Firing → State) (s : State) : Out :=
  withFiring w s fun s f units =>
    let votes := if k1 o then [getGp (uniformOf f units) o.pr.toNat]
      else units.map fun c => (getPr c o.pr.toNat).getLsbD 0
    match agreed votes with
    | none => trapAt s f { core := lowest units, cause := 0x0E } w
    | some false => .next (putFiring s (advance f units 4))
    | some true => if f.split then trapAt s f { core := lowest units, cause := 0x0F } w else .next (fin s f)

/-- `end.commit`: the cores stay bound until the commit takes effect (R165, R173). -/
def execEndCommit (o : OpA) (s : State) : Out :=
  endFiring (siteOf (.endCommit o)) o (fun s f => putFiring s { f with ending := true }) s
/-- `end.retry`: nothing of the firing's transaction stands, and the instance fires again. -/
def execEndRetry (o : OpA) (s : State) : Out :=
  endFiring (siteOf (.endRetry o)) o (fun s f => retryInst (abortFiring s f (endAccs f.id)) f.inst f.clus) s
/-- The record of an `end.fail` (R273) (log 22, DEDUCED). -/
def failRecord (s : State) (f : Firing) : Record :=
  { die := dieOf f.clus, tenant := f.tenant, rtype := 2, core := f.lead, clus := f.clus, actid := f.actor,
    wdc := f.wdcount, flags := ((f.cores.find? fun c => c.idx == f.lead).getD {}).nflags, firing := f.id
    ts := firingTs s f }
/-- `end.fail`: the instance never fires again, the launch is FAILED, and a FAIL record is written. -/
def execEndFail (o : OpA) (s : State) : Out :=
  endFiring (siteOf (.endFail o)) o (fun s f =>
    let s := abortFiring (ackNotices s f) f (endAccs f.id)
    settle (queueRecord (failInst s f.inst f.launch) (failRecord s f)) f.clus) s

/-! ### REGION (R137, R279) -/

/-- What a core captures at `region.open`. -/
def capture (c : Core) (u : UFile) (entry mask : Word) : Capture :=
  { entry := entry, mask := mask, x := c.x, v := c.v, p := c.p, g := u.g, gp := u.gp }

/-- `region.open`: rgentry := PC + 4, rgmask := x_a; the selected registers are captured, so it waits for loads. -/
def execRegionOpen (o : OpA) (s : State) : Out :=
  withFiring (siteOf (.regionOpen o)) s fun s f units =>
    if anyPending s f units then .next s
    else
      let act := units.filter fun c => (getPr c o.pr.toNat).getLsbD 0
      let go (c : Core) : Core :=
        { c with rgentry := c.pc + 4, rgmask := getX c o.a.toNat,
                 capture := some (capture c (uniformOf f units) (c.pc + 4) (getX c o.a.toNat), c.nflags) }
      let f' := putCores f (act.map go)
      let f' := if act.isEmpty then f' else { f' with mark := (f.staged.length, f.popped) }
      .next (putFiring s (advance f' units 4))

/-- `region.close`: no region is open. -/
def execRegionClose (o : OpA) (s : State) : Out :=
  fileInstr (siteOf (.regionClose o)) false o.pr (fun _ _ r =>
    .ok { r with core := { r.core with rgentry := 0, rgmask := 0, capture := none } }) s

/-! ### GANG (R114 to R116, R138) -/

/-- `gang.split`: each core goes on alone with a copy of the uniform file, once no load of the gang is outstanding (log 130,
DESIGN CHOICE). -/
def execGangSplit (o : OpB) (s : State) : Out :=
  withFiring (siteOf (.gangSplit o)) s fun s f units =>
    if f.split then trapAt s f { core := lowest units, cause := 0x0F } (siteOf (.gangSplit o))
    else if anyPending s f units then .next s
    else
      let f' := advance f units 4
      .next (putFiring s { f' with split := true, cores := f'.cores.map fun c => { c with u := f.u } })

/-- The targets at which the cores of a split gang wait, if all wait. -/
def fuseTargets (f : Firing) : Option (List Word) :=
  f.cores.mapM fun c => match c.busy with
    | .fuse t _ => some t
    | _ => none

/-- The word of the `gang.fuse` at which a gang's leader waits. -/
def fuseWord (f : Firing) : W32 :=
  match (f.cores.find? fun c => c.idx == f.lead).map (·.busy) with
  | some (Busy.fuse _ w0) => w0
  | _ => 0
/-- `gang.fuse`: the core waits until every core of the gang has come to one, with no load outstanding (log 130, DESIGN CHOICE);
then the gang is fused on the leader's uniform file, or traps GANG where the targets differ. -/
def execGangFuse (o : OpB) (s : State) : Out :=
  withFiring (siteOf (.gangFuse o)) s fun s f units =>
    if !f.split then trapAt s f { core := lowest units, cause := 0x0F } (siteOf (.gangFuse o))
    else if anyPending s f units then .next s
    else
      let w0 := (siteOf (.gangFuse o)).words.head?.getD 0
      let f' := putCores f (units.map fun c => { c with busy := .fuse (targetB c.pc o) w0 })
      match fuseTargets f' with
      | none => .next (putFiring s f')
      | some ts =>
        match agreed ts with
        | none => .next (trapFiring (putFiring s f') f' { core := f.lead, cause := 0x0F } (fuseWord f') 0)
        | some t =>
          let u := ((f'.cores.find? fun c => c.idx == f.lead).getD {}).u
          .next (putFiring s { f' with
            split := false, u := u, cores := f'.cores.map fun c => { c with busy := .none, pc := t, u := {} } })

/-- `gang.align`: a hint without architectural effect. -/
def execGangAlign (o : OpB) (s : State) : Out :=
  withFiring (siteOf (.gangAlign o)) s fun s f units => .next (putFiring s (advance f units 4))

/-! ### WAIT (R200) -/

/-- Whether the counters that q selects are at most a threshold on a core. -/
def waitTest (s : State) (f : Firing) (c : Core) (q n : Nat) : Bool :=
  match q with
  | 0 => ocld s f c ≤ n && ocst s f c ≤ n && occp s f c ≤ n && octk s f c ≤ n
  | 1 => ocld s f c ≤ n
  | 2 => ocst s f c ≤ n
  | 3 => occp s f c ≤ n
  | _ => octk s f c ≤ n

/-- `wait.le`: stalls until the counters are at most b. -/
def execWaitLe (o : OpA) (s : State) : Out :=
  fileInstr (siteOf (.waitLe o)) false o.pr (fun s f r =>
    if waitTest s f r.core o.q.toNat o.b.toNat then .ok r else .stall) s
/-- `wait.lex`: stalls until the counters are at most x_b. -/
def execWaitLex (o : OpA) (s : State) : Out :=
  fileInstr (siteOf (.waitLex o)) false o.pr (fun s f r =>
    if waitTest s f r.core o.q.toNat (getS r o.b.toNat).toNat then .ok r else .stall) s

/-! ### TRAP and SYS (R284, R285) -/

/-- TRAP: ends the firing with cause USER; the record carries x_a and the code. -/
def execTrap (o : OpI) (s : State) : Out :=
  fileInstr (siteOf (.trap o)) false o.pr (fun _ _ r =>
    .trap { core := r.core.idx, cause := 0x17, val := getS r o.a.toNat, info := o.imm.setWidth 64 }) s

/-- `sys.r`: x_d := the register; the supervisor block traps PRIV from an ordinary firing, whatever the predicate (R74). -/
def execSysR (o : OpI) (s : State) : Out :=
  withFiring (siteOf (.sysR o)) s fun s f units =>
    if 0x100 ≤ o.imm.toNat && !(isHandler s f) then
      trapAt s f { core := lowest units, cause := 0x03 } (siteOf (.sysR o))
    else fileInstr (siteOf (.sysR o)) false o.pr
      (fun s f r => .ok (setS r o.d.toNat (sysRead s f r.core o.imm.toNat))) s

/-- Write `trtail`: a value below it or above `trhead` is ignored (R276). -/
def writeTrtail (s : State) (v : Nat) (w : Word) : State :=
  let t := tenantOf s v
  if t.trtail.toNat ≤ w.toNat && w.toNat ≤ t.trhead.toNat then putTenant s v { t with trtail := w } else s

/-- `sys.w`: `nflags` and `trtail` take x_a; a write of `tresolve` holds the core until it takes effect (R275). -/
def execSysW (o : OpI) (s : State) : Out :=
  withFiring (siteOf (.sysW o)) s fun s f units =>
    let act := units.filter fun c => (getPr c o.pr.toNat).getLsbD 0
    if 0x100 ≤ o.imm.toNat && !(isHandler s f) then
      trapAt s f { core := lowest units, cause := 0x03 } (siteOf (.sysW o))
    else
      match o.imm.toNat with
      | 0x040 =>
        let f' := putCores f (act.map fun c => { c with nflags := (getX c o.a.toNat).setWidth 7 })
        .next (putFiring s (advance f' units 4))
      | 0x103 =>
        let s := act.foldl (fun s c => writeTrtail s f.tenant (getX c o.a.toNat)) s
        .next (putFiring s (advance f units 4))
      | _ =>
        if act.isEmpty then .next (putFiring s (advance f units 4))
        else .next (putFiring s (putCores f (act.map fun c => { c with busy := .resolve (getX c o.a.toNat) })))

end Sys2Proof.Machine
end

