-- ==== Sys2Proof/Machine/Special.lean ====
section
/-! DEFINITION. The special functions (R56, R57). An algebraic function is computed exactly, with a sticky bit below its
whole part. A transcendental one is computed to a relative error of about 2^−500, and rounded: that is the correctly rounded
code wherever the exact value is further than that from a rounding boundary (log 6, DEDUCED). -/

namespace Sys2Proof.Machine

/-- The special functions of R56. -/
inductive Sfu where
  | exp2
  | log2
  | rcp
  | rsqrt
  | sqrt
  | sin
  | cos
  | tanh
  | sigm
  | gelut
  | gelue
  | silu
  | erf
  | softp
deriving DecidableEq, Repr

/-- Fractional bits of the fixed-point numbers below. -/
def fracBits : Nat := 700

/-- 1 in fixed point. -/
def fxOne : Int := 2 ^ fracBits

/-- Fixed-point product, toward −∞. -/
def fxMul (a b : Int) : Int := a * b / fxOne

/-- Fixed-point quotient, toward −∞. -/
def fxDiv (a b : Int) : Int := a * fxOne / b

/-- A sum of terms, each made from the one before and the term's number, for a fixed count of terms. -/
def series (next : Nat → Int → Int) (value : Nat → Int → Int) : Nat → Nat → Int → Int → Int
  | 0, _, _, acc => acc
  | n + 1, j, t, acc => series next value n (j + 1) (next (j + 1) t) (acc + value j t)

/-- e^y for 0 ≤ y < 1, by its power series. -/
def fxExpSmall (y : Int) : Int := series (fun j t => fxMul t y / j) (fun _ t => t) 160 0 fxOne 0

/-- 2 · artanh(z) for |z| ≤ 1/3. -/
def fxLn1 (z : Int) : Int :=
  let z2 := fxMul z z
  2 * series (fun _ t => fxMul t z2) (fun j t => t / (2 * j + 1)) 240 0 z 0

/-- ln 2. -/
def fxLn2 : Int := fxLn1 (fxOne / 3)

/-- arctan(1 / k). -/
def fxAtanInv (k : Int) : Int :=
  series (fun _ t => -(t / (k * k))) (fun j t => t / (2 * j + 1)) 170 0 (fxOne / k) 0

/-- π, by Machin's formula. -/
def fxPi : Int := 4 * (4 * fxAtanInv 5 - fxAtanInv 239)

/-- Integer square root by Newton's iteration, for a fixed count of steps from above. -/
def isqrtGo (n : Nat) : Nat → Nat → Nat
  | 0, x => x
  | f + 1, x =>
    let y := (x + n / x) / 2
    if y < x then isqrtGo n f y else x

/-- The integer square root. -/
def isqrt (n : Nat) : Nat := if n == 0 then 0 else isqrtGo n 4000 (2 ^ (Nat.log2 n / 2 + 1))

/-- A fixed-point number from a finite value, toward −∞; only for magnitudes whose fixed-point form is small enough. -/
def fxOf (neg : Bool) (n d : Nat) (e : Int) : Int :=
  let s := e + fracBits
  let (k, _, _) := splitMag n d s
  signedNat neg k

/-- e^y for a fixed-point y with |y| < 2^13, as a mantissa in fixed point and a power of two. -/
def fxExp (y : Int) : Int × Int :=
  let k := y / fxLn2
  (fxExpSmall (y - k * fxLn2), k)

/-- An approximation m × 2^e of a nonzero number. -/
structure Approx where
  m : Int := 0
  e : Int := 0
deriving DecidableEq, Repr

/-- A fixed-point number as an approximation. -/
def apFx (a : Int) : Approx := { m := a, e := -(fracBits : Int) }

/-- The absolute value that an argument's exponential or tail may be taken of. -/
def bigArg (lg : Int) : Bool := 12 < lg

/-- e^x as an approximation, for |x| < 2^13. -/
def apExp (x : Int) : Approx := let (m, k) := fxExp x; { m := m, e := k - fracBits }

/-- m × 2^e in fixed point; fractional bits below the last are dropped. -/
def apToFx (a : Approx) : Int :=
  let s := a.e + fracBits
  if 0 ≤ s then a.m * 2 ^ s.toNat else a.m / 2 ^ (-s).toNat

/-- e^−|x| in fixed point for |x| < 2^13. -/
def fxExpNeg (x : Int) : Int := apToFx (apExp (-(x.natAbs : Int)))

/-- sigmoid(x) for a fixed-point x with |x| < 2^13, with its full relative precision for negative x. -/
def apSigm (x : Int) : Approx :=
  let t := fxExpNeg x
  if 0 ≤ x then apFx (fxDiv fxOne (fxOne + t))
  else
    let a := apExp x
    { m := fxDiv a.m (fxOne + t), e := a.e }

/-- ln(1 + t) for a fixed-point 0 ≤ t ≤ 1. -/
def fxLog1p (t : Int) : Int := fxLn1 (fxDiv t (2 * fxOne + t))

/-- erf of a fixed-point x, |x| < 16, by its power series. -/
def fxErf (x : Int) : Int :=
  let x2 := fxMul x x
  let s := series (fun j t => -(fxMul t x2 / j)) (fun j t => t / (2 * j + 1)) 1400 0 x 0
  let rootPi : Int := isqrt (fxPi.toNat * 2 ^ fracBits)
  fxDiv (2 * s) rootPi

/-- sin and cos of a fixed-point r with 0 ≤ r < π/2 + a little. -/
def fxSin (r : Int) : Int :=
  let r2 := fxMul r r
  series (fun j t => -(fxMul t r2 / ((2 * j) * (2 * j + 1)))) (fun _ t => t) 80 0 r 0

/-- cos of a fixed-point r. -/
def fxCos (r : Int) : Int :=
  let r2 := fxMul r r
  series (fun j t => -(fxMul t r2 / ((2 * j - 1) * (2 * j)))) (fun _ t => t) 80 0 fxOne 0

/-- The quadrant and the remainder of x modulo π/2; π is taken to as many more bits as x has above the point. The
argument has at most 128 of them. -/
def reduceAngle (neg : Bool) (n d : Nat) (e : Int) : Nat × Int :=
  let x := fxOf neg n d e
  let q := 2 * x / fxPi
  ((q % 4).toNat, x - q * fxPi / 2)

/-- The exact value with a sticky bit: 2k + 1 over 2 where the number lies strictly between k and k + 1. -/
def stickyVal (neg : Bool) (k : Nat) (exact : Bool) (e : Int) : Val :=
  .num neg (2 * k + (if exact then 0 else 1)) 1 (e - 1)

/-- √(n × 2^e) of a positive dyadic, with a sticky bit. -/
def sqrtVal (n : Nat) (e : Int) : Val :=
  let (n, e) := if e % 2 == 0 then (n, e) else (2 * n, e - 1)
  let n' := n * 2 ^ 200
  let k := isqrt n'
  stickyVal false k (k * k == n') (e / 2 - 100)

/-- 1 / √(n × 2^e) of a positive dyadic, with a sticky bit. -/
def rsqrtVal (n : Nat) (e : Int) : Val :=
  let (n, e) := if e % 2 == 0 then (n, e) else (2 * n, e - 1)
  let top := 2 ^ 400
  let k := isqrt (top / n)
  stickyVal false k (top % n == 0 && k * k == top / n) (-(e / 2) - 200)

/-- What a function is at a finite nonzero argument: a value known exactly or with a sticky bit, or an approximation, or
its argument displaced by less than any format shows, up or down in magnitude. -/
inductive SfuForm where
  | exact (v : Val) (extra : FlagBits)
  | approx (a : Approx)
  /-- The value lies strictly between v and v nudged in magnitude by less than half a unit of any format. -/
  | near (v : Val)
  /-- Smaller in magnitude than a quarter of the least subnormal of any format, but not 0. -/
  | tiny (neg : Bool)
deriving DecidableEq, Repr

/-- The form of a function at the finite nonzero argument ±n × 2^e (R57). -/
def sfuForm (f : Sfu) (neg : Bool) (n : Nat) (e : Int) : SfuForm :=
  let lg := floorLog2 n 1 e
  let x := fxOf neg n 1 e
  match f with
  | .exp2 =>
    if 0 ≤ e || n % 2 ^ (-e).toNat == 0 then
      -- an integer argument
      if bigArg lg then .exact (.num false 1 1 (if neg then -8000 else 8000)) 0
      else .exact (.num false 1 1 (x / fxOne)) 0
    else if bigArg lg then .exact (.num false 1 1 (if neg then -8000 else 8000)) 0
    else
      let k := x / fxOne
      .approx { m := fxExpSmall (fxMul (x - k * fxOne) fxLn2), e := k - fracBits }
  | .log2 =>
    if neg then .exact (.nan true) 0
    else if n == 2 ^ Nat.log2 n then .exact (valInt lg) 0
    else
      let m : Int := (n : Int) * 2 ^ (fracBits - Nat.log2 n)
      let ln := fxLn1 (fxDiv (m - fxOne) (m + fxOne))
      .approx (apFx (fxDiv ln fxLn2 + lg * fxOne))
  | .rcp => .exact (.num neg 1 n (-e)) 0
  | .rsqrt => if neg then .exact (.nan true) 0 else .exact (rsqrtVal n e) 0
  | .sqrt => if neg then .exact (.nan true) 0 else .exact (sqrtVal n e) 0
  | .sin =>
    if lg < -80 then .near (.num neg n 1 e)
    else
      let (q, r) := reduceAngle neg n 1 e
      let v := if q % 2 == 0 then fxSin r else fxCos r
      .approx { m := if q < 2 then v else -v, e := -(fracBits : Int) }
  | .cos =>
    if lg < -80 then .near (.num false 1 1 0)
    else
      let (q, r) := reduceAngle neg n 1 e
      let v := if q % 2 == 0 then fxCos r else fxSin r
      .approx { m := if q == 0 || q == 3 then v else -v, e := -(fracBits : Int) }
  | .tanh =>
    if lg < -80 then .near (.num neg n 1 e)
    else if 7 < lg then .near (.num neg 1 1 0)
    else
      let t := fxExpNeg (2 * x)
      let v := fxDiv (fxOne - t) (fxOne + t)
      .approx (apFx (if neg then -v else v))
  | .sigm => if 9 < lg then (if neg then .tiny false else .near (.num false 1 1 0)) else .approx (apSigm x)
  | .silu =>
    if 9 < lg then (if neg then .tiny true else .near (.num false n 1 e))
    else
      let s := apSigm x
      .approx { m := s.m * signedNat neg n, e := s.e + e }
  | .gelut =>
    if 6 < lg then (if neg then .tiny true else .near (.num false n 1 e))
    else
      let c : Int := isqrt ((fxDiv (2 * fxOne) fxPi).toNat * 2 ^ fracBits)
      let x3 := fxMul (fxMul x x) x
      let u := fxMul c (x + x3 * 44715 / 1000000)
      let s := apSigm (2 * u)
      .approx { m := s.m * signedNat neg n, e := s.e + e }
  | .gelue =>
    if 3 < lg then (if neg then .tiny true else .near (.num false n 1 e))
    else
      let rootHalf : Int := isqrt (2 ^ (2 * fracBits - 1))
      let v := fxOne + fxErf (fxMul x rootHalf)
      .approx { m := v * signedNat neg n, e := e - 1 - fracBits }
  | .erf =>
    if 3 < lg then .near (.num neg 1 1 0)
    else .approx { m := fxErf x, e := -(fracBits : Int) }
  | .softp =>
    if neg && 6 < lg then .tiny false
    else if 9 < lg then .near (.num false n 1 e)
    else
      let t := fxLog1p (fxExpNeg x)
      .approx (apFx (if neg then t else x + t))

/-- The value of an approximation's mantissa. -/
def apVal (m e : Int) : Val := .num (m < 0) m.natAbs 1 e

/-- A special function of an FP32, BF16 or FP16 code, correctly rounded with RNE, and its flags (R56, R57). -/
def sfu (f : Sfu) (fmt : Fmt) (code : Nat) : Nat × FlagBits :=
  let out (v : Val) : Nat × FlagBits := rne fmt v
  let one : Val := .num false 1 1 0
  match decodeFmt fmt code with
  | .nan nv => out (.nan nv)
  | .inf neg =>
    match f with
    | .exp2 => out (if neg then valZero else .inf false)
    | .log2 => out (if neg then .nan true else .inf false)
    | .rcp => out (.num neg 0 1 0)
    | .rsqrt => out (if neg then .nan true else valZero)
    | .sqrt => out (if neg then .nan true else .inf false)
    | .sin => out (.nan true)
    | .cos => out (.nan true)
    | .tanh => out (.num neg 1 1 0)
    | .sigm => out (if neg then valZero else one)
    | .gelut => out (if neg then .num true 0 1 0 else .inf false)
    | .gelue => out (if neg then .num true 0 1 0 else .inf false)
    | .silu => out (if neg then .num true 0 1 0 else .inf false)
    | .erf => out (.num neg 1 1 0)
    | .softp => out (if neg then valZero else .inf false)
  | .num neg n _ e =>
    if n == 0 then
      match f with
      | .exp2 => out one
      | .cos => out one
      | .log2 => ((out (.inf true)).1, fDZ)
      | .rcp => ((out (.inf neg)).1, fDZ)
      | .rsqrt => ((out (.inf neg)).1, fDZ)
      | .sigm => out (.num false 1 1 (-1))
      | .softp => let v := out (apVal fxLn2 (-(fracBits : Int))); (v.1, v.2 ||| fNX)
      | _ => out (.num neg 0 1 0)
    else
      match sfuForm f neg n e with
      | .exact v extra => let r := out v; (r.1, r.2 ||| extra)
      | .tiny s => let r := out (.num s 1 1 (-3000)); (r.1, r.2 ||| fNX)
      | .near v =>
        let r := out v
        -- the one value that can stand on the smallest normal magnitude is the argument of sin or tanh, which lies above
        -- what the function gives (R42: UF is decided before rounding)
        let small := match v with
          | .num _ m _ x => floorLog2 m 1 x < 1 - (fmtMant fmt).2
              || (floorLog2 m 1 x == 1 - (fmtMant fmt).2 && m == 2 ^ Nat.log2 m)
          | _ => false
        (r.1, r.2 ||| fNX ||| flagIf small fUF)
      | .approx a => let r := out (apVal a.m a.e); (r.1, r.2 ||| fNX)

/-- Exp2 of R56 on FP32 values, as the attention unit and the sampler use it. -/
def exp2Val (x : Val) : Val := decodeFmt .fp32 (sfu .exp2 .fp32 (rne .fp32 x).1).1

end Sys2Proof.Machine
end

