-- ==== Sys2Proof/Machine/Vector.lean ====
section
/-! DEFINITION. The SIMD unit: elements and masks, neighbour links, and the fifteen vector majors, with `id.lane`
(R132, R140 to R162). -/

namespace Sys2Proof.Machine

/-! ### Elements and masks (R141 to R143) -/

/-- The element type that q names (R141). -/
def qFmt (q : BitVec 3) : Fmt :=
  match q.toNat with
  | 0 => .fp32
  | 1 => .bf16
  | 2 => .fp16
  | 3 => .i32
  | 4 => .i16
  | _ => .i8
/-- Its width in bits. -/
def qWidth (q : BitVec 3) : Nat := fmtWidth (qFmt q)
/-- Whether it is floating. -/
def qFloat (q : BitVec 3) : Bool := q.toNat < 3

/-- Element e of a value of w-bit elements (R31). -/
def elemAt (w : Nat) (v : Vec) (e : Nat) : Nat := v.toNat / 2 ^ (w * e) % 2 ^ w
/-- The whole elements of a value. -/
def elems (w : Nat) (v : Vec) : List Nat := (List.range (128 / w)).map (elemAt w v)
/-- Elements packed from bit 0 (R31). -/
def packNat (w : Nat) : List Nat → Nat
  | [] => 0
  | x :: xs => x % 2 ^ w + 2 ^ w * packNat w xs
/-- Elements packed into a register. -/
def packElems (w : Nat) (l : List Nat) : Vec := BitVec.ofNat 128 (packNat w l)
/-- Whether element e is active under a mask: the bit of its lowest byte (R143). -/
def active (m : BitVec 16) (w e : Nat) : Bool := m.getLsbD (w * e / 8)
/-- The bytes of the active elements, as a mask. -/
def activeBytes (m : BitVec 16) (w : Nat) : BitVec 16 :=
  BitVec.ofNat 16 (packNat 1 ((List.range 16).map fun j => if active m w (8 * j / w) then 1 else 0))
/-- The bytes of a where the mask is set, of b elsewhere. -/
def selBytes (m : BitVec 16) (a b : Vec) : Vec :=
  BitVec.ofNat 128 (packNat 8 ((List.range 16).map fun j => if m.getLsbD j then elemAt 8 a j else elemAt 8 b j))
/-- Write the bytes of a vector register that a mask selects (R58, R66). -/
def setV (c : Core) (n : Nat) (mask : BitVec 16) (w : Vec) : Core :=
  { c with v := c.v.setIfInBounds n (selBytes mask w (vget c.v n 0)) }

/-! ### Neighbour links (R60, R145, R146) -/

/-- What a vector instruction sees on one core: its files, and the words at the heads of its links. -/
structure VIn where
  core : Core := {}
  lw : Vec := 0
  le : Vec := 0
deriving DecidableEq, Repr

/-- What it does there: the core with its other results, the value for its vector destination with the bytes to write,
words to push besides, and flags. -/
structure VOut where
  core : Core := {}
  val : Vec := 0
  mask : BitVec 16 := 0
  push : List (Nat × Vec) := []
  fl : FlagBits := 0
deriving DecidableEq, Repr

/-- A vector register as a source; 30 and 31 are the popped words (R58, R60). -/
def srcV (v : VIn) (n : BitVec 5) : Vec :=
  if n == 30 then v.lw else if n == 31 then v.le else vget v.core.v n.toNat 0
/-- The mask that pr names. -/
def maskOf (v : VIn) (pr : BitVec 3) : BitVec 16 := getPr v.core pr.toNat
/-- A result that writes every byte of d. -/
def wholeOut (v : VIn) (val : Vec) (fl : FlagBits) : VOut := { core := v.core, val := val, mask := 0xFFFF, fl := fl }

/-- The core whose queue a push through a link reaches, and whether it is that core's `lw` queue (R145). -/
def pushTarget (f : Firing) (i link : Nat) : Nat × Bool :=
  let w := f.cores.length
  let g := i - f.lead
  if link == 31 then (f.lead + (g + 1) % w, true) else (f.lead + (g + w - 1) % w, false)
/-- Push a word, unless the queue holds four (R145). -/
def pushLink (f : Firing) (i link : Nat) (word : Vec) : Option Firing :=
  let (t, west) := pushTarget f i link
  match f.cores.find? fun c => c.idx == t with
  | none => none
  | some c =>
    if west then (if c.lw.length < 4 then some (putCores f [{ c with lw := c.lw ++ [word] }]) else none)
    else (if c.le.length < 4 then some (putCores f [{ c with le := c.le ++ [word] }]) else none)
/-- Drop the heads of the links that an instruction pops. -/
def popCore (lw le : Bool) (c : Core) : Core :=
  { c with lw := if lw then c.lw.drop 1 else c.lw, le := if le then c.le.drop 1 else c.le }
/-- Whether the links that it pops hold a word. -/
def popReady (lw le : Bool) (c : Core) : Bool := (!lw || !c.lw.isEmpty) && (!le || !c.le.isEmpty)

/-- Apply the results of a vector instruction on its cores: registers, then pushes in ascending core order; none where a
push finds no room. -/
def applyVec (f : Firing) (dst : Option (BitVec 5)) (outs : List VOut) : Option Firing :=
  let write (r : VOut) : Core :=
    let c := { r.core with nflags := r.core.nflags ||| r.fl }
    match dst with
    | some d =>
      if d.toNat < 30 then setV c d.toNat r.mask r.val else c
    | none => c
  let pushes (r : VOut) : List (Nat × Vec) :=
    (match dst with
      | some d => if d.toNat < 30 then [] else [(d.toNat, selBytes r.mask r.val 0)]
      | none => []) ++ r.push
  let f := putCores f (outs.map write)
  outs.foldlM (init := f) fun f r => (pushes r).foldlM (init := f) fun f p => pushLink f r.core.idx p.1 p.2

/-- Run a vector instruction on the acting cores: it executes only when every pop finds a word and every push, after the
pops, finds room; else all of it stalls (R60, R143, R146). `on` selects the cores on which it takes effect
(log 20, DEDUCED). -/
def vecInstr (w : Site) (srcs : List (BitVec 5)) (dst : Option (BitVec 5)) (on : Core → Bool) (g : VIn → Res VOut)
    (s : State) : Out :=
  withFiring w s fun s f units =>
    let act := units.filter on
    let lw := srcs.contains 30
    let le := srcs.contains 31
    if !(act.all (popReady lw le)) then .next s
    else
      let view (c : Core) : VIn := { core := popCore lw le c, lw := c.lw.head?.getD 0, le := c.le.head?.getD 0 }
      match collect (act.map fun c => g (view c)) with
      | .trap t => trapAt s f t w
      | .stall => .next s
      | .ok outs =>
        match applyVec f dst outs with
        | none => .next s
        | some f' => .next (putFiring s (advance f' units (siteLen w)))

/-- The elements of a result by element, with the bytes of inactive ones not to write and only active ones' flags. -/
def elementOut (v : VIn) (m : BitVec 16) (w : Nat) (g : Nat → Nat × FlagBits) : VOut :=
  let es := (List.range (128 / w)).map fun e => if active m w e then g e else (0, 0)
  { core := v.core, val := packElems w (es.map (·.1)), mask := activeBytes m w,
    fl := es.foldl (fun fl e => fl ||| e.2) 0 }

/-- Element by element from a. -/
def elementA (w : Site) (o : OpA) (g : Nat → Nat × FlagBits) (s : State) : Out :=
  vecInstr w [o.a] (some o.d) (fun _ => true) (fun v =>
    let n := qWidth o.q
    .ok (elementOut v (maskOf v o.pr) n fun e => g (elemAt n (srcV v o.a) e))) s
/-- Element by element from a and b. -/
def elementAB (w : Site) (o : OpA) (g : Nat → Nat → Nat × FlagBits) (s : State) : Out :=
  vecInstr w [o.a, o.b] (some o.d) (fun _ => true) (fun v =>
    let n := qWidth o.q
    .ok (elementOut v (maskOf v o.pr) n fun e => g (elemAt n (srcV v o.a) e) (elemAt n (srcV v o.b) e))) s
/-- Element by element from a, b and d. -/
def elementABD (w : Site) (o : OpA) (g : Nat → Nat → Nat → Nat × FlagBits) (s : State) : Out :=
  vecInstr w [o.a, o.b, o.d] (some o.d) (fun _ => true) (fun v =>
    let n := qWidth o.q
    .ok (elementOut v (maskOf v o.pr) n fun e =>
      g (elemAt n (srcV v o.a) e) (elemAt n (srcV v o.b) e) (elemAt n (srcV v o.d) e))) s

/-! ### Element operations (R147 to R152) -/

/-- The functions that VARITH and the nodes of VRED share. -/
inductive VOp where
  | add
  | sub
  | mul
  | min
  | max
  | adds
  | subs
deriving DecidableEq, Repr

/-- An exact integer clamped to the signed w-bit range, as a code, with SAT when it clamps. -/
def satCode (w : Nat) (i : Int) : Nat × FlagBits :=
  let hi : Int := 2 ^ (w - 1) - 1
  let c := max (-(hi + 1)) (min hi i)
  ((c % 2 ^ w).toNat, flagIf (c != i) fSAT)

/-- A op B on the codes of an element type (R147). -/
def arith (q : BitVec 3) (op : VOp) (a b : Nat) : Nat × FlagBits :=
  let f := qFmt q
  let w := qWidth q
  if qFloat q then
    let x := decodeFmt f a
    let y := decodeFmt f b
    match op with
    | .add => rne f (valAdd x y)
    | .sub => rne f (valSub x y)
    | .mul => rne f (valMul x y)
    | .min => floatPick f false a b
    | .max => floatPick f true a b
    | _ => (0, 0)
  else
    let x := signedOf w a
    let y := signedOf w b
    match op with
    | .add => ((a + b) % 2 ^ w, 0)
    | .sub => ((a + (2 ^ w - b)) % 2 ^ w, 0)
    | .mul => (a * b % 2 ^ w, 0)
    | .min => (if x < y then a else b, 0)
    | .max => (if x < y then b else a, 0)
    | .adds => satCode w (x + y)
    | .subs => satCode w (x - y)

/-- |A| on a code (R147). -/
def arithAbs (q : BitVec 3) (a : Nat) : Nat × FlagBits :=
  let f := qFmt q
  if qFloat q then
    match decodeFmt f a with
    | .nan nv => ((fmtNan f).getD 0, flagIf nv fNV)
    | _ => (a % 2 ^ (qWidth q - 1), 0)
  else satCode (qWidth q) (signedOf (qWidth q) a).natAbs

/-- ± A × B ± D, rounded once (R148). -/
def fusedMul (q : BitVec 3) (negP negD : Bool) (a b d : Nat) : Nat × FlagBits :=
  let f := qFmt q
  let w := qWidth q
  if qFloat q then
    let p := valMul (decodeFmt f a) (decodeFmt f b)
    let x := decodeFmt f d
    rne f (valAdd (if negP then valNegate p else p) (if negD then valNegate x else x))
  else
    let p : Int := (a : Int) * b
    (((((if negP then -p else p) + (if negD then -(d : Int) else d)) % 2 ^ w).toNat), 0)

/-- A floating lane of VDOT: the products and D summed exactly (R149). -/
def dotFloat (prods : List Val) (d : Nat) : Nat × FlagBits := rne .fp32 (valAdd (valSum prods) (decodeFmt .fp32 d))
/-- The integer that an exact value with a whole magnitude is. -/
def valToInt : Val → Int
  | .num s n _ _ => signedNat s n
  | _ => 0
/-- An integer lane of VDOT (R149). -/
def dotInt (prods : List Val) (d : Nat) : Nat × FlagBits :=
  let (c, clamped) := clamp32 ((prods.map valToInt).sum + signedOf 32 d)
  ((c % 2 ^ 32).toNat, flagIf clamped fIOV)

/-- VDOT: four 32-bit lanes, each with the products of its source elements (R149). -/
def vdot (w : Site) (o : OpA) (fa fb : Fmt) (lane : List Val → Nat → Nat × FlagBits) (s : State) : Out :=
  vecInstr w [o.a, o.b, o.d] (some o.d) (fun _ => true) (fun v =>
    let n := fmtWidth fa
    let m := 32 / n
    .ok (elementOut v (maskOf v o.pr) 32 fun e =>
      lane ((rangeFrom (m * e) m).map fun i =>
        valMul (decodeFmt fa (elemAt n (srcV v o.a) i)) (decodeFmt fb (elemAt n (srcV v o.b) i)))
        (elemAt 32 (srcV v o.d) e))) s

/-- One level of the balanced tree: neighbours combined in pairs (R53). -/
def pairUp {α : Type} (g : α → α → α) : List α → List α
  | a :: b :: l => g a b :: pairUp g l
  | l => l
/-- The balanced tree over a list, for a count of levels (R53). -/
def treeFold {α : Type} (g : α → α → α) : Nat → List α → List α
  | 0, l => l
  | n + 1, l => treeFold g n (pairUp g l)

/-- The code of +∞ or −∞, or the largest or smallest integer, of an element type (R150). -/
def extreme (q : BitVec 3) (neg : Bool) : Nat :=
  let w := qWidth q
  match fmtInf (qFmt q) with
  | some c => if neg then c + 2 ^ (w - 1) else c
  | none => if neg then 2 ^ (w - 1) else 2 ^ (w - 1) - 1

/-- The identity of a reduction as a code (R150). -/
def redIdentity (q : BitVec 3) : VOp → Nat
  | .min => extreme q false
  | .max => extreme q true
  | _ => if qFloat q then 2 ^ (qWidth q - 1) else 0

/-- A reduction's value for a mask and a source. -/
abbrev Reduction := BitVec 16 → Vec → Vec × FlagBits

/-- `add`, `min`, `max` over the tree, each node in the element type. -/
def redTree (q : BitVec 3) (op : VOp) : Reduction := fun m a =>
  let w := qWidth q
  let leaf (e : Nat) : Nat × FlagBits := (if active m w e then elemAt w a e else redIdentity q op, 0)
  let node (x y : Nat × FlagBits) : Nat × FlagBits :=
    let r := arith q op x.1 y.1
    (r.1, x.2 ||| y.2 ||| r.2)
  let r := (treeFold node 4 ((List.range (128 / w)).map leaf)).head?.getD (0, 0)
  (BitVec.ofNat 128 r.1, r.2)
/-- `and`, `or`, `xor`, which have no order. -/
def redLogic (q : BitVec 3) (g : Nat → Nat → Nat) (id : Nat → Nat) : Reduction := fun m a =>
  let w := qWidth q
  (BitVec.ofNat 128 ((List.range (128 / w)).foldl (fun x e => if active m w e then g x (elemAt w a e) else x) (id w)), 0)
/-- `addw`: nodes in FP32, or exact integers in INT32. -/
def redWide (q : BitVec 3) : Reduction := fun m a =>
  let w := qWidth q
  if qFloat q then
    let leaf (e : Nat) : Val × FlagBits :=
      (if active m w e then decodeFmt (qFmt q) (elemAt w a e) else .num true 0 1 0, 0)
    let node (x y : Val × FlagBits) : Val × FlagBits :=
      let r := rne .fp32 (valAdd x.1 y.1)
      (decodeFmt .fp32 r.1, x.2 ||| y.2 ||| r.2)
    let r := (treeFold node 4 ((List.range (128 / w)).map leaf)).head?.getD (valZero, 0)
    (BitVec.ofNat 128 (rne .fp32 r.1).1, r.2)
  else
    let sum := ((List.range (128 / w)).map fun e => if active m w e then signedOf w (elemAt w a e) else 0).sum
    (BitVec.ofNat 128 (sum % 2 ^ 32).toNat, 0)
/-- Whether a code beats the best one so far: greater, −0 below +0, NaN below every number (R150). -/
def beats (q : BitVec 3) (best x : Nat) : Bool :=
  if qFloat q then
    match decodeFmt (qFmt q) best, decodeFmt (qFmt q) x with
    | _, .nan _ => false
    | .nan _, _ => true
    | b, y => valCmpZ b y < 0
  else signedOf (qWidth q) best < signedOf (qWidth q) x
/-- `imax`. -/
def redImax (q : BitVec 3) : Reduction := fun m a =>
  let w := qWidth q
  let es := (List.range (128 / w)).filter fun e => active m w e
  let fl := es.foldl (init := (0 : FlagBits)) fun fl e =>
    fl ||| (match decodeFmt (qFmt q) (elemAt w a e) with
      | .nan true => fNV
      | _ => 0)
  match es with
  | [] => (packElems w [extreme q true, 2 ^ w - 1], 0)
  | e :: es =>
    let (i, x) := es.foldl (init := (e, elemAt w a e)) fun (i, x) e =>
      if beats q x (elemAt w a e) then (e, elemAt w a e) else (i, x)
    let x := if qFloat q && valIsNan (decodeFmt (qFmt q) x) then (fmtNan (qFmt q)).getD 0 else x
    (packElems w [x, i], fl)

/-- VRED: every byte of d is written (R150). -/
def vred (w : Site) (o : OpA) (g : Reduction) (s : State) : Out :=
  vecInstr w [o.a] (some o.d) (fun _ => true) (fun v =>
    let r := g (maskOf v o.pr) (srcV v o.a)
    .ok (wholeOut v r.1 r.2)) s

/-- A bitwise function of w-bit codes (R151). -/
def logic (q : BitVec 3) (g : Nat → Nat → Nat → Nat) (a b : Nat) : Nat × FlagBits := (g (qWidth q) a b, 0)

/-- The conditions of VCMP. -/
inductive VCond where
  | eq
  | ne
  | lt
  | le
  | ltu
  | leu
  | un
deriving DecidableEq, Repr

/-- A condition on two codes, and NV (R152). -/
def compare (q : BitVec 3) (k : VCond) (a b : Nat) : Bool × FlagBits :=
  let w := qWidth q
  if qFloat q then
    let x := decodeFmt (qFmt q) a
    let y := decodeFmt (qFmt q) b
    let un := valIsNan x || valIsNan y
    let sig := (match x with
      | .nan nv => nv
      | _ => false) || (match y with
      | .nan nv => nv
      | _ => false)
    let c := valCmp x y
    match k with
    | .eq => (!un && c == 0, flagIf sig fNV)
    | .ne => (!(!un && c == 0), flagIf sig fNV)
    | .un => (un, flagIf sig fNV)
    | .lt => (!un && c < 0, flagIf un fNV)
    | .le => (!un && c ≤ 0, flagIf un fNV)
    | _ => (false, 0)
  else
    let x := signedOf w a
    let y := signedOf w b
    match k with
    | .eq => (a == b, 0)
    | .ne => (a != b, 0)
    | .lt => (x < y, 0)
    | .le => (x ≤ y, 0)
    | .ltu => (a < b, 0)
    | .leu => (a ≤ b, 0)
    | .un => (false, 0)

/-- VCMP: predicate d takes the mask bits of the active elements whose condition holds (R152). -/
def vcmp (w : Site) (o : OpA) (g : Nat → Nat → Bool × FlagBits) (s : State) : Out :=
  vecInstr w [o.a, o.b] none (fun _ => true) (fun v =>
    let n := qWidth o.q
    let m := maskOf v o.pr
    let rs := (List.range (128 / n)).map fun e =>
      if active m n e then g (elemAt n (srcV v o.a) e) (elemAt n (srcV v o.b) e) else (false, 0)
    let bits := (List.range 16).map fun j => if (rs[8 * j / n]?.getD (false, 0)).1 then 1 else 0
    .ok { core := setPr v.core o.d.toNat (BitVec.ofNat 16 (packNat 1 bits)), fl := rs.foldl (fun fl r => fl ||| r.2) 0 }) s

/-- The elements whose lowest-byte bit is 1, in order (R153). -/
def compress (m : BitVec 16) (w : Nat) (l : List Nat) : List Nat :=
  ((List.range (128 / w)).filter fun e => active m w e).map fun e => l[e]?.getD 0
/-- The elements of a list handed to the selected places from place e on (R153). -/
def expand (m : BitVec 16) (w e : Nat) (l : List Nat) : Nat → List Nat
  | 0 => []
  | n + 1 =>
    if active m w e then l.head?.getD 0 :: expand m w (e + 1) (l.drop 1) n else 0 :: expand m w (e + 1) l n

/-- The formats that a VCVT code T or S names (R154). -/
def cvtFmt : Nat → Fmt
  | 0 => .fp32
  | 1 => .bf16
  | 2 => .fp16
  | 3 => .e4m3
  | 4 => .e5m2
  | 5 => .i32
  | 6 => .i16
  | 7 => .i8
  | 8 => .e3m2
  | 9 => .e2m3
  | 10 => .e2m1
  | 11 => .u8
  | 12 => .i4
  | _ => .u4

/-- The key of stochastic rounding in a core's own registers (R155). -/
def stoKey (c : Core) : Word × W32 × Word := (getX c 29, (getX c 30).setWidth 32, getX c 31)

/-- VCVT: the low elements of a, converted and packed; bytes wholly above them are 0 whatever the mask (R154). -/
def convert (o : OpA) (mode : Nat) (v : VIn) : Res VOut :=
  let tf := cvtFmt (o.b.toNat % 16)
  let ns := o.b.getLsbD 4
  let ws := qWidth o.q
  let wt := fmtWidth tf
  let n := min (128 / ws) (128 / wt)
  let m := maskOf v o.pr
  let es := (List.range n).map fun e =>
    if active m wt e then
      roundTo tf mode ns (stoWord (stoKey v.core) e) (decodeFmt (qFmt o.q) (elemAt ws (srcV v o.a) e))
    else (0, 0)
  let byte (j : Nat) : Nat := if wt * n ≤ 8 * j then 1 else if active m wt (8 * j / wt) then 1 else 0
  .ok { core := v.core, val := packElems wt (es.map (·.1)),
        mask := BitVec.ofNat 16 (packNat 1 ((List.range 16).map byte)), fl := es.foldl (fun fl e => fl ||| e.2) 0 }

/-- `vcvt.wide`: each active element := the exact value of its source element (R156). -/
def widen (o : OpA) (v : VIn) : Res VOut :=
  let sf := cvtFmt (o.b.toNat % 16)
  .ok (elementOut v (maskOf v o.pr) (qWidth o.q) fun e =>
    rne (qFmt o.q) (decodeFmt sf (elemAt (fmtWidth sf) (srcV v o.a) e)))

/-- A scale by element from b's elements (R157). -/
def scaleLdexp (o : OpA) (b : Vec) (e : Nat) (x : Val) : Val :=
  valMul x (.num false 1 1 (signedOf (qWidth o.q) (elemAt (qWidth o.q) b e)))
/-- A scale by b's byte 0 (R157). -/
def scaleByte (f : Nat → Val) (_ : OpA) (b : Vec) (_ : Nat) (x : Val) : Val := valMul x (f (elemAt 8 b 0))
/-- The codebook block scale: a zero keeps its own sign (R157). -/
def scaleCb (_ : OpA) (b : Vec) (_ : Nat) (x : Val) : Val :=
  let p := valMul x (decodeFmt .e4m3 (elemAt 8 b 0))
  if valIsZero x && !valIsNan p then x else p
/-- VSCALE (R157). -/
def scaleVec (o : OpA) (g : OpA → Vec → Nat → Val → Val) (v : VIn) : Res VOut :=
  let n := qWidth o.q
  .ok (elementOut v (maskOf v o.pr) n fun e =>
    rne (qFmt o.q) (g o (srcV v o.b) e (decodeFmt (qFmt o.q) (elemAt n (srcV v o.a) e))))
/-- VCB: entry in [31:0], index in [47:32] (R158). -/
def cbDec (o : OpA) (v : VIn) : Res VOut :=
  let a := (srcV v o.a).toNat
  .ok (elementOut v (maskOf v o.pr) 16 fun j => rne (qFmt o.q) (cbWeight (fieldOf a 0 32) (fieldOf a 32 16) j))

/-! ### VARITH, VFMA, VDOT (R147 to R149) -/

/-- VARITH: A + B (R147). -/
def execVarithAdd (o : OpA) (s : State) : Out :=
  elementAB (siteOf (.varithAdd o)) o (arith o.q .add) s
/-- VARITH: A − B (R147). -/
def execVarithSub (o : OpA) (s : State) : Out :=
  elementAB (siteOf (.varithSub o)) o (arith o.q .sub) s
/-- VARITH: A × B (R147). -/
def execVarithMul (o : OpA) (s : State) : Out :=
  elementAB (siteOf (.varithMul o)) o (arith o.q .mul) s
/-- VARITH: smaller (R147). -/
def execVarithMin (o : OpA) (s : State) : Out :=
  elementAB (siteOf (.varithMin o)) o (arith o.q .min) s
/-- VARITH: larger (R147). -/
def execVarithMax (o : OpA) (s : State) : Out :=
  elementAB (siteOf (.varithMax o)) o (arith o.q .max) s
/-- VARITH: A + B, clamped (R147). -/
def execVarithAdds (o : OpA) (s : State) : Out :=
  elementAB (siteOf (.varithAdds o)) o (arith o.q .adds) s
/-- VARITH: A − B, clamped (R147). -/
def execVarithSubs (o : OpA) (s : State) : Out :=
  elementAB (siteOf (.varithSubs o)) o (arith o.q .subs) s
/-- VARITH: |A| (R147). -/
def execVarithAbs (o : OpA) (s : State) : Out :=
  elementA (siteOf (.varithAbs o)) o (arithAbs o.q) s
/-- VFMA: A × B + D, rounded once (R148). -/
def execVfmaFma (o : OpA) (s : State) : Out :=
  elementABD (siteOf (.vfmaFma o)) o (fusedMul o.q false false) s
/-- VFMA: A × B − D, rounded once (R148). -/
def execVfmaFms (o : OpA) (s : State) : Out :=
  elementABD (siteOf (.vfmaFms o)) o (fusedMul o.q false true) s
/-- VFMA: D − A × B, rounded once (R148). -/
def execVfmaFnma (o : OpA) (s : State) : Out :=
  elementABD (siteOf (.vfmaFnma o)) o (fusedMul o.q true false) s
/-- VFMA: −A × B − D, rounded once (R148). -/
def execVfmaFnms (o : OpA) (s : State) : Out :=
  elementABD (siteOf (.vfmaFnms o)) o (fusedMul o.q true true) s
/-- VDOT: FP32 lanes plus products of 2 elements, rounded once (R149). -/
def execVdotBf16 (o : OpA) (s : State) : Out :=
  vdot (siteOf (.vdotBf16 o)) o .bf16 .bf16 dotFloat s
/-- VDOT: FP32 lanes plus products of 2 elements, rounded once (R149). -/
def execVdotFp16 (o : OpA) (s : State) : Out :=
  vdot (siteOf (.vdotFp16 o)) o .fp16 .fp16 dotFloat s
/-- VDOT: FP32 lanes plus products of 4 elements, rounded once (R149). -/
def execVdotE4m3 (o : OpA) (s : State) : Out :=
  vdot (siteOf (.vdotE4m3 o)) o .e4m3 .e4m3 dotFloat s
/-- VDOT: FP32 lanes plus products of 4 elements, rounded once (R149). -/
def execVdotE5m2 (o : OpA) (s : State) : Out :=
  vdot (siteOf (.vdotE5m2 o)) o .e5m2 .e5m2 dotFloat s
/-- VDOT: INT32 lanes plus products of 4 elements, clamped with IOV (R149). -/
def execVdotI8 (o : OpA) (s : State) : Out :=
  vdot (siteOf (.vdotI8 o)) o .i8 .i8 dotInt s
/-- VDOT: INT32 lanes plus products of 4 elements, clamped with IOV (R149). -/
def execVdotU8 (o : OpA) (s : State) : Out :=
  vdot (siteOf (.vdotU8 o)) o .u8 .u8 dotInt s
/-- VDOT: INT32 lanes plus products of 4 elements, clamped with IOV (R149). -/
def execVdotI8u8 (o : OpA) (s : State) : Out :=
  vdot (siteOf (.vdotI8u8 o)) o .i8 .u8 dotInt s

/-! ### VRED (R150) -/

/-- VRED: `add` over the balanced tree (R150). -/
def execVredAdd (o : OpA) (s : State) : Out :=
  vred (siteOf (.vredAdd o)) o (redTree o.q .add) s
/-- VRED: `min` over the balanced tree (R150). -/
def execVredMin (o : OpA) (s : State) : Out :=
  vred (siteOf (.vredMin o)) o (redTree o.q .min) s
/-- VRED: `max` over the balanced tree (R150). -/
def execVredMax (o : OpA) (s : State) : Out :=
  vred (siteOf (.vredMax o)) o (redTree o.q .max) s
/-- VRED: `and` of the active elements (R150). -/
def execVredAnd (o : OpA) (s : State) : Out :=
  vred (siteOf (.vredAnd o)) o (redLogic o.q (· &&& ·) (fun w => 2 ^ w - 1)) s
/-- VRED: `or` of the active elements (R150). -/
def execVredOr (o : OpA) (s : State) : Out :=
  vred (siteOf (.vredOr o)) o (redLogic o.q (· ||| ·) (fun _ => 0)) s
/-- VRED: `xor` of the active elements (R150). -/
def execVredXor (o : OpA) (s : State) : Out :=
  vred (siteOf (.vredXor o)) o (redLogic o.q (· ^^^ ·) (fun _ => 0)) s
/-- VRED: sum in FP32 or INT32 (R150). -/
def execVredAddw (o : OpA) (s : State) : Out :=
  vred (siteOf (.vredAddw o)) o (redWide o.q) s
/-- VRED: the largest value and its lowest index (R150). -/
def execVredImax (o : OpA) (s : State) : Out :=
  vred (siteOf (.vredImax o)) o (redImax o.q) s

/-! ### VLOGIC, VCMP, VSEL (R151 to R153) -/

/-- VLOGIC: bitwise (R151). -/
def execVlogicAnd (o : OpA) (s : State) : Out :=
  elementAB (siteOf (.vlogicAnd o)) o (logic o.q fun _ a b => a &&& b) s
/-- VLOGIC: bitwise (R151). -/
def execVlogicOr (o : OpA) (s : State) : Out :=
  elementAB (siteOf (.vlogicOr o)) o (logic o.q fun _ a b => a ||| b) s
/-- VLOGIC: bitwise (R151). -/
def execVlogicXor (o : OpA) (s : State) : Out :=
  elementAB (siteOf (.vlogicXor o)) o (logic o.q fun _ a b => a ^^^ b) s
/-- VLOGIC: bitwise (R151). -/
def execVlogicAndn (o : OpA) (s : State) : Out :=
  elementAB (siteOf (.vlogicAndn o)) o (logic o.q fun w a b => a &&& (2 ^ w - 1 - b)) s
/-- VLOGIC: not A (R151). -/
def execVlogicNot (o : OpA) (s : State) : Out :=
  elementA (siteOf (.vlogicNot o)) o (fun a => (2 ^ qWidth o.q - 1 - a, 0)) s
/-- VLOGIC: shift by the low log2(w) bits of B (R151). -/
def execVlogicShl (o : OpA) (s : State) : Out :=
  elementAB (siteOf (.vlogicShl o)) o (logic o.q fun w a b => a * 2 ^ (b % w) % 2 ^ w) s
/-- VLOGIC: shift by the low log2(w) bits of B (R151). -/
def execVlogicShr (o : OpA) (s : State) : Out :=
  elementAB (siteOf (.vlogicShr o)) o (logic o.q fun w a b => a / 2 ^ (b % w)) s
/-- VLOGIC: shift by the low log2(w) bits of B (R151). -/
def execVlogicSra (o : OpA) (s : State) : Out :=
  elementAB (siteOf (.vlogicSra o)) o (logic o.q fun w a b => ((signedOf w a / 2 ^ (b % w)) % 2 ^ w).toNat) s
/-- VCMP: the mask bits of the elements whose condition holds (R152). -/
def execVcmpEq (o : OpA) (s : State) : Out :=
  vcmp (siteOf (.vcmpEq o)) o (compare o.q .eq) s
/-- VCMP: the mask bits of the elements whose condition holds (R152). -/
def execVcmpNe (o : OpA) (s : State) : Out :=
  vcmp (siteOf (.vcmpNe o)) o (compare o.q .ne) s
/-- VCMP: the mask bits of the elements whose condition holds (R152). -/
def execVcmpLt (o : OpA) (s : State) : Out :=
  vcmp (siteOf (.vcmpLt o)) o (compare o.q .lt) s
/-- VCMP: the mask bits of the elements whose condition holds (R152). -/
def execVcmpLe (o : OpA) (s : State) : Out :=
  vcmp (siteOf (.vcmpLe o)) o (compare o.q .le) s
/-- VCMP: the mask bits of the elements whose condition holds (R152). -/
def execVcmpLtu (o : OpA) (s : State) : Out :=
  vcmp (siteOf (.vcmpLtu o)) o (compare o.q .ltu) s
/-- VCMP: the mask bits of the elements whose condition holds (R152). -/
def execVcmpLeu (o : OpA) (s : State) : Out :=
  vcmp (siteOf (.vcmpLeu o)) o (compare o.q .leu) s
/-- VCMP: the mask bits of the elements whose condition holds (R152). -/
def execVcmpUn (o : OpA) (s : State) : Out :=
  vcmp (siteOf (.vcmpUn o)) o (compare o.q .un) s
/-- VSEL: byte by byte from a or b (R153). -/
def execVselSel (o : OpA) (s : State) : Out :=
  vecInstr (siteOf (.vselSel o)) [o.a, o.b] (some o.d) (fun _ => true) (fun v =>
    .ok (wholeOut v (selBytes (maskOf v o.pr) (srcV v o.a) (srcV v o.b)) 0)) s
/-- VSEL: byte by byte from a or 0 (R153). -/
def execVselZero (o : OpA) (s : State) : Out :=
  vecInstr (siteOf (.vselZero o)) [o.a] (some o.d) (fun _ => true) (fun v =>
    .ok (wholeOut v (selBytes (maskOf v o.pr) (srcV v o.a) 0) 0)) s
/-- VSEL: the selected elements, packed downward (R153). -/
def execVselCmpr (o : OpA) (s : State) : Out :=
  vecInstr (siteOf (.vselCmpr o)) [o.a] (some o.d) (fun _ => true) (fun v =>
    let w := qWidth o.q
    .ok (wholeOut v (packElems w (compress (maskOf v o.pr) w (elems w (srcV v o.a)))) 0)) s
/-- VSEL: the elements of a, in order, to the selected places (R153). -/
def execVselExpd (o : OpA) (s : State) : Out :=
  vecInstr (siteOf (.vselExpd o)) [o.a] (some o.d) (fun _ => true) (fun v =>
    let w := qWidth o.q
    .ok (wholeOut v (packElems w (expand (maskOf v o.pr) w 0 (elems w (srcV v o.a)) (128 / w))) 0)) s

/-! ### VCVT, VSCALE, VCB (R154 to R158) -/

/-- VCVT: to the target T under rounding mode 0 (R154, R155). -/
def execVcvtRne (o : OpA) (s : State) : Out :=
  vecInstr (siteOf (.vcvtRne o)) [o.a] (some o.d) (fun _ => true) (convert o 0) s
/-- VCVT: to the target T under rounding mode 1 (R154, R155). -/
def execVcvtRtz (o : OpA) (s : State) : Out :=
  vecInstr (siteOf (.vcvtRtz o)) [o.a] (some o.d) (fun _ => true) (convert o 1) s
/-- VCVT: to the target T under rounding mode 2 (R154, R155). -/
def execVcvtRup (o : OpA) (s : State) : Out :=
  vecInstr (siteOf (.vcvtRup o)) [o.a] (some o.d) (fun _ => true) (convert o 2) s
/-- VCVT: to the target T under rounding mode 3 (R154, R155). -/
def execVcvtRdn (o : OpA) (s : State) : Out :=
  vecInstr (siteOf (.vcvtRdn o)) [o.a] (some o.d) (fun _ => true) (convert o 3) s
/-- VCVT: to the target T under rounding mode 4 (R154, R155). -/
def execVcvtSto (o : OpA) (s : State) : Out :=
  vecInstr (siteOf (.vcvtSto o)) [o.a] (some o.d) (fun _ => true) (convert o 4) s
/-- VCVT: exact widening (R156). -/
def execVcvtWide (o : OpA) (s : State) : Out :=
  vecInstr (siteOf (.vcvtWide o)) [o.a] (some o.d) (fun _ => true) (widen o) s
/-- VSCALE: one product with a scale, rounded once (R157). -/
def execVscaleLdexp (o : OpA) (s : State) : Out :=
  vecInstr (siteOf (.vscaleLdexp o)) [o.a, o.b] (some o.d) (fun _ => true) (scaleVec o scaleLdexp) s
/-- VSCALE: one product with a scale, rounded once (R157). -/
def execVscaleMx (o : OpA) (s : State) : Out :=
  vecInstr (siteOf (.vscaleMx o)) [o.a, o.b] (some o.d) (fun _ => true) (scaleVec o (scaleByte fun c => scaleE8M0 c)) s
/-- VSCALE: one product with a scale, rounded once (R157). -/
def execVscaleSb4 (o : OpA) (s : State) : Out :=
  vecInstr (siteOf (.vscaleSb4 o)) [o.a, o.b] (some o.d) (fun _ => true) (scaleVec o (scaleByte fun c => scaleE5M3 c)) s
/-- VSCALE: one product with a scale, rounded once (R157). -/
def execVscaleCb (o : OpA) (s : State) : Out :=
  vecInstr (siteOf (.vscaleCb o)) [o.a, o.b] (some o.d) (fun _ => true) (scaleVec o scaleCb) s
/-- VCB: the eight weights of a codebook index (R158). -/
def execVcbDec (o : OpA) (s : State) : Out :=
  vecInstr (siteOf (.vcbDec o)) [o.a] (some o.d) (fun _ => true) (cbDec o) s

/-! ### VSFU and VSFU2 (R159) -/

/-- VSFU: one special function of each element (R159). -/
def execVsfuExp2 (o : OpA) (s : State) : Out :=
  elementA (siteOf (.vsfuExp2 o)) o (sfu .exp2 (qFmt o.q)) s
/-- VSFU: one special function of each element (R159). -/
def execVsfuLog2 (o : OpA) (s : State) : Out :=
  elementA (siteOf (.vsfuLog2 o)) o (sfu .log2 (qFmt o.q)) s
/-- VSFU: one special function of each element (R159). -/
def execVsfuRcp (o : OpA) (s : State) : Out :=
  elementA (siteOf (.vsfuRcp o)) o (sfu .rcp (qFmt o.q)) s
/-- VSFU: one special function of each element (R159). -/
def execVsfuRsqrt (o : OpA) (s : State) : Out :=
  elementA (siteOf (.vsfuRsqrt o)) o (sfu .rsqrt (qFmt o.q)) s
/-- VSFU: one special function of each element (R159). -/
def execVsfuSqrt (o : OpA) (s : State) : Out :=
  elementA (siteOf (.vsfuSqrt o)) o (sfu .sqrt (qFmt o.q)) s
/-- VSFU: one special function of each element (R159). -/
def execVsfuSin (o : OpA) (s : State) : Out :=
  elementA (siteOf (.vsfuSin o)) o (sfu .sin (qFmt o.q)) s
/-- VSFU: one special function of each element (R159). -/
def execVsfuCos (o : OpA) (s : State) : Out :=
  elementA (siteOf (.vsfuCos o)) o (sfu .cos (qFmt o.q)) s
/-- VSFU: one special function of each element (R159). -/
def execVsfuTanh (o : OpA) (s : State) : Out :=
  elementA (siteOf (.vsfuTanh o)) o (sfu .tanh (qFmt o.q)) s
/-- VSFU2: one special function of each element (R159). -/
def execVsfu2Sigm (o : OpA) (s : State) : Out :=
  elementA (siteOf (.vsfu2Sigm o)) o (sfu .sigm (qFmt o.q)) s
/-- VSFU2: one special function of each element (R159). -/
def execVsfu2Gelut (o : OpA) (s : State) : Out :=
  elementA (siteOf (.vsfu2Gelut o)) o (sfu .gelut (qFmt o.q)) s
/-- VSFU2: one special function of each element (R159). -/
def execVsfu2Gelue (o : OpA) (s : State) : Out :=
  elementA (siteOf (.vsfu2Gelue o)) o (sfu .gelue (qFmt o.q)) s
/-- VSFU2: one special function of each element (R159). -/
def execVsfu2Silu (o : OpA) (s : State) : Out :=
  elementA (siteOf (.vsfu2Silu o)) o (sfu .silu (qFmt o.q)) s
/-- VSFU2: one special function of each element (R159). -/
def execVsfu2Erf (o : OpA) (s : State) : Out :=
  elementA (siteOf (.vsfu2Erf o)) o (sfu .erf (qFmt o.q)) s
/-- VSFU2: one special function of each element (R159). -/
def execVsfu2Softp (o : OpA) (s : State) : Out :=
  elementA (siteOf (.vsfu2Softp o)) o (sfu .softp (qFmt o.q)) s

/-! ### VMOV, VPERM, VLINK, `id.lane` (R132, R160 to R162) -/

/-- VMOV: active elements of a (R160). -/
def execVmovMov (o : OpA) (s : State) : Out := elementA (siteOf (.vmovMov o)) o (fun a => (a, 0)) s
/-- VMOV: the low bits of x_a in every active element (R160). -/
def execVmovBcast (o : OpA) (s : State) : Out :=
  vecInstr (siteOf (.vmovBcast o)) [] (some o.d) (fun _ => true) (fun v =>
    .ok (elementOut v (maskOf v o.pr) (qWidth o.q) fun _ => ((getX v.core o.a.toNat).toNat % 2 ^ qWidth o.q, 0))) s
/-- VMOV: element (x_b mod n) := x_a, if it is active (R160). -/
def execVmovIns (o : OpA) (s : State) : Out :=
  vecInstr (siteOf (.vmovIns o)) [] (some o.d) (fun _ => true) (fun v =>
    let w := qWidth o.q
    let i := (getX v.core o.b.toNat).toNat % (128 / w)
    let out := elementOut v (maskOf v o.pr) w fun e => if e == i then ((getX v.core o.a.toNat).toNat % 2 ^ w, 0) else (0, 0)
    .ok { out with mask := out.mask &&& activeBytes (BitVec.ofNat 16 (2 ^ (w * i / 8))) w }) s
/-- VMOV: x_d := element (x_b mod n) of a (R160). -/
def execVmovExt (o : OpA) (s : State) : Out :=
  vecInstr (siteOf (.vmovExt o)) [o.a] none (fun _ => true) (fun v =>
    let w := qWidth o.q
    let i := (getX v.core o.b.toNat).toNat % (128 / w)
    .ok { core := setX v.core o.d.toNat (BitVec.ofNat 64 (elemAt w (srcV v o.a) i)) }) s

/-- A rearrangement: element e of d from a choice of source element (R161). -/
def permute (w : Site) (o : OpA) (g : VIn → Nat → Nat → Nat) (srcs : List (BitVec 5)) (s : State) : Out :=
  vecInstr w srcs (some o.d) (fun _ => true) (fun v =>
    .ok (elementOut v (maskOf v o.pr) (qWidth o.q) fun e => (g v (128 / qWidth o.q) e, 0))) s

/-- VPERM `perm`: bytes of a and of d as it stood, by the bytes of b (R161). -/
def execVpermPerm (o : OpA) (s : State) : Out :=
  permute (siteOf (.vpermPerm o)) o (fun v _ j =>
    let i := elemAt 8 (srcV v o.b) j
    if 128 ≤ i then 0
    else if i % 32 < 16 then elemAt 8 (srcV v o.a) (i % 32)
    else elemAt 8 (srcV v o.d) (i % 32 - 16)) [o.a, o.b] s
/-- VPERM `ziplo` (R161). -/
def execVpermZiplo (o : OpA) (s : State) : Out :=
  permute (siteOf (.vpermZiplo o)) o (fun v _ e =>
    elemAt (qWidth o.q) (srcV v (if e % 2 == 0 then o.a else o.b)) (e / 2)) [o.a, o.b] s
/-- VPERM `ziphi` (R161). -/
def execVpermZiphi (o : OpA) (s : State) : Out :=
  permute (siteOf (.vpermZiphi o)) o (fun v n e =>
    elemAt (qWidth o.q) (srcV v (if e % 2 == 0 then o.a else o.b)) (e / 2 + n / 2)) [o.a, o.b] s
/-- VPERM `uzpe` (R161). -/
def execVpermUzpe (o : OpA) (s : State) : Out :=
  permute (siteOf (.vpermUzpe o)) o (fun v n e =>
    if e < n / 2 then elemAt (qWidth o.q) (srcV v o.a) (2 * e)
    else elemAt (qWidth o.q) (srcV v o.b) (2 * (e - n / 2))) [o.a, o.b] s
/-- VPERM `uzpo` (R161). -/
def execVpermUzpo (o : OpA) (s : State) : Out :=
  permute (siteOf (.vpermUzpo o)) o (fun v n e =>
    if e < n / 2 then elemAt (qWidth o.q) (srcV v o.a) (2 * e + 1)
    else elemAt (qWidth o.q) (srcV v o.b) (2 * (e - n / 2) + 1)) [o.a, o.b] s
/-- VPERM `splat`: element (x_b mod n) of a everywhere (R161). -/
def execVpermSplat (o : OpA) (s : State) : Out :=
  permute (siteOf (.vpermSplat o)) o (fun v n _ =>
    elemAt (qWidth o.q) (srcV v o.a) ((getX v.core o.b.toNat).toNat % n)) [o.a] s
/-- VPERM `rev` (R161). -/
def execVpermRev (o : OpA) (s : State) : Out :=
  permute (siteOf (.vpermRev o)) o (fun v n e => elemAt (qWidth o.q) (srcV v o.a) (n - 1 - e)) [o.a] s

/-- The link opposite to a. -/
def opposite (a : BitVec 5) : Nat := if a == 30 then 31 else 30

/-- VLINK `pop`: active bytes to d; with `fwd` the whole word goes on through the opposite link (R162). -/
def execVlinkPop (o : OpA) (s : State) : Out :=
  vecInstr (siteOf (.vlinkPop o)) [o.a] (some o.d) (fun _ => true) (fun v =>
    .ok { core := v.core, val := srcV v o.a, mask := maskOf v o.pr,
          push := if o.q == 1 then [(opposite o.a, srcV v o.a)] else [] }) s
/-- VLINK `peek`: the head word without popping; stalls while the queue is empty (R162). -/
def execVlinkPeek (o : OpA) (s : State) : Out :=
  vecInstr (siteOf (.vlinkPeek o)) [] (some o.d) (fun _ => true) (fun v =>
    let q := if o.a == 30 then v.core.lw else v.core.le
    if q.isEmpty then .stall else .ok { core := v.core, val := srcV v o.a, mask := maskOf v o.pr }) s
/-- VLINK `skip`: pops one word; with `fwd` it goes on (R162). -/
def execVlinkSkip (o : OpA) (s : State) : Out :=
  vecInstr (siteOf (.vlinkSkip o)) [o.a] none (fun _ => true) (fun v =>
    .ok { core := v.core, push := if o.q == 1 then [(opposite o.a, srcV v o.a)] else [] }) s

/-- The element width of `id.lane` (R132). -/
def laneWidth (q : BitVec 3) : Nat := 8 * 2 ^ q.toNat
/-- ID `lane`: element e := e, on the cores that the predicate selects; all 128 bits are written (R132). -/
def execIdLane (o : OpA) (s : State) : Out :=
  vecInstr (siteOf (.idLane o)) [] (some o.d) (fun c => (getPr c o.pr.toNat).getLsbD 0) (fun v =>
    .ok (wholeOut v (packElems (laneWidth o.q) (List.range (128 / laneWidth o.q))) 0)) s

end Sys2Proof.Machine
end

