-- ==== Sys2Proof/Machine/Access.lean ====
section
/-! DEFINITION. Accesses of cores: their checks, their issue, and how they read and write at their homes (R186 to R199, R219,
R220, R236, R240 to R243, R261, R287). -/

namespace Sys2Proof.Machine

/-! ### Checks (R186 to R193) -/

/-- What kind of memory instruction asks (R186, R240). -/
inductive Form where
  | scalar
  | vec
  | word
  | amo (fn : Nat)
  | cas
  | red (fn : Nat)
deriving DecidableEq, Repr

/-- Whether a space is allowed for an instruction (R186, R240) and to the tenant (R408). -/
def spaceOk (s : State) (v : Nat) (g : Form) (sp : Nat) : Bool :=
  let data := [0, 1, 2, 4, 5, 6, 7, 8].contains sp
  let atom := [0, 1, 2, 4, 5, 6].contains sp
  (match g with
    | .scalar => data || sp == 14
    | .vec => data
    | .word => sp == 5 || sp == 6
    | .amo fn => atom && (sp != 1 || fn == 0 || fn == 7)
    | .cas => atom
    | .red fn => atom && (sp != 1 || fn == 0)) &&
    (sp != 1 || accepted s v 3) && (sp != 2 || accepted s v 4)
/-- Whether a pointer's reserved bits are 0 (R188, R215, R226, R232). -/
def pointerClean (ea : Word) : Bool :=
  let n := ea.toNat
  match spaceOf ea with
  | 0 => vaClean ea
  | 1 => vaClean ea
  | 4 => fieldOf n 32 28 == 0 && fieldOf n 27 4 == 0
  | 5 => fieldOf n 19 41 == 0
  | 6 => fieldOf n 19 41 == 0
  | 7 => fieldOf n 14 46 == 0
  | 8 => fieldOf n 28 32 == 0
  | _ => true

/-- Where an access goes: the key of its first byte, its home and the page that it translated through. -/
structure Place where
  key : Nat := 0
  home : Nat := 0
  page : Option (Bool × Nat × Nat) := none
deriving DecidableEq, Repr
/-- The outcome of step 5 of R192. -/
inductive Loc where
  | ok (p : Place)
  | cause (c : Nat)
  | ask (page : Nat) (cached : Bool)
deriving DecidableEq, Repr

/-- A place in a window of the launch: of a space and a place, at an offset (R189). -/
def inWindow (s : State) (launch sp place off size key home : Nat) : Loc :=
  match (launchOf s launch).bind fun l => l.windows.find? fun w => w.space == sp && w.place == place with
  | none => .cause 0x06
  | some w => if off + size ≤ w.size then .ok { key := key + w.base, home := home } else .cause 0x06
/-- Step 5 of R192: the window or the translation of an effective address, for a core. -/
def locate (s : State) (f : Firing) (i : Nat) (ea : Word) (size : Nat) (want : Want) : State × Loc :=
  let n := ea.toNat
  let own := f.clus * 8 + i
  match spaceOf ea with
  | 0 =>
    match translateDev s f.clus f.tenant (vaOf ea) want with
    | (s, .error c) => (s, .cause c)
    | (s, .ok l) =>
      let pa := paIn l (vaOf ea)
      (s, .ok { key := memKey .device pa, home := homeDev s l pa, page := some (false, l.va, l.size) })
  | 1 =>
    match translateHost s (sectorOf f.clus) f.tenant (vaOf ea) want with
    | .ok l =>
      let ta := paIn l (vaOf ea)
      (s, .ok { key := memKey .host ta, home := homeHost s ta, page := some (true, l.va, l.size) })
    | .ask p cached => (s, if priFails s f.tenant (sectorOf f.clus) p cached then .cause 0x0B else .ask p cached)
  | 2 =>
    let pkg := fieldOf n 48 12
    if pkg == s.cfg.pkgid.toNat || s.cfg.members.getLsbD pkg then
      (s, .ok { key := 2 * 2 ^ 64 + n % 2 ^ 60 })
    else (s, .cause 0x0C)
  | 4 =>
    let die := if fieldOf n 31 1 == 1 then fieldOf n 25 2 else dieOf f.clus
    let off := fieldOf n 0 25
    (s, inWindow s f.launch 4 die off size (memKey .chip (die * 2 ^ 25 + off)) die)
  | 5 =>
    let off := fieldOf n 0 19
    (s, inWindow s f.launch 5 f.clus off size (memKey .cluster (f.clus * 2 ^ 19 + off)) f.clus)
  | 6 =>
    let core := f.clus * 8 + (if fieldOf n 18 1 == 1 then fieldOf n 15 3 else i)
    let off := fieldOf n 0 15
    (s, inWindow s f.launch 6 f.clus off size (memKey .scratch (core * 2 ^ 15 + off)) core)
  | 7 => (s, .ok { key := memKey .lane (own * 2 ^ 14 + n % 2 ^ 14), home := own })
  | 8 =>
    let die := fieldOf n 26 2
    let off := fieldOf n 0 26
    (s, if off + size ≤ windowSize s f.tenant die then .ok { key := windowKey s f.tenant die off, home := die }
        else .cause 0x06)
  | _ =>
    let off := n % 2 ^ 60
    (s, if 0x1000 ≤ off && !(holdsCluster s f.tenant (sysCluster off)) then .cause 0x06
        else .ok { key := 14 * 2 ^ 64 + off })

/-- The same for an access of a core; one whose page request has ended without the page takes HOSTPF, though another request may
have brought the page since (R233, R286). -/
def locateFor (s : State) (f : Firing) (i : Nat) (ea : Word) (size : Nat) (want : Want) : State × Loc :=
  if spaceOf ea == 1 && pageFailed s (.core f.clus i) (vaOf ea / 4096) then (clearFailed s (.core f.clus i), .cause 0x0B)
  else locate s f i ea size want
/-- Whether a range lock rests in the save area of its command's tenant (R280). -/
def restingLock (s : State) (k : Lock) : Bool :=
  s.eng.cmds.any fun m => m.id == k.cmd && s.saved.any fun x => x.v == m.tenant && x.c == k.c
/-- Whether a range of effective addresses meets a locked range of the cluster: a destination, or for a writer any
(R261). -/
def locked (s : State) (c : Nat) (ea size : Nat) (writes : Bool) : Bool :=
  s.eng.locks.any fun k => k.c == c && (k.dst || writes) && ea < k.hi && k.lo < ea + size && !(restingLock s k)
/-- The outcome of the checks of one core. -/
inductive Chk where
  | ok (a : Acc)
  | trap (t : TrapInfo)
  | page (page : Nat) (cached : Bool) (want : Want)
deriving DecidableEq, Repr

/-- The checks of R192 from step 2 on, of an access of a core. `span` is the length of the whole range, for FE `setr` and
`clrr` (log 26, DEDUCED). -/
def checkAccess (s : State) (f : Firing) (c : Core) (g : Form) (want : Want) (span : Nat) (a : Acc) : State × Chk :=
  let trap (cause : Nat) : Chk := .trap { core := c.idx, cause := cause, addr := a.ea }
  let sp := spaceOf a.ea
  let off := a.ea.toNat % 2 ^ 60
  if !(spaceOk s f.tenant g sp) || !(pointerClean a.ea) then (s, trap 0x04)
  else if sp == 7 && a.lanes && fieldOf off 12 2 != 0 then (s, trap 0x04)
  else if sp == 14 && (a.size != 8 || !(sysListed off)) then (s, trap 0x04)
  else if sp == 14 && (!(isHandler s f) || accWrites a) then (s, trap 0x03)
  else if a.ea.toNat % (if a.lanes then 4 else a.size) != 0 then (s, trap 0x05)
  else
    match locateFor s f c.idx a.ea span want with
    | (s, .cause k) => (s, trap k)
    | (s, .ask p cached) => (s, .page p cached want)
    | (s, .ok p) =>
      let pieces := if a.lanes then (List.range 4).map fun j => (a.ea.toNat + j * 4096, 4) else [(a.ea.toNat, span)]
      if pieces.any fun q => locked s f.clus q.1 q.2 (accWrites a) then (s, trap 0x07)
      else if a.kind != .store && a.kind != .ste && a.kind != .red && (sp == 0 || sp == 1 || sp == 8) &&
          poisoned s p.key a.size then (s, trap 0x0D)
      else (s, .ok { a with space := sp, key := p.key, home := p.home, page := p.page })

/-! ### Queues -/

/-- Change an access in a core's order. -/
def updAcc (s : State) (c i id : Nat) (g : Acc → Acc) : State :=
  let p := pcoreAt s c i
  putPcore s { p with accs := updWhere (fun a => a.id == id) g p.accs }
/-- Remove an access from a core's order. -/
def dropAcc (s : State) (c i id : Nat) : State :=
  let p := pcoreAt s c i
  putPcore s { p with accs := p.accs.filter fun a => a.id != id }
/-- The access of an identity in a core's order. -/
def accAt (s : State) (c i id : Nat) : Option Acc := (pcoreAt s c i).accs.find? fun a => a.id == id

/-! ### Reading and writing at a home -/

/-- The request that an access makes of its home slice. -/
def l2ReqOf (a : Acc) (write alloc : Bool) : L2Req :=
  let n := (a.key + a.size - 1) / 64 - a.key / 64 + 1
  { tenant := a.tenant, slice := a.home, line := lineOf a.key, secs := BitVec.ofNat 4 ((2 ^ n - 1) * 2 ^ (a.key / 64 % 4)),
    write := write, alloc := alloc, nu := a.nu.toNat, dflt := a.dfl.toNat, clk := a.clk, c := a.tick }
/-- Place an access of a cached space in the L2. -/
def placeL2 (s : State) (a : Acc) (write : Bool) : State :=
  if a.space == 0 || a.space == 1 then (l2Access s (l2ReqOf a write (a.pol != 3))).1 else s
/-- Whether an access finds only ways of pinned windows in its set, and waits (R220). -/
def l2Blocked (s : State) (a : Acc) (write : Bool) : Bool :=
  (a.space == 0 || a.space == 1) && setBlocked s (l2ReqOf a write (a.pol != 3))
/-- Whether an access may perform now: nothing of its own core that overlaps it is still to perform, and its set has a way
for it. A write-back takes no way, and waits for nothing (R221). -/
def clear (s : State) (c i : Nat) (a : Acc) : Bool :=
  a.kind == .cache || (mayPerform s c i a && (clashes s c i a).isEmpty && !(l2Blocked s a (accWrites a)))
/-- Whether an atomic performs at its bank while the core issues it (R240, R253). -/
def bankSpace (a : Acc) : Bool := a.space == 4 || a.space == 5 || a.space == 6
/-- Whether two atomics go to one line of a cached or remote space, or to one bank word (R287). -/
def sameLine (a b : Acc) : Bool :=
  isAtomic a && isAtomic b && a.space == b.space &&
    (if bankSpace a then a.key / 8 == b.key / 8 else lineOf a.key == lineOf b.key)
/-- Whether the atomics that earlier instructions of a fused gang made to the line or word of one of its atomics have been
served (R287). -/
def gangTurn (s : State) (c : Nat) (a : Acc) : Bool :=
  (clusAccs s c).all fun e => !(e.2.firing == a.firing && e.2.grp != 0 && e.2.grp != a.grp && e.2.id < a.id &&
    !e.2.performed && sameLine e.2 a)
/-- The atomics that are served with one, in ascending core order: those that its instruction makes to the line for the cores
of a fused gang (R287). -/
def groupOf (s : State) (c i : Nat) (a : Acc) : List (Nat × Acc) :=
  if a.grp == 0 then [(i, a)]
  else (List.range 8).flatMap fun j => (clusAccs s c).filter fun e =>
    e.1 == j && e.2.grp == a.grp && !e.2.performed && sameLine e.2 a
/-- Whether an atomic, with its group, may be served now: it is the lowest core's, all are clear, and those that earlier
instructions of the gang made to the line have been served (R287). -/
def groupClear (s : State) (c i : Nat) (a : Acc) : Bool :=
  let g := groupOf s c i a
  (g.head?.map (·.1)) == some i && g.all (fun e => clear s c e.1 e.2) && gangTurn s c a
/-- The bytes of an access at its home, lowest first (a system word of space 0xE, R277). -/
def readBytes (s : State) (a : Acc) : State × List Byte :=
  if a.space == 14 then
    let off := a.key % 2 ^ 64
    (pageAfterRead s a.tenant off, toBytes 8 (sysWord s a.tenant off).toNat)
  else if a.lanes then (s, (List.range a.size).map fun j => memRead s.mem (byteKey a j))
  else if a.space == 0 then getHome s a.key a.size
  else (s, memReadBytes s.mem a.key a.size)
/-- Write the selected bytes of an access at its home (log 27, DEDUCED). -/
def writeBytes (s : State) (a : Acc) (mask : Nat) (bytes : List Byte) : State :=
  if a.lanes then
    setMem s ((List.range 4).foldl (fun m j =>
      memWriteMasked m (a.key + j * 4096) (mask / 2 ^ (4 * j) % 16) ((bytes.drop (4 * j)).take 4)) s.mem)
  else if a.space == 0 then putHome (recallLine s (lineOf a.key)) a.key mask bytes
  else if a.space == 1 then putHome s a.key mask bytes
  else
    let s := if a.space == 8 && mask != 0 then healLine s a.key else s
    setMem s (memWriteMasked s.mem a.key mask bytes)
/-- Bytes as a register value. -/
def vecOf (l : List Byte) : Vec := BitVec.ofNat 128 (ofBytes l)

/-- What an atomic writes, if it writes, and whether `addb` refuses (R241, R242). -/
def atomicNew (a : Acc) (old : Nat) : Option Nat × Bool :=
  let w := 8 * a.size
  let b := a.data.toNat % 2 ^ 64
  let d := a.data2.toNat % 2 ^ 64
  if a.kind == .cas then (if old == d % 2 ^ w then some (b % 2 ^ w) else none, false)
  else if a.fn == 1 then
    let sum := signedOf 64 old + signedOf 64 d
    if sum ≤ signedOf 64 b && -(2 : Int) ^ 63 ≤ sum then (some (sum % 2 ^ 64).toNat, false) else (none, true)
  else if a.fn == 0 then (some (combine 0 a.q a.size old b), false)
  else if a.fn == 7 then (some (b % 2 ^ w), false)
  else (some (combine (a.fn - 1) a.q a.size old b), false)
/-- A copy of a line as its home leases it, with what its locations carry. -/
def leaseLine (s : State) (line w r : Nat) : Lease :=
  { line := line, data := memSlice s.mem (256 * line) (256 * line + 256), wts := w, rts := r
    rels := s.dir.filter fun e => keysMeet e.key e.size (256 * line) 256
    acq := s.acq.filter fun e => keysMeet e.key e.size (256 * line) 256 }
/-- Perform an atomic at its point of service: the state, the old value and whether `addb` refused. -/
def atomicAct (s : State) (a : Acc) : State × Vec × Bool :=
  let s := placeL2 s a true
  let (s, bs) := readBytes s a
  let r := atomicNew a (ofBytes bs)
  let s := match r.1 with
    | some v => writeBytes s a (2 ^ a.size - 1) (toBytes a.size v)
    | none => s
  (s, vecOf bs, r.2)
/-- Give a coherent line the timestamp of an explicit write of a core, and its releases that timestamp: later leases of other
cores must not answer for it (R251, R258). The core's own leases of the line end (R249) (log 35, DEDUCED). -/
def stampExplicit (s : State) (c i : Nat) (a : Acc) (line floor : Nat) : State :=
  let s := bumpStamp s line floor
  let ts := (stampOf s line).1
  let s := (coresOf i a).foldl (init := s) fun s j =>
    let p := pcoreAt s c j
    putPcore s { p with ets := max p.ets ts, leases := p.leases.filter fun l => l.line != line }
  noteWrite s a ts
/-- Combine a RED at its point of service (R243). -/
def redAct (s : State) (c i : Nat) (a : Acc) : State :=
  let s := placeL2 s a true
  let (s, bs) := readBytes s a
  let v := combine a.fn a.q a.size (ofBytes bs) a.data.toNat
  let s := writeBytes s a (2 ^ a.size - 1) (toBytes a.size v)
  if a.space == 0 then stampExplicit s c i a (lineOf a.key) 0 else s
/-- Enter a RED into its core's update copy; every copy of the word with another function or width goes home first, so that
those that stand beside each other combine in any order (R243, R287) (log 34, DEDUCED). Its home line takes the promise that nu declares (R209). -/
def redEnter (s : State) (c i : Nat) (a : Acc) : State :=
  let same (u : Update) : Bool := u.key == a.key && u.size == a.size && u.fn == a.fn && u.q == a.q
  let meets (u : Update) : Bool := u.key < a.key + a.size && a.key < u.key + u.size
  let s := placeL2 s a true
  let s := recallWhere s fun _ _ u => meets u && !(same u)
  let s := stampExplicit s c i a (lineOf a.key) 0
  let p := pcoreAt s c i
  let ts := p.ets
  let val (old : Nat) : Word := BitVec.ofNat 64 (combine a.fn a.q a.size old a.data.toNat)
  if p.updates.any same then
    putPcore s { p with updates := updWhere same (fun u => { u with val := val u.val.toNat, ts := ts }) p.updates }
  else
    let u : Update := { key := a.key, size := a.size, fn := a.fn, q := a.q, val := a.data.setWidth 64, ts := ts }
    putPcore s { p with updates := p.updates ++ [u] }

/-! ### Returning a value to its core -/

/-- The value that a scalar destination takes (R197, R241). -/
def scalarOf (a : Acc) : Word :=
  if a.sext then signExt64 (8 * a.size) a.val.toNat else BitVec.ofNat 64 (a.val.toNat % 2 ^ (8 * min a.size 8))
/-- The value that a vector destination takes (R198). -/
def vectorOf (a : Acc) (w : Nat) (bc : Bool) : Vec :=
  if bc then packElems (8 * w) (List.replicate (16 / w) (a.val.toNat % 2 ^ (8 * w))) else a.val
/-- Write a gang's or a core's uniform file. -/
def putUniOf (f : Firing) (i : Nat) (g : UFile → UFile) : Firing :=
  if f.split then { f with cores := f.cores.map fun c => if c.idx == i then { c with u := g c.u } else c }
  else { f with u := g f.u }
/-- Change one core of a firing. -/
def updCore (f : Firing) (i : Nat) (g : Core → Core) : Firing :=
  { f with cores := f.cores.map fun c => if c.idx == i then g c else c }
/-- Write a returned value to its destination; none where a link has no room for it (R60, R145). -/
def writeDest (f : Firing) (i : Nat) (a : Acc) : Option Firing :=
  let f := if a.pred == 0 then f
    else if a.predGp then putUniOf f i fun u => setGp u a.pred a.flag
    else updCore f i fun c => setPr c a.pred (if a.flag then 0xFFFF else 0)
  match a.dest with
  | .none => some f
  | .x r => some (updCore f i fun c => setX c r (scalarOf a))
  | .g r => some (putUniOf f i fun u => setG u r (scalarOf a))
  | .vec r w bc mask =>
    if r < 30 then some (updCore f i fun c => setV c r mask (vectorOf a w bc))
    else pushLink f i r (selBytes mask (vectorOf a w bc) 0)
/-- The cores that wait for an access go on; past the instruction once none of the cores that act with them waits. -/
def release (f : Firing) (id : Nat) (len : Word) : Firing :=
  let mine := f.cores.filter fun c => c.busy == .reply id
  if mine.isEmpty then f
  else
    let f := { f with cores := f.cores.map fun c => if c.busy == .reply id then { c with busy := .none } else c }
    let units := if f.split then mine else f.cores
    let waits (c : Core) : Bool := match c.busy with
      | .reply _ => true
      | _ => false
    let now := f.cores.filter fun k => units.any fun u => u.idx == k.idx
    if now.any waits then f else advance f units len
/-- The length of the instruction that made an access. -/
def accLen (a : Acc) : Word := if a.kind == .fe then 4 else 8
/-- Deliver a performed access to its firing and take it out of the order. -/
def deliver (s : State) (c i : Nat) (a : Acc) : Option State :=
  match firingOf s a.firing with
  | none => some (dropAcc s c i a.id)
  | some f => (writeDest f i a).map fun f => dropAcc (putFiring s (release f a.id (accLen a))) c i a.id

/-! ### The shape of a memory instruction -/

/-- The scalar destination of a load or atomic; with k = 0, x0 takes nothing. -/
def destOf (uni : Bool) (d : BitVec 5) : Dest := if uni then .g d.toNat else if d == 0 then .none else .x d.toNat

/-- The cores on which a memory instruction takes effect: one for k = 1 (R66, R112). -/
def memUnits (f : Firing) (units : List Core) (uni : Bool) (pr : BitVec 3) : List Core :=
  let sel (c : Core) : Bool := takes (fileOf f units uni c) pr
  (if uni then units.take 1 else units).filter sel
/-- Run the checks on each core in ascending order. -/
def checkAll (s : State) : List (Core × (State → State × Chk)) → State × List (Core × Chk)
  | [] => (s, [])
  | (c, g) :: rest =>
    let (s, r) := g s
    let (s, rs) := checkAll s rest
    (s, (c, r) :: rs)
/-- The first trap among the outcomes. -/
def firstTrap : List (Core × Chk) → Option TrapInfo
  | [] => none
  | (_, .trap t) :: _ => some t
  | _ :: rest => firstTrap rest
/-- The accesses that passed. -/
def passed : List (Core × Chk) → List (Core × Acc)
  | [] => []
  | (c, .ok a) :: rest => (c, a) :: passed rest
  | _ :: rest => passed rest
/-- Let the cores that need a page wait for it; with k = 1 the whole gang waits (R233, R286). -/
def waitPages (s : State) (f : Firing) (units : List Core) (uni : Bool) : List (Core × Chk) → State
  | [] => s
  | (c, .page p cached want) :: rest =>
    let (id, s) := askPage s f.tenant (sectorOf f.clus) p want cached [.core f.clus c.idx] []
    let hold (k : Core) : Bool := if uni then units.any fun u => u.idx == k.idx else k.idx == c.idx
    let f := { f with cores := f.cores.map fun k => if hold k then { k with busy := .page id } else k }
    waitPages (putFiring s f) f units uni rest
  | _ :: rest => waitPages s f units uni rest
/-- The core's default class for the space of an access (R207). -/
def dfltOf (c : Core) (sp : Nat) : BitVec 5 := if sp == 1 then c.dfl1 else c.dfl0
/-- Give an access its identity and place in the program order; a format-M word also takes a clock value and ticks
(R205). -/
def stampAcc (s : State) (f : Firing) (units : List Core) (uni : Bool) (c : Core) (a : Acc) : State × Acc :=
  let (n, s) := newId s
  let k := clockOf s f
  let gang := uni && !f.split && 1 < units.length
  let a := { a with id := n, firing := f.id, launch := f.launch, tenant := f.tenant, gang := gang,
                    width := if gang then f.cores.length else 1, tick := clockVal s k, clk := k, dfl := dfltOf c a.space,
                    pc := c.pc }
  let fs := fenceRecs s f.clus c.idx a
  let rel := (a.kind == .ste && a.fn == 0) || (a.kind == .fe && (a.fn == 1 || a.fn == 3))
  let cores := coresOf c.idx a
  let own := if rel then priorLSA s f.clus c.idx a ++ owedTo s f.clus cores else []
  let a := { a with covers := (own ++ fs.flatMap (·.pend)).filter (unfinished s)
                    ts := fs.foldl (fun m e => max m e.ts) (if rel then maxPts s f.clus cores else 0) }
  (if a.kind == .fe then s else tickClock s k 1, a)
/-- Append an access to a core's order. -/
def pushAcc (s : State) (c i : Nat) (a : Acc) : State :=
  let p := pcoreAt s c i
  putPcore s { p with accs := p.accs ++ [a] }
/-- Whether a memory instruction counts against `ocld` (R199, R240); the others of its shapes count against `ocst`. -/
def raisesLoad (g : Form) (want : Want) : Bool :=
  match g with
  | .amo _ => true
  | .cas => true
  | .red _ => false
  | _ => want == .rd
/-- Whether the counter that an instruction would raise stands at its limit of 255 on some of the cores (R61): `ocld` or
`ocst`, or none. -/
def countersFull (s : State) (f : Firing) (units : List Core) (cnt : Option Bool) : Bool :=
  units.any fun c => match cnt with
    | none => false
    | some ld => 255 ≤ (if ld then ocld s f c else ocst s f c)
/-- Whether an access holds issue until its reply returns (R236, R253) (log 32, DEDUCED). -/
def holdsIssue (a : Acc) : Bool :=
  (a.space == 2 && (a.kind == .load || a.kind == .amo || a.kind == .cas)) ||
    (a.space == 1 && (a.kind == .amo || a.kind == .cas))
/-- Issue accesses into the orders of their cores, and mark the cores that wait. -/
def issueAll (s : State) (f : Firing) (units : List Core) (uni : Bool) : List (Core × Acc) → State × Firing
  | [] => (s, f)
  | (c, a) :: rest =>
    let (s, a) := stampAcc s f units uni c a
    let s := pushAcc s f.clus c.idx a
    let hold (k : Core) : Bool := if uni then units.any fun u => u.idx == k.idx else k.idx == c.idx
    let f := if holdsIssue a then
        { f with cores := f.cores.map fun k => if hold k then { k with busy := .reply a.id } else k }
      else f
    issueAll s f units uni rest
/-- A memory instruction: the checks of every core first, then what `act` does with the accesses that passed (R112,
R192). `chk` checks a core's access; none for no access, and `act` is told how many cores make none, since they tick the
clock all the same. It first waits while a counter that its accesses would raise is full (R61). -/
def memShape (w : Site) (uni : Bool) (cnt : Option Bool) (sel : Firing → List Core → List Core)
    (chk : Firing → List Core → Core → Option (State → State × Chk))
    (act : State → Firing → List Core → Nat → List (Core × Acc) → Out) (s : State) : Out :=
  withFiring w s fun s f units =>
    let cores := sel f units
    let asks := cores.filterMap fun c => (chk f units c).map fun g => (c, g)
    if !asks.isEmpty && countersFull s f (if uni then units else asks.map (·.1)) cnt then .next s
    else
      let (s, rs) := checkAll s asks
      match firstTrap rs with
      | some t => trapAt s f t w
      | none => if (passed rs).length < rs.length then .next (waitPages s f units uni rs)
                else act s f units (cores.length - asks.length)
                  ((passed rs).map fun e => (e.1, { e.2 with words := w.words }))
/-- A memory instruction whose accesses pass the checks of R192; `mk` gives a core's access and the span of its checks
(log 19, DEDUCED). -/
def memInstr (w : Site) (uni : Bool) (g : Form) (want : Want) (sel : Firing → List Core → List Core)
    (mk : Firing → List Core → Core → Option (Nat × Acc))
    (act : State → Firing → List Core → Nat → List (Core × Acc) → Out) (s : State) : Out :=
  memShape w uni (some (raisesLoad g want)) sel (fun f units c => (mk f units c).map fun r => fun s => checkAccess s f c g want r.1 r.2) act s
/-- Tick the firing's clock for cores that take effect without an access. -/
def tickIdle (s : State) (f : Firing) (n : Nat) : State := tickClock s (clockOf s f) (BitVec.ofNat 32 n)
/-- Issue the accesses and go on, unless one holds issue. -/
def issueOn (uni : Bool) (len : Word) (s : State) (f : Firing) (units : List Core) (idle : Nat)
    (l : List (Core × Acc)) : Out :=
  let (s, f) := issueAll (tickIdle s f idle) f units uni l
  let f := if l.any fun e => holdsIssue e.2 then f else advance f units len
  .next (putFiring s f)

end Sys2Proof.Machine
end

