-- ==== Sys2Proof/Machine/Atomics.lean ====
section
/-! DEFINITION. AMO, CAS, RED and XLAT (R231, R240 to R244). -/

namespace Sys2Proof.Machine

/-! ### AMO and CAS (R241, R242) -/

/-- Serve an atomic at its point of service: what it reads may be acquired by a later FENCE, and where it writes as a
release, the release is recorded (R241, R257). -/
def serveAtomic (s : State) (c i : Nat) (a : Acc) : State × Acc :=
  let s := noteSeen s c i a s.dir s.acq
  let rel := releaseUnit s c i a
  let (s, v, ref) := atomicAct s a
  let s := if (atomicNew a v.toNat).1.isSome then afterWrite s c i a a.key rel else s
  (s, { a with val := v, flag := ref, performed := true })
/-- Perform an atomic at its bank, and write its results. -/
def bankAtomic (s : State) (f : Firing) (units : List Core) (uni : Bool) (c : Core) (a : Acc) : State × Firing :=
  let (s, a) := stampAcc s f units uni c a
  let (s, a) := serveAtomic s f.clus c.idx a
  (s, (writeDest f c.idx a).getD f)
/-- Whether an atomic at a bank may perform now. -/
def bankReady (s : State) (f : Firing) (units : List Core) (uni : Bool) (e : Core × Acc) : Bool :=
  let (s', a) := stampAcc s f units uni e.1 e.2
  mayPerform s' f.clus e.1.idx a && (clashes s' f.clus e.1.idx a).isEmpty && gangTurn s' f.clus a
/-- The atomics that an instruction makes for the cores of a fused gang are one group (R287). -/
def markGroup (s : State) (f : Firing) (uni : Bool) (l : List (Core × Acc)) : List (Core × Acc) :=
  if uni || f.split then l else l.map fun e => (e.1, { e.2 with grp := s.nextId })
/-- Atomics: those at banks perform in ascending core order, the others issue. -/
def atomicOn (uni : Bool) (s : State) (f : Firing) (units : List Core) (l : List (Core × Acc)) : Out :=
  let l := markGroup s f uni l
  if !((l.filter fun e => bankSpace e.2).all (bankReady s f units uni)) then .next s
  else
    let go (st : State × Firing) (e : Core × Acc) : State × Firing :=
      if bankSpace e.2 then bankAtomic st.1 st.2 units uni e.1 e.2 else issueAll st.1 st.2 units uni [e]
    let r := l.foldl go (s, f)
    .next (putFiring r.1 (if l.any fun e => holdsIssue e.2 then r.2 else advance r.2 units 8))
/-- AMO and CAS: the access of a core. -/
def atomicInstr (i : Instr) (o : OpM) (kind : AccKind) (fn : Nat) (s : State) : Out :=
  let uni := k1 o.o
  let addb := kind == .amo && fn == 1
  let q := o.o.q.toNat
  let size := if !addb && (q == 1 || q == 3) then 4 else 8
  memInstr (siteOf i) uni (if kind == .cas then .cas else .amo fn) .rmw (fun f units => memUnits f units uni o.o.pr)
    (fun f units c =>
      let r := fileOf f units uni c
      some (size, { kind := kind, fn := fn, q := if addb then 0 else q, ea := eaPlain r o, size := size,
                    sext := !addb && q == 1, sets := 16, data := (getS r o.o.b.toNat).setWidth 128,
                    data2 := (getS r o.o.d.toNat).setWidth 128, dest := destOf uni o.o.d,
                    pred := if addb then q else 0, predGp := uni, nu := o.nu }))
    (fun s f units _ l => atomicOn uni s f units l) s

/-- old + B. -/
def execAmoAdd (o : OpM) (s : State) : Out := atomicInstr (.amoAdd o) o .amo 0 s
/-- old + D where that is at most B; otherwise refused. -/
def execAmoAddb (o : OpM) (s : State) : Out := atomicInstr (.amoAddb o) o .amo 1 s
/-- Minimum. -/
def execAmoMin (o : OpM) (s : State) : Out := atomicInstr (.amoMin o) o .amo 2 s
/-- Maximum. -/
def execAmoMax (o : OpM) (s : State) : Out := atomicInstr (.amoMax o) o .amo 3 s
/-- old and B. -/
def execAmoAnd (o : OpM) (s : State) : Out := atomicInstr (.amoAnd o) o .amo 4 s
/-- old or B. -/
def execAmoOr (o : OpM) (s : State) : Out := atomicInstr (.amoOr o) o .amo 5 s
/-- old xor B. -/
def execAmoXor (o : OpM) (s : State) : Out := atomicInstr (.amoXor o) o .amo 6 s
/-- B. -/
def execAmoSwap (o : OpM) (s : State) : Out := atomicInstr (.amoSwap o) o .amo 7 s
/-- x_b where old equals x_d. -/
def execCas (o : OpM) (s : State) : Out := atomicInstr (.cas o) o .cas 0 s

/-! ### RED (R243) -/

/-- RED: the operand enters the core's queue on its way to the copy or the point of service. -/
def redInstr (i : Instr) (o : OpM) (fn : Nat) (s : State) : Out :=
  let uni := k1 o.o
  let q := o.o.q.toNat
  let size := if fn == 6 || fn == 7 || q == 1 || q == 3 then 4 else 8
  memInstr (siteOf i) uni (.red fn) .rmw (fun f units => memUnits f units uni o.o.pr) (fun f units c =>
    let r := fileOf f units uni c
    some (size, { kind := .red, fn := fn, q := q, ea := eaPlain r o, size := size, sets := 16,
                  data := (getS r o.o.b.toNat).setWidth 128, nu := o.nu, pol := o.pol }))
    (fun s f units idle l => issueOn uni 8 s f units idle (markGroup s f uni l)) s

/-- Wrapping add. -/
def execRedAdd (o : OpM) (s : State) : Out := redInstr (.redAdd o) o 0 s
/-- Minimum. -/
def execRedMin (o : OpM) (s : State) : Out := redInstr (.redMin o) o 1 s
/-- Maximum. -/
def execRedMax (o : OpM) (s : State) : Out := redInstr (.redMax o) o 2 s
/-- And. -/
def execRedAnd (o : OpM) (s : State) : Out := redInstr (.redAnd o) o 3 s
/-- Or. -/
def execRedOr (o : OpM) (s : State) : Out := redInstr (.redOr o) o 4 s
/-- Xor. -/
def execRedXor (o : OpM) (s : State) : Out := redInstr (.redXor o) o 5 s
/-- FP32 minimum. -/
def execRedFmin (o : OpM) (s : State) : Out := redInstr (.redFmin o) o 6 s
/-- FP32 maximum. -/
def execRedFmax (o : OpM) (s : State) : Out := redInstr (.redFmax o) o 7 s

/-! ### Invalidations (R231) -/

/-- Whether a range of a translation meets a range of an invalidation. -/
def rangesMeet (a n b m : Nat) : Bool := a < b + m && b < a + n
/-- Remove the cached translations of a range, and record the invalidation until it is complete (R231, R234). -/
def startInval (s : State) (v : Nat) (host : Bool) (va size : Nat) (driver : Bool)
    (core : Option (Nat × Nat × Nat)) : State :=
  let (n, s) := newId s
  let hit (e : TEntry) : Bool := e.tenant == v && e.host == host && rangesMeet e.va e.size va size
  let inv : Inval := { id := n, fn := v, host := host, va := va, size := size, driver := driver, core := core }
  setXlat s { s.xlat with entries := s.xlat.entries.filter fun e => !(hit e)
                          invals := s.xlat.invals ++ [inv] }
/-- Whether every access that translated through what an invalidation removed has drained, an engine's posted writes among them
(R231). -/
def drained (s : State) (v : Inval) : Bool :=
  let hit (tenant : Nat) (a : Acc) : Bool := a.page.any fun p =>
    tenant == v.fn && a.id ≤ v.id && p.1 == v.host && rangesMeet p.2.1 p.2.2 v.va v.size
  (s.pcores.all fun p => p.accs.all fun a => !(hit a.tenant a) || (a.performed && !(countsLoad a))) &&
    s.eng.cmds.all fun m => m.outs.all fun w => !(hit m.tenant w.acc)

/-! ### XLAT (R244) -/

/-- The access kind that q names. -/
def wantOfQ (q : Nat) : Want := match q with
  | 0 => .rd
  | 1 => .wr
  | 2 => .ex
  | _ => .rmw
/-- The size code of a leaf. -/
def sizeCode (size : Nat) : Nat := if size == 2 ^ 16 then 0 else if size == 2 ^ 21 then 1 else 2
/-- The result word of a translation: the leaf or none, the address, the size code, the home mode and the fault code. -/
def xlatWord (l : Leaf) (pa sz hm flt : Nat) (v : Bool) : Word :=
  let bit (b : Bool) (n : Nat) : Nat := if b then 2 ^ n else 0
  BitVec.ofNat 64 ((if v then pa / 4096 * 4096 else 0) + sz * 2 ^ 10 + hm * 2 ^ 8 + flt * 2 ^ 4 + bit l.x 3 + bit l.w 2 +
    bit l.r 1 + bit v 0)
/-- The result of a device translation; for a failed permission the page's fields stand (log 16, DEDUCED). -/
def xlatDevice (s : State) (c v va : Nat) (want : Want) : Word :=
  match (deviceLeaf s c v va false).2 with
  | .error e => xlatWord {} 0 0 0 (if e == 0x08 then 1 else 2) false
  | .ok l => xlatWord l (paIn l va) (sizeCode l.size) l.hm (if grants l want then 0 else 3) (grants l want)
/-- The result of a host translation by a leaf. -/
def xlatHost (l : Leaf) (va : Nat) (want : Want) : Word :=
  xlatWord l (paIn l va) 3 0 (if grants l want then 0 else if want == .ex then 3 else 4) (grants l want)
/-- The check of XLAT on a core: the space and the reserved bits; then `more`. -/
def xlatCheck (s : State) (f : Firing) (c : Core) (ea : Word) (more : State → State × Chk) : State × Chk :=
  let sp := spaceOf ea
  if (sp == 0 || (sp == 1 && accepted s f.tenant 3)) && vaClean ea then more s
  else (s, .trap { core := c.idx, cause := 0x04, addr := ea })
/-- The host leaf that a probe or touch of a core uses: cached, or as a probe's own completion. -/
def probeLeaf (s : State) (f : Firing) (c : Core) (va : Nat) : Option Leaf :=
  (hostLeaf s (sectorOf f.clus) f.tenant va).or
    ((s.xlat.probed.find? fun e => e.1 == .core f.clus c.idx && e.2.va ≤ va && va < e.2.va + e.2.size).map fun e =>
      { va := e.2.va, size := e.2.size, pa := e.2.pa, r := e.2.r, w := e.2.w })
/-- Write a result word per core and go on; the core's own probe completions are used up. -/
def xlatFinish (uni : Bool) (o : OpM) (val : State → Firing → Core → Word → Word) (s : State) (f : Firing)
    (units : List Core) (idle : Nat) (l : List (Core × Acc)) : Out :=
  let go (f : Firing) (e : Core × Acc) : Firing :=
    let w := val s f e.1 e.2.ea
    if uni then putUniOf f e.1.idx fun u => setG u o.o.d.toNat w else updCore f e.1.idx fun c => setX c o.o.d.toNat w
  let mine (p : Party) : Bool := l.any fun e => p == .core f.clus e.1.idx
  let s' := setXlat s { s.xlat with probed := s.xlat.probed.filter fun e => !(mine e.1) }
  .next (putFiring (tickIdle s' f (idle + l.length)) (advance (l.foldl go f) units 8))
/-- Ask for a translation that is not cached on behalf of a probe: a Translation Request of its own (R244). -/
def askProbe (s : State) (f : Firing) (c : Core) (page : Nat) : State × Nat :=
  let (n, s) := newId s
  let r : PageReq := { id := n, fn := f.tenant, sec := sectorOf f.clus, page := page, phase := 4, since := s.clk,
                       probers := [.core f.clus c.idx] }
  (setXlat s { s.xlat with reqs := s.xlat.reqs ++ [r] }, n)
/-- Let the cores that have no host leaf wait for a probe's completion. -/
def waitProbes (s : State) (f : Firing) (l : List (Core × Acc)) : State :=
  let go (st : State × Firing) (e : Core × Acc) : State × Firing :=
    if spaceOf e.2.ea == 1 && (probeLeaf st.1 f e.1 (vaOf e.2.ea)).isNone then
      let (s, n) := askProbe st.1 f e.1 (vaOf e.2.ea / 4096)
      (s, updCore st.2 e.1.idx fun c => { c with busy := .page n })
    else st
  let r := l.foldl go (s, f)
  putFiring r.1 r.2
/-- The result of XLAT on a core. -/
def xlatValue (q : Nat) (s : State) (f : Firing) (c : Core) (ea : Word) : Word :=
  if spaceOf ea == 0 then xlatDevice s f.clus f.tenant (vaOf ea) (wantOfQ q)
  else xlatHost ((probeLeaf s f c (vaOf ea)).getD {}) (vaOf ea) (wantOfQ q)

/-- `xlat.probe`: translates without trapping, asking for a page or filling a cache. -/
def execXlatProbe (o : OpM) (s : State) : Out :=
  let uni := k1 o.o
  memShape (siteOf (.xlatProbe o)) uni none (fun f units => memUnits f units uni o.o.pr) (fun f units c =>
    let ea := eaPlain (fileOf f units uni c) o
    some fun s => xlatCheck s f c ea fun s => (s, .ok { ea := ea })) (fun s f units idle l =>
    if l.any fun e => spaceOf e.2.ea == 1 && (probeLeaf s f e.1 (vaOf e.2.ea)).isNone then .next (waitProbes s f l)
    else xlatFinish uni o (xlatValue o.o.q.toNat) s f units idle l) s
/-- `xlat.touch`: translates as an access of the kind would, with its waits, requests and traps. -/
def execXlatTouch (o : OpM) (s : State) : Out :=
  let uni := k1 o.o
  let want := wantOfQ o.o.q.toNat
  memShape (siteOf (.xlatTouch o)) uni none (fun f units => memUnits f units uni o.o.pr) (fun f units c =>
    let ea := eaPlain (fileOf f units uni c) o
    some fun s => xlatCheck s f c ea fun s =>
      let trap (s : State) (cause : Nat) : State × Chk := (s, .trap { core := c.idx, cause := cause, addr := ea })
      if spaceOf ea == 1 && want == .ex && (hostLeaf s (sectorOf f.clus) f.tenant (vaOf ea)).isSome then trap s 0x0A
      else
        match locateFor s f c.idx ea 1 want with
        | (s, .cause k) => trap s k
        | (s, .ask p cached) => (s, .page p cached want)
        | (s, .ok _) => (s, .ok { ea := ea })) (xlatFinish uni o (xlatValue o.o.q.toNat)) s
/-- `xlat.inv`: the supervisor handler's; the page is invalidated, and the access counts until that is complete. -/
def execXlatInv (o : OpM) (s : State) : Out :=
  let uni := k1 o.o
  memShape (siteOf (.xlatInv o)) uni (some false) (fun f units => memUnits f units uni o.o.pr) (fun f units c =>
    let ea := eaPlain (fileOf f units uni c) o
    some fun s => xlatCheck s f c ea fun s =>
      if isHandler s f then (s, .ok { kind := .xlatInv, ea := ea, space := spaceOf ea })
      else (s, .trap { core := c.idx, cause := 0x03, addr := ea })) (fun s f units idle l =>
    let go (s : State) (e : Core × Acc) : State :=
      let (s, a) := stampAcc s f units uni e.1 e.2
      let s := pushAcc s f.clus e.1.idx a
      startInval s f.tenant (spaceOf a.ea == 1) (vaOf a.ea) 1 false (some (f.clus, e.1.idx, a.id))
    .next (putFiring (tickIdle (l.foldl go s) f idle) (advance f units 8))) s

end Sys2Proof.Machine
end

