-- ==== Sys2Proof/Machine/Caching.lean ====
section
/-! DEFINITION. CACHE, RCLK and PIN (R217, R221 to R223). -/

namespace Sys2Proof.Machine

/-! ### CACHE (R221) -/

/-- The check of CACHE on a core: SPACE, else the place in the access, or `performed` for a no-op where the address would
fault as a read. A host address that is not cached is asked for first (log 40, DEDUCED). -/
def cacheCheck (s : State) (f : Firing) (c : Core) (a : Acc) : State × Chk :=
  xlatCheck s f c a.ea fun s =>
    match locate s f c.idx a.ea 1 .rd with
    | (s, .ok p) => (s, .ok { a with space := spaceOf a.ea, key := p.key / 256 * 256, home := p.home, page := p.page })
    | (s, .ask p false) => (s, .page p false .rd)
    | (s, _) => (s, .ok { a with performed := true })
/-- The request of a CACHE access of its slice: the whole line. -/
def lineReq (a : Acc) : L2Req :=
  { tenant := a.tenant, slice := a.home, line := lineOf a.key, secs := 0xF, nu := a.nu.toNat, dflt := a.dfl.toNat,
    clk := a.clk, c := a.tick }
/-- Fill a core's L1 with a line of space 0x0: its read timestamp reaches the core's (R251). -/
def fillL1 (s : State) (c i : Nat) (a : Acc) : State :=
  let line := lineOf a.key
  let s := recallLine s line
  let p := pcoreAt s c i
  let (w, r) := stampOf s line
  let r := max r p.pts
  let s := setStamp s line w r
  let l := leaseLine s line w r
  putPcore s { p with leases := putWhere (fun k => k.line == line) l p.leases }
/-- CACHE: what `eff` does for each core whose address translates; a fetch whose set holds only window ways waits (R220). -/
def cacheInstr (i : Instr) (o : OpM) (fn : Nat) (eff : State → Firing → Core → Acc → State) (s : State) : Out :=
  let uni := k1 o.o
  memShape (siteOf i) uni (if 3 ≤ fn then some false else none) (fun f units => memUnits f units uni o.o.pr) (fun f units c =>
    some fun s => cacheCheck s f c
      { kind := .cache, fn := fn, ea := eaPlain (fileOf f units uni c) o, size := 256, nu := o.nu })
    (fun s f units idle l =>
      let waits (e : Core × Acc) : Bool := fn < 2 && !e.2.performed && setBlocked s (lineReq e.2)
      let go (s : State) (e : Core × Acc) : State :=
        let (s, a) := stampAcc s f units uni e.1 e.2
        if a.performed then s else eff s f e.1 a
      if l.any waits then .next s
      else .next (putFiring (tickIdle (l.foldl go s) f idle) (advance f units 8))) s

/-- `cache.pf`: fetches the line's missing sectors and applies nu. -/
def execCachePf (o : OpM) (s : State) : Out :=
  cacheInstr (.cachePf o) o 0 (fun s _ _ a => (l2Access s (lineReq a)).1) s
/-- `cache.pfl1`: and fills the core's L1, but for host and alias lines. -/
def execCachePfl1 (o : OpM) (s : State) : Out :=
  cacheInstr (.cachePfl1 o) o 1 (fun s f c a =>
    let s := (l2Access s (lineReq a)).1
    if a.space == 0 && !(isAlias a.key) then fillL1 s f.clus c.idx a else s) s
/-- `cache.nu`: applies nu as an owner hit. -/
def execCacheNu (o : OpM) (s : State) : Out := cacheInstr (.cacheNu o) o 2 (fun s _ _ a => l2Nu s (lineReq a)) s
/-- `cache.wb`: counts against `ocst` until the write-back has performed. -/
def execCacheWb (o : OpM) (s : State) : Out :=
  cacheInstr (.cacheWb o) o 3 (fun s f c a => pushAcc s f.clus c.idx a) s
/-- `cache.wbinv`: and invalidates the line. -/
def execCacheWbinv (o : OpM) (s : State) : Out :=
  cacheInstr (.cacheWbinv o) o 4 (fun s f c a => pushAcc s f.clus c.idx a) s

/-! ### RCLK (R222) -/

/-- `rclk.read`: d := the firing's clock. -/
def execRclkRead (o : OpX) (s : State) : Out :=
  fileInstr (siteOf (.rclkRead o)) (k1 o.o) o.o.pr (fun s f r =>
    .ok (setS r o.o.d.toNat ((clockVal s (clockOf s f)).setWidth 64))) s
/-- `rclk.adv`: the clock advances in one step, once for each core that executes it. -/
def execRclkAdv (o : OpX) (s : State) : Out :=
  withFiring (siteOf (.rclkAdv o)) s fun s f units =>
    let n := (memUnits f units (k1 o.o) o.o.pr).length
    let s := (List.range n).foldl (fun s _ => tickClock s (clockOf s f) o.imm) s
    .next (putFiring s (advance f units 8))
/-- `rclk.dflt`: the executing core's default class for a space. -/
def execRclkDflt (o : OpX) (s : State) : Out :=
  fileInstr (siteOf (.rclkDflt o)) false o.o.pr (fun _ _ r =>
    let v : BitVec 5 := o.imm.setWidth 5
    .ok (if fieldOf o.imm.toNat 8 4 == 1 then { r with core := { r.core with dfl1 := v } }
         else { r with core := { r.core with dfl0 := v } })) s

/-! ### PIN (R217, R223) -/

/-- Fill the ways that join or leave a window, from one way number to another, with bytes that the spec leaves open (R217,
R223): free values (log 3, DESIGN CHOICE). An access that was checked against the old size meets those of a way that has
left. -/
def freeWindowWays (s : State) (v die lo hi : Nat) : State :=
  let slices := (dieClusters (tenantOf s v) die).flatMap fun c => (List.range 8).map fun i => c * 8 + i
  let go (s : State) (slice : Nat) : State :=
    (rangeFrom lo (hi - lo)).foldl (init := s) fun s way =>
      let (s, bytes) := freeBytes (forgetLost s slice way) 3072
      setMem s (memWriteBytes s.mem (wayKey slice way 0 0) bytes)
  slices.foldl go s
/-- Resize the window of a tenant on a die: lines in the ways that join it are written back and invalidated. -/
def resizeWindow (s : State) (v die new : Nat) : State :=
  let t := tenantOf s v
  let old := windowWays t die
  let top := 15 - qWofs t
  let t' := { t with windows := t.windows.set die new }
  if old < new then
    let lo := top + 1 - new
    let hi := top + 1 - old
    let mine (l : Line) : Bool :=
      l.slice / 2048 == die && t.clmask.getLsbD (sliceCluster l.slice) && lo ≤ l.way && l.way < hi
    freeWindowWays (putTenant (dropLines s mine) v t') v die lo hi
  else freeWindowWays (putTenant s v t') v die (top + 1 - old) (top + 1 - new)
/-- The check of PIN on a core: a space-0x8 pointer with offset 0 (R223). -/
def pinCheck (s : State) (c : Core) (ea : Word) : State × Chk :=
  if spaceOf ea == 8 && pointerClean ea && fieldOf ea.toNat 0 26 == 0 then (s, .ok { kind := .pin, ea := ea })
  else (s, .trap { core := c.idx, cause := 0x04, addr := ea })
/-- PIN: on each core in ascending order a value for d, with a change of the state. -/
def pinInstr (i : Instr) (o : OpM) (cnt : Option Bool) (eff : State → Firing → RFile → Nat → State × Word) (s : State) : Out :=
  let uni := k1 o.o
  memShape (siteOf i) uni cnt (fun f units => memUnits f units uni o.o.pr) (fun f units c =>
    some fun s => pinCheck s c (eaPlain (fileOf f units uni c) o)) (fun s f units idle l =>
    let go (st : State × Firing) (e : Core × Acc) : State × Firing :=
      let (s, w) := eff st.1 f (fileOf f units uni e.1) (fieldOf e.2.ea.toNat 26 2)
      let f' := if uni then putUniOf st.2 e.1.idx fun u => setG u o.o.d.toNat w
        else updCore st.2 e.1.idx fun c => setX c o.o.d.toNat w
      (s, f')
    let r := l.foldl go (s, f)
    .next (putFiring (tickIdle r.1 f (idle + l.length)) (advance r.2 units 8))) s

/-- `pin.win`: resizes the window to at most the quota and the share, and answers what it granted. -/
def execPinWin (o : OpM) (s : State) : Out :=
  pinInstr (.pinWin o) o (some false) (fun s f r die =>
    let t := tenantOf s f.tenant
    let want := (getS r o.o.b.toNat).toNat
    let new := if (dieClusters t die).isEmpty then 0 else min want (min (qWindow t) (qShare t))
    (resizeWindow s f.tenant die new, BitVec.ofNat 64 new)) s
/-- `pin.size`: the window's ways. -/
def execPinSize (o : OpM) (s : State) : Out :=
  pinInstr (.pinSize o) o none (fun s f _ die => (s, BitVec.ofNat 64 (windowWays (tenantOf s f.tenant) die))) s

end Sys2Proof.Machine
end

