-- ==== Sys2Proof/Machine/LoadStore.lean ====
section
/-! DEFINITION. LD, ST, VLD, VST, LDF, STE and FE (R194 to R198). -/

namespace Sys2Proof.Machine

/-! ### LD and ST (R197) -/

/-- A scalar load of a size. -/
def loadScalar (i : Instr) (o : OpM) (size : Nat) (sext : Bool) (s : State) : Out :=
  let uni := k1 o.o
  memInstr (siteOf i) uni .scalar .rd (fun f units => memUnits f units uni o.o.pr) (fun f units c =>
    some (size, { kind := .load, ea := eaIndexed (fileOf f units uni c) o, size := size, sext := sext, sets := 1,
                  dest := destOf uni o.o.d, nu := o.nu, pol := o.pol })) (issueOn uni 8) s
/-- A scalar store of a size. -/
def storeScalar (i : Instr) (o : OpM) (size : Nat) (s : State) : Out :=
  let uni := k1 o.o
  memInstr (siteOf i) uni .scalar .wr (fun f units => memUnits f units uni o.o.pr) (fun f units c =>
    let r := fileOf f units uni c
    some (size, { kind := .store, ea := eaIndexed r o, size := size, sets := 2, data := (getS r o.o.d.toNat).setWidth 128,
                  bytes := BitVec.ofNat 16 (2 ^ size - 1), nu := o.nu, pol := o.pol })) (issueOn uni 8) s

/-- Zero-extended byte. -/
def execLdB (o : OpM) (s : State) : Out := loadScalar (.ldB o) o 1 false s
/-- Zero-extended 16 bits. -/
def execLdH (o : OpM) (s : State) : Out := loadScalar (.ldH o) o 2 false s
/-- Zero-extended 32 bits. -/
def execLdW (o : OpM) (s : State) : Out := loadScalar (.ldW o) o 4 false s
/-- 64 bits. -/
def execLdD (o : OpM) (s : State) : Out := loadScalar (.ldD o) o 8 false s
/-- Sign-extended byte. -/
def execLdBs (o : OpM) (s : State) : Out := loadScalar (.ldBs o) o 1 true s
/-- Sign-extended 16 bits. -/
def execLdHs (o : OpM) (s : State) : Out := loadScalar (.ldHs o) o 2 true s
/-- Sign-extended 32 bits. -/
def execLdWs (o : OpM) (s : State) : Out := loadScalar (.ldWs o) o 4 true s
/-- d[7:0]. -/
def execStB (o : OpM) (s : State) : Out := storeScalar (.stB o) o 1 s
/-- d[15:0]. -/
def execStH (o : OpM) (s : State) : Out := storeScalar (.stH o) o 2 s
/-- d[31:0]. -/
def execStW (o : OpM) (s : State) : Out := storeScalar (.stW o) o 4 s
/-- d[63:0]. -/
def execStD (o : OpM) (s : State) : Out := storeScalar (.stD o) o 8 s

/-! ### VLD and VST (R198) -/

/-- Whether an address lies in a lane slice, where the `v` forms act per lane. -/
def laneForm (ea : Word) : Bool := spaceOf ea == 7
/-- The bytes of the active elements of a core. -/
def vecMask (o : OpM) (c : Core) : BitVec 16 := activeBytes (getPr c o.o.pr.toNat) (qWidth o.o.q)

/-- A VLD to a link on a core with no active element makes no access, and pushes one word of zeros (R143); none where the
link has no room, or an earlier load has still to push it. -/
def pushIdle (o : OpM) (s : State) (f : Firing) (units : List Core) : Option Firing :=
  let r := o.o.d.toNat
  if r < 30 then some f
  else (units.filter fun c => vecMask o c == 0).foldlM (init := f) fun f c =>
    if (accsOf s f c).any fun a => match a.dest with
      | .vec q _ _ _ => q == r
      | _ => false
    then none else pushLink f c.idx r 0
/-- Issue the accesses of a VLD. -/
def issueVld (o : OpM) (s : State) (f : Firing) (units : List Core) (idle : Nat) (l : List (Core × Acc)) : Out :=
  match pushIdle o s f units with
  | none => .next s
  | some f => issueOn false 8 s f units idle l
/-- `vld.v`: the active bytes of d := 16 bytes. -/
def execVldV (o : OpM) (s : State) : Out :=
  memInstr (siteOf (.vldV o)) false .vec .rd (fun _ units => units) (fun f units c =>
    let ea := eaIndexed (fileOf f units false c) o
    if vecMask o c == 0 then none
    else some (16, { kind := .load, ea := ea, size := 16, lanes := laneForm ea, sets := 1,
                     dest := .vec o.o.d.toNat 16 false (vecMask o c), nu := o.nu, pol := o.pol })) (issueVld o) s
/-- `vld.bc`: every active element of d := one element. -/
def execVldBc (o : OpM) (s : State) : Out :=
  let w := qWidth o.o.q / 8
  memInstr (siteOf (.vldBc o)) false .vec .rd (fun _ units => units) (fun f units c =>
    if vecMask o c == 0 then none
    else some (w, { kind := .load, ea := eaIndexed (fileOf f units false c) o, size := w, sets := 1,
                    dest := .vec o.o.d.toNat w true (vecMask o c), nu := o.nu, pol := o.pol })) (issueVld o) s

/-- The source of a VST on a core, with what it pops (R60). -/
def vstSource (o : OpM) (c : Core) : Vec :=
  if o.o.d == 30 then c.lw.head?.getD 0 else if o.o.d == 31 then c.le.head?.getD 0 else vget c.v o.o.d.toNat 0
/-- A VST: stalls while a link that it pops is empty, and pops it as it issues. -/
def storeVec (i : Instr) (o : OpM) (size : Nat) (mask : Core → BitVec 16) (s : State) : Out :=
  let lw := o.o.d == 30
  let le := o.o.d == 31
  memInstr (siteOf i) false .vec .wr (fun _ units => units) (fun f units c =>
    let ea := eaIndexed (fileOf f units false c) o
    if mask c == 0 then none
    else some (size, { kind := .store, ea := ea, size := size, lanes := size == 16 && laneForm ea, sets := 2,
                       data := vstSource o c, bytes := mask c, nu := o.nu, pol := o.pol })) (fun s f units idle l =>
    if !(units.all (popReady lw le)) then .next s
    else issueOn false 8 s (putCores f (units.map (popCore lw le))) units idle l) s
/-- `vst.v`: the active bytes of d to the 16 bytes at the address. -/
def execVstV (o : OpM) (s : State) : Out := storeVec (.vstV o) o 16 (vecMask o) s
/-- `vst.e`: element 0 of d, where it is active. -/
def execVstE (o : OpM) (s : State) : Out :=
  let w := qWidth o.o.q / 8
  storeVec (.vstE o) o w (fun c => if active (getPr c o.o.pr.toNat) (8 * w) 0 then BitVec.ofNat 16 (2 ^ w - 1) else 0) s

/-! ### LDF and STE (R195) -/

/-- Whether a word is full (R194). -/
def isFull (s : State) (key : Nat) : Bool := s.full.contains key
/-- Set or clear a word's bit. -/
def putBit (s : State) (key : Nat) (full : Bool) : State :=
  setFull s (if full then insertNat key s.full else s.full.filter fun k => k != key)
/-- Whether the bit of its word lets an LDF or STE perform. -/
def bitReady (s : State) (a : Acc) : Bool := isFull s a.key == (a.kind == .ldf)
/-- The act at the bank: the word moves and the bit changes. -/
def bankMove (s : State) (c i : Nat) (a : Acc) : State × Acc :=
  if a.kind == .ldf then
    let a := { a with val := vecOf (memReadBytes s.mem a.key 8), performed := true }
    let s := acquireRead s c i a
    (if a.fn == 1 then putBit s a.key false else s, a)
  else
    let rel := releaseUnit s c i a
    let s := setMem s (memWriteN s.mem a.key 8 (a.data.toNat % 2 ^ 64))
    let s := afterWrite s c i a a.key rel
    (if a.fn == 0 then putBit s a.key true else s, { a with performed := true })
/-- An access of a waiting operation. -/
def waiterAcc (s : State) (w : FeWaiter) : Option Acc := accAt s w.c w.i w.acc
/-- Whether an operation of the same kind already waits on a word. -/
def queuedOn (l : List FeWaiter) (s : State) (a : Acc) : Bool :=
  l.any fun w => match waiterAcc s w with
    | some b => b.key == a.key && b.kind == a.kind
    | none => false
/-- LDF and STE: the operation performs at once, or waits at the bank, or first waits for what orders it. -/
def wordAct (uni : Bool) (s : State) (f : Firing) (units : List Core) (l : List (Core × Acc)) : Out :=
  match l with
  | [] => .next (putFiring s (advance f units 8))
  | (c, a) :: _ =>
    let (s', a) := stampAcc s f units uni c a
    if !(mayPerform s' f.clus c.idx a) || !(clashes s' f.clus c.idx a).isEmpty || !(coversDone s' f.clus c.idx a) then
      .next s
    else if bitReady s' a && !(queuedOn s'.waiters s' a) then
      let (s, a) := bankMove s' f.clus c.idx a
      match writeDest f c.idx a with
      | some f => .next (putFiring s (advance f units 8))
      | none => .next s
    else
      let s := pushAcc s' f.clus c.idx a
      let s := setWaiters s (s.waiters ++ [{ c := f.clus, i := c.idx, acc := a.id }])
      .next (putFiring s (putCores f (units.map fun k => { k with busy := .reply a.id })))
/-- LDF or STE; with k = 0 in a fused gang wider than 1 it traps GANG (log 33, DEDUCED). -/
def wordInstr (i : Instr) (o : OpM) (kind : AccKind) (fn : Nat) (s : State) : Out :=
  let uni := k1 o.o
  let mk (f : Firing) (units : List Core) (c : Core) : Acc :=
    let r := fileOf f units uni c
    { kind := kind, fn := fn, ea := eaIndexed r o, size := 8, sets := if kind == .ldf then 1 else 2,
      dest := if kind == .ldf then destOf uni o.o.d else .none,
      data := if kind == .ldf then 0 else (getS r o.o.d.toNat).setWidth 128 }
  withFiring (siteOf i) s fun s f units =>
    match memUnits f units uni o.o.pr with
    | c :: _ =>
      if !uni && 1 < units.length then
        trapAt s f { core := c.idx, cause := 0x0F, addr := (mk f units c).ea } (siteOf i)
      else
        memInstr (siteOf i) uni .word (if kind == .ldf then .rd else .wr) (fun f units => memUnits f units uni o.o.pr)
          (fun f units c => some (8, mk f units c)) (fun s f units _ l => wordAct uni s f units l) s
    | [] => .next (putFiring s (advance f units 8))

/-- `ldf.keep`: waits for a full word and reads it. -/
def execLdfKeep (o : OpM) (s : State) : Out := wordInstr (.ldfKeep o) o .ldf 0 s
/-- `ldf.take`: and leaves it empty. -/
def execLdfTake (o : OpM) (s : State) : Out := wordInstr (.ldfTake o) o .ldf 1 s
/-- `ste.fill`: waits for an empty word, writes it and leaves it full. -/
def execSteFill (o : OpM) (s : State) : Out := wordInstr (.steFill o) o .ste 0 s
/-- `ste.keep`: and leaves it empty. -/
def execSteKeep (o : OpM) (s : State) : Out := wordInstr (.steKeep o) o .ste 1 s

/-! ### FE (R196) -/

/-- The access that FE makes to a word. -/
def feAcc (fn : Nat) (uni : Bool) (o : OpA) (pred : Bool) (ea : Word) : Acc :=
  { kind := .fe, fn := fn, ea := ea, size := 8, sets := if fn == 0 then 1 else if fn == 3 then 3 else 2,
    pred := if pred then o.d.toNat else 0, predGp := uni }
/-- Whether the act of FE on a word may be made now. -/
def feReady (s : State) (f : Firing) (units : List Core) (uni : Bool) (e : Core × Acc) : Bool :=
  let (s, a) := stampAcc s f units uni e.1 e.2
  mayPerform s f.clus e.1.idx a && (clashes s f.clus e.1.idx a).isEmpty && coversDone s f.clus e.1.idx a
/-- The act of FE on one word at its bank: `change` gives the new bit, if any, and a predicate takes the old one. Every
function that changes a bit counts as one that sets a bit (log 104, DEDUCED). -/
def feAct (units : List Core) (uni pred : Bool) (change : Option Bool) (st : State × Firing) (e : Core × Acc) :
    State × Firing :=
  let (s, a) := stampAcc st.1 st.2 units uni e.1 e.2
  let c := st.2.clus
  let i := e.1.idx
  let a := { a with flag := isFull s a.key }
  let s := if !pred then s
    else if a.flag then acquireRead s c i a
    else noteSeen s c i a s.dir s.acq
  let rel := releaseUnit s c i a
  let s := match change with
    | some b => afterWrite (putBit s a.key b) c i a a.key rel
    | none => s
  (s, (writeDest st.2 i a).getD st.2)
/-- FE on one word: each core in ascending order tests or changes its bit at the bank. -/
def feInstr (i : Instr) (o : OpA) (fn : Nat) (pred : Bool) (change : Option Bool) (s : State) : Out :=
  let uni := k1 o
  memInstr (siteOf i) uni .word .wr (fun f units => memUnits f units uni o.pr) (fun f units c =>
    some (8, feAcc fn uni o pred (getS (fileOf f units uni c) o.a.toNat))) (fun s f units _ l =>
    if !(l.all (feReady s f units uni)) then .next s
    else
      let r := l.foldl (feAct units uni pred change) (s, f)
      .next (putFiring r.1 (advance r.2 units 4))) s
/-- The words of a range that a core of an `fe.setr` or `fe.clrr` has still to change: the key of the next one. -/
def nextFeWord (c : Core) : Option Nat := match c.busy with
  | .words key done n => if done < n then some (key + 8 * done) else none
  | _ => none
/-- One act of a range: the lowest core that has words left changes its next one, or waits for it; each word changes
indivisibly, and the range does not change in one act (R196). After the last word the cores go on. -/
def feRange (o : OpA) (fn : Nat) (b : Bool) (s : State) (f : Firing) (units : List Core) : Out :=
  let uni := k1 o
  let past (f : Firing) : Firing :=
    advance (putCores f ((f.cores.filter fun k => units.any fun u => u.idx == k.idx).map fun k => { k with busy := .none })) units 4
  let mine := f.cores.filter fun k => units.any fun u => u.idx == k.idx
  match mine.findSome? fun k => (nextFeWord k).map fun w => (k, w) with
  | none => .next (putFiring s (past f))
  | some (k, w) =>
    let e : Core × Acc := (k, { feAcc fn uni o false (getS (fileOf f units uni k) o.a.toNat) with
      space := spaceOf (getS (fileOf f units uni k) o.a.toNat), key := w })
    if !(feReady s f units uni e) then .next s
    else
      let r := feAct units uni false (some b) (s, f) e
      let step (c : Core) : Core := match c.busy with
        | .words key done n => { c with busy := .words key (done + 1) n }
        | _ => c
      let f := updCore r.2 k.idx step
      let left := f.cores.any fun c => (units.any fun u => u.idx == c.idx) && (nextFeWord c).isSome
      .next (putFiring r.1 (if left then f else past f))
/-- FE on a range: the whole of it is checked at once, and then its words change one after the other. -/
def feSpan (i : Instr) (o : OpA) (fn : Nat) (b : Bool) (s : State) : Out :=
  let uni := k1 o
  let count (f : Firing) (units : List Core) (c : Core) : Nat := (getS (fileOf f units uni c) o.b.toNat).toNat
  let goes (k : Core) : Bool := match k.busy with
    | .words _ _ _ => true
    | _ => false
  withFiring (siteOf i) s fun s f units =>
    if units.any goes then feRange o fn b s f units
    else
      memInstr (siteOf i) uni .word .wr (fun f units => memUnits f units uni o.pr) (fun f units c =>
        let n := count f units c
        some (if 4096 < n then 2 ^ 40 else 8 * max n 1, feAcc fn uni o false (getS (fileOf f units uni c) o.a.toNat)))
        (fun s f units _ l =>
          let mark (f : Firing) (e : Core × Acc) : Firing :=
            updCore f e.1.idx fun c => { c with busy := .words e.2.key 0 (count f units e.1) }
          feRange o fn b s (l.foldl mark f) units) s

/-- `fe.test`: the predicate takes the bit. -/
def execFeTest (o : OpA) (s : State) : Out := feInstr (.feTest o) o 0 true none s
/-- `fe.set`: the word becomes full. -/
def execFeSet (o : OpA) (s : State) : Out := feInstr (.feSet o) o 1 false (some true) s
/-- `fe.clr`: the word becomes empty. -/
def execFeClr (o : OpA) (s : State) : Out := feInstr (.feClr o) o 2 false (some false) s
/-- `fe.tas`: the predicate takes the old bit, and the word becomes full. -/
def execFeTas (o : OpA) (s : State) : Out := feInstr (.feTas o) o 3 true (some true) s
/-- `fe.setr`: x_b consecutive words become full. -/
def execFeSetr (o : OpA) (s : State) : Out := feSpan (.feSetr o) o 4 true s
/-- `fe.clrr`: x_b consecutive words become empty. -/
def execFeClrr (o : OpA) (s : State) : Out := feSpan (.feClrr o) o 5 false s

end Sys2Proof.Machine
end

