-- ==== Sys2Proof/Machine/Order.lean ====
section
/-! DEFINITION. FENCE, the moves that perform accesses and return their values, and the fabric's packets and flush markers
(R194, R199, R235, R236, R243, R249 to R259, R263, R264). -/

namespace Sys2Proof.Machine

/-- An event whose condition does not hold (log 11, DESIGN CHOICE). -/
def notEnabled (row : String) : Out := .refused (.notEnabled row)

/-! ### FENCE (R255, R264, R265) -/

/-- What the messages that a firing has popped a word of release, sent by a commit, by a publication or by the part with a
record: for each the accesses that it covers, and the timestamp that it carries (R265, R274, R303). -/
def sendersOf (s : State) (f : Firing) : List (List Nat × Nat) :=
  match instOf s f.inst with
  | none => []
  | some x => ((directQueue s x).filter fun m => 0 < m.pop).map fun m => (m.covers, m.ts)
/-- Ask for flush markers for the posted remote accesses of a core's order that a set covers, for each package (R264). They
go once those accesses are sent. -/
def sendMarkers (s : State) (c i : Nat) (l : List Acc) : State :=
  let posted := l.filter fun a => a.space == 2 && !a.gathered && (a.kind == .store || a.kind == .red)
  let marked (a : Acc) : Bool := s.markers.any fun m => m.accs.contains a.id
  let new := posted.filter fun a => !(marked a)
  let pkgs := (new.map fun a => fieldOf a.ea.toNat 48 12).eraseDups
  pkgs.foldl (init := s) fun s p =>
    let (n, s) := newId s
    let m : Marker :=
      { c := c, i := i, pkg := p, group := n, accs := (new.filter fun a => fieldOf a.ea.toNat 48 12 == p).map (·.id) }
    setMarkers s (s.markers ++ [m])
/-- `fence.ord`: an entry in the order of each core that executes it (log 36, DEDUCED). -/
def execFenceOrd (o : OpA) (s : State) : Out :=
  let w : Site := { words := [packA o 0 0x64] }
  withFiring w s fun s f units =>
    let act := units.filter fun c => (getPr c o.pr.toNat).getLsbD 0
    let go (s : State) (c : Core) : State :=
      let (n, s) := newId s
      let e : Acc :=
        { id := n, firing := f.id, launch := f.launch, tenant := f.tenant, kind := .fence, pset := o.a, sset := o.b,
          scope := o.q.toNat, home := f.clus * 8 + f.lead, width := f.cores.length, senders := sendersOf s f,
          fn := f.staged.length }
      let s := pushAcc s f.clus c.idx e
      if 6 ≤ o.q.toNat then
        sendMarkers s f.clus c.idx (((before s f.clus c.idx e).map (·.2)).filter fun a => a.sets &&& o.a != 0)
      else s
    let s := if o.a == 0 || o.b == 0 then s else sweep (act.foldl go s)
    .next (putFiring s (advance f units 4))

/-! ### Stores, reductions and write-backs perform (R199, R251, R253) -/

/-- A trap that an access brings after its issue, with the words and the address of its instruction (R219, R236). Where its
firing has ended, the access goes and nothing is trapped. -/
def lateTrap (s : State) (c i : Nat) (a : Acc) (cause sub : Nat) : Out :=
  let s := dropAcc s c i a.id
  match firingOf s a.firing with
  | none => .next (sweep s)
  | some f =>
    let t : TrapInfo := { core := i, cause := cause, sub := sub, addr := a.ea, pc := some a.pc }
    .next (sweep (trapFiring s f t (a.words.head?.getD 0) (a.words[1]?.getD 0)))
/-- Whether an access that reads at its home meets a poisoned sector or a lost window line (R217, R219). -/
def meetsPoison (s : State) (a : Acc) : Bool :=
  (a.space == 0 || a.space == 1 || a.space == 8) && poisoned s a.key a.size
/-- The package of a remote access. -/
def pkgOf (a : Acc) : Nat := fieldOf a.ea.toNat 48 12
/-- Send a remote access on a path to its package (R263). -/
def sendPacket (s : State) (c i : Nat) (a : Acc) (path : Nat) : State :=
  let s := updAcc s c i a.id fun a => { a with sent := true, path := path }
  let use := (pkgOf a, path)
  let s := (coresOf i a).foldl (init := s) fun s j =>
    let p := pcoreAt s c j
    putPcore s { p with used := if p.used.contains use then p.used else p.used ++ [use] }
  sweep (pushPath s (pkgOf a) path (.acc c i a.id))
/-- Whether a remote access may be sent: nothing holds it. -/
def mayLeave (s : State) (c i : Nat) (a : Acc) : Bool :=
  a.space == 2 && !a.sent && !a.performed && !(fenced s c i a) && !(owes s c i a)
/-- Send a remote access, and with it those that a gang's atomics make to its line, one behind the other (R287). -/
def sendGroup (s : State) (c i : Nat) (a : Acc) (path : Nat) : State :=
  (groupOf s c i a).foldl (fun s e => sendPacket s c e.1 e.2 path) s
/-- Whether they may all be sent. -/
def groupLeaves (s : State) (c i : Nat) (a : Acc) : Bool := (groupOf s c i a).all fun e => mayLeave s c e.1 e.2
/-- The environment's choice of the path of a remote access, one that survives (R416). -/
def routeAcc (c i id path : Nat) (s : State) : Out :=
  match accAt s c i id with
  | none => notEnabled "PATH"
  | some a => if path < 64 && pathUp s (pkgOf a) path && groupLeaves s c i a then .next (sendGroup s c i a path) else notEnabled "PATH"
/-- Whether a remote access is the oldest on its path; a load, AMO or CAS that is not sent yet may take one that carries
nothing, and so may what was sent on a path that has been removed, which is sent again (R416). With no surviving path nothing
arrives. -/
def arrives (s : State) (c i : Nat) (a : Acc) : Bool :=
  if a.sent && pathUp s (pkgOf a) a.path then pathHead s (pkgOf a) a.path == some (.acc c i a.id)
  else if a.sent then freePath s (pkgOf a)
  else a.kind != .store && a.kind != .red && freePath s (pkgOf a)

/-- Whether accesses, one after the other, are the oldest on their paths. -/
def arriveInTurn (c : Nat) : List (Nat × Acc) → State → Bool
  | [], _ => true
  | e :: es, s => arrives s c e.1 e.2 && arriveInTurn c es (popPath s (.acc c e.1 e.2.id))

/-- Perform an explicit store, reduction or write-back at its home, or enter a RED into its update copy. -/
def performExplicit (s : State) (c i : Nat) (a : Acc) : State :=
  let rel := releaseUnit s c i a
  match a.kind with
  | .cache => dropAcc (if a.fn == 3 then writeBack s (lineOf a.key) else dropLine s (lineOf a.key)) c i a.id
  | .red =>
    let s := if a.space == 0 && a.pol == 0 then redEnter s c i a else redAct s c i a
    afterWrite (dropAcc s c i a.id) c i a a.key rel
  | _ => afterWrite (dropAcc (writeBytes (placeL2 s a true) a a.bytes.toNat (vecBytes a.data)) c i a.id) c i a a.key rel
/-- EXPLICIT_STORE_PERFORM: an explicit store, a RED or a write-back leaves the queue and performs; REDs that a gang makes to
one line are served together (R287). A posted access of space 0x2 is first sent, on the lowest path that survives if no other
was chosen; with none it waits (R416). It has
performed at another package when this event says so, after what its path carries before it. -/
def execExplicitStorePerform (c core acc : Nat) (s : State) : Out :=
  match accAt s c core acc with
  | none => notEnabled "EXPLICIT_STORE_PERFORM"
  | some a =>
    let posts := (a.kind == .store || a.kind == .red) && !(coherent a)
    if !(posts || a.kind == .cache) || a.performed then notEnabled "EXPLICIT_STORE_PERFORM"
    else if a.space == 2 then
      if !a.sent then
        match if groupLeaves s c core a then firstUp s (pkgOf a) else none with
        | some j => .next (sendGroup s c core a j)
        | none => notEnabled "EXPLICIT_STORE_PERFORM"
      else if pkgOf a == s.cfg.pkgid.toNat || !(clear s c core a) || !(arrives s c core a) then
        notEnabled "EXPLICIT_STORE_PERFORM"
      else .next (sweep (updAcc (popPath s (.acc c core acc)) c core acc fun a => { a with performed := true }))
    else if !(groupClear s c core a) then notEnabled "EXPLICIT_STORE_PERFORM"
    else .next (sweep ((groupOf s c core a).foldl (fun s e => performExplicit s c e.1 e.2) s))
/-- Perform a coherent store or atomic at its home with its timestamp (R251). -/
def performCoherent (s : State) (c i : Nat) (a : Acc) : State :=
  let line := lineOf a.key
  let rel := releaseUnit s c i a
  let ts := max (ptsOf s c i a) ((stampOf s line).2 + 1)
  let s := noteWrite (setPts (setStamp s line ts ts) c i a ts) a ts
  if a.kind == .store then
    afterWrite (dropAcc (writeBytes (placeL2 s a true) a a.bytes.toNat (vecBytes a.data)) c i a.id) c i a a.key rel
  else
    let (s, b) := serveAtomic s c i a
    updAcc s c i a.id fun a => { a with performed := true, val := b.val, flag := b.flag }
/-- COHERENT_STORE_PERFORM: a coherent store or atomic performs; the atomics that a gang makes to one line are served
together, in ascending core order (R287). -/
def execCoherentStorePerform (c core acc : Nat) (s : State) : Out :=
  match accAt s c core acc with
  | none => notEnabled "COHERENT_STORE_PERFORM"
  | some a =>
    if !(coherent a) || a.kind == .load || a.performed || !(groupClear s c core a) then notEnabled "COHERENT_STORE_PERFORM"
    else if a.kind != .store && meetsPoison s a then lateTrap s c core a 0x0D 0
    else .next (sweep ((groupOf s c core a).foldl (fun s e => performCoherent s c e.1 e.2) s))

/-! ### Loads perform and return (R197, R251 to R253) -/

/-- The bytes of a queued store that a later load of the core reads: the store covers them all. -/
def forwardBytes (b a : Acc) : Option (List Byte) :=
  if b.kind == .store then
    (accKeys a).mapM fun k =>
      ((List.range b.size).find? fun j => b.bytes.getLsbD j && byteKey b j == k).map fun j =>
        BitVec.ofNat 8 (b.data.toNat / 2 ^ (8 * j))
  else none
/-- The youngest of a list of accesses. -/
def youngest : List (Nat × Acc) → Option (Nat × Acc)
  | [] => none
  | e :: rest => some (rest.foldl (fun b x => if b.2.id < x.2.id then x else b) e)
/-- EXPLICIT_LOAD_PERFORM: an explicit load reads the youngest covering queued store of its core, or its home. -/
def execExplicitLoadPerform (c core acc : Nat) (s : State) : Out :=
  match accAt s c core acc with
  | none => notEnabled "EXPLICIT_LOAD_PERFORM"
  | some a =>
    let cl := clashes s c core a
    if a.kind != .load || coherent a || a.space == 2 || a.performed || !(mayPerform s c core a) ||
        l2Blocked s a false || (cl.any fun e => e.2.kind != .store) then notEnabled "EXPLICIT_LOAD_PERFORM"
    else
      let done (s : State) (bs : List Byte) : Out :=
        .next (sweep (updAcc s c core acc fun a => { a with performed := true, val := vecOf bs }))
      match youngest cl with
      | none =>
        if meetsPoison s a then lateTrap s c core a 0x0D 0
        else
          let s := noteSeen s c core a s.dir s.acq
          let (s, bs) := readBytes (placeL2 s a false) a
          done s bs
      | some e =>
        match forwardBytes e.2 a with
        | some bs => done s bs
        | none => notEnabled "EXPLICIT_LOAD_PERFORM"
/-- A coherent load performs: from a lease that covers the core's timestamp, else at the home, which leases the line
(R251). -/
def coherentLoad (s : State) (c core lease : Nat) (a : Acc) : State × Acc :=
  let line := lineOf a.key
  let pts := ptsOf s c core a
  let l1 := a.pol == 0 || a.pol == 1
  match leaseOf s c core a with
  | some l =>
    let s := noteSeen s c core a l.rels l.acq
    (setPts s c core a (max pts l.wts + 1), { a with performed := true, val := vecOf (memReadBytes l.data a.key a.size) })
  | none =>
    let s := noteSeen s c core a s.dir s.acq
    let s := placeL2 s a false
    let (s, bs) := readBytes s a
    let (w, r) := stampOf s line
    let r := max r (pts + lease)
    let s := setPts (setStamp s line w r) c core a (max pts w + 1)
    let p := pcoreAt s c core
    let l := leaseLine s line w r
    let ls := if l1 && !(isAlias a.key) then putWhere (fun k => k.line == line) l p.leases
      else p.leases.filter fun k => k.line != line
    (putPcore s { p with leases := ls }, { a with performed := true, val := vecOf bs })
/-- Whether an earlier access of the core still has to push the same link. -/
def linkWaits (s : State) (c i : Nat) (a : Acc) : Bool :=
  match a.dest with
  | .vec r _ _ _ => 30 ≤ r && (before s c i a).any fun b => b.1 == i && match b.2.dest with
      | .vec q _ _ _ => q == r
      | _ => false
  | _ => false
/-- LOAD_DATA_RETURN: the value of a load or atomic reaches its register. A coherent load, or an atomic of host memory,
performs in this move. -/
def execLoadDataReturn (c core acc lease : Nat) (s : State) : Out :=
  match accAt s c core acc with
  | none => notEnabled "LOAD_DATA_RETURN"
  | some a =>
    let atom := a.kind == .amo || a.kind == .cas
    if !(a.kind == .load || atom) || linkWaits s c core a || (a.space == 2) then notEnabled "LOAD_DATA_RETURN"
    else
      let go (s : State) (a : Acc) : Out :=
        match deliver s c core a with
        | some s => .next (sweep s)
        | none => notEnabled "LOAD_DATA_RETURN"
      if a.performed then go s a
      else if a.kind == .load && coherent a then
        if !(clear s c core a) then notEnabled "LOAD_DATA_RETURN"
        else if (leaseOf s c core a).isNone && meetsPoison s a then lateTrap s c core a 0x0D 0
        else
          let (s, a) := coherentLoad s c core lease a
          go s a
      else if atom && a.space == 1 then
        if !(groupClear s c core a) then notEnabled "LOAD_DATA_RETURN"
        else if meetsPoison s a then lateTrap s c core a 0x0D 0
        else
          let serve (s : State) (e : Nat × Acc) : State :=
            let (s, b) := serveAtomic s c e.1 e.2
            updAcc s c e.1 e.2.id fun a => { a with performed := true, val := b.val, flag := b.flag }
          let s := (groupOf s c core a).foldl serve s
          match accAt s c core acc with
          | none => notEnabled "LOAD_DATA_RETURN"
          | some a => go s a
      else notEnabled "LOAD_DATA_RETURN"

/-! ### LDF and STE that wait (R194) -/

/-- FE_WAITER_SERVE: the oldest operation of its kind on a word, whose condition holds, performs at the bank. -/
def execFeWaiterServe (idx : Nat) (s : State) : Out :=
  match s.waiters[idx]? with
  | none => notEnabled "FE_WAITER_SERVE"
  | some w =>
    match waiterAcc s w with
    | none => notEnabled "FE_WAITER_SERVE"
    | some a =>
      if !(bitReady s a) || queuedOn (s.waiters.take idx) s a || !(mayPerform s w.c w.i a) then notEnabled "FE_WAITER_SERVE"
      else
        let (s, a) := bankMove s w.c w.i a
        match deliver (setWaiters s (s.waiters.eraseIdx idx)) w.c w.i a with
        | some s => .next (sweep s)
        | none => notEnabled "FE_WAITER_SERVE"

/-! ### Host completions and remote packets (R235, R236, R263) -/

/-- A MEMERR record of an access (R273). -/
def memErr (s : State) (c i : Nat) (a : Acc) : Record :=
  { die := dieOf c, tenant := a.tenant, rtype := 4, core := i, clus := c,
    actid := ((firingOf s a.firing).map (·.actor)).getD 0xFF, val := a.ea, firing := a.firing
    ts := ((firingOf s a.firing).map (firingTs s)).getD (maxPts s c (coresOf i a)) }
/-- HOST_COMPLETION_ERROR: a host read or atomic returns all ones, and a reduction is lost; a record is written and the
launch is FAILED (R235). -/
def execHostCompletionError (c core acc : Nat) (s : State) : Out :=
  match accAt s c core acc with
  | none => notEnabled "HOST_COMPLETION_ERROR"
  | some a =>
    if a.space != 1 || !(a.kind == .load || isAtomic a) || linkWaits s c core a then
      notEnabled "HOST_COMPLETION_ERROR"
    else
      let r := memErr s c core a
      match deliver s c core { a with performed := true, val := BitVec.allOnes 128 } with
      | some s => .next (sweep (queueRecord (failLaunch s a.launch) r))
      | none => notEnabled "HOST_COMPLETION_ERROR"

/-- What a translation at a remote home wants. -/
def remoteWant : AccKind → Want
  | .load => .rd
  | .store => .wr
  | _ => .rmw
/-- A space-0x2 access at its remote home: the place of its bytes there, without allocating, or a cause (R236). A line that it
hits takes nu 0, as its nu is ignored (R186, R209) (log 135, DESIGN CHOICE). -/
def remoteHome (s : State) (c : Nat) (a : Acc) : State × Except Nat Acc :=
  match translateDev s c a.tenant (a.ea.toNat % 2 ^ 48) (remoteWant a.kind) with
  | (s, .error e) => (s, .error e)
  | (s, .ok l) =>
    let pa := paIn l (a.ea.toNat % 2 ^ 48)
    if a.kind != .store && a.kind != .red && poisoned s pa a.size then (s, .error 0x0D)
    else (s, .ok { a with space := 0, key := memKey .device pa, home := homeDev s l pa, pol := 3, nu := 0 })
/-- Perform an access at its remote home, where `stamp` gives a written line its timestamp: the state, the value and whether
`addb` refused. -/
def remoteAct (s : State) (a : Acc) (stamp : State → State) : State × Vec × Bool :=
  match a.kind with
  | .load =>
    let (s, bs) := readBytes (placeL2 s a false) a
    (s, vecOf bs, false)
  | .store => (stamp (writeBytes (placeL2 s a true) a a.bytes.toNat (vecBytes a.data)), 0, false)
  | .red =>
    let (s, bs) := readBytes (placeL2 s a true) a
    let v := combine a.fn a.q a.size (ofBytes bs) a.data.toNat
    (stamp (writeBytes s a (2 ^ a.size - 1) (toBytes a.size v)), 0, false)
  | _ =>
    let (s, v, ref) := atomicAct s a
    (stamp s, v, ref)
/-- The access that a packet of another package makes here; at a slice it stands for the default clock (R206) (log 136, DESIGN
CHOICE). -/
def packetAcc (vf va size : Nat) (op : RemoteOp) (data data2 : Vec) : Acc :=
  let base : Acc := { tenant := vf, space := 2, ea := BitVec.ofNat 64 va, size := size, data := data, data2 := data2,
                      bytes := BitVec.ofNat 16 (2 ^ size - 1) }
  match op with
  | .load => { base with kind := .load }
  | .store => { base with kind := .store }
  | .amo fn q => { base with kind := .amo, fn := fn, q := q }
  | .cas => { base with kind := .cas }
  | .red fn q => { base with kind := .red, fn := fn, q := q }
/-- A packet of another package performs here: a read publishes the releases that it meets at domain scope, and a write
overwrites them (R259, R263). -/
def performIncoming (s : State) (a : Acc) : State :=
  let s := if accReads a then outsideRead s a.key a.size else s
  let s := (remoteAct s a fun s => outsideWrite s (lineOf a.key)).1
  if accWrites a then overwrite s a.key a.size else s
/-- A packet of this package performs here, for its core. -/
def performOwn (s : State) (c i : Nat) (a b : Acc) : State :=
  let s := if accReads b then noteSeen s c i b s.dir s.acq else s
  let rel := releaseUnit s c i a
  let (s, v, ref) := remoteAct s b fun s => stampExplicit s c i b (lineOf b.key) 0
  let s := if accWrites b then afterWrite s c i b b.key rel else s
  updAcc s c i a.id fun a => { a with performed := true, val := v, flag := ref }
/-- A packet of this package takes its turn: its place is found at its home, or the cause that turns it away. -/
def serveOwn (s : State) (c i : Nat) (a : Acc) : State :=
  let s := popPath s (.acc c i a.id)
  match remoteHome s c a with
  | (s, .error e) => updAcc s c i a.id fun a => { a with performed := true, cause := e }
  | (s, .ok b) => performOwn s c i a b
/-- REMOTE_PACKET_PERFORM: a packet performs at this package as remote home (R263); those that a gang's atomics make to one
line do so together (R287). -/
def execRemotePacketPerform (pkt : PktRef) (s : State) : Out :=
  match pkt with
  | .incoming vf va size op data data2 =>
    match remoteHome s 0 (packetAcc vf va size op data data2) with
    | (s, .error _) => .next s
    | (s, .ok a) =>
      if accReads a && !(served s .dom a.key a.size) then notEnabled "REMOTE_PACKET_PERFORM"
      else .next (sweep (performIncoming s a))
  | .own c core acc =>
    match accAt s c core acc with
    | none => notEnabled "REMOTE_PACKET_PERFORM"
    | some a =>
      let g := groupOf s c core a
      if a.space != 2 || a.performed || pkgOf a != s.cfg.pkgid.toNat || !(groupClear s c core a) ||
          !(arriveInTurn c g s) then notEnabled "REMOTE_PACKET_PERFORM"
      else .next (sweep (g.foldl (fun s e => serveOwn s c e.1 e.2) s))
/-- REMOTE_REPLY: the reply of a remote load or atomic returns; a fault traps REMOTE with the remote cause (R236). For this
package's own id the reply is what its packet found, and otherwise what the event says, once its packet is the oldest on its
path and what it overlaps of its core's has performed (R263). -/
def execRemoteReply (c core acc cause : Nat) (val : Vec) (s : State) : Out :=
  match accAt s c core acc with
  | none => notEnabled "REMOTE_REPLY"
  | some a =>
    let own := pkgOf a == s.cfg.pkgid.toNat
    if a.space != 2 || !(a.kind == .load || a.kind == .amo || a.kind == .cas) || (own && !a.performed) ||
        linkWaits s c core a || (!own && !(clear s c core a && arrives s c core a)) then notEnabled "REMOTE_REPLY"
    else
      let s := popPath s (.acc c core acc)
      let cause := if own then a.cause else cause
      let val := if own then a.val else val
      if cause == 0 then
        let ref := if own then a.flag else a.kind == .amo && (atomicNew a (val.toNat % 2 ^ (8 * a.size))).2
        match deliver s c core { a with performed := true, val := val, flag := ref } with
        | some s => .next (sweep s)
        | none => notEnabled "REMOTE_REPLY"
      else lateTrap s c core a 0x0C cause
/-- REMOTE_POSTED_FAULT: a posted store or RED is dropped at the remote package; a record is written and the launch is
FAILED (R236). -/
def execRemotePostedFault (c core acc : Nat) (s : State) : Out :=
  match accAt s c core acc with
  | none => notEnabled "REMOTE_POSTED_FAULT"
  | some a =>
    let own := pkgOf a == s.cfg.pkgid.toNat
    if a.space != 2 || !(a.kind == .store || a.kind == .red) || !a.sent || (own && a.cause == 0) ||
        (!own && !a.performed && !(arrives s c core a)) || (firstUp s (pkgOf a)).isNone then notEnabled "REMOTE_POSTED_FAULT"
    else
      let r := memErr s c core a
      .next (sweep (queueRecord (failLaunch (dropAcc (popPath s (.acc c core acc)) c core acc) a.launch) r))

/-! ### Flush markers (R264) -/

/-- What a path carries before a flush marker. -/
def aheadOf (s : State) (m : Marker) : List Packet :=
  (((s.paths.find? fun p => p.pkg == m.pkg && p.path == m.path).map (·.queue)).getD []).takeWhile fun k =>
    k != .marker m.group
/-- An earlier packet of a path to another package has performed there, as the answer of a later marker says. -/
def settlePacket (m : Marker) (s : State) (k : Packet) : State :=
  match k with
  | .acc c i id => updAcc (popPath s k) c i id fun a => { a with performed := true }
  | _ =>
    let drop (p : FPath) : FPath := if p.pkg == m.pkg && p.path == m.path then { p with queue := p.queue.erase k } else p
    setPaths s ((s.paths.map drop).filter fun p => !p.queue.isEmpty)
/-- FLUSH_MARKER_ARRIVE: every earlier packet of the path has performed, and the destination answers; on a removed path, what
was sent again in their place has (R416). -/
def execFlushMarkerArrive (idx : Nat) (s : State) : Out :=
  match s.markers[idx]? with
  | none => notEnabled "FLUSH_MARKER_ARRIVE"
  | some m =>
    let ahead := aheadOf s m
    let other (k : Packet) : Bool := m.pkg != s.cfg.pkgid.toNat && match k with
      | .marker _ => false
      | _ => true
    if !m.sent || m.answered || !(ahead.all other) || (firstUp s m.pkg).isNone then notEnabled "FLUSH_MARKER_ARRIVE"
    else
      let s := setMarkers s (s.markers.set idx { m with answered := true })
      .next (sweep (ahead.foldl (settlePacket m) (setPaths s (takeMarker m s.paths))))
/-- FLUSH_ANSWER_ARRIVE: the answer returns; with the last of its group, what the marker covers is gathered. -/
def execFlushAnswerArrive (idx : Nat) (s : State) : Out :=
  match s.markers[idx]? with
  | none => notEnabled "FLUSH_ANSWER_ARRIVE"
  | some m =>
    if !m.answered || (firstUp s m.pkg).isNone then notEnabled "FLUSH_ANSWER_ARRIVE"
    else
      let s := setMarkers s (s.markers.eraseIdx idx)
      .next (sweep (if s.markers.any fun k => k.group == m.group then s else gatherMarker s m))

end Sys2Proof.Machine
end

