-- ==== Sys2Proof/Machine/Fetch.lean ====
section
/-! DEFINITION. Fetching kernel-level instructions, and the two traps of step 1 to 3 of R74. -/

namespace Sys2Proof.Machine

/-- What fetching at a program counter finds: the words (the second is 0 for a short instruction), or the address that
failed, the translation cause (0x0D for a poisoned sector), and the first word if it was fetched. -/
inductive Fetched where
  | words (w0 w1 : W32)
  | failed (addr : Word) (sub : Nat) (w0 : W32)
deriving DecidableEq, Repr

/-- Keep a fetched word in a cluster's instruction cache, which holds 64 KiB (R12): the oldest word of a full one goes
(log 111, DESIGN CHOICE). -/
def keepWord (l : List (Nat × Nat × W32)) (c key : Nat) (w : W32) : List (Nat × Nat × W32) :=
  (if 16384 ≤ l.countP (fun e => e.1 == c) then l.eraseP fun e => e.1 == c else l) ++ [(c, key, w)]
/-- Fetch one word for a firing: it must lie in space 0x0, aligned, mapped and executable (R74). A word that the cluster's
instruction cache holds comes from there, also after a store to it (R76) (log 111, DESIGN CHOICE). -/
def fetchWord (s : State) (f : Firing) (pc : Word) : State × Except Nat W32 :=
  if pc.toNat % 4 != 0 || spaceOf pc != 0 || !(vaClean pc) then (s, .error 0)
  else
    match translateDev s f.clus f.tenant (vaOf pc) .ex with
    | (s, .error e) => (s, .error e)
    | (s, .ok l) =>
      let key := memKey .device (paIn l (vaOf pc))
      match s.icache.find? fun e => e.1 == f.clus && e.2.1 == key with
      | some e => (s, .ok e.2.2)
      | none =>
        if poisoned s key 4 then (s, .error 0x0D)
        else
          let (s, bs) := getHome s key 4
          let w := BitVec.ofNat 32 (ofBytes bs)
          (setIcache s (keepWord s.icache f.clus key w), .ok w)
/-- Fetch the instruction at a program counter. -/
def fetchAt (s : State) (f : Firing) (pc : Word) : State × Fetched :=
  match fetchWord s f pc with
  | (s, .error e) => (s, .failed pc e 0)
  | (s, .ok w0) =>
    if isLong w0 then
      match fetchWord s f (pc + 4) with
      | (s, .error e) => (s, .failed (pc + 4) e w0)
      | (s, .ok w1) => (s, .words w0 w1)
    else (s, .words w0 0)
/-- The words at the program counter of a firing's core as fetched, 0 where the fetch fails (R272). -/
def wordsAt (s : State) (f : Firing) (c : Core) : W32 × W32 :=
  match (fetchAt s f c.pc).2 with
  | .words w0 w1 => (w0, w1)
  | .failed _ _ w0 => (w0, 0)

/-- Fetch for the acting core, and take a trap that the outcome asks for. -/
def fetchTrap (row : String) (g : Fetched → Option (Nat × Nat × Word × W32 × W32)) (s : State) : Out :=
  match s.cur with
  | .core c i =>
    match firingAt s c i with
    | none => .refused .noFiring
    | some f =>
      let units := actingCores f i
      let (s, r) := fetchAt s f (pcOf units)
      match g r with
      | none => notEnabled row
      | some (cause, sub, addr, w0, w1) =>
        .next (trapFiring s { f with issued := true } { core := lowest units, cause := cause, sub := sub, addr := addr } w0 w1)
  | _ => .refused .noFiring
/-- ILLEGAL_ENCODING: the words at the program counter are no instruction; the core traps ILL at W0's address (R75). The step
brings it about for words that decoding rejects, and for no others. -/
def execIllegalEncoding (w0 w1 : W32) (s : State) : Out :=
  fetchTrap "ILLEGAL_ENCODING" (fun r =>
    match r with
    | .words a b =>
      if a == w0 && b == w1 then some (0x01, 0, 0, a, b) else none
    | .failed _ _ _ => none) s
/-- INSTRUCTION_FETCH_FAULT: the fetch of W0 or W1 fails; the core traps FETCH, or UCE on a poisoned sector (R74). -/
def execInstructionFetchFault (addr : Word) (sub : Nat) (w0 : W32) (s : State) : Out :=
  fetchTrap "INSTRUCTION_FETCH_FAULT" (fun r =>
    match r with
    | .words _ _ => none
    | .failed a e w =>
      if a == addr && e == sub && w == w0 then
        (if e == 0x0D then some (0x0D, 0, a, w, 0) else some (0x02, e, a, w, 0))
      else none) s

end Sys2Proof.Machine
end

