-- ==== Sys2Proof/Machine/Messages.lean ====
section
/-! DEFINITION. SEND, RECV, CHAN and BAR (R166 to R185). -/

namespace Sys2Proof.Machine

/-! ### SEND (R175 to R178) -/

/-- Whether a cluster may send to another for a tenant (R176): its own bit always, another's by the permission table and
only within the partition. -/
def maySend (s : State) (v c dest : Nat) : Bool :=
  dest == c || (holdsCluster s v dest && match s.cfg.perms.find? fun e => e.1 == c with
    | some e => e.2.getLsbD dest
    | none => false)
/-- The local and wire formats of a q (R175); none for raw bits. -/
def wireFmt (q : Nat) : Option (Fmt × Fmt) :=
  match q with
  | 1 => some (.fp32, .bf16)
  | 2 => some (.fp32, .e4m3)
  | 3 => some (.fp32, .e5m2)
  | 4 => some (.bf16, .e4m3)
  | 5 => some (.bf16, .e5m2)
  | _ => none
/-- A local element sent over the wire and widened again, with the flags of the conversion (R175). -/
def overWire (q code : Nat) : Nat × FlagBits :=
  match wireFmt q with
  | none => (code, 0)
  | some (l, w) =>
    let r := rne w (decodeFmt l code)
    ((rne l (decodeFmt w r.1)).1, r.2)
/-- The local element width of a q. -/
def localWidth (q : Nat) : Nat := if q == 4 || q == 5 then 16 else 32
/-- The payloads of a SEND on one core, and the flags that it raises (R177). -/
abbrev Payloads := List (List Word) × FlagBits
/-- `send.v`: 128 bits, element by element over the wire. -/
def sendVec (q : Nat) (v : Vec) : Payloads :=
  let w := localWidth q
  let es := (elems w v).map (overWire q)
  let r := packElems w (es.map (·.1))
  ([[r.setWidth 64, (r >>> 64).setWidth 64]], es.foldl (fun f e => f ||| e.2) 0)
/-- `send.nz`: one message for each element that is not zero: its index and its value. -/
def sendNonzero (q : Nat) (base : Word) (v : Vec) : Payloads :=
  let w := localWidth q
  let picks := (List.range (128 / w)).filterMap fun e =>
    let y := elemAt w v e
    if y % 2 ^ (w - 1) == 0 then none
    else
      let r := overWire q y
      some ([BitVec.ofNat 64 ((base.toNat + e) % 2 ^ 32 * 2 ^ 32 + r.1)], r.2)
  (picks.map (·.1), picks.foldl (fun f e => f ||| e.2) 0)
/-- The FENCEs with M in succ that some cores have issued and that have not completed (R255). -/
def sendFences (s : State) (c : Nat) (cores : List Nat) : List Nat :=
  cores.flatMap fun i => ((pcoreAt s c i).accs.filter fun a => a.kind == .fence && a.sset.getLsbD 3).map (·.id)
/-- Stage the messages of one core, or trap (R176, R177); FENCEs of `cores` hold them. -/
def stage (s : State) (f : Firing) (c : Core) (cores : List Nat) (kind q : Nat) (addr : Word) (p : Payloads) :
    Except TrapInfo Firing :=
  let trap (cause : Nat) : Except TrapInfo Firing := .error { core := c.idx, cause := cause }
  if !(maOk addr) then trap 0x12
  else if !(maySend s f.tenant f.clus (maClus addr)) then trap 0x13
  else if 64 < f.staged.length + p.1.length then trap 0x14
  else
    let msg (ws : List Word) : Msg :=
      { tenant := f.tenant, launch := f.launch, kind := kind, wq := q, sclus := f.clus, sact := f.actor, addr := addr,
        words := ws, firing := f.id, fences := sendFences s f.clus cores }
    .ok { f with staged := f.staged ++ p.1.map msg }
/-- Stage on each core in ascending order. -/
def stageAll (s : State) (kind q : Nat) (cores : Core → List Nat) (addr : Core → Word) (pay : Core → Payloads) :
    Firing → List Core → Except TrapInfo Firing
  | f, [] => .ok f
  | f, c :: cs =>
    match stage s f c (cores c) kind q (addr c) (pay c) with
    | .error t => .error t
    | .ok f => stageAll s kind q cores addr pay f cs
/-- SEND: the cores that its predicate selects stage their messages; a popped link must hold a word (R60). -/
def sendInstr (i : Instr) (o : OpA) (uni : Bool) (kind q : Nat) (lw le : Bool)
    (pay : Firing → List Core → Core → Payloads) (s : State) : Out :=
  withFiring (siteOf i) s fun s f units =>
    let act := memUnits f units uni o.pr
    if !(act.all (popReady lw le)) then .next s
    else
      let cores (c : Core) : List Nat := if uni then units.map (·.idx) else [c.idx]
      match stageAll s kind q cores (fun c => getS (fileOf f units uni c) o.a.toNat) (pay f units) f act with
      | .error t => trapAt s f t (siteOf i)
      | .ok f' =>
        let flags (c : Core) : Core := popCore lw le { c with nflags := c.nflags ||| (pay f units c).2 }
        .next (putFiring s (advance (putCores f' (act.map flags)) units 4))

/-- `send.x`: one word. -/
def execSendX (o : OpA) (s : State) : Out :=
  sendInstr (.sendX o) o (k1 o) 1 0 false false
    (fun f units c => ([[getS (fileOf f units (k1 o) c) o.b.toNat]], 0)) s
/-- The vector that a SEND takes on a core. -/
def sendSource (o : OpA) (c : Core) : Vec :=
  if o.b == 30 then c.lw.head?.getD 0 else if o.b == 31 then c.le.head?.getD 0 else vget c.v o.b.toNat 0
/-- `send.v`: a vector. -/
def execSendV (o : OpA) (s : State) : Out :=
  sendInstr (.sendV o) o false 2 o.q.toNat (o.b == 30) (o.b == 31) (fun _ _ c => sendVec o.q.toNat (sendSource o c)) s
/-- `send.nz`: the nonzero elements, with their indices. -/
def execSendNz (o : OpA) (s : State) : Out :=
  sendInstr (.sendNz o) o false 3 o.q.toNat (o.b == 30) (o.b == 31)
    (fun _ _ c => sendNonzero o.q.toNat (getX c o.d.toNat) (sendSource o c)) s

/-! ### RECV (R170, R179, R180) -/

/-- The header of a message or slot (R170). -/
def msgHeader (m : Msg) : Word :=
  BitVec.ofNat 64 (m.sclus % 2 ^ 10 * 2 ^ 54 + m.sact % 2 ^ 8 * 2 ^ 40 + m.kind * 2 ^ 32 + m.wq * 2 ^ 29 +
    maPort m.addr * 2 ^ 12 + maTag m.addr)
/-- The oldest message that is not wholly popped, when n words of the queue are popped, and how many of its own are. -/
def oldestMsg : List Msg → Nat → Option (Msg × Nat)
  | [], _ => none
  | m :: ms, n => if msgLen m ≤ n then oldestMsg ms (n - msgLen m) else some (m, n)
/-- RECV: on each selected core in ascending order, from the words popped so far a new count and a new core; none stalls
all. -/
def recvInstr (i : Instr) (o : OpA) (g : List Msg → Nat → Core → Option (Nat × Core)) (s : State) : Out :=
  withFiring (siteOf i) s fun s f units =>
    match instOf s f.inst with
    | none => .fault (.inconsistent "instance")
    | some x =>
      let q := directQueue s x
      let act := memUnits f units false o.pr
      let run := act.foldlM (init := (poppedOf s x, ([] : List Core))) fun st c =>
        (g q st.1 c).map fun r => (r.1, st.2 ++ [r.2])
      match run with
      | none => .next s
      | some (n, cs) =>
        let f' := { f with popped := f.popped + (n - poppedOf s x) }
        .next (putFiring (setPopped s x n) (advance (putCores f' cs) units 4))

/-- The next word of a direct queue. -/
def nextWord (q : List Msg) (n : Nat) : Option Word := (oldestMsg q n).bind fun r => r.1.words[r.2]?
/-- `recv.w`: pops the next word, or stalls. -/
def execRecvW (o : OpA) (s : State) : Out :=
  recvInstr (.recvW o) o (fun q n c => (nextWord q n).map fun w => (n + 1, setX c o.d.toNat w)) s
/-- `recv.try`: as `w` where a word remains, and the predicate says whether. -/
def execRecvTry (o : OpA) (s : State) : Out :=
  recvInstr (.recvTry o) o (fun q n c =>
    match nextWord q n with
    | some w => some (n + 1, setPr (setX c o.d.toNat w) o.b.toNat 0xFFFF)
    | none => some (n, setPr (setX c o.d.toNat 0) o.b.toNat 0)) s
/-- `recv.hdr`: the header of the oldest message not wholly popped. -/
def execRecvHdr (o : OpA) (s : State) : Out :=
  recvInstr (.recvHdr o) o (fun q n c => (oldestMsg q n).map fun r => (n, setX c o.d.toNat (msgHeader r.1))) s
/-- `recv.drop`: pops the rest of that message. -/
def execRecvDrop (o : OpA) (s : State) : Out :=
  recvInstr (.recvDrop o) o (fun q n c =>
    match oldestMsg q n with
    | some r => some (n + (msgLen r.1 - r.2), c)
    | none => some (n, c)) s

/-! ### CHAN (R166, R181) -/

/-- The window base of a launch's cluster memory (R189). -/
def clusterBase (s : State) (launch c : Nat) : Nat :=
  ((launchOf s launch).bind fun l => (l.windows.find? fun w => w.space == 5 && w.place == c).map (·.base)).getD 0
/-- The reservation of a port: a literal of 8 or more names an output. -/
def portResv (s : State) (f : Firing) (p : Nat) : Option Resv :=
  let a := actorOf s f.launch f.actor
  if p < 8 then (if p < a.ins.length then f.resv[p]? else none)
  else if p - 8 < a.outs.length then f.resv[a.ins.length + (p - 8)]? else none
/-- CHAN: a value for d from the port's reservation, its channel and x_b; none traps CHANIX. -/
def chanInstr (i : Instr) (o : OpA) (g : State → Firing → Chan → Resv → Word → Option Word) (s : State) : Out :=
  fileInstr (siteOf i) (k1 o) o.pr (fun s f r =>
    match (portResv s f o.a.toNat).bind fun v => (chanAt s f.clus f.launch v.chan).bind fun x =>
        g s f x v (getS r o.b.toNat) with
    | some w => .ok (setS r o.d.toNat w)
    | none => .trap { core := r.core.idx, cause := 0x15 }) s

/-- `chan.slot`: the pointer to byte 0 of a reservation entry. -/
def execChanSlot (o : OpA) (s : State) : Out :=
  chanInstr (.chanSlot o) o (fun s f x v b =>
    (v.slots[b.toNat]?).map fun j =>
      BitVec.ofNat 64 (5 * 2 ^ 60 + (x.base + j * x.bytes - clusterBase s f.launch f.clus))) s
/-- `chan.hdr`: the header of an input reservation entry. -/
def execChanHdr (o : OpA) (s : State) : Out :=
  chanInstr (.chanHdr o) o (fun _ _ x v b => (v.slots[b.toNat]?).map fun j => x.hdrs.getD j 0) s
/-- `chan.cnt`: F and E of the port's channel. -/
def execChanCnt (o : OpA) (s : State) : Out :=
  chanInstr (.chanCnt o) o (fun _ _ x _ _ =>
    some (BitVec.ofNat 64 ((x.filled.length + x.fr) * 2 ^ 32 + (x.free.length + x.er)))) s

/-! ### BAR (R182 to R185) -/

/-- The barrier that a field names, for a launch on a cluster. -/
def barOf (s : State) (f : Firing) (n : Nat) : Option Bar :=
  (s.bars.find? fun g => g.clus == f.clus && g.launch == f.launch).bind fun g => g.bars[n]?
/-- Replace it. -/
def putBar (s : State) (f : Firing) (n : Nat) (b : Bar) : State :=
  setBars s (updWhere (fun g => g.clus == f.clus && g.launch == f.launch) (fun g => { g with bars := g.bars.set n b })
    s.bars)
/-- Complete every phase that meets N; a shifted count that already meets it completes at once (R183). -/
def completePhases : Nat → Bar → Bar
  | 0, b => b
  | n + 1, b =>
    if b.n != 0 && b.n ≤ b.counts.1 then
      completePhases n { b with phase := b.phase + 1, counts := (b.counts.2.1, b.counts.2.2, 0)
                                lead := b.lead.map (fun l => l - 1), done := b.done + 1 }
    else b
/-- The lead counter of a core. -/
def leadOf (b : Bar) (i : Nat) : Nat := b.lead.getD i 0
/-- The arrival of a core (R183): the barrier after it, and the phase arrived in; none while its lead is 3. -/
def arriveBar (b : Bar) (i : Nat) : Option (Bar × BitVec 2) :=
  let l := leadOf b i
  if 3 ≤ l then none
  else
    let (c0, c1, c2) := b.counts
    let cs := if l == 0 then (c0 + 1, c1, c2) else if l == 1 then (c0, c1 + 1, c2) else (c0, c1, c2 + 1)
    some (completePhases 4 { b with counts := cs, lead := b.lead.set i (l + 1) }, b.phase + BitVec.ofNat 2 l)
/-- The unfinished accesses that an arrival of cores releases, the gang's among them (R185, R248). -/
def arrivalCovers (s : State) (f : Firing) (units : List Core) : List Acc :=
  ((clusAccs s f.clus).filter fun e => !(noAccess e.2) && e.2.sets &&& 0b10011#5 != 0 && !(sysDone e.2) &&
    units.any fun c => (coresOf e.1 e.2).contains c.idx).map (·.2)
/-- Whether they are Done at cluster scope. -/
def coversQuiet (f : Firing) (l : List Acc) : Bool := l.all fun a => doneAt a 2 f.clus f.lead f.lead f.cores.length
/-- Add an arrival's release to its phase. -/
def addRel (l : List BarRel) (r : BarRel) : List BarRel :=
  match l.find? fun x => x.no == r.no with
  | none => l ++ [r]
  | some x => putWhere (fun y => y.no == r.no)
      { x with cores := x.cores ++ r.cores, pend := x.pend ++ r.pend, ts := max x.ts r.ts } l
/-- The cores that act on a barrier: the leader alone with k = 1. -/
def barUnits (o : OpA) (f : Firing) (units : List Core) : List Core := memUnits f units (k1 o) o.pr
/-- Arrivals of cores in ascending order, each one's release filed under the phase that it arrives in, with the phase of each;
none while one stalls. -/
def arriveAll (rel : Core → BarRel) : Bar → List Core → Option (Bar × List (BitVec 2))
  | b, [] => some (b, [])
  | b, c :: cs =>
    let b := { b with rels := addRel b.rels { rel c with no := b.done + leadOf b c.idx } }
    (arriveBar b c.idx).bind fun r => (arriveAll rel r.1 cs).map fun q => (q.1, r.2 :: q.2)
/-- Write a scalar to d on the cores that act on a barrier. -/
def barWrite (o : OpA) (f : Firing) (l : List (Core × Word)) : Firing :=
  l.foldl (fun f e => if k1 o then putUniOf f e.1.idx fun u => setG u o.d.toNat e.2
    else updCore f e.1.idx fun c => setX c o.d.toNat e.2) f
/-- BAR: what the instruction does with the barrier that it names. -/
def barInstr (i : Instr) (o : OpA) (g : State → Firing → List Core → List Core → Bar → Out) (s : State) : Out :=
  withFiring (siteOf i) s fun s f units =>
    let act := barUnits o f units
    if act.isEmpty then .next (putFiring s (advance f units 4))
    else
      match barOf s f (o.a.toNat % 4) with
      | none => .fault (.inconsistent "barrier group")
      | some b => g s f units act b

/-- `bar.init`: N := x_b, on each core in ascending order. -/
def execBarInit (o : OpA) (s : State) : Out :=
  barInstr (.barInit o) o (fun s f units act b =>
    let go (st : Except TrapInfo Bar) (c : Core) : Except TrapInfo Bar := st.bind fun b =>
      let n := (getS (fileOf f units (k1 o) c) o.b.toNat).toNat
      if n == 0 || 8 < n || (b.n != 0 && b.counts != (0, 0, 0)) then .error { core := c.idx, cause := 0x16 }
      else .ok (completePhases 4 { b with n := n })
    match act.foldl go (.ok b) with
    | .error t => trapAt s f t (siteOf (.barInit o))
    | .ok b => .next (putFiring (putBar s f (o.a.toNat % 4) b) (advance f units 4))) s
/-- The arrivals of an instruction: none while a lead counter is 3 or what they release is not Done at cluster scope. Each
core's arrival is a release of its own accesses, or with k = 1 the leader's of the whole gang's. -/
def arrivals (s : State) (o : OpA) (f : Firing) (units act : List Core) (b : Bar) : Option (Bar × List (Core × Word)) :=
  let mine (c : Core) : List Core := if k1 o then units else [c]
  if !(coversQuiet f (arrivalCovers s f (if k1 o then units else act))) then none
  else
    let rel (c : Core) : BarRel :=
      let cores := (mine c).map (·.idx)
      { cores := [c.idx], ts := maxPts s f.clus cores
        pend := ((arrivalCovers s f (mine c)).map (·.id)) ++ owedTo s f.clus cores }
    (arriveAll rel b act).map fun r => (r.1, act.zip (r.2.map fun p => BitVec.ofNat 64 p.toNat))
/-- `bar.arrive`: d := the phase arrived in. -/
def execBarArrive (o : OpA) (s : State) : Out :=
  barInstr (.barArrive o) o (fun s f units act b =>
    match arrivals s o f units act b with
    | none => .next s
    | some (b, l) => .next (putFiring (putBar s f (o.a.toNat % 4) b) (advance (barWrite o f l) units 4))) s
/-- Whether a wait on a barrier returns: the lead counters are 0. -/
def barOpen (act : List Core) (b : Bar) : Bool := act.all fun c => leadOf b c.idx == 0
/-- What a wait of a core acquires: the arrivals of every completed phase in which the core has arrived (R185). -/
def barGains (b : Bar) (i : Nat) : List Nat × Nat :=
  let l := b.rels.filter fun r => r.no < b.done && r.cores.contains i
  (l.flatMap (·.pend), l.foldl (fun m r => max m r.ts) 0)
/-- The cores that a wait returns to acquire what theirs, or with k = 1 the leader's, phases release (R185, R258). -/
def barAcquire (o : OpA) (s : State) (f : Firing) (units act : List Core) (b : Bar) : State :=
  act.foldl (init := s) fun s c =>
    let g := barGains b c.idx
    acquire s f.clus (if k1 o then units.map (·.idx) else [c.idx]) g.1 g.2
/-- `bar.wait`: stalls until the core's lead counter is 0. -/
def execBarWait (o : OpA) (s : State) : Out :=
  barInstr (.barWait o) o (fun s f units act b =>
    if barOpen act b then .next (putFiring (barAcquire o s f units act b) (advance f units 4)) else .next s) s
/-- `bar.sync`: `arrive`, then `wait`; a core that has arrived and waits keeps the phase. -/
def execBarSync (o : OpA) (s : State) : Out :=
  let phases (f : Firing) (act : List Core) : Option (List (Core × Word)) :=
    act.mapM fun c => match (f.cores.find? fun k => k.idx == c.idx).map (·.busy) with
      | some (Busy.arrived p) => some (c, BitVec.ofNat 64 p.toNat)
      | _ => none
  let leave (s : State) (f : Firing) (units act : List Core) (b : Bar) (l : List (Core × Word)) : Out :=
    if barOpen act b then
      let f := { f with cores := f.cores.map fun c => if act.any fun k => k.idx == c.idx then { c with busy := .none } else c }
      .next (putFiring (barAcquire o s f units act b) (advance (barWrite o f l) units 4))
    else .next (putFiring s f)
  barInstr (.barSync o) o (fun s f units act b =>
    match phases f act with
    | some l => leave s f units act b l
    | none =>
      match arrivals s o f units act b with
      | none => .next s
      | some (b, l) =>
        let f := l.foldl (fun f e => updCore f e.1.idx fun c => { c with busy := .arrived (e.2.setWidth 2) }) f
        leave (putBar s f (o.a.toNat % 4) b) f units act b l) s
/-- `bar.query`: d := the barrier's state, with the executing core's lead counter. -/
def execBarQuery (o : OpA) (s : State) : Out :=
  barInstr (.barQuery o) o (fun s f units act b =>
    let val (c : Core) : Word :=
      BitVec.ofNat 64 (leadOf b c.idx * 2 ^ 40 + b.n * 2 ^ 32 + b.phase.toNat * 2 ^ 24 + b.counts.2.2 * 2 ^ 16 +
        b.counts.2.1 * 2 ^ 8 + b.counts.1)
    .next (putFiring s (advance (barWrite o f (act.map fun c => (c, val c))) units 4))) s

end Sys2Proof.Machine
end

