-- ==== Sys2Proof/Machine/Part.lean ====
section
/-! DEFINITION. The part's own accesses to a tenant's memory, outside any core's order: launch records, completion words,
record rings, agent memory, engine operands (R19, R231, R233, R274). -/

namespace Sys2Proof.Machine

/-- The translation of a device VA for the part's own access, by walk (log 29, DEDUCED). -/
def partLeaf (s : State) (v va : Nat) (want : Want) : Except Nat Leaf :=
  match (deviceLeaf s 1024 v va false).2 with
  | .error e => .error e
  | .ok l => if grants l want then .ok l else .error 0x0A
/-- The key in memory of a space-0x0 address, or a cause; a wrong space or reserved bit has cause SPACE. -/
def partKey (s : State) (v : Nat) (ea : Word) (want : Want) : Except Nat Nat :=
  if spaceOf ea != 0 || !(vaClean ea) then .error 0x04
  else
    match partLeaf s v (vaOf ea) want with
    | .error e => .error e
    | .ok l => .ok (memKey .device (paIn l (vaOf ea)))
/-- Read n bytes of space 0x0 in pieces that no line boundary cuts; what they carry is acquired by the part. Fuel bounds the
pieces. -/
def partReadFrom (s : State) (v : Nat) (ea : Word) : Nat → Nat → Except Nat (State × List Byte)
  | 0, _ => .ok (s, [])
  | fuel + 1, n =>
    if n == 0 then .ok (s, [])
    else
      let m := min n (256 - ea.toNat % 256)
      match partKey s v ea .rd with
      | .error e => .error e
      | .ok k =>
        let (s, bs) := getHome (outsideRead s k m) k m
        match partReadFrom s v (ea + BitVec.ofNat 64 m) fuel (n - m) with
        | .error e => .error e
        | .ok r => .ok (r.1, bs ++ r.2)
/-- Read n bytes of space 0x0. -/
def partRead (s : State) (v : Nat) (ea : Word) (n : Nat) : Except Nat (State × List Byte) :=
  partReadFrom s v ea (n / 256 + 2) n
/-- Whether no release that must be published first stands at n bytes of space 0x0 (R259), so far as they translate; fuel
bounds the pages. -/
def partServedFrom (s : State) (v : Nat) (ea : Word) : Nat → Nat → Bool
  | 0, _ => true
  | fuel + 1, n =>
    let m := min n (65536 - ea.toNat % 65536)
    n == 0 || match partKey s v ea .rd with
      | .error _ => true
      | .ok k => served s .sys k m && partServedFrom s v (ea + BitVec.ofNat 64 m) fuel (n - m)
/-- The same of any n bytes. -/
def partServed (s : State) (v : Nat) (ea : Word) (n : Nat) : Bool := partServedFrom s v ea (n / 65536 + 2) n
/-- Write n bytes at a key of device or host memory for the part, as one write of all that lies outside the cores
(R251, R259). -/
def partPutAt (s : State) (k n : Nat) (bs : List Byte) : State :=
  let s := putHome (recallLine s (lineOf k)) k (2 ^ n - 1) bs
  overwrite (if hbmBacked k then outsideWrite s (lineOf k) else s) k n
/-- Write bytes at consecutive addresses of space 0x0, in pieces of 8 aligned bytes or less; fuel bounds the pieces. -/
def partWriteFrom (s : State) (v : Nat) (ea : Word) : Nat → List Byte → Except Nat State
  | 0, _ => .ok s
  | fuel + 1, bs =>
    if bs.isEmpty then .ok s
    else
      let m := min bs.length (8 - ea.toNat % 8)
      match partKey s v ea .wr with
      | .error e => .error e
      | .ok k =>
        let s := partPutAt s k m (bs.take m)
        partWriteFrom s v (ea + BitVec.ofNat 64 m) fuel (bs.drop m)
/-- Write bytes of space 0x0; on a fault nothing is written. -/
def partWrite (s : State) (v : Nat) (ea : Word) (bs : List Byte) : Except Nat State :=
  partWriteFrom s v ea (bs.length / 8 + 2) bs
/-- A place in space 0x0 or 0x1 for the part's own access. A host address is translated in sector 0; a page that must be
asked for is asked for under command number 0. -/
def partLocate (s : State) (v : Nat) (ea : Word) (want : Want) : State × Loc :=
  match spaceOf ea with
  | 0 =>
    match partKey s v ea want with
    | .error e => (s, .cause e)
    | .ok k => (s, .ok { key := k })
  | 1 =>
    if !(vaClean ea) || !(accepted s v 3) then (s, .cause 0x04)
    else
      let k := failKey 0 v (vaOf ea / 4096)
      if s.xlat.failedCmds.contains k then
        (setXlat s { s.xlat with failedCmds := s.xlat.failedCmds.filter fun e => e != k }, .cause 0x0B)
      else
      match translateHost s 0 v (vaOf ea) want with
      | .ok l => (s, .ok { key := memKey .host (paIn l (vaOf ea)) })
      | .ask p cached =>
        if priFails s v 0 p cached then (s, .cause 0x0B)
        else ((askPage s v 0 p want cached [] [0]).2, .ask p cached)
  | _ => (s, .cause 0x04)
/-- Read an n-byte word at a located key; what its location carries is acquired by the part (R267). A host read that is
answered with an error returns all ones; a record is written, and the launch named is FAILED (R235). -/
def partWord (s : State) (key n launch : Nat) : State × Nat :=
  if s.xlat.hostError && key / 2 ^ 64 == memKey .host 0 / 2 ^ 64 then
    let v := ((launchOf s launch).map (·.tenant)).getD 0
    let s := setXlat s { s.xlat with hostError := false }
    (queueRecord (failLaunch s launch) { tenant := v, rtype := 4, val := BitVec.ofNat 64 (2 ^ 60 + key % 2 ^ 57) },
      2 ^ (8 * n) - 1)
  else
    let (s, bs) := getHome (outsideRead s key n) key n
    (s, ofBytes bs)
/-- Write the completion word of a launch at a located key: a release at system scope of what the launch wrote, whose
timestamps reach up to `wts` (R251, R257, R266). The host may see a word of its own memory at once. -/
def partPut (s : State) (key n v wts : Nat) : State :=
  let s := partPutAt s key n (toBytes n v)
  if hbmBacked key then noteTs (bumpStamp s (lineOf key) wts) key n wts
  else noteTs (setHts s (max s.hts wts)) key n wts
/-- Send an MSI-X vector of a function (R413). -/
def sendMsix (s : State) (v vec : Nat) : State := setCfg s { s.cfg with msix := s.cfg.msix ++ [(v, vec)] }
/-- A record that no cluster reports (R272, R274). -/
def partRecord (v rtype : Nat) (val info : Word) : Record := { tenant := v, rtype := rtype, val := val, info := info }

end Sys2Proof.Machine
end

