-- ==== Sys2Proof/Machine/Launch.lean ====
section
/-! DEFINITION. Launches: reading and checking a record, its graph and its levels, taking context, completing (R15 to R24,
R89, R163, R182, R189, R266, R267, R407, R409). -/

namespace Sys2Proof.Machine

/-! ### Hardware domains (R17, R20, R24) -/

/-- A unit of some domain: its first core, numbered over the package, and how many it has. -/
structure HwUnit where
  lo : Nat := 0
  n : Nat := 8192
deriving DecidableEq, Repr

/-- Cores of a unit of a domain; w is the gang width. -/
def domSize (w : Nat) : Nat → Nat
  | 0 => 8192
  | 1 => 2048
  | 2 => 128
  | 3 => 8
  | 4 => w
  | _ => 1
/-- The clusters that a unit touches. -/
def unitClusters (u : HwUnit) : List Nat := rangeFrom (u.lo / 8) ((u.n + 7) / 8)
/-- The lowest cluster of a partition within a unit, where a level instance places its actors (R24)
(log 44, DEDUCED). -/
def placeOf (part : BitVec 1024) (u : HwUnit) : Option Nat := (unitClusters u).find? fun c => part.getLsbD c
/-- The units of a domain within a parent and a partition, ascending (R20). -/
def childUnits (part : BitVec 1024) (w dom : Nat) (p : HwUnit) : List HwUnit :=
  let sz := domSize w dom
  ((List.range (p.n / sz)).map fun k => ({ lo := p.lo + k * sz, n := sz } : HwUnit)).filter fun u =>
    (placeOf part u).isSome
/-- The gang width of a launch's gang level (R17). -/
def gangWidth (levels : List Level) (g : Graph) : Nat :=
  let j := (levels.findIdx? fun l => l.dom == 4).getD 8
  (g.actors.filter fun a => j ≤ a.lvl).foldl (fun m a => max m (2 ^ a.gw)) 1
/-- Every unit at a level, over all parents (log 39, DEDUCED). -/
def allUnits (part : BitVec 1024) (w : Nat) : List Level → List HwUnit → List HwUnit
  | [], us => us
  | l :: ls, us => allUnits part w ls (if l.dom == 6 then us else us.flatMap (childUnits part w l.dom))
/-- The unit of a level instance, by its indices. -/
def unitAt (part : BitVec 1024) (w : Nat) : List Level → List Nat → HwUnit → Option HwUnit
  | _, [], u => some u
  | [], _ :: _, _ => none
  | l :: ls, k :: ks, u =>
    if l.dom == 6 then unitAt part w ls ks u
    else ((childUnits part w l.dom u)[k]?).bind fun c => unitAt part w ls ks c

/-! ### Reading a record and its graph (R16, R89) -/

/-- A 32-bit word of a list of bytes. -/
def rd32 (bs : List Byte) (off : Nat) : Nat := ofBytes ((bs.drop off).take 4)
/-- A 64-bit word. -/
def rd64 (bs : List Byte) (off : Nat) : Nat := ofBytes ((bs.drop off).take 8)
/-- Level entry j of a record (R16). -/
def readLevel (bs : List Byte) (j : Nat) : Level :=
  let c := rd32 bs (0x2C + 16 * j)
  { dom := c % 8, scope := c / 8 % 8, ind := c / 64 % 2 == 1, clk := c / 128 % 2 == 1,
    count := BitVec.ofNat 64 (rd64 bs (0x20 + 16 * j)), max := rd32 bs (0x28 + 16 * j) }
/-- A launch from a record's bytes, before its graph. -/
def readRecord (bs : List Byte) : Launch :=
  let ctl := rd32 bs 8
  { done := BitVec.ofNat 64 (rd64 bs 0x10), after := BitVec.ofNat 64 (rd64 bs 0x18), wdg := ctl / 16 % 8,
    rst := ctl / 8 % 2 == 1, levels := (List.range (ctl % 8 + 1)).map (readLevel bs) }
/-- The narrowest scope of a domain (R17). -/
def narrowest : Nat → Nat
  | 0 => 5
  | 1 => 4
  | 2 => 3
  | 3 => 2
  | 4 => 1
  | _ => 0
/-- Whether level j of a list keeps the rules of R16 to R18 that need no graph. -/
def levelOk (bs : List Byte) (ls : List Level) (j : Nat) : Bool :=
  let l := ls.getD j {}
  let ctl := rd32 bs (0x2C + 16 * j)
  let d := domAt ls j 0
  ctl < 256 && l.dom != 7 && 1 ≤ l.max && (j != 0 || l.dom != 6) &&
    (j == 0 || l.dom == 6 || domAt ls (j - 1) 0 < d) && narrowest d ≤ l.scope &&
    (if l.ind then l.count.toNat % 4 == 0 && spaceOf l.count == 0 else l.count.toNat < 2 ^ 32)
/-- Whether a record keeps the rules of R18 that need no graph and no partition (log 37, DEDUCED). -/
def recordOk (va : Word) (bs : List Byte) (l : Launch) : Bool :=
  let ctl := rd32 bs 8
  let n := l.levels.length
  va.toNat % 32 == 0 && ctl < 128 && l.wdg ≤ 4 && rd32 bs 12 == 0 && ((bs.drop (0x20 + 16 * n)).all fun b => b == 0) &&
    (List.range n).all (levelOk bs l.levels) && (l.levels.countP fun l => l.clk) ≤ 1
/-- Round a window up (R189). -/
def roundWindow (n : Nat) : Nat := (n + 255) / 256 * 256
/-- An actor entry, without its rates. -/
def readActor (bs : List Byte) : Actor :=
  let c := rd32 bs 12
  { entry := BitVec.ofNat 64 (rd64 bs 0), wdog := c / 512 % 32, rst := c / 256 % 2 == 1, gw := c / 64 % 4,
    scope := c / 8 % 8, lvl := c % 8 }
/-- A channel entry. -/
def readChan (bs : List Byte) : ChanDecl := { slots := rd32 bs 4, bytes := rd32 bs 8, base := rd32 bs 12 }
/-- A rate list of n words. -/
def readRates (bs : List Byte) (n : Nat) : List (Nat × Nat) :=
  (List.range n).map fun j => (rd32 bs (4 * j) % 65536, rd32 bs (4 * j) / 65536)
/-- What reading a graph block finds: a release that is still to be published there (R259), a translation cause, a block that R89 rejects before its end is known, or a graph
and whether its reserved fields are 0. -/
inductive GraphRes where
  | waits
  | failed (cause : Nat)
  | bad
  | ok (s : State) (g : Graph) (clean : Bool)
deriving DecidableEq, Repr
/-- Read the rate lists of actor entries. -/
def readActors (s : State) (v : Nat) (va : Word) : List (List Byte) → GraphRes
  | [] => .ok s {} true
  | e :: es =>
    let nin := (e.getD 16 0).toNat
    let nout := (e.getD 17 0).toNat
    if 8 < nin || 8 < nout then .bad
    else if !(partServed s v (va + BitVec.ofNat 64 (rd32 e 20)) (4 * (nin + nout))) then .waits
    else
      match partRead s v (va + BitVec.ofNat 64 (rd32 e 20)) (4 * (nin + nout)) with
      | .error c => .failed c
      | .ok (s, rs) =>
        let rates := readRates rs (nin + nout)
        let a := { readActor e with ins := rates.take nin, outs := rates.drop nin }
        let clean := rd32 e 12 < 2 ^ 14 && rd32 e 16 / 65536 == 0
        match readActors s v va es with
        | .ok s g c => .ok s { g with actors := a :: g.actors } (clean && c)
        | r => r
/-- Read a graph block. -/
def readGraph (s : State) (v : Nat) (va : Word) : GraphRes :=
  match if partServed s v va 16 then partRead s v va 16 else .ok (s, []) with
  | .error c => .failed c
  | .ok (_, []) => .waits
  | .ok (s, h) =>
    let na := rd32 h 0 % 65536
    let nc := rd32 h 0 / 65536
    if na == 0 || 64 < na || 256 < nc then .bad
    else if !(partServed s v (va + 16) (24 * na + 16 * nc)) then .waits
    else
      match partRead s v (va + 16) (24 * na + 16 * nc) with
      | .error c => .failed c
      | .ok (s, b) =>
        let es := (List.range na).map fun j => (b.drop (24 * j)).take 24
        let cs := (List.range nc).map fun j => readChan ((b.drop (24 * na + 16 * j)).take 16)
        match readActors s v va es with
        | .ok s g c => .ok s { g with swin := rd32 h 4, cwin := rd32 h 8, chwin := rd32 h 12, chans := cs } c
        | r => r
/-- Whether an actor keeps the rules of R89. -/
def actorOk (ls : List Level) (g : Graph) (a : Actor) : Bool :=
  (a.wdog == 0 || (12 ≤ a.wdog && a.wdog ≤ 20)) && a.lvl < ls.length && (a.gw == 0 || domAt ls a.lvl 0 != 5) &&
    (a.ins ++ a.outs).all fun r => match g.chans[r.1]? with
      | none => false
      | some c => 1 ≤ r.2 && r.2 ≤ c.slots
/-- Whether a channel does. -/
def chanOk (g : Graph) (c : ChanDecl) : Bool :=
  1 ≤ c.slots && c.slots ≤ 65535 && c.bytes % 8 == 0 && 8 ≤ c.bytes && c.bytes ≤ 4096 &&
    c.base + c.slots * c.bytes ≤ roundWindow g.cwin
/-- Whether a graph keeps them. -/
def graphOk (ls : List Level) (g : Graph) : Bool :=
  g.swin ≤ 32768 && g.cwin ≤ 524288 && g.chwin ≤ 33554432 && g.actors.all (actorOk ls g) && g.chans.all (chanOk g)
/-- Whether every hardware level's maximum can be met under every parent (R18). -/
def maxOk (part : BitVec 1024) (ls : List Level) (g : Graph) : Bool :=
  let w := gangWidth ls g
  (List.range ls.length).all fun j =>
    let l := ls.getD j {}
    l.dom == 6 || (allUnits part w (ls.take j) [{}]).all fun p => l.max ≤ (childUnits part w l.dom p).length

/-! ### Ending a launch (R19, R23) -/

/-- A LAUNCH record (R19, R273): that of a step launch waits at the context die, die 4 here (R274). -/
def launchRecord (s : State) (v : Nat) (va : Word) (step : Bool) (cause tc : Nat) : State :=
  queueRecord s { partRecord v 7 va (BitVec.ofNat 64 (cause + 256 * tc)) with die := if step then 4 else 0 }
/-- Whether a launch serves a step of a model instance, whose completion word the context die keeps (R397). -/
def isStep : Origin → Bool
  | .step _ _ => true
  | _ => false
/-- Write a completion word; false while its page is asked for. A fault writes a LAUNCH record instead (R19)
(log 42, DEDUCED). -/
def writeStatus (s : State) (l : Launch) (code : Nat) : State × Bool :=
  if isStep l.origin then (setHts s (max s.hts l.wts), true)
  else
    match partLocate s l.tenant l.done .wr with
    | (s, .ask _ _) => (s, false)
    | (s, .cause e) => (launchRecord s l.tenant l.recVa false 6 e, true)
    | (s, .ok p) =>
      let s := partPut s p.key 8 code l.wts
      (if spaceOf l.done == 1 then sendMsix s l.tenant 2 else s, true)
/-- Tell a step that a launch of it has ended. -/
def stepEnded (s : State) (id : Nat) (bad : Bool) : State :=
  let go (t : Step) : Step :=
    if t.launches.contains id then { t with launches := t.launches.filter (· != id), bad := t.bad || bad } else t
  setCtx s { s.ctx with
    steps := s.ctx.steps.map go
    stubs := (s.ctx.stubs.map fun b => { b with launches := b.launches.filter (· != id) }).filter fun b => !b.launches.isEmpty }
/-- The notices that a launch's messages and slots hold. -/
def launchNotes (s : State) (id : Nat) : List (Nat × Nat) :=
  ((s.transit ++ s.inbox.map (·.2)).filter fun m => m.launch == id).filterMap (·.note) ++
    (s.chans.filter fun x => x.launch == id).flatMap fun x => x.notes.map (·.2)
/-- Forget a launch: its instances, channels, barriers, windows, held messages and clocks (R23, R163, R182, R189, R206). Its
tasks keep their entries until they retire (R296); a notice that goes with its message counts as acknowledged
(log 47, DEDUCED). -/
def forgetLaunch (s : State) (id : Nat) : State :=
  let gone (i : Nat) : Bool := (instOf s i).any fun x => x.launch == id
  let s := ackAll (setClosed s (s.closed.filter fun g => !(gone g.inst))) (launchNotes s id)
  let s := setInsts s (s.insts.filter fun x => x.launch != id)
  let s := setChans s (s.chans.filter fun x => x.launch != id)
  let s := setBars s (s.bars.filter fun x => x.launch != id)
  let s := setInbox s (s.inbox.filter fun e => e.2.launch != id)
  let s := setTransit s (s.transit.filter fun m => m.launch != id)
  let s := retireClocks s id
  setLaunches s (s.launches.filter fun l => l.id != id)
/-- The supervisor's place is free again, and a held `supl` write is taken up (R407). -/
def freeSupl (s : State) (v id : Nat) : State :=
  let t := tenantOf s v
  if t.suplLaunch == some id then
    putTenant s v { t with suplLaunch := none, supl := t.suplHeld, suplHeld := none }
  else s
/-- A `supl` write has been taken up: its launch runs, or a held write takes its place (R407). -/
def tookSupl (s : State) (v : Nat) (id : Option Nat) : State :=
  let t := tenantOf s v
  match id with
  | some _ => putTenant s v { t with supl := none, suplLaunch := id }
  | none => putTenant s v { t with supl := t.suplHeld, suplHeld := none }
/-- End a launch with a status, once its word can be written. -/
def endLaunch (s : State) (l : Launch) (code : Nat) : State :=
  match writeStatus s l code with
  | (s, false) => s
  | (s, true) => freeSupl (stepEnded (forgetLaunch s l.id) l.id (code != 1)) l.tenant l.id

/-! ### Acceptance (R16 to R20, R376, R407, R409) -/

/-- The outcome of an acceptance. -/
inductive Accept where
  | asking
  | unreportable (info : Nat)
  | rejected
  | accepted (id : Nat)
deriving DecidableEq, Repr
/-- The clamped counts of levels whose counts are immediate (R20). -/
def clampCount (l : Level) (n : Nat) : Nat := min n l.max
/-- Accept a launch from the bytes of its record. -/
def acceptBytes (s : State) (v : Nat) (va : Word) (o : Origin) (bs : List Byte) : State × Accept :=
  let step := isStep o
  let unrep (s : State) (cause tc : Nat) : State × Accept :=
    (launchRecord s v va step cause tc, .unreportable (cause + 256 * tc))
  let l0 := readRecord bs
  let ls := l0.levels
  let n := l0.done.toNat
  let check : State × Loc := if step then (s, .ok {}) else partLocate s v l0.done .wr
  if !step && (n == 0 || n % 8 != 0 || 1 < spaceOf l0.done) then unrep s 2 0
  else
    match check with
    | (s, .ask _ _) => (s, .asking)
    | (s, .cause e) => unrep s 2 e
    | (s, .ok _) =>
      let (id, s) := newId s
      let l0 := { l0 with id := id, tenant := v, recVa := va, origin := o }
      let reject (s : State) : State × Accept := match writeStatus s l0 2 with
        | (s, true) => (s, .rejected)
        | (s, false) => (s, .asking)
      let gva := BitVec.ofNat 64 (rd64 bs 0)
      if !(recordOk va bs l0) || gva.toNat % 64 != 0 then reject s
      else
        match readGraph s v gva with
        | .waits => (s, .asking)
        | .bad => reject s
        | .failed c => reject (launchRecord s v va step 3 c)
        | .ok s g clean =>
          let part := (tenantOf s v).clmask
          if !clean || !(graphOk ls g) || !(maxOk part ls g) then reject s
          else
            let wait := l0.after != 0 || ls.any fun l => l.ind
            let l := { l0 with graph := g, part := part, held := wait, ts := s.hts
                               counts := if wait then [] else ls.map fun k => clampCount k k.count.toNat }
            (setIcache (setLaunches s (s.launches ++ [l])) [], .accepted id)
/-- Accept a launch whose record lies in the tenant's memory. -/
def acceptRecord (s : State) (v : Nat) (va : Word) (o : Origin) : State × Accept :=
  if !(partServed s v va 160) then (s, .asking)
  else
  match partRead s v va 160 with
  | .error e => (launchRecord s v va false 1 e, .unreportable (1 + 256 * e))
  | .ok (s, bs) => acceptBytes s v va o bs
/-- The next entry of a launch queue: it advances lqhead, or is skipped (R409) (log 43, DEDUCED). -/
def acceptQueue (s : State) (v : Nat) : Out :=
  let t := tenantOf s v
  let past (s : State) (skip : Bool) : State :=
    let t := tenantOf s v
    putTenant s v { t with lqhead := t.lqhead + 1, lqerr := if skip then t.lqerr + 1 else t.lqerr }
  let at' := t.lqbase + BitVec.ofNat 64 (8 * (t.lqhead.toNat % 2 ^ t.lqlog.toNat))
  if !(partServed s v at' 8) then .next s
  else
  match partRead s v at' 8 with
  | .error _ => .next (past s true)
  | .ok (s, bs) =>
    let va := BitVec.ofNat 64 (ofBytes bs)
    if va.toNat % 32 != 0 || spaceOf va != 0 then .next (past s true)
    else
      match acceptRecord s v va .queue with
      | (s, .asking) => .next s
      | (s, .unreportable _) => .next (past s true)
      | (s, _) => .next (past s false)
/-- Replace a slot. -/
def putSlot (s : State) (t : Slot) : State := setSlots s (putWhere (fun x => x.num == t.num) t s.slots)
/-- The slot of a number that a tenant has started; one that no entry names is idle. -/
def slotOf (s : State) (n : Nat) : Option Slot := s.slots.find? fun x => x.num == n
/-- LAUNCH_ACCEPT: the part accepts the next queue entry, the supervisor's record or an agent's, and reads it once. -/
def execLaunchAccept (v : Nat) (src : LaunchSrc) (s : State) : Out :=
  let t := tenantOf s v
  if t.vstate != 2 then notEnabled "LAUNCH_ACCEPT"
  else
    match src with
    | .queue => if t.lqhead == t.lqtail || t.supl.isSome then notEnabled "LAUNCH_ACCEPT" else acceptQueue s v
    | .supl =>
      match t.supl with
      | none => notEnabled "LAUNCH_ACCEPT"
      | some va =>
        match acceptRecord s v va .supl with
        | (s, .asking) => .next s
        | (s, .accepted id) => .next (tookSupl s v (some id))
        | (s, _) => .next (tookSupl s v none)
    | .klaunch n =>
      match slotOf s n with
      | none => notEnabled "LAUNCH_ACCEPT"
      | some k =>
        match k.klaunch with
        | none => notEnabled "LAUNCH_ACCEPT"
        | some (dest, va) =>
          if k.tenant != v then notEnabled "LAUNCH_ACCEPT"
          else
            let done (s : State) (r : Word) : Out := match slotOf s n with
              | none => .next s
              | some k => .next (putSlot s { k with a := k.a.setIfInBounds dest r, pc := k.pc + 8, klaunch := none })
            match acceptRecord s v va (.klaunch n dest) with
            | (s, .asking) => .next s
            | (s, .unreportable info) => done s (BitVec.ofNat 64 info)
            | (s, _) => done s 0
/-- LQ_DOORBELL: a write of lqtail, ignored unless ready and at most the queue's entries ahead. -/
def execLqDoorbell (v : Nat) (tail : W32) (s : State) : Out :=
  let t := tenantOf s v
  if t.vstate == 2 && (tail - t.lqhead).toNat ≤ 2 ^ t.lqlog.toNat then .next (putTenant s v { t with lqtail := tail })
  else .next s
/-- SUPL_WRITE: the supervisor's record is submitted, or held behind the running supervisor; ignored before ready. -/
def execSuplWrite (v : Nat) (val : Word) (s : State) : Out :=
  let t := tenantOf s v
  if t.vstate != 2 then .next s
  else if t.suplLaunch.isSome || t.supl.isSome then .next (putTenant s v { t with suplHeld := some val })
  else .next (putTenant s v { t with supl := some val })

/-! ### After words and indirect counts (R20, R258, R268) -/

/-- Read the counts of levels in order; a key that an unfinished release covers is not read yet. -/
def readCounts (s : State) (v launch : Nat) : List Level → Except Nat (State × Option (List Nat))
  | [] => .ok (s, some [])
  | l :: ls =>
    if l.ind then
      match partKey s v l.count .rd with
      | .error e => .error e
      | .ok k =>
        if !(served s .sys k 4) then .ok (s, none)
        else
          let (s, n) := partWord s k 4 launch
          match readCounts s v launch ls with
          | .ok (s, some r) => .ok (s, some (clampCount l n :: r))
          | r => r
    else
      match readCounts s v launch ls with
      | .ok (s, some r) => .ok (s, some (clampCount l l.count.toNat :: r))
      | r => r
/-- A launch as it stands, FAILED if one of its host reads was answered with an error (R235). -/
def proceeding (s : State) (l : Nat) (k : Launch) : Launch := { k with failed := ((launchOf s l).map (·.failed)).getD k.failed }
/-- LAUNCH_PROCEED: the after word is nonzero, and the indirect counts are read, once (R20). -/
def execLaunchProceed (l : Nat) (s : State) : Out :=
  match launchOf s l with
  | none => notEnabled "LAUNCH_PROCEED"
  | some k =>
    if !k.held then notEnabled "LAUNCH_PROCEED"
    else
      let reject (s : State) (cause tc : Nat) : Out :=
        match partLocate s k.tenant k.done .wr with
        | (s, .ask _ _) => .next s
        | (s, _) => .next (endLaunch (launchRecord s k.tenant k.recVa (isStep k.origin) cause tc) k 2)
      let counts (s : State) : Out :=
        match readCounts s k.tenant l k.levels with
        | .error e => reject s 5 e
        | .ok (_, none) => notEnabled "LAUNCH_PROCEED"
        | .ok (s, some cs) => .next (putLaunch s { proceeding s l k with held := false, counts := cs, ts := s.hts })
      if k.after == 0 then counts s
      else
        match partLocate s k.tenant k.after .rd with
        | (s, .ask _ _) => .next s
        | (s, .cause e) => reject s 4 e
        | (s, .ok p) =>
          let (s', n) := partWord s p.key 8 l
          if n == 0 || !(served s .sys p.key 8) then notEnabled "LAUNCH_PROCEED" else counts s'

/-! ### Taking context (R20, R24, R163, R182, R189, R409) -/

/-- Whether some level instance that has not taken context satisfies a test on its unit and the number of its level. -/
def openLevel (l : Launch) (w : Nat) (want : Nat → HwUnit → Bool) : List (Level × Nat) → List Nat → HwUnit → Bool
  | [], _, _ => false
  | (lv, cnt) :: rest, pre, u =>
    if lv.dom == 6 then
      let got := l.taken.countP fun p => p.length == pre.length + 1 && p.take pre.length == pre
      (List.range (min cnt (got + 1))).any fun k =>
        (got ≤ k && want pre.length u) || openLevel l w want rest (pre ++ [k]) u
    else
      ((childUnits l.part w lv.dom u).take cnt).zipIdx.any fun e =>
        (want pre.length e.1 && !(l.taken.contains (pre ++ [e.2]))) || openLevel l w want rest (pre ++ [e.2]) e.1
/-- The gang width of a launch. -/
def launchWidth (l : Launch) : Nat := gangWidth l.levels l.graph
/-- The actors bound at a level, by number. -/
def actorsAt (l : Launch) (j : Nat) : List Nat :=
  (List.range l.graph.actors.length).filter fun a => ((l.graph.actors[a]?).map (·.lvl)).getD 8 == j
/-- Whether a launch has a level instance that has not taken context: any one, or one that needs a cluster. -/
def hasOpen (l : Launch) (clus : Option Nat) : Bool :=
  let want (_ : Nat) (u : HwUnit) : Bool := match clus with
    | none => true
    | some c => placeOf l.part u == some c
  openLevel l (launchWidth l) want (l.levels.zip l.counts) [] {}
/-- Whether another tenant has state on a cluster that is not saved (R411). -/
def othersOn (s : State) (v c : Nat) : Bool :=
  (s.insts.any fun x => x.clus == c && x.tenant != v && !(isSaved s x.tenant c)) ||
    (s.launches.any fun l => l.tenant != v && !(isSaved s l.tenant c) && l.windows.any fun w => w.space != 4 && w.place == c) ||
    s.firings.any fun f => f.clus == c && f.tenant != v
/-- Whether a place in an explicit memory is clear of some windows there. -/
def clearOf (ws : List Window) (base size : Nat) : Bool := ws.all fun w => base + size ≤ w.base || w.base + w.size ≤ base
/-- The lowest base at which a window of a size fits beside others, in an explicit memory of some capacity (R189). -/
def lowestBase (ws : List Window) (size cap : Nat) : Option Nat :=
  let free (b : Nat) : Bool := b + size ≤ cap && clearOf ws b size
  (0 :: ws.map fun w => w.base + w.size).foldl (fun best b =>
    if free b && (match best with
      | none => true
      | some m => b < m) then some b else best) none
/-- The windows in an explicit memory at a place, without those that rest in a save area (R280). -/
def liveWindows (s : State) (space place : Nat) : List Window :=
  s.launches.flatMap fun l => l.windows.filter fun w => w.space == space && w.place == place &&
    !(isSaved s l.tenant (if space == 4 then 1024 + place else place))
/-- The keys of a scratch or cluster window's bytes, as ranges. -/
def windowRanges (w : Window) : List (Nat × Nat) :=
  match w.space with
  | 5 => [(memKey .cluster (w.place * 2 ^ 19 + w.base), w.size)]
  | 6 => (List.range 8).map fun i => (memKey .scratch ((w.place * 8 + i) * 2 ^ 15 + w.base), w.size)
  | _ => [(memKey .chip (w.place * 2 ^ 25 + w.base), w.size)]
/-- Allot one window, if the launch has a section for it and none there yet. -/
def allotWindow (space place size cap : Nat) (id : Nat) (s : State) : Option State :=
  match launchOf s id with
  | none => none
  | some l =>
    if size == 0 || (l.windows.any fun w => w.space == space && w.place == place) then some s
    else
      (lowestBase (liveWindows s space place) (roundWindow size) cap).map fun b =>
        let w : Window := { space := space, place := place, base := b, size := roundWindow size }
        let inW (k : Nat) : Bool := (windowRanges w).any fun r => r.1 ≤ k && k < r.1 + r.2
        putLaunch (setFull s (s.full.filter fun k => !(inW k))) { l with windows := l.windows ++ [w] }
/-- Give a launch a barrier group on a cluster, if it has none. -/
def allotBars (c id : Nat) (s : State) : Option State :=
  if s.bars.any fun g => g.clus == c && g.launch == id then some s
  else
    let used (j : Nat) : Bool := s.bars.any fun g =>
      g.clus == c && g.group == j && !((launchOf s g.launch).any fun l => isSaved s l.tenant c)
    ((List.range 4).find? fun j => !(used j)).map fun j =>
      setBars s (s.bars ++ [{ clus := c, launch := id, group := j }])
/-- Create the channel instances that actors name on a cluster. -/
def makeChans (c : Nat) (l : Launch) (actors : List Nat) (s : State) : Option State :=
  let ids := (actors.flatMap fun a => ((l.graph.actors[a]?).map fun x => (x.ins ++ x.outs).map (·.1)).getD []).eraseDups
  let new := ids.filter fun ch => (chanAt s c l.id ch).isNone
  let here := s.chans.countP fun x => x.clus == c && !(isSaved s x.tenant c)
  if 512 < here + new.length then none
  else
    let base := clusterBase s l.id c
    let mk (ch : Nat) : Chan :=
      let d := l.graph.chans.getD ch {}
      { clus := c, launch := l.id, tenant := l.tenant, chan := ch, slots := d.slots, bytes := d.bytes,
        base := base + d.base, free := List.range d.slots, hdrs := List.replicate d.slots 0 }
    some (setChans s (s.chans ++ new.map mk))
/-- Place the actor instances of a level instance. -/
def placeInsts (c : Nat) (group : Option (Nat × Nat)) (l : Launch) (path : List Nat) (actors : List Nat) (s : State) :
    Option State :=
  let here := s.insts.countP fun x => x.clus == c && !(isSaved s x.tenant c)
  if 64 < here + actors.length then none
  else
    some (actors.foldl (init := s) fun s a =>
      let (n, s) := newId s
      setInsts s (s.insts ++ [{ id := n, launch := l.id, tenant := l.tenant, actor := a, path := path, clus := c,
                                group := group }]))
/-- Everything that a level instance needs on its cluster, or none (log 46, DESIGN CHOICE). -/
def takeOn (c : Nat) (u : HwUnit) (l : Launch) (path : List Nat) (actors : List Nat) (s : State) : Option State :=
  let grp := if u.n < 8 then some (u.lo % 8, u.n) else none
  do
    let s ← allotWindow 6 c l.graph.swin 32768 l.id s
    let s ← allotWindow 5 c l.graph.cwin 524288 l.id s
    let s ← allotWindow 4 (dieOf c) l.graph.chwin 33554432 l.id s
    let s ← allotBars c l.id s
    let s ← makeChans c l actors s
    let s ← placeInsts c grp l path actors s
    return settle s c
/-- Whether level indices name an instance below every count, whose parent has taken context and that is the next of a
repeat level (R20). -/
def pathReady (l : Launch) (path : List Nat) : Bool :=
  let pre := path.dropLast
  let sib := l.taken.countP fun p => p.length == path.length && p.take pre.length == pre
  !path.isEmpty && path.length ≤ l.levels.length && ((path.zip l.counts).all fun e => e.1 < e.2) &&
    (pre.isEmpty || l.taken.contains pre) && !(l.taken.contains path) &&
    ((l.levels.getD (path.length - 1) {}).dom != 6 || path.getLast?.getD 0 == sib)
/-- LEVEL_TAKE_CONTEXT: a level instance takes context, in the order of acceptance on its cluster (R24, R409)
(log 45, DEDUCED). -/
def execLevelTakeContext (l : Nat) (path : List Nat) (s : State) : Out :=
  match launchOf s l with
  | none => notEnabled "LEVEL_TAKE_CONTEXT"
  | some k =>
    let actors := actorsAt k (path.length - 1)
    let mark (s : State) : State := setLaunches s
      (updWhere (fun x => x.id == l) (fun x => { x with taken := x.taken ++ [path] }) s.launches)
    if k.held || !(pathReady k path) then notEnabled "LEVEL_TAKE_CONTEXT"
    else
      match (unitAt k.part (launchWidth k) k.levels path {}).bind fun u => (placeOf k.part u).map fun c => (u, c) with
      | none => notEnabled "LEVEL_TAKE_CONTEXT"
      | some (u, c) =>
        let ahead := s.launches.any fun e => e.tenant == k.tenant && e.id < l && !e.held && hasOpen e (some c)
        if ahead || !(holdsCluster s k.tenant c) || (tenantOf s k.tenant).leaving.contains c || isSaved s k.tenant c || othersOn s k.tenant c ||
            s.cfg.fenced.contains c then notEnabled "LEVEL_TAKE_CONTEXT"
        else
          match takeOn c u k path actors (mark s) with
          | none => notEnabled "LEVEL_TAKE_CONTEXT"
          | some s => .next s

/-! ### Where a message address leads (R169, R172) -/

/-- The level indices, ascending, of the first instances of a level that are placed on a cluster. -/
def pathsOn (l : Launch) (w c : Nat) : List (Level × Nat) → List Nat → HwUnit → List (List Nat)
  | [], pre, u => if placeOf l.part u == some c then [pre] else []
  | (lv, cnt) :: rest, pre, u =>
    if !((unitClusters u).contains c) then []
    else if lv.dom == 6 then ((List.range (min cnt 64)).flatMap fun k => pathsOn l w c rest (pre ++ [k]) u).take 64
    else
      (((childUnits l.part w lv.dom u).take cnt).zipIdx.flatMap fun e => pathsOn l w c rest (pre ++ [e.2]) e.1).take 64
/-- Whether level indices lie within a finished repeat instance. -/
def isFinished (l : Launch) (path : List Nat) : Bool := l.finished.any fun p => path.take p.length == p
/-- Where a message goes. -/
inductive Target where
  | none
  | later
  | inst (x : Inst) (a : Actor)
deriving DecidableEq, Repr
/-- The instance that a message address names. -/
def targetOf (s : State) (m : Msg) : Target :=
  match launchOf s m.launch with
  | none => .none
  | some l =>
    match l.graph.actors[maActor m.addr]? with
    | none => .none
    | some a =>
      let lv := (l.levels.zip l.counts).take (a.lvl + 1)
      match (pathsOn l (launchWidth l) (maClus m.addr) lv [] {})[maInst m.addr]? with
      | none => .none
      | some p =>
        if isFinished l p then .none
        else if !(l.taken.contains p) then .later
        else
          match s.insts.find? fun x =>
              x.launch == l.id && x.actor == maActor m.addr && x.path == p && x.clus == maClus m.addr with
          | some x => .inst x a
          | none => .none

/-! ### Completion (R20, R23, R266) -/

/-- Whether an instance is quiescent. -/
def quiescent (x : Inst) : Bool :=
  match x.st with
  | .waiting => true
  | .failed => true
  | .spent => true
  | _ => false
/-- Whether an engine command or tile task of the issuers that p selects is unfinished. -/
def workLeft (s : State) (cmd : Cmd → Bool) (task : Task → Bool) : Bool :=
  s.eng.cmds.any cmd || s.tasks.tasks.any fun t => task t && !t.fin
/-- REPEAT_INSTANCE_FINISH: a repeat instance has finished and gives back its slots (R20). -/
def execRepeatInstanceFinish (l : Nat) (path : List Nat) (s : State) : Out :=
  match launchOf s l with
  | none => notEnabled "REPEAT_INSTANCE_FINISH"
  | some k =>
    let under (p : List Nat) : Bool := p.take path.length == path
    let mine (x : Inst) : Bool := x.launch == l && under x.path
    let ids := (s.insts.filter mine).map (·.id)
    let rest := (k.levels.zip k.counts).drop path.length
    let below := (unitAt k.part (launchWidth k) k.levels path {}).any fun u =>
      openLevel k (launchWidth k) (fun _ _ => true) rest path u
    let msg (m : Msg) : Bool := m.launch == l && match targetOf s m with
      | .inst x _ => mine x
      | _ => false
    if path.isEmpty || (k.levels.getD (path.length - 1) {}).dom != 6 || !(k.taken.contains path) ||
        isFinished k path || below || !(s.insts.all fun x => !(mine x) || quiescent x) || s.transit.any msg ||
        (s.inbox.any fun e => ids.contains e.2.inst) ||
        workLeft s (fun m => ids.contains m.inst) (fun t => ids.contains t.inst) then
      notEnabled "REPEAT_INSTANCE_FINISH"
    else
      let s := setInsts s (s.insts.filter fun x => !(mine x))
      let s := setClosed s (s.closed.filter fun g => !(ids.contains g.inst))
      .next (putLaunch s { k with finished := k.finished ++ [path] })
/-- Whether a message in an inbox can fill a slot at once. -/
def canFill (s : State) (e : Nat × Msg) : Bool :=
  maPort e.2.addr < 8 && match (actorOf s e.2.launch (maActor e.2.addr)).ins[maPort e.2.addr]? with
    | none => false
    | some r => (chanAt s e.1 e.2.launch r.1).any fun x => !x.free.isEmpty
/-- LAUNCH_COMPLETE: every instance is quiescent, every send delivered and every command ended; once all is Done at system
scope, the completion word is written (R23, R266). -/
def execLaunchComplete (l : Nat) (s : State) : Out :=
  match launchOf s l with
  | none => notEnabled "LAUNCH_COMPLETE"
  | some k =>
    if k.held || hasOpen k none || (s.insts.any fun x => x.launch == l && !(quiescent x)) ||
        (s.firings.any fun f => f.launch == l) || (s.transit.any fun m => m.launch == l && m.kind != 4) ||
        (s.inbox.any fun e => e.2.launch == l && canFill s e) ||
        workLeft s (fun m => m.launch == l) (fun t => t.launch == l) then notEnabled "LAUNCH_COMPLETE"
    else
      let mine (p : PCore) : List Acc := p.accs.filter fun a => a.launch == l && a.kind != .fence
      if s.pcores.all fun p => (mine p).all sysDone then .next (endLaunch s k (if k.failed then 3 else 1))
      else
        let s' := s.pcores.foldl (fun s p => sendMarkers s p.c p.i (mine p)) s
        if s'.markers.length == s.markers.length then notEnabled "LAUNCH_COMPLETE" else .next (sweep s')

end Sys2Proof.Machine
end

