-- ==== Sys2Proof/Machine/Schedule.lean ====
section
/-! DEFINITION. The actor scheduler and what ends a firing or follows it: binding, starvation, commits, the watchdog,
records, hardware errors, and the delivery of messages (R25 to R29, R106 to R109, R164, R165, R168, R172 to R174, R274,
R275, R279, R281). -/

namespace Sys2Proof.Machine

/-! ### Groups of cores (R106, R107, R281) -/

/-- The width of an instance's firings. -/
def instWidth (s : State) (x : Inst) : Nat := 2 ^ (actorOf s x.launch x.actor).gw
/-- The leads of the aligned groups to which an instance may bind, ascending. -/
def leadsOf (s : State) (x : Inst) : List Nat :=
  let r := x.group.getD (0, 8)
  let w := instWidth s x
  (List.range (r.2 / w)).map fun k => r.1 + k * w
/-- Whether a core is in service (log 48, DEDUCED). -/
def inService (s : State) (c i : Nat) : Bool := !(pcoreAt s c i).out
/-- Whether every core of a group is in service and none is one that an instance avoids. -/
def groupSound (s : State) (x : Inst) (lead : Nat) : Bool :=
  (rangeFrom lead (instWidth s x)).all fun i => inService s x.clus i && x.avoid != some i
/-- Whether a tenant may start firings on a cluster now (R278, R280, R411). -/
def mayRun (s : State) (v c : Nat) : Bool :=
  !((tenantOf s v).preempt.contains c) && !(isSaved s v c) && !(s.cfg.fenced.contains c) && !(othersOn s v c)
/-! ### Binding (R106 to R109, R279) -/
/-- Whether an instance is eligible and its tenant may start firings on its cluster. -/
def readyInst (s : State) (c : Nat) (x : Inst) : Bool := x.clus == c && x.st == .eligible && mayRun s x.tenant c
/-- The oldest of a list of instances. -/
def oldestInst : List Inst → Option Inst
  | [] => none
  | x :: xs => some (xs.foldl (fun b y => if y.age < b.age then y else b) x)
/-- The group that the oldest eligible instance of a cluster waits for: the lowest whose cores are all sound (R107) (log 129,
DESIGN CHOICE). -/
def waitGroup (s : State) (c : Nat) : Option Closed :=
  (oldestInst (s.insts.filter (readyInst s c))).bind fun x =>
    ((leadsOf s x).find? (groupSound s x)).map fun l => { c := c, inst := x.id, lead := l, width := instWidth s x }
/-- The groups that are closed: those that the scheduler has closed, and the one that it must, its instance having gone 4,096
clk without binding (R107). -/
def closedGroups (s : State) (c : Nat) : List Closed :=
  match waitGroup s c with
  | none => s.closed
  | some g => if (s.insts.any fun x => x.id == g.inst && x.since + 4096 ≤ s.clk) && !(s.closed.any fun h => h.inst == g.inst)
      then s.closed ++ [g] else s.closed
/-- Whether a core is free for an instance: no firing runs there, and no other instance keeps it closed. -/
def coreFree (s : State) (x : Inst) (i : Nat) : Bool :=
  (firingAt s x.clus i).isNone &&
    (closedGroups s x.clus).all fun g => g.c != x.clus || g.inst == x.id || i < g.lead || g.lead + g.width ≤ i
/-- The lead of the group to which an instance binds now, if one is free. -/
def bindLead (s : State) (x : Inst) : Option Nat :=
  (leadsOf s x).find? fun l => groupSound s x l && (rangeFrom l (instWidth s x)).all (coreFree s x)
/-- What the commits that filled the input slots of an instance cover, and the timestamps that they carry (R167, R258). -/
def inputCovers (s : State) (x : Inst) (rs : List Resv) : List Nat × Nat :=
  (rs.filter (·.input)).foldl (init := ([], 0)) fun st r =>
    match chanAt s x.clus x.launch r.chan with
    | none => st
    | some ch =>
      (st.1 ++ (ch.rel.filter fun e => r.slots.contains e.1).flatMap (·.2),
        (ch.relTs.filter fun e => r.slots.contains e.1).foldl (fun m e => max m e.2) st.2)
/-- Whether those releases are published to the firing that binds: a reader on the cluster (R259). -/
def inputsQuiet (s : State) (x : Inst) : Bool :=
  pendDone s ((inputCovers s x (x.kept.getD [])).1 ++ x.pend) (.core x.clus 8)

/-- The registers that a mask selects take their captured values; the others their values at entry (R137, R279). -/
def restoreCore (i : Nat) (k : Capture × BitVec 7) : Core :=
  let c := k.1
  { idx := i, pc := c.entry
    x := Vector.ofFn fun j => if j.val != 0 && c.mask.getLsbD j.val then vget c.x j.val 0 else 0
    v := Vector.ofFn fun j => if j.val < 30 && c.mask.getLsbD (32 + j.val) then vget c.v j.val 0 else 0
    p := if c.mask.getLsbD 62 then c.p else .replicate 8 0
    nflags := k.2, rgentry := c.entry, rgmask := c.mask, capture := some k }
/-- The uniform file after a discard; where the cores of a fused gang opened the region with different masks, the first core's
decides (R137, R279) (log 132, DESIGN CHOICE). -/
def restoreUniform : List (Capture × BitVec 7) → UFile
  | [] => {}
  | k :: _ => if k.1.mask.getLsbD 63 then { g := k.1.g, gp := k.1.gp } else {}
/-- The limit of a firing's watchdog (R28). -/
def wdLimit (s : State) (x : Inst) : Nat :=
  let a := actorOf s x.launch x.actor
  if a.wdog != 0 then 2 ^ a.wdog else 2 ^ (16 + ((launchOf s x.launch).map (·.wdg)).getD 0)
/-- The firing that an instance starts on a group. -/
def newFiring (s : State) (x : Inst) (id lead : Nat) : Firing :=
  let w := instWidth s x
  let a := actorOf s x.launch x.actor
  let f : Firing :=
    { id := id, inst := x.id, launch := x.launch, tenant := x.tenant, clus := x.clus, actor := x.actor, lead := lead,
      wdlimit := wdLimit s x, attempt := x.attempt, resv := x.kept.getD [],
      cores := (rangeFrom lead w).map fun i => { idx := i, pc := a.entry } }
  match x.disc with
  | none => f
  | some d =>
    { f with cores := d.cores.zipIdx.map fun e => restoreCore (lead + e.2) e.1
             u := restoreUniform d.cores, wdcount := d.wdcount, issued := 0 < d.wdcount, resv := d.resv
             staged := d.staged, popped := d.popped, mark := (d.staged.length, d.popped) }
/-- The lane slices of a cluster are zeroed when another tenant's firings come to it (R411). -/
def turnLanes (s : State) (v c : Nat) : State :=
  let s := match s.cfg.lastOn.find? fun e => e.1 == c with
    | some e =>
      if e.2 == v then s
      else setMem s (memClear s.mem (memKey .lane (c * 8 * 2 ^ 14)) (memKey .lane ((c + 1) * 8 * 2 ^ 14)))
    | none => s
  setCfg s { s.cfg with lastOn := putWhere (fun e => e.1 == c) (c, v) s.cfg.lastOn }
/-- The greatest timestamp that a firing acquires with its input slots, its launch's acceptance and a resolution by
retry (R167, R258, R267, R275). -/
def bindTs (s : State) (x : Inst) (f : Firing) : Nat :=
  max (inputCovers s x f.resv).2 (max x.ts (((launchOf s x.launch).map (·.ts)).getD 0))
/-- Bind an instance to a group. -/
def bindInst (s : State) (x : Inst) (lead : Nat) : State :=
  let (id, s) := newId (turnLanes s x.tenant x.clus)
  let f := newFiring s x id lead
  let s := updInst s x.id fun y => { y with st := .firing id, kept := none, disc := none, avoid := none }
  let s := acquire s x.clus (f.cores.map (·.idx)) ((inputCovers s x f.resv).1 ++ x.pend) (bindTs s x f)
  setFirings (setClosed s (s.closed.filter fun g => g.inst != x.id)) (s.firings ++ [f])

/-! ### Records of a hardware error, and fences (R281) -/

/-- A HWERR record (R273) (log 23, DEDUCED). -/
def hwRecord (s : State) (f : Firing) (core : Nat) (restarted : Bool) : Record :=
  { die := dieOf f.clus, tenant := f.tenant, cause := if restarted then 0 else 0x18, rtype := 6, core := core,
    clus := f.clus, actid := f.actor, val := BitVec.ofNat 64 f.attempt, info := if restarted then 1 else 0,
    wdc := f.wdcount, flags := ((f.cores.find? fun k => k.idx == core).getD {}).nflags, firing := f.id
    ts := firingTs s f }
/-- A firing that cannot be restarted ends as `end.fail` would. -/
def hwFail (s : State) (f : Firing) (core : Nat) : State :=
  let s := abortFiring (ackNotices s f) f (endAccs f.id)
  settle (queueRecord (failInst s f.inst f.launch) (hwRecord s f core false)) f.clus
/-- Fence a cluster: its firings end, its held instances are resolved by fail, and it leaves its partitions. -/
def fenceCluster (s : State) (c : Nat) : State :=
  let s := setCfg s { s.cfg with fenced := insertNat c s.cfg.fenced }
  let s := (s.firings.filter fun f => f.clus == c).foldl (fun s f => hwFail s f f.lead) s
  let held := s.insts.filter fun x => x.clus == c && match x.st with
    | .held _ => true
    | _ => false
  let s := held.foldl (fun s x => resolveInst s x 1) s
  setTenants s (s.tenants.map fun t =>
    if t.clmask.getLsbD c && !(t.leaving.contains c) then { t with leaving := t.leaving ++ [c] } else t)
/-- Whether no aligned group of a width in a cluster has all its cores in service. -/
def noGroup (s : State) (c w : Nat) : Bool :=
  (List.range (8 / w)).all fun k => !((rangeFrom (k * w) w).all (inService s c))
/-- FIRING_BIND: the oldest eligible instance of a cluster that can bind does; where an eligible one has a width of which no
group is in service, the cluster is fenced. -/
def execFiringBind (c : Nat) (s : State) : Out :=
  if (s.insts.any fun x => x.clus == c && x.st == .eligible && noGroup s c (instWidth s x)) &&
      !(s.cfg.fenced.contains c) then .next (fenceCluster s c)
  else
    let can := s.insts.filter fun x => readyInst s c x && inputsQuiet s x && (bindLead s x).isSome
    match oldestInst can with
    | none => notEnabled "FIRING_BIND"
    | some x =>
      match bindLead s x with
      | none => notEnabled "FIRING_BIND"
      | some l => .next (bindInst s x l)
/-- STARVATION_CLOSE: the group that the oldest eligible instance waits for is closed after 4,096 clk; until this event, it
counts as closed all the same (`closedGroups`). -/
def execStarvationClose (c : Nat) (s : State) : Out :=
  match oldestInst (s.insts.filter (readyInst s c)) with
  | none => notEnabled "STARVATION_CLOSE"
  | some x =>
    if s.clk < x.since + 4096 || s.closed.any fun g => g.inst == x.id then notEnabled "STARVATION_CLOSE"
    else
      match waitGroup s c with
      | none => notEnabled "STARVATION_CLOSE"
      | some g => .next (setClosed s (s.closed ++ [g]))

/-! ### Commits (R27, R165, R173, R257, R265) -/

/-- The wider of an actor's commit scope and the scope of its level. -/
def commitScope (s : State) (f : Firing) : Nat :=
  let a := actorOf s f.launch f.actor
  let l := ((launchOf s f.launch).bind fun l => l.levels[a.lvl]?).getD {}
  max a.scope l.scope
/-- The accesses of a firing that its end leaves, each with its core. -/
def leftAccs (s : State) (f : Firing) : List (Nat × Acc) :=
  f.cores.flatMap fun k => (endAccs f.id (accsOf s f k)).map fun a => (k.idx, a)
/-- The key ranges of the slots that a firing reserved to write. -/
def outputRanges (s : State) (f : Firing) : List (Nat × Nat) :=
  (f.resv.filter fun r => !r.input).flatMap fun r => match chanAt s f.clus f.launch r.chan with
    | none => []
    | some x => r.slots.map fun j => (memKey .cluster (f.clus * 2 ^ 19 + x.base + j * x.bytes), x.bytes)
/-- Whether the accesses that a commit covers are Done at its scope and its slots are written. A FENCE does not hold a commit:
it holds the messages staged after it (R255). -/
def commitQuiet (s : State) (f : Firing) : Bool :=
  let scope := commitScope s f
  let outs := outputRanges s f
  let done (e : Nat × Acc) : Bool :=
    noAccess e.2 || doneAt e.2 scope f.clus e.1 f.lead f.cores.length &&
      (e.2.performed || outs.all fun r => e.2.key + e.2.size ≤ r.1 || r.1 + r.2 ≤ e.2.key)
  (leftAccs s f).all done && (sendersOf s f).all fun m => pendDone s m.1 (.core f.clus f.lead)
/-- Whether a firing's messages fit its cluster's outbound queue of 64; a message stays there until it is delivered: the fabric
between clusters holds none (log 122, DESIGN CHOICE). -/
def sendsFit (s : State) (f : Firing) : Bool :=
  (s.transit.countP fun m => m.sclus == f.clus && m.tenant == f.tenant && !m.own) + f.staged.length ≤ 64
/-- Put a firing's messages on their way, in staging order, with what their release covers and carries. -/
def sendStaged (s : State) (f : Firing) (covers : List Nat) (ts : Nat) : State :=
  f.staged.foldl (init := s) fun s m =>
    let (n, s) := newId s
    setTransit s (s.transit ++ [{ m with id := n, covers := covers, ts := ts }])
/-- The timestamp that a commit's release carries: its cores', and that of the messages that they have popped. -/
def commitTs (s : State) (f : Firing) : Nat :=
  (sendersOf s f).foldl (fun m e => max m e.2) (maxPts s f.clus (f.cores.map (·.idx)))
/-- What a commit does, all in one act; a slot that it frees goes to an instance that waits for it before a message of the inbox
may take it (R25, R168) (log 133, DESIGN CHOICE). -/
def commitFiring (s : State) (f : Firing) : State :=
  let covers := commitCovers s f.clus (f.cores.map (·.idx)) f.id ((sendersOf s f).flatMap (·.1))
  let ts := commitTs s f
  let s := updAccs (ackNotices s f) f (endAccs f.id)
  let s := sendStaged (commitResv s f.clus f.launch f.actor covers ts f.resv) f covers ts
  let s := match instOf s f.inst with
    | some x => dropPopped s x
    | none => s
  let a := actorOf s f.launch f.actor
  let s := updInst s f.inst fun x => { x with st := if a.ins.isEmpty then .spent else .waiting, attempt := 0, ts := 0, pend := [] }
  settle (releaseCores s f) f.clus
/-- COMMIT_TAKE_EFFECT: a commit takes effect once what it covers is Done; a wide commit first sends flush markers. -/
def execCommitTakeEffect (f : Nat) (s : State) : Out :=
  match firingOf s f with
  | none => notEnabled "COMMIT_TAKE_EFFECT"
  | some f =>
    if !f.ending || expired f then notEnabled "COMMIT_TAKE_EFFECT"
    else if commitQuiet s f && sendsFit s f then .next (sweep (commitFiring s f))
    else if 6 ≤ commitScope s f then
      let s' := f.cores.foldl (fun s k => sendMarkers s f.clus k.idx (accsOf s f k)) s
      if s'.markers.length == s.markers.length then notEnabled "COMMIT_TAKE_EFFECT" else .next (sweep s')
    else notEnabled "COMMIT_TAKE_EFFECT"

/-! ### The watchdog and hardware errors (R28, R29, R173, R281) -/

/-- The core that a WATCHDOG record names: the leader of a fused gang; in a split one the lowest core that stalls at an
instruction of its own, and not only waits for the others at `gang.fuse` (R146, R272) (log 112, DEDUCED). -/
def stalledCore (f : Firing) : Core :=
  let fuses (k : Core) : Bool := match k.busy with
    | .fuse _ _ => true
    | _ => false
  let lead := (f.cores.find? fun k => k.idx == f.lead).getD {}
  if f.split then ((f.cores.find? fun k => !(fuses k)).getD lead) else lead
/-- WATCHDOG_EXPIRY: a firing at its limit traps. -/
def execWatchdogExpiry (f : Nat) (s : State) : Out :=
  match firingOf s f with
  | none => notEnabled "WATCHDOG_EXPIRY"
  | some f =>
    if !(expired f) then notEnabled "WATCHDOG_EXPIRY"
    else
      let k := stalledCore f
      let w := wordsAt s f k
      .next (sweep (trapFiring s f { core := k.idx, cause := 0x11 } w.1 w.2))
/-- Note an error of a core: a second one within 2^30 clk takes it out of service (log 49, DEDUCED). -/
def noteError (s : State) (c i : Nat) : State :=
  let p := pcoreAt s c i
  let again := match p.errAt with
    | some t => s.clk < t + 2 ^ 30
    | none => false
  putPcore s { p with errAt := some s.clk, out := p.out || again }
/-- Abandon a firing and let its instance run again from its input snapshot. -/
def restartFiring (s : State) (f : Firing) (core : Nat) (avoid : Bool) : State :=
  let s := releaseCores (returnPopped (updAccs s f (trapAccs f.id (heldAccs s f))) f) f
  let s := makeEligible s f.inst fun x =>
    { x with attempt := f.attempt + 1, kept := some f.resv, avoid := if avoid then some core else none }
  queueRecord s (hwRecord s f core true)
/-- HARDWARE_ERROR: a firing is struck; it restarts where it may, and otherwise ends as `end.fail` would. -/
def execHardwareError (f core : Nat) (passes : Bool) (s : State) : Out :=
  match firingOf s f with
  | none => notEnabled "HARDWARE_ERROR"
  | some f =>
    if !(f.cores.any fun k => k.idx == core) then notEnabled "HARDWARE_ERROR"
    else
      let s := noteError s f.clus core
      let rst := ((launchOf s f.launch).map (·.rst)).getD false && (actorOf s f.launch f.actor).rst && f.attempt < 3
      if !rst then .next (sweep (hwFail s f core))
      else
        match instOf s f.inst with
        | none => .fault (.inconsistent "instance")
        | some x =>
          if (leadsOf s x).any (groupSound s { x with avoid := some core }) then
            .next (sweep (restartFiring s f core true))
          else if passes && inService s f.clus core then .next (sweep (restartFiring s f core false))
          else
            let s := putPcore s { pcoreAt s f.clus core with out := true }
            .next (sweep (hwFail s f core))
/-- CLUSTER_UNIT_FAILURE: an engine, a bank or the scheduler of a cluster fails, and the cluster is fenced. -/
def execClusterUnitFailure (c : Nat) (s : State) : Out :=
  if s.cfg.fenced.contains c then notEnabled "CLUSTER_UNIT_FAILURE" else .next (sweep (fenceCluster s c))

/-! ### Records and their resolution (R272 to R275) -/

/-- The 64 bytes of a record's entry (R272). -/
def recordBytes (r : Record) (seq : Nat) : List Byte :=
  toBytes 2 r.cause ++ toBytes 1 r.rtype ++ toBytes 1 r.core ++ toBytes 2 r.clus ++ toBytes 1 r.actid ++ toBytes 1 r.sub ++
    toBytes 8 r.pc.toNat ++ toBytes 8 r.addr.toNat ++ toBytes 4 r.w0.toNat ++ toBytes 4 r.w1.toNat ++
    toBytes 8 r.val.toNat ++ toBytes 8 r.info.toNat ++ toBytes 4 r.wdc ++ toBytes 2 r.flags.toNat ++ toBytes 2 0 ++
    toBytes 8 seq
/-- The instance number of an instance, for a message address. -/
def instNumber (s : State) (x : Inst) : Nat :=
  match launchOf s x.launch with
  | none => 0
  | some l =>
    let lv := (l.levels.zip l.counts).take x.path.length
    ((pathsOn l (launchWidth l) x.clus lv [] {}).findIdx? fun p => p == x.path).getD 0
/-- The timestamp of a record's write into its tenant's ring. -/
def ringTs (s : State) (v index : Nat) : Nat :=
  match partKey s v ((tenantOf s v).trbase + BitVec.ofNat 64 (64 * index)) .rd with
  | .error _ => 0
  | .ok k => (stampOf s (lineOf k)).1
/-- The message that announces a record to the handler: a release that covers the reporting firing's stores, atomics and
REDs (R274). -/
def announce (s : State) (r : Record) (index : Nat) : State :=
  match handlerInst s r.tenant with
  | none => s
  | some x =>
    let addr := x.clus * 2 ^ 32 + instNumber s x * 2 ^ 18 + 15 * 2 ^ 12
    let (n, s) := newId s
    let own := s.pcores.flatMap fun p => p.accs.filter fun a =>
      a.firing == r.firing && r.firing != 0 && !(noAccess a) && !(isLoadKind a.kind) && !(sysDone a)
    let m : Msg := { id := n, tenant := r.tenant, launch := x.launch, kind := 4, sclus := r.clus % 1024, sact := r.actid,
                     addr := BitVec.ofNat 64 addr, words := [BitVec.ofNat 64 index], own := true, firing := r.firing
                     covers := own.map (·.id), ts := max r.ts (ringTs s r.tenant index) }
    setTransit s (s.transit ++ [m])
/-- An instance that a written record holds can be resolved by its number; without a handler it is resolved by fail. -/
def holdInst (s : State) (r : Record) (seq : Nat) : State :=
  match instOf s r.inst with
  | none => s
  | some x =>
    if x.st != .held 0 || r.rtype != 1 then s
    else
      let s := updInst s r.inst fun x => { x with st := .held seq }
      if (handlerInst s r.tenant).isNone then resolveInst s x 1 else s
/-- Write a record into its tenant's ring, or lose it where the write faults. -/
def writeRecord (s : State) (r : Record) : State :=
  let t := tenantOf s r.tenant
  let index := t.trhead.toNat % 2 ^ t.trlog.toNat
  let seq := t.trhead.toNat + 1
  match partWrite s r.tenant (t.trbase + BitVec.ofNat 64 (64 * index)) (recordBytes r seq) with
  | .error _ => loseRecord s r
  | .ok s =>
    let s := putTenant s r.tenant { tenantOf s r.tenant with trhead := t.trhead + 1 }
    sendMsix (holdInst (announce s r index) r seq) r.tenant 0
/-- Whether every store, atomic and RED of a firing is Done at package scope. -/
def storesDone (s : State) (f : Nat) : Bool :=
  s.pcores.all fun p => p.accs.all fun a => a.firing != f || noAccess a || isLoadKind a.kind ||
    doneAt a 5 p.c p.i 0 8
/-- RECORD_WRITE: the oldest waiting record of a die and tenant is written, while the ring has room (R274). One of a cluster
whose state is saved rests with it (R280). -/
def execRecordWrite (die idx : Nat) (s : State) : Out :=
  match s.records[idx]? with
  | none => notEnabled "RECORD_WRITE"
  | some r =>
    let t := tenantOf s r.tenant
    let rests (q : Record) : Bool := isSaved s q.tenant q.clus
    let before := (s.records.take idx).any fun q => q.die == r.die && q.tenant == r.tenant && !(rests q)
    if r.die != die || before || rests r || !(storesDone s r.firing) || t.trhead - t.trtail == 1#64 <<< t.trlog.toNat then
      notEnabled "RECORD_WRITE"
    else .next (writeRecord (setRecords s (s.records.eraseIdx idx)) r)
/-- The accesses of a core's order, the gang's among them, that are no load. -/
def storesOf (s : State) (c core : Nat) : List Acc :=
  ((clusAccs s c).filter fun e => (coresOf e.1 e.2).contains core && !(noAccess e.2) && !(isLoadKind e.2.kind)).map (·.2)
/-- TRESOLVE_WRITE: a write of `tresolve` takes effect once the core's earlier stores, atomics and REDs are Done at package
scope, and covers them and what the core has acquired (R258, R275). -/
def execTresolveWrite (c core : Nat) (s : State) : Out :=
  match firingAt s c core with
  | none => notEnabled "TRESOLVE_WRITE"
  | some f =>
    let waiting (k : Core) : Bool := match k.busy with
      | .resolve _ => true
      | _ => false
    let units := actingCores f core
    match (f.cores.find? fun k => k.idx == core).map (·.busy) with
    | some (Busy.resolve w) =>
      let quiet := (storesOf s c core).all fun a => doneAt a 5 c core 0 8
      if !quiet || units.any fun k => k.idx < core && waiting k then notEnabled "TRESOLVE_WRITE"
      else
        let f := updCore f core fun k => { k with busy := .none }
        let f := if units.any fun k => k.idx != core && waiting k then f else advance f units 4
        let pend := (((storesOf s c core).map (·.id)) ++ owedTo s c [core]).filter (unfinished s)
        .next (resolveWrite (putFiring s f) f.tenant w (maxPts s c [core]) pend)
    | _ => notEnabled "TRESOLVE_WRITE"

/-! ### Delivery (R168, R172 to R174) -/

/-- The bytes of a message's local payload. -/
def payloadBytes (m : Msg) : List Byte := m.words.flatMap fun w => toBytes 8 w.toNat
/-- Whether a message can be taken by the port that it names. -/
def portTakes (s : State) (x : Inst) (a : Actor) (m : Msg) : Bool :=
  maPort m.addr == 15 || match a.ins[maPort m.addr]? with
    | none => false
    | some r => maPort m.addr < 8 && match chanAt s x.clus x.launch r.1 with
        | none => false
        | some ch => 8 * m.words.length ≤ ch.bytes
/-- A notice that no firing will take is taken off its task. -/
def forgetNote (s : State) (m : Msg) : State :=
  match m.note with
  | none => s
  | some (t, v) =>
    setTasks s { s.tasks with
      tasks :=
      updWhere (fun k => k.id == t) (fun k => { k with notes := k.notes.filter (· != v) }) s.tasks.tasks }
/-- Drop an undeliverable message (R172); an announcement of a record goes in silence. -/
def dropMessage (s : State) (m : Msg) : State :=
  if m.kind == 4 then s
  else
    let s := forgetNote s m
    let c := maClus m.addr
    queueRecord (failLaunch s m.launch)
      { die := dieOf c, tenant := m.tenant, rtype := 3, clus := c, val := m.addr, info := msgHeader m }
/-- Whether an earlier message on its way must be delivered first (R174). -/
def heldBack (l : List Msg) (m : Msg) : Bool :=
  l.any fun e => e.sclus == m.sclus && e.own == m.own && e.launch == m.launch && e.addr.toNat / 2 ^ 12 == m.addr.toNat / 2 ^ 12
/-- MESSAGE_DELIVER: a message takes an inbox entry at its destination, or is dropped as undeliverable
(log 18, DESIGN CHOICE); a FENCE with M in succ before it has completed (R255). -/
def execMessageDeliver (idx : Nat) (s : State) : Out :=
  match s.transit[idx]? with
  | none => notEnabled "MESSAGE_DELIVER"
  | some m =>
    let c := maClus m.addr
    let room := (s.inbox.countP fun e => e.1 == c && !(isSaved s e.2.tenant c)) < 256
    let fenced := m.fences.any fun n => s.pcores.any fun p => p.accs.any fun a => a.id == n
    if heldBack (s.transit.take idx) m || isSaved s m.tenant c || fenced then notEnabled "MESSAGE_DELIVER"
    else
      let s' := setTransit s (s.transit.eraseIdx idx)
      match targetOf s m with
      | .later => notEnabled "MESSAGE_DELIVER"
      | .none => .next (dropMessage s' m)
      | .inst x a =>
        if !(portTakes s x a m) then .next (dropMessage s' m)
        else if room then .next (setInbox s' (s.inbox ++ [(c, { m with inst := x.id })]))
        else notEnabled "MESSAGE_DELIVER"
/-- Fill a free slot of a channel with a message. -/
def fillSlot (s : State) (c : Nat) (ch : Chan) (j : Nat) (m : Msg) : State :=
  let s := setMem s (memWriteBytes s.mem (memKey .cluster (c * 2 ^ 19 + ch.base + j * ch.bytes)) (payloadBytes m))
  let note := match m.note with
    | some n => [(j, n)]
    | none => []
  settle (updChan s c ch.launch ch.chan fun x =>
    { x with free := x.free.filter (· != j), filled := x.filled ++ [j], hdrs := x.hdrs.set j (msgHeader m)
             notes := (x.notes.filter fun n => n.1 != j) ++ note
             rel := (x.rel.filter fun e => e.1 != j) ++ [(j, m.covers)]
             relTs := (x.relTs.filter fun e => e.1 != j) ++ [(j, m.ts)] }) c
/-- MESSAGE_FILL_SLOT: the oldest message for a channel leaves the inbox and fills a free slot. -/
def execMessageFillSlot (c idx : Nat) (s : State) : Out :=
  match s.inbox[idx]? with
  | none => notEnabled "MESSAGE_FILL_SLOT"
  | some (d, m) =>
    let port (m : Msg) : Option Nat :=
      if maPort m.addr < 8 then ((actorOf s m.launch (maActor m.addr)).ins[maPort m.addr]?).map (·.1) else none
    match port m with
    | none => notEnabled "MESSAGE_FILL_SLOT"
    | some n =>
      match chanAt s c m.launch n with
      | none => notEnabled "MESSAGE_FILL_SLOT"
      | some ch =>
        match ch.free with
        | [] => notEnabled "MESSAGE_FILL_SLOT"
        | j :: _ =>
          let before := (s.inbox.take idx).any fun e => e.1 == c && e.2.launch == m.launch && port e.2 == some n
          if d != c || before || isSaved s m.tenant c then notEnabled "MESSAGE_FILL_SLOT"
          else .next (fillSlot (setInbox s (s.inbox.eraseIdx idx)) c ch j m)

end Sys2Proof.Machine
end

