-- ==== Sys2Proof/Machine/Ats.lean ====
section
/-! DEFINITION. Invalidations, the host's answers to translation and page requests, and the L2's clocks as events (R206,
R210, R214, R231 to R234, R244). -/

namespace Sys2Proof.Machine

/-! ### Invalidations (R231, R234) -/

/-- INV_WRITE: the driver names a page to invalidate. -/
def execInvWrite (v : Nat) (va : Word) (s : State) : Out := .next (startInval s v false (vaOf va) 1 true none)
/-- The host lines that the removed translations of a range covered, written back and invalidated. -/
def dropHostLines (s : State) (v va size : Nat) : State :=
  let es := s.xlat.entries.filter fun e => e.host && e.tenant == v && rangesMeet e.va e.size va size
  dropLines s fun l => es.any fun e => rangesMeet (l.line * 256) 256 (memKey .host e.pa) e.size
/-- ATS_INVALIDATE_REQUEST: the covered translations go, and the lines under them; the answer waits for what translated
through them. -/
def execAtsInvalidateRequest (v : Nat) (addr : Word) (size : Nat) (all : Bool) (s : State) : Out :=
  let va := if all then 0 else addr.toNat
  let size := if all then 2 ^ 64 else size
  .next (startInval (dropHostLines s v va size) v true va size false none)
/-- INVALIDATION_COMPLETE: every access that translated through what was removed has drained. Update copies of reductions
go home first. -/
def execInvalidationComplete (idx : Nat) (s : State) : Out :=
  match s.xlat.invals[idx]? with
  | none => notEnabled "INVALIDATION_COMPLETE"
  | some v =>
    if !(drained s v) then notEnabled "INVALIDATION_COMPLETE"
    else
      let s := recallWhere s fun _ _ _ => true
      let s := setXlat s { s.xlat with invals := s.xlat.invals.eraseIdx idx }
      let s := if v.driver then putTenant s v.fn { tenantOf s v.fn with invdone := (tenantOf s v.fn).invdone + 1 } else s
      match v.core with
      | some (c, i, id) => .next (sweep (dropAcc s c i id))
      | none => .next s

/-! ### Translation completions and page responses (R232, R233) -/

/-- The entry that a completion fills (log 50, DEDUCED). -/
def hostEntry (r : PageReq) (ta : Word) (size : Nat) (rd wr u : Bool) : TEntry :=
  let size := max size 4096
  let va := r.page * 4096 / size * size
  { sector := true, unit := r.sec, tenant := r.fn, host := true, va := va, size := size,
    pa := if u then va else ta.toNat, r := rd, w := wr }
/-- Cache a completion in its sector, in the place of what it overlaps. -/
def fillHost (s : State) (e : TEntry) : State :=
  let meets (o : TEntry) : Bool :=
    o.host && o.unit == e.unit && o.tenant == e.tenant && rangesMeet o.va o.size e.va e.size
  setXlat s { s.xlat with entries := addEntry (s.xlat.entries.filter fun o => !(meets o)) e }
/-- Whether an entry of a host page grants what an access wants. -/
def hostGrants (e : TEntry) (want : Want) : Bool := grants { r := e.r, w := e.w } want
/-- TRANSLATION_COMPLETION: the host answers a Translation Request. The answer of a probe that no access has joined is not
cached; after a Success, what the answer still withholds traps HOSTPF. -/
def execTranslationCompletion (idx : Nat) (ta : Word) (size : Nat) (r w u : Bool) (s : State) : Out :=
  match s.xlat.reqs[idx]? with
  | none => notEnabled "TRANSLATION_COMPLETION"
  | some q =>
    let e := hostEntry q ta size r w u
    if q.phase == 1 || q.phase == 3 || max size 4096 != 2 ^ Nat.log2 (max size 4096) || e.pa % e.size != 0 then
      notEnabled "TRANSLATION_COMPLETION"
    else
      let s := setXlat s { s.xlat with probed := s.xlat.probed ++ q.probers.map fun p => (p, e) }
      let s := if q.phase == 4 && q.waiters.isEmpty && q.cmds.isEmpty then s else fillHost s e
      .next (endReq s q fun want => q.phase == 2 && answers q want && !(hostGrants e want))
/-- A page request ends without a page: its accesses find HOSTPF, and a waiting request of the function is sent. -/
def failReq (s : State) (q : PageReq) : State := nextPri (endReq s q (answers q)) q.fn
/-- Whether a page request has waited for the tenant's limit (R233, R245). -/
def pageLate (s : State) (q : PageReq) : Bool := q.since + 2 ^ ((tenantOf s q.fn).prlim.toNat % 32) ≤ s.clk
/-- PRG_RESPONSE: 0 Success, 1 Invalid Request, 15 Response Failure, which stops PRI for the function. -/
def execPrgResponse (idx code : Nat) (s : State) : Out :=
  match s.xlat.reqs[idx]? with
  | none => notEnabled "PRG_RESPONSE"
  | some q =>
    if q.phase != 1 || pageLate s q then notEnabled "PRG_RESPONSE"
    else
      match code with
      | 0 => .next (nextPri (updReq s q.id fun q => { q with phase := 2 }) q.fn)
      | 1 => .next (failReq s q)
      | 15 =>
        let s := putTenant s q.fn { tenantOf s q.fn with priStop := true }
        let later := s.xlat.reqs.filter fun r => r.fn == q.fn && r.phase == 3
        .next (later.foldl (fun s r => endReq s r (answers r)) (failReq s q))
      | _ => notEnabled "PRG_RESPONSE"
/-- PAGE_REQUEST_TIMEOUT: no response within the tenant's limit, or no free request to send (R245). -/
def execPageRequestTimeout (idx : Nat) (s : State) : Out :=
  match s.xlat.reqs[idx]? with
  | none => notEnabled "PAGE_REQUEST_TIMEOUT"
  | some q =>
    if (q.phase == 1 || q.phase == 3) && pageLate s q then .next (failReq s q)
    else notEnabled "PAGE_REQUEST_TIMEOUT"
/-- PRI_RESTART: a write of 1 lets the function ask for pages again. -/
def execPriRestart (v : Nat) (val : W32) (s : State) : Out :=
  if val == 1 then .next (putTenant s v { tenantOf s v with priStop := false }) else .next s

/-! ### Clocks and credibility (R206, R210, R214) -/

/-- CLOCK_BROADCAST: the oldest broadcast of a clock on its way to a slice arrives there. -/
def execClockBroadcast (clk : ClockId) (slice : Nat) (s : State) : Out :=
  match s.l2.casts.findIdx? fun e => e.1 == slice && e.2.1 == clk with
  | none => notEnabled "CLOCK_BROADCAST"
  | some j =>
    let t := ((s.l2.casts[j]?).map fun e => e.2.2).getD 0
    .next (broadcast (setL2 s { s.l2 with casts := s.l2.casts.eraseIdx j }) slice clk t)
/-- CREDIBILITY_WINDOW_CLOSE: the window of the tenant's 65,536th promise closes. Whatever reads the credibility or counts
on takes the window as closed already (`settled`, R214). -/
def execCredibilityWindowClose (v : Nat) (s : State) : Out :=
  let t := tenantOf s v
  if t.promises < 65536 then notEnabled "CREDIBILITY_WINDOW_CLOSE" else .next (putTenant s v (settled t))

end Sys2Proof.Machine
end

