-- ==== Sys2Proof/Machine/Engine.lean ====
section
/-! DEFINITION. Engine commands: the accesses that units make, issue with its checks and range locks, handles, status words,
and the start, parking and end of a command (R205, R260 to R262, R316 to R324). -/

namespace Sys2Proof.Machine

/-- What a unit's work finds: done, a wait for a slot or a release, a fault, a host page to ask for, or a check that fails
only on reading the operands. -/
inductive Work (α : Type) where
  | ok (s : State) (a : α)
  | wait
  | fault (c : Nat)
  | ask (s : State) (page : Nat) (cached wr : Bool)
  | reject (check : Nat)
deriving Repr

/-- Carry on from a result. -/
def Work.bindOk {α β : Type} (w : Work α) (f : State → α → Work β) : Work β :=
  match w with
  | .ok s a => f s a
  | .wait => .wait
  | .fault c => .fault c
  | .ask s p c w => .ask s p c w
  | .reject n => .reject n
/-- Work through a list in order. -/
def eachWork {α β : Type} (g : State → β → α → Work β) : List α → State → β → Work β
  | [], s, b => .ok s b
  | x :: xs, s, b => (g s b x).bindOk fun s b => eachWork g xs s b

/-! ### The accesses of a unit (R205, R236, R259, R322) -/

/-- For whom a unit works: a firing's place and tenant, the issuing core and those that the work counts on, the clock, the
default classes, the identity under which host pages are asked for, the party that the unit is as a reader (R259), and the
source bytes that it has read ahead. With `now` an access waits for nothing. -/
structure Master where
  f : Firing := {}
  core : Nat := 0
  cores : List Nat := []
  reader : Reader := .pkg
  got : List Host.Cell := []
  now : Bool := false
  clk : ClockId := {}
  tick : W32 := 0
  dfl0 : BitVec 5 := 16
  dfl1 : BitVec 5 := 16
  id : Nat := 0
deriving DecidableEq, Repr

/-- One access of a unit, within one line: where it goes, or why not. `j` is the number of its operand. -/
def unitPlace (m : Master) (nu : BitVec 5) (j : Nat) (s : State) (ea : Word) (n : Nat) (wr : Bool) : Work Acc :=
  let sp := spaceOf ea
  let a : Acc :=
    { tenant := m.f.tenant, kind := if wr then .store else .load, space := sp, ea := ea, size := n, nu := nu,
      dfl := if sp == 1 then m.dfl1 else m.dfl0, clk := m.clk, tick := m.tick + BitVec.ofNat 32 j }
  if !(spaceOk s m.f.tenant .vec sp) || !(pointerClean ea) then .fault 0x04
  else if sp == 2 then
    let pkg := fieldOf ea.toNat 48 12
    if pkg == s.cfg.pkgid.toNat then
      match remoteHome s m.f.clus a with
      | (_, .error _) => .fault 0x0C
      | (s, .ok b) => .ok s b
    else if s.cfg.members.getLsbD pkg then .ok s a
    else .fault 0x0C
  else
    if sp == 1 && m.id != 0 && s.xlat.failedCmds.contains (failKey m.id m.f.tenant (vaOf ea / 4096)) then .fault 0x0B
    else
    match locate s m.f m.core ea n (if wr then .wr else .rd) with
    | (_, .cause c) => .fault c
    | (s, .ask p cached) => .ask s p cached wr
    | (s, .ok p) => .ok s { a with id := s.nextId, key := p.key, home := p.home, page := p.page }
/-- Whether an access of a unit waits: for a release that it reads (R259), for what its cores have acquired (R258), or for a
way of its set (R220). -/
def unitWaits (m : Master) (s : State) (a : Acc) (wr : Bool) : Bool :=
  !m.now && ((!wr && !(served s m.reader a.key a.size)) || owesRange s m.f.clus m.cores a.key a.size || l2Blocked s a wr)
/-- Whether an access of a unit to another package waits: no path to it survives (R416). -/
def noPath (m : Master) (s : State) (ea : Word) : Bool := !m.now && (firstUp s (fieldOf ea.toNat 48 12)).isNone
/-- The host answers a read with an error: all ones, a record, and the launch is FAILED (R235). -/
def hostFails (m : Master) (s : State) (a : Acc) : State × List Byte :=
  let r : Record := { die := dieOf m.f.clus, tenant := m.f.tenant, rtype := 4, core := m.core, clus := m.f.clus,
                      actid := m.f.actor, val := a.ea, firing := m.f.id, ts := maxPts s m.f.clus m.cores }
  (queueRecord (failLaunch (setXlat s { s.xlat with hostError := false }) m.f.launch) r, List.replicate a.size 0xFF)
/-- The bytes that were read ahead stand for those read now. -/
def overlay (got : List Host.Cell) (ea : Nat) (bs : List Byte) : List Byte :=
  if got.isEmpty then bs else bs.zipIdx.map fun b => ((got.find? fun e => e.1 == ea + b.2).map (·.2)).getD b.1
/-- Read n bytes from an address on, in pieces that no line boundary cuts; fuel bounds the pieces. What another package
holds is not this package's state: its bytes are free values (log 3, DESIGN CHOICE). A piece that was read ahead whole is
not read again. -/
def unitReadFrom (m : Master) (nu : BitVec 5) (j : Nat) : Nat → State → Word → Nat → Work (List Byte)
  | 0, s, _, _ => .ok s []
  | fuel + 1, s, ea, n =>
    if n == 0 then .ok s []
    else
      let k := min n (256 - ea.toNat % 256)
      let go (s : State) (bs : List Byte) : Work (List Byte) :=
        (unitReadFrom m nu j fuel s (ea + BitVec.ofNat 64 k) (n - k)).bindOk fun s rest =>
          .ok s (overlay m.got ea.toNat bs ++ rest)
      if !m.got.isEmpty && (List.range k).all fun b => m.got.any fun e => e.1 == ea.toNat + b then
        go s (List.replicate k 0)
      else
        (unitPlace m nu j s ea k false).bindOk fun s a =>
          if a.space == 2 then
            if noPath m s ea then .wait
            else
              let (s, bs) := freeBytes s k
              go s bs
          else if unitWaits m s a false then .wait
          else if (a.space == 0 || a.space == 1 || a.space == 8) && poisoned s a.key k then .fault 0x0D
          else
            let (s, bs) := if a.space == 1 && s.xlat.hostError then hostFails m s a else readBytes (placeL2 s a false) a
            go s bs
/-- Read n bytes. -/
def unitRead (m : Master) (nu : BitVec 5) (j : Nat) (s : State) (ea : Word) (n : Nat) : Work (List Byte) :=
  unitReadFrom m nu j (n / 256 + 2) s ea n
/-- Write the selected bytes of an access at its home: releases there are overwritten, a coherent line takes a timestamp,
and the launch's completion will carry it. The greatest timestamp so far comes back. -/
def unitPut (m : Master) (s : State) (a : Acc) (mask : Nat) (bs : List Byte) (ts : Nat) : State × Nat :=
  let lo := ((List.range bs.length).find? mask.testBit).getD 0
  if mask == 0 then (s, ts)
  else
    let s := overwrite (writeBytes s a mask bs) (a.key + lo) (Nat.log2 mask + 1 - lo)
    if a.space == 0 then
      let s := bumpStamp s (lineOf a.key) ts
      let ts := max ts (stampOf s (lineOf a.key)).1
      (setLaunches s (updWhere (fun l => l.id == m.f.launch) (fun l => { l with wts := max l.wts ts }) s.launches), ts)
    else (s, ts)
/-- A posted write to another package goes down a path (R263): the lowest that survives, since nothing here depends on which. -/
def sendWrite (s : State) (id : Nat) (ea : Word) : State :=
  let pkg := fieldOf ea.toNat 48 12
  pushPath s pkg ((firstUp s pkg).getD 0) (.write id ea)
/-- Write bytes from an address on; the greatest timestamp of a coherent line written comes back. -/
def unitWriteFrom (m : Master) (nu : BitVec 5) (j : Nat) : Nat → State → Word → List Byte → Nat → Work Nat
  | 0, s, _, _, ts => .ok s ts
  | fuel + 1, s, ea, bs, ts =>
    if bs.isEmpty then .ok s ts
    else
      let k := min bs.length (256 - ea.toNat % 256)
      let go (s : State) (ts : Nat) : Work Nat := unitWriteFrom m nu j fuel s (ea + BitVec.ofNat 64 k) (bs.drop k) ts
      (unitPlace m nu j s ea k true).bindOk fun s a =>
        if a.space == 2 then (if noPath m s ea then .wait else go (sendWrite s m.id ea) ts)
        else if unitWaits m s a true then .wait
        else
          let r := unitPut m (placeL2 s a true) a (2 ^ k - 1) (bs.take k) ts
          go r.1 r.2
/-- Write bytes. -/
def unitWrite (m : Master) (nu : BitVec 5) (j : Nat) (s : State) (ea : Word) (bs : List Byte) (ts : Nat) : Work Nat :=
  unitWriteFrom m nu j (bs.length / 256 + 2) s ea bs ts

/-! ### Commands: their units, operands and ranges (R316 to R318, R320) -/

/-- The unit code of a major and its inbox (R316, R318). -/
def unitOf (maj : Nat) : Nat × Nat :=
  match maj with
  | 0x41 => (1, 16)
  | 0x43 => (1, 16)
  | 0x45 => (2, 8)
  | 0x47 => (3, 64)
  | 0x49 => (4, 8)
  | 0x4B => (5, 32)
  | _ => (6, 256)
/-- The handle of a serial (R318). -/
def handleOf (serial unit c : Nat) : Word := BitVec.ofNat 64 (serial % 2 ^ 32 * 2 ^ 16 + unit * 2 ^ 13 + c)
/-- The handle of a command. -/
def cmdHandle (m : Cmd) : Word := handleOf m.serial m.unit m.c
/-- The register a + j of a command's block. -/
def reg (m : Cmd) (j : Nat) : Nat := (m.blk.getD j 0).toNat
/-- The same as a pointer. -/
def ptr (m : Cmd) (j : Nat) : Word := m.blk.getD j 0
/-- The party that a command's unit is as a reader: of its cluster, of a slice's cluster, of a die, or of the package. -/
def unitReader (m : Cmd) : Reader :=
  match m.unit with
  | 3 => .pkg
  | 4 => .core (m.uidx / 8) 8
  | 5 => .die m.uidx
  | 6 => .pkg
  | _ => .core m.c 8
/-- The for-whom of a command. -/
def cmdMaster (m : Cmd) : Master :=
  { f := { id := m.firing, inst := m.inst, clus := m.c, tenant := m.tenant, launch := m.launch, actor := m.actor }
    core := m.cores.head?.getD 0, cores := m.cores, reader := unitReader m, got := m.got
    clk := m.clk, tick := m.tick, dfl0 := m.dfl0, dfl1 := m.dfl1, id := m.id }
/-- Post a command's write of bytes from an address on, in pieces that no line boundary cuts: each word of them performs
when it is drained (R262). A write to another package is sent. Fuel bounds the pieces. -/
def postFrom (nu : BitVec 5) (j : Nat) : Nat → State → Cmd → Word → List Byte → Work Cmd
  | 0, s, m, _, _ => .ok s m
  | fuel + 1, s, m, ea, bs =>
    if bs.isEmpty then .ok s m
    else
      let k := min bs.length (256 - ea.toNat % 256)
      let go (s : State) (m : Cmd) : Work Cmd := postFrom nu j fuel s m (ea + BitVec.ofNat 64 k) (bs.drop k)
      (unitPlace (cmdMaster m) nu j s ea k true).bindOk fun s a =>
        if a.space == 2 then
          let pkg := fieldOf ea.toNat 48 12
          if noPath (cmdMaster m) s ea then .wait
          else go (sendWrite s m.id ea) { m with away := if m.away.contains pkg then m.away else m.away ++ [pkg] }
        else if unitWaits (cmdMaster m) s a true then .wait
        else
          let o : Posted := { acc := a, bytes := bs.take k, mask := 2 ^ k - 1, gran := m.gran }
          go (placeL2 s a true) { m with outs := m.outs ++ [o] }
/-- Post a command's write of bytes. -/
def cmdWrite (nu : BitVec 5) (j : Nat) (s : State) (m : Cmd) (ea : Word) (bs : List Byte) : Work Cmd :=
  postFrom nu j (bs.length / 256 + 2) s m ea bs
/-- Those bytes of a posted write that have not been written early, and that no higher element of a scatter has written already
(R262, R326). -/
def openBytes (m : Cmd) (o : Posted) (mask : Nat) : Nat :=
  if m.spans.isEmpty && m.early.isEmpty then mask
  else
    let taken (a : Nat) : Bool :=
      m.early.contains (o.gran, a) || m.spans.any fun r => o.gran < r.2.2 && r.1 ≤ a && a < r.1 + r.2.1
    ((List.range o.bytes.length).filter fun b => mask.testBit b && !(taken (o.acc.ea.toNat + b))).foldl (fun n b => n + 2 ^ b) 0
/-- Perform the selected bytes of a posted write. -/
def drainPart (s : State) (m : Cmd) (o : Posted) (mask : Nat) : State × Cmd :=
  let r := unitPut (cmdMaster m) s o.acc (openBytes m o mask) o.bytes m.wts
  let m := { m with wts := r.2 }
  if m.maj == 0x43 && m.fn == 1 && mask != 0 then
    let lo := ((List.range o.bytes.length).find? fun b => mask.testBit b).getD 0
    (r.1, { m with spans := m.spans ++ [(o.acc.ea.toNat + lo, Nat.log2 mask + 1 - lo, o.gran)] })
  else (r.1, m)
/-- Perform every posted write of a command. -/
def drainCmd (s : State) (m : Cmd) : State × Cmd :=
  m.outs.foldl (fun st o => drainPart st.1 st.2 o o.mask) (s, { m with outs := [] })
/-- A memory operand of a command: its pointer, its extent, whether it is written, and what its entry allows. -/
structure Opnd where
  ea : Word := 0
  n : Nat := 0
  dst : Bool := false
  spaces : List Nat := [0]
  align : Nat := 1
  /-- Declared to the range-lock table. -/
  decl : Bool := true
deriving DecidableEq, Repr
/-- The spaces of the copy engines' operands. -/
def spAll : List Nat := [0, 1, 2, 4, 5, 6, 7, 8]
/-- Spaces 0x0 and 0x4 to 0x6. -/
def spLocal : List Nat := [0, 4, 5, 6]
/-- The extent of rows at a stride, from the first byte to the last byte of the last row. -/
def extent (rows stride bytes : Nat) : Nat := if rows == 0 then 0 else (rows - 1) * stride + bytes
/-- Where two ranges of effective addresses meet. -/
def meets (a : Word) (n : Nat) (b : Word) (m : Nat) : Bool := 0 < n && 0 < m && rangesMeet a.toNat n b.toNat m
/-- Whether a block register has a bit set outside a mask. -/
def strays (m : Cmd) (j mask : Nat) : Bool := reg m j &&& mask != reg m j
/-- A check that fails. -/
def failsIf (b : Bool) (n : Nat) : List Nat := if b then [n] else []

/-- Rows, elements and strides of COPY (R325). -/
def copyRows (m : Cmd) : Nat := fieldOf (reg m 3) 32 16
/-- Elements of a row. -/
def copyElems (m : Cmd) : Nat := fieldOf (reg m 3) 0 25
/-- The source format of a converting copy. -/
def copyFmt (m : Cmd) : Nat := m.e.o.b.toNat
/-- Whether a copy converts. -/
def copyConverts (m : Cmd) : Bool := m.e.shape == 1
/-- Bytes of a row at the source and at the destination. -/
def copyBytes (m : Cmd) : Nat × Nat :=
  let n := copyElems m
  if m.fn == 1 then (0, 8 * n)
  else if copyConverts m then ((n * codeWidth (copyFmt m) + 7) / 8, n * fmtWidth (fmtOfFo m.e.fo.toNat) / 8)
  else (n, n)
/-- The block of the source format, 0 where it is not block-scaled. -/
def copyBlock (m : Cmd) : Nat := if m.fn != 1 && copyConverts m then blockOf (copyFmt m) else 0
/-- The stride of a side: 0 the source, 1 the destination. -/
def copyStride (m : Cmd) (side : Nat) : Nat := fieldOf (reg m 4) (32 * side) 32

/-- Tiles, rows, bytes of a row, and the two strides of TWALK (R327). -/
def walkTiles (m : Cmd) : Nat := fieldOf (reg m 3) 0 16
/-- Rows of a tile. -/
def walkRows (m : Cmd) : Nat := fieldOf (reg m 3) 16 8
/-- Bytes of a row. -/
def walkCols (m : Cmd) : Nat := fieldOf (reg m 3) 32 16
/-- Row stride. -/
def walkRS (m : Cmd) : Nat := fieldOf (reg m 4) 0 32
/-- Tile stride. -/
def walkTS (m : Cmd) : Nat := fieldOf (reg m 4) 32 32

/-- The number of elements of a GATHER and their size (R326). -/
def gatherElems (m : Cmd) : Nat := fieldOf (reg m 4) 0 25
/-- Bytes of an element. -/
def gatherSize (m : Cmd) : Nat := fieldOf (reg m 4) 32 24
/-- Bytes of an index. -/
def indexSize (m : Cmd) : Nat := if m.e.shape == 1 then 8 else 4

/-- The rows and the row length of NBMV, and its vectors (R328). -/
def nbRows (m : Cmd) : Nat := fieldOf (reg m 4) 0 21
/-- Elements of a row. -/
def nbK (m : Cmd) : Nat := fieldOf (reg m 4) 32 24
/-- Vectors. -/
def nbVecs (m : Cmd) : Nat := 2 ^ m.e.shape.toNat
/-- The index of its format range register. -/
def nbReg (m : Cmd) : Nat := fieldOf (reg m 3) 0 4
/-- The first row. -/
def nbFirst (m : Cmd) : Nat := fieldOf (reg m 3) 32 32
/-- The stride of x (0) or y (1); not used with one vector. -/
def nbStride (m : Cmd) (side : Nat) : Nat := if m.e.shape == 0 then 0 else fieldOf (reg m 5) (32 * side) 32

/-- The head dimension of ATTN (R330). -/
def headDim (m : Cmd) : Nat := 32 * (m.e.shape.toNat + 1)
/-- The stride of triple records: 16 + 4h bytes, rounded up to 64. -/
def tripleStride (m : Cmd) : Nat := (16 + 4 * headDim m + 63) / 64 * 64
/-- Bytes of the result of `attn.mrg`. -/
def mergeBytes (m : Cmd) : Nat :=
  if m.e.o.q == 1 then headDim m * (fmtWidth (fmtOfFo m.e.fo.toNat) / 8) else 16 + 4 * headDim m

/-- The memory operands of a command, in the order of its block (R325 to R335). -/
def opnds (m : Cmd) : List Opnd :=
  match m.maj, m.fn with
  | 0x41, f =>
    let (sb, db) := copyBytes m
    let al := if f == 1 || copyConverts m then 8 else 1
    let src : Opnd := { ea := ptr m 1, n := extent (copyRows m) (copyStride m 0) sb, spaces := spAll, align := al }
    let dst : Opnd := { ea := ptr m 2, n := extent (copyRows m) (copyStride m 1) db, dst := true, spaces := spAll,
                        align := al }
    let sc : List Opnd := if copyBlock m == 0 then []
      else [{ ea := ptr m 5, n := copyRows m * (copyElems m / copyBlock m), spaces := spAll }]
    if f == 0 then src :: dst :: sc else if f == 1 then [dst] else src :: sc
  | 0x43, f =>
    let g := f == 0
    [{ ea := ptr m 1, dst := !g, spaces := spAll, decl := false },
     { ea := ptr m 2, n := gatherElems m * indexSize m, spaces := spLocal, align := indexSize m },
     { ea := ptr m 3, n := gatherElems m * gatherSize m, dst := g, spaces := spAll }]
  | 0x45, f =>
    [{ ea := ptr m 1, n := if walkTiles m == 0 then 0
         else (walkTiles m - 1) * walkTS m + extent (walkRows m) (walkRS m) (walkCols m),
       dst := f == 1, spaces := [0, 1, 2, 4], align := 8 }]
  | 0x47, _ =>
    let w := if m.e.o.b == 0 then 4 else 2
    [{ ea := ptr m 1, n := extent (nbVecs m) (nbStride m 0) (w * nbK m), spaces := [0, 4, 5], align := 64 },
     { ea := ptr m 2, n := extent (nbVecs m) (nbStride m 1) (nbRows m * (fmtWidth (fmtOfFo m.e.fo.toNat) / 8)),
       dst := true, spaces := [0, 4, 5], align := 64 }]
  | 0x49, 0 =>
    let n := fieldOf (reg m 4) 32 9
    let rs := fieldOf (reg m 4) 0 32
    let mask : List Opnd := if reg m 6 == 0 then [] else [{ ea := ptr m 6, n := 32, spaces := spAll, align := 8 }]
    [{ ea := ptr m 1, n := 2 * headDim m, spaces := spLocal, align := 64 },
     { ea := ptr m 2, n := n * rs, align := 64 }, { ea := ptr m 3, n := n * rs, align := 64 }] ++ mask ++
      [{ ea := ptr m 7, n := 16 + 4 * headDim m, dst := true, spaces := spLocal, align := 64 }]
  | 0x49, _ =>
    [{ ea := ptr m 1, n := fieldOf (reg m 2) 0 13 * tripleStride m, spaces := spLocal, align := 64 },
     { ea := ptr m 3, n := mergeBytes m, dst := true, spaces := spLocal, align := 64 }]
  | 0x4B, f =>
    let mask : List Opnd := if reg m 4 == 0 then [] else [{ ea := ptr m 4, n := 2 ^ 17, spaces := spAll, align := 8 }]
    [{ ea := ptr m 1, n := 4 * fieldOf (reg m 2) 0 21, align := 64 }] ++ mask ++
      [{ ea := ptr m 8, n := if f == 0 then 2048 else 32, dst := true, spaces := spLocal, align := 32 }]
  | _, 0 =>
    [{ ea := ptr m 1, n := reg m 2, spaces := [0, 1] }, { ea := ptr m 3, n := reg m 4, dst := true, spaces := [0, 1] },
     { ea := ptr m 6, n := 8, dst := true, spaces := [0, 1], align := 8 }]
  | _, _ => [{ ea := ptr m 1, n := reg m 2, spaces := [0, 1], align := 8 }]

/-- What the guard clamps: the count that a command's entry names (R321). -/
def cmdCount (m : Cmd) : Nat :=
  match m.maj, m.fn with
  | 0x41, _ => copyRows m
  | 0x43, _ => gatherElems m
  | 0x45, _ => walkTiles m
  | 0x47, _ => nbRows m
  | 0x49, 0 => fieldOf (reg m 4) 32 9
  | 0x49, _ => fieldOf (reg m 2) 0 13
  | 0x4B, _ => fieldOf (reg m 2) 0 21
  | _, _ => reg m 2
/-- Whether a command's entry divides it into granules (R324). -/
def hasGranules (m : Cmd) : Bool := m.unit == 1 || m.unit == 2
/-- The granules of a command: its count, or the whole command as one. -/
def granulesOf (m : Cmd) : Nat := if hasGranules m then m.count else 1
/-- Whether granules are performed in ascending order: where slots are filled or freed (R325, R327). -/
def inOrder (m : Cmd) : Bool := m.maj == 0x45 || (m.maj == 0x41 && m.fn == 2)

/-! ### The checks (R320) -/

/-- The format range register that a command names. -/
def nbFreg (s : State) (m : Cmd) : BitVec 256 := vget s.cfg.fregs (nbReg m) 0
/-- The format of a format range register (R237). -/
def fregFmt (f : BitVec 256) : Nat := fieldOf f.toNat 192 5
/-- Bits of one raw row of NBMV, and its bytes where they are a whole number. -/
def nbRowBits (s : State) (m : Cmd) : Nat := nbK m * codeWidth (fregFmt (nbFreg s m))
/-- Bytes of one raw row. -/
def nbRowBytes (s : State) (m : Cmd) : Nat := nbRowBits s m / 8
/-- The enabled CB2R register of the tenant that names a register as its pair (R329). -/
def pairOf (s : State) (v g : Nat) : Option (BitVec 256) :=
  s.cfg.fregs.toList.find? fun r => r.getLsbD 0 && fregVf r == v && fregFmt r == 19 && fieldOf r.toNat 208 4 == g
/-- The channel of a port of the issuing actor. -/
def outChan (s : State) (m : Cmd) (actor port : Nat) : Option Nat := ((actorOf s m.launch actor).outs[port]?).map (·.1)
/-- The clusters that a `twalk.ld` fills (R327). -/
def walkClusters (m : Cmd) : List Nat :=
  if fieldOf (reg m 5) 0 16 == 0 then [maClus (ptr m 2)]
  else (bitsSet 16 (fieldOf (reg m 5) 0 16)).map fun j => m.c / 16 * 16 + j
/-- The channel instances that a walk fills or empties; none where one of them is missing. -/
def walkChans (s : State) (m : Cmd) : Option (List Chan) :=
  let a := ptr m 2
  let on (c ch : Nat) : Option Chan := chanAt s c m.launch ch
  if m.fn == 0 then
    (walkClusters m).mapM fun c =>
      match targetOf s { tenant := m.tenant, launch := m.launch, addr := BitVec.ofNat 64 (c * 2 ^ 32 + a.toNat % 2 ^ 32) } with
      | .inst _ act => if maPort a < 8 then (act.ins[maPort a]?).bind fun r => on c r.1 else none
      | _ => none
  else if maPort a < 8 then ((outChan s m (maActor a) (maPort a)).bind (on m.c)).map fun x => [x]
  else none
/-- The checks of a command's own entry, by number (log 56, DEDUCED). -/
def ownChecks (s : State) (m : Cmd) : List Nat :=
  match m.maj, m.fn with
  | 0x41, f =>
    let n := copyElems m
    let conv := f == 1 || copyConverts m
    let st (side : Nat) : Bool := conv && copyStride m side % 8 != 0
    failsIf (n == 0 || 2 ^ 24 < n || copyRows m == 0 || (copyBlock m != 0 && n % copyBlock m != 0) ||
      (f != 1 && st 0) || (f != 2 && st 1)) 3 ++
    failsIf (strays m 3 0xFFFF01FFFFFF || (f == 1 && copyStride m 0 != 0) || (f == 2 && (copyStride m 1 != 0 || strays m 2 7)) ||
      (f != 1 && copyBlock m == 0 && reg m 5 != 0)) 4 ++
    (if f == 2 then
      match outChan s m m.actor (reg m 2 % 8) with
      | none => [9]
      | some ch => failsIf ((chanAt s m.c m.launch ch).any fun x => x.bytes < (copyBytes m).2) 8
    else [])
  | 0x43, _ =>
    let n := gatherElems m
    let e := gatherSize m
    failsIf (n == 0 || 2 ^ 24 < n || e < 4 || 2 ^ 21 < e || e % 4 != 0 || reg m 5 % 4 != 0) 3 ++
    failsIf (strays m 4 0xFFFFFF01FFFFFF) 4
  | 0x45, f =>
    failsIf (walkRows m == 0 || 64 < walkRows m || walkCols m < 8 || 4096 < walkCols m || walkCols m % 8 != 0 ||
      walkRS m % 8 != 0 || walkTS m % 8 != 0) 3 ++
    failsIf (strays m 3 0xFFFF00FFFFFF || !(maOk (ptr m 2)) || strays m 5 (if f == 0 then 0xFFFF else 0)) 4 ++
    (match walkChans s m with
      | none => [9]
      | some l => failsIf (l.any fun x => x.bytes < walkRows m * walkCols m) 8)
  | 0x47, _ =>
    let g := nbFreg s m
    let rb := nbRowBytes s m
    failsIf (nbRows m == 0 || 2 ^ 20 < nbRows m || nbK m == 0 || nbStride m 0 % 64 != 0 || nbStride m 1 % 64 != 0) 3 ++
    failsIf (strays m 3 0xFFFFFFFF0000000F || strays m 4 0xFFFFFF001FFFFF || !(maOk (ptr m 6))) 4 ++
    failsIf (!(g.getLsbD 0) || fregVf g != m.tenant) 8 ++
    failsIf (nbRowBits s m % 2048 != 0 || fieldOf g.toNat 80 25 * 2 ^ 16 < (nbFirst m + nbRows m) * rb) 9 ++
    failsIf (m.e.ver == 1 && (fregFmt g != 18 || (pairOf s m.tenant (nbReg m)).isNone)) 10
  | 0x49, 0 =>
    let rs := fieldOf (reg m 4) 0 32
    failsIf (rs % 64 != 0 || rs < 2 * headDim m || 256 < fieldOf (reg m 4) 32 9) 3 ++
    failsIf (strays m 4 0xFFFFF1FFFFFFFFFF || strays m 5 0xFFFFFFFF) 4 ++
    failsIf (fieldOf (reg m 5) 23 8 == 255) 8
  | 0x49, _ =>
    let n := fieldOf (reg m 2) 0 13
    failsIf (n == 0 || 4096 < n) 3 ++ failsIf (strays m 2 0x1FFF) 4
  | 0x4B, f =>
    let n := fieldOf (reg m 2) 0 21
    let c := decodeFmt .fp32 (fieldOf (reg m 3) 0 32)
    let p := decodeFmt .fp32 (fieldOf (reg m 3) 32 32)
    let pos (x : Val) : Bool := match x with
      | .num false k _ _ => k != 0
      | _ => false
    failsIf (n == 0 || 2 ^ 20 < n || n < fieldOf (reg m 2) 32 21) 3 ++
    failsIf (strays m 2 0x1FFFFF001FFFFF || strays m 6 0xFFFFFFFFFFFF || strays m 7 0xFFFFFF ||
      (f == 0 && strays m 9 0x3FFFFFFFF) || (f == 2 && strays m 9 0xFFFFFFFFFFFFF)) 4 ++
    failsIf (!(pos c) || !(pos p) || valCmp p (valInt 1) == 1) 8
  | _, f =>
    failsIf (reg m 2 == 0 || (if f == 0 then 2 ^ 24 < reg m 2 || reg m 4 == 0 || 2 ^ 25 < reg m 4 else 2 ^ 22 < reg m 2)) 3 ++
    failsIf (strays m 5 3) 4
/-- The status pointer as an operand. -/
def statusOpnd (m : Cmd) : Opnd := { ea := ptr m 0, n := 8, dst := true, spaces := [0, 5, 6], align := 8, decl := false }
/-- The checks of one pointer: 1, 2 and 7. -/
def opndChecks (s : State) (m : Cmd) (x : Opnd) : List Nat :=
  let sp := spaceOf x.ea
  failsIf (!(x.spaces.contains sp) || !(spaceOk s m.tenant .vec sp) || !(pointerClean x.ea)) 1 ++
  failsIf (x.ea.toNat % x.align != 0) 2 ++
  failsIf (4 ≤ sp && sp ≤ 6 && 0 < x.n && match (locate s (cmdMaster m).f (cmdMaster m).core x.ea x.n .rd).2 with
    | .cause _ => true
    | _ => false) 7
/-- Whether a destination of a command meets one of its sources. -/
def selfOverlaps (l : List Opnd) : Bool := l.any fun d => d.dst && l.any fun x => !x.dst && meets d.ea d.n x.ea x.n
/-- The lowest check that a command fails. -/
def cmdCheck (s : State) (m : Cmd) : Option Nat :=
  let ptrs := (if reg m 0 == 0 then [] else [statusOpnd m]) ++ opnds m
  let g := m.guard
  let all := ptrs.flatMap (opndChecks s m) ++ ownChecks s m ++
    failsIf (m.e.guard != 0 && (g.toNat % 4 != 0 || spaceOf g != 0 || !(vaClean g))) 5 ++
    failsIf (selfOverlaps ((opnds m).filter (·.decl))) 6
  all.foldl (fun b n => match b with
    | none => some n
    | some k => some (min k n)) none

/-! ### Status words (R319) -/

/-- A status word. -/
def statusWord (prog cause : Nat) (flags : BitVec 7) (code : Nat) (stp fin : Bool) (ver : Nat) : Word :=
  BitVec.ofNat 64 (prog % 2 ^ 24 * 2 ^ 40 + cause % 2 ^ 8 * 2 ^ 32 + flags.toNat * 2 ^ 18 + code * 2 ^ 12 +
    (if stp then 2 ^ 7 else 0) + (if fin then 2 ^ 6 else 0) + ver % 16)
/-- The granules performed before the first that is not. -/
def progOf (m : Cmd) : Nat :=
  let whole (g : Nat) : Bool := m.perf.contains g && !(m.outs.any fun o => o.gran == g)
  if hasGranules m then ((List.range m.count).find? fun g => !(whole g)).getD m.count else 0
/-- Whether an NBMV command's last version is final (R329). -/
def nbFinal (m : Cmd) : Bool := m.ver == 2 || (m.ver == 1 && (m.halt || m.e.ver == 0))
/-- The status word of a live command. -/
def liveStatus (m : Cmd) : Word :=
  statusWord (progOf m) (if m.code == 7 then m.cause else 0) m.flags m.code m.stp (nbFinal m) m.ver
/-- The status word at a command's end. -/
def endStatus (m : Cmd) (code cause : Nat) : Word := statusWord (progOf m) cause m.flags code m.stp true m.ver
/-- The status of a retired handle (R318, R325). -/
def retiredStatus : Word := statusWord 0 0 0 6 false true 0
/-- Write a status word at a command's status pointer. -/
def writeCmdStatus (s : State) (m : Cmd) (w : Word) : Work Nat :=
  if reg m 0 == 0 then .ok s m.wts
  else unitWrite { cmdMaster m with now := true } 30 0 s (ptr m 0) (toBytes 8 w.toNat) m.wts
/-- Write it where it can be written: a status pointer is in space 0x0, 0x5 or 0x6, so only a translation fault or a window
stands against it (R317). -/
def tryCmdStatus (s : State) (m : Cmd) (w : Word) : State :=
  match writeCmdStatus s m w with
  | .ok s _ => s
  | _ => s

/-! ### Issue (R260, R261, R316, R320) -/

/-- The commands. -/
def cmdOf (s : State) (id : Nat) : Option Cmd := s.eng.cmds.find? fun m => m.id == id
/-- Replace a command by identity. -/
def putCmd (s : State) (m : Cmd) : State :=
  setEng s { s.eng with cmds := updWhere (fun k => k.id == m.id) (fun _ => m) s.eng.cmds }
/-- Remove a command with its range locks. -/
def dropCmd (s : State) (id : Nat) : State :=
  setEng s { s.eng with cmds := s.eng.cmds.filter fun k => k.id != id, locks := s.eng.locks.filter fun k => k.cmd != id }
/-- An ENGINE record (R273, R274): it waits at the die of the unit. -/
def engineRecord (s : State) (m : Cmd) (info : Nat) : State :=
  let die := match m.unit with
    | 4 => m.uidx / 2048
    | 6 => 4
    | _ => dieOf m.c
  queueRecord s { die := die, tenant := m.tenant, rtype := 5, core := m.cores.head?.getD 0xFF, clus := m.c, actid := m.actor,
                  val := cmdHandle m, info := BitVec.ofNat 64 info, ts := maxPts s m.c m.cores }
/-- The unit that a command goes to. -/
def unitIndex (s : State) (f : Firing) (i maj fn : Nat) (blk : List Word) : Nat :=
  match maj, fn with
  | 0x47, _ => fieldOf (vget s.cfg.fregs (fieldOf (blk.getD 3 0).toNat 0 4) 0).toNat 16 25 / 2 ^ 18
  | 0x49, 0 =>
    match (locate s f i (blk.getD 2 0) 64 .rd).2 with
    | .ok p => if spaceOf (blk.getD 2 0) == 0 then p.home else f.clus * 8 + i
    | _ => f.clus * 8 + i
  | 0x49, _ => f.clus * 8 + i
  | 0x4B, _ => dieOf f.clus
  | 0x4D, _ => 0
  | _, _ => f.clus
/-- The command that a core issues. -/
def mkCmd (s : State) (f : Firing) (units : List Core) (uni : Bool) (c : Core) (o : OpE) (maj fn blk : Nat) : Cmd :=
  let r := fileOf f units uni c
  let regs := (List.range blk).map fun j => getS r (o.o.a.toNat + j)
  { tenant := f.tenant, launch := f.launch, firing := f.id, inst := f.inst, actor := f.actor, c := f.clus
    cores := if uni then units.map (·.idx) else [c.idx], unit := (unitOf maj).1, uidx := unitIndex s f c.idx maj fn regs
    maj := maj, fn := fn, e := o, blk := regs, sto := (getS r 29, (getS r 30).setWidth 32, getS r 31)
    guard := getS r o.guard.toNat, clk := clockOf s f, tick := clockVal s (clockOf s f), dfl0 := c.dfl0, dfl1 := c.dfl1 }
/-- The effective addresses that an access touches. -/
def accSpans (a : Acc) : List (Nat × Nat) :=
  if a.lanes then (List.range 4).map fun j => (a.ea.toNat + j * 4096, 4) else [(a.ea.toNat, a.size)]
/-- Whether an earlier load, store or RED of these cores meets a range and has not performed (R260). -/
def undrained (s : State) (c : Nat) (cores : List Nat) (ea n : Nat) : Bool :=
  (clusAccs s c).any fun e =>
    (cores.any fun i => (accCores e.1 e.2).1 ≤ i && i < (accCores e.1 e.2).2) &&
      (e.2.kind == .load || e.2.kind == .store || e.2.kind == .red) && !e.2.performed &&
      (accSpans e.2).any fun r => rangesMeet r.1 r.2 ea n
/-- The ranges that a command declares. -/
def declared (m : Cmd) : List Opnd := (opnds m).filter fun x => x.decl && 0 < x.n
/-- Whether a command rests in the save area of its tenant (R280): it fills no inbox and holds up no other. -/
def resting (s : State) (m : Cmd) : Bool := isSaved s m.tenant m.c
/-- Whether a command waits at issue for its range locks or for its cores' accesses (R260, R261). -/
def mustWait (s : State) (m : Cmd) : Bool :=
  let l := declared m
  32 < (s.eng.locks.countP fun k => k.c == m.c && !(restingLock s k)) + l.length ||
    l.any fun x => locked s m.c x.ea.toNat x.n x.dst || undrained s m.c m.cores x.ea.toNat x.n
/-- The last serial of a cluster. -/
def lastSerial (s : State) (c : Nat) : Nat := ((s.eng.serials.find? fun e => e.1 == c).map (·.2)).getD 0
/-- Accept a command into its unit's inbox. -/
def acceptCmd (s : State) (m : Cmd) : State × Word :=
  let (id, s) := newId s
  let n := (lastSerial s m.c + 1) % 2 ^ 32
  let m := { m with id := id, serial := n }
  let locks := (declared m).map fun x => { c := m.c, lo := x.ea.toNat, hi := x.ea.toNat + x.n, dst := x.dst, cmd := id }
  let s := tickClock s m.clk (BitVec.ofNat 32 (opnds m).length)
  let e := { s.eng with cmds := s.eng.cmds ++ [m], serials := putWhere (fun e => e.1 == m.c) (m.c, n) s.eng.serials
                        locks := s.eng.locks ++ locks }
  (setEng s e, cmdHandle m)
/-- What the handle of a rejected command names: its tenant, and its unit and cluster. -/
def rejectKey (v unit c : Nat) : Nat × Nat := (v, unit * 1024 + c)
/-- Keep the check that a command failed, for its handle. -/
def noteReject (s : State) (m : Cmd) (check : Nat) : State :=
  let k := rejectKey m.tenant m.unit m.c
  setEng s { s.eng with rejects := putWhere (fun e => e.1 == k) (k, check) s.eng.rejects }
/-- Reject a command: SHAPE at a valid status pointer, a record, and the launch is FAILED. -/
def rejectCmd (s : State) (m : Cmd) (check : Nat) : State :=
  let s := noteReject s m check
  let s := if (opndChecks s m (statusOpnd m)).isEmpty then tryCmdStatus s m (endStatus m 4 check) else s
  failLaunch (engineRecord s m check) m.launch
/-- The check that reads operands, made as a command is accepted: the records of the list of `attn.mrg`, whose guard word is
read at its start only (R321), and the image of `text.tbl` (R320, R331, R335) (log 114, DEDUCED). -/
def lateCheck (imageOk : List Byte → Bool) (s : State) (m : Cmd) : Work Bool :=
  let u := { cmdMaster m with now := true }
  match m.maj, m.fn with
  | 0x49, 1 =>
    eachWork (fun s ok i => (unitRead u m.e.nur 0 s (ptr m 1 + BitVec.ofNat 64 (i * tripleStride m + 12)) 4).bindOk fun s bs =>
      .ok s (ok && ofBytes bs == headDim m)) (List.range (cmdCount m)) s true
  | 0x4D, 1 => (unitRead u m.e.nur 0 s (ptr m 1) (reg m 2)).bindOk fun s bs => .ok s (imageOk bs)
  | _, _ => .ok s true
/-- What one core's issue of a command comes to: it waits, it waits for a host page, or it is done and gives its handle. -/
inductive Issue where
  | waits
  | asks (page : Nat) (cached : Bool)
  | done (s : State) (h : Word)
deriving Repr
/-- One core's issue of a command, in the order of R316: the waits first, then the unit's checks. Where a check cannot read
its operands for a fault, it is left to the command's work, which parks on that fault (log 114, DEDUCED). -/
def issueCmd (imageOk : List Byte → Bool) (s : State) (f : Firing) (m : Cmd) : Issue :=
  let full := (unitOf m.maj).2 ≤ s.eng.cmds.countP fun k => k.unit == m.unit && k.uidx == m.uidx && !(resting s k)
  let accept (m : Cmd) : Issue :=
    let r := acceptCmd s m
    .done r.1 r.2
  let reject (n : Nat) : Issue := .done (rejectCmd s m n) (handleOf 0 m.unit m.c)
  if full || (m.cores.any fun i => 255 ≤ occp s f { idx := i }) || mustWait s m then .waits
  else
    match cmdCheck s m with
    | some n => reject n
    | none =>
      match lateCheck imageOk s m with
      | .ok _ true => accept m
      | .ok _ false => reject 8
      | .ask _ p cached _ =>
        if pageFailed s (.core m.c (m.cores.head?.getD 0)) p then accept m else .asks p cached
      | _ => accept m
/-- Write a scalar to d on a core, or to the uniform file. -/
def writeD (f : Firing) (uni : Bool) (i d : Nat) (w : Word) : Firing :=
  if uni then putUniOf f i fun u => setG u d w else updCore f i fun c => setX c d w
/-- Mark a core whose part of an instruction is done. -/
def markIssued (f : Firing) (i : Nat) : Firing := updCore f i fun c => { c with busy := .issued }
/-- The cores issue in ascending order, up to the first that waits. -/
def issueEach (issue : State → Firing → Core → Issue) (uni : Bool) (d : Nat) : List Core → State → Firing → State × Firing
  | [], s, f => (s, f)
  | c :: cs, s, f =>
    match issue s f c with
    | .waits => (s, f)
    | .asks p cached =>
      let r := askPage s f.tenant (sectorOf f.clus) p .rd cached [.core f.clus c.idx] []
      (r.2, updCore f c.idx fun k => { k with busy := .page r.1 })
    | .done s h =>
      issueEach issue uni d cs (clearFailed s (.core f.clus c.idx)) (markIssued (writeD f uni c.idx d h) c.idx)
/-- Go on once every acting core has done its part, else hold what is done. -/
def settleIssued (s : State) (f : Firing) (units act : List Core) (len : Word) : Out :=
  let waits (k : Core) : Bool := act.any (fun c => c.idx == k.idx) && k.busy != .issued
  if f.cores.any waits then .next (putFiring s f)
  else
    let f := { f with cores := f.cores.map fun k => if k.busy == .issued then { k with busy := .none } else k }
    .next (putFiring s (advance f units len))
/-- An engine instruction that issues a command (R316); `imageOk` is the check of a text table image. -/
def engineIssue (imageOk : List Byte → Bool) (o : OpE) (maj fn blk : Nat) (s : State) : Out :=
  let uni := k1 o.o
  withFiring (siteE o (BitVec.ofNat 3 fn) (BitVec.ofNat 7 maj) blk) s fun s f units =>
    let act := memUnits f units uni o.o.pr
    let issue (s : State) (f : Firing) (c : Core) : Issue := issueCmd imageOk s f (mkCmd s f units uni c o maj fn blk)
    let r := issueEach issue uni o.o.d.toNat (act.filter fun c => c.busy != .issued) s f
    settleIssued r.1 r.2 units act 8
/-- The same for a unit that reads no image. -/
def engineInstr (o : OpE) (maj fn blk : Nat) (s : State) : Out := engineIssue (fun _ => true) o maj fn blk s

end Sys2Proof.Machine
end

