-- ==== Sys2Proof/Machine/Move.lean ====
section
/-! DEFINITION. COPY, GATHER and TWALK: what one granule does, and their instructions (R167, R170, R325 to R327). -/

namespace Sys2Proof.Machine

/-- An offset added to a pointer. -/
def plus (p : Word) (n : Nat) : Word := p + BitVec.ofNat 64 n
/-- Element i of a row of packed codes (R31). -/
def rowCode (w : Nat) (row : Nat) (i : Nat) : Nat := row / 2 ^ (i * w) % 2 ^ w
/-- A row converted element by element: the bytes, and the flags (R325). `sc` holds the row's scale bytes. -/
def convertRow (m : Cmd) (r : Nat) (row sc : List Byte) : List Byte × FlagBits :=
  let n := copyElems m
  let fmt := copyFmt m
  let out := fmtOfFo m.e.fo.toNat
  let bits := ofBytes row
  let el (i : Nat) : Nat × FlagBits :=
    let s := if copyBlock m == 0 then 0 else ((sc[i / copyBlock m]?).getD 0).toNat
    roundTo out m.e.o.q.toNat false (stoWord m.sto (r * n + i)) (elemScaled fmt (rowCode (codeWidth fmt) bits i) s)
  let l := (List.range n).map el
  (l.flatMap fun e => toBytes (fmtWidth out / 8) e.1, l.foldl (fun f e => f ||| e.2) 0)
/-- The bytes of a row at its destination. -/
def copyRow (m : Cmd) (r : Nat) (s : State) : Work (List Byte × FlagBits) :=
  if m.fn == 1 then .ok s ((List.replicate (copyElems m) (toBytes 8 (reg m 1))).flatten, 0)
  else
    let u := cmdMaster m
    (unitRead u m.e.nur 0 s (plus (ptr m 1) (r * copyStride m 0)) (copyBytes m).1).bindOk fun s row =>
      if !(copyConverts m) then .ok s (row, 0)
      else
        let nb := if copyBlock m == 0 then 0 else copyElems m / copyBlock m
        (unitRead u m.e.nur 2 s (plus (ptr m 5) (r * nb)) nb).bindOk fun s sc => .ok s (convertRow m r row sc)
/-- Fill the first free slot of a channel instance on a cluster for an engine (R167, R170). -/
def fillChan (s : State) (m : Cmd) (x : Chan) (bs : List Byte) : Option State :=
  match x.free with
  | [] => none
  | j :: rest =>
    let s := setMem s (memWriteBytes s.mem (memKey .cluster (x.clus * 2 ^ 19 + x.base + j * x.bytes)) bs)
    some (settle (updChan s x.clus x.launch x.chan fun y =>
      { y with free := rest, filled := y.filled ++ [j], hdrs := y.hdrs.set j (localHeader x.clus m.actor)
               notes := y.notes.filter fun n => n.1 != j
               rel := y.rel.filter fun e => e.1 != j, relTs := y.relTs.filter fun e => e.1 != j }) x.clus)
/-- One row of COPY. -/
def copyGranule (s : State) (m : Cmd) (r : Nat) : Work Cmd :=
  (copyRow m r s).bindOk fun s out =>
    let m := { m with flags := m.flags ||| out.2 }
    if m.fn == 2 then
      match (outChan s m m.actor (reg m 2 % 8)).bind fun ch => (chanAt s m.c m.launch ch).bind fun x => fillChan s m x out.1 with
      | none => .wait
      | some s => .ok s m
    else cmdWrite m.e.nuw 1 s m (plus (ptr m 2) (r * copyStride m 1)) out.1
/-- One element of GATHER. -/
def gatherGranule (s : State) (m : Cmd) (i : Nat) : Work Cmd :=
  let u := cmdMaster m
  let w := indexSize m
  let e := gatherSize m
  let side := plus (ptr m 3) (i * e)
  (unitRead u m.e.nur 1 s (plus (ptr m 2) (i * w)) w).bindOk fun s ib =>
    let x := ofBytes ib
    let pad := x == 2 ^ (8 * w) - 1
    let p := plus (ptr m 1) (x * reg m 5)
    let put (s : State) (j : Nat) (ea : Word) (bs : List Byte) : Work Cmd := cmdWrite m.e.nuw j s m ea bs
    if m.fn == 0 then
      if pad then put s 2 side (List.replicate e 0)
      else (unitRead u m.e.nur 0 s p e).bindOk fun s bs => put s 2 side bs
    else if pad then .ok s m
    else (unitRead u m.e.nur 2 s side e).bindOk fun s bs => put s 0 p bs
/-- The address of a row of a tile. -/
def walkRow (m : Cmd) (t r : Nat) : Word := plus (ptr m 1) (t * walkTS m + r * walkRS m)
/-- Fill one slot of each of several channel instances, all at once. -/
def fillAll (m : Cmd) (bs : List Byte) : List Chan → State → Option State
  | [], s => some s
  | x :: xs, s => ((chanAt s x.clus x.launch x.chan).bind fun x => fillChan s m x bs).bind (fillAll m bs xs)
/-- One tile of TWALK. -/
def walkGranule (s : State) (m : Cmd) (t : Nat) : Work Cmd :=
  let u := cmdMaster m
  match walkChans s m with
  | none => .wait
  | some l =>
    if m.fn == 0 then
      if l.any fun x => x.free.isEmpty then .wait
      else
        (eachWork (fun s bs r => (unitRead u m.e.nur 0 s (walkRow m t r) (walkCols m)).bindOk fun s b => .ok s (bs ++ b))
          (List.range (walkRows m)) s ([] : List Byte)).bindOk fun s bs =>
            match fillAll m bs l s with
            | none => .wait
            | some s => .ok s m
    else
      match l.head?.bind fun x => x.filled.head?.map fun j => (x, j) with
      | none => .wait
      | some (x, j) =>
        let bs := memReadBytes s.mem (memKey .cluster (x.clus * 2 ^ 19 + x.base + j * x.bytes)) (walkRows m * walkCols m)
        (eachWork (fun s m r => cmdWrite m.e.nuw 0 s m (walkRow m t r) ((bs.drop (r * walkCols m)).take (walkCols m)))
          (List.range (walkRows m)) s m).bindOk fun s m =>
            .ok (updChan s x.clus x.launch x.chan fun y => { y with filled := y.filled.drop 1, fr := y.fr + 1 })
              { m with taken := m.taken ++ [(t, j)] }
/-- Free the slot of a tile of `twalk.wb`, to the tail of the free list (R327). -/
def freeTile (s : State) (m : Cmd) (j : Nat) : State :=
  match (walkChans s m).bind (·.head?) with
  | none => s
  | some x =>
    let s := updChan s x.clus x.launch x.chan fun y =>
      { y with fr := y.fr - 1, free := y.free ++ [j], notes := y.notes.filter fun n => n.1 != j }
    let acks := (x.notes.filter fun n => n.1 == j).map (·.2)
    settle (setTasks s { s.tasks with
      tasks := s.tasks.tasks.map fun k => { k with notes := k.notes.filter fun v => !(acks.contains (k.id, v)) } }) x.clus
/-- Free the slots of the tiles whose writes have all performed, in ascending tile (R327). -/
def freeTiles (s : State) (m : Cmd) : State × Cmd :=
  let done := m.taken.takeWhile fun e => !(m.outs.any fun o => o.gran == e.1)
  (done.foldl (fun s e => freeTile s m e.2) s, { m with taken := m.taken.drop done.length })
/-- Put the slots of tiles that will be walked again back to the head of their channel. -/
def giveTiles (s : State) (m : Cmd) : State :=
  match (walkChans s m).bind (·.head?) with
  | none => s
  | some x => updChan s x.clus x.launch x.chan fun y =>
      { y with filled := m.taken.map (·.2) ++ y.filled, fr := y.fr - m.taken.length }

/-- `copy.cp`: copies rows, raw or converting. -/
def execCopyCp (o : OpE) (s : State) : Out := engineInstr o 0x41 0 6 s
/-- `copy.fill`: fills rows with a pattern. -/
def execCopyFill (o : OpE) (s : State) : Out := engineInstr o 0x41 1 5 s
/-- `copy.chan`: copies rows into slots of an output channel. -/
def execCopyChan (o : OpE) (s : State) : Out := engineInstr o 0x41 2 6 s
/-- `gather.g`: gathers elements through an index list. -/
def execGatherG (o : OpE) (s : State) : Out := engineInstr o 0x43 0 6 s
/-- `gather.s`: scatters elements through an index list. -/
def execGatherS (o : OpE) (s : State) : Out := engineInstr o 0x43 1 6 s
/-- `twalk.ld`: walks tiles from memory into channel slots. -/
def execTwalkLd (o : OpE) (s : State) : Out := engineInstr o 0x45 0 6 s
/-- `twalk.wb`: writes channel slots back to tiles in memory. -/
def execTwalkWb (o : OpE) (s : State) : Out := engineInstr o 0x45 1 6 s

end Sys2Proof.Machine
end

