-- ==== Sys2Proof/Machine/NearBank.lean ====
section
/-! DEFINITION. NBMV: near-bank matrix-vector products over HBM (R53, R224, R313, R328, R329). -/

namespace Sys2Proof.Machine

/-- A base-table entry of the near-bank units of a channel group: table 0 for CB2, 1 for CB2R (R313). -/
def nbEntry (l : List ((Nat × Nat) × List W32)) (group table i : Nat) : Nat :=
  (((l.find? fun e => e.1 == (group, table)).bind fun e => e.2[i]?).getD 0).toNat
/-- Where a weight byte that has been read ahead is kept: no operand of NBMV lies in space 15. -/
def weightKey (a : Nat) : Nat := 15 * 2 ^ 60 + a
/-- A number of n bytes at a device address as its home holds it (R336), or as it has been read ahead (R262). -/
def homeWord (s : State) (got : List Host.Cell) (a n : Nat) : Nat :=
  if got.isEmpty then memReadN s.mem (memKey .device a) n
  else ofBytes (overlay got (weightKey a) (memReadBytes s.mem (memKey .device a) n))
/-- Weight i of a register's raw range as the near-bank units decode it with a command's base tables: register f, and g for
the tensor scale. -/
def nbElem (s : State) (m : Cmd) (f g : BitVec 256) (i : Nat) : Val :=
  let fmt := fregFmt f
  if fmt == 18 || fmt == 19 then
    let rd := homeWord s m.got
    let addr := fregBase f + 2 * (i / 8)
    let idx := rd addr 2
    cbValue (nbEntry m.tables (addr / 2 ^ 34) (fmt - 18) (idx / 256)) idx (i % 8)
      (decodeFmt .e4m3 (rd (fregScales f + 2048 + i / 64) 1)) (decodeFmt .fp32 (rd (fregScales g + 1024) 4))
  else rawElem (homeWord s m.got) f f fmt i
/-- The elements of granule q of row j: those whose first bit lies in it (log 60, DEDUCED). -/
def granuleElems (f : BitVec 256) (k q : Nat) : List Nat :=
  let w := codeWidth (fregFmt f)
  let lo := (2048 * q + w - 1) / w
  let hi := min k ((2048 * (q + 1) + w - 1) / w)
  rangeFrom lo (hi - lo)
/-- The accumulator of a row after the partials of a register, in ascending bank index (R328). -/
def nbFold (s : State) (m : Cmd) (f g : BitVec 256) (k row : Nat) (x : Nat → Val) (acc : Option Nat) : Nat × FlagBits :=
  let part (q : Nat) : Nat × FlagBits :=
    rne .fp32 (valSum ((granuleElems f k q).map fun e => valMul (nbElem s m f g (row * k + e)) (x e)))
  let step (st : Option Nat × FlagBits) (q : Nat) : Option Nat × FlagBits :=
    let p := part q
    match st.1 with
    | none => (some p.1, st.2 ||| p.2)
    | some a =>
      let r := rne .fp32 (valAdd (decodeFmt .fp32 a) (decodeFmt .fp32 p.1))
      (some r.1, st.2 ||| p.2 ||| r.2)
  let r := (List.range (k * codeWidth (fregFmt f) / 2048)).foldl step (acc, 0)
  (r.1.getD 0, r.2)
/-- The tensor scale of a register's codebook weights: its own for CB2, its pair's for CB2R (R39). -/
def tensorReg (s : State) (f : BitVec 256) : BitVec 256 :=
  if fregFmt f == 19 then vget s.cfg.fregs (fieldOf f.toNat 208 4) 0 else f
/-- A pass of an NBMV command over a register, from earlier accumulators: the new ones, vector by vector and row by row,
and the flags. -/
def nbPass (s : State) (m : Cmd) (f : BitVec 256) (xs : List (List Byte)) (acc : Option (List W32)) : List W32 × FlagBits :=
  let w := if m.e.o.b == 0 then 32 else 16
  let fmt := if m.e.o.b == 0 then Fmt.fp32 else Fmt.bf16
  let cell (v j : Nat) : Nat × FlagBits :=
    let bits := ofBytes (xs.getD v [])
    nbFold s m f (tensorReg s f) (nbK m) (nbFirst m + j) (fun e => decodeFmt fmt (rowCode w bits e))
      (acc.map fun l => (l.getD (v * m.count + j) 0).toNat)
  let l := (List.range (nbVecs m)).flatMap fun v => (List.range m.count).map fun j => cell v j
  (l.map fun e => BitVec.ofNat 32 e.1, l.foldl (fun f e => f ||| e.2) 0)
/-- Read the vectors of x. -/
def nbVectors (s : State) (m : Cmd) : Work (List (List Byte)) :=
  let n := nbK m * (if m.e.o.b == 0 then 4 else 2)
  eachWork (fun s l v => (unitRead (cmdMaster m) m.e.nur 0 s (plus (ptr m 1) (v * nbStride m 0)) n).bindOk fun s x =>
    .ok s (l ++ [x])) (List.range (nbVecs m)) s []
/-- The device ranges that a pass reads from a register: its raw rows, their block scales and the tensor scale. -/
def nbRanges (s : State) (m : Cmd) (f : BitVec 256) : List (Nat × Nat) :=
  let fmt := fregFmt f
  let rb := nbRowBytes s m
  let b := if fmt == 18 || fmt == 19 then 64 else blockOf fmt
  (fregBase f + nbFirst m * rb, m.count * rb) ::
    (if b == 0 then [] else [(fregScales f + 2048 + nbFirst m * (nbK m / b), m.count * (nbK m / b))]) ++
    (if fmt == 18 || fmt == 19 then [(fregScales (tensorReg s f) + 1024, 4)] else [])
/-- The near-bank units read a register's ranges at their homes: update copies go there first (R243, R336), a release is
published (R259), and what cannot be read faults (R219, R322). -/
def nbFetch (s : State) (m : Cmd) (f : BitVec 256) : Work Unit :=
  let l := (nbRanges s m f).filter fun r => 0 < r.2
  if l.any fun r => !(served s (unitReader m) (memKey .device r.1) r.2) then .wait
  else if l.any fun r => poisoned s (memKey .device r.1) r.2 then .fault 0x0D
  else .ok (recallWhere s fun _ _ u => l.any fun r => keysMeet u.key u.size (memKey .device r.1) r.2) ()
/-- Write y from the accumulators. -/
def nbWrite (s : State) (m : Cmd) (acc : List W32) (fl : FlagBits) : Work Cmd :=
  let out := fmtOfFo m.e.fo.toNat
  let row (v : Nat) : List (Nat × FlagBits) :=
    ((acc.drop (v * m.count)).take m.count).map fun a =>
      roundTo out m.e.o.q.toNat false 0 (decodeFmt .fp32 a.toNat)
  let fl := (List.range (nbVecs m)).foldl (fun f v => (row v).foldl (fun f e => f ||| e.2) f) fl
  eachWork (fun s m v => cmdWrite m.e.nuw 1 s m (plus (ptr m 2) (v * nbStride m 1))
      ((row v).flatMap fun e => toBytes (fmtWidth out / 8) e.1)) (List.range (nbVecs m)) s
    { m with flags := m.flags ||| fl, accs := acc }
/-- The first pass: y from the register's own weights. -/
def nbFirstPass (s : State) (m : Cmd) : Work Cmd :=
  (nbVectors s m).bindOk fun s xs =>
    (nbFetch s m (nbFreg s m)).bindOk fun s _ =>
      let r := nbPass s m (nbFreg s m) xs none
      nbWrite s m r.1 r.2
/-- The second pass: each accumulator goes on over the residual weights (R329). A command that has parked since its first
version starts again from its beginning (R322). -/
def nbSecondPass (s : State) (m : Cmd) : Work Cmd :=
  match pairOf s m.tenant (nbReg m) with
  | none => .fault 0x18
  | some p =>
    (nbVectors s m).bindOk fun s xs =>
      (nbFetch s m p).bindOk fun s _ =>
        let again (s : State) : State × List W32 :=
          if m.accs.isEmpty then (s, (nbPass s m (nbFreg s m) xs none).1) else (s, m.accs)
        let first := again s
        let r := nbPass first.1 m p xs (some first.2)
        nbWrite first.1 m r.1 r.2
/-- The notice of an NBMV publication (R303, R329). -/
def nbNotice (s : State) (m : Cmd) (w : Word) : State :=
  if reg m 6 == 0 then s
  else
    let (n, s) := newId s
    let msg : Msg := { id := n, tenant := m.tenant, launch := m.launch, kind := 5, sclus := m.c, sact := m.actor,
                       addr := ptr m 6, words := [cmdHandle m, w], own := true, ts := m.wts }
    setTransit s (s.transit ++ [msg])

/-- `nbmv.mv`: y = W·x near the banks. -/
def execNbmvMv (o : OpE) (s : State) : Out := engineInstr o 0x47 0 7 s

end Sys2Proof.Machine
end

