-- ==== Sys2Proof/Machine/Attention.lean ====
section
/-! DEFINITION. ATTN: the triple of a block of keys and values, and the merge of triples (R53, R330, R331). -/

namespace Sys2Proof.Machine

/-- A code with flags: FP32 results of the attention and sampler units. -/
abbrev Coded := Nat × FlagBits
/-- RoundTo(FP32, RNE, x). -/
def r32 (x : Val) : Coded := rne .fp32 x
/-- An FP32 code as a value. -/
def v32 (c : Nat) : Val := decodeFmt .fp32 c
/-- Exp2 of an FP32 code. -/
def e32 (c : Nat) : Coded := sfu .exp2 .fp32 c
/-- −∞, +∞ and the canonical NaN. -/
def negInf : Nat := 0xFF800000
/-- +∞. -/
def posInf : Nat := 0x7F800000
/-- The canonical NaN. -/
def nan32 : Nat := 0x7FC00000

/-- A triple: maximum, sum, block number and output (R330). -/
structure Triple where
  m : Nat := negInf
  l : Nat := 0
  blk : Nat := 0
  o : List Nat := []
deriving DecidableEq, Repr

/-- The bytes of a triple record. -/
def tripleBytes (t : Triple) : List Byte :=
  toBytes 4 t.m ++ toBytes 4 t.l ++ toBytes 4 t.blk ++ toBytes 4 t.o.length ++ t.o.flatMap (toBytes 4)
/-- A triple record as read, and its h field. -/
def readTriple (h : Nat) (bs : List Byte) : Triple × Nat :=
  ({ m := rd32 bs 0, l := rd32 bs 4, blk := rd32 bs 8, o := (List.range h).map fun t => rd32 bs (16 + 4 * t) }, rd32 bs 12)

/-- The score of a position: d × c with d the rounded product sum. -/
def score (c : Nat) (q k : List Val) : Coded :=
  let d := r32 (valSum ((q.zip k).map fun e => valMul e.1 e.2))
  let s := r32 (valMul (v32 d.1) (v32 c))
  (s.1, d.2 ||| s.2)
/-- The weight of a score under the maximum. -/
def weight (m s : Nat) : Coded :=
  if m == posInf then (if s == posInf then 0x3F800000 else 0, 0)
  else
    let d := r32 (valSub (v32 s) (v32 m))
    let e := e32 d.1
    (e.1, d.2 ||| e.2)
/-- Add a position's weighted row to a triple. -/
def addRow (st : Triple × FlagBits) (w : Coded) (v : List Val) : Triple × FlagBits :=
  let l := r32 (valAdd (v32 st.1.l) (v32 w.1))
  let os := (st.1.o.zip v).map fun e => r32 (valAdd (v32 e.1) (valMul (v32 w.1) e.2))
  ({ st.1 with l := l.1, o := os.map (·.1) }, os.foldl (fun f e => f ||| e.2) (st.2 ||| w.2 ||| l.2))
/-- The triple of a block: scored positions with their rows of V, ascending. -/
def blockTriple (h blk : Nat) (l : List (Coded × List Val)) : Triple × FlagBits :=
  let fl := l.foldl (fun f e => f ||| e.1.2) 0
  let zero := List.replicate h 0
  if l.any fun e => valIsNan (v32 e.1.1) then
    ({ m := nan32, l := nan32, blk := blk, o := List.replicate h nan32 }, fl)
  else
    let m := match l with
      | [] => negInf
      | e :: rest => rest.foldl (fun b x => (floatPick .fp32 true b x.1.1).1) e.1.1
    l.foldl (fun st e => addRow st (weight m e.1.1) e.2) ({ m := m, blk := blk, o := zero }, fl)
/-- Elements of an operand row. -/
def rowVals (fmt : Fmt) (n : Nat) (bs : List Byte) : List Val :=
  let bits := ofBytes bs
  (List.range n).map fun i => decodeFmt fmt (rowCode (fmtWidth fmt) bits i)
/-- `attn.blk` as the unit performs it. -/
def attnBlock (s : State) (m : Cmd) : Work Cmd :=
  let u := cmdMaster m
  let h := headDim m
  let fmt := fmtOfCode m.e.o.b.toNat
  let rs := fieldOf (reg m 4) 0 32
  let dst := if reg m 6 == 0 then 3 else 4
  let mask : Work (List Byte) := if reg m 6 == 0 then .ok s [] else unitRead u m.e.nur 3 s (ptr m 6) 32
  mask.bindOk fun s mb =>
    (unitRead u m.e.nur 0 s (ptr m 1) (2 * h)).bindOk fun s qb =>
      let valid := (List.range m.count).filter fun i => ofBytes mb / 2 ^ i % 2 == 0
      let one (s : State) (l : List (Coded × List Val)) (i : Nat) : Work (List (Coded × List Val)) :=
        (unitRead u m.e.nur 1 s (plus (ptr m 2) (i * rs)) (2 * h)).bindOk fun s kb =>
          (unitRead u m.e.nur 2 s (plus (ptr m 3) (i * rs)) (2 * h)).bindOk fun s vb =>
            .ok s (l ++ [(score (fieldOf (reg m 5) 0 32) (rowVals fmt h qb) (rowVals fmt h kb), rowVals fmt h vb)])
      (eachWork one valid s []).bindOk fun s l =>
        let t := blockTriple h (fieldOf (reg m 4) 44 20) l
        cmdWrite m.e.nuw dst s { m with flags := m.flags ||| t.2 } (ptr m 7) (tripleBytes t.1)

/-- Merge two triples (R331). -/
def mergeTriples (x y : Triple) : Triple × FlagBits :=
  if x.m == negInf then (y, 0)
  else if y.m == negInf then (x, 0)
  else
    let m := floatPick .fp32 true x.m y.m
    let scale (c : Nat) : Coded :=
      let d := r32 (valSub (v32 c) (v32 m.1))
      let e := e32 d.1
      (e.1, d.2 ||| e.2)
    let a := scale x.m
    let b := scale y.m
    let mix (p q : Nat) : Coded := r32 (valAdd (valMul (v32 p) (v32 a.1)) (valMul (v32 q) (v32 b.1)))
    let l := mix x.l y.l
    let os := (x.o.zip y.o).map fun e => mix e.1 e.2
    ({ m := m.1, l := l.1, blk := min x.blk y.blk, o := os.map (·.1) },
      os.foldl (fun f e => f ||| e.2) (m.2 ||| a.2 ||| b.2 ||| l.2))
/-- Insert a triple behind those of lower or equal block number (log 57, DEDUCED). -/
def insertTriple (t : Triple) : List Triple → List Triple
  | [] => [t]
  | x :: xs => if t.blk < x.blk then t :: x :: xs else x :: insertTriple t xs
/-- The fold of records in ascending block number, those of equal number in list order. -/
def foldTriples (l : List Triple) : Triple × FlagBits :=
  match l.foldl (fun l t => insertTriple t l) [] with
  | [] => ({}, 0)
  | t :: rest => rest.foldl (fun st x => let r := mergeTriples st.1 x; (r.1, st.2 ||| r.2)) (t, 0)
/-- The normalised elements of a triple in a format: +0 where the sum is +0 (R331), and DZ over a sum of −0 (R44). -/
def normTriple (f : Fmt) (t : Triple) : List Coded :=
  t.o.map fun c => if t.l == 0 then (0, 0)
    else
      let r := rne f (valDiv (v32 c) (v32 t.l))
      (r.1, r.2 ||| divFlag (v32 c) (v32 t.l))
/-- `attn.mrg` as the unit performs it. A record whose h field differs from the command's is never merged: check 8 is made
again of each record that is read (R331) (log 114, DEDUCED). -/
def attnMerge (s : State) (m : Cmd) : Work Cmd :=
  let u := cmdMaster m
  let h := headDim m
  let one (s : State) (l : List Triple) (i : Nat) : Work (List Triple) :=
    (unitRead u m.e.nur 0 s (plus (ptr m 1) (i * tripleStride m)) (16 + 4 * h)).bindOk fun s bs =>
      let r := readTriple h bs
      if r.2 == h then .ok s (l ++ [r.1]) else .reject 8
  (eachWork one (List.range m.count) s []).bindOk fun s l =>
    let t := foldTriples l
    let fmt := fmtOfFo m.e.fo.toNat
    let os := normTriple fmt t.1
    let out := if m.e.o.q == 1 then os.flatMap fun e => toBytes (fmtWidth fmt / 8) e.1 else tripleBytes t.1
    let fl := if m.e.o.q == 1 then os.foldl (fun f e => f ||| e.2) t.2 else t.2
    cmdWrite m.e.nuw 1 s { m with flags := m.flags ||| fl } (ptr m 3) out

/-- `attn.blk`: the triple of one block. -/
def execAttnBlk (o : OpE) (s : State) : Out := engineInstr o 0x49 0 8 s
/-- `attn.mrg`: merges triples. -/
def execAttnMrg (o : OpE) (s : State) : Out := engineInstr o 0x49 1 4 s

end Sys2Proof.Machine
end

