-- ==== Sys2Proof/Machine/Sampler.lean ====
section
/-! DEFINITION. SAMPLE: thresholds, masses, histograms and draws over a row of logits (R46, R53, R54, R332 to R334). -/

namespace Sys2Proof.Machine

/-- An eligible emission: its index, key, logit code and weight. -/
structure Cand where
  e : Nat := 0
  key : Nat := 0
  z : Nat := 0
  w : Nat := 0
deriving DecidableEq, Repr

/-- Whether a candidate stands before another in the order: higher key first, then lower index. -/
def candBefore (a b : Cand) : Bool := b.key < a.key || (a.key == b.key && a.e < b.e)
/-- Insert into an ordered list. -/
def insertCand (a : Cand) : List Cand → List Cand
  | [] => [a]
  | x :: xs => if candBefore a x then a :: x :: xs else x :: insertCand a xs
/-- The order of R332. -/
def orderCands (l : List Cand) : List Cand := l.foldr insertCand []
/-- The key of an FP32 code: −0 has that of +0 (R54). -/
def sampleKey (z : Nat) : Nat := orderKey z
/-- The eligible emissions of a row, in ascending index, without weights. -/
def eligibleOf (zs : List Nat) (masked : Nat → Bool) : List Cand :=
  zs.zipIdx.filterMap fun p =>
    if valIsNan (v32 p.1) || masked p.2 then none else some { e := p.2, key := sampleKey p.1, z := p.1 }
/-- The largest eligible logit: that of the first emission in the order. -/
def zmaxOf (l : List Cand) : Nat := ((orderCands l).head?.map (·.z)).getD 0xFFFFFFFF
/-- Give the emissions their weights (R332). -/
def weighted (c : Nat) (l : List Cand) : List Cand × FlagBits :=
  let zm := zmaxOf l
  let w (z : Nat) : Coded :=
    if zm == posInf || zm == negInf then (if z == zm then 0x3F800000 else 0, 0)
    else
      let d := r32 (valMul (valSub (v32 z) (v32 zm)) (v32 c))
      let e := e32 d.1
      (e.1, d.2 ||| e.2)
  (l.map fun a => { a with w := (w a.z).1 }, l.foldl (fun f a => f ||| (w a.z).2) 0)
/-- An FP32 addition, with the flags so far. -/
def add32 (a : Coded) (b : Coded) : Coded :=
  let r := r32 (valAdd (v32 a.1) (v32 b.1))
  (r.1, a.2 ||| b.2 ||| r.2)
/-- The mass of a segment's members: a left fold in ascending index. -/
def segMass (l : List Cand) : Coded :=
  match l with
  | [] => (0, 0)
  | a :: rest => rest.foldl (fun m x => add32 m (x.w, 0)) (a.w, 0)
/-- The mass of a set over the segments from lo on, 2^d of them: the balanced tree of R53. -/
def treeMass (l : List Cand) : Nat → Nat → Coded
  | 0, lo => segMass (l.filter fun a => a.e / 128 == lo)
  | d + 1, lo =>
    let here := l.filter fun a => lo ≤ a.e / 128 && a.e / 128 < lo + 2 ^ (d + 1)
    if here.isEmpty then (0, 0) else add32 (treeMass here d lo) (treeMass here d (lo + 2 ^ d))
/-- Mass(S), of a set in ascending index, with the flags of its additions. -/
def massOf (l : List Cand) : Coded := treeMass l 13 0
/-- A set in ascending index, from the whole row. -/
def within (all : List Cand) (s : List Cand) : List Cand := all.filter fun a => s.any fun b => b.e == a.e
/-- The shortest prefix, of at least n + 1 emissions, whose mass reaches t; fuel is the number of emissions. -/
def shortest (all l : List Cand) (t : Nat) : Nat → Nat → List Cand
  | 0, _ => l
  | fuel + 1, n =>
    let p := l.take (n + 1)
    if 0 ≤ valCmp (v32 (massOf (within all p)).1) (v32 t) then p else shortest all l t fuel (n + 1)
/-- The members (R332): the shortest prefix of the k-set whose mass reaches p times its mass; and the flags of T. -/
def membersOf (all : List Cand) (k p : Nat) : List Cand × FlagBits :=
  let ord := orderCands all
  let ks := if k == 0 then ord else ord.take k
  if p == 0x3F800000 then (ks, 0)
  else
    let m := massOf (within all ks)
    let t := r32 (valMul (v32 p) (v32 m.1))
    (shortest all ks t.1 ks.length 0, m.2 ||| t.2)
/-- The choice within a segment (R333), with the flags so far. -/
def pickIn (r : Coded) : List Cand → Nat → Coded
  | [], last => (last, r.2)
  | a :: rest, _ =>
    if valCmp (v32 r.1) (v32 a.w) < 0 then (a.e, r.2)
    else
      let d := r32 (valSub (v32 r.1) (v32 a.w))
      pickIn (d.1, r.2 ||| d.2) rest a.e
/-- The descent of a draw (R333). -/
def descend (l : List Cand) : Nat → Nat → Coded → Coded
  | 0, lo, r => pickIn r (l.filter fun a => a.e / 128 == lo && !(valIsZero (v32 a.w))) 0xFFFFFFFF
  | d + 1, lo, r =>
    let ml := (treeMass l d lo).1
    let mr := (treeMass l d (lo + 2 ^ d)).1
    if valIsZero (v32 ml) then descend l d (lo + 2 ^ d) r
    else if valIsZero (v32 mr) || valCmp (v32 r.1) (v32 ml) < 0 then descend l d lo r
    else
      let x := r32 (valSub (v32 r.1) (v32 ml))
      descend l d (lo + 2 ^ d) (x.1, r.2 ||| x.2)
/-- The random number of a draw as an FP32 code (R333). -/
def drawU (seed : Word) (ctx : W32) (pos draw : Nat) : Nat :=
  (r32 (.num false (fieldOf (cgen seed ctx (BitVec.ofNat 64 (pos * 2 ^ 16 + draw))).toNat 40 24) 1 (-24))).1
/-- The emission of a draw among members in ascending index, and the flags of its roundings. -/
def drawOf (mem : List Cand) (u : Nat) : Coded := descend mem 13 0 (r32 (valMul (v32 u) (v32 (massOf mem).1)))
/-- A result record (R334). -/
def resultBytes (tkey tidx cnt zmax mass emit u res : Nat) : List Byte :=
  [tkey, tidx, cnt, zmax, mass, emit, u, res].flatMap (toBytes 4)
/-- The record of a row with no eligible emission. -/
def noneBytes : List Byte := resultBytes 0xFFFFFFFF 0xFFFFFFFF 0 0xFFFFFFFF 0xFFFFFFFF 0xFFFFFFFF 0xFFFFFFFF 0xFFFFFFFF
/-- A histogram: counts and masses of 256 buckets, and the flags. -/
def histBytes (all : List Cand) (pfx l8 : Nat) : List Byte × FlagBits :=
  let l := 8 * l8
  let pick (b : Nat) : List Cand := all.filter fun a =>
    a.key / 2 ^ (32 - l) == pfx % 2 ^ 32 / 2 ^ (32 - l) && fieldOf a.key (24 - l) 8 == b
  let bs := (List.range 256).map fun b => ((pick b).length, massOf (pick b))
  (bs.flatMap fun e => toBytes 4 e.1 ++ toBytes 4 e.2.1, bs.foldl (fun f e => f ||| e.2.2) 0)
/-- The result of a row: function, the eligible emissions with weights, and the command's own fields; and the flags of the
roundings that it makes (R48, R319). The threshold that `mass` names is its last member, as R332 defines it, and that of a+9
where it has none (R334, log 103, DEDUCED). -/
def sampleResult (m : Cmd) (all : List Cand) : List Byte × FlagBits :=
  let r9 := reg m 9
  if m.fn == 0 then histBytes all r9 (fieldOf r9 32 2)
  else if all.isEmpty then (noneBytes, 0)
  else
    let zm := zmaxOf all
    if m.fn == 2 then
      let tk := fieldOf r9 0 32
      let ti := fieldOf r9 32 20
      let mem := all.filter fun a => tk < a.key || (a.key == tk && a.e ≤ ti)
      let (k, e) : Nat × Nat := match (orderCands mem).getLast? with
        | some a => (a.key, a.e)
        | none => (tk, ti)
      let mass := massOf mem
      (resultBytes k e mem.length zm mass.1 0xFFFFFFFF 0 0, mass.2)
    else
      let mem := membersOf all (fieldOf (reg m 2) 32 21) (fieldOf (reg m 3) 32 32)
      let asc := within all mem.1
      let last := mem.1.getLast?.getD {}
      let mass := massOf asc
      let u := if m.fn == 3 then drawU (ptr m 5) (BitVec.ofNat 32 (reg m 6)) (fieldOf (reg m 7) 0 24) (fieldOf (reg m 6) 32 16)
        else 0
      let d : Coded := if m.fn == 3 then drawOf asc u else (0xFFFFFFFF, 0)
      (resultBytes last.key last.e mem.1.length zm mass.1 d.1 u 0, mem.2 ||| mass.2 ||| d.2)
/-- A SAMPLE command as the sampler performs it. -/
def sampleRun (s : State) (m : Cmd) : Work Cmd :=
  let u := cmdMaster m
  let n := m.count
  let mask : Work (List Byte) := if reg m 4 == 0 then .ok s [] else unitRead u m.e.nur 1 s (ptr m 4) ((n + 7) / 8)
  mask.bindOk fun s mb =>
    (unitRead u m.e.nur 0 s (ptr m 1) (4 * n)).bindOk fun s zb =>
      let zs := (List.range n).map fun i => rd32 zb (4 * i)
      let masked (e : Nat) : Bool := ((mb[e / 8]?).getD 0).getLsbD (e % 8)
      let r := weighted (fieldOf (reg m 3) 0 32) (eligibleOf zs masked)
      let out := sampleResult m r.1
      cmdWrite m.e.nuw (if reg m 4 == 0 then 1 else 2) s { m with flags := m.flags ||| r.2 ||| out.2 } (ptr m 8) out.1

/-- `sample.hist`: a histogram of one radix pass. -/
def execSampleHist (o : OpE) (s : State) : Out := engineInstr o 0x4B 0 10 s
/-- `sample.thr`: the threshold, without a draw. -/
def execSampleThr (o : OpE) (s : State) : Out := engineInstr o 0x4B 1 9 s
/-- `sample.mass`: the members of a given threshold. -/
def execSampleMass (o : OpE) (s : State) : Out := engineInstr o 0x4B 2 10 s
/-- `sample.draw`: the threshold and a draw. -/
def execSampleDraw (o : OpE) (s : State) : Out := engineInstr o 0x4B 3 9 s

end Sys2Proof.Machine
end

