-- ==== Sys2Proof/Machine/Text.lean ====
section
/-! DEFINITION. TEXT: UTF-8, table images, segments and normalisation (R335, R383 to R386). -/

namespace Sys2Proof.Machine

/-! ### UTF-8 (R335) -/

/-- One unit of input: a code point, or a maximal ill-formed subsequence, with its bytes. -/
structure TextUnit where
  cp : Option Nat := none
  bytes : List Byte := []
deriving DecidableEq, Repr

/-- For a lead byte: the continuation bytes that follow, the range of the first of them, and the bits that it gives. -/
def utfLead (b : Nat) : Option (Nat × Nat × Nat × Nat) :=
  if b < 0x80 then some (0, 0x80, 0xBF, b)
  else if b < 0xC2 then none
  else if b < 0xE0 then some (1, 0x80, 0xBF, b % 32)
  else if b < 0xF0 then some (2, if b == 0xE0 then 0xA0 else 0x80, if b == 0xED then 0x9F else 0xBF, b % 16)
  else if b < 0xF5 then some (3, if b == 0xF0 then 0x90 else 0x80, if b == 0xF4 then 0x8F else 0xBF, b % 8)
  else none
/-- Read continuation bytes: the code point and the bytes taken, or the bytes taken before the one that does not fit. -/
def utfTail : Nat → Nat → Nat → Nat → List Byte → Nat → Option Nat × Nat
  | 0, _, _, cp, _, n => (some cp, n)
  | _ + 1, _, _, _, [], n => (none, n)
  | k + 1, lo, hi, cp, b :: bs, n =>
    if lo ≤ b.toNat && b.toNat ≤ hi then utfTail k 0x80 0xBF (cp * 64 + b.toNat % 64) bs (n + 1) else (none, n)
/-- The first unit of a nonempty input. -/
def utfUnit (b : Byte) (bs : List Byte) : TextUnit :=
  match utfLead b.toNat with
  | none => { bytes := [b] }
  | some (k, lo, hi, top) =>
    let r := utfTail k lo hi top bs 0
    { cp := r.1, bytes := b :: bs.take r.2 }
/-- The units of an input; fuel is its length. -/
def utfUnits : Nat → List Byte → List TextUnit
  | 0, _ => []
  | _ + 1, [] => []
  | n + 1, b :: bs =>
    let u := utfUnit b bs
    u :: utfUnits n ((b :: bs).drop u.bytes.length)
/-- The bytes of a code point. -/
def utfBytes (cp : Nat) : List Byte :=
  let c (sh : Nat) : Nat := 0x80 + cp / 2 ^ sh % 64
  (if cp < 0x80 then [cp]
   else if cp < 0x800 then [0xC0 + cp / 64, c 0]
   else if cp < 0x10000 then [0xE0 + cp / 4096, c 6, c 0]
   else [0xF0 + cp / 262144, c 12, c 6, c 0]).map (BitVec.ofNat 8)

/-! ### Table images (R384) -/

/-- Entry i of a table of an image: its offset field's place, the entry size and the bytes read. -/
def imgEntry (img : List Byte) (off size i : Nat) : Nat := ofBytes ((img.drop (rd32 img off + i * size)).take size)
/-- The form and whether Hangul goes by algorithm. -/
def imgForm (img : List Byte) : Nat := if img.isEmpty then 0 else ((img[4]?).getD 0).toNat
/-- Flags bit 0. -/
def imgHangul (img : List Byte) : Bool := ((img[5]?).getD 0).getLsbD 0
/-- The class table. -/
def imgClasses (img : List Byte) : List Nat := (List.range (rd32 img 8)).map (imgEntry img 0x0C 8)
/-- The decomposition table. -/
def imgDecs (img : List Byte) : List Nat := (List.range (rd32 img 0x10)).map (imgEntry img 0x14 8)
/-- The composition table. -/
def imgComps (img : List Byte) : List Nat := (List.range (rd32 img 0x18)).map (imgEntry img 0x1C 16)
/-- The code-point pool. -/
def imgPool (img : List Byte) : List Nat := (List.range (rd32 img 0x20)).map (imgEntry img 0x24 4)
/-- Whether a number is a code point that is no surrogate. -/
def cpOk (c : Nat) : Bool := c ≤ 0x10FFFF && !(0xD800 ≤ c && c ≤ 0xDFFF)
/-- Whether each neighbour pair satisfies a test. -/
def chainOk (r : Nat → Nat → Bool) : List Nat → Bool
  | a :: b :: rest => r a b && chainOk r (b :: rest)
  | _ => true
/-- Whether an image passes check 8 of `text.tbl`. -/
def imageOk (img : List Byte) : Bool :=
  let fits (cnt off size : Nat) : Bool := rd32 img off + rd32 img cnt * size ≤ img.length
  64 ≤ img.length && rd32 img 0 == 0x544E5950 && imgForm img ≤ 4 && ((img[5]?).getD 0).toNat ≤ 1 &&
    ((img.drop 0x28).take 24).all (· == 0) &&
    fits 8 0x0C 8 && fits 0x10 0x14 8 && fits 0x18 0x1C 16 && fits 0x20 0x24 4 &&
    (imgClasses img).all (fun e => cpOk (fieldOf e 0 24) && cpOk (fieldOf e 24 24) && fieldOf e 56 8 == 0 &&
      fieldOf e 0 24 ≤ fieldOf e 24 24) &&
    chainOk (fun a b => fieldOf a 24 24 < fieldOf b 0 24) (imgClasses img) &&
    (imgDecs img).all (fun e => cpOk (fieldOf e 0 24) && fieldOf e 28 4 == 0 &&
      fieldOf e 32 32 + fieldOf e 25 3 + 1 ≤ rd32 img 0x20) &&
    chainOk (fun a b => fieldOf a 0 24 < fieldOf b 0 24) (imgDecs img) &&
    (imgComps img).all (fun e => cpOk (fieldOf e 0 24) && cpOk (fieldOf e 32 24) && cpOk (fieldOf e 64 24) &&
      fieldOf e 24 8 == 0 && fieldOf e 56 8 == 0 && fieldOf e 88 40 == 0) &&
    chainOk (fun a b => fieldOf a 0 24 < fieldOf b 0 24 ||
      (fieldOf a 0 24 == fieldOf b 0 24 && fieldOf a 32 24 < fieldOf b 32 24)) (imgComps img) &&
    (imgPool img).all cpOk

/-! ### Normalisation (R385) -/

/-- The combining class of a code point. -/
def classOf (img : List Byte) (cp : Nat) : Nat :=
  ((imgClasses img).find? fun e => fieldOf e 0 24 ≤ cp && cp ≤ fieldOf e 24 24).elim 0 fun e => fieldOf e 48 8
/-- Whether a code point is the second of a composition. -/
def isSecond (img : List Byte) (cp : Nat) : Bool :=
  (imgComps img).any (fun e => fieldOf e 32 24 == cp) ||
    (imgHangul img && ((0x1161 ≤ cp && cp ≤ 0x1175) || (0x11A8 ≤ cp && cp ≤ 0x11C2)))
/-- The decomposition of a code point, applied once. -/
def decompose (img : List Byte) (cp : Nat) : List Nat :=
  let compat := 3 ≤ imgForm img
  if imgHangul img && 0xAC00 ≤ cp && cp ≤ 0xD7A3 then
    let s := cp - 0xAC00
    let t := s % 28
    [0x1100 + s / 588, 0x1161 + s % 588 / 28] ++ (if t == 0 then [] else [0x11A7 + t])
  else
    match (imgDecs img).find? fun e => fieldOf e 0 24 == cp && (compat || fieldOf e 24 1 == 0) with
    | none => [cp]
    | some e => (rangeFrom (fieldOf e 32 32) (fieldOf e 25 3 + 1)).map fun j => (imgPool img).getD j 0
/-- Insert a code point with its class behind every one of a class not greater, but never past a starter. -/
def insertClass (c : Nat × Nat) : List (Nat × Nat) → List (Nat × Nat)
  | [] => [c]
  | x :: xs => if c.2 != 0 && c.2 < x.2 then x :: insertClass c xs else c :: x :: xs
/-- The canonical order: a stable sort of non-starters by class. The list is built in reverse. -/
def canonOrder (l : List (Nat × Nat)) : List (Nat × Nat) := (l.foldl (fun r c => insertClass c r) []).reverse
/-- The composite of two code points. -/
def compose (img : List Byte) (a b : Nat) : Option Nat :=
  if imgHangul img && 0x1100 ≤ a && a ≤ 0x1112 && 0x1161 ≤ b && b ≤ 0x1175 then
    some (0xAC00 + ((a - 0x1100) * 21 + (b - 0x1161)) * 28)
  else if imgHangul img && 0xAC00 ≤ a && a ≤ 0xD7A3 && (a - 0xAC00) % 28 == 0 && 0x11A8 ≤ b && b ≤ 0x11C2 then
    some (a + (b - 0x11A7))
  else ((imgComps img).find? fun e => fieldOf e 0 24 == a && fieldOf e 32 24 == b).map fun e => fieldOf e 64 24
/-- Canonical composition: what stands, the last starter with what follows it, and the code points still to come. -/
def composeGo (img : List Byte) : List (Nat × Nat) → List Nat → Option Nat → List (Nat × Nat) → List Nat
  | [], done, st, held => done ++ st.toList ++ held.map (·.1)
  | (c, k) :: rest, done, none, held =>
    if k == 0 then composeGo img rest (done ++ held.map (·.1)) (some c) [] else composeGo img rest done none (held ++ [(c, k)])
  | (c, k) :: rest, done, some st, held =>
    let free := match held.getLast? with
      | none => true
      | some h => h.2 < k && h.2 != 0
    match if free then compose img st c else none with
    | some x => composeGo img rest done (some x) held
    | none =>
      if k == 0 then composeGo img rest (done ++ [st] ++ held.map (·.1)) (some c) []
      else composeGo img rest done (some st) (held ++ [(c, k)])
/-- A segment's code points normalised. -/
def normSegment (img : List Byte) (cps : List Nat) : List Nat :=
  let f := imgForm img
  if f == 0 then cps
  else
    let d := canonOrder ((cps.flatMap (decompose img)).map fun c => (c, classOf img c))
    if f == 1 || f == 3 then composeGo img d [] none [] else d.map (·.1)
/-- Whether a code point starts a new segment behind an open one. -/
def startsSegment (img : List Byte) (cur : List TextUnit) (cp : Nat) : Bool :=
  let non := cur.countP fun u => u.cp.elim false fun c => classOf img c != 0
  (classOf img cp == 0 && !(isSecond img cp)) || 32 ≤ cur.length || 31 ≤ non
/-- The segments of an input. -/
def segments (img : List Byte) : List TextUnit → List TextUnit → List (List TextUnit)
  | [], cur => if cur.isEmpty then [] else [cur]
  | u :: us, cur =>
    let close (l : List (List TextUnit)) : List (List TextUnit) := if cur.isEmpty then l else cur :: l
    match u.cp with
    | none => close ([u] :: segments img us [])
    | some c => if cur.isEmpty || startsSegment img cur c then close (segments img us [u]) else segments img us (cur ++ [u])
/-- The bytes of a segment at the output; `sub` replaces an ill-formed subsequence. -/
def segmentOut (img : List Byte) (sub : Bool) (seg : List TextUnit) : List Byte :=
  match seg with
  | [{ cp := none, bytes := b }] => if sub then [0xEF, 0xBF, 0xBD] else b
  | l => if imgForm img == 0 then l.flatMap (·.bytes) else (normSegment img (l.filterMap (·.cp))).flatMap utfBytes
/-- Whole segments up to a capacity: the bytes, and how many input bytes they stand for. -/
def normTake (img : List Byte) (sub : Bool) (cap : Nat) : List (List TextUnit) → List Byte → Nat → List Byte × Nat
  | [], out, n => (out, n)
  | g :: gs, out, n =>
    let b := segmentOut img sub g
    if out.length + b.length ≤ cap then
      normTake img sub cap gs (out ++ b) (n + (g.map fun u => u.bytes.length).sum)
    else (out, n)
/-- Normalise bytes with a table image. -/
def normText (img : List Byte) (sub : Bool) (cap : Nat) (bs : List Byte) : List Byte × Nat :=
  normTake img sub cap (segments img (utfUnits bs.length bs) []) [] 0
/-- A tenant's table image of a set. -/
def textSet (s : State) (v j : Nat) : List Byte := (tenantOf s v).text.getD j []
/-- `text.norm` as the text unit performs it. -/
def textNorm (s : State) (m : Cmd) : Work Cmd :=
  let u := cmdMaster m
  (unitRead u m.e.nur 0 s (ptr m 1) m.count).bindOk fun s bs =>
    let r := normText (textSet s m.tenant (reg m 5 % 4)) (m.e.shape == 1) (reg m 4) bs
    (cmdWrite m.e.nuw 1 s m (ptr m 3) r.1).bindOk fun s m =>
      cmdWrite m.e.nuw 2 s m (ptr m 6) (toBytes 4 r.2 ++ toBytes 4 r.1.length)
/-- `text.tbl` as the text unit performs it. Check 8 is made again of the image that it reads (R335) (log 114,
DEDUCED). -/
def textTable (s : State) (m : Cmd) : Work Cmd :=
  (unitRead (cmdMaster m) m.e.nur 0 s (ptr m 1) (reg m 2)).bindOk fun s bs =>
    if !(imageOk bs) then .reject 8
    else
      let t := tenantOf s m.tenant
      .ok (putTenant s m.tenant { t with text := t.text.set (reg m 5 % 4) bs }) m

/-- `text.norm`: normalises text. -/
def execTextNorm (o : OpE) (s : State) : Out := engineInstr o 0x4D 0 7 s
/-- `text.tbl`: loads a table image. -/
def execTextTbl (o : OpE) (s : State) : Out := engineIssue imageOk o 0x4D 1 6 s

end Sys2Proof.Machine
end

