-- ==== Sys2Proof/Machine/EngineRun.lean ====
section
/-! DEFINITION. How engine commands run: start, granules, parking, completion, faults, pre-emption, publication, and
`copy.stat`, `copy.rsm` and `copy.abrt` (R262, R316, R319, R321 to R325, R329). -/

namespace Sys2Proof.Machine

/-- One granule of a command, or the whole of a command that has none. -/
def runGranule (s : State) (m : Cmd) (g : Nat) : Work Cmd :=
  match m.maj, m.fn with
  | 0x41, _ => copyGranule s m g
  | 0x43, _ => gatherGranule s m g
  | 0x45, _ => walkGranule s m g
  | 0x47, _ => if m.ver == 0 then nbFirstPass s m else nbSecondPass s m
  | 0x49, 0 => attnBlock s m
  | 0x49, _ => attnMerge s m
  | 0x4B, _ => sampleRun s m
  | _, 0 => textNorm s m
  | _, _ => textTable s m
/-- Whether an NBMV command refines, and stands between its two versions. -/
def betweenVersions (m : Cmd) : Bool := m.maj == 0x47 && m.e.ver == 1 && m.ver == 1
/-- The granules that are still to perform, ascending. -/
def leftGranules (m : Cmd) : List Nat :=
  if m.skip then []
  else if betweenVersions m then (if m.halt then [] else [0])
  else (List.range (granulesOf m)).filter fun g => !(m.perf.contains g)
/-- Perform one granule and note it; its writes are posted. -/
def performGranule (s : State) (m : Cmd) (g : Nat) : Work Cmd :=
  (runGranule s { m with gran := g } g).bindOk fun s m =>
    let r := freeTiles s { m with perf := m.perf ++ [g] }
    .ok r.1 r.2
/-- Read the guard word, and the count that it leaves (R321). -/
def readGuard (s : State) (m : Cmd) : Work Cmd :=
  let n := cmdCount m
  if m.e.guard == 0 then .ok s { m with begun := true, count := n }
  else
    (unitRead (cmdMaster m) 30 0 s m.guard 4).bindOk fun s bs =>
      let g := ofBytes bs
      .ok s { m with begun := true, count := min g n, skip := g == 0 }
/-- Ask for the host page that a command's work needs. -/
def askFor (s : State) (m : Cmd) (page : Nat) (cached wr : Bool) : State :=
  (askPage s m.tenant (sectorOf m.c) page (if wr then .wr else .rd) cached [] [m.id]).2
/-- Whether a tenant's engines on a cluster are held: under a pre-emption, or saved (R278, R280). -/
def enginesHeld (s : State) (m : Cmd) : Bool :=
  m.stopped || isSaved s m.tenant m.c
/-- What a move of a command answers. -/
def workOut (row : String) (m : Cmd) (w : Work Cmd) (done : State → Cmd → Out) (reject : Nat → Out) : Out :=
  match w with
  | .ok s m => done s m
  | .ask s p c w => .next (askFor s m p c w)
  | .reject n => reject n
  | _ => notEnabled row

/-- Whether an older command of the inbox has still to start; one that rests in a save area holds up no other (R280). -/
def startsBehind (s : State) (m : Cmd) : Bool :=
  s.eng.cmds.any fun k => k.unit == m.unit && k.uidx == m.uidx && k.id < m.id && k.code == 0 && !(resting s k)
/-- ENGINE_COMMAND_START: a unit takes the oldest command of its inbox that has not started, and reads its guard word. A FENCE
with E in succ holds it (R255). -/
def execEngineCommandStart (id : Nat) (s : State) : Out :=
  match cmdOf s id with
  | none => notEnabled "ENGINE_COMMAND_START"
  | some m =>
    let held := hasGranules m && (tenantOf s m.tenant).preempt.contains m.c
    if m.code != 0 || startsBehind s m || held || enginesHeld s m || engineFenced s m.c m.cores m.id then
      notEnabled "ENGINE_COMMAND_START"
    else
      workOut "ENGINE_COMMAND_START" m (readGuard s m)
        (fun s m => .next (putCmd s { m with code := 1, tables := if m.maj == 0x47 then s.eng.nbTables else [] }))
        (fun _ => notEnabled "ENGINE_COMMAND_START")
/-- Under a pre-emption, the granule number at which a command with granules stops (R278, R324). -/
def stopBound (s : State) (m : Cmd) : Option Nat :=
  if hasGranules m && (tenantOf s m.tenant).preempt.contains m.c then
    let n := 2 ^ m.e.sg.toNat
    some ((progOf m + n - 1) / n * n)
  else none
/-- Whether a granule lies behind the point where its command stops. -/
def behindStop (s : State) (m : Cmd) (g : Nat) : Bool :=
  match stopBound s m with
  | none => false
  | some b => b ≤ g
/-- A granule that the plan names: one that a running command has still to perform. A command that has none is one granule; an
NBMV command performs its passes where it publishes them (log 52, DESIGN CHOICE). -/
def moveGranule (id g : Nat) (s : State) : Out :=
  match cmdOf s id with
  | none => notEnabled "GRANULE"
  | some m =>
    let l := leftGranules m
    if m.code != 1 || m.maj == 0x47 || enginesHeld s m || !(l.contains g) || (inOrder m && l.head? != some g) ||
        behindStop s m g then
      notEnabled "GRANULE"
    else workOut "GRANULE" m (performGranule s m g) (fun s m => .next (putCmd s m)) (fun _ => notEnabled "GRANULE")

/-! ### Words written before the rest of their granule (R262) -/

/-- The source bytes at an address, where all of them have been read ahead. -/
def gotBytes (m : Cmd) (ea : Word) (n : Nat) : Option (List Byte) :=
  (List.range n).mapM fun b => (m.got.find? fun e => e.1 == ea.toNat + b).map (·.2)
/-- The same, with zeros for those that have not. -/
def gotOr (m : Cmd) (ea : Word) (n : Nat) : List Byte :=
  (List.range n).map fun b => ((m.got.find? fun e => e.1 == ea.toNat + b).map (·.2)).getD 0
/-- The index of an element of GATHER, read ahead: none where it has not been. -/
def gotIndex (m : Cmd) (i : Nat) : Option Nat := (gotBytes m (plus (ptr m 2) (i * indexSize m)) (indexSize m)).map ofBytes
/-- Byte `off` of the destination of row r of COPY, from source bytes that have been read ahead. -/
def copyByte (m : Cmd) (r off : Nat) : Option Byte :=
  let src := plus (ptr m 1) (r * copyStride m 0)
  if m.fn == 1 then some (BitVec.ofNat 8 (reg m 1 / 2 ^ (8 * (off % 8))))
  else if !(copyConverts m) then (gotBytes m (plus src off) 1).bind (·.head?)
  else
    let w := codeWidth (copyFmt m)
    let e := off / (fmtWidth (fmtOfFo m.e.fo.toNat) / 8)
    let nb := if copyBlock m == 0 then 0 else copyElems m / copyBlock m
    let scales := plus (ptr m 5) (r * nb)
    let lo := e * w / 8
    let ready := (gotBytes m (plus src lo) ((e * w + w + 7) / 8 - lo)).isSome &&
      (nb == 0 || (gotBytes m (plus scales (e / copyBlock m)) 1).isSome)
    if ready then (convertRow m r (gotOr m src (copyBytes m).1) (gotOr m scales nb)).1[off]? else none
/-- Byte `off` of the destination of element i of GATHER, in the same way. -/
def gatherByte (m : Cmd) (i off : Nat) : Option Byte :=
  (gotIndex m i).bind fun x =>
    let from' := if m.fn == 0 then plus (ptr m 1) (x * reg m 5) else plus (ptr m 3) (i * gatherSize m)
    if m.fn == 0 && x == 2 ^ (8 * indexSize m) - 1 then some 0 else (gotBytes m (plus from' off) 1).bind (·.head?)
/-- Byte `off` of vector v of the y of an NBMV command's next publication, where the whole of x_v has been read ahead. -/
def nbByte (s : State) (m : Cmd) (v off : Nat) : Option Byte :=
  let n := nbK m * (if m.e.o.b == 0 then 4 else 2)
  let out := fmtOfFo m.e.fo.toNat
  let xs := (List.range (nbVecs m)).map fun u => gotOr m (plus (ptr m 1) (u * nbStride m 0)) n
  let y (acc : List W32) : Option Byte :=
    let j := off / (fmtWidth out / 8)
    (acc[v * m.count + j]?).bind fun a =>
      (toBytes (fmtWidth out / 8) (roundTo out m.e.o.q.toNat false 0 (decodeFmt .fp32 a.toNat)).1)[off % (fmtWidth out / 8)]?
  if (gotBytes m (plus (ptr m 1) (v * nbStride m 0)) n).isNone then none
  else if m.ver == 0 then y (nbPass s m (nbFreg s m) xs none).1
  else (pairOf s m.tenant (nbReg m)).bind fun p =>
    y (nbPass s m p xs (some (if m.accs.isEmpty then (nbPass s m (nbFreg s m) xs none).1 else m.accs))).1
/-- The destinations of a granule whose writes may come before the rest of it, with the number of each: rows of COPY, elements of
GATHER, vectors of NBMV. -/
def earlyDests (m : Cmd) (g : Nat) : List (Nat × Word × Nat) :=
  match m.maj, m.fn with
  | 0x41, 2 => []
  | 0x41, _ => [(g, plus (ptr m 2) (g * copyStride m 1), (copyBytes m).2)]
  | 0x43, 0 => [(g, plus (ptr m 3) (g * gatherSize m), gatherSize m)]
  | 0x43, _ =>
    match gotIndex m g with
    | some x => if x == 2 ^ (8 * indexSize m) - 1 then [] else [(g, plus (ptr m 1) (x * reg m 5), gatherSize m)]
    | none => []
  | 0x47, _ =>
    let n := m.count * (fmtWidth (fmtOfFo m.e.fo.toNat) / 8)
    (List.range (nbVecs m)).map fun v => (v, plus (ptr m 2) (v * nbStride m 1), n)
  | _, _ => []
/-- A byte of such a destination. -/
def earlyByte (s : State) (m : Cmd) (k off : Nat) : Option Byte :=
  match m.maj with
  | 0x41 => copyByte m k off
  | 0x43 => gatherByte m k off
  | _ => nbByte s m k off
/-- What a granule writes of an aligned 8-byte word and has not written yet: its first address and its bytes; none where what it
depends on has not been read. -/
def earlyWord (s : State) (m : Cmd) (w g : Nat) : Option (Word × List Byte) :=
  (earlyDests m g).findSome? fun d =>
    let offs := (List.range 8).filterMap fun b =>
      let a := w * 8 + b
      if d.2.1.toNat ≤ a && a < d.2.1.toNat + d.2.2 && !(m.early.contains (g, a)) then some (a - d.2.1.toNat) else none
    match offs.head? with
    | none => none
    | some o => (offs.mapM (earlyByte s m d.1)).map fun bs => (plus d.2.1 o, bs)
/-- A running command writes an aligned 8-byte word before the rest of its granule: what the word depends on has been read. -/
def drainEarly (s : State) (m : Cmd) (w : Nat) : Out :=
  let found := (leftGranules m).findSome? fun g => (earlyWord s m w g).map fun e => (g, e)
  match if inOrder m then none else found with
  | none => notEnabled "DRAIN"
  | some (g, ea, bs) =>
    if behindStop s m g || m.haltAt == s.clk + 1 then notEnabled "DRAIN"
    else
      let fetched : Work Unit := if m.maj == 0x47 then
        nbFetch s m (if m.ver == 0 then nbFreg s m else (pairOf s m.tenant (nbReg m)).getD 0) else .ok s ()
      let put := fetched.bindOk fun s _ => cmdWrite m.e.nuw 1 s { m with gran := g, outs := [] } ea bs
      workOut "DRAIN" m (put.bindOk fun s n =>
          let r := drainCmd s n
          .ok r.1 { r.2 with outs := m.outs, gran := m.gran, early := m.early ++ (List.range bs.length).map fun b => (g, ea.toNat + b) })
        (fun s m => .next (putCmd s m)) (fun _ => notEnabled "DRAIN")
/-- One aligned 8-byte word of a running command's writes performs: they do so in any order (R261, R262). -/
def moveDrain (id : Nat) (ea : Word) (s : State) : Out :=
  match cmdOf s id with
  | none => notEnabled "DRAIN"
  | some m =>
    let w := ea.toNat / 8
    let part (o : Posted) : Nat :=
      ((List.range o.bytes.length).filter fun b => o.mask.testBit b && (o.acc.ea.toNat + b) / 8 == w).foldl (fun n b => n + 2 ^ b) 0
    if m.code != 1 || enginesHeld s m then notEnabled "DRAIN"
    else
      match m.outs.findIdx? fun o => part o != 0 with
      | none => drainEarly s m w
      | some j =>
        let o := m.outs.getD j {}
        let r := drainPart s m o (part o)
        let outs := (m.outs.set j { o with mask := o.mask - part o }).filter fun o => o.mask != 0
        let r := freeTiles r.1 { r.2 with outs := outs }
        .next (putCmd r.1 r.2)
/-- A running NBMV command reads an aligned 8-byte word of its weights before it computes with them (R328). -/
def weightAhead (s : State) (m : Cmd) (a : Nat) : Out :=
  let regs := nbFreg s m :: (if m.e.ver == 1 then (pairOf s m.tenant (nbReg m)).toList else [])
  let of' := regs.filter fun f => (nbRanges s m f).any fun r => keysMeet r.1 r.2 a 8
  match of'.head? with
  | none => notEnabled "READ_AHEAD"
  | some f =>
    workOut "READ_AHEAD" m ((nbFetch s m f).bindOk fun s _ =>
        .ok s { m with got := m.got ++ (memReadBytes s.mem (memKey .device a) 8).zipIdx.map fun b => (weightKey (a + b.2), b.1) })
      (fun s m => .next (putCmd s m)) (fun _ => notEnabled "READ_AHEAD")
/-- A running command reads an aligned 8-byte word of a source before the granule that uses it: its reads are performed in
any order (R262). -/
def moveReadAhead (id : Nat) (ea : Word) (s : State) : Out :=
  match cmdOf s id with
  | none => notEnabled "READ_AHEAD"
  | some m =>
    let ea := ea &&& ~~~(7#64)
    let src := (opnds m).find? fun x => !x.dst && x.ea.toNat < ea.toNat + 8 && ea.toNat < x.ea.toNat + x.n
    let j := ((opnds m).findIdx? fun x => some x == src).getD 0
    if m.code != 1 || enginesHeld s m || m.got.any fun e => e.1 / 8 == ea.toNat / 8 then notEnabled "READ_AHEAD"
    else if m.maj == 0x47 && spaceOf ea == 15 then weightAhead s m (ea.toNat % 2 ^ 60)
    else if src.isNone then notEnabled "READ_AHEAD"
    else
      workOut "READ_AHEAD" m ((unitRead (cmdMaster m) m.e.nur j s ea 8).bindOk fun s bs =>
          .ok s { m with got := m.got ++ bs.zipIdx.map fun b => (ea.toNat + b.2, b.1) })
        (fun s m => .next (putCmd s m)) (fun _ => notEnabled "READ_AHEAD")
/-- The paths to a package that carry writes of a command; with none left, the lowest that survives. -/
def writePaths (s : State) (id pkg path : Nat) : List Nat :=
  let wrote (k : Packet) : Bool := match k with
    | .write n _ => n == id
    | _ => false
  let js := (s.paths.filter fun p => p.pkg == pkg && p.queue.any wrote).map (·.path)
  if js.isEmpty then [path] else js
/-- A command whose writes have all performed here sends a flush marker down each path that it used to each other package
(R262, R264). -/
def moveFlush (id : Nat) (s : State) : Out :=
  match cmdOf s id with
  | none => notEnabled "FLUSH"
  | some m =>
    if m.code != 1 || !(leftGranules m).isEmpty || !m.outs.isEmpty || m.away.isEmpty || s.markers.any fun k => k.cmd == id then
      notEnabled "FLUSH"
    else
      .next (m.away.foldl (init := s) fun s p =>
        let (n, s) := newId s
        let k : Marker := { c := m.c, i := m.cores.head?.getD 0, cmd := id, pkg := p, group := n, sent := true }
        (writePaths s id p ((firstUp s p).getD 0)).foldl (init := s) fun s j =>
          pushPath (setMarkers s (s.markers ++ [{ k with path := j }])) p j (.marker n))

/-! ### Ends (R262, R319, R322, R323) -/

/-- A command's bytes that its unfinished granules would write become free values (R322). -/
def spoilRange (s : State) (m : Cmd) (ea : Word) (n : Nat) : State :=
  let (s', bs) := freeBytes s n
  match unitWrite { cmdMaster m with now := true } 30 0 s' ea bs m.wts with
  | .ok s _ => s
  | _ => s
/-- The ranges that a granule writes; of a scatter, those that the index list names, where it can be read. -/
def granuleWrites (s : State) (m : Cmd) (g : Nat) : List (Word × Nat) :=
  match m.maj, m.fn with
  | 0x41, 2 => []
  | 0x41, _ => [(plus (ptr m 2) (g * copyStride m 1), (copyBytes m).2)]
  | 0x43, 0 => [(plus (ptr m 3) (g * gatherSize m), gatherSize m)]
  | 0x43, _ =>
    let w := indexSize m
    match unitRead { cmdMaster m with now := true } m.e.nur 1 s (plus (ptr m 2) (g * w)) w with
    | .ok _ bs => if ofBytes bs == 2 ^ (8 * w) - 1 then [] else [(plus (ptr m 1) (ofBytes bs * reg m 5), gatherSize m)]
    | _ => []
  | 0x45, 0 => []
  | 0x45, _ => (List.range (walkRows m)).map fun r => (walkRow m g r, walkCols m)
  | _, _ => ((opnds m).filter (·.dst)).map fun x => (x.ea, x.n)
/-- What the granules of a command that have not wholly performed write is left open. -/
def spoilCmd (s : State) (m : Cmd) : State :=
  if !m.begun then s
  else
    let open' := leftGranules m ++ (m.outs.map (·.gran)).filter fun g => !((leftGranules m).contains g)
    (open'.eraseDups.flatMap (granuleWrites s m)).foldl (fun s r => spoilRange s m r.1 r.2) s
/-- The cores that a command counts on see its writes from now on (R262). -/
def observeCmd (s : State) (m : Cmd) : State := raisePts s m.c m.cores m.wts
/-- End a command: its locks and its count go with it. -/
def endCmd (s : State) (m : Cmd) : State := sweep (observeCmd (dropCmd s m.id) m)
/-- End a command with FAULT: the launch is FAILED. -/
def faultCmd (s : State) (m : Cmd) (cause : Nat) : State :=
  let s := giveTiles (spoilCmd s m) m
  failLaunch (endCmd (tryCmdStatus s m (endStatus m 5 cause)) m) m.launch
/-- Park a command (R322); without a handler it is aborted at once (R323). Its granules from the first that has not wholly
performed on are performed again, with their sources read anew; the slots that they took stand in their channel again. A
publication that has written words stays under way (R329). -/
def parkCmd (s : State) (m : Cmd) (cause : Nat) : State :=
  let p := progOf m
  let s := giveTiles s m
  let m := { m with code := 7, cause := cause, perf := m.perf.filter fun g => g < p, accs := [], outs := [], got := [], taken := []
                    early := if m.maj == 0x47 then m.early.map fun e => (1, e.2) else m.early.filter fun e => e.1 < p }
  let s := setXlat s { s.xlat with failedCmds := s.xlat.failedCmds.filter fun e => e.1 != m.id }
  let s := putCmd (tryCmdStatus s m (liveStatus m)) m
  let s := engineRecord s m (cause + p * 2 ^ 32)
  if (handlerInst s m.tenant).isNone then faultCmd s m cause else s
/-- A command rejected on reading its operands. -/
def lateReject (s : State) (m : Cmd) (check : Nat) : State :=
  failLaunch (engineRecord (endCmd (tryCmdStatus s m (endStatus m 4 check)) m) m check) m.launch
/-- The version that a command has once its work is done (R329). -/
def doneVersion (m : Cmd) : Nat :=
  if m.maj != 0x47 || m.skip then m.ver
  else if m.e.ver == 1 then (if m.halt then m.ver else 2)
  else 1
/-- Perform what a command has left, posted writes too. -/
def performRest (s : State) (m : Cmd) : Work Cmd :=
  (eachWork performGranule (leftGranules m) s m).bindOk fun s m =>
    let r := drainCmd s m
    let r := freeTiles r.1 r.2
    .ok r.1 r.2
/-- Perform what a command has left, then its status write. -/
def finishCmd (s : State) (m : Cmd) : Work Cmd :=
  (performRest s m).bindOk fun s m =>
    if !m.away.isEmpty then .wait
    else
      let m := { m with ver := doneVersion m }
      (writeCmdStatus s m (endStatus m (if m.skip then 3 else 2) 0)).bindOk fun s ts => .ok s { m with wts := ts }
/-- ENGINE_COMMAND_COMPLETE: every read and write of a command has performed, those to other packages gathered; its status is
written, its locks are freed and it leaves `occp`. A refining NBMV command must have published its first version; one whose end
is a publication ends later than a VSTOP of this clk, as the publication would have come first (R329). -/
def execEngineCommandComplete (id : Nat) (s : State) : Out :=
  match cmdOf s id with
  | none => notEnabled "ENGINE_COMMAND_COMPLETE"
  | some m =>
    let two := m.maj == 0x47 && m.e.ver == 1
    let late := m.haltAt == s.clk + 1 && doneVersion m != m.ver
    if m.code != 1 || enginesHeld s m || late || (two && m.ver == 0 && !m.skip) || (leftGranules m).any (behindStop s m) then
      notEnabled "ENGINE_COMMAND_COMPLETE"
    else
      workOut "ENGINE_COMMAND_COMPLETE" m (finishCmd s m)
        (fun s n =>
          let s := if m.maj == 0x47 && (n.ver != m.ver || (two && n.skip)) then
            nbNotice s n (endStatus n (if n.skip then 3 else 2) 0) else s
          .next (endCmd s n))
        (fun c => .next (lateReject s m c))
/-- The cause with which a command's next attempt fails, if it fails: the guard read, a granule, or the status write; with the
state and the command at that point. -/
def nextFault (s : State) (m : Cmd) : Option (Nat × State × Cmd) :=
  let cause {α : Type} (s : State) (m : Cmd) (w : Work α) : Option (Nat × State × Cmd) := match w with
    | .fault c => some (c, s, m)
    | _ => none
  let status (s : State) (m : Cmd) : Option (Nat × State × Cmd) :=
    if m.away.isEmpty then cause s m (writeCmdStatus s m (endStatus m (if m.skip then 3 else 2) 0)) else none
  if !m.begun then cause s m (readGuard s m)
  else
    let l := leftGranules m
    let try' := if inOrder m then l.take 1 else l
    match try'.findSome? fun g => cause s m (runGranule s { m with gran := g } g) with
    | some r => some r
    | none =>
      if hasGranules m && !l.isEmpty then none
      else
        match performRest s m with
        | .ok s m => status s { m with ver := doneVersion m }
        | _ => none
/-- Whether a cause parks a command (R322). -/
def parks (c : Nat) : Bool := c == 0x08 || c == 0x09 || c == 0x0A || c == 0x0B || c == 0x0C
/-- Whether a command may meet a fault now: it runs, or it stands at its start (log 54, DEDUCED). -/
def mayFault (s : State) (m : Cmd) : Bool :=
  (m.code == 1 || (m.code == 0 && !(startsBehind s m) && !(engineFenced s m.c m.cores m.id))) && !(enginesHeld s m)
/-- ENGINE_PARK: a translation fault parks a command. -/
def execEnginePark (id : Nat) (s : State) : Out :=
  match cmdOf s id with
  | none => notEnabled "ENGINE_PARK"
  | some m =>
    match if mayFault s m then nextFault s m else none with
    | some (c, t, k) =>
      if parks c then .next (parkCmd t { k with ver := m.ver } c) else notEnabled "ENGINE_PARK"
    | none => notEnabled "ENGINE_PARK"
/-- Whether a command reaches another package, which may answer with a fault (log 55, DEDUCED). -/
def reachesAway (s : State) (m : Cmd) : Bool :=
  (opnds m).any fun x => spaceOf x.ea == 2 && fieldOf x.ea.toNat 48 12 != s.cfg.pkgid.toNat
/-- ENGINE_COMMAND_FAULT: a fault that does not park ends a command with FAULT: one that its next attempt meets, or a
hardware error that the unit cannot repeat. A remote package's refusal parks it. -/
def execEngineCommandFault (id cause : Nat) (s : State) : Out :=
  match cmdOf s id with
  | none => notEnabled "ENGINE_COMMAND_FAULT"
  | some m =>
    if !(mayFault s m) then notEnabled "ENGINE_COMMAND_FAULT"
    else if cause == 0x0C && m.begun && reachesAway s m then .next (parkCmd s m cause)
    else if !(parks cause) && ((nextFault s m).map (·.1) == some cause || (m.begun && cause == 0x18)) then .next (faultCmd s m cause)
    else notEnabled "ENGINE_COMMAND_FAULT"
/-- ENGINE_PREEMPT_STOP: under pre-emption a command stops where its granule number is a multiple of 2^sg (R324). -/
def execEnginePreemptStop (id : Nat) (s : State) : Out :=
  match cmdOf s id with
  | none => notEnabled "ENGINE_PREEMPT_STOP"
  | some m =>
    let p := progOf m
    if m.code != 1 || m.stopped || !(hasGranules m) || !((tenantOf s m.tenant).preempt.contains m.c) ||
        p % 2 ^ m.e.sg.toNat != 0 || !m.outs.isEmpty then notEnabled "ENGINE_PREEMPT_STOP"
    else .next (putCmd s { m with stopped := true })
/-- The first version of a refining NBMV command: its pass, with all its writes performed. -/
def firstVersion (s : State) (m : Cmd) : Work Cmd :=
  (performRest s m).bindOk fun s m => .ok s { m with ver := 1, perf := [], early := [] }
/-- NBMV_PUBLISH: a refining command publishes its first version and sends its notice (R329) (log 58, DEDUCED). One that a
VSTOP reached in this clk publishes later, as the publication would have come first. -/
def execNbmvPublish (id : Nat) (s : State) : Out :=
  match cmdOf s id with
  | none => notEnabled "NBMV_PUBLISH"
  | some m =>
    if m.code != 1 || m.maj != 0x47 || m.e.ver != 1 || m.ver != 0 || m.skip || enginesHeld s m || m.haltAt == s.clk + 1 then
      notEnabled "NBMV_PUBLISH"
    else
      workOut "NBMV_PUBLISH" m (firstVersion s m)
        (fun s n => .next (sweep (observeCmd (putCmd (nbNotice s n (liveStatus n)) n) n))) (fun _ => notEnabled "NBMV_PUBLISH")

/-! ### COPY `stat`, `rsm` and `abrt` (R323, R325) -/

/-- The live command of the tenant that a handle names (R318). -/
def cmdNamed (s : State) (v : Nat) (h : Word) : Option Cmd :=
  s.eng.cmds.find? fun m => m.tenant == v && cmdHandle m == h
/-- The status that the handle of a rejected command shows: the check of the tenant's latest one that has that handle, since
the handle tells no more; a free value where the tenant has none. A unit field of 0 or 7, which no command's handle has,
names no command (log 66, DEDUCED). -/
def rejectedStatus (s : State) (v : Nat) (h : Word) : State × Word :=
  let k := rejectKey v (fieldOf h.toNat 13 3) (fieldOf h.toNat 0 10)
  match s.eng.rejects.find? fun e => e.1 == k with
  | some e => (s, statusWord 0 e.2 0 4 false true 0)
  | none =>
    if fieldOf h.toNat 13 3 == 0 || fieldOf h.toNat 13 3 == 7 then (s, retiredStatus)
    else
      let (s, bs) := freeBytes s 1
      (s, statusWord 0 (ofBytes bs) 0 4 false true 0)
/-- The status word that a handle shows. -/
def handleStatus (s : State) (v : Nat) (h : Word) : State × Word :=
  match cmdNamed s v h with
  | none => if fieldOf h.toNat 16 32 == 0 && !(h.getLsbD 63) then rejectedStatus s v h else (s, retiredStatus)
  | some m => (s, liveStatus m)
/-- A COPY function that acts at once on each acting core: `act` gives the state and the word for d. -/
def copyControl (o : OpE) (fn : Nat) (act : State → Firing → Word → State × Word) (s : State) : Out :=
  let uni := k1 o.o
  let t := siteE o (BitVec.ofNat 3 fn) 0x41 1
  withFiring t s fun s f units =>
    let sel := memUnits f units uni o.o.pr
    if fn != 5 && !sel.isEmpty && !(isHandler s f) then trapAt s f { core := lowest sel, cause := 0x03 } t
    else
      let go (st : State × Firing) (c : Core) : State × Firing :=
        let r := act st.1 f (getS (fileOf f units uni c) o.o.a.toNat)
        (r.1, writeD st.2 uni c.idx o.o.d.toNat r.2)
      let r := sel.foldl go (s, f)
      .next (putFiring r.1 (advance r.2 units 8))
/-- `copy.stat`: the status word of a command. -/
def execCopyStat (o : OpE) (s : State) : Out := copyControl o 5 (fun s f h => handleStatus s f.tenant h) s
/-- The parked command that a handle names, where its cluster is of the partition. -/
def parkedNamed (s : State) (v : Nat) (h : Word) : Option Cmd :=
  (cmdNamed s v h).bind fun m => if m.code == 7 && holdsCluster s v m.c then some m else none
/-- `copy.rsm`: a parked command runs on. -/
def execCopyRsm (o : OpE) (s : State) : Out :=
  copyControl o 6 (fun s f h =>
    match parkedNamed s f.tenant h with
    | none => handleStatus s f.tenant h
    | some m =>
      let m := { m with code := if m.begun then 1 else 0, cause := 0 }
      (putCmd s m, liveStatus m)) s
/-- `copy.abrt`: a parked command ends with FAULT. -/
def execCopyAbrt (o : OpE) (s : State) : Out :=
  copyControl o 7 (fun s f h =>
    match parkedNamed s f.tenant h with
    | none => handleStatus s f.tenant h
    | some m => (faultCmd s m m.cause, endStatus m 5 m.cause)) s

end Sys2Proof.Machine
end

