-- ==== Sys2Proof/Machine/Tile.lean ====
section
/-! DEFINITION. Tile tasks: their operands and footprints, the checks at acceptance, and what each pass computes (R49 to R53,
R288, R291 to R294, R297, R299 to R302). -/

namespace Sys2Proof.Machine

/-! ### The record of a task (R292, R293) -/

/-- The register a + j of a task's block. -/
def tReg (t : Task) (j : Nat) : Nat := (t.blk.getD j 0).toNat
/-- The same as a pointer. -/
def tPtr (t : Task) (j : Nat) : Word := t.blk.getD j 0
/-- A row stride in bytes: 0 of A, 1 of B, 2 of D and C. -/
def tStride (t : Task) (j : Nat) : Nat := 64 * fieldOf (tReg t 4) (16 * j) 16
/-- The number of K steps. -/
def tSteps (t : Task) : Nat := fieldOf (tReg t 7) 0 16
/-- The number of versions that the control word gives. -/
def tV (t : Task) : Nat := fieldOf (tReg t 7) 28 4
/-- The least input version. -/
def tVmin (t : Task) : Nat := fieldOf (tReg t 7) 32 4
/-- The saturation choice. -/
def tNs (t : Task) : Bool := fieldOf (tReg t 7) 36 1 == 1
/-- A's format. -/
def tA (t : Task) : Nat := t.e.o.b.toNat
/-- B's format. -/
def tB (t : Task) : Nat := t.e.fb.toNat
/-- The result format. -/
def tOut (t : Task) : Fmt := fmtOfFo t.e.fo.toNat
/-- Whether a task is `mma` or `mmav`. -/
def isMma (t : Task) : Bool := t.fn == 0 || t.fn == 1
/-- Ks (R50). -/
def stepLen (fb : Nat) : Nat :=
  if fb == 0 then 24
  else if fb == 1 || fb == 2 then 96
  else if [3, 4, 8, 9, 12, 16].contains fb then 192
  else if fb == 18 || fb == 19 then 768
  else 384
/-- The row length in elements. -/
def rowLen (t : Task) : Nat := if isMma t then tSteps t * stepLen (tB t) else 64
/-- Mmax (R310). -/
def mMax (t : Task) : Nat := if isMma t then 64 / 2 ^ t.e.shape.toNat else 64
/-- Whether accumulation is in integers (R51). -/
def intAcc (t : Task) : Bool := 8 ≤ tA t && tA t ≤ 11 && 8 ≤ tB t && tB t ≤ 11
/-- The passes of one firing (R299). -/
def passes (t : Task) : Nat := if t.fn == 1 then (if tB t == 18 then 2 else tV t) else 1
/-- The base tables that a task reads: 0 for CB2, 1 for CB2R (R299). -/
def tableKinds (t : Task) : List Nat := if t.cbld || !(isMma t) || tB t != 18 then [] else if t.fn == 1 then [0, 1] else [0]

/-- Rows of an operand: its role, its first byte, the number of rows, their stride and length in bytes, and whether the
guard lessens their number. Roles: 0 A, 1 B, 2 C, 3 scales of A, 4 scales of B, 5 tensor scale, 6 and 7 residual indices
and scales, 8 D. -/
structure Rows where
  role : Nat := 0
  ea : Word := 0
  rows : Nat := 1
  stride : Nat := 0
  n : Nat := 0
  byM : Bool := false
deriving DecidableEq, Repr

/-- The address of a row. -/
def rowAt (r : Rows) (i : Nat) : Word := plus r.ea (r.stride * i)
/-- Scale bytes of one row of a format; a row that is no whole number of blocks has one more (log 8, DESIGN CHOICE). The
captured scales of a row stand under its number at this stride; where they are read from, `scaleAt` says. -/
def scaleRow (t : Task) (fmt : Nat) : Nat := (rowLen t + blockOf fmt - 1) / blockOf fmt
/-- The address of the scales of a row: the pointer + r × (K / block size), where that is a whole number (R294). -/
def scaleAt (t : Task) (fmt : Nat) (p : Word) (r : Nat) : Option Word :=
  if r * rowLen t % blockOf fmt == 0 then some (plus p (r * rowLen t / blockOf fmt)) else none
/-- The scale operand of a block-scaled format. -/
def scaleRows (t : Task) (role fmt : Nat) (p : Word) (rows : Nat) (byM : Bool) : List Rows :=
  if blockOf fmt == 0 then []
  else [{ role := role, ea := p, rows := rows, stride := scaleRow t fmt, n := scaleRow t fmt, byM := byM }]
/-- The scale and residual operands of B. -/
def extraRows (t : Task) : List Rows :=
  let k := rowLen t
  if tB t == 18 then
    [{ role := 4, ea := plus (tPtr t 6) 2048, rows := 64, stride := k / 64, n := k / 64 },
     { role := 5, ea := plus (tPtr t 6) 1024, n := 4 }] ++
      (if t.fn == 1 then
        [{ role := 6, ea := tPtr t 9, rows := 64, stride := tStride t 1, n := k / 4 },
         { role := 7, ea := plus (tPtr t 10) 2048, rows := 64, stride := k / 64, n := k / 64 }]
      else [])
  else scaleRows t 4 (tB t) (tPtr t 6) 64 false
/-- The operands that a task reads. -/
def taskReads (t : Task) : List Rows :=
  if t.cbld then [{ ea := tPtr t 0, n := 1024 }]
  else
    let k := rowLen t
    let a : Rows :=
      { ea := tPtr t 0, rows := mMax t, stride := tStride t 0, n := k * codeWidth (tA t) / 8, byM := true }
    let b (rows : Nat) : Rows :=
      { role := 1, ea := tPtr t 1, rows := rows, stride := tStride t 1, n := k * codeWidth (tB t) / 8, byM := t.fn == 2 }
    let sc := scaleRows t 3 (tA t) (tPtr t 5) (mMax t) true
    if isMma t then
      let c : List Rows := if tReg t 2 == 0 then []
        else [{ role := 2, ea := tPtr t 2, rows := mMax t, stride := tStride t 2, n := 256, byM := true }]
      a :: b 64 :: c ++ sc ++ extraRows t
    else if t.fn == 2 then [a, b 64]
    else if t.fn == 4 then a :: sc
    else [a]
/-- D: none for a table load. -/
def taskWrites (t : Task) : List Rows :=
  if t.cbld then []
  else [{ role := 8, ea := tPtr t 3, rows := mMax t, stride := tStride t 2, n := 64 * (fmtWidth (tOut t) / 8), byM := true }]

/-- The pointers of a task's block that its function reads or writes through (R292). -/
def taskPtrs (t : Task) : List Word :=
  if t.cbld then [tPtr t 0]
  else
    let sc (j fmt : Nat) : List Word := if blockOf fmt == 0 then [] else [tPtr t j]
    if isMma t then
      [tPtr t 0, tPtr t 1, tPtr t 3] ++ (if tReg t 2 == 0 then [] else [tPtr t 2]) ++ sc 5 (tA t) ++
        (if tB t == 18 then tPtr t 6 :: (if t.fn == 1 then [tPtr t 9, tPtr t 10] else []) else sc 6 (tB t))
    else if t.fn == 2 then [tPtr t 0, tPtr t 1, tPtr t 3]
    else if t.fn == 4 then [tPtr t 0, tPtr t 3] ++ sc 5 (tA t)
    else [tPtr t 0, tPtr t 3]

/-! ### Footprints and checks (R294, R295) -/

/-- The 64-byte sectors of rows: from, and up to but not including. -/
def rowSpans (r : Rows) : List (Nat × Nat) :=
  if r.n == 0 then []
  else (List.range r.rows).map fun i => ((rowAt r i).toNat / 64, ((rowAt r i).toNat + r.n + 63) / 64)
/-- Whether two sets of rows share a sector. -/
def rowsMeet (a b : List Rows) : Bool :=
  (a.flatMap rowSpans).any fun x => (b.flatMap rowSpans).any fun y => x.1 < y.2 && y.1 < x.2
/-- Whether a stride is too small for its rows. -/
def shortStride (r : Rows) : Bool := [0, 1, 2, 6, 8].contains r.role && (r.stride == 0 || r.stride < r.n)
/-- Whether a channel group is a ready group of a tenant. -/
def groupReady (s : State) (v g : Nat) : Bool :=
  g < 48 && let k := vget s.cfg.groups g {}
    k.owner == v && k.assigned && k.ready
/-- The lowest check that a task or table load fails (log 63, DEDUCED). Bits [63:6] of the a+1 of `cbld.nb` are not looked at (R313)
(log 128, DESIGN CHOICE). -/
def taskCheck (s : State) (t : Task) : Option Nat :=
  let l := taskReads t ++ taskWrites t
  let spaces := if t.cbld then [0, 4, 5] else [0, 4, 5, 8]
  let ptrs := taskPtrs t
  let first := failsIf (ptrs.any fun p => !(spaces.contains (spaceOf p))) 1 ++
    failsIf (ptrs.any fun p => p.toNat % 64 != 0) 2
  if t.cbld then (first ++ failsIf (t.fn == 1 && !(groupReady s t.tenant (tReg t 1 % 64))) 1).min?
  else
    let g := t.guard
    let others := (taskReads t).filter fun r => r.role != 2 || tPtr t 2 != tPtr t 3
    (first ++ failsIf (l.any shortStride) 3 ++ failsIf (isMma t && tSteps t == 0) 4 ++
      failsIf (t.fn == 1 && tB t != 18 && (tV t < 2 || min 15 (tSteps t) < tV t)) 5 ++
      failsIf (t.e.ver == 2 && tVmin t == 0) 6 ++
      failsIf (tReg t 4 / 2 ^ 48 != 0 || tReg t 7 / 2 ^ 37 != 0 || !(maOk (tPtr t 8))) 7 ++
      failsIf (t.e.guard != 0 && (g.toNat % 4 != 0 || spaceOf g != 0 || !(vaClean g))) 8 ++
      failsIf (rowsMeet (taskWrites t) others) 9).min?

/-! ### Operand values (R31, R35 to R39, R294) -/

/-- The key of a role's byte among captured bytes. -/
def roleKey (role : Nat) (ea : Word) : Nat := role * 2 ^ 64 + ea.toNat
/-- The captured bits of a row from a bit on. -/
def bitsOf (m : Mem) (key bit w : Nat) : Nat := memReadN m (key + bit / 8) 5 / 2 ^ (bit % 8) % 2 ^ w
/-- The key of a row of a role. -/
def opKey (t : Task) (role i : Nat) : Nat :=
  match (taskReads t).find? fun r => r.role == role with
  | none => 0
  | some r => roleKey role (rowAt r i)
/-- The code of element k of row i. -/
def opCode (t : Task) (role fmt i k : Nat) : Nat := bitsOf t.inputs (opKey t role i) (k * codeWidth fmt) (codeWidth fmt)
/-- The exact value of element k of row i of a format that has its own scales at another role. -/
def opElem (t : Task) (role scRole fmt i k : Nat) : Val :=
  elemScaled fmt (opCode t role fmt i k)
    (if blockOf fmt == 0 then 0 else memReadN t.inputs (opKey t scRole i + k / blockOf fmt) 1)
/-- A'(i, k). -/
def aElem (t : Task) (i k : Nat) : Val := opElem t 0 3 (tA t) i k
/-- Where the captured base tables stand. -/
def tableKey (kind : Nat) : Nat := (16 + kind) * 2 ^ 64
/-- B'(k, j) of the first pass, or of the residual pass. -/
def bElem (t : Task) (residual : Bool) (j k : Nat) : Val :=
  if tB t == 18 then
    let idx := memReadN t.inputs (opKey t (if residual then 6 else 1) j + 2 * (k / 8)) 2
    let entry := memReadN t.inputs (tableKey (if residual then 1 else 0) + 4 * (idx / 256)) 4
    cbValue entry idx (k % 8) (decodeFmt .e4m3 (memReadN t.inputs (opKey t (if residual then 7 else 4) j + k / 64) 1))
      (decodeFmt .fp32 (memReadN t.inputs (opKey t 5 0) 4))
  else opElem t 1 4 (tB t) j k

/-! ### A pass (R49 to R53, R299 to R301) -/

/-- The steps of a pass: first, and up to but not including. -/
def passSteps (t : Task) : Nat × Nat :=
  if t.fn == 1 && tB t != 18 then (t.pass * tSteps t / tV t, (t.pass + 1) * tSteps t / tV t) else (0, tSteps t)
/-- One floating step of an accumulator. -/
def floatStep (t : Task) (i j : Nat) (st : Nat × FlagBits) (step : Nat) : Nat × FlagBits :=
  let ks := stepLen (tB t)
  let res := tB t == 18 && t.pass == 1
  let sum := valSum ((rangeFrom (step * ks) ks).map fun k => valMul (aElem t i k) (bElem t res j k))
  let p := rne .fp32 sum
  let r := rne .fp32 (valAdd (decodeFmt .fp32 p.1) (decodeFmt .fp32 st.1))
  (r.1, st.2 ||| p.2 ||| r.2 ||| flagIf (valIsNan sum) fNV)
/-- An integer operand element. -/
def intElem (t : Task) (role fmt i k : Nat) : Int :=
  let c := opCode t role fmt i k
  if fmt == 8 || fmt == 10 then signedOf (codeWidth fmt) c else c
/-- One integer step of an accumulator. -/
def intStep (t : Task) (i j : Nat) (st : Nat × FlagBits) (step : Nat) : Nat × FlagBits :=
  let ks := stepLen (tB t)
  let p := (rangeFrom (step * ks) ks).foldl (fun a k => a + intElem t 0 (tA t) i k * intElem t 1 (tB t) j k) (0 : Int)
  let r := clamp32 (p + signedOf 32 st.1)
  ((r.1 % 2 ^ 32).toNat, st.2 ||| flagIf r.2 fIOV)
/-- The rows that a task computes (log 64, DEDUCED). -/
def tM (t : Task) : Nat := t.rows.getD (mMax t)
/-- The accumulator of an element before a pass: what the last pass left, or C, or 0. -/
def accBefore (t : Task) (i j : Nat) : Nat :=
  if t.pass != 0 then (t.accs.getD (i * 64 + j) 0).toNat
  else if tReg t 2 == 0 then 0
  else memReadN t.inputs (opKey t 2 i + 4 * j) 4
/-- The accumulators after a pass, row by row, and the flags. -/
def accsAfter (t : Task) : List W32 × FlagBits :=
  let r := passSteps t
  let cell (n : Nat) : Nat × FlagBits :=
    (rangeFrom r.1 (r.2 - r.1)).foldl ((if intAcc t then intStep else floatStep) t (n / 64) (n % 64))
      (accBefore t (n / 64) (n % 64), 0)
  let l := (List.range (tM t * 64)).map cell
  (l.map fun e => BitVec.ofNat 32 e.1, l.foldl (fun f e => f ||| e.2) 0)
/-- The version that the pass under way computes (R299, R304). -/
def nextVersion (t : Task) : Nat := (t.firings - 1) * passes t + t.pass + 1
/-- Results of a pass: rows of D as an address and bytes, and flags. -/
abbrev DRows := List (Word × List Byte) × FlagBits
/-- A row of D from exact values. -/
def dRow (t : Task) (i : Nat) (f : Nat → Val) : (Word × List Byte) × FlagBits :=
  let key := (t.sto.1, t.sto.2.1, t.sto.2.2 + BitVec.ofNat 64 ((nextVersion t - 1) * 1024))
  let l := (List.range 64).map fun j => roundTo (tOut t) t.e.o.q.toNat (tNs t) (stoWord key (i * 64 + j)) (f j)
  ((plus (tPtr t 3) (tStride t 2 * i), l.flatMap fun e => toBytes (fmtWidth (tOut t) / 8) e.1),
    l.foldl (fun f e => f ||| e.2) 0)
/-- Rows 0 to M − 1 of D from exact values. -/
def dRows (t : Task) (f : Nat → Nat → Val) : DRows :=
  let l := (List.range (tM t)).map fun i => dRow t i (f i)
  (l.map (·.1), l.foldl (fun f e => f ||| e.2) 0)
/-- The smaller or larger of two values: −0 below +0, a NaN for any NaN (R147). -/
def valPick (wantMax : Bool) (a b : Val) : Val :=
  match a, b with
  | .nan x, .nan y => .nan (x || y)
  | .nan x, _ => .nan x
  | _, .nan y => .nan y
  | x, y => if (valCmpZ x y < 0) == wantMax then y else x
/-- An element of `ew`. -/
def ewElem (t : Task) (i j : Nat) : Val :=
  let a := aElem t i j
  let b := opElem t 1 4 (tB t) i j
  match t.e.shape.toNat with
  | 0 => valAdd a b
  | 1 => valSub a b
  | 2 => valMul a b
  | 3 => valPick true a b
  | _ => valPick false a b
/-- A column of `red`: the tree over 64 rows, absent ones entering as the operation's identity. -/
def redColumn (t : Task) (j : Nat) : Val × FlagBits :=
  let op := t.e.shape.toNat
  let absent : Val := if op == 0 then .num true 0 1 0 else .inf (op == 1)
  let node (a b : Val × FlagBits) : Val × FlagBits :=
    if op == 0 then
      let r := rne .fp32 (valAdd a.1 b.1)
      (decodeFmt .fp32 r.1, a.2 ||| b.2 ||| r.2)
    else (valPick (op == 1) a.1 b.1, a.2 ||| b.2)
  let leaves := (List.range 64).map fun i => (if i < tM t then aElem t i j else absent, (0 : FlagBits))
  (treeFold node 6 leaves).head?.getD (absent, 0)
/-- What the pass under way computes: the accumulators, the rows of D and the flags. -/
def computePass (t : Task) : List W32 × DRows :=
  if isMma t then
    let acc := accsAfter t
    let fmt := if intAcc t then Fmt.i32 else Fmt.fp32
    let d := dRows t fun i j => decodeFmt fmt (acc.1.getD (i * 64 + j) 0).toNat
    (acc.1, d.1, d.2 ||| acc.2)
  else
    match t.fn with
    | 2 => ([], dRows t (ewElem t))
    | 3 =>
      let cols := (List.range 64).map (redColumn t)
      let d := dRow t 0 fun j => (cols.getD j (valZero, 0)).1
      ([], [d.1], cols.foldl (fun f c => f ||| c.2) d.2)
    | 4 => ([], dRows t (aElem t))
    | _ =>
      let w := codeWidth (tA t)
      let row (j : Nat) : List Byte := (List.range (tM t)).flatMap fun i => toBytes (w / 8) (opCode t 0 (tA t) i j)
      ([], (List.range 64).map (fun j => (plus (tPtr t 3) (tStride t 2 * j), row j)), 0)

/-! ### Status and handles (R291, R302) -/

/-- The handle of an accepted task, or with serial and entry 0 of a rejected one. -/
def taskHandle (serial sec entry : Nat) : Word :=
  BitVec.ofNat 64 (2 ^ 63 + serial % 2 ^ 32 * 2 ^ 16 + sec % 64 * 2 ^ 10 + entry % 1024)
/-- The status word of a task (log 65, DEDUCED). -/
def taskStatus (t : Task) : Word :=
  statusWord 0 t.cause t.flags t.code t.stp t.fin (if t.ver ≤ 15 then t.ver else (Config.lateVersion t.ver).toNat)
/-- The live task of a tenant that a handle names. -/
def taskNamed (s : State) (v : Nat) (h : Word) : Option Task :=
  s.tasks.tasks.find? fun t => t.tenant == v && h.getLsbD 63 && taskHandle t.serial t.sec t.entry == h

end Sys2Proof.Machine
end

