-- ==== Sys2Proof/Machine/TaskRun.lean ====
section
/-! DEFINITION. The task schedulers: submission and acceptance, issue, publication, re-firing, faults and retirement, and
TASK, VSTOP, VWAIT and CBLD (R288 to R315). -/

namespace Sys2Proof.Machine

/-! ### Tasks in their sector -/

/-- The task of an identity. -/
def taskOf (s : State) (id : Nat) : Option Task := s.tasks.tasks.find? fun t => t.id == id
/-- Replace a task by identity. -/
def putTask (s : State) (t : Task) : State :=
  setTasks s { s.tasks with tasks := updWhere (fun k => k.id == t.id) (fun _ => t) s.tasks.tasks }
/-- The tasks of a tenant in a task's sector that were accepted before it (R295, log 9). -/
def olderTasks (s : State) (t : Task) : List Task :=
  (s.tasks.tasks.takeWhile fun k => k.id != t.id).filter fun k => k.sec == t.sec && k.tenant == t.tenant
/-- Those accepted after it. -/
def youngerTasks (s : State) (t : Task) : List Task :=
  ((s.tasks.tasks.dropWhile fun k => k.id != t.id).drop 1).filter fun k => k.sec == t.sec && k.tenant == t.tenant
/-- Whether a task writes what another reads: bytes, or a base table (R295, R313). -/
def feeds (p t : Task) : Bool :=
  rowsMeet (taskWrites p) (taskReads t) || (p.cbld && p.fn == 0 && (tableKinds t).contains (tB p - 18))
/-- Whether a task's write must stand behind another (R295). -/
def standsBehind (p t : Task) : Bool :=
  rowsMeet (taskReads p) (taskWrites t) || rowsMeet (taskWrites p) (taskWrites t) ||
    (t.cbld && t.fn == 0 && ((tableKinds p).contains (tB t - 18) || (p.cbld && p.fn == 0 && tB p == tB t)))
/-- Whether two tasks overlap. -/
def tasksMeet (p t : Task) : Bool := feeds p t || standsBehind p t
/-- The older tasks that feed a task (log 62, DEDUCED). -/
def producers (s : State) (t : Task) : List Task := (olderTasks s t).filter fun p => feeds p t
/-- Whether older overlapping tasks keep a task's bytes from D (R295). A table load waits for the older tasks that read the
old table to have captured it. -/
def blockedAtD (s : State) (t : Task) : Bool :=
  (olderTasks s t).any fun p => standsBehind p t && (if t.cbld then p.firings == 0 && !p.fin else !p.fin)
/-- Whether a producer meets a task's policy (R304). -/
def meetsPolicy (t p : Task) : Bool :=
  p.fin || (!p.cbld && ((t.e.ver == 1 && 1 ≤ p.ver) || (t.e.ver == 2 && tVmin t ≤ p.ver)))
/-- The clusters of a tenant in a sector. -/
def sectorClusters (s : State) (v sec : Nat) : List Nat := (rangeFrom (16 * sec) 16).filter (holdsCluster s v)
/-- Whether a tenant's engine on a cluster is held: under a pre-emption, or saved (R278, R280). -/
def engineHeld (s : State) (v c : Nat) : Bool := (tenantOf s v).preempt.contains c || isSaved s v c
/-- The free engine that a task is issued to (R298): one that no task runs on, those of a saved tenant apart, and that no
hardware error has struck in this pass. -/
def freeEngine (s : State) (t : Task) : Option Nat :=
  (sectorClusters s t.tenant t.sec).find? fun c =>
    !(engineHeld s t.tenant c) && t.shun != some c &&
      !(s.tasks.tasks.any fun k => k.engine == some c && !(isSaved s k.tenant c))
/-- For whom an engine works on a task. -/
def taskMaster (t : Task) : Master :=
  { f := { id := t.firing, inst := t.inst, clus := t.c, tenant := t.tenant, launch := t.launch, actor := t.actor }
    core := t.cores.head?.getD 0, cores := t.cores, reader := .core (t.engine.getD t.c) 8, got := t.got, clk := t.clk, tick := t.tick, dfl0 := t.dfl0, dfl1 := t.dfl1, id := t.id }

/-! ### Submission and acceptance (R289, R290, R294, R309) -/

/-- One core's submission, unless it waits: for its count, or for its own accesses that overlap the task's footprints (R260,
R290, R309). -/
def submitTask (s : State) (f : Firing) (units : List Core) (uni : Bool) (o : OpE) (fn blk : Nat) (cbld : Bool) (c : Core) :
    Option (State × Nat) :=
  let r := fileOf f units uni c
  let (id, s') := newId s
  let sub : TaskSub :=
    { id := id, sec := sectorOf f.clus, c := f.clus, i := c.idx, cores := if uni then units.map (·.idx) else [c.idx]
      firing := f.id, fn := fn, cbld := cbld, e := o, blk := (List.range blk).map fun j => getS r (o.o.a.toNat + j)
      sto := (getS r 29, (getS r 30).setWidth 32, getS r 31), guard := getS r o.guard.toNat }
  let t : Task := { fn := fn, cbld := cbld, e := o, blk := sub.blk }
  let spans := ((taskReads t ++ taskWrites t).flatMap rowSpans).map fun p => (64 * p.1, 64 * (p.2 - p.1))
  if (sub.cores.any fun i => 255 ≤ octk s f { idx := i }) || spans.any fun p => undrained s f.clus sub.cores p.1 p.2 then none
  else some (setTasks s' { s'.tasks with subs := s'.tasks.subs ++ [sub] }, id)
/-- The cores that have still to submit do so; those that wait do not. -/
def submitEach (sub : State → Firing → Core → Option (State × Nat)) : List Core → State → Firing → State × Firing
  | [], s, f => (s, f)
  | c :: cs, s, f =>
    match sub s f c with
    | none => submitEach sub cs s f
    | some (s, id) => submitEach sub cs s (updCore f c.idx fun k => { k with busy := .task id })
/-- Whether a word is a codebook one (CBLD, or a format code of 18 or 19) of a tenant that did not accept CBW (R408). No
other format-E word admits those codes. -/
def codebookBarred (s : State) (v : Nat) (o : OpE) (cbld : Bool) : Bool :=
  !(accepted s v 2) && (cbld || 18 ≤ o.fb.toNat || 18 ≤ o.o.b.toNat)
/-- An instruction that the scheduler accepts: a core holds issue from its submission to its acceptance (R290)
(log 70, DEDUCED). A barred codebook word takes ILL, whatever its predicate (R74, R408). -/
def taskInstr (o : OpE) (maj : BitVec 7) (fn blk : Nat) (cbld : Bool) (s : State) : Out :=
  let uni := k1 o.o
  let t := siteE o (BitVec.ofNat 3 fn) maj blk
  withFiring t s fun s f units =>
    if codebookBarred s f.tenant o cbld then trapAt s f { core := lowest units, cause := 0x01 } t
    else
      let act := memUnits f units uni o.o.pr
      let r := submitEach (fun s f c => submitTask s f units uni o fn blk cbld c) (act.filter fun c => c.busy != .issued) s f
      settleIssued r.1 r.2 units act 8
/-- `task.mma`: a matrix multiply-accumulate tile task. -/
def execTaskMma (o : OpE) (s : State) : Out := taskInstr o 0x31 0 9 false s
/-- `task.mmav`: a refining one. -/
def execTaskMmav (o : OpE) (s : State) : Out := taskInstr o 0x31 1 11 false s
/-- `task.ew`: an elementwise task. -/
def execTaskEw (o : OpE) (s : State) : Out := taskInstr o 0x31 2 9 false s
/-- `task.red`: a reduction over rows. -/
def execTaskRed (o : OpE) (s : State) : Out := taskInstr o 0x31 3 9 false s
/-- `task.cvt`: a conversion. -/
def execTaskCvt (o : OpE) (s : State) : Out := taskInstr o 0x31 4 9 false s
/-- `task.tr`: a transposition. -/
def execTaskTr (o : OpE) (s : State) : Out := taskInstr o 0x31 5 9 false s
/-- `cbld.me`: a base table for the sector's engines. -/
def execCbldMe (o : OpE) (s : State) : Out := taskInstr o 0x37 0 2 true s
/-- `cbld.nb`: a base table for near-bank units. -/
def execCbldNb (o : OpE) (s : State) : Out := taskInstr o 0x37 1 2 true s

/-- The last serial of a sector. -/
def taskSerial (s : State) (sec : Nat) : Nat := ((s.tasks.serials.find? fun e => e.1 == sec).map (·.2)).getD 0
/-- The lowest free entry of a sector. -/
def freeEntry (s : State) (sec : Nat) : Option Nat :=
  (List.range 1024).find? fun e => !(s.tasks.tasks.any fun t => t.sec == sec && t.entry == e)
/-- The task of a submission, before its acceptance. -/
def taskFrom (s : State) (f : Firing) (u : TaskSub) : Task :=
  let c := (f.cores.find? fun k => k.idx == u.i).getD {}
  { id := u.id, sec := u.sec, serial := taskSerial s u.sec + 1, tenant := f.tenant, launch := f.launch, firing := f.id,
    inst := f.inst, actor := f.actor, c := u.c, cores := u.cores, fn := u.fn, cbld := u.cbld, e := u.e, blk := u.blk,
    sto := u.sto, guard := u.guard, settle := fieldOf (u.blk.getD 7 0).toNat 16 12, clk := clockOf s f,
    tick := clockVal s (clockOf s f), dfl0 := c.dfl0, dfl1 := c.dfl1 }
/-- Whether a task writes over what an older task that is not final reads or writes, and so takes a rename tile (R295). -/
def needsTile (s : State) (t : Task) : Bool :=
  !t.cbld && s.tasks.tasks.any fun p => p.sec == t.sec && p.tenant == t.tenant && !p.fin && standsBehind p t
/-- Whether the sector's rename tiles, 256 in all, and the tenant's part of them and of the entries have room (R289). -/
def roomFor (s : State) (t : Task) : Bool :=
  let n := (sectorClusters s t.tenant t.sec).length
  let here := s.tasks.tasks.filter fun k => k.sec == t.sec
  let mine := here.filter fun k => k.tenant == t.tenant
  mine.length < 64 * n &&
    (!(needsTile s t) || ((mine.countP fun k => k.renamed) < 16 * n && (here.countP fun k => k.renamed) < 256))
/-- An ENGINE record of a task (R273, R274, R307). -/
def taskRecord (s : State) (t : Task) (handle : Word) (info : Nat) : State :=
  queueRecord s { die := t.sec / 16, tenant := t.tenant, rtype := 5, core := t.cores.head?.getD 0xFF, clus := t.c,
                  actid := t.actor, val := handle, info := BitVec.ofNat 64 info, ts := maxPts s t.c t.cores }
/-- Hand a handle to the core that waits; its gang goes on when none waits. -/
def answerTask (s : State) (f : Firing) (u : TaskSub) (h : Word) : State :=
  let s := setTasks s { s.tasks with subs := s.tasks.subs.filter fun k => k.id != u.id }
  putFiring s (markIssued (writeD f (k1 u.e.o) u.i u.e.o.d.toNat h) u.i)
/-- TASK_ACCEPT: the scheduler accepts a submission, or rejects it with SHAPE. -/
def execTaskAccept (idx : Nat) (s : State) : Out :=
  match s.tasks.subs[idx]?.bind fun u => (firingOf s u.firing).map fun f => (u, f) with
  | none => notEnabled "TASK_ACCEPT"
  | some (u, f) =>
    let t := taskFrom s f u
    match taskCheck s t with
    | some n =>
      let h := taskHandle 0 t.sec 0
      let k := (t.tenant, t.sec)
      let s := setTasks s { s.tasks with rejects := putWhere (fun e => e.1 == k) (k, n) s.tasks.rejects }
      .next (answerTask (failLaunch (taskRecord s t h n) t.launch) f u h)
    | none =>
      match freeEntry s t.sec with
      | none => notEnabled "TASK_ACCEPT"
      | some e =>
        if !(roomFor s t) then notEnabled "TASK_ACCEPT"
        else
          let t := { t with entry := e, renamed := needsTile s t }
          let s := tickClock s t.clk (BitVec.ofNat 32 (taskReads t ++ taskWrites t).length)
          let s := setTasks s { s.tasks with
            tasks := s.tasks.tasks ++ [t]
            serials := putWhere (fun k => k.1 == t.sec) (t.sec, t.serial) s.tasks.serials }
          .next (answerTask s f u (taskHandle t.serial t.sec e))

/-! ### Firing (R297, R298, R299, R304) -/

/-- The count of rows to compute: the guard word's, read at the first issue (R297). -/
def readRows (s : State) (t : Task) : Work Nat :=
  match t.rows with
  | some m => .ok s m
  | none =>
    if t.e.guard == 0 then .ok s (mMax t)
    else (unitRead (taskMaster t) 30 0 s t.guard 4).bindOk fun s bs => .ok s (min (ofBytes bs) (mMax t))
/-- The block-scaled format whose scales a role holds. -/
def scaledFmt (t : Task) (role : Nat) : Option (Nat × Word) :=
  if role == 3 then some (tA t, tPtr t 5) else if role == 4 && tB t != 18 then some (tB t, tPtr t 6) else none
/-- Where a row of an operand is read: none for scales whose place the spec does not give. -/
def rowPlace (t : Task) (r : Rows) (i : Nat) : Option Word :=
  match scaledFmt t r.role with
  | some x => scaleAt t x.1 x.2 i
  | none => some (rowAt r i)
/-- Capture the rows of one operand, the j-th. Scales whose place the spec does not give are free bytes (log 8, DESIGN CHOICE). -/
def captureRows (t : Task) (m : Nat) (s : State) (inp : Mem) (rj : Rows × Nat) : Work Mem :=
  let r := rj.1
  eachWork (fun s inp i =>
    match rowPlace t r i with
    | none =>
      let (s, bs) := freeBytes s r.n
      .ok s (memWriteBytes inp (roleKey r.role (rowAt r i)) bs)
    | some ea =>
      (unitRead (taskMaster t) t.e.nur rj.2 s ea r.n).bindOk fun s bs =>
        .ok s (memWriteBytes inp (roleKey r.role (rowAt r i)) bs))
    (List.range (if r.byM then min r.rows m else r.rows)) s inp
/-- The bytes of a base table as an engine holds it for a tenant. -/
def tableBytes (s : State) (v cl kind : Nat) : List Byte :=
  let l := ((s.tasks.meTables.find? fun e => e.1 == (v, cl, kind)).map (·.2)).getD []
  (List.range 256).flatMap fun j => toBytes 4 (l.getD j 0).toNat
/-- The operands, by role, of the latest firing that a producer has published past (R304). -/
def staleRoles (s : State) (t : Task) : List Nat :=
  t.late ++ ((taskReads t).filter fun x => t.vroles.contains x.role && t.seen.any fun e => match taskOf s e.1 with
    | some p => p.ver != e.2 && rowsMeet (taskWrites p) [x]
    | none => false).map (·.role)
/-- Whether such an operand stands where the task writes (C = D): its result may not reach D, where its next firing must still
read the producer's bytes (R295, R304). -/
def staleOwnD (s : State) (t : Task) : Bool :=
  rowsMeet (taskWrites t) ((taskReads t).filter fun r => (staleRoles s t).contains r.role)
/-- One firing's start on an engine: operands are captured; in a later firing only those that a producer has published anew
since, and the rest are kept (R304) (log 61, DEDUCED). -/
def fireTask (s : State) (t : Task) (cl : Nat) : Work Task :=
  (readRows s t).bindOk fun s m =>
    if m == 0 then .ok s { t with rows := some 0, code := 3, ver := 1, fin := true, firings := 1, renamed := false, got := [] }
    else
      let open' := (producers s t).filter fun p => !p.fin
      let again := t.firings != 0
      let roles := if again then staleRoles s t
        else ((taskReads t).filter fun r => open'.any fun p => rowsMeet (taskWrites p) [r]).map (·.role)
      let reads := (taskReads t).zipIdx.filter fun r => !again || roles.contains r.1.role
      (eachWork (captureRows t m) reads s (if again then t.inputs else [])).bindOk fun s inp =>
        let inp := if again then inp
          else (tableKinds t).foldl (fun inp k => memWriteBytes inp (tableKey k) (tableBytes s t.tenant cl k)) inp
        .ok s { t with rows := some m, code := 1, engine := some cl, pass := 0, accs := [], firings := t.firings + 1
                       inputs := inp, vroles := if again then t.vroles else roles, got := [], late := []
                       shun := none, tile := if again && staleOwnD s t then none else t.tile
                       seen := open'.map fun p => (p.id, p.ver) }
/-- Whether a task's cluster is held, so that none of its accesses may be made (R278, R280). -/
def taskHeld (s : State) (t : Task) : Bool :=
  t.stopped || isSaved s t.tenant t.c || match t.engine with
    | some c => isSaved s t.tenant c
    | none => false
/-- Whether a producer has published past the version that the latest firing read. -/
def staleInput (s : State) (t : Task) : Bool :=
  !t.late.isEmpty || t.seen.any fun e => match taskOf s e.1 with
    | some p => p.ver != e.2
    | none => false
/-- Whether the versions that the latest firing read have become final; what a retired producer left is so (R296). -/
def inputsFinal (s : State) (t : Task) : Bool :=
  t.late.isEmpty && t.seen.all fun e => match taskOf s e.1 with
    | some p => p.fin && p.ver == e.2 && p.code != 5
    | none => true
/-- Whether a producer of a task has faulted (R307) (log 67, DEDUCED). -/
def inheritsFault (s : State) (t : Task) : Bool := t.spoiled || (producers s t).any fun p => p.code == 5
/-- Whether a task's result may not go to D now, and waits in its rename tile (R295). -/
def heldAtD (s : State) (t : Task) : Bool := blockedAtD s t || staleOwnD s t
/-- The tasks that may publish a version that is not final, in acceptance order: a mmav, and one that has a version, reads from
a producer of these, or has fired on a version that its producer has published past (R304). -/
def refining (s : State) : List Nat :=
  s.tasks.tasks.foldl (fun l t =>
    if t.fin || t.cbld then l
    else if t.fn == 1 || (t.e.ver != 0 && (t.ver != 0 || staleInput s t || (producers s t).any fun p => l.contains p.id)) then
      l ++ [t.id]
    else l) []
/-- Whether a stop that waits for the first publication has its bytes computed. -/
def stopComputed (t : Task) : Bool := t.stp && t.ver == 0 && t.tile.isSome
/-- Whether a task waits to fire for the first time, or again (R304). -/
def wantsFiring (s : State) (t : Task) : Bool :=
  !t.fin && !t.cbld && t.engine.isNone && !(taskHeld s t) && !((tenantOf s t.tenant).preempt.contains t.c) &&
    !(inheritsFault s t) && (producers s t).all (meetsPolicy t) &&
    ((t.firings + 1) * passes t < 15 || (producers s t).all fun p => p.fin) &&
    (t.firings == 0 || (t.pass == passes t && staleInput s t && (!(t.stp && t.ver == 0) || staleOwnD s t)))
/-- Whether an engine was lost in the middle of a firing (R298). -/
def lostEngine (t : Task) : Bool := !t.fin && t.code == 1 && t.engine.isNone && t.pass < passes t && !(stopComputed t)

/-! ### Publication and finality (R303 to R305) -/

/-- Send a task's notice, remembered under a key until it is acknowledged (R303) (log 69, DEDUCED). -/
def sendNotice (s : State) (t : Task) (key ts : Nat) : State × Task :=
  if tReg t 8 == 0 then (s, t)
  else
    let (n, s) := newId s
    let msg : Msg := { id := n, tenant := t.tenant, launch := t.launch, kind := 5, sclus := t.c, sact := t.actor,
                       addr := tPtr t 8, words := [taskHandle t.serial t.sec t.entry, taskStatus t], own := true,
                       note := some (t.id, key), ts := ts }
    (setTransit s (s.transit ++ [msg]), { t with notes := t.notes ++ [key] })
/-- Every task whose latest firing read versions that are now final becomes final without firing again (R304). -/
def spreadFinal (s : State) : State :=
  (s.tasks.tasks.map (·.id)).foldl (fun s id =>
    match taskOf s id with
    | none => s
    | some t =>
      if !t.fin && !t.cbld && t.ver != 0 && t.engine.isNone && t.tile.isNone && t.pass == passes t && inputsFinal s t then
        putTask s { t with fin := true, code := 2 }
      else s) s
/-- A task that has become final: its cores observe its writes, and what waits on it goes on (R262, R309). -/
def endTask (s : State) (t : Task) : State := sweep (spreadFinal (raisePts (putTask s t) t.c t.cores t.wts))
/-- The runs of bytes of a row that a publication has still to write. -/
def openRuns (early : List Nat) (ea : Nat) : List Byte → List (Nat × List Byte)
  | [] => []
  | b :: bs =>
    let rest := openRuns early (ea + 1) bs
    if early.contains ea then rest
    else match rest with
      | (k, r) :: more => if k == ea + 1 then (ea, b :: r) :: more else (ea, [b]) :: rest
      | [] => [(ea, [b])]
/-- Write rows to D, but for what the publication has written already. -/
def writeRows (s : State) (t : Task) (rows : List (Word × List Byte)) : Work Nat :=
  let put (s : State) (ts : Nat) (r : Word × List Byte) : Work Nat :=
    unitWrite (taskMaster t) t.e.nuw (taskReads t).length s r.1 r.2 ts
  let runs (r : Word × List Byte) : List (Word × List Byte) :=
    if t.early.isEmpty then [r] else (openRuns t.early r.1.toNat r.2).map fun e => (BitVec.ofNat 64 e.1, e.2)
  eachWork put (rows.flatMap runs) s t.wts
/-- What was read ahead of a firing's start is read again once a task has published. -/
def forgetAhead (s : State) : State :=
  setTasks s { s.tasks with tasks := s.tasks.tasks.map fun k => if k.got.isEmpty then k else { k with got := [] } }
/-- A version stands at D: it is published, and its notice goes. -/
def published (s : State) (t : Task) (v : Nat) (last : Bool) (ts : Nat) : State :=
  let s := forgetAhead s
  let fin := (last && inputsFinal s t) || (t.stp && t.ver == 0)
  let t := { t with ver := v, fin := fin, code := if fin then 2 else 1, tile := none, renamed := false, wts := ts, early := [], shun := none
                    engine := if fin then none else t.engine }
  let r := sendNotice s t v ts
  endTask r.1 r.2
/-- A pass computed: the task after it, its version, whether it is the last of the firing, and its rows. The engine is free
after the last pass, and where a stop waits for the first publication (R288, R305). -/
def passDone (t : Task) : Task × Nat × Bool × List (Word × List Byte) :=
  let r := computePass t
  let last := t.pass + 1 == passes t
  ({ t with pass := t.pass + 1, accs := r.1, flags := t.flags ||| r.2.2
            engine := if last || (t.stp && t.ver == 0) then none else t.engine },
    nextVersion t, last, r.2.1)
/-- What a scheduler may do next for a task's results: nothing, move a tile to D, or compute a pass. -/
inductive Ready where
  | none
  | tile (v : Nat) (last : Bool) (rows : List (Word × List Byte))
  | pass
deriving DecidableEq, Repr
/-- What stands ready for a task. -/
def readyOf (s : State) (t : Task) : Ready :=
  if t.fin || taskHeld s t then .none
  else
    match t.tile with
    | some (v, last, rows) =>
      if !(heldAtD s t) then .tile v last rows
      else if t.engine.isSome && !(t.stp && t.ver == 0) then .pass
      else .none
    | none => if t.engine.isSome && t.pass < passes t then .pass else .none
/-- Write a version to D and publish it. -/
def publishRows (s : State) (t : Task) (v : Nat) (last : Bool) (rows : List (Word × List Byte)) : Work State :=
  (writeRows s t rows).bindOk fun s ts => .ok s (published s t v last ts)
/-- The next step of a task's results. -/
def resultStep (s : State) (t : Task) : Work State :=
  match readyOf s t with
  | .none => .wait
  | .tile v last rows => publishRows s t v last rows
  | .pass =>
    let p := passDone t
    if heldAtD s t then
      .ok s (putTask s { p.1 with tile := some (p.2.1, p.2.2.1, p.2.2.2), renamed := true })
    else publishRows s p.1 p.2.1 p.2.2.1 p.2.2.2
/-- TASK_PUBLISH: the next version of a task is computed, and stands at D where no older overlapping task keeps it in a
rename tile; or a version leaves its tile for D (log 68, DEDUCED). A publication that reaches the scheduler in the clk of a
VSTOP takes effect before it, so none follows one in its clk (R315). -/
def execTaskPublish (id : Nat) (s : State) : Out :=
  match taskOf s id with
  | none => notEnabled "TASK_PUBLISH"
  | some t =>
    match if t.stopAt == s.clk + 1 then .wait else resultStep s t with
    | .ok _ s => .next s
    | _ => notEnabled "TASK_PUBLISH"
/-- The rows that a publication would now write to D. -/
def rowsReady (s : State) (t : Task) : List (Word × List Byte) :=
  match readyOf s t with
  | .none => []
  | .tile _ _ rows => rows
  | .pass => if heldAtD s t then [] else (passDone t).2.2.2
/-- One aligned 8-byte word of a task's publication is written before the others: each is seen wholly old or wholly new
(R262, R303). -/
def drainTask (s : State) (t : Task) (ea : Word) : Out :=
  let w := ea.toNat / 8
  let part (r : Word × List Byte) : List (Nat × Byte) :=
    (r.2.zipIdx.map fun b => (r.1.toNat + b.2, b.1)).filter fun b => b.1 / 8 == w && !(t.early.contains b.1)
  let bs := (rowsReady s t).flatMap part
  match bs.head? with
  | none => notEnabled "DRAIN"
  | some b =>
    if t.stopAt == s.clk + 1 then notEnabled "DRAIN"
    else
      match unitWrite (taskMaster t) t.e.nuw (taskReads t).length s (BitVec.ofNat 64 b.1) (bs.map (·.2)) t.wts with
      | .ok s ts => .next (putTask s { t with wts := ts, early := t.early ++ bs.map (·.1) })
      | _ => notEnabled "DRAIN"

/-! ### Issue, re-firing and table loads (R298, R304, R313) -/

/-- Load a base table: into the tenant's engines of the sector, or the near-bank units of a group. -/
def loadTable (s : State) (t : Task) : Work State :=
  (unitRead (taskMaster t) t.e.nur 0 s (tPtr t 0) 1024).bindOk fun s bs =>
    let kind := tB t - 18
    let l := (List.range 256).map fun j => BitVec.ofNat 32 (ofBytes ((bs.drop (4 * j)).take 4))
    let s :=
      if t.fn == 1 then
        let k := (tReg t 1 % 64, kind)
        setEng s { s.eng with nbTables := putWhere (fun e => e.1 == k) (k, l) s.eng.nbTables }
      else
        setTasks s { s.tasks with meTables := (sectorClusters s t.tenant t.sec).foldl (fun m c =>
          putWhere (fun e => e.1 == (t.tenant, c, kind)) ((t.tenant, c, kind), l) m) s.tasks.meTables }
    .ok s (endTask s { t with firings := 1, code := 2, fin := true })
/-- Whether a table load may run: what it reads is final, and older readers of the old table have it. -/
def tableReady (s : State) (t : Task) : Bool :=
  t.cbld && !t.fin && !(taskHeld s t) && !((tenantOf s t.tenant).preempt.contains t.c) && !(inheritsFault s t) &&
    (producers s t).all (·.fin) && !(blockedAtD s t)
/-- What issuing a task does: a firing starts on the free engine of the lowest-numbered cluster, a lost engine is replaced,
or a table is loaded. A FENCE with E in succ holds it (R255). -/
def issueStep (s : State) (t : Task) (again : Bool) : Work State :=
  if engineFenced s t.c t.cores t.id then .wait
  else if t.cbld then (if !again && tableReady s t then loadTable s t else .wait)
  else
    match freeEngine s t with
    | none => .wait
    | some cl =>
      if !again && lostEngine t && !(taskHeld s t) then .ok s (putTask s { t with engine := some cl, shun := none })
      else if again == (t.firings != 0) && wantsFiring s t then
        (fireTask s t cl).bindOk fun s t =>
          if t.fin && t.stopAt == s.clk + 1 then .wait
          else if t.fin then
            let r := sendNotice s t 1 t.wts
            .ok s (endTask r.1 r.2)
          else .ok s (putTask s t)
      else .wait
/-- TASK_ISSUE: a task whose dependences are met is issued; its guard word is read at the first issue. -/
def execTaskIssue (id : Nat) (s : State) : Out :=
  match taskOf s id with
  | none => notEnabled "TASK_ISSUE"
  | some t =>
    match issueStep s t false with
    | .ok _ s => .next s
    | _ => notEnabled "TASK_ISSUE"
/-- TASK_REFIRE: a task that fired on a version that was not final fires again on a later publication. -/
def execTaskRefire (id : Nat) (s : State) : Out :=
  match taskOf s id with
  | none => notEnabled "TASK_REFIRE"
  | some t =>
    match issueStep s t true with
    | .ok _ s => .next s
    | _ => notEnabled "TASK_REFIRE"

/-! ### Ends (R296, R298, R307, R308) -/

/-- What a task that retires leaves to those that fired on one of its versions: that the version was its last, that they must
fire again, or its fault. -/
def leaveTask (t k : Task) : Task :=
  match k.seen.find? fun e => e.1 == t.id with
  | none => k
  | some e =>
    let met := ((taskReads k).filter fun x => k.vroles.contains x.role && rowsMeet (taskWrites t) [x]).map (·.role)
    { k with seen := k.seen.filter fun e => e.1 != t.id, late := if e.2 != t.ver then k.late ++ met else k.late, spoiled := k.spoiled || t.code == 5 }
/-- TASK_RETIRE: a final task whose notices are acknowledged and whose younger overlapping tasks are issued leaves its
entry. -/
def execTaskRetire (id : Nat) (s : State) : Out :=
  match taskOf s id with
  | none => notEnabled "TASK_RETIRE"
  | some t =>
    let waits (k : Task) : Bool := !k.fin && tasksMeet t k && k.firings == 0
    if !t.fin || !t.notes.isEmpty || (youngerTasks s t).any waits then notEnabled "TASK_RETIRE"
    else .next (setTasks s { s.tasks with tasks := (s.tasks.tasks.filter fun k => k.id != id).map (leaveTask t) })
/-- End a task with FAULT; its notice releases nothing. An inherited fault, cause 0, writes no record and fails no launch. -/
def faultTask (s : State) (t : Task) (cause : Nat) : State :=
  let t := { t with code := 5, cause := cause, fin := true, engine := none, tile := none, renamed := false }
  let s := if cause == 0 then s else taskRecord s t (taskHandle t.serial t.sec t.entry) cause
  let r := sendNotice s t 16 0
  endTask (if cause == 0 then r.1 else failLaunch r.1 t.launch) r.2
/-- D is left open for a publication that faults (R307). -/
def spoilRows (s : State) (t : Task) (rows : List (Word × List Byte)) : State :=
  rows.foldl (fun s r =>
    let (s', bs) := freeBytes s r.2.length
    match unitWrite (taskMaster t) t.e.nuw (taskReads t).length s' r.1 bs t.wts with
    | .ok s _ => s
    | _ => s) s
/-- The state before a fault is taken: D left open where the publication of these rows would fault with the cause. -/
def faultAt (s : State) (t : Task) (cause : Nat) : Option State :=
  let atD (rows : List (Word × List Byte)) : Option State :=
    match writeRows s t rows with
    | .fault c => if c == cause then some (spoilRows s t rows) else none
    | _ => none
  match issueStep s t (t.firings != 0) with
  | .fault c => if c == cause then some s else none
  | _ =>
    match readyOf s t with
    | .none => none
    | .tile _ _ rows => atD rows
    | .pass => if heldAtD s t then none else atD (passDone t).2.2.2
/-- TASK_FAULT: an operand fault ends a task with FAULT; with cause 0, the fault of a producer does. -/
def execTaskFault (id cause : Nat) (s : State) : Out :=
  match taskOf s id with
  | none => notEnabled "TASK_FAULT"
  | some t =>
    if cause == 0 then (if !t.fin && inheritsFault s t then .next (faultTask s t 0) else notEnabled "TASK_FAULT")
    else
      match faultAt s t cause with
      | some s => .next (faultTask s t cause)
      | none => notEnabled "TASK_FAULT"
/-- ENGINE_HW_RERUN: a hardware error strikes an engine before a publication: the pass runs again from its start on another
engine of the tenant in the sector, and without one the task ends with FAULT, cause HWERR (log 59, DEDUCED). -/
def execEngineHwRerun (id : Nat) (s : State) : Out :=
  match taskOf s id with
  | none => notEnabled "ENGINE_HW_RERUN"
  | some t =>
    match t.engine with
    | none => notEnabled "ENGINE_HW_RERUN"
    | some c =>
      if (sectorClusters s t.tenant t.sec).any fun k => k != c then
        .next (putTask s { t with engine := freeEngine s { t with shun := some c }, shun := some c, stopped := false })
      else .next (faultTask s t 0x18)
/-- TASK_PREEMPT_STOP: under pre-emption a running task stops at a boundary of 2^sg steps (R308). -/
def execTaskPreemptStop (id : Nat) (s : State) : Out :=
  match taskOf s id with
  | none => notEnabled "TASK_PREEMPT_STOP"
  | some t =>
    match t.engine with
    | none => notEnabled "TASK_PREEMPT_STOP"
    | some c =>
      if t.stopped || !((tenantOf s t.tenant).preempt.contains c) then notEnabled "TASK_PREEMPT_STOP"
      else .next (putTask s { t with stopped := true })

/-! ### Reads in any order (R262) -/

/-- A task that is about to fire reads an aligned 8-byte word of an operand before the rest. -/
def readAheadTask (s : State) (t : Task) (ea : Word) : Out :=
  let ea := ea &&& ~~~(7#64)
  let meets (r : Rows) : Bool := (List.range r.rows).any fun i => (rowPlace t r i).any fun p =>
    p.toNat < ea.toNat + 8 && ea.toNat < p.toNat + r.n
  match (taskReads t).findIdx? meets with
  | none => notEnabled "READ_AHEAD"
  | some j =>
    if t.cbld || !(wantsFiring s t) || engineFenced s t.c t.cores t.id || t.got.any fun e => e.1 / 8 == ea.toNat / 8 then
      notEnabled "READ_AHEAD"
    else
      match unitRead (taskMaster t) t.e.nur j s ea 8 with
      | .ok s bs => .next (putTask s { t with got := t.got ++ bs.zipIdx.map fun b => (ea.toNat + b.2, b.1) })
      | _ => notEnabled "READ_AHEAD"

/-! ### VSTOP and VWAIT (R305, R306, R311, R312, R315, R329) -/

/-- The status of a task rejected with SHAPE in a sector: the check of the tenant's latest one there, since the handle tells
no more; a free value where it has none (log 66, DEDUCED). -/
def shapeStatus (s : State) (v sec : Nat) : State × Word :=
  match s.tasks.rejects.find? fun e => e.1 == (v, sec) with
  | some e => (s, statusWord 0 e.2 0 4 false true 0)
  | none =>
    let (s, bs) := freeBytes s 1
    (s, statusWord 0 (ofBytes bs) 0 4 false true 0)
/-- The live NBMV command of a tenant that an engine handle names. -/
def nbNamed (s : State) (v : Nat) (h : Word) : Option Cmd :=
  if fieldOf h.toNat 13 3 == 3 then cmdNamed s v h else none
/-- Stop an NBMV command: its current or first version becomes final (R329). One that does not refine runs on; its publication
in this clk would have come first. -/
def stopNb (s : State) (m : Cmd) : State × Word :=
  if nbFinal m then (s, liveStatus m)
  else if m.e.ver != 1 then (putCmd s { m with haltAt := s.clk + 1 }, liveStatus m)
  else
    let m := { m with halt := true, stp := true, haltAt := s.clk + 1 }
    (putCmd s m, liveStatus m)
/-- Stop a task (R305). -/
def stopTask (s : State) (t : Task) : State × Word :=
  if t.fin then (s, taskStatus t)
  else if !((refining s).contains t.id) then (putTask s { t with stopAt := s.clk + 1 }, taskStatus t)
  else if t.ver == 0 then
    let t := { t with stp := true, engine := if t.tile.isSome then none else t.engine, stopAt := s.clk + 1 }
    (putTask s t, taskStatus t)
  else
    let left := t.engine.isSome || t.tile.isSome || lostEngine t || staleInput s t
    let t := { t with fin := true, code := 2, stp := left, engine := none, tile := none, renamed := false, accs := [] }
    (endTask s t, taskStatus t)
/-- What VSTOP does for a handle. -/
def stopHandle (s : State) (v : Nat) (h : Word) : State × Word :=
  if h.getLsbD 63 then
    match taskNamed s v h with
    | none => (s, retiredStatus)
    | some t => stopTask s t
  else
    match nbNamed s v h with
    | none => (s, retiredStatus)
    | some m => stopNb s m
/-- Whether a publication of a handle's task is under way: a VSTOP comes behind it (R315). -/
def publishing (s : State) (v : Nat) (h : Word) : Bool :=
  ((taskNamed s v h).any fun t => !t.early.isEmpty) || (nbNamed s v h).any fun m => !m.early.isEmpty || !m.outs.isEmpty
/-- `vstop.cur`: the current version becomes final (log 71, DEDUCED). -/
def execVstopCur (o : OpX) (s : State) : Out :=
  let uni := k1 o.o
  withFiring (siteX o 0 0x33 .x) s fun s f units =>
    let go (st : State × Firing) (c : Core) : State × Firing :=
      let r := stopHandle st.1 f.tenant (getS (fileOf f units uni c) o.o.a.toNat)
      (r.1, writeD st.2 uni c.idx o.o.d.toNat r.2)
    let sel := memUnits f units uni o.o.pr
    if sel.any fun c => publishing s f.tenant (getS (fileOf f units uni c) o.o.a.toNat) then .next s
    else
      let r := sel.foldl go (s, f)
      .next (putFiring r.1 (advance r.2 units 8))

/-- What a wait answers: the state, the word for d and the timestamp that its return acquires; none while it waits. -/
abbrev WaitRes := Option (State × Word × Nat)
/-- Wait on a handle: `ok` tells from a version and its finality whether the wait returns. -/
def waitHandle (s : State) (v : Nat) (h : Word) (ok : Nat → Bool → Bool) : WaitRes :=
  if h.getLsbD 63 then
    if fieldOf h.toNat 16 32 == 0 then
      let r := shapeStatus s v (fieldOf h.toNat 10 6)
      some (r.1, r.2, 0)
    else
      match taskNamed s v h with
      | none => some (s, retiredStatus, 0)
      | some t => if ok t.ver t.fin then some (s, taskStatus t, t.wts) else none
  else
    match nbNamed s v h with
    | none =>
      if fieldOf h.toNat 13 3 == 3 && fieldOf h.toNat 16 32 == 0 then
        let r := rejectedStatus s v h
        some (r.1, r.2, 0)
      else some (s, retiredStatus, 0)
    | some m => if ok m.ver (nbFinal m) then some (s, liveStatus m, m.wts) else none
/-- Wait for a settle group of a launch in a sector. -/
def waitSettled (s : State) (launch sec id : Nat) : WaitRes :=
  let group := s.tasks.tasks.filter fun t => !t.cbld && t.launch == launch && t.sec == sec && t.settle == id
  if group.all fun t => t.fin && t.notes.all fun n => t.ver ≤ n then
    some (s, 0, group.foldl (fun m t => max m t.wts) 0)
  else none
/-- The answers of the cores in ascending order; none while one of them waits. -/
def waitAll (g : State → Core → WaitRes) : List Core → State → Option (State × List (Core × Word × Nat))
  | [], s => some (s, [])
  | c :: cs, s => (g s c).bind fun r => (waitAll g cs r.1).map fun rs => (rs.1, (c, r.2) :: rs.2)
/-- A VWAIT: it stalls until its condition holds on every core where it takes effect, and its return acquires. -/
def vwaitInstr (fn : BitVec 3) (a : Fld) (o : OpX) (g : State → Firing → Word → WaitRes) (s : State) : Out :=
  let uni := k1 o.o
  withFiring (siteX o fn 0x35 a) s fun s f units =>
    match waitAll (fun s c => g s f (getS (fileOf f units uni c) o.o.a.toNat)) (memUnits f units uni o.o.pr) s with
    | none => .next s
    | some (s, l) =>
      let go (st : State × Firing) (e : Core × Word × Nat) : State × Firing :=
        let cores := if uni then units.map (·.idx) else [e.1.idx]
        (raisePts st.1 f.clus cores e.2.2, writeD st.2 uni e.1.idx o.o.d.toNat e.2.1)
      let r := l.foldl go (s, f)
      .next (putFiring (sweep r.1) (advance r.2 units 8))
/-- `vwait.ver`: until a version is published. -/
def execVwaitVer (o : OpX) (s : State) : Out :=
  vwaitInstr 0 .x o (fun s f h => waitHandle s f.tenant h fun ver fin => fin || o.imm.toNat % 16 ≤ ver) s
/-- `vwait.fin`: until a task is final. -/
def execVwaitFin (o : OpX) (s : State) : Out :=
  vwaitInstr 1 .x o (fun s f h => waitHandle s f.tenant h fun _ fin => fin) s
/-- `vwait.set`: until a group of the core's own sector is settled. -/
def execVwaitSet (o : OpX) (s : State) : Out :=
  vwaitInstr 2 .no o (fun s f _ => waitSettled s f.launch (sectorOf f.clus) (o.imm.toNat % 4096)) s
/-- `vwait.sets`: until a group of a named sector is settled. -/
def execVwaitSets (o : OpX) (s : State) : Out :=
  vwaitInstr 3 .x o (fun s f h => waitSettled s f.launch (h.toNat % 64) (o.imm.toNat % 4096)) s
/-- `vwait.poll`: a task's status at once. -/
def execVwaitPoll (o : OpX) (s : State) : Out :=
  vwaitInstr 4 .x o (fun s f h => waitHandle s f.tenant h fun _ _ => true) s

end Sys2Proof.Machine
end

