-- ==== Sys2Proof/Machine/Agent.lean ====
section
/-! DEFINITION. Agent slots, the agent sequencer and its traps, agent memory, and the scalar and control instructions of
the context level (R77 to R81, R339, R371 to R376). -/

namespace Sys2Proof.Machine

/-! ### Slots and contexts -/

/-- The tenant whose quota holds a slot (R402) (log 87, DEDUCED). -/
def slotTenant (s : State) (n : Nat) : Option Nat :=
  (List.range 16).find? fun v =>
    let t := tenantOf s v
    t.sbase.toNat ≤ n && n < t.sbase.toNat + t.scount.toNat
/-- A slot; one that no entry names is as at reset. -/
def slotAt (s : State) (n : Nat) : Slot := (slotOf s n).getD { num := n, tenant := (slotTenant s n).getD 0 }
/-- The context that a context register holds (R339). -/
def ctxOf (s : State) (slot reg : Nat) : Option Ctx := s.ctx.ctxs.find? fun c => c.slot == slot && c.reg == reg
/-- Replace a context. -/
def putCtx (s : State) (c : Ctx) : State :=
  setCtx s { s.ctx with ctxs := putWhere (fun x => x.slot == c.slot && x.reg == c.reg) c s.ctx.ctxs }
/-- Whether a block list names a page. -/
def inBlocks (bs : List (List Nat)) (num : Nat) : Bool := bs.any fun b => b.contains num
/-- Whether a step or a long instruction holds a page beside the contexts: a seat, a draft chain, or pages made for a seat
(R343, R398). -/
def heldPage (s : State) (v num : Nat) : Bool :=
  (s.ctx.steps.any fun t => t.tenant == v && t.seats.any fun e => inBlocks e.blocks num) ||
    s.slots.any fun k => k.tenant == v && match k.long with
      | none => false
      | some l => (l.made.any fun x => x.2 == num) || l.tent.any fun bs => inBlocks bs num
/-- Whether a context or an index entry references a page (R342). -/
def namedPage (s : State) (v num : Nat) : Bool :=
  (s.ctx.ctxs.any fun c => c.tenant == v && inBlocks c.blocks num) ||
    s.ctx.pfx.any fun e => e.tenant == v && e.pages.contains num
/-- Whether a page has any reference. -/
def pageRefd (s : State) (v num : Nat) : Bool := namedPage s v num || heldPage s v num
/-- Whether an access that translated to a range of device memory has not drained (R231). -/
def rangeBusy (s : State) (key n : Nat) : Bool :=
  let hit (a : Acc) : Bool := a.kind != .fence && key < a.key + a.size && a.key < key + n
  (s.pcores.any fun p => p.accs.any fun a => hit a && !(a.performed && !(countsLoad a))) ||
    s.eng.cmds.any fun m => m.outs.any fun w => hit w.acc
/-- Whether accesses to a page's frame have not drained: its translation changes only after they have (R231, R419). -/
def pageBusy (s : State) (p : Page) : Bool := p.frame.isSome && rangeBusy s (memKey .device p.pa) frameSize
/-- Free the pages of a tenant that nothing references, in whatever state they are; a frame returns to the pool once the
accesses to it have drained (R231, R342, R349). What asks for a page that has gone asks no more (R351). -/
def sweepPages (s : State) (v : Nat) : State :=
  let keep (p : Page) : Bool := p.tenant != v || pageRefd s v p.num
  let held := (s.ctx.pages.filter fun p => !(keep p) && pageBusy s p).filterMap fun p => p.frame.map fun fr => (v, fr, p.pa)
  let pages := s.ctx.pages.filter keep
  setCtx s { s.ctx with pages := pages, freeing := s.ctx.freeing ++ held
                        faults := s.ctx.faults.filter fun f => f.1 != v || pages.any fun p => p.tenant == v && p.num == f.2 }
/-- Forget the contexts of a slot that satisfy a test, and what waits for them, and free their pages (R339, R359). -/
def dropCtxs (s : State) (slot v : Nat) (which : Nat → Bool) : State :=
  let gone (c : Ctx) : Bool := c.slot == slot && which c.reg
  sweepPages (setCtx s { s.ctx with
    ctxs := s.ctx.ctxs.filter fun c => !(gone c)
    pins := s.ctx.pins.filter fun p => !(p.slot == slot && which p.reg) }) v

/-! ### Traps and suspension (R374, R380) -/

/-- Whether an agent holds a seat of a step that has not committed. -/
def isSeated (s : State) (slot : Nat) : Bool := s.ctx.steps.any fun t => t.seats.any fun e => e.slot == slot
/-- The `lpc` field of a long instruction (R371). -/
def lpcOf (l : Long) : W32 := if l.prog.resume then l.prog.lpc ||| 1 else l.prog.lpc
/-- Suspend a long instruction: its resume bit is set, and stays set until it completes (R77, R380)
(log 73, DEDUCED). -/
def suspend (k : Slot) : Slot :=
  match k.long with
  | none => k
  | some l =>
    let l := { l with susp := true, prog := { l.prog with resume := true } }
    { k with long := some l, lpc := lpcOf l }
/-- Whether a `c.spec` stands between two steps of a round, where it does not suspend (R382). -/
def midRound (k : Slot) : Bool := k.long.any fun l => l.prog.op == 0x64 && !(l.chains.getD 0 []).isEmpty
/-- Suspend an agent's long instruction now, where no step holds its seat and it is in no round; else it suspends at the commit
that ends the step or the round (R382, R383). -/
def suspendNow (s : State) (k : Slot) : Slot := if isSeated s k.num || midRound k then k else suspend k
/-- Take an agent trap: the PC stays on the word, the code goes to cause, and the state becomes trapped (R374). -/
def agentTrap (s : State) (k : Slot) (code : W32) : State :=
  putSlot s (suspendNow s { k with st := .trapped, cause := code })
/-- The agent-trap codes of R374. -/
def trapAill : W32 := 1
/-- AFETCH. -/
def trapAfetch : W32 := 2
/-- ACTX. -/
def trapActx : W32 := 3
/-- AMEM. -/
def trapAmem : W32 := 4
/-- ASLOT. -/
def trapAslot : W32 := 5

/-! ### Issue (R373) -/

/-- Whether the acting agent is running; the slot, then. -/
def actingSlot (s : State) : Option Slot :=
  match s.cur with
  | .agent n => (slotOf s n).filter fun k => k.st == .running
  | _ => none
/-- Whether the scoreboard holds a word: it reads or writes a pending register, names a context register that the long
instruction or a waiting `c.pin` holds, or reads the register that such a pin will write (R357, R373). -/
def boardHolds (s : State) (k : Slot) (rd wr cs : List (BitVec 4)) : Bool :=
  let held (r : BitVec 4) : Bool := match k.long with
    | none => false
    | some l => r == l.o.y || (l.prog.op == 0x64 && r == l.o.z)
  let pins := s.ctx.pins.filter fun p => p.slot == k.num
  (rd ++ wr).any (fun r => k.pend.getLsbD r.toNat) || cs.any held ||
    pins.any fun p => (cs.any fun r => r.toNat == p.reg) || rd.any fun r => r.toNat == p.dest
/-- Issue a word of the acting agent: the registers it reads and writes, the context registers it names, and its effect.
A trap owed by an earlier long instruction is taken first (R375). -/
def agentWord (rd wr cs : List (BitVec 4)) (s : State) (eff : State → Slot → Out) : Out :=
  match actingSlot s with
  | none => .refused .noAgent
  | some k =>
    if k.owed then .next (agentTrap s { k with owed := false } trapAmem)
    else if k.klaunch.isSome || boardHolds s k rd wr cs then .next s
    else eff s k
/-- An a register. -/
def getA (k : Slot) (r : BitVec 4) : Word := k.a[r.toNat]
/-- Write an a register. -/
def setA (k : Slot) (r : BitVec 4) (w : Word) : Slot := { k with a := k.a.set r.toNat w }
/-- The slot after its word, at the next one. -/
def pastWord (k : Slot) : Slot := { k with pc := k.pc + 8 }
/-- A word that only writes an a register. -/
def agentSet (o : OpC) (rd : List (BitVec 4)) (s : State) (f : Slot → Word) : Out :=
  agentWord rd [o.x] [] s fun s k => .next (putSlot s (pastWord (setA k o.x (f k))))
/-- SignExtend(imm32, 32). -/
def immA (o : OpC) : Word := o.imm.signExtend 64

/-! ### Fetching (R80) -/

/-- The word at an agent's PC: it lies in the section, on a page that is readable. -/
def agentFetch (s : State) (k : Slot) : Option (State × Word) :=
  if k.pc.toNat % 8 != 0 || k.rpsize.toNat < k.pc.toNat + 8 then none
  else
    match partRead s k.tenant (k.rprog + k.pc.setWidth 64) 8 with
    | .error _ => none
    | .ok (s, bs) => some (s, BitVec.ofNat 64 (ofBytes bs))
/-- AGENT_ILLEGAL_WORD: the word at the acting agent's PC is no instruction; it takes AILL (R80). -/
def execAgentIllegalWord (w : Word) (s : State) : Out :=
  match actingSlot s with
  | none => .refused .noAgent
  | some k =>
    match agentFetch s k with
    | none => notEnabled "AGENT_ILLEGAL_WORD"
    | some (_, w') =>
      if agentLegal w' || w != w' then notEnabled "AGENT_ILLEGAL_WORD" else .next (agentTrap s k trapAill)
/-- AGENT_FETCH_FAULT: the word at the acting agent's PC cannot be fetched; it takes AFETCH (R80). -/
def execAgentFetchFault (s : State) : Out :=
  match actingSlot s with
  | none => .refused .noAgent
  | some k =>
    match agentFetch s k with
    | some _ => notEnabled "AGENT_FETCH_FAULT"
    | none => .next (agentTrap s k trapAfetch)

/-! ### Agent memory (R375, R376) -/

/-- Whether a range lies wholly within agent memory, at an alignment. -/
def amRange (off : Word) (n align : Nat) : Bool := off.toNat + n ≤ 65536 && off.toNat % align == 0
/-- Read a range of agent memory; none where a translation faults. -/
def amRead (s : State) (k : Slot) (off : Word) (n : Nat) : Option (State × List Byte) :=
  match partRead s k.tenant (k.ramem + off) n with
  | .error _ => none
  | .ok r => some r
/-- Whether a range of agent memory can be read now: no release there is still to be published (R259, R375). -/
def amServed (s : State) (k : Slot) (off : Word) (n : Nat) : Bool := partServed s k.tenant (k.ramem + off) n
/-- Write agent memory; none where a translation faults. -/
def amWrite (s : State) (k : Slot) (off : Word) (bs : List Byte) : Option State :=
  match partWrite s k.tenant (k.ramem + off) bs with
  | .error _ => none
  | .ok s => some s
/-- Whether a range of agent memory can be read and, with wr, written: every 64 KiB page of it translates. -/
def amMapped (s : State) (k : Slot) (off : Word) (wr : Bool) : Bool :=
  match partKey s k.tenant (k.ramem + off) (if wr then .wr else .rd) with
  | .error _ => false
  | .ok _ => true

/-! ### Scalar instructions (R376) -/

/-- A_MOVI_LO: a_x := SignExtend(imm32). -/
def execAMoviLo (o : OpC) (s : State) : Out := agentSet o [] s fun _ => immA o
/-- A_MOVI_HI: a_x[63:32] := imm32, the low half kept. -/
def execAMoviHi (o : OpC) (s : State) : Out := agentSet o [] s fun k => o.imm ++ (getA k o.x).setWidth 32
/-- A_MOVI_Z: a_x := ZeroExtend(imm32). -/
def execAMoviZ (o : OpC) (s : State) : Out := agentSet o [] s fun _ => o.imm.setWidth 64
/-- A_MOV: a_x := a_y. -/
def execAMov (o : OpC) (s : State) : Out := agentSet o [o.y] s fun k => getA k o.y
/-- A word of two operands: A is a_y, B is a_z or the sign-extended immediate. -/
def agentOp (o : OpC) (op : Word → Word → Word) (s : State) : Out :=
  let imm := o.m.getLsbD 0
  agentSet o (if imm then [o.y] else [o.y, o.z]) s fun k => op (getA k o.y) (if imm then immA o else getA k o.z)
/-- A_ADD. -/
def execAAdd (o : OpC) (s : State) : Out := agentOp o (fun a b => a + b) s
/-- A_SUB. -/
def execASub (o : OpC) (s : State) : Out := agentOp o (fun a b => a - b) s
/-- A_AND. -/
def execAAnd (o : OpC) (s : State) : Out := agentOp o (fun a b => a &&& b) s
/-- A_OR. -/
def execAOr (o : OpC) (s : State) : Out := agentOp o (fun a b => a ||| b) s
/-- A_XOR. -/
def execAXor (o : OpC) (s : State) : Out := agentOp o (fun a b => a ^^^ b) s
/-- A_SHL: shift by B[5:0]. -/
def execAShl (o : OpC) (s : State) : Out := agentOp o (fun a b => a <<< (b.toNat % 64)) s
/-- A_SHR: logical, or arithmetic with ar = 1, by B[5:0]. -/
def execAShr (o : OpC) (s : State) : Out :=
  agentOp o (fun a b => if o.m.getLsbD 1 then a.sshiftRight (b.toNat % 64) else a >>> (b.toNat % 64)) s
/-- A_MUL: the low 64 bits of the product. -/
def execAMul (o : OpC) (s : State) : Out := agentOp o (fun a b => a * b) s
/-- A condition of `a.cmp`. -/
def agentCond (c : Nat) (a b : Word) : Bool :=
  match c with
  | 0 => a == b
  | 1 => a != b
  | 2 => a.slt b
  | 3 => !(a.slt b)
  | 4 => a.ult b
  | _ => !(a.ult b)
/-- A_CMP: a_x := 1 if the condition holds, else 0. -/
def execACmp (o : OpC) (s : State) : Out :=
  agentOp o (fun a b => if agentCond (o.m.toNat / 2) a b then 1 else 0) s

/-! ### Control (R376) -/

/-- A_BR: the PC becomes the target if a_y is nonzero (nz) or zero (z). -/
def execABr (o : OpC) (s : State) : Out :=
  agentWord [o.y] [] [] s fun s k =>
    if (getA k o.y == 0) == o.m.getLsbD 0 then .next (putSlot s { k with pc := o.imm }) else .next (putSlot s (pastWord k))
/-- A_JMP. -/
def execAJmp (o : OpC) (s : State) : Out := agentWord [] [] [] s fun s k => .next (putSlot s { k with pc := o.imm })
/-- A_CALL: the link register receives the address of the next word. -/
def execACall (o : OpC) (s : State) : Out :=
  agentWord [] [o.x] [] s fun s k => .next (putSlot s { setA k o.x ((k.pc + 8).setWidth 64) with pc := o.imm })
/-- A_RET: a target that is not aligned takes AFETCH at the word itself. -/
def execARet (o : OpC) (s : State) : Out :=
  agentWord [o.y] [] [] s fun s k =>
    let t : W32 := (getA k o.y).setWidth 32
    if t.toNat % 8 != 0 then .next (agentTrap s k trapAfetch) else .next (putSlot s { k with pc := t })

/-! ### Loads and stores (R375, R376) -/

/-- A_LD: the bytes at a_y plus the offset, zero-extended; it waits while a release covers them (R259). -/
def execALd (o : OpC) (s : State) : Out :=
  agentWord [o.y] [o.x] [] s fun s k =>
    let n := 2 ^ o.m.toNat
    let off := getA k o.y + immA o
    if !(amRange off n n) then .next (agentTrap s k trapAmem)
    else
      match partKey s k.tenant (k.ramem + off) .rd with
      | .error _ => .next (agentTrap s k trapAmem)
      | .ok key =>
        if !(served s .sys key n) then .next s
        else
          let (s, v) := partWord s key n 0
          .next (putSlot s (pastWord (setA k o.x (BitVec.ofNat 64 v))))
/-- A_ST: the low bytes of a_x go to a_y plus the offset. -/
def execASt (o : OpC) (s : State) : Out :=
  agentWord [o.x, o.y] [] [] s fun s k =>
    let n := 2 ^ o.m.toNat
    let off := getA k o.y + immA o
    if !(amRange off n n) then .next (agentTrap s k trapAmem)
    else
      match partKey s k.tenant (k.ramem + off) .wr with
      | .error _ => .next (agentTrap s k trapAmem)
      | .ok key => .next (putSlot (partPut s key n ((getA k o.x).toNat % 2 ^ (8 * n)) 0) (pastWord k))

/-! ### Waiting, signalling, ending (R376) -/

/-- A_WAIT_PEND: issues once a_y is not pending. -/
def execAWaitPend (o : OpC) (s : State) : Out :=
  agentWord [o.y] [] [] s fun s k => .next (putSlot s (pastWord k))
/-- A_WAIT_SIG: waits until sig AND a_y is nonzero, then takes those bits and clears them. -/
def execAWaitSig (o : OpC) (s : State) : Out :=
  agentWord [o.y] [o.x] [] s fun s k =>
    let got := k.sig &&& getA k o.y
    if got == 0 then .next s else .next (putSlot s (pastWord (setA { k with sig := k.sig &&& ~~~got } o.x got)))
/-- A_WAIT_ALL: issues once no register is pending. -/
def execAWaitAll (_ : OpC) (s : State) : Out :=
  agentWord [] [] [] s fun s k => if k.pend != 0 then .next s else .next (putSlot s (pastWord k))
/-- A_SIG_SLOT: a_z is ORed into the signal word of slot a_y[15:0] of the same tenant; any other slot takes ASLOT. -/
def execASigSlot (o : OpC) (s : State) : Out :=
  agentWord [o.y, o.z] [] [] s fun s k =>
    let n := (getA k o.y).toNat % 65536
    if slotTenant s n != some k.tenant then .next (agentTrap s k trapAslot)
    else
      let s := putSlot s (pastWord k)
      let t := slotAt s n
      .next (putSlot s { t with sig := t.sig ||| getA k o.z })
/-- A_SIG_HOST: hmsg := a_y, and the function's agent interrupt is sent (R413). -/
def execASigHost (o : OpC) (s : State) : Out :=
  agentWord [o.y] [] [] s fun s k => .next (sendMsix (putSlot s (pastWord { k with hmsg := getA k o.y })) k.tenant 1)
/-- A_YIELD: no architectural effect. -/
def execAYield (_ : OpC) (s : State) : Out := agentWord [] [] [] s fun s k => .next (putSlot s (pastWord k))
/-- A_HALT: once nothing is pending, the code goes to cause, every context is dropped and the state becomes halted
(log 74, DEDUCED). -/
def execAHalt (o : OpC) (s : State) : Out :=
  agentWord [o.y] [] [] s fun s k =>
    if k.pend != 0 then .next s
    else .next (dropCtxs (putSlot s { k with cause := (getA k o.y).setWidth 32, st := .halted }) k.num k.tenant fun _ => true)
/-- A_KLAUNCH: the record at AM[a_y] is submitted; the word waits for its acceptance, which writes a_x (R267, R376). -/
def execAKlaunch (o : OpC) (s : State) : Out :=
  agentWord [o.y] [o.x] [] s fun s k =>
    let off := getA k o.y
    if !(amRange off 160 32) || (amRead s k off 160).isNone then .next (agentTrap s k trapAmem)
    else .next (putSlot s { k with klaunch := some (o.x.toNat, k.ramem + off) })
/-- Whether a long instruction in flight has results to write to agent memory before its status (R375, R382). -/
def resultsOwed (k : Slot) : Bool := match k.long with
  | none => false
  | some l => l.prog.op == 0x62 || l.prog.op == 0x63
/-- A_FENCE: every other earlier access of the agent performs as it issues, and an acceptance holds issue, so it waits only
for the results of an earlier `c.score` or `c.choose` (R376). -/
def execAFence (_ : OpC) (s : State) : Out :=
  agentWord [] [] [] s fun s k => if resultsOwed k then .next s else .next (putSlot s (pastWord k))

/-! ### Slot commands (R371, R372, R383) -/

/-- The sampler block at start (R372). -/
def defaultSamp : Samp := {}
/-- Whether a start's fields keep their limits: prog and amem are Device VAs (R226, R371). -/
def startOk (s : State) (k : Slot) : Bool :=
  k.prog.toNat % 8 == 0 && spaceOf k.prog == 0 && vaClean k.prog && k.psize.toNat % 8 == 0 && k.psize.toNat ≤ 2 ^ 20 &&
    k.entry.toNat % 8 == 0 && k.entry.toNat < k.psize.toNat && k.amem.toNat % 65536 == 0 && spaceOf k.amem == 0 && vaClean k.amem &&
    amMapped s { k with ramem := k.amem } 0 false && amMapped s { k with ramem := k.amem } 0 true
/-- A start: prog to init are read, and the agent's registers and PC receive their first values (R372); without CTXL it is
ignored, and only sets the cause (R408). -/
def startSlot (s : State) (n : Nat) : State :=
  let k := slotAt s n
  let k := { k with tenant := (slotTenant s n).getD 0 }
  if !(k.st == .idle || k.st == .halted) then s
  else if !(accepted s k.tenant 1) then putSlot s { slotAt s n with cause := trapAfetch }
  else if (slotTenant s n).isNone || !(startOk s k) then putSlot s { k with st := .idle, cause := trapAfetch }
  else
    let a : Vector Word 16 := Vector.ofFn fun j => if j.val < 4 then k.init.getD j.val 0 else 0
    putSlot s { k with rprog := k.prog, rpsize := k.psize, ramem := k.amem, a := a, pend := 0, samp := defaultSamp, pc := k.entry
                       st := .running, long := none, owed := false, klaunch := none, rst := false, waited := 0 }
/-- A stop: nothing more issues, and the long instruction suspends at its next emission boundary. -/
def stopSlot (s : State) (n : Nat) : State :=
  let k := slotAt s n
  if k.st != .running then s
  else if isSeated s n || midRound k then putSlot s { k with st := .stopping }
  else putSlot s (suspend { k with st := .stopped })
/-- A resume: issue goes on at the PC, and a suspended long instruction from its record. -/
def resumeSlot (s : State) (n : Nat) : State :=
  let k := slotAt s n
  if !(k.st == .stopped || k.st == .trapped) then s
  else putSlot s { k with st := .running, long := k.long.map fun l => { l with susp := false } }
/-- The end of a reset: the contexts are dropped, and the slot is idle. -/
def finishReset (s : State) (n : Nat) : State :=
  let k := slotAt s n
  dropCtxs (putSlot s { k with st := .idle, pend := 0, long := none, owed := false, klaunch := none, rst := false }) n
    k.tenant fun _ => true
/-- A reset: the long instruction is abandoned; a step that seats the agent goes on first (R383). -/
def resetSlot (s : State) (n : Nat) : State :=
  let k := slotAt s n
  if isSeated s n then putSlot s { k with st := .stopping, rst := true }
  else if (slotOf s n).isSome then finishReset s n
  else s
/-- A host write to sig: it ORs into the word, as a release of the host's earlier writes (R371, R376). -/
def signalSlot (s : State) (n : Nat) (val : Word) : State :=
  let k := slotAt s n
  putSlot s { k with sig := k.sig ||| val }
/-- A slot event: the slot belongs to a tenant, or no page of any function reaches it. -/
def slotEvent (row : String) (n : Nat) (s : State) (f : State → Nat → State) : Out :=
  if (slotTenant s n).isNone then notEnabled row else .next (f s n)
/-- SLOT_START (R372). -/
def execSlotStart (n : Nat) (s : State) : Out := slotEvent "SLOT_START" n s startSlot
/-- SLOT_STOP (R372). -/
def execSlotStop (n : Nat) (s : State) : Out := slotEvent "SLOT_STOP" n s stopSlot
/-- SLOT_RESUME (R372). -/
def execSlotResume (n : Nat) (s : State) : Out := slotEvent "SLOT_RESUME" n s resumeSlot
/-- SLOT_RESET (R372). -/
def execSlotReset (n : Nat) (s : State) : Out := slotEvent "SLOT_RESET" n s resetSlot
/-- SIG_WRITE (R371). -/
def execSigWrite (n : Nat) (val : Word) (s : State) : Out :=
  slotEvent "SIG_WRITE" n s fun s n => signalSlot s n val

end Sys2Proof.Machine
end

