-- ==== Sys2Proof/Machine/Context.lean ====
section
/-! DEFINITION. Context pages (frames, homes, copies, tags), and the context-management instructions (R338 to R369, R399,
R419). -/

namespace Sys2Proof.Machine

/-! ### Ranges of memory -/

/-- Write bytes of device memory at their homes, one line's part at a time; fuel bounds the parts. -/
def putRangeFrom (s : State) : Nat → Nat → List Byte → State
  | 0, _, _ => s
  | fuel + 1, key, bs =>
    if bs.isEmpty then s
    else
      let m := min bs.length (256 - key % 256)
      let s := partPutAt s key m (bs.take m)
      putRangeFrom s fuel (key + m) (bs.drop m)
/-- Write bytes of device memory at their homes. -/
def putRange (s : State) (key : Nat) (bs : List Byte) : State := putRangeFrom s (bs.length / 256 + 2) key bs
/-- Bring a range of device memory to its home: update copies are combined, L2 copies written back and invalidated. -/
def quietRange (s : State) (key n : Nat) : State :=
  let inR (line : Nat) : Bool := key < line * 256 + 256 && line * 256 < key + n
  dropLines (recallWhere s fun _ _ u => inR (lineOf u.key)) fun l => inR l.line
/-- Replace a range of device memory by cells at offsets, the rest zero; leases of its lines end. -/
def fillRange (s : State) (key n : Nat) (cells : Mem) : State :=
  let s := quietRange s key n
  let m := memClear (memClear s.mem key (key + n)) (hbmKey key) (hbmKey key + n)
  let m := memWriteCells m (cells.map fun c => (key + c.1, c.2))
  let m := if hbmBacked key then memWriteCells m (cells.map fun c => (hbmKey key + c.1, c.2)) else m
  let lines := (s.l2.stamps.map (·.1)).filter fun l => key < l * 256 + 256 && l * 256 < key + n
  lines.foldl outsideWrite (setMem s m)

/-! ### Pages and frames (R342, R344, R419) -/

/-- A page of a tenant. -/
def pageAt (s : State) (v num : Nat) : Option Page := s.ctx.pages.find? fun p => p.tenant == v && p.num == num
/-- Change a page of a tenant. -/
def updPage (s : State) (v num : Nat) (f : Page → Page) : State :=
  setCtx s { s.ctx with pages := updWhere (fun p => p.tenant == v && p.num == num) f s.ctx.pages }
/-- A page's state; one that does not live is absent. -/
def pageSt (s : State) (v num : Nat) : PageState := ((pageAt s v num).map (·.st)).getD .absent
/-- The frames in use of a tenant's pool: those that pages hold, and those of freed pages with accesses to them that have not
drained. -/
def usedFrames (s : State) (v : Nat) : List Nat :=
  let held := s.ctx.pages.filterMap fun p => if p.tenant == v then p.frame else none
  (held ++ s.ctx.freeing.filterMap fun f =>
    if f.1 == v && rangeBusy s (memKey .device f.2.2) frameSize then some f.2.1 else none).eraseDups
/-- Number of free frames. -/
def freeCount (s : State) (v : Nat) : Nat := (tenantOf s v).poolfr.toNat - (usedFrames s v).length
/-- The least number that a list does not hold. -/
def leastFree (used : List Nat) : Nat := ((List.range (used.length + 1)).find? fun n => !(used.contains n)).getD 0
/-- The lowest free frame (R398). -/
def lowestFrame (s : State) (v : Nat) : Option Nat :=
  let f := leastFree (usedFrames s v)
  if f < (tenantOf s v).poolfr.toNat then some f else none
/-- The lowest page number that no live page of the tenant holds (R419). -/
def lowestNumber (s : State) (v : Nat) : Option Nat :=
  let n := leastFree (s.ctx.pages.filterMap fun p => if p.tenant == v then some p.num else none)
  if n < 2 ^ 20 then some n else none
/-- The physical address of a frame's first byte, as the tenant maps its pool when the frame is taken (R342)
(log 83, DEDUCED). -/
def framePa (s : State) (v fr : Nat) : Option Nat :=
  let va := frameVa s v fr
  match deviceWalk s v va with
  | .error _ => none
  | .ok l => some (paIn l va)
/-- The bytes of a frame, by offset. -/
def frameCells (s : State) (pa : Nat) : State × Mem :=
  let k := memKey .device pa
  let s := quietRange s k frameSize
  (s, (memSlice s.mem k (k + frameSize)).map fun c => (c.1 - k, c.2))
/-- Fill a frame. -/
def fillFrame (s : State) (pa : Nat) (cells : Mem) : State := fillRange s (memKey .device pa) frameSize cells
/-- Make a page with some bytes in the lowest free frame (R398, R419). -/
def makePage (s : State) (v home : Nat) (cells : Mem) : Option (State × Nat) :=
  match lowestFrame s v, lowestNumber s v with
  | some fr, some n =>
    (framePa s v fr).map fun pa =>
      let s := setCtx s { s.ctx with
        pages := s.ctx.pages ++ [{ tenant := v, num := n, frame := some fr, pa := pa, home := home }] }
      (fillFrame s pa cells, n)
  | _, _ => none
/-- The tag of a page (R352). -/
def tagOf (cells : Mem) : Word :=
  (List.range 262144).foldl (init := 0) fun t j =>
    t + mix (BitVec.ofNat 64 (memReadN cells (8 * j) 8) ^^^ BitVec.ofNat 64 j * 0xA3C59F276B1D4E85)

/-! ### The backing store (R342, R349, R352) -/

/-- Bytes of one place of the backing store: a page, its tag beside it, and padding to a whole line (log 117, DESIGN
CHOICE). -/
def placeSize : Nat := frameSize + 256
/-- The lowest free place of a tenant's backing store, if the store has room for one more page. -/
def lowestPlace (s : State) (v : Nat) : Option Nat :=
  let n := leastFree (s.ctx.pages.filterMap fun p => if p.tenant == v then p.place else none)
  if (n + 1) * placeSize ≤ (tenantOf s v).backsz.toNat then some n else none
/-- Where an address of the backing store lies: host memory, by the translation cache of sector 0 as for the part's other
accesses, or the HBM of a member package. A host page whose request has ended without it is asked for again (log 117, DESIGN
CHOICE). -/
def backLocate (s : State) (v : Nat) (ea : Word) (want : Want) : State × Loc :=
  match spaceOf ea with
  | 1 =>
    match translateHost s 0 v (vaOf ea) want with
    | .ok l => (s, .ok { key := memKey .host (paIn l (vaOf ea)) })
    | .ask p cached =>
      let s := setXlat s { s.xlat with failedCmds := s.xlat.failedCmds.filter fun e => e != failKey 0 v p }
      if priFails s v 0 p cached then (s, .cause 0x0B)
      else ((askPage s v 0 p want cached [] [0]).2, .ask p cached)
  | 2 =>
    if s.cfg.members.getLsbD (fieldOf ea.toNat 48 12) then (s, .ok { key := 2 * 2 ^ 64 + ea.toNat % 2 ^ 60 }) else (s, .cause 0x0C)
  | _ => (s, .cause 0x04)
/-- The pieces of n bytes of the backing store from an address, each within one 4 KiB page: key, offset and length. The error
says whether a page was asked for. Fuel bounds the pieces. -/
def backSpan (s : State) (v : Nat) (want : Want) (ea : Word) (off : Nat) :
    Nat → Nat → State × Except Bool (List (Nat × Nat × Nat))
  | 0, _ => (s, .ok [])
  | fuel + 1, n =>
    if n == 0 then (s, .ok [])
    else
      let m := min n (4096 - ea.toNat % 4096)
      match backLocate s v ea want with
      | (s, .ask _ _) => (s, .error true)
      | (s, .cause _) => (s, .error false)
      | (s, .ok p) =>
        match backSpan s v want (ea + BitVec.ofNat 64 m) (off + m) fuel (n - m) with
        | (s, .ok l) => (s, .ok ((p.key, off, m) :: l))
        | r => r
/-- The pieces of a place of a tenant's backing store: a page and its tag. -/
def placeSpan (s : State) (v place : Nat) (want : Want) : State × Except Bool (List (Nat × Nat × Nat)) :=
  backSpan s v want ((tenantOf s v).backing + BitVec.ofNat 64 (place * placeSize)) 0 1024 (frameSize + 8)
/-- Write a page and its tag to the pieces of a place. -/
def writePlace (s : State) (l : List (Nat × Nat × Nat)) (cells : Mem) (tag : Word) : State :=
  let all := memWriteBytes cells frameSize (toBytes 8 tag.toNat)
  l.foldl (fun s e => fillRange s e.1 e.2.2 ((memSlice all e.2.1 (e.2.1 + e.2.2)).map fun c => (c.1 - e.2.1, c.2))) s
/-- What the pieces of a place hold: the page's bytes by offset, and the tag. -/
def readPlace (s : State) (l : List (Nat × Nat × Nat)) : State × Mem × Word :=
  let r := l.foldl (init := (s, ([] : Mem))) fun st e =>
    let s := quietRange st.1 e.1 e.2.2
    (s, memWriteCells st.2 ((memSlice s.mem e.1 (e.1 + e.2.2)).map fun c => (c.1 - e.1 + e.2.1, c.2)))
  (r.1, memSlice r.2 0 frameSize, BitVec.ofNat 64 (memReadN r.2 frameSize 8))

/-! ### Homes (R344) -/

/-- The points of the ring that a home set owns: value, cluster and core (R344). -/
def ringPoints (set : List Nat) : List (Nat × Nat × Nat) :=
  set.flatMap fun c => (List.range 8).flatMap fun i => (List.range 16).map fun k =>
    ((mix (BitVec.ofNat 64 (16 * c * 8 + 16 * i + k))).toNat, c, i)
/-- The lesser of two ring points. -/
def lowerPoint (a b : Nat × Nat × Nat) : Nat × Nat × Nat := if b.1 < a.1 then b else a
/-- The least ring point of a list. -/
def leastPoint : List (Nat × Nat × Nat) → Option (Nat × Nat × Nat)
  | [] => none
  | a :: as => some (as.foldl lowerPoint a)
/-- The home core of block b of the context with a table index: die × 2048 + core (R344). -/
def homeOf (set : List Nat) (table b : Nat) : Nat :=
  let v := (mix (BitVec.ofNat 64 (table % 2 ^ 20 * 2 ^ 24 + b % 2 ^ 24))).toNat
  let pts := ringPoints set
  let up := leastPoint (pts.filter fun p => v ≤ p.1)
  match up.orElse fun _ => leastPoint pts with
  | none => 0
  | some (_, c, i) => dieOf c * 2048 + dieCore c i

/-- A loaded model instance. -/
def modelOf (s : State) (v inst : Nat) : Option Model := s.ctx.models.find? fun m => m.tenant == v && m.num == inst
/-- The model that a context is bound to, with the B, Q and home set that its `c.bind` fixed (R341, R367). -/
def boundModel (s : State) (c : Ctx) : Option Model :=
  (c.bound.bind fun b => modelOf s c.tenant b).map fun m => { m with block := c.block, ppb := c.ppb, homeSet := c.homeSet }
/-- The table index of a context (R339). -/
def tableIndex (c : Ctx) : Nat := c.slot * 16 + c.reg
/-- The distinct pages of a block list. -/
def pagesOf (bs : List (List Nat)) : List Nat := bs.flatten.eraseDups
/-- Whether a page is pinned (R348). -/
def isPinned (s : State) (v num : Nat) : Bool := s.ctx.ctxs.any fun c => c.tenant == v && c.pinned && inBlocks c.blocks num
/-- Contexts that reference a page. -/
def refCount (s : State) (v num : Nat) : Nat := s.ctx.ctxs.countP fun c => c.tenant == v && inBlocks c.blocks num
/-- Whether more than one context, or the prefix index, references a page (R343). -/
def isShared (s : State) (v num : Nat) : Bool :=
  1 < refCount s v num || s.ctx.pfx.any fun e => e.tenant == v && e.pages.contains num
/-- Whether a step that has not committed uses a page (R348). -/
def inUse (s : State) (v num : Nat) : Bool :=
  s.ctx.steps.any fun t => t.tenant == v && t.seats.any fun e => inBlocks e.blocks num
/-- Cancel a page's eviction (R349). -/
def cancelTwilight (s : State) (v num : Nat) : State :=
  updPage s v num fun p =>
    if p.st == .twilight then { p with st := .resident, place := none, tag := 0, forPin := false } else p

/-! ### Statuses (R356) -/

/-- A word that writes a status or a number to a_x and moves on. -/
def answer (s : State) (n : Nat) (x : BitVec 4) (w : Word) : Out := .next (putSlot s (pastWord (setA (slotAt s n) x w)))
/-- OK. -/
def stOk : Word := 0x00
/-- UNBOUND. -/
def stUnbound : Word := 0x01
/-- NOMODEL. -/
def stNoModel : Word := 0x02
/-- BOUND. -/
def stBound : Word := 0x03
/-- POISON. -/
def stPoison : Word := 0x04
/-- NOPIN. -/
def stNoPin : Word := 0x05
/-- NOSPACE. -/
def stNoSpace : Word := 0x06
/-- NOGRAM. -/
def stNoGram : Word := 0x07
/-- BADSAMP. -/
def stBadSamp : Word := 0x08
/-- The effect of a word on the context that register c holds; an empty one takes ACTX (R357) (log 75, DEDUCED). -/
def onCtx (s : State) (k : Slot) (c : BitVec 4) (f : Ctx → Out) : Out :=
  match ctxOf s k.num c.toNat with
  | none => .next (agentTrap s k trapActx)
  | some x => f x

/-! ### The context-management instructions (R358 to R369) -/

/-- C_NEW: an empty, unbound context with key a_y[31:0] in c_x; a register that holds one takes ACTX (R357, R358). -/
def execCNew (o : OpC) (s : State) : Out :=
  agentWord [o.y] [] [o.x] s fun s k =>
    if (ctxOf s k.num o.x.toNat).isSome then .next (agentTrap s k trapActx)
    else
      let c : Ctx := { slot := k.num, reg := o.x.toNat, tenant := k.tenant, key := (getA k o.y).setWidth 32 }
      .next (putSlot (putCtx s c) (pastWord k))
/-- C_FORK: a context in c_x that shares every page of c_y's; neither the pin nor the hint is copied (R358)
(log 76, DEDUCED). -/
def execCFork (o : OpC) (s : State) : Out :=
  agentWord [o.z] [] [o.x, o.y] s fun s k =>
    onCtx s k o.y fun src =>
      if (ctxOf s k.num o.x.toNat).isSome then .next (agentTrap s k trapActx)
      else
        let c : Ctx := { src with reg := o.x.toNat, key := (getA k o.z).setWidth 32, pinned := false, hint := none, prog := none }
        .next (putSlot (putCtx s c) (pastWord k))
/-- C_DROP: the context in c_x goes, and every page that it alone referenced; an empty register is a no-op (R359). -/
def execCDrop (o : OpC) (s : State) : Out :=
  agentWord [] [] [o.x] s fun s k =>
    .next (dropCtxs (putSlot s (pastWord k)) k.num k.tenant fun r => r == o.x.toNat)
/-- The byte length of a list of entries. -/
def entriesLen (es : List Entry) : Nat := (es.map (·.len)).sum
/-- The entries that end at or below a byte position. -/
def entriesWithin (n : Nat) : Nat → List Entry → List Entry
  | _, [] => []
  | pos, e :: es => if pos + e.len ≤ n then e :: entriesWithin n (pos + e.len) es else []
/-- A context cut back to its first entries; blocks that hold none of them go (R360). -/
def cutCtx (block : Nat) (c : Ctx) (es : List Entry) : Ctx :=
  let nb := (es.length + block - 1) / block
  { c with bytes := c.bytes.take (entriesLen es), entries := es, blocks := c.blocks.take nb, first := c.first.take nb,
           gram := if es.length < c.entries.length then none else c.gram }
/-- C_TRIM: the context is cut to the largest entry boundary at most a_z, and a_x := its length (R360). -/
def execCTrim (o : OpC) (s : State) : Out :=
  agentWord [o.z] [o.x] [o.y] s fun s k =>
    onCtx s k o.y fun c =>
      let n := (getA k o.z).toNat
      let es := if c.bytes.length ≤ n then c.entries else entriesWithin n 0 c.entries
      let c := cutCtx c.block c es
      answer (sweepPages (putCtx s c) k.tenant) k.num o.x (BitVec.ofNat 64 c.bytes.length)
/-- The state word of a context (R361). -/
def stateWord (s : State) (c : Ctx) : Word :=
  let gone := (pagesOf c.blocks).any fun n => match pageSt s c.tenant n with
    | .absent => true
    | .promoting => true
    | _ => false
  let bit (b : Bool) (j : Nat) : Nat := if b then 2 ^ j else 0
  BitVec.ofNat 64 (c.bound.getD 0 * 2 ^ 32 + bit gone 4 + bit c.pinned 3 + bit c.gram.isSome 2 + bit c.poisoned 1 +
    bit c.bound.isSome 0)
/-- C_LEN: the length in bytes or in entries, or the state word (R361). -/
def execCLen (o : OpC) (s : State) : Out :=
  agentWord [] [o.x] [o.y] s fun s k =>
    onCtx s k o.y fun c =>
      answer s k.num o.x (match o.m.toNat with
        | 0 => BitVec.ofNat 64 c.bytes.length
        | 1 => BitVec.ofNat 64 c.entries.length
        | _ => stateWord s c)
/-- C_READ: bytes from position a_z go to agent memory at a_w, and a_x := how many; the range is checked whole (R362). -/
def execCRead (o : OpC) (s : State) : Out :=
  agentWord [o.z, o.w] [o.x] [o.y] s fun s k =>
    onCtx s k o.y fun c =>
      let bs := (c.bytes.drop (getA k o.z).toNat).take o.imm.toNat
      if !(amRange (getA k o.w) o.imm.toNat 1) then .next (agentTrap s k trapAmem)
      else
        match amWrite s k (getA k o.w) bs with
        | none => .next (agentTrap s k trapAmem)
        | some s => answer s k.num o.x (BitVec.ofNat 64 bs.length)
/-- C_HINT: the hint becomes a_y[31:0]; 0 removes it (R364). -/
def execCHint (o : OpC) (s : State) : Out :=
  agentWord [o.y] [] [o.x] s fun s k =>
    onCtx s k o.x fun c =>
      let h : W32 := (getA k o.y).setWidth 32
      .next (putSlot (putCtx s { c with hint := if h == 0 then none else some h }) (pastWord k))

/-- The pages of a context that hold no frame. -/
def absentOf (s : State) (c : Ctx) : List Nat := (pagesOf c.blocks).filter fun n => pageSt s c.tenant n == .absent
/-- Whether every page of a context is resident. -/
def allResident (s : State) (c : Ctx) : Bool := (pagesOf c.blocks).all fun n => pageSt s c.tenant n == .resident
/-- The distinct pinned pages of a tenant. -/
def pinnedPages (s : State) (v : Nat) : List Nat :=
  pagesOf (s.ctx.ctxs.flatMap fun c => if c.tenant == v && c.pinned then c.blocks else [])
/-- Frames that the waiting pins of a tenant still need. -/
def pinNeed (s : State) (v : Nat) : Nat :=
  let waiting := (s.ctx.pins.filterMap fun p => ctxOf s p.slot p.reg).flatMap fun c => if c.tenant == v then c.blocks else []
  ((pagesOf waiting).filter fun n => pageSt s v n == .absent).length
/-- The pages in twilight for a waiting pin (R399): as many as it needs frames beside the free ones, those chosen for a pin
first. -/
def forPinPages (s : State) (v : Nat) : List Nat :=
  let tw := s.ctx.pages.filter fun p => p.tenant == v && p.st == .twilight
  (((tw.filter (·.forPin)) ++ tw.filter fun p => !p.forPin).take (pinNeed s v - freeCount s v)).map (·.num)
/-- Whether R348 could make room for every page of the tenant's pinned contexts, every candidate counted: those in use by a
step count too (R399). -/
def pinFits (s : State) (v : Nat) : Bool :=
  let want := ((pinnedPages s v).filter fun n => pageSt s v n == .absent).length
  let cand := s.ctx.pages.countP fun p => p.tenant == v && !(isPinned s v p.num) &&
    (p.st == .resident || p.st == .twilight)
  want ≤ freeCount s v + cand
/-- C_PIN: the context is pinned at once, refused, or waits until its pages are resident (R365). -/
def execCPin (o : OpC) (s : State) : Out :=
  agentWord [] [o.x] [o.y] s fun s k =>
    onCtx s k o.y fun c =>
      let v := k.tenant
      let s' := putCtx s { c with pinned := true }
      if c.poisoned then answer s k.num o.x stPoison
      else if c.pinned || c.bound.isNone || c.blocks.isEmpty then answer s' k.num o.x stOk
      else if 3 * (tenantOf s v).poolfr.toNat < 4 * (pinnedPages s' v).length then answer s k.num o.x stNoPin
      else if !(pinFits s' v) then answer s k.num o.x stNoSpace
      else
        let s' := (pagesOf c.blocks).foldl (fun s n => cancelTwilight s v n) s'
        if allResident s' c then answer s' k.num o.x stOk
        else
          let s' := setCtx s' { s'.ctx with pins := s'.ctx.pins ++ [{ slot := k.num, reg := o.y.toNat, dest := o.x.toNat }] }
          .next (putSlot s' (pastWord k))
/-- C_UNPIN: the pin is cleared; an empty register is a no-op (R357, R366). -/
def execCUnpin (o : OpC) (s : State) : Out :=
  agentWord [] [] [o.x] s fun s k =>
    match ctxOf s k.num o.x.toNat with
    | none => .next (putSlot s (pastWord k))
    | some c => .next (putSlot (putCtx s { c with pinned := false }) (pastWord k))

/-- The sampler block as 32 bytes (R78). -/
def sampBytes (p : Samp) : List Byte :=
  ([p.temp, p.res, p.topK, p.topP, p.eps, p.delta].flatMap fun w => toBytes 4 w.toNat) ++ toBytes 8 p.seed.toNat
/-- A sampler block from 32 bytes. -/
def sampOf (bs : List Byte) : Samp :=
  let w (j : Nat) : W32 := BitVec.ofNat 32 (ofBytes ((bs.drop (4 * j)).take 4))
  { temp := w 0, res := w 1, topK := w 2, topP := w 3, eps := w 4, delta := w 5,
    seed := BitVec.ofNat 64 (ofBytes ((bs.drop 24).take 8)) }
/-- A progress record as 64 bytes (R380). -/
def progBytes (p : Prog) : List Byte :=
  let flags := (if p.resume then 1 else 0) + (if p.fin then 2 else 0) + p.stop % 2 ^ 12 * 16
  toBytes 1 p.status ++ toBytes 1 p.op ++ toBytes 2 flags ++ toBytes 4 p.lpc.toNat ++ toBytes 4 p.done ++
    toBytes 4 p.limit ++ toBytes 4 (p.pos % 2 ^ 24 + p.draw % 256 * 2 ^ 24) ++ toBytes 4 (p.entry % 2 ^ 24) ++
    toBytes 4 (p.last % 2 ^ 20 + p.ref % 4096 * 2 ^ 20) ++ toBytes 4 (p.gstate % 2 ^ 20) ++ sampBytes p.samp
/-- C_PROG: the progress record of the latest long instruction goes to agent memory at a_z, and a_x := its status (R363). -/
def execCProg (o : OpC) (s : State) : Out :=
  agentWord [o.z] [o.x] [o.y] s fun s k =>
    onCtx s k o.y fun c =>
      if !(amRange (getA k o.z) 64 8) then .next (agentTrap s k trapAmem)
      else
        match amWrite s k (getA k o.z) ((c.prog.map progBytes).getD (List.replicate 64 0)) with
        | none => .next (agentTrap s k trapAmem)
        | some s => answer s k.num o.x (BitVec.ofNat 64 ((c.prog.map (·.status)).getD 0))
/-- A context as `c.bind` leaves it: the binding, B, Q and the home set are those of the instance; one that holds entries, whose
instance was unloaded and loaded again, keeps the B and Q that its blocks have (R341, R367) (log 125, DEDUCED). -/
def bindTo (m : Model) (c : Ctx) : Ctx :=
  let c := { c with bound := some m.num, homeSet := m.homeSet }
  if c.entries.isEmpty then { c with block := m.block, ppb := m.ppb } else c
/-- C_BIND: the context is bound to instance a_z, if it is loaded and the context is empty or bound to it (R367, R408). -/
def execCBind (o : OpC) (s : State) : Out :=
  agentWord [o.z] [o.x] [o.y] s fun s k =>
    onCtx s k o.y fun c =>
      let n := (getA k o.z).toNat
      if c.poisoned then answer s k.num o.x stPoison
      else
        match if accepted s k.tenant 5 then modelOf s k.tenant n else none with
        | none => answer s k.num o.x stNoModel
        | some m =>
          if !c.bytes.isEmpty && c.bound.any (· != n) then answer s k.num o.x stBound
          else answer (putCtx s (bindTo m c)) k.num o.x stOk
/-- C_GRAM: the context's grammar becomes number a_z[15:0] of its model, in state 0 with an empty stack; 0xFFFF removes it
(R368). -/
def execCGram (o : OpC) (s : State) : Out :=
  agentWord [o.z] [o.x] [o.y] s fun s k =>
    onCtx s k o.y fun c =>
      let g := (getA k o.z).toNat % 65536
      let off := o.imm.toNat % 65536
      let units := o.imm.toNat / 65536
      if g == 0xFFFF && o.imm != 0 then .next (agentTrap s k trapAill)
      else if g != 0xFFFF && (units == 0 || 1024 < units || !(amRange (BitVec.ofNat 64 off) (64 * units) 8)) then
        .next (agentTrap s k trapAmem)
      else if c.poisoned then answer s k.num o.x stPoison
      else
        match boundModel s c with
        | none => answer s k.num o.x stUnbound
        | some m =>
          if g == 0xFFFF then answer (putCtx s { c with gram := none }) k.num o.x stOk
          else if m.grams.length ≤ g then answer s k.num o.x stNoGram
          else answer (putCtx s { c with gram := some { num := g, off := off, units := units } }) k.num o.x stOk
/-- Whether an FP32 code is finite. -/
def isFinite32 (c : W32) : Bool := c.toNat / 2 ^ 23 % 256 != 255
/-- Whether a sampler block passes the checks of R369. -/
def sampOk (p : Samp) : Bool :=
  let nonNeg (c : W32) : Bool := isFinite32 c && (c.toNat < 2 ^ 31 || c.toNat == 2 ^ 31)
  p.res == 0 && isFinite32 p.temp && 0 < p.temp.toNat && p.temp.toNat < 2 ^ 31 && 0 < p.topP.toNat &&
    p.topP.toNat ≤ 0x3F800000 && p.topK.toNat ≤ 2 ^ 20 && nonNeg p.eps && nonNeg p.delta
/-- C_SAMP: the 32 bytes at a_y become the agent's sampler block, if they pass (R369). -/
def execCSamp (o : OpC) (s : State) : Out :=
  agentWord [o.y] [o.x] [] s fun s k =>
    if !(amRange (getA k o.y) 32 8) then .next (agentTrap s k trapAmem)
    else
      if !(amServed s k (getA k o.y) 32) then .next s
      else
      match amRead s k (getA k o.y) 32 with
      | none => .next (agentTrap s k trapAmem)
      | some (s, bs) =>
        if sampOk (sampOf bs) then answer (putSlot s { k with samp := sampOf bs }) k.num o.x stOk
        else answer s k.num o.x stBadSamp

end Sys2Proof.Machine
end

