-- ==== Sys2Proof/Machine/Grammar.lean ====
section
/-! DEFINITION. Entries of appended bytes, grammar walks, the choice of an emission, typical acceptance and rotary angles
(R355, R387 to R395). -/

namespace Sys2Proof.Machine

/-! ### Entries (R387) -/

/-- The longest emission that begins some bytes, the lowest index among equals: length and index. -/
def bestMatch (emits : List (List Byte)) (bs : List Byte) : Option (Nat × Nat) :=
  emits.zipIdx.foldl (init := none) fun best e =>
    let n := e.1.length
    if n != 0 && bs.take n == e.1 && (match best with
      | none => true
      | some b => b.1 < n) then some (n, e.2) else best
/-- The division of bytes into entries; fuel is their number. -/
def divideFrom (emits : List (List Byte)) : Nat → List Byte → List Entry
  | 0, _ => []
  | fuel + 1, bs =>
    if bs.isEmpty then []
    else
      match bestMatch emits bs with
      | none => { len := 1 } :: divideFrom emits fuel (bs.drop 1)
      | some (n, e) => { len := n, em := some e } :: divideFrom emits fuel (bs.drop n)
/-- The division of the bytes of one append (R387). -/
def divideBytes (emits : List (List Byte)) (bs : List Byte) : List Entry := divideFrom emits bs.length bs
/-- The entries that end at or below position 2^24, and whose index is below it (R340). -/
def fitting (pos idx : Nat) : List Entry → List Entry
  | [] => []
  | e :: es => if pos + e.len ≤ 2 ^ 24 && idx < 2 ^ 24 then e :: fitting (pos + e.len) (idx + 1) es else []

/-! ### Grammar tables and nodes (R391, R392) -/

/-- A grammar table's header. -/
structure GTab where
  va : Word := 0
  states : Nat := 0
  classes : Nat := 1
  nret : Nat := 0
  oact : Nat := 0
  oret : Nat := 0
  cmap : List Nat := []
deriving DecidableEq, Repr

/-- An n-byte number of a tenant's memory; 0 where it cannot be read. -/
def readNum (s : State) (v : Nat) (va : Word) (n : Nat) : Nat :=
  match partRead s v va n with
  | .error _ => 0
  | .ok r => ofBytes r.2
/-- Whether a grammar table of a tenant keeps the limits of R391, with the state count of its manifest: the runtime refuses an
image whose table has a wrong magic or a reserved field set. -/
def tableOk (s : State) (v : Nat) (g : Word × Nat) : Bool :=
  let rd (off n : Nat) : Nat := readNum s v (g.1 + BitVec.ofNat 64 off) n
  let classes := rd 8 2
  let act (j : Nat) : Nat := rd (rd 16 4 + 8 * j) 8
  g.1.toNat % 8 == 0 && rd 0 4 == 0x4D524750 && rd 4 4 == g.2 && 1 ≤ g.2 && g.2 ≤ 2 ^ 20 && 1 ≤ classes && classes ≤ 256 &&
    rd 10 2 == 0 && rd 12 4 ≤ 65536 && rd 16 4 % 8 == 0 && rd 20 4 % 4 == 0 &&
    (List.range 5).all (fun j => rd (0x18 + 8 * j) 8 == 0) && (List.range 256).all (fun y => rd (0x40 + y) 1 < classes) &&
    (List.range (g.2 * classes)).all (fun j => fieldOf (act j) 36 26 == 0) &&
    (List.range (rd 12 4)).all fun r => fieldOf (rd (rd 20 4 + 4 * r) 4) 20 12 == 0
/-- The table of a grammar of a model. -/
def gramTable (s : State) (m : Model) (num : Nat) : GTab :=
  let va := (m.grams.getD num (0, 0)).1
  let rd (off n : Nat) : Nat := readNum s m.tenant (va + BitVec.ofNat 64 off) n
  { va := va, states := rd 4 4, classes := rd 8 2, nret := rd 12 4, oact := rd 16 4, oret := rd 20 4,
    cmap := (List.range 256).map fun y => rd (0x40 + y) 1 }
/-- A grammar node: its number, return index, parent and depth. -/
structure GNode where
  idx : Nat := 0
  sym : Nat := 0
  parent : Nat := 0
  depth : Nat := 0
deriving DecidableEq, Repr
/-- What a walk runs in: the agent, its grammar and table, and the live nodes of the stack area. -/
structure WalkEnv where
  tenant : Nat := 0
  area : Word := 0
  units : Nat := 1
  tab : GTab := {}
  live : List Nat := []
deriving DecidableEq, Repr
/-- A node of the area in agent memory. -/
def nodeAt (s : State) (v : Nat) (area : Word) (i : Nat) : GNode :=
  let n := readNum s v (area + BitVec.ofNat 64 (16 * i)) 16
  { idx := i, sym := fieldOf n 0 16, parent := fieldOf n 16 12, depth := fieldOf n 32 9 }
/-- The nodes reachable from a stack reference; a stack is at most 256 deep. -/
def chainOf (s : State) (v : Nat) (area : Word) : Nat → Nat → List Nat
  | 0, _ => []
  | fuel + 1, t => if t == 0 then [] else t :: chainOf s v area fuel (nodeAt s v area t).parent
/-- The stack area of a context's grammar. -/
def areaOf (k : Slot) (g : Gram) : Word := k.ramem + BitVec.ofNat 64 g.off
/-- The live nodes of an area: those of the contexts whose grammar uses it, those made by the walks of this step, each given as
area and node, and those of the round of the agent's `c.spec` (R392). -/
def liveNodes (s : State) (k : Slot) (area : Word) (made : List (Word × Nat)) : List Nat :=
  (s.ctx.ctxs.flatMap fun c => match c.gram with
    | none => []
    | some g => if c.slot == k.num && areaOf k g == area then chainOf s k.tenant area 256 g.ref else []) ++
    (made.filter fun e => e.1 == area).map (·.2) ++ match k.long with
      | none => []
      | some l => if (ctxOf s k.num l.o.y.toNat).any fun c => c.gram.any fun g => areaOf k g == area then l.nodes else []

/-! ### Walks (R393) -/

/-- A walk so far: the state, the stack reference and the nodes that it made. -/
structure Walk where
  g : Nat := 0
  t : Nat := 0
  new : List GNode := []
deriving DecidableEq, Repr
/-- A node, made by the walk or in the area (log 82, DEDUCED). -/
def walkNode (s : State) (e : WalkEnv) (w : Walk) (i : Nat) : GNode :=
  (w.new.find? fun n => n.idx == i).getD (nodeAt s e.tenant e.area i)
/-- One byte of a walk. -/
def walkByte (s : State) (e : WalkEnv) (w : Walk) (y : Byte) : Option Walk :=
  let cls := e.tab.cmap.getD y.toNat 0
  let a := readNum s e.tenant (e.tab.va + BitVec.ofNat 64 (e.tab.oact + 8 * (w.g * e.tab.classes + cls))) 8
  let next := fieldOf a 0 20
  let r : Option Walk := match fieldOf a 62 2 with
    | 0 => none
    | 1 => some { w with g := next }
    | 2 =>
      let d := if w.t == 0 then 0 else (walkNode s e w w.t).depth
      let free := (rangeFrom 1 (4 * e.units - 1)).find? fun i => !(e.live.contains i) && !(w.new.any fun n => n.idx == i)
      if d == 256 then none
      else free.map fun i =>
        { g := next, t := i, new := w.new ++ [{ idx := i, sym := fieldOf a 20 16, parent := w.t, depth := d + 1 }] }
    | _ =>
      if w.t == 0 then none
      else
        let n := walkNode s e w w.t
        if e.tab.nret ≤ n.sym then none
        else
          let ret := readNum s e.tenant (e.tab.va + BitVec.ofNat 64 (e.tab.oret + 4 * n.sym)) 4
          some { w with g := fieldOf ret 0 20, t := n.parent }
  r.filter fun w => w.g < e.tab.states
/-- The walk of an emission's bytes. -/
def walkBytes (s : State) (e : WalkEnv) (w : Walk) (bs : List Byte) : Option Walk := bs.foldlM (walkByte s e) w
/-- Whether no byte would succeed (R393). -/
def isTerminal (s : State) (e : WalkEnv) (g t : Nat) : Bool :=
  (List.range 256).all fun y => (walkByte s e { g := g, t := t } (BitVec.ofNat 8 y)).isNone
/-- Write the nodes that a walk made; none where the area cannot be written. -/
def writeNodes (s : State) (k : Slot) (off : Nat) (l : List GNode) : Option State :=
  l.foldlM (init := s) fun s n =>
    amWrite s k (BitVec.ofNat 64 (off + 16 * n.idx)) (toBytes 16 (n.sym + n.parent * 2 ^ 16 + n.depth * 2 ^ 32))
/-- What a walk of a context runs in. -/
def walkEnv (s : State) (k : Slot) (m : Model) (g : Gram) (made : List (Word × Nat)) : WalkEnv :=
  { tenant := k.tenant, area := areaOf k g, units := g.units, tab := gramTable s m g.num,
    live := liveNodes s k (areaOf k g) made }

/-! ### Choosing an emission (R389, R390) -/

/-- The factor c of a temperature (R389). -/
def tempFactor (temp : W32) : Nat := max 1 (min (r32 (valDiv (v32 0x3FB8AA3B) (v32 temp.toNat))).1 0x7F7FFFFF)
/-- Draw d of a row under a mask; none where no emission is eligible (R332, R333). -/
def drawRow (zs : List Nat) (p : Samp) (key : W32) (pos d : Nat) (masked : Nat → Bool) : Option Nat :=
  let all := (weighted (tempFactor p.temp) (eligibleOf zs masked)).1
  if all.isEmpty then none
  else
    let e := (drawOf (within all (membersOf all p.topK.toNat p.topP.toNat).1) (drawU p.seed key pos d)).1
    if e == 0xFFFFFFFF then none else some e
/-- A seat as the grammar unit sees it. -/
structure Choice where
  zs : List Nat := []
  samp : Samp := {}
  key : W32 := 0
  pos : Nat := 0
  emits : List (List Byte) := []
deriving DecidableEq, Repr
/-- The emissions whose walk fails. -/
def fullMask (s : State) (e : WalkEnv) (w : Walk) (c : Choice) : List Nat :=
  (List.range c.emits.length).filter fun j => (walkBytes s e w (c.emits.getD j [])).isNone
/-- The resamples of R390, from a draw and the mask as it stands: the emission chosen and its walk, none where the grammar
admits none; and the mask that is left. -/
def chooseGo (s : State) (e : WalkEnv) (w : Walk) (c : Choice) : Nat → Nat → List Nat → Option Nat → Option (Nat × Walk) × List Nat
  | 0, _, mask, _ => (none, mask)
  | _, _, mask, none => (none, mask)
  | fuel + 1, d, mask, some em =>
    match walkBytes s e w (c.emits.getD em []) with
    | some w' => (some (em, w'), mask)
    | none =>
      let mask := if d + 1 == 9 then fullMask s e w c else mask ++ [em]
      chooseGo s e w c fuel (d + 1) mask (drawRow c.zs c.samp c.key c.pos (d + 1) (mask.contains ·))
/-- The choice of R390 from the mask of the work area and the result of draw 0. -/
def chooseEmission (s : State) (e : WalkEnv) (w : Walk) (c : Choice) (mask : List Nat) (e0 : Option Nat) :
    Option (Nat × Walk) × List Nat :=
  chooseGo s e w c 11 0 mask e0

/-! ### Typical acceptance (R395) -/

/-- Log2 and Exp2 of FP32 codes (R56). -/
def log32 (c : Nat) : Nat := (sfu .log2 .fp32 c).1
/-- −x of an FP32 code. -/
def neg32 (c : Nat) : Nat := if 2 ^ 31 ≤ c then c - 2 ^ 31 else c + 2 ^ 31
/-- An FP32 product and quotient. -/
def mul32 (a b : Nat) : Nat := (r32 (valMul (v32 a) (v32 b))).1
/-- An FP32 quotient. -/
def div32 (a b : Nat) : Nat := (r32 (valDiv (v32 a) (v32 b))).1
/-- prob(e) of each emission, in place of its weight. -/
def probsOf (all : List Cand) : List Cand :=
  let m := (massOf all).1
  all.map fun a => { a with w := div32 a.w m }
/-- The entropy in bits. -/
def entropyOf (probs : List Cand) : Nat :=
  (massOf (probs.map fun a => { a with w := if valIsZero (v32 a.w) then 0 else mul32 a.w (neg32 (log32 a.w)) })).1
/-- Whether an emission passes the test. -/
def typicalPass (zs : List Nat) (p : Samp) (masked : Nat → Bool) (em : Nat) : Bool :=
  let probs := probsOf (weighted (tempFactor p.temp) (eligibleOf zs masked)).1
  let d := mul32 p.delta.toNat (sfu .exp2 .fp32 (neg32 (entropyOf probs))).1
  let thr := if valCmp (v32 d) (v32 p.eps.toNat) < 0 then d else p.eps.toNat
  match probs.find? fun a => a.e == em with
  | none => false
  | some a => 0 < valCmp (v32 a.w) (v32 thr)

/-! ### Rotary angles (R355) -/

/-- A value between 0 and 1 as its correctly rounded FP32 code (R56) (log 6, DEDUCED). -/
def rotCode (v : Int) : Nat := (rne .fp32 (apVal v (-(fracBits : Int)))).1
/-- −x with −0 as +0. -/
def negZ (c : Nat) : Nat := if c == 0 then 0 else neg32 c
/-- The pair (cos, sin) of an entry index and a frequency word. -/
def rotaryPair (p : Nat) (w : Word) : Nat × Nat :=
  let ph := p * (w.toNat % 2 ^ 48) % 2 ^ 48
  let qd := ph / 2 ^ 46
  let r : Nat := ph % 2 ^ 46
  let alpha : Int := fxPi / 2 * (r : Int) / 2 ^ 46
  let c0 := if r == 0 then 0x3F800000 else rotCode (fxCos alpha)
  let s0 := if r == 0 then 0 else rotCode (fxSin alpha)
  match qd with
  | 0 => (c0, s0)
  | 1 => (negZ s0, c0)
  | 2 => (negZ c0, negZ s0)
  | _ => (s0, negZ c0)

end Sys2Proof.Machine
end

