-- ==== Sys2Proof/Machine/Long.lean ====
section
/-! DEFINITION. Long instructions from issue to completion, attaching blocks of the prefix index, residency faults, and the
seats that a long instruction needs (R340, R343, R345, R350, R357, R373, R375, R377, R380 to R382, R398). -/

namespace Sys2Proof.Machine

/-! ### Statuses (R381) -/

/-- LIMIT. -/
def lgLimit : Nat := 0x40
/-- STOP. -/
def lgStop : Nat := 0x41
/-- ACCEPT. -/
def lgAccept : Nat := 0x42
/-- POSITION_LIMIT. -/
def lgPosition : Nat := 0x43
/-- PAGE_INTEGRITY. -/
def lgIntegrity : Nat := 0x44
/-- NOMASK. -/
def lgNoMask : Nat := 0x45
/-- STEPFAIL. -/
def lgStepFail : Nat := 0x46
/-- BADARG. -/
def lgBadArg : Nat := 0x47

/-! ### Ending a long instruction (R373, R375, R380) -/

/-- The context registers that a long instruction holds (R373). -/
def longRegs (l : Long) : List Nat := if l.prog.op == 0x64 then [l.o.y.toNat, l.o.z.toNat] else [l.o.y.toNat]
/-- Record a long instruction's progress in the contexts that it runs on (R363, R380). -/
def noteProg (s : State) (n : Nat) (l : Long) (p : Prog) : State :=
  setCtx s { s.ctx with
    ctxs := updWhere (fun c => c.slot == n && (longRegs l).contains c.reg) (fun c => { c with prog := some p }) s.ctx.ctxs }
/-- Replace a slot's long instruction. -/
def putLong (s : State) (n : Nat) (l : Long) : State :=
  putSlot (noteProg s n l l.prog) { slotAt s n with long := some l, lpc := lpcOf l }
/-- The number of the highest score, ties to the lower; a score is an FP32 code. -/
def bestScore (l : List (Option W32)) : Nat :=
  (l.zipIdx.foldl (init := ((none : Option Nat), 0)) fun best e =>
    let key := orderKey ((e.1.map (·.toNat)).getD 0)
    if best.1.all fun b => b < key then (some key, e.2) else best).2
/-- The results that a long instruction writes to agent memory (R382). -/
def longResults (l : Long) : List Byte :=
  let code (w : Option W32) : List Byte := toBytes 4 ((w.map (·.toNat)).getD 0)
  if l.prog.op == 0x62 then code (l.sums.getD 0 none) ++ toBytes 4 (l.used.getD 0 (0, 0)).2
  else if l.prog.op == 0x63 then toBytes 4 (bestScore l.sums) ++ l.sums.flatMap code
  else []
/-- End a long instruction: its results, where the status says that it ran, then its status, which clears the pending bit.
A fault of the results' write is owed as AMEM (R375). A reset abandons it, and nothing of it is written (R372). -/
def endLong (s : State) (n : Nat) (l : Long) (status : Nat) : State :=
  let k := slotAt s n
  let ran := (status == 0 || status == lgPosition) && !k.rst
  let bs := if ran then longResults l else []
  let (s, bad) := if bs.isEmpty then (s, false) else match amWrite s k (l.o.imm.setWidth 64) bs with
    | none => (s, true)
    | some s => (s, false)
  let p := { l.prog with status := status, fin := true, resume := false }
  let k := slotAt s n
  let k := { (if k.rst then k else setA k l.o.x (BitVec.ofNat 64 status)) with
    pend := k.pend &&& ~~~((1 : BitVec 16) <<< l.o.x.toNat), long := none, lpc := p.lpc, owed := k.owed || bad }
  let k := if k.st == .stopping then { k with st := .stopped } else k
  sweepPages (putSlot (noteProg s n l p) k) k.tenant

/-! ### Residency (R345, R349 to R351, R377) -/

/-- Whether a step can use a page (R342, R398, R399). -/
def usable (s : State) (v num : Nat) : Bool :=
  match pageAt s v num with
  | none => false
  | some p => p.st == .resident || (p.st == .twilight && !((forPinPages s v).contains num))
/-- The contexts that an agent's long instruction uses. -/
def longCtxs (s : State) (n : Nat) (l : Long) : List Ctx := (longRegs l).filterMap fun r => ctxOf s n r
/-- The pages that a long instruction needs and cannot use. -/
def missing (s : State) (n : Nat) (l : Long) : List Nat :=
  ((longCtxs s n l).flatMap fun c => (pagesOf c.blocks).filter fun p => !(usable s c.tenant p)).eraseDups
/-- Whether a long instruction waits only for the step batcher: its agent runs, or the round that it is in has to end, and it is
neither suspended nor seated. -/
def isWaiting (s : State) (k : Slot) (l : Long) : Bool := (k.st == .running || midRound k) && !l.susp && !(isSeated s k.num)
/-- Attach the blocks of the prefix index that the remaining bytes of an append match; fuel bounds them (R345). -/
def attachFrom (s : State) (m : Model) : Nat → Ctx → Long → State × Ctx × Long
  | 0, c, l => (s, c, l)
  | fuel + 1, c, l =>
    let p := c.entries.length
    let es := (fitting c.bytes.length p (divideBytes m.emits l.data)).take m.block
    let n := entriesLen es
    let bytes := c.bytes ++ l.data.take n
    let lens := (c.entries ++ es).map (·.len)
    if p % m.block != 0 || es.length != m.block || c.blocks.length != p / m.block then (s, c, l)
    else
      match s.ctx.pfx.find? fun e => e.tenant == c.tenant && e.model == m.num && e.block == p / m.block && e.bytes == bytes &&
          e.lens == lens with
      | none => (s, c, l)
      | some e =>
        let s := e.pages.foldl (fun s n => cancelTwilight s c.tenant n) s
        let c := { c with bytes := bytes, entries := c.entries ++ es, blocks := c.blocks ++ [e.pages], first := c.first ++ [e.first] }
        let l := { l with data := l.data.drop n
                          prog := { l.prog with done := l.prog.done + n, pos := bytes.length, entry := c.entries.length } }
        attachFrom s m fuel c l
/-- Whether a long instruction is appending bytes that it holds. -/
def isAppend (l : Long) : Bool := l.prog.op == 0x60 || (l.prog.op == 0x62 && l.o.m.getLsbD 0) || l.appending
/-- Carry on an append between two commits: attach what the index holds, and end where nothing is left or nothing fits
(R340, R345, R382). -/
def settleAppend (s : State) (n : Nat) : State :=
  let k := slotAt s n
  match k.long with
  | none => s
  | some l =>
    match ctxOf s n l.o.y.toNat with
    | none => s
    | some c =>
      match boundModel s c with
      | none => s
      | some m =>
        if !(isAppend l) then s
        else
          let (s, c, l) := if l.prog.op == 0x62 then (s, c, l) else attachFrom s m l.data.length c l
          let s := putLong (putCtx s c) n l
          if l.data.isEmpty then (if (pagesOf c.blocks).all (usable s k.tenant) then endLong s n l 0 else s)
          else if (fitting c.bytes.length c.entries.length (divideBytes m.emits l.data)).isEmpty then endLong s n l lgPosition
          else s

/-! ### Issue (R373, R375, R382) -/

/-- What a long instruction's issue comes to: its operands cannot be read yet, a trap, an end at once, or its start. -/
inductive LongIssue where
  | waits
  | trap (code : W32)
  | status (s : State) (n : Nat)
  | go (s : State) (l : Long)
deriving DecidableEq, Repr
/-- The long instruction that a word begins, before its operands. -/
def freshLong (o : OpC) (op : Nat) (k : Slot) (c : Ctx) : Long :=
  { o := o, prog := { op := op, lpc := k.pc, samp := k.samp, pos := c.bytes.length, entry := c.entries.length
                      ref := (c.gram.map (·.ref)).getD 0, gstate := (c.gram.map (·.state)).getD 0 } }
/-- The status of a context on which no long instruction runs (R354, R382), or the rest of the checks. -/
def needBound (s : State) (c : Ctx) (f : Model → LongIssue) : LongIssue :=
  if c.poisoned then .status s lgIntegrity
  else
    match boundModel s c with
    | none => .status s 1
    | some m => f m
/-- Read bytes of agent memory at issue: it waits for the releases there, and a fault takes AMEM (R259, R375). -/
def amBytes (s : State) (k : Slot) (off : Word) (n : Nat) : Except LongIssue (State × List Byte) :=
  if !(amServed s k off n) then .error .waits
  else
    match amRead s k off n with
    | none => .error (.trap trapAmem)
    | some r => .ok r
/-- Read an operand range of agent memory, if its length is within a limit; AMEM where it does not lie there. -/
def amOperand (s : State) (k : Slot) (off : Word) (n limit align : Nat) (f : State → List Byte → LongIssue) : LongIssue :=
  if n == 0 || limit < n then f s []
  else if !(amRange off n align) then .trap trapAmem
  else
    match amBytes s k off n with
    | .error r => r
    | .ok (s, bs) => f s bs
/-- Whether n bytes can be written at a result offset. -/
def resultOk (s : State) (k : Slot) (o : OpC) (n : Nat) : Bool :=
  amRange (o.imm.setWidth 64) n 8 && amMapped s k (o.imm.setWidth 64) true
/-- Whether no entry can follow the last of a context (R340). -/
def ctxFull (c : Ctx) : Bool := 2 ^ 24 ≤ c.bytes.length || 2 ^ 24 ≤ c.entries.length
/-- The strings of a stop list, from the bytes that follow its count: none is a malformed list, and an error one that goes on
past the bytes (R382). -/
def parseStops : Nat → List Byte → Except Unit (Option (List (List Byte)))
  | 0, _ => .ok (some [])
  | n + 1, bs =>
    match bs with
    | [] => .error ()
    | len :: rest =>
      if len == 0 then .ok none
      else if rest.length < len.toNat then .error ()
      else (parseStops n (rest.drop len.toNat)).map fun l => l.map fun l => rest.take len.toNat :: l
/-- Read a stop list, if the form has one: one that goes on past the end of agent memory takes AMEM, and one of more than 512
bytes is malformed. -/
def stopOperand (s : State) (k : Slot) (o : OpC) (want : Bool) (f : State → Option (List (List Byte)) → LongIssue) :
    LongIssue :=
  let n := min 512 (65536 - o.imm.toNat)
  if !want then f s (some [])
  else if !(amRange (o.imm.setWidth 64) 1 8) then .trap trapAmem
  else
    match amBytes s k (o.imm.setWidth 64) n with
    | .error r => r
    | .ok (s, bs) =>
      let cnt := (bs.getD 0 0).toNat
      if cnt == 0 || 16 < cnt then f s none
      else
        match parseStops cnt (bs.drop 1) with
        | .ok l => f s l
        | .error () => if n < 512 then .trap trapAmem else f s none
/-- Read the alternatives of a table: their bytes, none where a length breaks its limit. -/
def readAlts (k : Slot) : List (Nat × Nat) → State → Except LongIssue (State × Option (List (List Byte)))
  | [], s => .ok (s, some [])
  | (off, n) :: rest, s =>
    if n == 0 || 65536 < n then .ok (s, none)
    else if !(amRange (BitVec.ofNat 64 off) n 1) then .error (.trap trapAmem)
    else do
      let (s, bs) ← amBytes s k (BitVec.ofNat 64 off) n
      let (s, l) ← readAlts k rest s
      return (s, l.map fun l => bs :: l)
/-! ### Seats (R343, R377, R398) -/

/-- A seat as a long instruction asks for it: the entries from p on that the step program writes up to `last`, over the
blocks of `base`; a private seat never writes a page that any context holds. -/
structure SeatWant where
  kind : Nat := 0
  alt : Nat := 0
  p : Nat := 0
  pos : Nat := 0
  count : Nat := 1
  last : Nat := 0
  bytes : List Byte := []
  entries : List Entry := []
  base : List (List Nat) := []
  first : List Nat := []
  priv : Bool := false
deriving DecidableEq, Repr
/-- The entries of the next chunk: up to 256; a prefill chunk ends on a block boundary when one falls inside (R377)
(log 77, DEDUCED). -/
def chunkOf (kind block p : Nat) (es : List Entry) : List Entry :=
  let m := min 256 es.length
  let b := (p + m) / block * block
  es.take (if kind == 1 && p < b then b - p else m)
/-- The seat of a chunk of bytes that start at an entry and a position. -/
def chunkWant (m : Model) (c : Ctx) (kind alt p pos : Nat) (bs : List Byte) (priv : Bool) : SeatWant :=
  let es := chunkOf kind m.block p (fitting pos p (divideBytes m.emits bs))
  { kind := kind, alt := alt, p := p, pos := pos, count := es.length, last := p + es.length - 1
    bytes := bs.take (entriesLen es), entries := es, base := c.blocks, first := c.first, priv := priv }
/-- Depth and chains of a `c.spec`. -/
def specShape (o : OpC) : Nat × Nat := (o.m.toNat % 16 + 1, o.m.toNat / 16 % 4 + 1)
/-- Whether a `c.spec` has drafted its levels and waits for verification. -/
def drafted (l : Long) : Bool := (specShape l.o).1 ≤ (l.chains.getD 0 []).length
/-- The bytes of an emission of a model. -/
def emBytes (m : Model) (e : Nat) : List Byte := m.emits.getD e []
/-- The context whose instance seats a long instruction next, and its model. -/
def seatCtx (s : State) (n : Nat) (l : Long) : Option (Ctx × Model) :=
  let r := if l.prog.op == 0x64 && !(drafted l) then l.o.z.toNat else l.o.y.toNat
  (ctxOf s n r).bind fun c => (boundModel s c).map fun m => (c, m)
/-- The seats that a long instruction needs in its next step. -/
def wantsOf (s : State) (n : Nat) (l : Long) : List SeatWant :=
  match seatCtx s n l with
  | none => []
  | some (c, m) =>
    let p := c.entries.length
    let pos := c.bytes.length
    if isAppend l then (if l.data.isEmpty then [] else [chunkWant m c 1 0 p pos l.data false])
    else if l.prog.op == 0x61 then [{ p := p, pos := pos, last := p, base := c.blocks, first := c.first }]
    else if l.prog.op == 0x62 then
      let u := l.used.getD 0 (0, 0)
      [chunkWant m c 2 0 (p + u.2) (pos + u.1) l.data false]
    else if l.prog.op == 0x63 then
      (l.alts.zipIdx.map fun e =>
        let u := l.used.getD e.2 (0, 0)
        chunkWant m c 2 e.2 (p + u.2) (pos + u.1) (e.1.drop u.1) true).filter fun w => 0 < w.count
    else if drafted l then
      let (d, w) := specShape l.o
      [{ kind := 4, p := p, pos := pos, count := w * d, last := p + d - 1, base := c.blocks, first := c.first }]
    else
      (List.range (specShape l.o).2).map fun j =>
        let ch := l.chains.getD j []
        let q := p + ch.length
        { kind := 3, alt := j, p := q, pos := pos + (ch.map fun e => (emBytes m e).length).sum, last := q
          base := l.tent.getD j c.blocks
          first := c.first ++ List.replicate ((l.tent.getD j c.blocks).length - c.first.length) (tableIndex c), priv := true }
/-- The seats that a long instruction is charged per step (R377). -/
def seatCharge (l : Long) (ws : List SeatWant) : Nat :=
  if l.prog.op == 0x63 && !l.appending then l.alts.length
  else if l.prog.op == 0x64 && drafted l then (specShape l.o).1 * (specShape l.o).2
  else ws.length
/-- Whether a seat's write to a page must go to a copy (R343). -/
def mustCopy (s : State) (v : Nat) (priv : Bool) (num : Nat) : Bool :=
  isShared s v num || (priv && 0 < refCount s v num)
/-- The blocks that a seat touches from its first entry on, each with whether it is a copy or new. -/
def newBlocks (s : State) (v : Nat) (m : Model) (w : SeatWant) : List (Nat × Bool) :=
  let lo := min (w.p / m.block) w.base.length
  ((rangeFrom lo (w.last / m.block + 1 - lo)).map fun b => (b, decide (b < w.base.length))).filter fun e =>
    if e.2 then w.p / m.block ≤ e.1 && (w.base.getD e.1 []).any (mustCopy s v w.priv) else true
/-- A page that a seat needs made: the seat's number of its own, the block, the page of the block, its home, and the page that
it is a copy of. -/
structure PageNeed where
  alt : Nat := 0
  block : Nat := 0
  q : Nat := 0
  home : Nat := 0
  src : Option Nat := none
deriving DecidableEq, Repr
/-- The context that first wrote a block of a seat. -/
def firstOf (c : Ctx) (w : SeatWant) (e : Nat × Bool) : Nat := if e.2 then w.first.getD e.1 (tableIndex c) else tableIndex c
/-- The pages that a seat needs made: copies, or pages of zeros; page 0 of a block first (R343, R398). -/
def needsOf (s : State) (c : Ctx) (m : Model) (w : SeatWant) : List PageNeed :=
  (newBlocks s c.tenant m w).flatMap fun e => (List.range m.ppb).map fun q =>
    { alt := w.alt, block := e.1, q := q, home := homeOf m.homeSet (firstOf c w e) e.1
      src := if e.2 then (w.base.getD e.1 [])[q]? else none }
/-- Where a page made for a seat stands: the seat's number, the block and the page of the block. -/
def needKey (n : PageNeed) : Nat × Nat × Nat := (n.alt, n.block, n.q)
/-- The pages that a long instruction needs made for its next seats and that are not made yet. -/
def unmade (s : State) (n : Nat) (l : Long) : List PageNeed :=
  match seatCtx s n l with
  | none => []
  | some (c, m) => ((wantsOf s n l).flatMap (needsOf s c m)).filter fun e => !(l.made.any fun x => x.1 == needKey e)
/-- Make pages while frames are free (R398). -/
def makePages (s : State) (v : Nat) (l : Long) : List PageNeed → State × Long
  | [] => (s, l)
  | e :: es =>
    let (s', cells) := match e.src.bind (pageAt s v) with
      | none => (s, [])
      | some p => frameCells s p.pa
    match makePage s' v e.home cells with
    | none => (s, l)
    | some (s', num) => makePages s' v { l with made := l.made ++ [(needKey e, num)] } es
/-- The blocks of a seat, with the pages made for it, and the context that first wrote each (log 81, DEDUCED). -/
def giveBlocks (s : State) (c : Ctx) (m : Model) (l : Long) (w : SeatWant) : List (List Nat) × List Nat :=
  (newBlocks s c.tenant m w).foldl (init := (w.base, w.first)) fun st e =>
    let ns := (List.range m.ppb).map fun q => ((l.made.find? fun x => x.1 == (w.alt, e.1, q)).map (·.2)).getD 0
    if e.2 then (st.1.set e.1 ns, st.2) else (st.1 ++ [ns], st.2 ++ [firstOf c w e])

/-! ### Waiting for a step (R350, R351, R377, R380, R411) -/

/-- Whether a template's launch needs a cluster of the partition (R411). -/
def needsCluster (s : State) (v : Nat) (ws : List Word) (c : Nat) : Bool :=
  let bs := ws.flatMap fun w => toBytes 8 w.toNat
  let l := readRecord bs
  match readGraph s v (BitVec.ofNat 64 (rd64 bs 0)) with
  | .ok _ g _ =>
    let part := (tenantOf s v).clmask
    hasOpen { l with graph := g, part := part, counts := l.levels.map (·.max) } (some c)
  | _ => false
/-- The launch templates of a model whose actor lists name its step or its prefill actor (R397). -/
def stepTemplates (m : Model) : List (List Word) :=
  (m.templates.zip m.lists).filterMap fun t => if t.2.contains m.step || t.2.contains m.prefill then some t.1 else none
/-- Whether the steps of a model instance wait because its tenant is saved on a cluster that they need (R411). -/
def heldBySave (s : State) (m : Model) : Bool :=
  s.saved.any fun x => x.v == m.tenant && x.c < 1024 && (stepTemplates m).any fun t => needsCluster s m.tenant t x.c
/-- Ask for the absent pages that a waiting long instruction needs; its resume bit is set (R350, R351, R380). -/
def faultOn (s : State) (k : Slot) (l : Long) (want : List Nat) : State :=
  let new := want.filter fun p => pageSt s k.tenant p == .absent && !(s.ctx.faults.contains (k.tenant, p))
  let s := setCtx s { s.ctx with faults := s.ctx.faults ++ new.map fun p => (k.tenant, p) }
  putLong s k.num { l with prog := { l.prog with resume := true } }
/-- What a boundary does to a long instruction that waits for a step: one whose pages are absent takes a residency fault; one
whose instance waits for a saved tenant is suspended; and the pages that the others need are made, unless a pin waits for
frames, the resume bit being set where a copy must wait (R343, R351, R380, R398). -/
def boundaryOn (s : State) (n : Nat) : State :=
  let k := slotAt s n
  match k.long with
  | none => s
  | some l =>
    if !(isWaiting s k l) then s
    else
      let want := missing s n l
      if !want.isEmpty then faultOn s k l want
      else if (seatCtx s n l).any fun e => heldBySave s e.2 then (if midRound k then s else faultOn s k l [])
      else if pinNeed s k.tenant != 0 then s
      else
        let keys := (unmade s n { l with made := [] }).map needKey
        let (s, l) := makePages s k.tenant { l with made := l.made.filter fun x => keys.contains x.1 } (unmade s n l)
        let l := { l with prog := { l.prog with resume := l.prog.resume || (unmade s n l).any (·.src.isSome) } }
        sweepPages (putLong s n l) k.tenant
/-- The boundary that each waiting long instruction stands at: those with pages made for them come first. -/
def takeFaults (s : State) : State :=
  let made (k : Slot) : Bool := k.long.any fun l => !l.made.isEmpty
  ((s.slots.filter made) ++ s.slots.filter fun k => !(made k)).foldl (fun s k => boundaryOn s k.num) s

/-! ### The words (R382) -/

/-- Issue a long instruction: it holds its contexts and sets the pending bit of a_x, unless it ends at once. -/
def longWord (o : OpC) (op : Nat) (rd cs : List (BitVec 4)) (s : State) (f : State → Slot → Ctx → Long → LongIssue) : Out :=
  agentWord rd [o.x] cs s fun s k =>
    if k.long.isSome then .next s
    else
      onCtx s k o.y fun c =>
        let l := freshLong o op k c
        let go (s : State) (l : Long) : State :=
          putLong (putSlot s (pastWord { k with pend := k.pend ||| ((1 : BitVec 16) <<< o.x.toNat), long := some l })) k.num l
        match f s k c l with
        | .waits => .next s
        | .trap t => .next (agentTrap s k t)
        | .status s n => .next (endLong (go s l) k.num l n)
        | .go s l => .next (takeFaults (settleAppend (go s l) k.num))
/-- C_APP: bytes of agent memory, normalised unless raw, are appended (R382, R386). -/
def execCApp (o : OpC) (s : State) : Out :=
  longWord o 0x60 [o.z, o.w] [o.y] s fun s k c l =>
    let n := (getA k o.w).toNat
    amOperand s k (getA k o.z) n 65536 1 fun s bs =>
      needBound s c fun _ =>
        if bs.isEmpty then .status s lgBadArg
        else
          let out := if o.m.getLsbD 2 then bs
            else (normText (textSet s k.tenant (o.m.toNat % 4)) (o.m.getLsbD 3) (2 ^ 24) bs).1
          .go s { l with data := out, prog := { l.prog with limit := out.length } }
/-- C_GEN: emissions are appended one by one, up to the limit, a stop string or the end of the grammar (R382). -/
def execCGen (o : OpC) (s : State) : Out :=
  longWord o 0x61 [o.z] [o.y] s fun s k c l =>
    let n := (getA k o.z).toNat
    stopOperand s k o (o.m.getLsbD 0) fun s st =>
      needBound s c fun _ =>
        match st with
        | none => .status s lgBadArg
        | some stops =>
          if n == 0 || 2 ^ 24 < n then .status s lgBadArg
          else if ctxFull c then .status s lgPosition
          else .go s { l with stops := stops, prog := { l.prog with limit := n } }
/-- C_SCORE: the score of n bytes, which keep appends (R382). -/
def execCScore (o : OpC) (s : State) : Out :=
  longWord o 0x62 [o.z, o.w] [o.y] s fun s k c l =>
    let n := (getA k o.w).toNat
    amOperand s k (getA k o.z) n 65536 1 fun s bs =>
      if !(resultOk s k o 8) then .trap trapAmem
      else
        needBound s c fun _ =>
          if bs.isEmpty then .status s lgBadArg
          else if ctxFull c then .status s lgPosition
          else
            .go s { l with data := bs, used := [(0, 0)], sums := [none]
                           prog := { l.prog with limit := if o.m.getLsbD 0 then n else 0 } }
/-- C_CHOOSE: N alternatives are scored, and app appends the best (R382). -/
def execCChoose (o : OpC) (s : State) : Out :=
  longWord o 0x63 [o.z, o.w] [o.y] s fun s k c l =>
    let n := (getA k o.w).toNat
    let bad := n < 2 || 64 < n
    amOperand s k (getA k o.z) (if bad then 0 else 8 * n) 512 8 fun s tb =>
      let ents := (List.range (if bad then 0 else n)).map fun j =>
        (ofBytes ((tb.drop (8 * j)).take 4), ofBytes ((tb.drop (8 * j + 4)).take 4))
      match readAlts k ents s with
      | .error r => r
      | .ok (s, alts) =>
        if !bad && !(resultOk s k o (4 + 4 * n)) then .trap trapAmem
        else
          needBound s c fun _ =>
            match alts with
            | none => .status s lgBadArg
            | some as =>
              if bad then .status s lgBadArg
              else if ctxFull c then .status s lgPosition
              else .go s { l with alts := as, used := as.map fun _ => (0, 0), sums := as.map fun _ => none }
/-- C_SPEC: emissions in rounds, drafted on one context and verified on another (R382). -/
def execCSpec (o : OpC) (s : State) : Out :=
  longWord o 0x64 [o.w] [o.y, o.z] s fun s k c l =>
    let n := (getA k o.w).toNat
    match ctxOf s k.num o.z.toNat with
    | none => .trap trapActx
    | some d =>
      stopOperand s k o (o.m.getLsbD 6) fun s st =>
        needBound s c fun _ =>
          match st with
          | none => .status s lgBadArg
          | some stops =>
            if n == 0 || 2 ^ 24 < n || d.poisoned || (boundModel s d).isNone || d.bound == c.bound then .status s lgBadArg
            else if ctxFull c || ctxFull d then .status s lgPosition
            else .go s { l with stops := stops, prog := { l.prog with limit := n } }

end Sys2Proof.Machine
end

