-- ==== Sys2Proof/Machine/Almanac.lean ====
section
/-! DEFINITION. Which agents the next step seats, and the Almanac: next-use distances, evictions, promotions, integrity
failures and rehoming (R344, R347 to R353, R373, R377, R378, R399). -/

namespace Sys2Proof.Machine

/-! ### Filling a step (R377, R378, R398) -/

/-- A long instruction that is ready for a step, with its seats. -/
structure ReadyAgent where
  slot : Nat := 0
  tenant : Nat := 0
  cls : Nat := 0
  seated : Nat := 0
  charge : Nat := 1
  wants : List SeatWant := []
  c : Ctx := {}
deriving DecidableEq, Repr
/-- The effective class of an agent (R378). -/
def effClass (s : State) (k : Slot) : Nat :=
  k.ctl.toNat % 4 - k.waited / max 1 (fieldOf (tenantOf s k.tenant).sched.toNat 8 17)
/-- The long instructions that are ready for a step of an instance: neither suspended nor held by a saved tenant, with every
page that they need (R377, R398). -/
def readyFor (s : State) (m : Model) : List ReadyAgent :=
  if heldBySave s m then []
  else
    s.slots.filterMap fun k =>
      match k.long with
      | none => none
      | some l =>
        match seatCtx s k.num l with
        | none => none
        | some (c, mo) =>
          let ws := wantsOf s k.num l
          if mo.tenant != m.tenant || mo.num != m.num || !(isWaiting s k l) || ws.isEmpty || !(missing s k.num l).isEmpty ||
              !(unmade s k.num l).isEmpty then none
          else
            some { slot := k.num, tenant := k.tenant, cls := effClass s k, seated := k.seated, charge := seatCharge l ws
                   wants := ws, c := c }
/-- Whether one is taken before another in a visit: the least recent seating, then the lower slot. -/
def readyBefore (a b : ReadyAgent) : Bool := if a.seated != b.seated then a.seated < b.seated else a.slot < b.slot
/-- Insert into that order. -/
def insertReady (a : ReadyAgent) : List ReadyAgent → List ReadyAgent
  | [] => [a]
  | x :: xs => if readyBefore a x then a :: x :: xs else x :: insertReady a xs
/-- A step as it is being filled: the agents seated, in order, the seats left, the deficits and the tenant visited last. -/
structure Filling where
  seated : List ReadyAgent := []
  left : Nat := 2048
  deficits : List (Nat × Nat) := []
  visited : Nat := 16
deriving DecidableEq, Repr
/-- The deficit of a tenant. -/
def deficitOf (l : List (Nat × Nat)) (v : Nat) : Nat := ((l.find? fun e => e.1 == v).map (·.2)).getD 0
/-- The agents that a visit seats, in their order: an agent whose charge exceeds the free seats is passed over, and the visit
ends at the first one that the deficit does not cover. -/
def visitAgents (v : Nat) : List ReadyAgent → Filling → Filling
  | [], f => f
  | r :: rs, f =>
    let d := deficitOf f.deficits v
    if f.left < r.charge then visitAgents v rs f
    else if d < r.charge then f
    else
      visitAgents v rs { f with seated := f.seated ++ [r], left := f.left - r.charge
                                deficits := putWhere (fun e => e.1 == v) (v, d - r.charge) f.deficits }
/-- The agents of a class that are not seated and whose seats are free. -/
def unseated (cls : Nat) (ready : List ReadyAgent) (f : Filling) : List ReadyAgent :=
  ready.filter fun r => r.cls == cls && r.charge ≤ f.left && !(f.seated.any fun x => x.slot == r.slot)
/-- The tenant that is visited next: the least beyond the one visited last, or else the least. -/
def nextTenant (left : List ReadyAgent) (last : Nat) : Nat :=
  let vs := (List.range 16).filter fun v => left.any fun r => r.tenant == v
  ((vs.find? fun v => last < v).orElse fun _ => vs.head?).getD 0
/-- The visits of a class, until no ready agent of it fits; fuel bounds them. -/
def fillClass (s : State) (cls : Nat) (ready : List ReadyAgent) : Nat → Filling → Filling
  | 0, f => f
  | fuel + 1, f =>
    let left := unseated cls ready f
    if left.isEmpty then f
    else
      let v := nextTenant left f.visited
      let d := deficitOf f.deficits v + fieldOf (tenantOf s v).sched.toNat 0 8
      let f := { f with deficits := putWhere (fun e => e.1 == v) (v, d) f.deficits, visited := v }
      fillClass s cls ready fuel (visitAgents v (left.filter fun r => r.tenant == v) f)
/-- The filling of a step with the ready agents of an instance; at its end a tenant with none that is not seated has its
deficit set to 0 (R378) (log 84, DEDUCED). -/
def fillStep (s : State) (m : Model) : Filling :=
  let ready := (readyFor s m).foldr insertReady []
  let f := (List.range 4).foldl (fun f cls => fillClass s cls ready 65536 f) { deficits := m.deficits, visited := m.visited }
  let waits (v : Nat) : Bool := ready.any fun r => r.tenant == v && !(f.seated.any fun x => x.slot == r.slot)
  { f with deficits := f.deficits.map fun e => if waits e.1 then e else (e.1, 0) }

/-! ### Distances (R347, R373) -/

/-- The words of an agent's look-ahead window, from a PC on; fuel is how many are left. -/
def windowFrom (s : State) (k : Slot) : Nat → W32 → List Word
  | 0, _ => []
  | n + 1, pc =>
    match agentFetch s { k with pc := pc } with
    | none => []
    | some (_, w) =>
      let aop := fieldOf w.toNat 0 8
      if !(agentLegal w) then []
      else if aop == 0x13 || aop == 0x23 then [w]
      else w :: windowFrom s k n (if aop == 0x11 || aop == 0x12 then w.extractLsb' 32 32 else pc + 8)
/-- The context registers that a context-level word names. -/
def wordCtxs (w : Word) : List Nat :=
  let x := fieldOf w.toNat 8 4
  let y := fieldOf w.toNat 12 4
  match fieldOf w.toNat 0 8 with
  | 0x40 => [x]
  | 0x41 => [x, y]
  | 0x42 => [x]
  | 0x43 => [y]
  | 0x44 => [y]
  | 0x45 => [y]
  | 0x46 => [x]
  | 0x47 => [y]
  | 0x48 => [x]
  | 0x49 => [y]
  | 0x4A => [y]
  | 0x4B => [y]
  | 0x60 => [y]
  | 0x61 => [y]
  | 0x62 => [y]
  | 0x63 => [y]
  | 0x64 => [y, fieldOf w.toNat 16 4]
  | _ => []
/-- The charge of a word of the window. -/
def wordCharge (k : Slot) (w : Word) : Nat :=
  match fieldOf w.toNat 0 8 with
  | 0x60 => 1
  | 0x61 => (getA k (w.extractLsb' 16 4)).toNat
  | 0x62 => 1
  | 0x63 => 1
  | 0x64 => (getA k (w.extractLsb' 20 4)).toNat
  | _ => 0
/-- The distance that a window gives a context register: the charges before the first word that names it. -/
def windowDist (k : Slot) (reg : Nat) : List Word → Option Nat
  | [] => none
  | w :: ws => if (wordCtxs w).contains reg then some 0 else (windowDist k reg ws).map (· + wordCharge k w)
/-- Whether a long instruction is seated, would be in the next step of its instance, or waits only for the pages of a context
in order to be (R347). -/
def enrolled (s : State) (k : Slot) (l : Long) (c : Ctx) : Bool :=
  if isSeated s k.num then true
  else
    match seatCtx s k.num l with
    | none => false
    | some (_, m) =>
      let want := missing s k.num l
      isWaiting s k l && !(heldBySave s m) &&
        (if want.isEmpty && (unmade s k.num l).isEmpty then (fillStep s m).seated.any fun r => r.slot == k.num
         else want.all fun n => inBlocks c.blocks n)
/-- The next-use distance of a context (R347) (log 86, DEDUCED). -/
def ctxDistance (s : State) (c : Ctx) : Nat :=
  let k := slotAt s c.slot
  let now := match k.long with
    | none => false
    | some l => (longRegs l).contains c.reg && enrolled s k l c
  if now then 0
  else ((windowDist k c.reg (windowFrom s k 8 k.pc)).orElse fun _ => c.hint.map fun h => h.toNat).getD (2 ^ 32 - 1)
/-- A page's distance: the least of the contexts that reference it. -/
def pageDistance (s : State) (v num : Nat) : Nat :=
  (s.ctx.ctxs.filter fun c => c.tenant == v && inBlocks c.blocks num).foldl (fun d c => min d (ctxDistance s c)) (2 ^ 32 - 1)

/-! ### Evictions (R348, R349, R399) -/

/-- Whether a page can be chosen: resident, not pinned, not in use by a step that has not committed, and no page that only the
transaction of a step or of a round still holds: one made for a seat, or one of its draft chains (log 126, DEDUCED). -/
def isCandidate (s : State) (p : Page) : Bool :=
  p.st == .resident && !(isPinned s p.tenant p.num) && !(inUse s p.tenant p.num) && namedPage s p.tenant p.num
/-- Whether the first key is to be evicted before the second: larger distance, fewer references, earlier last use, higher
frame. -/
def evictBefore (a b : Nat × Nat × Nat × Nat) : Bool :=
  if a.1 != b.1 then b.1 < a.1
  else if a.2.1 != b.2.1 then a.2.1 < b.2.1
  else if a.2.2.1 != b.2.2.1 then a.2.2.1 < b.2.2.1
  else b.2.2.2 < a.2.2.2
/-- The candidate that R348 chooses. -/
def chooseEviction (s : State) (v : Nat) : Option Page :=
  let key (p : Page) : Nat × Nat × Nat × Nat := (pageDistance s v p.num, refCount s v p.num, p.lastUse, p.frame.getD 0)
  (s.ctx.pages.filter fun p => p.tenant == v && isCandidate s p).foldl (init := none) fun best p =>
    match best with
    | none => some p
    | some b => if evictBefore (key p) (key b) then some p else some b
/-- Frames that a waiting long instruction of a tenant needs for new pages or copies, the most that one needs. -/
def fillNeed (s : State) (v : Nat) : Nat :=
  s.slots.foldl (init := 0) fun m k =>
    match k.long with
    | none => m
    | some l => if k.tenant != v || !(isWaiting s k l) then m else max m (unmade s k.num l).length
/-- Frames that promotions asked for need. -/
def faultNeed (s : State) (v : Nat) : Nat := s.ctx.faults.countP fun f => f.1 == v && pageSt s v f.2 == .absent
/-- Frames being freed. -/
def twilightCount (s : State) (v : Nat) : Nat := s.ctx.pages.countP fun p => p.tenant == v && p.st == .twilight
/-- Put a page into twilight: it takes a place in the backing store, and its tag is computed (R349, R352). -/
def beginTwilight (s : State) (p : Page) (forPin : Bool) : State :=
  let (s, cells) := frameCells s p.pa
  updPage s p.tenant p.num fun q =>
    { q with st := .twilight, place := lowestPlace s p.tenant, tag := tagOf cells, forPin := forPin }
/-- Whether a chosen page can enter twilight: the accesses that may write it have drained, since its translation is read only
from then on (R231, R419), and the backing store has room for it. -/
def canEvict (s : State) (p : Page) : Bool := !(pageBusy s p) && (lowestPlace s p.tenant).isSome
/-- Frames free or being freed. -/
def comingFrames (s : State) (v : Nat) : Nat := freeCount s v + twilightCount s v
/-- EVICTION_START: the free frames fall below the headroom, or a promotion, a copy, a new page or a pin needs one. -/
def execEvictionStart (v : Nat) (s : State) : Out :=
  let pin := pinNeed s v
  if max (tenantOf s v).headroom.toNat (pin + faultNeed s v + fillNeed s v) ≤ comingFrames s v then notEnabled "EVICTION_START"
  else
    match chooseEviction s v with
    | none => notEnabled "EVICTION_START"
    | some p => if canEvict s p then .next (beginTwilight s p (comingFrames s v < pin)) else notEnabled "EVICTION_START"
/-- The eviction of a page that no context references: the index entries that name it are removed, and the pages that
nothing references then are freed (R342, R346). -/
def evictIndexOnly (s : State) (v page : Nat) : State :=
  if refCount s v page != 0 then s
  else sweepPages (setCtx s { s.ctx with pfx := s.ctx.pfx.filter fun e => !(e.tenant == v && e.pages.contains page) }) v
/-- EVICTION_COMMIT: the write of the page and its tag to the backing store has performed, and the frame is freed; the accesses
to it have drained (R231, R349). Where a host page must be asked for, it is. -/
def execEvictionCommit (v page : Nat) (s : State) : Out :=
  match pageAt s v page with
  | none => notEnabled "EVICTION_COMMIT"
  | some p =>
    match p.st, p.place with
    | .twilight, some pl =>
      if pageBusy s p then notEnabled "EVICTION_COMMIT"
      else
        let (s, cells) := frameCells s p.pa
        match placeSpan s v pl .wr with
        | (s, .error true) => .next s
        | (_, .error false) => notEnabled "EVICTION_COMMIT"
        | (s, .ok l) =>
          let s := writePlace s l cells p.tag
          .next (takeFaults (evictIndexOnly (updPage s v page fun p =>
            { p with st := .absent, frame := none, pa := 0, tag := 0, forPin := false }) v page))
    | _, _ => notEnabled "EVICTION_COMMIT"
/-- The evictions that waiting pins still need, started at a step's commit (R399); fuel bounds them. -/
def pinEvictions (s : State) (v : Nat) : Nat → State
  | 0 => s
  | fuel + 1 =>
    if pinNeed s v ≤ comingFrames s v then s
    else
      match chooseEviction s v with
      | none => s
      | some p => if canEvict s p then pinEvictions (beginTwilight s p true) v fuel else s

/-- The pages that the evictions which waiting pins still need would choose; fuel bounds them (R399). -/
def pinChoices (s : State) (v : Nat) : Nat → List Nat
  | 0 => []
  | fuel + 1 =>
    if pinNeed s v ≤ comingFrames s v || (lowestPlace s v).isNone then []
    else
      match chooseEviction s v with
      | none => []
      | some p => p.num :: pinChoices (updPage s v p.num fun p => { p with st := .twilight, forPin := true }) v fuel

/-! ### Promotions (R351, R352, R365) -/

/-- The nearest page of a list, the earliest among equals. -/
def nearestPage (s : State) (v : Nat) (l : List Nat) : Option Nat :=
  l.foldl (init := none) fun best n =>
    match best with
    | none => some n
    | some b => if pageDistance s v n < pageDistance s v b then some n else some b
/-- The page to promote next: those of waiting pins first, then those that faults ask for, nearest first (R351, R365). -/
def choosePromotion (s : State) (v : Nat) : Option Nat :=
  let pins := (s.ctx.pins.filterMap fun p => ctxOf s p.slot p.reg).flatMap fun c => if c.tenant == v then absentOf s c else []
  let asked := (s.ctx.faults.filter fun f => f.1 == v && pageSt s v f.2 == .absent && (pageAt s v f.2).isSome).map (·.2)
  (nearestPage s v pins).orElse fun _ => nearestPage s v asked
/-- PROMOTION_START: an absent page takes the lowest free frame and is read back. -/
def execPromotionStart (v : Nat) (s : State) : Out :=
  let s := takeFaults s
  match choosePromotion s v, (lowestFrame s v).bind fun fr => (framePa s v fr).map fun pa => (fr, pa) with
  | some n, some (fr, pa) =>
    let s := updPage s v n fun p => { p with st := .promoting, frame := some fr, pa := pa }
    .next (setCtx s { s.ctx with faults := s.ctx.faults.filter fun f => f != (v, n) })
  | _, _ => notEnabled "PROMOTION_START"
/-- Write a waiting pin's status. -/
def setDest (s : State) (w : PinWait) (st : Word) : State :=
  let k := slotAt s w.slot
  putSlot s { k with a := k.a.setIfInBounds w.dest st }
/-- Complete the pins whose pages are all resident: a_x := OK (R365). -/
def settlePins (s : State) : State :=
  s.ctx.pins.foldl (init := s) fun s w =>
    match ctxOf s w.slot w.reg with
    | none => s
    | some c =>
      if allResident s c then
        let s := setDest s w stOk
        setCtx s { s.ctx with pins := s.ctx.pins.filter fun x => x != w }
      else s
/-- Carry on every append that waited for a page. -/
def settleAppends (s : State) : State :=
  s.slots.foldl (init := s) fun s k =>
    match k.long with
    | none => s
    | some l => if isWaiting s k l && isAppend l && l.data.isEmpty then settleAppend s k.num else s
/-- Whether a step is in flight for an instance that a context of a page is bound to. -/
def stepOn (s : State) (v page : Nat) : Bool :=
  s.ctx.steps.any fun t => t.tenant == v && s.ctx.ctxs.any fun c => c.tenant == v && inBlocks c.blocks page && c.bound == some t.inst
/-- The act of R353: the contexts of a page are poisoned, the page and its index entries go, and the pins and long
instructions that use those contexts end; what only those entries referenced is freed (R342). -/
def integrityAct (s : State) (v page : Nat) : State :=
  let hit (c : Ctx) : Bool := c.tenant == v && inBlocks c.blocks page
  let bad := s.ctx.ctxs.filter hit
  let isBad (slot reg : Nat) : Bool := bad.any fun c => c.slot == slot && c.reg == reg
  let pins := s.ctx.pins.filter fun p => isBad p.slot p.reg
  let strip (c : Ctx) : Ctx := if hit c then
      { c with poisoned := true, pinned := c.pinned && !(pins.any fun p => p.slot == c.slot && p.reg == c.reg)
               blocks := c.blocks.map fun b => b.filter (· != page) }
    else c
  let s := setCtx s { s.ctx with
    ctxs := s.ctx.ctxs.map strip
    pages := s.ctx.pages.filter fun p => !(p.tenant == v && p.num == page)
    pfx := s.ctx.pfx.filter fun e => !(e.tenant == v && e.pages.contains page)
    pins := s.ctx.pins.filter fun p => !(isBad p.slot p.reg) }
  let s := pins.foldl (fun s w => setDest s w stPoison) s
  let s := s.slots.foldl (init := s) fun s k =>
    match k.long with
    | none => s
    | some l => if (longRegs l).any fun r => isBad k.num r then endLong s k.num l lgIntegrity else s
  sweepPages s v
/-- A page failed its check: the failure waits for the step boundary, or takes effect at once where no step is in flight (R353). -/
def failPage (s : State) (v page : Nat) : State :=
  if stepOn s v page then updPage s v page fun p => { p with failed := true } else integrityAct s v page
/-- PROMOTION_COMPLETE: the page and its tag are read back from the backing store, which may have lost some bytes; the page
becomes resident where the tag of what was read matches (R352) (log 85, DESIGN CHOICE). A host that answers the read with an
error gives all ones, which are no page with its tag, and a record goes to the handler (R235). -/
def execPromotionComplete (v page : Nat) (lost : List Host.Cell) (s : State) : Out :=
  match pageAt s v page with
  | none => notEnabled "PROMOTION_COMPLETE"
  | some p =>
    match p.st, p.place with
    | .promoting, some pl =>
      if p.failed then notEnabled "PROMOTION_COMPLETE"
      else
        match placeSpan s v pl .rd with
        | (s, .error true) => .next s
        | (_, .error false) => notEnabled "PROMOTION_COMPLETE"
        | (s, .ok l) =>
          let (s, kept, tag) := readPlace s l
          let cells := memWriteCells kept (lost.filter fun c => c.1 < frameSize)
          let bad := s.xlat.hostError && spaceOf (tenantOf s v).backing == 1
          if bad then
            let r : Record := { die := 4, tenant := v, rtype := 4, val := (tenantOf s v).backing + BitVec.ofNat 64 (pl * placeSize) }
            .next (failPage (queueRecord (setXlat s { s.xlat with hostError := false }) r) v page)
          else if tagOf cells != tag then .next (failPage s v page)
          else
            let s := fillFrame s p.pa cells
            let s := updPage s v page fun p => { p with st := .resident, place := none, tag := 0 }
            .next (takeFaults (settleAppends (settlePins s)))
    | _, _ => notEnabled "PROMOTION_COMPLETE"

/-! ### Integrity (R353, R354) -/

/-- Every integrity failure that a step boundary lets take effect. -/
def integrityActs (s : State) (v : Nat) : State :=
  (s.ctx.pages.filter fun p => p.tenant == v && p.failed).foldl (init := s) fun s p =>
    if stepOn s v p.num then s else integrityAct s v p.num
/-- INTEGRITY_FAILURE: a page failed its check and no step of its instance is in flight. -/
def execIntegrityFailure (v page : Nat) (s : State) : Out :=
  match pageAt s v page with
  | none => notEnabled "INTEGRITY_FAILURE"
  | some p => if !p.failed || stepOn s v page then notEnabled "INTEGRITY_FAILURE" else .next (integrityAct s v page)

/-! ### Homes (R344, R419) -/

/-- A cluster leaves the home sets of a tenant's loaded instances, and of its contexts. -/
def leaveHomes (s : State) (v c : Nat) : State :=
  let out (set : List Nat) : List Nat := set.filter (· != c)
  setCtx s { s.ctx with
    models := updWhere (fun m => m.tenant == v) (fun m => { m with homeSet := out m.homeSet }) s.ctx.models
    ctxs := updWhere (fun c => c.tenant == v) (fun c => { c with homeSet := out c.homeSet }) s.ctx.ctxs }
/-- The blocks of a tenant that a table index and a block number name: those of the context with that index, those that it
first wrote in other contexts, and those of index entries. Of each, the home set, the context that first wrote it, and its pages
(R344, R345). -/
def blocksAt (s : State) (v ctx block : Nat) : List (List Nat × Nat × List Nat) :=
  let held := s.ctx.ctxs.filterMap fun c =>
    let first := c.first.getD block ctx
    if c.tenant == v && c.bound.isSome && (tableIndex c == ctx || first == ctx) then
      (c.blocks[block]?).map fun ps => (c.homeSet, first, ps)
    else none
  held ++ (s.ctx.pfx.filter fun e => e.tenant == v && e.first == ctx && e.block == block).map fun e =>
    (((modelOf s v e.model).map (·.homeSet)).getD [], e.first, e.pages)
/-- What a stub passes on: the commands that wait for the attention unit of a block's old home go to the new one (R330,
R344). -/
def forwardCmds (s : State) (b : Stub) : State :=
  let keys (a : Word) : Bool := spaceOf a == 0 && b.pages.any fun n => ctxVa n ≤ vaOf a && vaOf a < ctxVa n + frameSize
  let moves (m : Cmd) : Bool :=
    m.tenant == b.tenant && m.maj == 0x49 && m.fn == 0 && m.uidx == b.old && m.code == 0 && keys (m.blk.getD 2 0)
  setEng s { s.eng with cmds := updWhere moves (fun m => { m with uidx := b.new }) s.eng.cmds }
/-- Where a block has to move: its owning point has gone, and the accesses to its pages have drained (R231). Its old and its new
home, and its pages. -/
def rehoming (s : State) (v block : Nat) (b : List Nat × Nat × List Nat) : Option (Nat × Nat × List Nat) :=
  ((b.2.2.head?.bind (pageAt s v)).map (·.home)).bind fun old =>
    let new := homeOf b.1 b.2.1 block
    if old == new || b.2.2.any (fun n => (pageAt s v n).any (pageBusy s)) then none else some (old, new, b.2.2)
/-- BLOCK_REHOME: a block whose owning point has gone moves to the next point of the ring; a stub stays at the old home until
every launch accepted before has completed, and passes on what was sent there. -/
def execBlockRehome (v ctx block : Nat) (s : State) : Out :=
  match (blocksAt s v ctx block).findSome? (rehoming s v block) with
  | none => notEnabled "BLOCK_REHOME"
  | some (old, new, pages) =>
    let s := pages.foldl (init := s) fun s n => updPage s v n fun p => { p with home := new }
    let b : Stub := { tenant := v, pages := pages, old := old, new := new, launches := s.launches.map (·.id) }
    .next (forwardCmds (if s.launches.isEmpty then s else setCtx s { s.ctx with stubs := s.ctx.stubs ++ [b] }) b)

end Sys2Proof.Machine
end

