-- ==== Sys2Proof/Machine/StepRun.lean ====
section
/-! DEFINITION. The step batcher: filling a step, its record and its launches, and its commit (R14, R340, R346, R377 to R382,
R389 to R399). -/

namespace Sys2Proof.Machine

/-! ### The context die's own memory (log 13, DESIGN CHOICE) -/

/-- The VA of a seat's part of the context die's own memory. -/
def seatVa (inst seat : Nat) : Nat := ownVa + (inst * 2048 + seat) * seatSize
/-- Where a seat's parts lie: block list, bytes, rotary pairs, work area (mask, then row), tree, and the copies of records. -/
def bytesOff : Nat := 0x800000
/-- Rotary pairs. -/
def rotOff : Nat := 0x900000
/-- The row of the work area (R390). -/
def rowOff : Nat := workOff + 0x20000
/-- The speculation tree. -/
def treeOff : Nat := 0xF00000

/-! ### Seats (R377, R398) -/

/-- Seat a ready agent: the evictions of the pages that it needs are cancelled, and the pages made for it become its seats'. -/
def seatAgent (m : Model) (st : State × List Seat) (r : ReadyAgent) : State × List Seat :=
  let s := (pagesOf r.c.blocks).foldl (fun s n => cancelTwilight s r.tenant n) st.1
  match (slotAt s r.slot).long with
  | none => (s, st.2)
  | some l =>
    let seat (w : SeatWant) : Seat :=
      let b := giveBlocks s r.c ((boundModel s r.c).getD m) l w
      { slot := r.slot, reg := r.c.reg, kind := w.kind, count := w.count, entry := w.p, pos := w.pos, alt := w.alt
        bytes := w.bytes, entries := w.entries, blocks := b.1, first := b.2 }
    (putLong s r.slot { l with made := [] }, st.2 ++ r.wants.map seat)

/-! ### The step record (R379, R397) -/

/-- One entry of a step record, for seat number j. -/
def seatEntry (s : State) (inst j : Nat) (e : Seat) : List Byte :=
  let k := slotAt s e.slot
  let c := (ctxOf s e.slot e.reg).getD {}
  let samp := ((k.long.map fun l => l.prog.samp)).getD {}
  let va (off : Nat) : List Byte := toBytes 8 (seatVa inst j + off)
  toBytes 4 e.kind ++ toBytes 4 c.key.toNat ++ va 0 ++ toBytes 4 e.entry ++ toBytes 4 e.pos ++ toBytes 4 e.count ++
    toBytes 4 0 ++ sampBytes samp ++ va bytesOff ++ va rotOff ++
    (if (e.kind == 0 || e.kind == 4) && c.gram.isSome then va workOff else toBytes 8 0) ++ toBytes 8 0 ++
    (if 3 ≤ e.kind then va treeOff else toBytes 8 0) ++ List.replicate 24 0
/-- The rotary pairs of some entries, each over every frequency word (R355, R379). -/
def rotBytes (m : Model) (entries : List Nat) : List Byte :=
  entries.flatMap fun q => m.rot.flatMap fun w => toBytes 4 (rotaryPair q w).1 ++ toBytes 4 (rotaryPair q w).2
/-- The entry indices of a seat, ascending; the tree of a verification has W entries at each of its D depths. -/
def seatEntries (s : State) (e : Seat) : List Nat :=
  let (d, w) := (((slotAt s e.slot).long).map fun l => specShape l.o).getD (1, 1)
  if e.kind == 4 then (List.range (w * d)).map fun j => e.entry + j / w else rangeFrom e.entry e.count
/-- Free bytes at the tree of a seat, whose layout the spec does not give (log 79, DESIGN CHOICE). -/
def freeTree (s : State) (key : Nat) : State :=
  let n := 1024
  setFree (putRange s key ((List.range n).map fun j => Config.freeByte (s.free + j))) (s.free + n)
/-- Write what a seat's entry points to. -/
def writeSeat (s : State) (v : Nat) (m : Model) (j : Nat) (e : Seat) : State :=
  let key (off : Nat) : Nat := ownKey v (seatVa m.num j + off)
  let s := putRange s (key 0) (e.blocks.flatten.flatMap fun n => toBytes 8 (ctxVa n))
  let s := putRange s (key bytesOff) e.bytes
  let s := putRange s (key rotOff) (rotBytes m (seatEntries s e))
  let s := fillRange s (key workOff) 0x20000 []
  if 3 ≤ e.kind then freeTree s (key treeOff) else s
/-- The record of a template, with its completion word in the context die's memory and no after word (R397). -/
def templateBytes (inst : Nat) (ws : List Word) : List Byte :=
  let bs := ws.flatMap fun w => toBytes 8 w.toNat
  bs.take 0x10 ++ toBytes 8 (seatVa inst 0 + recOff) ++ toBytes 8 0 ++ bs.drop 0x20
/-- Submit the launches of a step: those accepted, and whether one was not (R397). -/
def submitStep (v inst : Nat) (st : State × List Nat × Bool) (e : List Word × Nat) : State × List Nat × Bool :=
  let va := seatVa inst 0 + recOff + 0x1000 + 256 * e.2
  let bs := templateBytes inst e.1
  match acceptBytes (putRange st.1 (ownKey v va) bs) v (BitVec.ofNat 64 va) (.step v inst) bs with
  | (s, .accepted id) => (s, st.2.1 ++ [id], st.2.2)
  | (s, _) => (s, st.2.1, true)
/-- Whether a pin's eviction, under way or still to start, must commit before the next step of an instance is filled (R399):
the page is of a context bound to it or of its prefix index, or the pin's own context is bound to it. -/
def pinHolds (s : State) (v inst : Nat) : Bool :=
  let mine (c : Ctx) : Bool := c.tenant == v && c.bound == some inst
  (forPinPages s v ++ pinChoices s v s.ctx.pages.length).any fun n =>
    (s.ctx.ctxs.any fun c => mine c && inBlocks c.blocks n) ||
      (s.ctx.pfx.any fun e => e.tenant == v && e.model == inst && e.pages.contains n) ||
      s.ctx.pins.any fun p => (ctxOf s p.slot p.reg).any mine
/-- The step that a filling begins: its agents are seated, the step record is written, and the step's launches are
submitted (R378, R379, R397). -/
def beginStep (s : State) (v inst : Nat) (m : Model) (f : Filling) (waiting : List ReadyAgent) : State :=
  let (s, seats) := f.seated.foldl (seatAgent m) (s, [])
  let (id, s) := newId s
  let n := m.stepNo + 1
  let s := setCtx s { s.ctx with
    models := updWhere (fun x => x.tenant == v && x.num == inst)
      (fun x => { x with stepNo := n, deficits := f.deficits, visited := f.visited }) s.ctx.models
    pages := updWhere (fun p => p.tenant == v && seats.any fun e => inBlocks e.blocks p.num)
      (fun p => { p with lastUse := id }) s.ctx.pages }
  let s := f.seated.foldl (fun s r => putSlot s { slotAt s r.slot with seated := id, waited := 0 }) s
  let s := waiting.foldl (fun s r => putSlot s { slotAt s r.slot with waited := (slotAt s r.slot).waited + 1 }) s
  let s := seats.zipIdx.foldl (fun s e => writeSeat s v m e.2 e.1) s
  let bytes := toBytes 8 n ++ toBytes 4 seats.length ++ List.replicate 52 0 ++
    seats.zipIdx.flatMap fun e => seatEntry s inst e.2 e.1
  let t : Step := { tenant := v, inst := inst, seats := seats }
  match partWrite s v m.area bytes with
  | .error _ => setCtx s { s.ctx with steps := s.ctx.steps ++ [{ t with bad := true }] }
  | .ok s =>
    let (s, ids, bad) := (stepTemplates m).zipIdx.foldl (submitStep v inst) (s, [], false)
    setCtx s { s.ctx with steps := s.ctx.steps ++ [{ t with launches := ids, bad := bad }] }
/-- STEP_FILL: the ready agents that a filling takes are seated, and the step begins, once the evictions that pins wait for
have committed and the previous step has (R378, R397, R399). -/
def execStepFill (v inst : Nat) (s : State) : Out :=
  match modelOf s v inst with
  | none => notEnabled "STEP_FILL"
  | some m =>
    if pinHolds s v inst || s.ctx.steps.any fun t => t.tenant == v && t.inst == inst then notEnabled "STEP_FILL"
    else
      let s := takeFaults s
      let f := fillStep s m
      if f.seated.isEmpty then notEnabled "STEP_FILL"
      else .next (beginStep s v inst m f ((readyFor s m).filter fun r => !(f.seated.any fun x => x.slot == r.slot)))

/-! ### Emissions (R380, R382, R390) -/

/-- The longest prefix of a string that ends some bytes. -/
def prefixAtEnd (str out : List Byte) : Nat :=
  (List.range (min str.length out.length)).foldl (init := 0) fun best j =>
    if out.drop (out.length - (j + 1)) == str.take (j + 1) then j + 1 else best
/-- The stop-matcher state: the string with the longest such part, the lowest among equals (R380). -/
def stopState (stops : List (List Byte)) (out : List Byte) : Nat :=
  let r := stops.zipIdx.foldl (init := (0, 0)) fun best e =>
    let n := prefixAtEnd e.1 out
    if best.2 < n then (e.2, n) else best
  r.1 * 256 + r.2
/-- Whether a stop string ends the bytes emitted. -/
def stopHit (stops : List (List Byte)) (out : List Byte) : Bool := stops.any fun w => prefixAtEnd w out == w.length && 0 < w.length
/-- A context with one emission more, and its grammar's state after it. -/
def addEmission (m : Model) (c : Ctx) (e : Nat) (w : Option Walk) : Ctx :=
  let bs := emBytes m e
  { c with bytes := c.bytes ++ bs, entries := c.entries ++ [{ len := bs.length, em := some e }]
           gram := c.gram.map fun g => (w.map fun w => { g with state := w.g, ref := w.t }).getD g }
/-- A long instruction's record after an emission (R380). -/
def noteEmission (m : Model) (c : Ctx) (l : Long) (e : Nat) : Long :=
  let out := l.out ++ emBytes m e
  let out := out.drop (out.length - 255)
  { l with out := out
           prog := { l.prog with done := l.prog.done + 1, pos := c.bytes.length, entry := c.entries.length, last := e, draw := 0
                                 stop := stopState l.stops out, ref := (c.gram.map (·.ref)).getD 0
                                 gstate := (c.gram.map (·.state)).getD 0 } }
/-- What commits carry from seat to seat: the nodes that the walks of this step made. -/
abbrev Made := List (Word × Nat)
/-- The checks that end a generation after a commit (R382). -/
def endCheck (s : State) (k : Slot) (m : Model) (made : Made) (c : Ctx) (l : Long) : Option Nat :=
  if stopHit l.stops l.out then some lgStop
  else if (match c.gram with
    | none => false
    | some g => isTerminal s (walkEnv s k m g made) g.state g.ref) then some lgAccept
  else if l.prog.limit ≤ l.prog.done then some lgLimit
  else if ctxFull c then some lgPosition
  else none
/-- Whether an emission fits after a context (R340). -/
def emFits (m : Model) (c : Ctx) (e : Nat) : Bool :=
  c.bytes.length + (emBytes m e).length ≤ 2 ^ 24 && c.entries.length < 2 ^ 24
/-- Add the index entries of the blocks that an append completed (R346). -/
def addIndex (s : State) (m : Model) (c : Ctx) (old : Nat) : State :=
  let lo := old / m.block
  (rangeFrom lo (c.entries.length / m.block - lo)).foldl (init := s) fun s b =>
    let es := c.entries.take ((b + 1) * m.block)
    let e : Pfx := { tenant := c.tenant, model := m.num, block := b, bytes := c.bytes.take (entriesLen es)
                     lens := es.map (·.len), pages := c.blocks.getD b [], first := c.first.getD b 0 }
    if s.ctx.pfx.any fun x => x.tenant == e.tenant && x.model == e.model && x.block == b && x.bytes == e.bytes && x.lens == e.lens then s
    else setCtx s { s.ctx with pfx := s.ctx.pfx ++ [e] }
/-- A context with the blocks of a seat, as far as its entries reach. -/
def takeBlocks (m : Model) (c : Ctx) (bs : List (List Nat)) (first : List Nat) : Ctx :=
  let n := (c.entries.length + m.block - 1) / m.block
  { c with blocks := bs.take n, first := first.take n }
/-- Put a context after a commit, with its index entries. -/
def commitCtx (s : State) (m : Model) (c : Ctx) (old : Nat) : State := addIndex (putCtx s c) m c old
/-- N FP32 codes of the row of a seat's work area. -/
def rowOf (s : State) (v inst seat n : Nat) : List Nat :=
  (List.range n).map fun j => readNum s v (BitVec.ofNat 64 (seatVa inst seat + rowOff + 4 * j)) 4
/-- The emissions that the mask of a seat's work area excludes (R390). -/
def maskBits (s : State) (key : Nat) : State × List Nat :=
  let s := quietRange s key 0x20000
  (s, (memSlice s.mem key (key + 0x20000)).flatMap fun c =>
    ((List.range 8).filter fun j => c.2.getLsbD j).map fun j => (c.1 - key) * 8 + j)
/-- Leave a mask in the work area. -/
def writeMask (s : State) (key : Nat) (bits : List Nat) : State :=
  fillRange s key 0x20000 (bits.foldl (fun m e => memWrite m (e / 8) (memRead m (e / 8) ||| BitVec.ofNat 8 (2 ^ (e % 8)))) [])
/-- The grammar unit's completion of a choice at a state and a reference, from the result of draw 0, over the row and the mask
of the seat's work area (R390). -/
def completeChoice (s : State) (k : Slot) (m : Model) (g : Gram) (made : Made) (j : Nat) (samp : Samp) (key : W32) (pos e0 : Nat) :
    State × Option (Nat × Walk) :=
  let area := ownKey k.tenant (seatVa m.num j + workOff)
  let (s, mask) := maskBits s area
  let ch : Choice := { zs := rowOf s k.tenant m.num j m.emits.length, samp := samp, key := key, pos := pos, emits := m.emits }
  let r := chooseEmission s (walkEnv s k m g made) { g := g.state, t := g.ref } ch mask (some e0)
  (writeMask s area r.2, r.1)
/-- The choice of a seat of a context: the emission, and its walk where there is a grammar. -/
def pickEmission (s : State) (k : Slot) (m : Model) (gram : Option Gram) (made : Made) (j : Nat) (samp : Samp) (key : W32)
    (pos e0 : Nat) : State × Option (Nat × Option Walk) :=
  match gram with
  | none => (s, some (e0, none))
  | some g =>
    let r := completeChoice s k m g made j samp key pos e0
    (r.1, r.2.map fun p => (p.1, some p.2))
/-- Commit an emission seat (R379, R382, R390). -/
def commitGen (s : State) (m : Model) (n : Nat) (l : Long) (j : Nat) (e : Seat) (r : Nat) (made : Made) : State × Made :=
  let k := slotAt s n
  match ctxOf s n e.reg with
  | none => (s, made)
  | some c =>
    let e0 := r % 2 ^ 20
    if e0 == 0xFFFFF then (endLong s n l lgNoMask, made)
    else if m.emits.length ≤ e0 then (endLong s n l lgStepFail, made)
    else
      match pickEmission s k m c.gram made j l.prog.samp c.key e.pos e0 with
      | (s, none) => (endLong s n l lgNoMask, made)
      | (s, some (em, w)) =>
        if !(emFits m c em) then (endLong s n l lgPosition, made)
        else
          let new := (w.map (·.new)).getD []
          let area := (c.gram.map (areaOf k)).getD 0
          let s := (writeNodes s k ((c.gram.map (·.off)).getD 0) new).getD s
          let made := made ++ new.map fun x => (area, x.idx)
          let c' := takeBlocks m (addEmission m c em w) e.blocks e.first
          let l := noteEmission m c' l em
          let s := putLong (commitCtx s m c' c.entries.length) n l
          match endCheck s k m made c' l with
          | none => (s, made)
          | some st => (endLong s n l st, made)

/-! ### Appends and scores (R382) -/

/-- An FP32 sum with the result of one more chunk (log 78, DEDUCED). -/
def addScore (a : Option W32) (r : Nat) : Option W32 :=
  some (BitVec.ofNat 32 (match a with
    | none => r % 2 ^ 32
    | some a => (add32 (a.toNat, 0) (r % 2 ^ 32, 0)).1))
/-- Commit a prefill seat (R379, R382). -/
def commitApp (s : State) (m : Model) (n : Nat) (l : Long) (e : Seat) (r : Nat) : State :=
  match ctxOf s n e.reg with
  | none => s
  | some c =>
    let c' := takeBlocks m { c with bytes := c.bytes ++ e.bytes, entries := c.entries ++ e.entries } e.blocks e.first
    let keep := l.prog.op == 0x62
    let u := l.used.getD 0 (0, 0)
    let l := { l with data := l.data.drop e.bytes.length
                      sums := if keep then [addScore (l.sums.getD 0 none) r] else l.sums
                      used := if keep then [(u.1 + e.bytes.length, u.2 + e.entries.length)] else l.used
                      prog := { l.prog with done := l.prog.done + e.bytes.length, pos := c'.bytes.length
                                            entry := c'.entries.length } }
    settleAppend (putLong (commitCtx s m c' c.entries.length) n l) n
/-- Note the chunk of one alternative. -/
def noteScore (l : Long) (e : Seat) (r : Nat) : Long :=
  let u := l.used.getD e.alt (0, 0)
  { l with sums := l.sums.set e.alt (addScore (l.sums.getD e.alt none) r)
           used := l.used.set e.alt (u.1 + e.bytes.length, u.2 + e.entries.length) }
/-- Carry on after scoring chunks: score ends, or choose ends or begins its append (R382). -/
def commitScore (s : State) (n : Nat) (l : Long) : State :=
  if l.prog.op == 0x62 then
    if l.data.isEmpty then endLong s n l 0
    else if ((wantsOf (putLong s n l) n l).all fun w => w.count == 0) then endLong s n l lgPosition
    else putLong s n l
  else
    let left := wantsOf (putLong s n l) n l
    if !left.isEmpty then putLong s n l
    else if (l.alts.zip l.used).any fun p => p.2.1 < p.1.length then endLong s n l lgPosition
    else if l.o.m.getLsbD 0 then
      settleAppend (putLong s n { l with appending := true, data := l.alts.getD (bestScore l.sums) [] }) n
    else endLong s n l 0

/-! ### Speculation (R382, R394, R395) -/

/-- The logits of a node of the tree: where the step program leaves them is not stated, so they are free values
(log 79, DESIGN CHOICE). -/
def nodeRow (s : State) (node n : Nat) : List Nat :=
  (List.range n).map fun j =>
    ofBytes ((List.range 4).map fun b => Config.freeByte (s.free + 4 * (node * 2 ^ 20 + j) + b))
/-- Number of a node: the root, or the one after d emissions of chain j. -/
def nodeNum (j d : Nat) : Nat := if d == 0 then 0 else 1 + 16 * j + d
/-- The grammar side of a node: nothing where the context has no grammar. -/
abbrev NodeEnv := Option WalkEnv
/-- The state and the stack reference of a node (R394). -/
abbrev NodeState := Nat × Nat
/-- The emissions that a node's grammar masks (R395). -/
def nodeMask (s : State) (env : NodeEnv) (w : NodeState) (emits : List (List Byte)) : List Nat :=
  match env with
  | none => []
  | some e => fullMask s e { g := w.1, t := w.2 } { emits := emits }
/-- The emissions accepted along a chain from depth d on, each with the state that its node records; one whose walk failed is
rejected (R394) (log 80, DEDUCED). -/
def acceptChain (s : State) (m : Model) (env : NodeEnv) (p : Samp) (j : Nat) :
    Nat → NodeState → List (Nat × Option NodeState) → List (Nat × NodeState)
  | _, _, [] => []
  | d, w, (em, node) :: rest =>
    let zs := nodeRow s (nodeNum j d) m.emits.length
    match (if env.isSome then node else some w) with
    | none => []
    | some w' =>
      if typicalPass zs p ((nodeMask s env w m.emits).contains ·) em then (em, w') :: acceptChain s m env p j (d + 1) w' rest
      else []
/-- The winning chain: its number and accepted emissions, the most of all, the lower number among equals. -/
def winChain (s : State) (m : Model) (env : NodeEnv) (p : Samp) (w0 : NodeState) (l : Long) : Nat × List (Nat × NodeState) :=
  l.chains.zipIdx.foldl (init := (0, [])) fun best e =>
    let acc := acceptChain s m env p e.2 0 w0 (e.1.zipIdx.map fun x => (x.1, (l.walks.getD e.2 []).getD x.2 none))
    if best.2.length < acc.length then (e.2, acc) else best
/-- Append the emissions of a round until a check ends the instruction: the contexts, the record and the status. -/
def appendRound (s : State) (k : Slot) (m : Model) (made : Made) :
    List (Nat × Option Walk) → Ctx → Ctx → Long → Ctx × Ctx × Long × Option Nat
  | [], c, d, l => (c, d, l, none)
  | (em, w) :: rest, c, d, l =>
    if !(emFits m c em) || !(emFits m d em) then (c, d, l, some lgPosition)
    else
      let c := addEmission m c em w
      let d := addEmission m d em none
      let l := noteEmission m c l em
      match endCheck s k m made c l with
      | some st => (c, d, l, some st)
      | none => appendRound s k m made rest c d l
/-- Commit a verification seat: a round of `c.spec`, on both contexts in one act. The emission at the first rejection is
chosen by R390 from the seat's row, mask and result; a seat that ends with NOMASK appends nothing (R390). -/
def commitRound (s : State) (m : Model) (n : Nat) (l : Long) (j : Nat) (e : Seat) (r : Nat) (made : Made) : State × Made :=
  let k := slotAt s n
  match ctxOf s n e.reg, ctxOf s n l.o.z.toNat with
  | some c, some d =>
    let w0 : NodeState := (c.gram.map fun g => (g.state, g.ref)).getD (0, 0)
    let (win, acc) := winChain s m (c.gram.map fun g => walkEnv s k m g made) l.prog.samp w0 l
    let w := (acc.getLast?.map (·.2)).getD w0
    let full := acc.length == (l.chains.getD win []).length
    let pos := e.pos + (acc.map fun a => (emBytes m a.1).length).sum
    let e0 := r % 2 ^ 20
    if !full && e0 != 0xFFFFF && m.emits.length ≤ e0 then (endLong s n l lgStepFail, made)
    else
      let gram := c.gram.map fun g => { g with state := w.1, ref := w.2 }
      let (s, last) := if full || e0 == 0xFFFFF then (s, none) else pickEmission s k m gram made j l.prog.samp c.key pos e0
      let node (a : Nat × NodeState) : Nat × Option Walk := (a.1, if c.gram.isSome then some { g := a.2.1, t := a.2.2 } else none)
      let new := (last.bind fun x => x.2.map (·.new)).getD []
      let s := (writeNodes s k ((c.gram.map (·.off)).getD 0) new).getD s
      let area := (c.gram.map (areaOf k)).getD 0
      let made := made ++ new.map fun x => (area, x.idx)
      let (c', d', l', st) := appendRound s k m made (acc.map node ++ last.toList) c d l
      let s := setFree s (s.free + 2 ^ 30)
      if st.isNone && !full && last.isNone then (endLong s n l lgNoMask, made)
      else
      let tent := l.tent.getD win d.blocks
      let md := (boundModel s d).getD m
      let c' := takeBlocks m c' e.blocks e.first
      let d' := takeBlocks md d' tent (d.first ++ List.replicate (tent.length - d.first.length) (tableIndex d))
      let l' := { l' with chains := [], tent := [], walks := [], nodes := [] }
      let s := commitCtx (commitCtx s m c' c.entries.length) md d' d.entries.length
      let s := putLong s n l'
      match st with
      | none => (s, made)
      | some st => (endLong s n l' st, made)
  | _, _ => (s, made)
/-- Walk one draft emission from its parent's node, as it is chosen: the state that its node records, and the nodes that the
walk made (R392, R394). -/
def walkDraft (k : Slot) (m : Model) (g : Gram) (made : Made) (st : State × Long) (x : Seat × Nat) : State × Long :=
  let (s, l) := st
  let old := l.walks.getD x.1.alt []
  let parent : Option NodeState := match old.getLast? with
    | none => some (g.state, g.ref)
    | some w => w
  let env := walkEnv s k m g (made ++ l.nodes.map fun i => (areaOf k g, i))
  let w := parent.bind fun p => walkBytes s env { g := p.1, t := p.2 } (emBytes m (x.2 % 2 ^ 20))
  let new := (w.map (·.new)).getD []
  let walks := (List.range (max l.walks.length (x.1.alt + 1))).map fun j =>
    if j == x.1.alt then old ++ [w.map fun w => (w.g, w.t)] else l.walks.getD j []
  ((writeNodes s k g.off new).getD s, { l with walks := walks, nodes := l.nodes ++ new.map (·.idx) })
/-- Commit a draft step: each seat's emission joins its chain, and is walked by the target's grammar (R382, R394). -/
def commitDraft (s : State) (m : Model) (n : Nat) (l : Long) (es : List (Seat × Nat)) (made : Made) : State :=
  let out := es.map fun e => e.2 % 2 ^ 20
  if out.contains 0xFFFFF then endLong s n l lgNoMask
  else if out.any fun x => m.emits.length ≤ x then endLong s n l lgStepFail
  else
    let (s, l) := match (ctxOf s n l.o.y.toNat).bind fun c => c.gram.bind fun g => (boundModel s c).map fun t => (g, t) with
      | none => (s, l)
      | some (g, t) => es.foldl (walkDraft (slotAt s n) t g made) (s, l)
    putLong s n { l with chains := es.map fun e => l.chains.getD e.1.alt [] ++ [e.2 % 2 ^ 20]
                         tent := es.map fun e => e.1.blocks }

/-! ### The commit (R14, R379, R383) -/

/-- The result field of seat j, or none where the step area cannot be read. -/
def resultOf (s : State) (m : Model) (j : Nat) : Option Nat :=
  match partRead s m.tenant (m.area + BitVec.ofNat 64 (64 + 128 * j + 0x58)) 8 with
  | .error _ => none
  | .ok r => some (ofBytes r.2)
/-- Commit the seats of one agent; those of an agent that a reset waits for commit too, before its contexts go (R383). -/
def commitAgent (bad : Bool) (m : Model) (st : State × Made) (es : List (Seat × Nat)) : State × Made :=
  let (s, made) := st
  match es with
  | [] => st
  | (e, j) :: _ =>
    let n := e.slot
    match (slotAt s n).long with
    | none => st
    | some l =>
      let m' := ((ctxOf s n e.reg).bind (boundModel s)).getD m
      let rs := es.map fun x => (x.1, resultOf s m x.2)
      if bad || rs.any (·.2.isNone) then (endLong s n l lgStepFail, made)
      else
        let rs := rs.map fun x => (x.1, x.2.getD 0)
        let r := (rs.head?.map (·.2)).getD 0
        match e.kind with
        | 0 => commitGen s m' n l j e r made
        | 1 => (commitApp s m' n l e r, made)
        | 2 =>
          let l := rs.foldl (fun l x => noteScore l x.1 x.2) l
          let l := if l.prog.op == 0x62 then { l with data := l.data.drop e.bytes.length } else l
          (commitScore s n l, made)
        | 3 => (commitDraft s m' n l rs made, made)
        | _ => commitRound s m' n l j e r made
/-- After the commit, the agents that are not running suspend, unless a round has to end first, and a waiting reset is done
(R372, R382, R383). -/
def settleSlot (s : State) (n : Nat) : State :=
  let k := slotAt s n
  if k.rst then finishReset s n
  else if midRound k then s
  else
    match k.st with
    | .running => s
    | .stopping => putSlot s (suspend { k with st := .stopped })
    | _ => putSlot s (suspend k)
/-- STEP_COMMIT: the step's launches have completed, and each seat's transaction commits; then the evictions that pins wait
for start, and integrity failures take effect. -/
def execStepCommit (v inst : Nat) (s : State) : Out :=
  match s.ctx.steps.find? fun t => t.tenant == v && t.inst == inst, modelOf s v inst with
  | some t, some m =>
    if !t.launches.isEmpty then notEnabled "STEP_COMMIT"
    else
      let slots := (t.seats.map (·.slot)).eraseDups
      let groups := slots.map fun n => t.seats.zipIdx.filter fun e => e.1.slot == n
      let (s, _) := groups.foldl (commitAgent t.bad m) (s, [])
      let s := setCtx s { s.ctx with steps := s.ctx.steps.filter fun x => !(x.tenant == v && x.inst == inst) }
      let s := slots.foldl settleSlot (sweepPages s v)
      let s := pinEvictions s v s.ctx.pages.length
      .next (takeFaults (integrityActs s v))
  | _, _ => notEnabled "STEP_COMMIT"

end Sys2Proof.Machine
end

