-- ==== Sys2Proof/Machine/Preempt.lean ====
section
/-! DEFINITION. Pre-emption and context switch of time-sliced tenants (R191, R278 to R280, R402, R411, R418). -/

namespace Sys2Proof.Machine

/-! ### Configuration errors and status changes (R401, R413) -/

/-- A write is refused: bit 1 of the part status is set (R401). -/
def refuseWrite (s : State) : State :=
  if s.cfg.error then s else sendMsix (setCfg s { s.cfg with error := true }) 0 3
/-- Set a tenant's pstat, and announce a change (R402, R413). -/
def setPstat (s : State) (v n : Nat) : State :=
  let t := tenantOf s v
  if t.pstat == n then s else sendMsix (putTenant s v { t with pstat := n }) v 3
/-- Set a tenant's vstate, and announce a change (R406, R413). -/
def setVstate (s : State) (v n : Nat) : State :=
  let t := tenantOf s v
  if t.vstate == n then s else sendMsix (putTenant s v { t with vstate := n }) v 3

/-! ### pcmd (R278, R279, R411) -/

/-- The clusters that a pcmd covers: the first n of the tenant's partition on the dies of a mask, or all of them. -/
def pcmdClusters (t : Tenant) (val : W32) : List Nat :=
  let n := fieldOf val.toNat 16 16
  let cl := (List.range 1024).filter fun c => t.clmask.getLsbD c && val.getLsbD (8 + dieOf c)
  if n == 0 then cl else cl.take n
/-- Whether a running firing can be discarded to its open region (R279). -/
def canDiscard (s : State) (f : Firing) : Bool :=
  (!f.split || f.cores.length == 1) && !f.ending && f.cores.all fun k => k.rgentry != 0 && k.capture.isSome && k.lw.isEmpty && k.le.isEmpty && ocst s f k == 0
/-- Discard a firing: what R279 names is kept, what was staged or popped since `region.open` is undone
(log 88, DEDUCED). -/
def discardFiring (s : State) (f : Firing) : State :=
  match instOf s f.inst with
  | none => s
  | some x =>
    let d : Discard :=
      { cores := f.cores.filterMap fun k => k.capture.map fun c => (c.1, k.nflags), wdcount := f.wdcount, resv := f.resv
        staged := f.staged.take f.mark.1, popped := f.mark.2 }
    let s := setPopped s x (poppedOf s x - (f.popped - f.mark.2))
    let s := releaseCores (updAccs s f (endAccs f.id)) f
    makeEligible s f.inst fun x => { x with kept := none, disc := some d }
/-- Discard what an urgent request can discard on a cluster. -/
def discardOn (s : State) (v c : Nat) : State :=
  (s.firings.filter fun f => f.tenant == v && f.clus == c && canDiscard s f).foldl discardFiring s
/-- A request for pre-emption; one of a tenant that is not time-sliced is refused. -/
def preemptTenant (s : State) (v : Nat) (val : W32) (urgent : Bool) : State :=
  let t := tenantOf s v
  if !t.slice then setPstat s v 3
  else
    let cl := (pcmdClusters t val).filter fun c => !(isSaved s v c)
    let all := t.preempt ++ cl.filter fun c => !(t.preempt.contains c)
    let hot := if urgent then cl else []
    let s := putTenant s v { t with preempt := all, urgent := t.urgent ++ hot.filter fun c => !(t.urgent.contains c) }
    hot.foldl (fun s c => discardOn s v c) (setPstat s v (if all.isEmpty then 2 else 1))
/-- PCMD_PREEMPT: a pcmd of 1. -/
def execPcmdPreempt (v : Nat) (val : W32) (s : State) : Out :=
  if fieldOf val.toNat 0 8 != 1 then notEnabled "PCMD_PREEMPT" else .next (preemptTenant s v val false)
/-- PCMD_PREEMPT_URGENT: a pcmd of 2, which adds region discard. -/
def execPcmdPreemptUrgent (v : Nat) (val : W32) (s : State) : Out :=
  if fieldOf val.toNat 0 8 != 2 then notEnabled "PCMD_PREEMPT_URGENT" else .next (preemptTenant s v val true)
/-- A request for resumption; one while another pre-emption of the tenant is stopping is refused. -/
def resumeTenant (s : State) (v : Nat) (val : W32) : State :=
  let t := tenantOf s v
  if !t.preempt.isEmpty then setPstat s v 3
  else
    let cl := (pcmdClusters t val).filter fun c => isSaved s v c
    let s := putTenant s v { t with resume := t.resume ++ cl.filter fun c => !(t.resume.contains c) }
    if cl.isEmpty then setPstat s v 0 else s
/-- PCMD_RESUME: a pcmd of 3. -/
def execPcmdResume (v : Nat) (val : W32) (s : State) : Out :=
  if fieldOf val.toNat 0 8 != 3 then notEnabled "PCMD_RESUME" else .next (resumeTenant s v val)

/-! ### The switch (R278, R280, R411) -/

/-- Whether an access has left its core's store queue: it has performed, or is a posted write on its way to another package; a
FENCE is no access. -/
def leftQueue (a : Acc) : Bool :=
  a.performed || a.kind == .fence || (a.sent && (a.kind == .store || a.kind == .red))
/-- Whether an engine command still runs where a pre-emption wants its engine stopped: one with a split granule runs until it
has stopped, and one without runs to completion (R278). -/
def stillRuns (m : Cmd) : Bool := if hasGranules m then m.code == 1 && !m.stopped else m.code == 0 || m.code == 1
/-- Whether a cluster is at a handler boundary for a tenant: no firing, every engine stopped or done, and the store queues
drained. -/
def atBoundary (s : State) (v c : Nat) : Bool :=
  !(s.firings.any fun f => f.tenant == v && f.clus == c) &&
    !(s.eng.cmds.any fun m => m.tenant == v && m.c == c && stillRuns m) &&
    !(s.tasks.tasks.any fun t => t.tenant == v && t.engine == some c && !t.stopped) &&
    s.pcores.all fun p => p.c != c || p.accs.all fun a => a.tenant != v || leftQueue a
/-- The ranges of keys of a tenant's windows at a place: its scratch and cluster windows on a cluster, or its chip windows on
a die (place 1,024 + d). -/
def tenantRanges (s : State) (v c : Nat) : List (Nat × Nat) :=
  (s.launches.filter fun l => l.tenant == v).flatMap fun l =>
    (l.windows.filter fun w => if c < 1024 then w.space != 4 && w.place == c else w.space == 4 && 1024 + w.place == c).flatMap
      windowRanges
/-- Save the windows of a tenant at a place. -/
def saveRanges (s : State) (v c : Nat) : State :=
  let rs := tenantRanges s v c
  let inR (k : Nat) : Bool := rs.any fun r => r.1 ≤ k && k < r.1 + r.2
  let x : Saved := { v := v, c := c, cells := s.mem.filter fun e => inR e.1, full := s.full.filter inR }
  setSaved (setFull s (s.full.filter fun k => !(inR k))) (s.saved ++ [x])
/-- Restore what was saved of a tenant at a place. -/
def restoreRanges (s : State) (x : Saved) : State :=
  let rs := tenantRanges s x.v x.c
  let inR (k : Nat) : Bool := rs.any fun r => r.1 ≤ k && k < r.1 + r.2
  let m := rs.foldl (fun m r => memClear m r.1 (r.1 + r.2)) s.mem
  let s := setFull (setMem s (memWriteCells m x.cells)) (x.full.foldr insertNat (s.full.filter fun k => !(inR k)))
  setSaved s (s.saved.filter fun y => !(y.v == x.v && y.c == x.c))
/-- Save a tenant's chip windows on a die once all its clusters there are saved. -/
def saveChip (s : State) (v d : Nat) : State :=
  let all := (List.range 1024).all fun c => !(holdsCluster s v c && dieOf c == d) || isSaved s v c
  if all && !(isSaved s v (1024 + d)) then saveRanges s v (1024 + d) else s
/-- Where the chip windows of returning launches go that cannot go back to their places: to the lowest that are free
(R189, R190) (log 124, DESIGN CHOICE). -/
def chipHomes (live : List Window) : List (Nat × Window) → Option (List (Nat × Window × Nat))
  | [] => some []
  | (id, w) :: rest => (lowestBase live w.size (2 ^ 25)).bind fun b =>
      (chipHomes (live ++ [{ w with base := b }]) rest).map fun l => (id, w, b) :: l
/-- A chip window moves to another base: its launch's window, and what was saved of its bytes, full bits and releases. -/
def moveWindow (s : State) (x : Saved) (id : Nat) (w : Window) (base : Nat) : State × Saved :=
  let lo := memKey .chip (w.place * 2 ^ 25 + w.base)
  let to' := memKey .chip (w.place * 2 ^ 25 + base)
  let mv (k : Nat) : Nat := if lo ≤ k && k < lo + w.size then k - lo + to' else k
  let s := setLaunches s (updWhere (fun l => l.id == id)
    (fun l => { l with windows := l.windows.map fun u => if u == w then { u with base := base } else u }) s.launches)
  let s := setAcq (setDir s (s.dir.map fun r => { r with key := mv r.key })) (s.acq.map fun r => { r with key := mv r.key })
  (s, { x with cells := x.cells.map fun e => (mv e.1, e.2), full := x.full.map mv })
/-- Restore a tenant's chip windows on a die with the first of its clusters there; none while there is no room for them. -/
def restoreChip (s : State) (v d : Nat) : Option State :=
  match s.saved.find? fun x => x.v == v && x.c == 1024 + d with
  | none => some s
  | some x =>
    let live := liveWindows s 4 d
    let mine := (s.launches.filter fun l => l.tenant == v).flatMap fun l =>
      (l.windows.filter fun w => w.space == 4 && w.place == d).map fun w => (l.id, w)
    let stay := mine.filter fun e => clearOf live e.2.base e.2.size
    (chipHomes (live ++ stay.map (·.2)) (mine.filter fun e => !(stay.contains e))).map fun l =>
      let r := l.foldl (fun st e => moveWindow st.1 st.2 e.1 e.2.1 e.2.2) (s, x)
      restoreRanges r.1 r.2
/-- Instances that were resolved while they were saved (R283). -/
def resolveSaved (s : State) (v c : Nat) : State :=
  (s.insts.filter fun x => x.tenant == v && x.clus == c).foldl (fun s x => match x.todo with
    | some (act, ts, pend) => resolveAs s x act ts pend
    | none => s) s
/-- Write back and invalidate the L1s of a cluster. -/
def quietL1 (s : State) (c : Nat) : State :=
  let s := recallWhere s fun k _ _ => k == c
  setPcores s (updWhere (fun p => p.c == c) (fun p => { p with leases := [] }) s.pcores)
/-- The bytes of the save area become unstated: the spec gives its layout no form. -/
def spoilSave (s : State) (v : Nat) : State :=
  let t := tenantOf s v
  let n := t.savesz.toNat
  let bs := (List.range n).map fun j => Config.freeByte (s.free + j)
  match partWrite s v t.save bs with
  | .error _ => s
  | .ok s => setFree s (s.free + n)
/-- At the handler boundary, the tenant's state on a cluster goes to its save area. -/
def saveCluster (s : State) (v c : Nat) : State :=
  let mine (g : Closed) : Bool := g.c == c && (instOf s g.inst).any fun x => x.tenant == v
  let s := setClosed s (s.closed.filter fun g => !(mine g))
  spoilSave (saveChip (saveRanges (quietL1 s c) v c) v (dieOf c)) v
/-- CONTEXT_RESTORE: once no other tenant runs on the cluster, the tenant's state returns to it. The lane slices are zeroed
before its first firing, where another tenant ran since. -/
def execContextRestore (v c : Nat) (s : State) : Out :=
  let t := tenantOf s v
  match s.saved.find? fun x => x.v == v && x.c == c with
  | none => notEnabled "CONTEXT_RESTORE"
  | some x =>
    match if t.resume.contains c && !(othersOn s v c) then restoreChip s v (dieOf c) else none with
    | none => notEnabled "CONTEXT_RESTORE"
    | some s =>
      let s := restoreRanges s x
      let s := setEng s { s.eng with cmds := updWhere (fun m => m.tenant == v && m.c == c) (fun m => { m with stopped := false }) s.eng.cmds }
      let s := setTasks s { s.tasks with
        tasks := updWhere (fun k => k.tenant == v && k.engine.getD k.c == c) (fun k => { k with stopped := false }) s.tasks.tasks }
      let left := t.resume.filter (· != c)
      let s := putTenant s v { tenantOf s v with resume := left }
      let s := resolveSaved s v c
      .next (settle (if left.isEmpty then setPstat s v 0 else s) c)

end Sys2Proof.Machine
end

