-- ==== Sys2Proof/Machine/Tenancy.lean ====
section
/-! DEFINITION. Start-up, the group table, format range registers, tenant blocks, and the ready command and reset of a
function (R217, R225, R237, R400 to R410, R418). -/

namespace Sys2Proof.Machine

/-! ### Start-up (R400, R401) -/

/-- POWER_ON: the module is powered; self-test and training begin. -/
def execPowerOn (s : State) : Out :=
  if s.cfg.powered then notEnabled "POWER_ON" else .next (setCfg s { s.cfg with powered := true })
/-- PART_READY: self-test, HBM training and link training end; the links that trained are set, and the PF is a function
that configures (log 89, DEDUCED). -/
def execPartReady (links : BitVec 18) (s : State) : Out :=
  if !s.cfg.powered || s.cfg.ready then notEnabled "PART_READY"
  else
    let s := setCfg s { s.cfg with ready := true, links := links }
    .next (setVstate (sendMsix (putTenant s 0 { tenantOf s 0 with enabled := true }) 0 3) 0 1)
/-- The error bit of the part status is cleared; a change is announced (R413). -/
def clearError (s : State) : State :=
  if s.cfg.error then sendMsix (setCfg s { s.cfg with error := false }) 0 3 else s
/-- PART_STATUS_ERROR_CLEAR: the PF driver writes 1 to bit 1 of the part status. -/
def execPartStatusErrorClear (s : State) : Out := .next (clearError s)
/-- The configuration page of a function at its reset values (R406, R410); the quotas of its block stand. -/
def pageReset (t : Tenant) : Tenant :=
  { t with
    faccept := 0, troot := 0, trbase := 0, trlog := 0, save := 0, savesz := 0, pool := 0, poolfr := 0, headroom := 64
    backing := 0, backsz := 0, lqbase := 0, lqlog := 0, lqhead := 0, lqtail := 0, lqerr := 0, invdone := 0, frerr := 0
    pasid := 0, supl := none, suplHeld := none, suplLaunch := none, trhead := 0, trtail := 0, trlost := 0 }
/-- VF_ENABLE: the host enables a VF; it configures, with its credibility at 0 and its tables at their initial contents. -/
def execVfEnable (v : Nat) (s : State) : Out :=
  let t := tenantOf s v
  if v == 0 || 16 ≤ v || t.enabled || !s.cfg.ready then notEnabled "VF_ENABLE"
  else
    let fresh : Tenant := { pageReset t with
      enabled := true, cred := 0, promises := 0, broken := 0, text := [[], [], [], []] }
    let mine (g : Nat) : Bool := (s.cfg.groups.toList.getD g {}).owner == v && (s.cfg.groups.toList.getD g {}).assigned
    let s := setTasks s { s.tasks with meTables := s.tasks.meTables.filter fun e => e.1.1 != v }
    let s := setEng s { s.eng with nbTables := s.eng.nbTables.filter fun e => !(mine e.1.1) }
    .next (setVstate (putTenant s v fresh) v 1)

/-! ### Channel groups (R225, R403, R404) -/

/-- A group's table entry. -/
def groupAt (s : State) (g : Nat) : Group := s.cfg.groups.toList.getD g {}
/-- Replace a group's table entry. -/
def putGroup (s : State) (g : Nat) (e : Group) : State :=
  setCfg s { s.cfg with groups := s.cfg.groups.setIfInBounds g e }
/-- Invalidate every translation of a tenant that names a group (R231, R403). -/
def forgetGroup (s : State) (v g : Nat) : State :=
  let es := s.xlat.entries.filter fun e => !e.host && e.tenant == v && rangesMeet e.pa e.size (g * 2 ^ 34) (2 ^ 34)
  es.foldl (fun s e => startInval s v false e.va e.size false none) s
/-- The group table's mask of a tenant's groups. -/
def grantedMask (s : State) (v : Nat) : BitVec 48 :=
  (List.range 48).foldl (init := 0) fun m g =>
    if (groupAt s g).assigned && (groupAt s g).owner == v then m ||| ((1 : BitVec 48) <<< g) else m
/-- Bring a tenant's granted mask up to the table (R402) (log 91, DEDUCED). -/
def agreeMask (s : State) (v : Nat) : State := putTenant s v { tenantOf s v with grpmask := grantedMask s v }
/-- A write of a group table entry: a new owner starts the zeroing, and assigned clear removes the group. -/
def writeGroup (s : State) (g : Nat) (val : Word) : State :=
  let e := groupAt s g
  let own := fieldOf val.toNat 0 4
  if val.getLsbD 8 then
    if e.assigned && e.owner == own then s
    else
      let s := if e.assigned then forgetGroup s e.owner g else s
      let s := putGroup s g { owner := own, assigned := true, ready := false }
      agreeMask (agreeMask s e.owner) own
  else
    let s := if e.assigned then forgetGroup s e.owner g else s
    agreeMask (putGroup s g { owner := own, assigned := false, ready := false }) e.owner
/-- GROUP_ASSIGN: a write that sets assigned. -/
def execGroupAssign (g : Nat) (val : Word) (s : State) : Out :=
  if 48 ≤ g || !(val.getLsbD 8) then notEnabled "GROUP_ASSIGN" else .next (writeGroup s g val)
/-- GROUP_ZEROING_DONE: the whole group reads zero, and then its ready bit is set. -/
def execGroupZeroingDone (g : Nat) (s : State) : Out :=
  let e := groupAt s g
  if 48 ≤ g || !e.assigned || e.ready then notEnabled "GROUP_ZEROING_DONE"
  else .next (putGroup (fillRange s (memKey .device (g * 2 ^ 34)) (2 ^ 34) []) g { e with ready := true })
/-- GROUP_REMOVE: a write that clears assigned. -/
def execGroupRemove (g : Nat) (val : Word) (s : State) : Out :=
  if 48 ≤ g || val.getLsbD 8 then notEnabled "GROUP_REMOVE" else .next (writeGroup s g val)

/-! ### Format range registers (R237, R238) -/

/-- A register of 64-bit words with one word replaced. -/
def replaceWord {n : Nat} (f : BitVec n) (word : Nat) (val : Word) : BitVec n :=
  let low := f.toNat % 2 ^ (64 * word)
  let high := f.toNat / 2 ^ (64 * word + 64)
  BitVec.ofNat n (low + val.toNat * 2 ^ (64 * word) + high * 2 ^ (64 * word + 64))
/-- Whether the reserved fields of a register are clear; `pair` is one unless fmt is CB2R (log 92, DEDUCED). -/
def fregClean (f : BitVec 256) : Bool :=
  let z (lo w : Nat) : Bool := fieldOf f.toNat lo w == 0
  z 1 15 && z 41 39 && z 105 34 && z 169 23 && z 197 3 && z 201 7 && z 216 40 &&
    (fieldOf f.toNat 192 5 == 19 || z 208 4)
/-- Whether a register keeps the rules of its fields; in one that is not enabled, a base, a size or a format of 0 is not
written yet (log 92, DEDUCED). -/
def fregOk (s : State) (f : BitVec 256) : Bool :=
  let fmt := fieldOf f.toNat 192 5
  let v := fregVf f
  let base := fieldOf f.toNat 16 25 * 2 ^ 16
  let size := fieldOf f.toNat 80 25 * 2 ^ 16
  let groups := rangeFrom (base / 2 ^ 34) ((base + size - 1) / 2 ^ 34 + 1 - base / 2 ^ 34)
  let p := vget s.cfg.fregs (fieldOf f.toNat 208 4) 0
  let en := f.getLsbD 0
  fmt ≤ 19 && (!en || (fmt != 0 && size != 0)) &&
    (fmt == 0 || size == 0 || ((!en && base == 0) || groups.all fun g => readyPa s v (g * 2 ^ 34)) &&
      size * 8 / codeWidth fmt * (if f.getLsbD 200 then 2 else 4) ≤ 2 ^ 36) &&
    (fmt != 19 || (p.getLsbD 0 && fieldOf p.toNat 192 5 == 18 && fregVf p == v))
/-- FORMAT_RANGE_WRITE: a word of a register is written. Installed, its alias lines go; refused, its error bit is set. -/
def execFormatRangeWrite (reg word : Nat) (val : Word) (s : State) : Out :=
  if 16 ≤ reg || 4 ≤ word then notEnabled "FORMAT_RANGE_WRITE"
  else
    let f := replaceWord (vget s.cfg.fregs reg 0) word val
    if !(fregClean f) || !(fregOk s f) then
      let t := tenantOf s 0
      .next (refuseWrite (putTenant s 0 { t with frerr := t.frerr ||| BitVec.ofNat 16 (2 ^ reg) }))
    else
      let s := dropLines s fun l => isAlias (l.line * 256) && l.line * 256 / 2 ^ 36 % 16 == reg
      .next (setCfg s { s.cfg with fregs := s.cfg.fregs.setIfInBounds reg f })
/-- FRERR_READ: the refused-write bits are returned and cleared. -/
def execFrerrRead (v : Nat) (s : State) : Out := .next (putTenant s v { tenantOf s v with frerr := 0 })

/-! ### What the ready command checks (R407) -/

/-- Whether n bytes of a tenant's VA lie wholly in its ready groups; fuel bounds the pages. -/
def readyFrom (s : State) (v : Nat) : Nat → Nat → Nat → Bool
  | 0, _, n => n == 0
  | fuel + 1, va, n =>
    if n == 0 then true
    else
      match deviceWalk s v va with
      | .error _ => false
      | .ok l =>
        let m := min n (l.va + l.size - va)
        readyPa s v (paIn l va) && readyFrom s v fuel (va + m) (n - m)
/-- Whether n bytes at a space-0x0 pointer lie wholly in a tenant's ready groups. -/
def rangeReady (s : State) (v : Nat) (ea : Word) (n : Nat) : Bool :=
  spaceOf ea == 0 && vaClean ea && n ≤ 2 ^ 41 && readyFrom s v (n / 65536 + 2) (vaOf ea) n
/-- Whether a time-sliced tenant's save area passes its checks. -/
def saveOk (s : State) (v : Nat) : Bool :=
  let t := tenantOf s v
  let cl := (List.range 1024).filter fun c => t.clmask.getLsbD c
  let dies := (List.range 4).filter fun d => cl.any fun c => dieOf c == d
  t.save.toNat % 2 ^ 21 == 0 && cl.length * 2 ^ 20 + dies.length * 2 ^ 25 ≤ t.savesz.toNat &&
    rangeReady s v t.save t.savesz.toNat
/-- The checks of a vcmd of ready. -/
def configOk (s : State) (v : Nat) : Bool :=
  let t := tenantOf s v
  t.faccept.toNat < 64 && t.faccept.getLsbD 0 && 4 ≤ t.trlog.toNat && t.trlog.toNat ≤ 16 &&
    4 ≤ t.lqlog.toNat && t.lqlog.toNat ≤ 16 && 2 ≤ t.poolfr.toNat && t.pool.toNat % 2 ^ 21 == 0 &&
    rangeReady s v t.trbase (64 * 2 ^ t.trlog.toNat) && rangeReady s v t.pool (t.poolfr.toNat * 2 ^ 21) &&
    rangeReady s v t.lqbase (8 * 2 ^ t.lqlog.toNat) && (!t.slice || saveOk s v)
/-- A vcmd of ready; it acts only while the tenant configures. -/
def readyTenant (s : State) (v : Nat) : State :=
  if (tenantOf s v).vstate != 1 then s else setVstate s v (if configOk s v then 2 else 4)
/-- VCMD_READY. -/
def execVcmdReady (v : Nat) (s : State) : Out := .next (readyTenant s v)

/-! ### Tenant blocks (R204, R402, R403) -/

/-- Two tenants' window ways by quota overlap (R204). -/
def waysMeet (a b : Tenant) : Bool :=
  let lo (t : Tenant) : Nat := 16 - qWofs t - qWindow t
  let hi (t : Tenant) : Nat := 16 - qWofs t
  qWindow a != 0 && qWindow b != 0 && lo a < hi b && lo b < hi a
/-- Another tenant that shares a cluster with a tenant of this block fails a test. -/
def sharers (s : State) (v : Nat) (t : Tenant) (bad : Tenant → Bool) : Bool :=
  (List.range 16).any fun u => u != v && (tenantOf s u).clmask &&& t.clmask != 0 && bad (tenantOf s u)
/-- The window ways of a tenant in the slices of a cluster, as slice and way. -/
def clusterWays (t : Tenant) (c : Nat) : List (Nat × Nat) :=
  let n := windowWays t (dieOf c)
  (rangeFrom (c * 8) 8).flatMap fun slice => (rangeFrom (16 - qWofs t - n) n).map fun way => (slice, way)
/-- The window ways of a cluster that joins a partition: lines there go, and the bytes are unstated (R217)
(log 94, DEDUCED). -/
def joinWindow (s : State) (v c : Nat) : State :=
  let ws := clusterWays (tenantOf s v) c
  ws.foldl (init := dropLines s fun l => ws.contains (l.slice, l.way)) fun s w =>
    let (s, bytes) := freeBytes (forgetLost s w.1 w.2) 3072
    setMem s (memWriteBytes s.mem (wayKey w.1 w.2 0 0) bytes)
/-- A write of a word of clmask: clusters join at once and leave under R403. -/
def writeClmask (s : State) (v word : Nat) (val : Word) : State :=
  let t := tenantOf s v
  let stay := (List.range 1024).foldl (init := t.clmask) fun m c => if t.leaving.contains c then m &&& ~~~((1 : BitVec 1024) <<< c) else m
  let new := replaceWord stay word val
  let added := new &&& ~~~t.clmask
  let t' := { t with clmask := t.clmask ||| new
                     leaving := (List.range 1024).filter fun c => t.clmask.getLsbD c && !(new.getLsbD c) }
  if sharers s v { t' with clmask := new } (fun u => !(t.slice && u.slice) || waysMeet t u) then refuseWrite s
  else
    (List.range 1024).foldl (init := putTenant s v t') fun s c => if added.getLsbD c then joinWindow s v c else s
/-- A write of sbase and scount: no overlap, and no removal of a slot that is not idle or halted (log 93, DEDUCED). -/
def writeSlots (s : State) (v : Nat) (val : Word) : State :=
  let t := tenantOf s v
  let base := fieldOf val.toNat 0 32
  let n := fieldOf val.toNat 32 32
  let within (k : Nat) : Bool := base ≤ k && k < base + n
  let busy := s.slots.any fun k =>
    slotTenant s k.num == some v && !(within k.num) && !(k.st == .idle || k.st == .halted)
  let clash := (List.range 16).any fun u =>
    let o := tenantOf s u
    u != v && o.scount != 0 && n != 0 && rangesMeet base n o.sbase.toNat o.scount.toNat
  if 65536 < n || (n != 0 && 65536 < base + n) || busy || clash then refuseWrite s
  else putTenant s v { t with sbase := BitVec.ofNat 32 base, scount := BitVec.ofNat 32 n }
/-- The protected lines of a tenant above its protect quota in their sets, the highest ways first, count as nu 30: they become
promises of the default class 16, from the value that the slice's table holds of their clock (R207, R403) (log 118, DESIGN
CHOICE). -/
def demoteProtected (s : State) (v : Nat) : State :=
  let mine (l : Line) : Bool := l.owner == v && l.kind == 2
  let above (l : Line) : Bool :=
    qProtect (tenantOf s v) ≤ s.l2.lines.countP fun k => mine k && k.slice == l.slice && k.set == l.set && k.way < l.way
  let down (l : Line) : Line := { l with kind := 1, due := (tableT s l.slice l.clk + classDist 16 / 16) % 65536 }
  setL2 s { s.l2 with lines := updWhere (fun l => mine l && above l) down s.l2.lines }
/-- A write of l2q and sched. A smaller window quota shrinks the windows to it, and another wofs discards them. -/
def writeL2q (s : State) (v : Nat) (val : Word) : State :=
  let t := tenantOf s v
  let q : W32 := BitVec.ofNat 32 (val.toNat % 2 ^ 32) &&& 0xFF0F031F
  let sc : W32 := BitVec.ofNat 32 (val.toNat / 2 ^ 32) &&& 0x01FFFFFF
  let t' := { t with l2q := q, sched := sc }
  let age := fieldOf sc.toNat 8 17
  let ok := qShare t' ≤ 16 && qProtect t' ≤ 8 && qWindow t' ≤ 8 && qWofs t' ≤ 8 && 1 ≤ fieldOf sc.toNat 0 8 && 1 ≤ age &&
    age ≤ 65536
  if !ok || sharers s v t' (waysMeet t') then refuseWrite s
  else
    let fit (w : Nat) : Nat := if qWofs t' != qWofs t then 0 else min w (qWindow t')
    let s := (List.range 4).foldl (init := s) fun s d =>
      let w := windowWays (tenantOf s v) d
      if fit w < w then resizeWindow s v d (fit w) else s
    demoteProtected (putTenant s v { tenantOf s v with l2q := q, sched := sc }) v
/-- A write of slice, with the checks of R402. -/
def writeSlice (s : State) (v : Nat) (n : Nat) : State :=
  let t := tenantOf s v
  match n with
  | 0 => if sharers s v t (fun _ => true) then refuseWrite s else putTenant s v { t with slice := false }
  | 1 => if t.vstate == 2 && !(saveOk s v) then refuseWrite s else putTenant s v { t with slice := true }
  | _ => refuseWrite s
/-- A write of pcmd (R411). -/
def writePcmd (s : State) (v : Nat) (val : W32) : State :=
  match fieldOf val.toNat 0 8 with
  | 1 => preemptTenant s v val false
  | 2 => preemptTenant s v val true
  | 3 => resumeTenant s v val
  | _ => s
/-- An 8-byte write at an offset of a tenant block. -/
def writeBlock (s : State) (v off : Nat) (val : Word) : State :=
  let t := tenantOf s v
  let lo := val.toNat % 2 ^ 32
  if off < 0x80 then writeClmask s v (off / 8) val
  else
    match off with
    | 0x80 =>
      if val.toNat % 2 ^ 48 == (grantedMask s v).toNat then putTenant s v { t with grpmask := BitVec.ofNat 48 val.toNat }
      else refuseWrite s
    | 0x88 => writeSlots s v val
    | 0x90 => writeL2q s v val
    | 0x98 =>
      if 20 ≤ lo % 32 && lo % 32 ≤ 30 then putTenant s v { t with prlim := BitVec.ofNat 32 (lo % 32) } else refuseWrite s
    | 0xA0 => putTenant s v { t with hmreg := val }
    | 0xA8 => writeSlice s v (val.toNat / 2 ^ 32)
    | 0xB0 => writePcmd s v (BitVec.ofNat 32 lo)
    | _ => s
/-- A write of a tenant block: a quota write waits while a pre-emption of the tenant is stopping (R418). -/
def takeBlock (s : State) (v off : Nat) (val : Word) : State :=
  if off != 0xB0 && !(tenantOf s v).preempt.isEmpty then setCfg s { s.cfg with held := s.cfg.held ++ [(v, off, val)] }
  else writeBlock s v off val
/-- TENANT_BLOCK_WRITE. -/
def execTenantBlockWrite (v off : Nat) (val : Word) (s : State) : Out :=
  if 16 ≤ v || 0x400 ≤ off || off % 8 != 0 then notEnabled "TENANT_BLOCK_WRITE" else .next (takeBlock s v off val)
/-- The writes of a tenant's block that have waited take effect, oldest first. -/
def takeHeld (s : State) (v : Nat) : State :=
  let mine := s.cfg.held.filter fun e => e.1 == v
  mine.foldl (fun s e => writeBlock s v e.2.1 e.2.2) (setCfg s { s.cfg with held := s.cfg.held.filter fun e => e.1 != v })
/-- A pre-emption or a resume has ended on a cluster; with the last cluster of it pstat changes (R411). -/
def leavePcmd (s : State) (v c : Nat) : State :=
  let t := tenantOf s v
  let rest (l : List Nat) : List Nat := l.filter (· != c)
  let ends (l : List Nat) : Bool := l.contains c && (rest l).isEmpty
  let s := putTenant s v { t with preempt := rest t.preempt, urgent := rest t.urgent, resume := rest t.resume }
  let s := if ends t.preempt then takeHeld (setPstat s v 2) v else s
  if ends t.resume then setPstat s v 0 else s
/-- CONTEXT_SAVE: at the handler boundary, the tenant's state on a cluster goes to its save area. -/
def execContextSave (v c : Nat) (s : State) : Out :=
  let s' := if (tenantOf s v).urgent.contains c then discardOn s v c else s
  if !((tenantOf s v).preempt.contains c) || !(atBoundary s' v c) then notEnabled "CONTEXT_SAVE"
  else .next (takeFaults (leavePcmd (saveCluster s' v c) v c))
/-- CLUSTER_LEAVE_PARTITION: the tenant holds no level instance on a removed cluster, and it leaves. -/
def execClusterLeavePartition (v c : Nat) (s : State) : Out :=
  let t := tenantOf s v
  let holds := (s.insts.any fun x => x.tenant == v && x.clus == c) ||
    s.launches.any fun l => l.tenant == v && l.windows.any fun w => w.space != 4 && w.place == c
  if !(t.leaving.contains c) || holds then notEnabled "CLUSTER_LEAVE_PARTITION"
  else
    let t' := { t with clmask := t.clmask &&& ~~~((1 : BitVec 1024) <<< c), leaving := t.leaving.filter (· != c) }
    let s := setSaved (putTenant s v t') (s.saved.filter fun x => !(x.v == v && x.c == c))
    let s := (clusterWays t c).foldl (fun s w => forgetLost s w.1 w.2) (leaveHomes s v c)
    .next (leavePcmd s v c)

/-! ### Reset of a function (R410, R418) -/

/-- What each core holds of a tenant goes with its launches: firings stop, and accesses that have not performed never do. -/
def stopFirings (s : State) (v : Nat) : State :=
  let s := (s.firings.filter fun f => f.tenant == v).foldl releaseCores s
  setPcores s (s.pcores.map fun p => { p with accs := p.accs.filter fun a => a.tenant != v })
/-- The tenant's engine commands and tile tasks are abandoned; what they had still to write is unstated (R322). -/
def abandonWork (s : State) (v : Nat) : State :=
  let s := (s.eng.cmds.filter fun m => m.tenant == v).foldl (fun s m => dropCmd (spoilCmd s m) m.id) s
  let s := setEng s { s.eng with rejects := s.eng.rejects.filter fun e => e.1.1 != v }
  setTasks s { s.tasks with tasks := s.tasks.tasks.filter fun t => t.tenant != v
                            rejects := s.tasks.rejects.filter fun e => e.1.1 != v }
/-- The tenant's windows are discarded on every die (R217). -/
def dropWindows (s : State) (v : Nat) : State := (List.range 4).foldl (fun s d => resizeWindow s v d 0) s
/-- What the context level holds of a tenant: its steps, contexts, pages, prefix index and loaded models. -/
def dropContexts (s : State) (v : Nat) : State :=
  let s := setCtx s { s.ctx with steps := s.ctx.steps.filter fun t => t.tenant != v }
  let mine := (s.slots.filter fun k => slotTenant s k.num == some v).map (·.num)
  let s := mine.foldl finishReset s
  setCtx s { s.ctx with
    pages := s.ctx.pages.filter fun p => p.tenant != v
    pfx := s.ctx.pfx.filter fun p => p.tenant != v
    models := s.ctx.models.filter fun m => m.tenant != v
    faults := s.ctx.faults.filter fun p => p.1 != v
    stubs := s.ctx.stubs.filter fun b => b.tenant != v }
/-- The tenant's translations, invalidations and page requests are forgotten. -/
def dropXlat (s : State) (v : Nat) : State :=
  setXlat s { s.xlat with
    failedCmds := s.xlat.failedCmds.filter fun e => e.2 / 2 ^ 52 != v
    entries := s.xlat.entries.filter fun e => e.tenant != v
    reqs := s.xlat.reqs.filter fun r => r.fn != v
    invals := s.xlat.invals.filter fun i => i.fn != v }
/-- A reset of a function (log 95, DEDUCED). -/
def resetTenant (s : State) (v : Nat) : State :=
  let s := setVstate s v 3
  let s := dropContexts s v
  let s := abandonWork (stopFirings s v) v
  let s := (s.launches.filter fun l => l.tenant == v).foldl (fun s l => forgetLaunch s l.id) s
  let s := setRecords s (s.records.filter fun r => r.tenant != v)
  let s := dropWindows (dropLines s fun l => l.owner == v) v
  let s := setSaved (dropXlat s v) (s.saved.filter fun x => x.v != v)
  let t := { pageReset (tenantOf s v) with preempt := [], urgent := [], resume := [] }
  sweep (takeHeld (setVstate (setPstat (putTenant s v t) v 0) v 1) v)
/-- VCMD_RESET: a vcmd of reset; a function that is not enabled has no page to write it to. -/
def execVcmdReset (v : Nat) (s : State) : Out :=
  if (tenantOf s v).enabled then .next (resetTenant s v) else notEnabled "VCMD_RESET"
/-- FUNCTION_LEVEL_RESET: as a vcmd of reset does. -/
def execFunctionLevelReset (v : Nat) (s : State) : Out :=
  if (tenantOf s v).enabled then .next (resetTenant s v) else notEnabled "FUNCTION_LEVEL_RESET"
/-- WINDOW_UNCORRECTABLE_ERROR: an error strikes the window line at an offset, whose bytes are lost. -/
def execWindowUncorrectableError (v die off : Nat) (s : State) : Out :=
  if windowSize s v die ≤ off then notEnabled "WINDOW_UNCORRECTABLE_ERROR"
  else
    let k := windowKey s v die (off / 256 * 256)
    .next (setL2 s { s.l2 with lost := (rangeFrom k 256).foldr insertNat s.l2.lost })

end Sys2Proof.Machine
end

