-- ==== Sys2Proof/Machine/Fabric.lean ====
section
/-! DEFINITION. Host accesses to configuration and slot registers and to the aperture, and the fabric's links and members
(R371, R401, R405, R406, R414 to R416). -/

namespace Sys2Proof.Machine

/-! ### The configuration page of a function (R406) -/

/-- The halves of an 8-byte word that an access covers: the lower, the upper. -/
def halves (off size : Nat) : Bool × Bool := (size == 8 || off % 8 == 0, size == 8 || off % 8 == 4)
/-- The 64-bit word that a write leaves: a covered half is replaced by the value written to it. -/
def mergeWord (old : Word) (off size : Nat) (val : Word) : Word :=
  let v := if size == 8 then val.toNat else val.toNat % 2 ^ 32 * 2 ^ (8 * (off % 8))
  let h := halves off size
  pair32 (if h.1 then v % 2 ^ 32 else old.toNat % 2 ^ 32) (if h.2 then v / 2 ^ 32 else old.toNat / 2 ^ 32)
/-- An `Out` without its stop: an operation that may not stop here. -/
def outState (s : State) (o : Out) : State := match o with
  | .next t => t
  | _ => s
/-- A write of a vcmd. -/
def writeVcmd (s : State) (v n : Nat) : State :=
  if n == 1 then readyTenant s v else if n == 2 && (tenantOf s v).enabled then resetTenant s v else s
/-- A write to a word of a function's configuration page; a field written only while configuring keeps its value else
(log 90, DESIGN CHOICE). -/
def writePage (s : State) (v off size : Nat) (val : Word) : State :=
  let t := tenantOf s v
  let w := off / 8 * 8
  let new := mergeWord (pageWord s v w) off size val
  let lo : W32 := BitVec.ofNat 32 (new.toNat % 2 ^ 32)
  let hi : W32 := BitVec.ofNat 32 (new.toNat / 2 ^ 32)
  let h := halves off size
  let whileConf (u : Tenant) : State := if t.vstate == 1 then putTenant s v u else s
  match w with
  | 0x010 => whileConf { t with faccept := new }
  | 0x018 => if h.2 then writeVcmd s v hi.toNat else s
  | 0x020 => putTenant s v { t with troot := new }
  | 0x028 => whileConf { t with trbase := new }
  | 0x030 => whileConf { t with trlog := lo }
  | 0x038 => whileConf { t with save := new }
  | 0x040 => whileConf { t with savesz := new }
  | 0x048 => whileConf { t with pool := new }
  | 0x050 => putTenant s v { t with poolfr := if t.vstate == 1 then lo else t.poolfr, headroom := hi }
  | 0x058 => whileConf { t with backing := new }
  | 0x060 => whileConf { t with backsz := new }
  | 0x068 => whileConf { t with lqbase := new }
  | 0x070 => whileConf { t with lqlog := lo }
  | 0x078 => if h.1 then outState s (execLqDoorbell v lo s) else s
  | 0x080 => outState s (execInvWrite v new s)
  | 0x090 => if h.1 then outState s (execPriRestart v lo s) else s
  | 0x098 => whileConf { t with pasid := lo &&& 0xFFFFF }
  | 0x0A0 => outState s (execSuplWrite v new s)
  | _ => s

/-! ### The PF's part-wide registers (R401) -/

/-- Whether a tenant is enabled: its function is, and its vstate reads ready (R400). -/
def anyEnabled (s : State) : Bool := s.tenants.toList.any fun t => t.enabled && t.vstate == 2
/-- A cluster's permission table (R176). -/
def permTable (s : State) (c : Nat) : BitVec 1024 := ((s.cfg.perms.find? fun e => e.1 == c).map (·.2)).getD 0
/-- A cluster's permission table as it reads (R176): its own bit set, and clear what lies outside the partitions of the
tenants that hold the cluster (log 123, DESIGN CHOICE where several do). -/
def permRead (s : State) (c : Nat) : BitVec 1024 :=
  let parts := (List.range 16).foldl (init := (0 : BitVec 1024)) fun m v =>
    if holdsCluster s v c then m ||| (tenantOf s v).clmask else m
  (permTable s c &&& parts) ||| ((1 : BitVec 1024) <<< c)
/-- A change of a word of a cluster's permission table (R176). -/
def writePerm (s : State) (c word : Nat) (val : Word) : State :=
  setCfg s { s.cfg with perms := putWhere (fun e => e.1 == c) (c, replaceWord (permTable s c) word val) s.cfg.perms }
/-- A change of a word of a home-mask register (R203). -/
def writeHomeMask (s : State) (die j word : Nat) (val : Word) : State :=
  let m := replaceWord (homeMask s die j) word val
  setCfg s { s.cfg with hmasks := putWhere (fun e => e.1 == (die, j)) ((die, j), m) s.cfg.hmasks }

/-! ### Lost packages (R415) -/

/-- Whether an access goes to a package. -/
def goesTo (a : Acc) (lost : Nat → Bool) : Bool := a.space == 2 && a.kind != .fence && lost (fieldOf a.ea.toNat 48 12)
/-- Whether an access awaits a reply: a load, AMO or CAS. -/
def awaitsReply (a : Acc) : Bool := a.kind == .load || a.kind == .amo || a.kind == .cas
/-- The accesses that go to a lost package, with their cores. -/
def lostAccs (s : State) (lost : Nat → Bool) (p : Acc → Bool) : List (Nat × Nat × Acc) :=
  s.pcores.flatMap fun k => (k.accs.filter fun a => goesTo a lost && !(sysDone a) && p a).map fun a => (k.c, k.i, a)
/-- An access that is not sent yet, or that awaits a reply, traps REMOTE with sub 0; with it go the others of its firing. -/
def trapLost (s : State) (e : Nat × Nat × Acc) : State :=
  let a := e.2.2
  let s := dropAcc s e.1 e.2.1 a.id
  match firingOf s a.firing with
  | none => s
  | some f =>
    let t : TrapInfo := { core := e.2.1, cause := 0x0C, sub := 0, addr := a.ea }
    trapFiring s f t (a.words.head?.getD 0) (a.words[1]?.getD 0)
/-- Accesses with their cores, the oldest first. -/
def insertOld (e : Nat × Nat × Acc) : List (Nat × Nat × Acc) → List (Nat × Nat × Acc)
  | [] => [e]
  | x :: xs => if e.2.2.id ≤ x.2.2.id then e :: x :: xs else x :: insertOld e xs
/-- Posted writes to a lost package are dropped, with a record for each firing whose first one this is. The firings that have
had theirs come back. -/
def dropLost (s : State) (l : List (Nat × Nat × Acc)) : State × List Nat :=
  let go (st : State × List Nat) (e : Nat × Nat × Acc) : State × List Nat :=
    let a := e.2.2
    let r := memErr st.1 e.1 e.2.1 a
    let s := dropAcc st.1 e.1 e.2.1 a.id
    if st.2.contains a.firing then (s, st.2) else (queueRecord s r, a.firing :: st.2)
  (l.foldr insertOld []).foldl go (s, [])
/-- The writes of engine commands that are on their way to a lost package. -/
def lostWrites (s : State) (lost : Nat → Bool) : List (Cmd × Word) :=
  (s.paths.filter fun p => lost p.pkg).flatMap fun p => p.queue.filterMap fun k => match k with
    | .write id ea => (cmdOf s id).map fun m => (m, ea)
    | _ => none
/-- They are dropped, with a record for each firing that has had none. -/
def dropWrites (s : State) (told : List Nat) (l : List (Cmd × Word)) : State :=
  let go (st : State × List Nat) (e : Cmd × Word) : State × List Nat :=
    let m := e.1
    let r : Record := { die := dieOf m.c, tenant := m.tenant, rtype := 4, core := m.cores.head?.getD 0, clus := m.c,
                        actid := m.actor, val := e.2, firing := m.firing, ts := maxPts st.1 m.c m.cores }
    if st.2.contains m.firing then st else (queueRecord st.1 r, m.firing :: st.2)
  (l.foldl go (s, told)).1
/-- What goes to a lost package leaves the fabric: posted writes that performed there are Done, its markers count as answered,
and its paths carry nothing. -/
def clearLost (s : State) (lost : Nat → Bool) : State :=
  let s := setPaths s (s.paths.filter fun p => !(lost p.pkg))
  let done (a : Acc) : Bool := goesTo a lost && a.performed && !(awaitsReply a)
  let s := setPcores s (s.pcores.map fun p =>
    { p with accs := p.accs.filter fun a => !(done a), used := p.used.filter fun e => !(lost e.1) })
  let s := setEng s { s.eng with cmds := s.eng.cmds.map fun k => { k with away := k.away.filter fun p => !(lost p) } }
  let gone := s.markers.filter fun m => lost m.pkg
  gone.foldl gatherMarker (setMarkers s (s.markers.filter fun m => !(lost m.pkg)))
/-- Packages leave the domain: what is not sent yet to them or awaits their reply traps, posted writes on their way are dropped,
and their markers count as answered. An access that is not sent and whose firing has gone has no firing to trap, and is dropped
as a posted write is (log 96, DEDUCED). -/
def losePackages (s : State) (lost : Nat → Bool) : State :=
  let traps := lostAccs s lost fun a => (!a.sent || awaitsReply a) && (firingOf s a.firing).isSome
  let s := (traps.foldr insertOld []).foldl trapLost s
  let writes := lostWrites s lost
  let r := dropLost s (lostAccs s lost fun a => !a.performed)
  sweep (clearLost (dropWrites r.1 r.2 writes) lost)
/-- A write of a word of the membership table; the package itself is never lost to itself. -/
def writeMembers (s : State) (word : Nat) (val : Word) : State :=
  let old := s.cfg.members
  let new := replaceWord old word val
  let own := s.cfg.pkgid.toNat
  losePackages (setCfg s { s.cfg with members := new }) fun k => k != own && old.getLsbD k && !(new.getLsbD k)
/-- MEMBERSHIP_WRITE: a word of the domain membership table. -/
def execMembershipWrite (word : Nat) (val : Word) (s : State) : Out :=
  if 64 ≤ word then notEnabled "MEMBERSHIP_WRITE" else .next (writeMembers s word val)

/-! ### REGISTER_WRITE (R371, R401, R406) -/

/-- An 8-byte write to the PF's part-wide space; a reserved offset ignores it (R6). -/
def writePf (s : State) (off : Nat) (val : Word) : State :=
  if off == 0x1000 then (if val.getLsbD 1 then clearError s else s)
  else if 0x10000 ≤ off && off < 0x14000 then outState s (execTenantBlockWrite ((off - 0x10000) / 0x400) (off % 0x400) val s)
  else if 0x20000 ≤ off && off < 0x20180 then writeGroup s ((off - 0x20000) / 8) val
  else if 0x30000 ≤ off && off < 0x30200 then
    outState s (execFormatRangeWrite ((off - 0x30000) / 32) (off / 8 % 4) val s)
  else if off == 0x40000 then
    if anyEnabled s then refuseWrite s else setCfg s { s.cfg with pkgid := BitVec.ofNat 12 val.toNat }
  else if 0x40100 ≤ off && off < 0x40300 then writeMembers s ((off - 0x40100) / 8) val
  else if 0x100000 ≤ off && off < 0x120000 then writePerm s ((off - 0x100000) / 128) (off / 8 % 16) val
  else if 0x200000 ≤ off && off < 0x202000 then
    writeHomeMask s ((off - 0x200000) / 0x800) ((off - 0x200000) / 32 % 64) (off / 8 % 4) val
  else s
/-- The 64-bit word of a slot page that a 4-byte write merges with (R371). -/
def slotWord (k : Slot) (off : Nat) : Word :=
  if off == 0x000 then k.prog
  else if off == 0x008 then pair32 k.psize.toNat k.entry.toNat
  else if off == 0x010 then k.amem
  else if off == 0x018 then pair32 k.ctl.toNat 0
  else if 0x020 ≤ off && off < 0x040 then k.init.getD ((off - 0x020) / 8) 0
  else if 0x100 ≤ off && off < 0x180 then k.a.toList.getD ((off - 0x100) / 8) 0
  else 0
/-- A command written to a slot. -/
def slotCommand (s : State) (n : Nat) (cmd : Nat) : State :=
  match cmd with
  | 1 => startSlot s n
  | 2 => stopSlot s n
  | 3 => resumeSlot s n
  | 4 => resetSlot s n
  | _ => s
/-- A 4-byte or 8-byte write to a slot page. -/
def writeSlotPage (s : State) (n off size : Nat) (val : Word) : State :=
  let k := slotAt s n
  let w := off / 8 * 8
  let new := mergeWord (slotWord k w) off size val
  let lo : W32 := BitVec.ofNat 32 (new.toNat % 2 ^ 32)
  let h := halves off size
  if w == 0x000 then putSlot s { k with prog := new }
  else if w == 0x008 then putSlot s { k with psize := lo, entry := BitVec.ofNat 32 (new.toNat / 2 ^ 32) }
  else if w == 0x010 then putSlot s { k with amem := new }
  else if w == 0x018 then putSlot s { k with ctl := lo &&& 3 }
  else if 0x020 ≤ w && w < 0x040 then putSlot s { k with init := k.init.set ((w - 0x020) / 8) new }
  else if w == 0x040 then (if h.1 then slotCommand s n lo.toNat else s)
  else if w == 0x050 then signalSlot s n (mergeWord 0 off size val)
  else if 0x100 ≤ w && w < 0x180 && (k.st == .stopped || k.st == .trapped) then
    putSlot s { k with a := k.a.setIfInBounds ((w - 0x100) / 8) new }
  else s
/-- The 64-bit word of a slot page that a read returns (R371). -/
def slotRead (k : Slot) (off : Nat) : Word :=
  let st : Nat := match k.st with
    | .idle => 0
    | .running => 1
    | .stopping => 2
    | .stopped => 3
    | .trapped => 4
    | .halted => 5
  match off with
  | 0x040 => pair32 0 st
  | 0x048 => pair32 k.pc.toNat k.cause.toNat
  | 0x050 => k.sig
  | 0x058 => k.hmsg
  | 0x060 => pair32 k.lpc.toNat 0
  | 0x180 => k.pend.setWidth 64
  | _ => slotWord k off
/-- The 64-bit word of a tenant block that a read returns (R402); pcmd reads 0. -/
def blockRead (s : State) (v off : Nat) : Word :=
  let t := tenantOf s v
  if off < 0x80 then t.clmask.extractLsb' (64 * (off / 8)) 64
  else
    match off with
    | 0x80 => t.grpmask.setWidth 64
    | 0x88 => pair32 t.sbase.toNat t.scount.toNat
    | 0x90 => pair32 t.l2q.toNat t.sched.toNat
    | 0x98 => pair32 t.prlim.toNat 0
    | 0xA0 => t.hmreg
    | 0xA8 => pair32 (credOf s v) (if t.slice then 1 else 0)
    | 0xB0 => pair32 0 t.pstat
    | _ => 0
/-- The 64-bit word of a group table entry (R404). -/
def groupRead (s : State) (g : Nat) : Word :=
  let e := groupAt s g
  BitVec.ofNat 64 (e.owner % 16 + (if e.assigned then 256 else 0) + (if e.ready then 512 else 0))
/-- The 64-bit word of the PF's part-wide space that a read returns; a reserved offset reads 0 (R6, R401). -/
def pfRead (s : State) (off : Nat) : Word :=
  if off == 0x1000 then BitVec.ofNat 64 ((if s.cfg.ready then 1 else 0) + (if s.cfg.error then 2 else 0))
  else if off == 0x1008 then s.cfg.links.setWidth 64
  else if 0x10000 ≤ off && off < 0x14000 then blockRead s ((off - 0x10000) / 0x400) (off % 0x400)
  else if 0x20000 ≤ off && off < 0x20180 then groupRead s ((off - 0x20000) / 8)
  else if 0x30000 ≤ off && off < 0x30200 then
    (vget s.cfg.fregs ((off - 0x30000) / 32) 0).extractLsb' (64 * (off / 8 % 4)) 64
  else if off == 0x40000 then s.cfg.pkgid.setWidth 64
  else if 0x40100 ≤ off && off < 0x40300 then s.cfg.members.extractLsb' (64 * ((off - 0x40100) / 8)) 64
  else if 0x100000 ≤ off && off < 0x120000 then
    (permRead s ((off - 0x100000) / 128)).extractLsb' (64 * (off / 8 % 16)) 64
  else if 0x200000 ≤ off && off < 0x202000 then
    (homeMask s ((off - 0x200000) / 0x800) ((off - 0x200000) / 32 % 64)).extractLsb' (64 * (off / 8 % 4)) 64
  else 0
/-- Whether an access of this size at this offset is one that a page takes. -/
def pageAccess (off size : Nat) : Bool := (size == 4 || size == 8) && off % size == 0
/-- REGISTER_WRITE: a write to BAR0 (0) or BAR2 (2) of a function. An access that no register takes changes nothing. -/
def execRegisterWrite (fn bar off size : Nat) (val : Word) (s : State) : Out :=
  let t := tenantOf s fn
  if 16 ≤ fn || !(bar == 0 || bar == 2) || !t.enabled then notEnabled "REGISTER_WRITE"
  else if !(pageAccess off size) then .next s
  else if bar == 2 then
    .next (if t.scount.toNat ≤ off / 4096 then s else writeSlotPage s (t.sbase.toNat + off / 4096) (off % 4096) size val)
  else if off < 0x1000 then .next (writePage s fn off size val)
  else .next (if fn == 0 && size == 8 then writePf s off val else s)

/-- The part of an 8-byte word that an access covers. -/
def covered (w : Word) (off size : Nat) : Word :=
  if size == 8 then w else if off % 8 == 0 then BitVec.ofNat 64 (w.toNat % 2 ^ 32) else BitVec.ofNat 64 (w.toNat / 2 ^ 32)
/-- A read by the host of BAR0 (0) or BAR2 (2) of a function: what it returns, and what the read changes (R371, R401, R406).
One that no register takes returns nothing. -/
def readRegister (fn bar off size : Nat) (s : State) : Out :=
  let t := tenantOf s fn
  if 16 ≤ fn || !(bar == 0 || bar == 2) || !t.enabled || !(pageAccess off size) then notEnabled "REGISTER_READ"
  else
    let w := off / 8 * 8
    if bar == 2 then
      if t.scount.toNat ≤ off / 4096 then notEnabled "REGISTER_READ"
      else .next (setHostRead s (covered (slotRead (slotAt s (t.sbase.toNat + off / 4096)) (w % 4096)) off size))
    else if off < 0x1000 then
      let s' := setHostRead s (covered (pageWord s fn w) off size)
      .next (if (halves off size).2 then pageAfterRead s' fn w else s')
    else if fn == 0 && size == 8 then .next (setHostRead s (pfRead s off))
    else notEnabled "REGISTER_READ"

/-! ### The aperture (R405) -/

/-- The physical address that an aperture offset reaches: the n-th granted group, ascending. -/
def aperturePa (s : State) (v off : Nat) : Option Nat :=
  let gs := (List.range 48).filter fun g => (groupAt s g).assigned && (groupAt s g).owner == v
  (gs[off / 2 ^ 34]?).map fun g => g * 2 ^ 34 + off % 2 ^ 34
/-- APERTURE_ACCESS: L2 copies of the line are written back and invalidated, and the access performs at memory; a read
publishes the releases there, and acquires nothing for a core (R259). Beyond the granted groups a read returns all ones, and a
write is dropped. -/
def execApertureAccess (v off size : Nat) (wr : Bool) (val : Word) (s : State) : Out :=
  if !(tenantOf s v).enabled || size == 0 || 8 < size || off % 8 + size > 8 then notEnabled "APERTURE_ACCESS"
  else
    match aperturePa s v off with
    | none => .next (if wr then s else setHostRead s (BitVec.ofNat 64 (2 ^ (8 * size) - 1)))
    | some pa =>
      let k := memKey .device pa
      if wr then .next (putRange (dropLine s (lineOf k)) k (toBytes size (val.toNat % 2 ^ (8 * size))))
      else if !(served s .sys k size) then notEnabled "APERTURE_ACCESS"
      else
        let (s, bs) := getHome (outsideRead (dropLine s (lineOf k)) k size) k size
        .next (setHostRead s (BitVec.ofNat 64 (ofBytes bs)))

/-! ### Links (R414, R416) -/

/-- FLIT_CRC_ERROR: the flit is sent again from the replay buffer, which changes timing only. -/
def execFlitCrcError (link : Nat) (s : State) : Out :=
  if s.cfg.links.getLsbD link then .next s else notEnabled "FLIT_CRC_ERROR"
/-- LINK_DOWN: the link's bit clears, and every path through it is removed; what was not acknowledged on such a path is sent
again on the paths that survive, and performs once (`arrives`). -/
def execLinkDown (link : Nat) (s : State) : Out :=
  if s.cfg.links.getLsbD link then
    .next (sendMsix (setCfg s { s.cfg with links := s.cfg.links &&& ~~~((1 : BitVec 18) <<< link) }) 0 3)
  else notEnabled "LINK_DOWN"
/-- The training of a link is done, and its bit is set (R401, R413). -/
def linkTrained (link : Nat) (s : State) : Out :=
  if 18 ≤ link || s.cfg.links.getLsbD link then notEnabled "LINK_UP"
  else .next (sendMsix (setCfg s { s.cfg with links := s.cfg.links ||| ((1 : BitVec 18) <<< link) }) 0 3)

end Sys2Proof.Machine
end

