-- ==== Sys2Proof/Machine/Scalar.lean ====
section
/-! DEFINITION. The scalar majors ALU, ALUI, MOVI, ALUL, MULDIV, BITS, MINMAX, CMP, CMPI and PLOG (R119 to R130). -/

namespace Sys2Proof.Machine

/-- ALU: A + B (R120). -/
def execAluAdd (o : OpA) (s : State) : Out :=
  scalarAB (.aluAdd o) o (plainWidth o.q fun _ a b => a + b) s
/-- ALU: A − B (R120). -/
def execAluSub (o : OpA) (s : State) : Out :=
  scalarAB (.aluSub o) o (plainWidth o.q fun _ a b => a - b) s
/-- ALU: A and B (R120). -/
def execAluAnd (o : OpA) (s : State) : Out :=
  scalarAB (.aluAnd o) o (plainWidth o.q fun _ a b => a &&& b) s
/-- ALU: A or B (R120). -/
def execAluOr (o : OpA) (s : State) : Out :=
  scalarAB (.aluOr o) o (plainWidth o.q fun _ a b => a ||| b) s
/-- ALU: A xor B (R120). -/
def execAluXor (o : OpA) (s : State) : Out :=
  scalarAB (.aluXor o) o (plainWidth o.q fun _ a b => a ^^^ b) s
/-- ALU: shift of A by the low bits of B (R120). -/
def execAluShl (o : OpA) (s : State) : Out :=
  scalarAB (.aluShl o) o (plainWidth o.q opShl) s
/-- ALU: shift of A by the low bits of B (R120). -/
def execAluShr (o : OpA) (s : State) : Out :=
  scalarAB (.aluShr o) o (plainWidth o.q opShr) s
/-- ALU: shift of A by the low bits of B (R120). -/
def execAluSra (o : OpA) (s : State) : Out :=
  scalarAB (.aluSra o) o (plainWidth o.q opSra) s
/-- ALUI: A + SignExtend(imm12) (R121). -/
def execAlui (o : OpI) (s : State) : Out :=
  fileInstr (siteOf (.alui o)) false o.pr (fun _ _ r => .ok (setS r o.d.toNat (getS r o.a.toNat + o.imm.signExtend 64))) s
/-- MOVI: d := SignExtend(imm32) (R122). -/
def execMoviLo (o : OpX) (s : State) : Out :=
  fileInstr (siteOf (.moviLo o)) (k1 o.o) o.o.pr (fun _ _ r => .ok (setS r o.o.d.toNat (o.imm.signExtend 64))) s
/-- MOVI: d := ZeroExtend(imm32) (R122). -/
def execMoviZ (o : OpX) (s : State) : Out :=
  fileInstr (siteOf (.moviZ o)) (k1 o.o) o.o.pr (fun _ _ r => .ok (setS r o.o.d.toNat (o.imm.setWidth 64))) s
/-- MOVI: d[63:32] := imm32, d[31:0] kept (R122). -/
def execMoviHi (o : OpX) (s : State) : Out :=
  fileInstr (siteOf (.moviHi o)) (k1 o.o) o.o.pr (fun _ _ r =>
    .ok (setS r o.o.d.toNat (o.imm ++ (getS r o.o.d.toNat).setWidth 32))) s
/-- ALUL: A op SignExtend(imm32) (R123). -/
def execAlulAdd (o : OpX) (s : State) : Out :=
  fileInstr (siteOf (.alulAdd o)) (k1 o.o) o.o.pr (fun _ _ r =>
    .ok (setS r o.o.d.toNat (plainWidth o.o.q (fun _ a b => a + b) (getS r o.o.a.toNat) (o.imm.signExtend 64)).1)) s
/-- ALUL: A op SignExtend(imm32) (R123). -/
def execAlulAnd (o : OpX) (s : State) : Out :=
  fileInstr (siteOf (.alulAnd o)) (k1 o.o) o.o.pr (fun _ _ r =>
    .ok (setS r o.o.d.toNat (plainWidth o.o.q (fun _ a b => a &&& b) (getS r o.o.a.toNat) (o.imm.signExtend 64)).1)) s
/-- ALUL: A op SignExtend(imm32) (R123). -/
def execAlulOr (o : OpX) (s : State) : Out :=
  fileInstr (siteOf (.alulOr o)) (k1 o.o) o.o.pr (fun _ _ r =>
    .ok (setS r o.o.d.toNat (plainWidth o.o.q (fun _ a b => a ||| b) (getS r o.o.a.toNat) (o.imm.signExtend 64)).1)) s
/-- ALUL: A op SignExtend(imm32) (R123). -/
def execAlulXor (o : OpX) (s : State) : Out :=
  fileInstr (siteOf (.alulXor o)) (k1 o.o) o.o.pr (fun _ _ r =>
    .ok (setS r o.o.d.toNat (plainWidth o.o.q (fun _ a b => a ^^^ b) (getS r o.o.a.toNat) (o.imm.signExtend 64)).1)) s
/-- ALUL: shift of A by imm32, which is below the width (R123). -/
def execAlulShl (o : OpX) (s : State) : Out :=
  fileInstr (siteOf (.alulShl o)) (k1 o.o) o.o.pr (fun _ _ r =>
    .ok (setS r o.o.d.toNat (plainWidth o.o.q opShl (getS r o.o.a.toNat) (o.imm.setWidth 64)).1)) s
/-- ALUL: shift of A by imm32, which is below the width (R123). -/
def execAlulShr (o : OpX) (s : State) : Out :=
  fileInstr (siteOf (.alulShr o)) (k1 o.o) o.o.pr (fun _ _ r =>
    .ok (setS r o.o.d.toNat (plainWidth o.o.q opShr (getS r o.o.a.toNat) (o.imm.setWidth 64)).1)) s
/-- ALUL: shift of A by imm32, which is below the width (R123). -/
def execAlulSra (o : OpX) (s : State) : Out :=
  fileInstr (siteOf (.alulSra o)) (k1 o.o) o.o.pr (fun _ _ r =>
    .ok (setS r o.o.d.toNat (plainWidth o.o.q opSra (getS r o.o.a.toNat) (o.imm.setWidth 64)).1)) s
/-- MULDIV: low half of the product (R124). -/
def execMuldivMul (o : OpA) (s : State) : Out :=
  scalarAB (.muldivMul o) o (plainWidth o.q fun _ a b => a * b) s
/-- MULDIV: high half of the product (R124). -/
def execMuldivMulh (o : OpA) (s : State) : Out :=
  scalarAB (.muldivMulh o) o (plainWidth o.q opMulh) s
/-- MULDIV: high half of the product (R124). -/
def execMuldivMulhu (o : OpA) (s : State) : Out :=
  scalarAB (.muldivMulhu o) o (plainWidth o.q opMulhu) s
/-- MULDIV: quotient or remainder; division by zero sets DZ (R124). -/
def execMuldivDiv (o : OpA) (s : State) : Out :=
  scalarAB (.muldivDiv o) o (atWidth o.q opDiv) s
/-- MULDIV: quotient or remainder; division by zero sets DZ (R124). -/
def execMuldivDivu (o : OpA) (s : State) : Out :=
  scalarAB (.muldivDivu o) o (atWidth o.q opDivu) s
/-- MULDIV: quotient or remainder; division by zero sets DZ (R124). -/
def execMuldivRem (o : OpA) (s : State) : Out :=
  scalarAB (.muldivRem o) o (atWidth o.q opRem) s
/-- MULDIV: quotient or remainder; division by zero sets DZ (R124). -/
def execMuldivRemu (o : OpA) (s : State) : Out :=
  scalarAB (.muldivRemu o) o (atWidth o.q opRemu) s
/-- BITS: count of leading zeros (R125). -/
def execBitsClz (o : OpA) (s : State) : Out :=
  scalarAB (.bitsClz o) o (fun a _ =>
    (BitVec.ofNat 64 (if o.q == 1 then opClz 32 (a.setWidth 32) else opClz 64 a), 0)) s
/-- BITS: count of trailing zeros (R125). -/
def execBitsCtz (o : OpA) (s : State) : Out :=
  scalarAB (.bitsCtz o) o (fun a _ =>
    (BitVec.ofNat 64 (if o.q == 1 then opCtz 32 (a.setWidth 32) else opCtz 64 a), 0)) s
/-- BITS: count of one bits (R125). -/
def execBitsPopc (o : OpA) (s : State) : Out :=
  scalarAB (.bitsPopc o) o (fun a _ =>
    (BitVec.ofNat 64 (if o.q == 1 then opPopc 32 (a.setWidth 32) else opPopc 64 a), 0)) s
/-- BITS: bits in reverse order (R125). -/
def execBitsBrev (o : OpA) (s : State) : Out :=
  scalarAB (.bitsBrev o) o (plainWidth o.q fun _ a _ => a.reverse) s
/-- BITS: bytes in reverse order (R125). -/
def execBitsBswap (o : OpA) (s : State) : Out :=
  scalarAB (.bitsBswap o) o (plainWidth o.q fun n a _ => opBswap n a) s
/-- BITS: the field of A that B names, zero-extended (R125). -/
def execBitsExtu (o : OpA) (s : State) : Out :=
  scalarAB (.bitsExtu o) o (fun a b => (BitVec.ofNat 64 (bitField a b).1, 0)) s
/-- BITS: the field of A that B names, sign-extended from its top bit; a field of width 0 gives 0 (R125). -/
def execBitsExts (o : OpA) (s : State) : Out :=
  scalarAB (.bitsExts o) o (fun a b =>
    (if (bitField a b).2 == 0 then 0 else signExt64 (bitField a b).2 (bitField a b).1, 0)) s
/-- BITS: A rotated right (R125). -/
def execBitsRotr (o : OpA) (s : State) : Out :=
  scalarAB (.bitsRotr o) o (plainWidth o.q fun n a b => a.rotateRight (shAmt n b)) s
/-- MINMAX: signed minimum (R126). -/
def execMinmaxMin (o : OpA) (s : State) : Out :=
  scalarAB (.minmaxMin o) o (plainWidth o.q fun _ a b => if a.slt b then a else b) s
/-- MINMAX: signed maximum (R126). -/
def execMinmaxMax (o : OpA) (s : State) : Out :=
  scalarAB (.minmaxMax o) o (plainWidth o.q fun _ a b => if a.slt b then b else a) s
/-- MINMAX: unsigned minimum (R126). -/
def execMinmaxMinu (o : OpA) (s : State) : Out :=
  scalarAB (.minmaxMinu o) o (plainWidth o.q fun _ a b => if a < b then a else b) s
/-- MINMAX: unsigned maximum (R126). -/
def execMinmaxMaxu (o : OpA) (s : State) : Out :=
  scalarAB (.minmaxMaxu o) o (plainWidth o.q fun _ a b => if a < b then b else a) s
/-- MINMAX: |A|, clamped with SAT (R126). -/
def execMinmaxAbs (o : OpA) (s : State) : Out :=
  scalarAB (.minmaxAbs o) o (atWidth o.q fun n a _ => opAbs n a) s
/-- MINMAX: A + B, clamped with SAT (R126). -/
def execMinmaxAdds (o : OpA) (s : State) : Out :=
  scalarAB (.minmaxAdds o) o (atWidth o.q fun n a b => clampSigned n (a.toInt + b.toInt)) s
/-- MINMAX: A − B, clamped with SAT (R126). -/
def execMinmaxSubs (o : OpA) (s : State) : Out :=
  scalarAB (.minmaxSubs o) o (atWidth o.q fun n a b => clampSigned n (a.toInt - b.toInt)) s
/-- CMP: predicate d from the condition (R128). -/
def execCmpEq (o : OpA) (s : State) : Out :=
  condAB (.cmpEq o) o (condWidth o.q fun _ a b => a == b) s
/-- CMP: predicate d from the condition (R128). -/
def execCmpNe (o : OpA) (s : State) : Out :=
  condAB (.cmpNe o) o (condWidth o.q fun _ a b => a != b) s
/-- CMP: predicate d from the condition (R128). -/
def execCmpLt (o : OpA) (s : State) : Out :=
  condAB (.cmpLt o) o (condWidth o.q fun _ a b => a.slt b) s
/-- CMP: predicate d from the condition (R128). -/
def execCmpGe (o : OpA) (s : State) : Out :=
  condAB (.cmpGe o) o (condWidth o.q fun _ a b => !a.slt b) s
/-- CMP: predicate d from the condition (R128). -/
def execCmpLtu (o : OpA) (s : State) : Out :=
  condAB (.cmpLtu o) o (condWidth o.q fun _ a b => a.ult b) s
/-- CMP: predicate d from the condition (R128). -/
def execCmpGeu (o : OpA) (s : State) : Out :=
  condAB (.cmpGeu o) o (condWidth o.q fun _ a b => !a.ult b) s
/-- CMP: predicate d from the condition (R128). -/
def execCmpTst (o : OpA) (s : State) : Out :=
  condAB (.cmpTst o) o (condWidth o.q fun _ a b => a &&& b != 0) s
/-- CMPI: predicate d from x_a against SignExtend(imm12) (R129). -/
def execCmpiEq (o : OpI) (s : State) : Out :=
  fileInstr (siteOf (.cmpiEq o)) false o.pr (fun _ _ r =>
    let a := getS r o.a.toNat
    let c := o.imm.signExtend 64
    .ok (setCond r o.d.toNat (a == c))) s
/-- CMPI: predicate d from x_a against SignExtend(imm12) (R129). -/
def execCmpiNe (o : OpI) (s : State) : Out :=
  fileInstr (siteOf (.cmpiNe o)) false o.pr (fun _ _ r =>
    let a := getS r o.a.toNat
    let c := o.imm.signExtend 64
    .ok (setCond r o.d.toNat (a != c))) s
/-- CMPI: predicate d from x_a against SignExtend(imm12) (R129). -/
def execCmpiLt (o : OpI) (s : State) : Out :=
  fileInstr (siteOf (.cmpiLt o)) false o.pr (fun _ _ r =>
    let a := getS r o.a.toNat
    let c := o.imm.signExtend 64
    .ok (setCond r o.d.toNat (a.slt c))) s
/-- CMPI: predicate d from x_a against SignExtend(imm12) (R129). -/
def execCmpiLtu (o : OpI) (s : State) : Out :=
  fileInstr (siteOf (.cmpiLtu o)) false o.pr (fun _ _ r =>
    let a := getS r o.a.toNat
    let c := o.imm.signExtend 64
    .ok (setCond r o.d.toNat (a.ult c))) s
/-- PLOG: within one predicate file (R130). -/
def execPlogAnd (o : OpA) (s : State) : Out :=
  fileInstr (siteOf (.plogAnd o)) (k1 o) o.pr (fun _ _ r =>
    let a := getP r o.a.toNat
    let b := getP r o.b.toNat
    .ok (setP r o.d.toNat (a &&& b))) s
/-- PLOG: within one predicate file (R130). -/
def execPlogOr (o : OpA) (s : State) : Out :=
  fileInstr (siteOf (.plogOr o)) (k1 o) o.pr (fun _ _ r =>
    let a := getP r o.a.toNat
    let b := getP r o.b.toNat
    .ok (setP r o.d.toNat (a ||| b))) s
/-- PLOG: within one predicate file (R130). -/
def execPlogXor (o : OpA) (s : State) : Out :=
  fileInstr (siteOf (.plogXor o)) (k1 o) o.pr (fun _ _ r =>
    let a := getP r o.a.toNat
    let b := getP r o.b.toNat
    .ok (setP r o.d.toNat (a ^^^ b))) s
/-- PLOG: within one predicate file (R130). -/
def execPlogAndn (o : OpA) (s : State) : Out :=
  fileInstr (siteOf (.plogAndn o)) (k1 o) o.pr (fun _ _ r =>
    let a := getP r o.a.toNat
    let b := getP r o.b.toNat
    .ok (setP r o.d.toNat (a &&& ~~~b))) s
/-- PLOG: within one predicate file (R130). -/
def execPlogNot (o : OpA) (s : State) : Out :=
  fileInstr (siteOf (.plogNot o)) (k1 o) o.pr (fun _ _ r =>
    let a := getP r o.a.toNat
    .ok (setP r o.d.toNat (~~~a))) s
/-- PLOG: p_d := x_a[15:0], or gp_d := (g_a ≠ 0) (R130). -/
def execPlogSetx (o : OpA) (s : State) : Out :=
  fileInstr (siteOf (.plogSetx o)) (k1 o) o.pr (fun _ _ r =>
    let a := getS r o.a.toNat
    .ok (if r.uni then setCond r o.d.toNat (a != 0) else setP r o.d.toNat (a.setWidth 16))) s
/-- PLOG: x_d := ZeroExtend(p_a), or g_d := gp_a (R130). -/
def execPlogGetx (o : OpA) (s : State) : Out :=
  fileInstr (siteOf (.plogGetx o)) (k1 o) o.pr (fun _ _ r =>
    let a := getP r o.a.toNat
    .ok (setS r o.d.toNat (if r.uni then (a &&& 1).setWidth 64 else a.setWidth 64))) s

end Sys2Proof.Machine
end

