-- ==== Sys2Proof/Machine/Dispatch.lean ====
section
/-! DEFINITION. One arm for each instruction and event of the opcode table. -/

namespace Sys2Proof.Machine

/-- The effect of one instruction or event in a state: each arm is one call of its meaning. -/
def exec (i : Instr) (s : State) : Host.Outcome State Fault Refusal :=
  match i with
  | .aluAdd o => Sys2Proof.Machine.execAluAdd o s
  | .aluSub o => Sys2Proof.Machine.execAluSub o s
  | .aluAnd o => Sys2Proof.Machine.execAluAnd o s
  | .aluOr o => Sys2Proof.Machine.execAluOr o s
  | .aluXor o => Sys2Proof.Machine.execAluXor o s
  | .aluShl o => Sys2Proof.Machine.execAluShl o s
  | .aluShr o => Sys2Proof.Machine.execAluShr o s
  | .aluSra o => Sys2Proof.Machine.execAluSra o s
  | .alui o => Sys2Proof.Machine.execAlui o s
  | .muldivMul o => Sys2Proof.Machine.execMuldivMul o s
  | .muldivMulh o => Sys2Proof.Machine.execMuldivMulh o s
  | .muldivMulhu o => Sys2Proof.Machine.execMuldivMulhu o s
  | .muldivDiv o => Sys2Proof.Machine.execMuldivDiv o s
  | .muldivDivu o => Sys2Proof.Machine.execMuldivDivu o s
  | .muldivRem o => Sys2Proof.Machine.execMuldivRem o s
  | .muldivRemu o => Sys2Proof.Machine.execMuldivRemu o s
  | .bitsClz o => Sys2Proof.Machine.execBitsClz o s
  | .bitsCtz o => Sys2Proof.Machine.execBitsCtz o s
  | .bitsPopc o => Sys2Proof.Machine.execBitsPopc o s
  | .bitsBrev o => Sys2Proof.Machine.execBitsBrev o s
  | .bitsBswap o => Sys2Proof.Machine.execBitsBswap o s
  | .bitsExtu o => Sys2Proof.Machine.execBitsExtu o s
  | .bitsExts o => Sys2Proof.Machine.execBitsExts o s
  | .bitsRotr o => Sys2Proof.Machine.execBitsRotr o s
  | .minmaxMin o => Sys2Proof.Machine.execMinmaxMin o s
  | .minmaxMax o => Sys2Proof.Machine.execMinmaxMax o s
  | .minmaxMinu o => Sys2Proof.Machine.execMinmaxMinu o s
  | .minmaxMaxu o => Sys2Proof.Machine.execMinmaxMaxu o s
  | .minmaxAbs o => Sys2Proof.Machine.execMinmaxAbs o s
  | .minmaxAdds o => Sys2Proof.Machine.execMinmaxAdds o s
  | .minmaxSubs o => Sys2Proof.Machine.execMinmaxSubs o s
  | .cmpEq o => Sys2Proof.Machine.execCmpEq o s
  | .cmpNe o => Sys2Proof.Machine.execCmpNe o s
  | .cmpLt o => Sys2Proof.Machine.execCmpLt o s
  | .cmpGe o => Sys2Proof.Machine.execCmpGe o s
  | .cmpLtu o => Sys2Proof.Machine.execCmpLtu o s
  | .cmpGeu o => Sys2Proof.Machine.execCmpGeu o s
  | .cmpTst o => Sys2Proof.Machine.execCmpTst o s
  | .cmpiEq o => Sys2Proof.Machine.execCmpiEq o s
  | .cmpiNe o => Sys2Proof.Machine.execCmpiNe o s
  | .cmpiLt o => Sys2Proof.Machine.execCmpiLt o s
  | .cmpiLtu o => Sys2Proof.Machine.execCmpiLtu o s
  | .plogAnd o => Sys2Proof.Machine.execPlogAnd o s
  | .plogOr o => Sys2Proof.Machine.execPlogOr o s
  | .plogXor o => Sys2Proof.Machine.execPlogXor o s
  | .plogAndn o => Sys2Proof.Machine.execPlogAndn o s
  | .plogNot o => Sys2Proof.Machine.execPlogNot o s
  | .plogSetx o => Sys2Proof.Machine.execPlogSetx o s
  | .plogGetx o => Sys2Proof.Machine.execPlogGetx o s
  | .gmovGet o => Sys2Proof.Machine.execGmovGet o s
  | .gmovAgree o => Sys2Proof.Machine.execGmovAgree o s
  | .gmovPut o => Sys2Proof.Machine.execGmovPut o s
  | .gmovAny o => Sys2Proof.Machine.execGmovAny o s
  | .gmovAll o => Sys2Proof.Machine.execGmovAll o s
  | .gmovCount o => Sys2Proof.Machine.execGmovCount o s
  | .idLvl o => Sys2Proof.Machine.execIdLvl o s
  | .idCore o => Sys2Proof.Machine.execIdCore o s
  | .idGpos o => Sys2Proof.Machine.execIdGpos o s
  | .idGwid o => Sys2Proof.Machine.execIdGwid o s
  | .idClus o => Sys2Proof.Machine.execIdClus o s
  | .idCnt o => Sys2Proof.Machine.execIdCnt o s
  | .idLane o => Sys2Proof.Machine.execIdLane o s
  | .idPkg o => Sys2Proof.Machine.execIdPkg o s
  | .br o => Sys2Proof.Machine.execBr o s
  | .jal o => Sys2Proof.Machine.execJal o s
  | .jr o => Sys2Proof.Machine.execJr o s
  | .endCommit o => Sys2Proof.Machine.execEndCommit o s
  | .endRetry o => Sys2Proof.Machine.execEndRetry o s
  | .endFail o => Sys2Proof.Machine.execEndFail o s
  | .regionOpen o => Sys2Proof.Machine.execRegionOpen o s
  | .regionClose o => Sys2Proof.Machine.execRegionClose o s
  | .gangSplit o => Sys2Proof.Machine.execGangSplit o s
  | .gangFuse o => Sys2Proof.Machine.execGangFuse o s
  | .gangAlign o => Sys2Proof.Machine.execGangAlign o s
  | .moviLo o => Sys2Proof.Machine.execMoviLo o s
  | .moviHi o => Sys2Proof.Machine.execMoviHi o s
  | .moviZ o => Sys2Proof.Machine.execMoviZ o s
  | .alulAdd o => Sys2Proof.Machine.execAlulAdd o s
  | .alulAnd o => Sys2Proof.Machine.execAlulAnd o s
  | .alulOr o => Sys2Proof.Machine.execAlulOr o s
  | .alulXor o => Sys2Proof.Machine.execAlulXor o s
  | .alulShl o => Sys2Proof.Machine.execAlulShl o s
  | .alulShr o => Sys2Proof.Machine.execAlulShr o s
  | .alulSra o => Sys2Proof.Machine.execAlulSra o s
  | .varithAdd o => Sys2Proof.Machine.execVarithAdd o s
  | .varithSub o => Sys2Proof.Machine.execVarithSub o s
  | .varithMul o => Sys2Proof.Machine.execVarithMul o s
  | .varithMin o => Sys2Proof.Machine.execVarithMin o s
  | .varithMax o => Sys2Proof.Machine.execVarithMax o s
  | .varithAdds o => Sys2Proof.Machine.execVarithAdds o s
  | .varithSubs o => Sys2Proof.Machine.execVarithSubs o s
  | .varithAbs o => Sys2Proof.Machine.execVarithAbs o s
  | .vfmaFma o => Sys2Proof.Machine.execVfmaFma o s
  | .vfmaFms o => Sys2Proof.Machine.execVfmaFms o s
  | .vfmaFnma o => Sys2Proof.Machine.execVfmaFnma o s
  | .vfmaFnms o => Sys2Proof.Machine.execVfmaFnms o s
  | .vdotBf16 o => Sys2Proof.Machine.execVdotBf16 o s
  | .vdotFp16 o => Sys2Proof.Machine.execVdotFp16 o s
  | .vdotE4m3 o => Sys2Proof.Machine.execVdotE4m3 o s
  | .vdotE5m2 o => Sys2Proof.Machine.execVdotE5m2 o s
  | .vdotI8 o => Sys2Proof.Machine.execVdotI8 o s
  | .vdotU8 o => Sys2Proof.Machine.execVdotU8 o s
  | .vdotI8u8 o => Sys2Proof.Machine.execVdotI8u8 o s
  | .vredAdd o => Sys2Proof.Machine.execVredAdd o s
  | .vredMin o => Sys2Proof.Machine.execVredMin o s
  | .vredMax o => Sys2Proof.Machine.execVredMax o s
  | .vredAddw o => Sys2Proof.Machine.execVredAddw o s
  | .vredAnd o => Sys2Proof.Machine.execVredAnd o s
  | .vredOr o => Sys2Proof.Machine.execVredOr o s
  | .vredXor o => Sys2Proof.Machine.execVredXor o s
  | .vredImax o => Sys2Proof.Machine.execVredImax o s
  | .vlogicAnd o => Sys2Proof.Machine.execVlogicAnd o s
  | .vlogicOr o => Sys2Proof.Machine.execVlogicOr o s
  | .vlogicXor o => Sys2Proof.Machine.execVlogicXor o s
  | .vlogicAndn o => Sys2Proof.Machine.execVlogicAndn o s
  | .vlogicNot o => Sys2Proof.Machine.execVlogicNot o s
  | .vlogicShl o => Sys2Proof.Machine.execVlogicShl o s
  | .vlogicShr o => Sys2Proof.Machine.execVlogicShr o s
  | .vlogicSra o => Sys2Proof.Machine.execVlogicSra o s
  | .vcmpEq o => Sys2Proof.Machine.execVcmpEq o s
  | .vcmpNe o => Sys2Proof.Machine.execVcmpNe o s
  | .vcmpLt o => Sys2Proof.Machine.execVcmpLt o s
  | .vcmpLe o => Sys2Proof.Machine.execVcmpLe o s
  | .vcmpLtu o => Sys2Proof.Machine.execVcmpLtu o s
  | .vcmpLeu o => Sys2Proof.Machine.execVcmpLeu o s
  | .vcmpUn o => Sys2Proof.Machine.execVcmpUn o s
  | .vselSel o => Sys2Proof.Machine.execVselSel o s
  | .vselZero o => Sys2Proof.Machine.execVselZero o s
  | .vselCmpr o => Sys2Proof.Machine.execVselCmpr o s
  | .vselExpd o => Sys2Proof.Machine.execVselExpd o s
  | .vcvtRne o => Sys2Proof.Machine.execVcvtRne o s
  | .vcvtRtz o => Sys2Proof.Machine.execVcvtRtz o s
  | .vcvtRup o => Sys2Proof.Machine.execVcvtRup o s
  | .vcvtRdn o => Sys2Proof.Machine.execVcvtRdn o s
  | .vcvtSto o => Sys2Proof.Machine.execVcvtSto o s
  | .vcvtWide o => Sys2Proof.Machine.execVcvtWide o s
  | .vscaleLdexp o => Sys2Proof.Machine.execVscaleLdexp o s
  | .vscaleMx o => Sys2Proof.Machine.execVscaleMx o s
  | .vscaleSb4 o => Sys2Proof.Machine.execVscaleSb4 o s
  | .vscaleCb o => Sys2Proof.Machine.execVscaleCb o s
  | .vcbDec o => Sys2Proof.Machine.execVcbDec o s
  | .vsfuExp2 o => Sys2Proof.Machine.execVsfuExp2 o s
  | .vsfuLog2 o => Sys2Proof.Machine.execVsfuLog2 o s
  | .vsfuRcp o => Sys2Proof.Machine.execVsfuRcp o s
  | .vsfuRsqrt o => Sys2Proof.Machine.execVsfuRsqrt o s
  | .vsfuSqrt o => Sys2Proof.Machine.execVsfuSqrt o s
  | .vsfuSin o => Sys2Proof.Machine.execVsfuSin o s
  | .vsfuCos o => Sys2Proof.Machine.execVsfuCos o s
  | .vsfuTanh o => Sys2Proof.Machine.execVsfuTanh o s
  | .vsfu2Sigm o => Sys2Proof.Machine.execVsfu2Sigm o s
  | .vsfu2Gelut o => Sys2Proof.Machine.execVsfu2Gelut o s
  | .vsfu2Gelue o => Sys2Proof.Machine.execVsfu2Gelue o s
  | .vsfu2Silu o => Sys2Proof.Machine.execVsfu2Silu o s
  | .vsfu2Erf o => Sys2Proof.Machine.execVsfu2Erf o s
  | .vsfu2Softp o => Sys2Proof.Machine.execVsfu2Softp o s
  | .vmovMov o => Sys2Proof.Machine.execVmovMov o s
  | .vmovBcast o => Sys2Proof.Machine.execVmovBcast o s
  | .vmovIns o => Sys2Proof.Machine.execVmovIns o s
  | .vmovExt o => Sys2Proof.Machine.execVmovExt o s
  | .vpermPerm o => Sys2Proof.Machine.execVpermPerm o s
  | .vpermZiplo o => Sys2Proof.Machine.execVpermZiplo o s
  | .vpermZiphi o => Sys2Proof.Machine.execVpermZiphi o s
  | .vpermUzpe o => Sys2Proof.Machine.execVpermUzpe o s
  | .vpermUzpo o => Sys2Proof.Machine.execVpermUzpo o s
  | .vpermSplat o => Sys2Proof.Machine.execVpermSplat o s
  | .vpermRev o => Sys2Proof.Machine.execVpermRev o s
  | .vlinkPop o => Sys2Proof.Machine.execVlinkPop o s
  | .vlinkPeek o => Sys2Proof.Machine.execVlinkPeek o s
  | .vlinkSkip o => Sys2Proof.Machine.execVlinkSkip o s
  | .sendX o => Sys2Proof.Machine.execSendX o s
  | .sendV o => Sys2Proof.Machine.execSendV o s
  | .sendNz o => Sys2Proof.Machine.execSendNz o s
  | .recvW o => Sys2Proof.Machine.execRecvW o s
  | .recvTry o => Sys2Proof.Machine.execRecvTry o s
  | .recvHdr o => Sys2Proof.Machine.execRecvHdr o s
  | .recvDrop o => Sys2Proof.Machine.execRecvDrop o s
  | .chanSlot o => Sys2Proof.Machine.execChanSlot o s
  | .chanHdr o => Sys2Proof.Machine.execChanHdr o s
  | .chanCnt o => Sys2Proof.Machine.execChanCnt o s
  | .barInit o => Sys2Proof.Machine.execBarInit o s
  | .barArrive o => Sys2Proof.Machine.execBarArrive o s
  | .barWait o => Sys2Proof.Machine.execBarWait o s
  | .barSync o => Sys2Proof.Machine.execBarSync o s
  | .barQuery o => Sys2Proof.Machine.execBarQuery o s
  | .ldB o => Sys2Proof.Machine.execLdB o s
  | .ldH o => Sys2Proof.Machine.execLdH o s
  | .ldW o => Sys2Proof.Machine.execLdW o s
  | .ldD o => Sys2Proof.Machine.execLdD o s
  | .ldBs o => Sys2Proof.Machine.execLdBs o s
  | .ldHs o => Sys2Proof.Machine.execLdHs o s
  | .ldWs o => Sys2Proof.Machine.execLdWs o s
  | .stB o => Sys2Proof.Machine.execStB o s
  | .stH o => Sys2Proof.Machine.execStH o s
  | .stW o => Sys2Proof.Machine.execStW o s
  | .stD o => Sys2Proof.Machine.execStD o s
  | .vldV o => Sys2Proof.Machine.execVldV o s
  | .vldBc o => Sys2Proof.Machine.execVldBc o s
  | .vstV o => Sys2Proof.Machine.execVstV o s
  | .vstE o => Sys2Proof.Machine.execVstE o s
  | .ldfKeep o => Sys2Proof.Machine.execLdfKeep o s
  | .ldfTake o => Sys2Proof.Machine.execLdfTake o s
  | .steFill o => Sys2Proof.Machine.execSteFill o s
  | .steKeep o => Sys2Proof.Machine.execSteKeep o s
  | .feTest o => Sys2Proof.Machine.execFeTest o s
  | .feSet o => Sys2Proof.Machine.execFeSet o s
  | .feClr o => Sys2Proof.Machine.execFeClr o s
  | .feTas o => Sys2Proof.Machine.execFeTas o s
  | .feSetr o => Sys2Proof.Machine.execFeSetr o s
  | .feClrr o => Sys2Proof.Machine.execFeClrr o s
  | .waitLe o => Sys2Proof.Machine.execWaitLe o s
  | .waitLex o => Sys2Proof.Machine.execWaitLex o s
  | .cachePf o => Sys2Proof.Machine.execCachePf o s
  | .cachePfl1 o => Sys2Proof.Machine.execCachePfl1 o s
  | .cacheNu o => Sys2Proof.Machine.execCacheNu o s
  | .cacheWb o => Sys2Proof.Machine.execCacheWb o s
  | .cacheWbinv o => Sys2Proof.Machine.execCacheWbinv o s
  | .rclkRead o => Sys2Proof.Machine.execRclkRead o s
  | .rclkAdv o => Sys2Proof.Machine.execRclkAdv o s
  | .rclkDflt o => Sys2Proof.Machine.execRclkDflt o s
  | .pinWin o => Sys2Proof.Machine.execPinWin o s
  | .pinSize o => Sys2Proof.Machine.execPinSize o s
  | .amoAdd o => Sys2Proof.Machine.execAmoAdd o s
  | .amoAddb o => Sys2Proof.Machine.execAmoAddb o s
  | .amoMin o => Sys2Proof.Machine.execAmoMin o s
  | .amoMax o => Sys2Proof.Machine.execAmoMax o s
  | .amoAnd o => Sys2Proof.Machine.execAmoAnd o s
  | .amoOr o => Sys2Proof.Machine.execAmoOr o s
  | .amoXor o => Sys2Proof.Machine.execAmoXor o s
  | .amoSwap o => Sys2Proof.Machine.execAmoSwap o s
  | .cas o => Sys2Proof.Machine.execCas o s
  | .redAdd o => Sys2Proof.Machine.execRedAdd o s
  | .redMin o => Sys2Proof.Machine.execRedMin o s
  | .redMax o => Sys2Proof.Machine.execRedMax o s
  | .redAnd o => Sys2Proof.Machine.execRedAnd o s
  | .redOr o => Sys2Proof.Machine.execRedOr o s
  | .redXor o => Sys2Proof.Machine.execRedXor o s
  | .redFmin o => Sys2Proof.Machine.execRedFmin o s
  | .redFmax o => Sys2Proof.Machine.execRedFmax o s
  | .xlatProbe o => Sys2Proof.Machine.execXlatProbe o s
  | .xlatTouch o => Sys2Proof.Machine.execXlatTouch o s
  | .xlatInv o => Sys2Proof.Machine.execXlatInv o s
  | .trap o => Sys2Proof.Machine.execTrap o s
  | .sysR o => Sys2Proof.Machine.execSysR o s
  | .sysW o => Sys2Proof.Machine.execSysW o s
  | .vstopCur o => Sys2Proof.Machine.execVstopCur o s
  | .vwaitVer o => Sys2Proof.Machine.execVwaitVer o s
  | .vwaitFin o => Sys2Proof.Machine.execVwaitFin o s
  | .vwaitSet o => Sys2Proof.Machine.execVwaitSet o s
  | .vwaitSets o => Sys2Proof.Machine.execVwaitSets o s
  | .vwaitPoll o => Sys2Proof.Machine.execVwaitPoll o s
  | .illegalEncoding w0 w1 => Sys2Proof.Machine.execIllegalEncoding w0 w1 s
  | .instructionFetchFault addr sub w0 => Sys2Proof.Machine.execInstructionFetchFault addr sub w0 s
  | .agentIllegalWord w => Sys2Proof.Machine.execAgentIllegalWord w s
  | .agentFetchFault => Sys2Proof.Machine.execAgentFetchFault s
  | .fenceOrd o => Sys2Proof.Machine.execFenceOrd o s
  | .taskMma o => Sys2Proof.Machine.execTaskMma o s
  | .taskMmav o => Sys2Proof.Machine.execTaskMmav o s
  | .taskEw o => Sys2Proof.Machine.execTaskEw o s
  | .taskRed o => Sys2Proof.Machine.execTaskRed o s
  | .taskCvt o => Sys2Proof.Machine.execTaskCvt o s
  | .taskTr o => Sys2Proof.Machine.execTaskTr o s
  | .cbldMe o => Sys2Proof.Machine.execCbldMe o s
  | .cbldNb o => Sys2Proof.Machine.execCbldNb o s
  | .copyCp o => Sys2Proof.Machine.execCopyCp o s
  | .copyFill o => Sys2Proof.Machine.execCopyFill o s
  | .copyChan o => Sys2Proof.Machine.execCopyChan o s
  | .copyStat o => Sys2Proof.Machine.execCopyStat o s
  | .copyRsm o => Sys2Proof.Machine.execCopyRsm o s
  | .copyAbrt o => Sys2Proof.Machine.execCopyAbrt o s
  | .gatherG o => Sys2Proof.Machine.execGatherG o s
  | .gatherS o => Sys2Proof.Machine.execGatherS o s
  | .twalkLd o => Sys2Proof.Machine.execTwalkLd o s
  | .twalkWb o => Sys2Proof.Machine.execTwalkWb o s
  | .nbmvMv o => Sys2Proof.Machine.execNbmvMv o s
  | .attnBlk o => Sys2Proof.Machine.execAttnBlk o s
  | .attnMrg o => Sys2Proof.Machine.execAttnMrg o s
  | .sampleHist o => Sys2Proof.Machine.execSampleHist o s
  | .sampleThr o => Sys2Proof.Machine.execSampleThr o s
  | .sampleMass o => Sys2Proof.Machine.execSampleMass o s
  | .sampleDraw o => Sys2Proof.Machine.execSampleDraw o s
  | .textNorm o => Sys2Proof.Machine.execTextNorm o s
  | .textTbl o => Sys2Proof.Machine.execTextTbl o s
  | .aMoviLo o => Sys2Proof.Machine.execAMoviLo o s
  | .aMoviHi o => Sys2Proof.Machine.execAMoviHi o s
  | .aMoviZ o => Sys2Proof.Machine.execAMoviZ o s
  | .aMov o => Sys2Proof.Machine.execAMov o s
  | .aAdd o => Sys2Proof.Machine.execAAdd o s
  | .aSub o => Sys2Proof.Machine.execASub o s
  | .aAnd o => Sys2Proof.Machine.execAAnd o s
  | .aOr o => Sys2Proof.Machine.execAOr o s
  | .aXor o => Sys2Proof.Machine.execAXor o s
  | .aShl o => Sys2Proof.Machine.execAShl o s
  | .aShr o => Sys2Proof.Machine.execAShr o s
  | .aMul o => Sys2Proof.Machine.execAMul o s
  | .aCmp o => Sys2Proof.Machine.execACmp o s
  | .aBr o => Sys2Proof.Machine.execABr o s
  | .aJmp o => Sys2Proof.Machine.execAJmp o s
  | .aCall o => Sys2Proof.Machine.execACall o s
  | .aRet o => Sys2Proof.Machine.execARet o s
  | .aLd o => Sys2Proof.Machine.execALd o s
  | .aSt o => Sys2Proof.Machine.execASt o s
  | .aWaitPend o => Sys2Proof.Machine.execAWaitPend o s
  | .aWaitSig o => Sys2Proof.Machine.execAWaitSig o s
  | .aWaitAll o => Sys2Proof.Machine.execAWaitAll o s
  | .aSigSlot o => Sys2Proof.Machine.execASigSlot o s
  | .aSigHost o => Sys2Proof.Machine.execASigHost o s
  | .aYield o => Sys2Proof.Machine.execAYield o s
  | .aHalt o => Sys2Proof.Machine.execAHalt o s
  | .aKlaunch o => Sys2Proof.Machine.execAKlaunch o s
  | .aFence o => Sys2Proof.Machine.execAFence o s
  | .cNew o => Sys2Proof.Machine.execCNew o s
  | .cFork o => Sys2Proof.Machine.execCFork o s
  | .cDrop o => Sys2Proof.Machine.execCDrop o s
  | .cTrim o => Sys2Proof.Machine.execCTrim o s
  | .cLen o => Sys2Proof.Machine.execCLen o s
  | .cRead o => Sys2Proof.Machine.execCRead o s
  | .cHint o => Sys2Proof.Machine.execCHint o s
  | .cPin o => Sys2Proof.Machine.execCPin o s
  | .cUnpin o => Sys2Proof.Machine.execCUnpin o s
  | .cProg o => Sys2Proof.Machine.execCProg o s
  | .cBind o => Sys2Proof.Machine.execCBind o s
  | .cGram o => Sys2Proof.Machine.execCGram o s
  | .cSamp o => Sys2Proof.Machine.execCSamp o s
  | .cApp o => Sys2Proof.Machine.execCApp o s
  | .cGen o => Sys2Proof.Machine.execCGen o s
  | .cScore o => Sys2Proof.Machine.execCScore o s
  | .cChoose o => Sys2Proof.Machine.execCChoose o s
  | .cSpec o => Sys2Proof.Machine.execCSpec o s
  | .powerOn => Sys2Proof.Machine.execPowerOn s
  | .partReady links => Sys2Proof.Machine.execPartReady links s
  | .registerWrite fn bar off size val => Sys2Proof.Machine.execRegisterWrite fn bar off size val s
  | .partStatusErrorClear => Sys2Proof.Machine.execPartStatusErrorClear s
  | .groupAssign g val => Sys2Proof.Machine.execGroupAssign g val s
  | .groupZeroingDone g => Sys2Proof.Machine.execGroupZeroingDone g s
  | .groupRemove g val => Sys2Proof.Machine.execGroupRemove g val s
  | .formatRangeWrite reg word val => Sys2Proof.Machine.execFormatRangeWrite reg word val s
  | .tenantBlockWrite v off val => Sys2Proof.Machine.execTenantBlockWrite v off val s
  | .clusterLeavePartition v c => Sys2Proof.Machine.execClusterLeavePartition v c s
  | .pcmdPreempt v val => Sys2Proof.Machine.execPcmdPreempt v val s
  | .pcmdPreemptUrgent v val => Sys2Proof.Machine.execPcmdPreemptUrgent v val s
  | .pcmdResume v val => Sys2Proof.Machine.execPcmdResume v val s
  | .contextSave v c => Sys2Proof.Machine.execContextSave v c s
  | .contextRestore v c => Sys2Proof.Machine.execContextRestore v c s
  | .vcmdReady v => Sys2Proof.Machine.execVcmdReady v s
  | .vcmdReset v => Sys2Proof.Machine.execVcmdReset v s
  | .functionLevelReset v => Sys2Proof.Machine.execFunctionLevelReset v s
  | .suplWrite v val => Sys2Proof.Machine.execSuplWrite v val s
  | .lqDoorbell v tail => Sys2Proof.Machine.execLqDoorbell v tail s
  | .launchAccept v src => Sys2Proof.Machine.execLaunchAccept v src s
  | .launchProceed l => Sys2Proof.Machine.execLaunchProceed l s
  | .levelTakeContext l path => Sys2Proof.Machine.execLevelTakeContext l path s
  | .repeatInstanceFinish l path => Sys2Proof.Machine.execRepeatInstanceFinish l path s
  | .firingBind c => Sys2Proof.Machine.execFiringBind c s
  | .starvationClose c => Sys2Proof.Machine.execStarvationClose c s
  | .commitTakeEffect f => Sys2Proof.Machine.execCommitTakeEffect f s
  | .watchdogExpiry f => Sys2Proof.Machine.execWatchdogExpiry f s
  | .recordWrite die idx => Sys2Proof.Machine.execRecordWrite die idx s
  | .messageDeliver idx => Sys2Proof.Machine.execMessageDeliver idx s
  | .messageFillSlot c idx => Sys2Proof.Machine.execMessageFillSlot c idx s
  | .launchComplete l => Sys2Proof.Machine.execLaunchComplete l s
  | .hardwareError f core passes => Sys2Proof.Machine.execHardwareError f core passes s
  | .explicitStorePerform c core acc => Sys2Proof.Machine.execExplicitStorePerform c core acc s
  | .explicitLoadPerform c core acc => Sys2Proof.Machine.execExplicitLoadPerform c core acc s
  | .loadDataReturn c core acc lease => Sys2Proof.Machine.execLoadDataReturn c core acc lease s
  | .feWaiterServe idx => Sys2Proof.Machine.execFeWaiterServe idx s
  | .clockBroadcast clk slice => Sys2Proof.Machine.execClockBroadcast clk slice s
  | .credibilityWindowClose v => Sys2Proof.Machine.execCredibilityWindowClose v s
  | .invWrite v va => Sys2Proof.Machine.execInvWrite v va s
  | .invalidationComplete idx => Sys2Proof.Machine.execInvalidationComplete idx s
  | .priRestart v val => Sys2Proof.Machine.execPriRestart v val s
  | .frerrRead v => Sys2Proof.Machine.execFrerrRead v s
  | .apertureAccess v off size wr val => Sys2Proof.Machine.execApertureAccess v off size wr val s
  | .slotStart slot => Sys2Proof.Machine.execSlotStart slot s
  | .slotStop slot => Sys2Proof.Machine.execSlotStop slot s
  | .slotResume slot => Sys2Proof.Machine.execSlotResume slot s
  | .slotReset slot => Sys2Proof.Machine.execSlotReset slot s
  | .sigWrite slot val => Sys2Proof.Machine.execSigWrite slot val s
  | .membershipWrite word val => Sys2Proof.Machine.execMembershipWrite word val s
  | .atsInvalidateRequest v addr size all => Sys2Proof.Machine.execAtsInvalidateRequest v addr size all s
  | .translationCompletion idx ta size r w u => Sys2Proof.Machine.execTranslationCompletion idx ta size r w u s
  | .prgResponse idx code => Sys2Proof.Machine.execPrgResponse idx code s
  | .pageRequestTimeout idx => Sys2Proof.Machine.execPageRequestTimeout idx s
  | .hostCompletionError c core acc => Sys2Proof.Machine.execHostCompletionError c core acc s
  | .flitCrcError link => Sys2Proof.Machine.execFlitCrcError link s
  | .linkDown link => Sys2Proof.Machine.execLinkDown link s
  | .remotePacketPerform pkt => Sys2Proof.Machine.execRemotePacketPerform pkt s
  | .remoteReply c core acc cause val => Sys2Proof.Machine.execRemoteReply c core acc cause val s
  | .remotePostedFault c core acc => Sys2Proof.Machine.execRemotePostedFault c core acc s
  | .flushMarkerArrive idx => Sys2Proof.Machine.execFlushMarkerArrive idx s
  | .flushAnswerArrive idx => Sys2Proof.Machine.execFlushAnswerArrive idx s
  | .engineCommandStart id => Sys2Proof.Machine.execEngineCommandStart id s
  | .enginePark id => Sys2Proof.Machine.execEnginePark id s
  | .engineCommandComplete id => Sys2Proof.Machine.execEngineCommandComplete id s
  | .engineCommandFault id cause => Sys2Proof.Machine.execEngineCommandFault id cause s
  | .enginePreemptStop id => Sys2Proof.Machine.execEnginePreemptStop id s
  | .nbmvPublish id => Sys2Proof.Machine.execNbmvPublish id s
  | .taskAccept idx => Sys2Proof.Machine.execTaskAccept idx s
  | .taskIssue id => Sys2Proof.Machine.execTaskIssue id s
  | .taskPublish id => Sys2Proof.Machine.execTaskPublish id s
  | .taskRefire id => Sys2Proof.Machine.execTaskRefire id s
  | .taskRetire id => Sys2Proof.Machine.execTaskRetire id s
  | .taskFault id cause => Sys2Proof.Machine.execTaskFault id cause s
  | .engineHwRerun id => Sys2Proof.Machine.execEngineHwRerun id s
  | .taskPreemptStop id => Sys2Proof.Machine.execTaskPreemptStop id s
  | .stepFill v inst => Sys2Proof.Machine.execStepFill v inst s
  | .stepCommit v inst => Sys2Proof.Machine.execStepCommit v inst s
  | .evictionStart v => Sys2Proof.Machine.execEvictionStart v s
  | .evictionCommit v page => Sys2Proof.Machine.execEvictionCommit v page s
  | .promotionStart v => Sys2Proof.Machine.execPromotionStart v s
  | .promotionComplete v page lost => Sys2Proof.Machine.execPromotionComplete v page lost s
  | .integrityFailure v page => Sys2Proof.Machine.execIntegrityFailure v page s
  | .blockRehome v ctx block => Sys2Proof.Machine.execBlockRehome v ctx block s
  | .tresolveWrite c core => Sys2Proof.Machine.execTresolveWrite c core s
  | .vfEnable v => Sys2Proof.Machine.execVfEnable v s
  | .windowUncorrectableError v die off => Sys2Proof.Machine.execWindowUncorrectableError v die off s
  | .clusterUnitFailure c => Sys2Proof.Machine.execClusterUnitFailure c s
  | .coherentStorePerform c core acc => Sys2Proof.Machine.execCoherentStorePerform c core acc s

end Sys2Proof.Machine
end

