-- ==== Sys2Proof/Machine/Run.lean ====
section
/-! DEFINITION. What a move does: a party's next word, an event, the passing of clocks, and what the outside world does
between words (R15, R74, R80, R94, R219, R233, R246). -/

namespace Sys2Proof.Machine

/-! ### A party's next word (R74, R80) -/

/-- Whether a firing waits for something other than its next word: its commit, or what holds a core's issue. -/
def waits (f : Firing) (units : List Core) : Bool := f.ending || expired f || units.any fun k => busyHolds k.busy
/-- The words that a fetch found run as the instruction that they decode to, or trap. -/
noncomputable def runWords (s : State) (w0 w1 : W32) : Out :=
  match decodeKernel w0 w1 with
  | .instr i => exec i s
  | .reject _ => exec (.illegalEncoding w0 w1) s
/-- A core's next word: the firing that holds it fetches at its program counter. A core that holds no firing does
nothing. -/
noncomputable def runCore (s : State) (c i : Nat) : Out :=
  match firingAt s c i with
  | none => .next s
  | some f =>
    let units := actingCores f i
    if waits f units then .next s
    else
      match fetchAt s f (pcOf units) with
      | (s, .words w0 w1) => runWords s w0 w1
      | (s, .failed addr sub w0) => exec (.instructionFetchFault addr sub w0) s
/-- An agent's next word. An agent that does not run does nothing, nor does one whose launch waits for acceptance. -/
noncomputable def runAgent (s : State) : Out :=
  match actingSlot s with
  | none => .next s
  | some k =>
    if k.owed then .next (agentTrap s { k with owed := false } trapAmem)
    else if k.klaunch.isSome then .next s
    else
      match agentFetch s k with
      | none => exec .agentFetchFault s
      | some (s, w) =>
        match decodeAgent w with
        | .instr i => exec i s
        | .reject _ => exec (.agentIllegalWord w) s
/-- The next word of a party, which becomes the acting one. -/
noncomputable def runParty (p : Party) (s : State) : Out :=
  let s := setCur s p
  match p with
  | .none => .next s
  | .core c i => runCore s c i
  | .agent _ => runAgent s

/-! ### Events (R246) -/

/-- Whether an instruction is a happening of the part, and not a word or what the fetch of a word finds. -/
def isEvent : Instr → Bool
  | .illegalEncoding _ _ => false
  | .instructionFetchFault _ _ _ => false
  | .agentIllegalWord _ => false
  | .agentFetchFault => false
  | i => (encode i).isEmpty
/-- An event that the plan names. -/
noncomputable def runEvent (i : Instr) (s : State) : Out :=
  if isEvent i && wellFormed i then exec i s else notEnabled "EVENT"

/-! ### Time (R28, R233) -/

/-- Whether every core of a firing waits on a page request, sent or waiting to be sent, so that its watchdog does not count
(R233). -/
def pageStalled (s : State) (f : Firing) : Bool := f.cores.all fun k => match k.busy with
  | .page id => s.xlat.reqs.any fun r => r.id == id && (r.phase == 1 || r.phase == 3)
  | _ => false
/-- Whether a firing's watchdog counts. -/
def counts (s : State) (f : Firing) : Bool := f.issued && !(pageStalled s f)
/-- The clocks that may pass before some firing's watchdog reaches its limit: a trap that is due is taken first (R28). -/
def untilExpiry (s : State) (n : Nat) : Nat :=
  (s.firings.filter (counts s)).foldl (fun m f => min m (f.wdlimit - f.wdcount)) n
/-- At most n clocks pass, up to the next trap of a watchdog: the package's clock and the watchdog counts of the firings that
have issued advance (log 5, DESIGN CHOICE). -/
def passTime (n : Nat) (s : State) : State :=
  let n := untilExpiry s n
  let go (f : Firing) : Firing := if counts s f then { f with wdcount := f.wdcount + n } else f
  setFirings (setClk s (s.clk + n)) (s.firings.map go)

/-! ### The outside world -/

/-- The host writes bytes of its own memory. -/
def hostWrites (addr : Nat) (data : List Byte) (s : State) : State :=
  if addr + data.length ≤ 2 ^ 64 then setMem s (memWriteBytes s.mem (memKey .host addr) data) else s
/-- The home set of a tenant's instances: the clusters of its partition that are not fenced (R281, R344). -/
def homeClusters (s : State) (v : Nat) : List Nat :=
  (List.range 1024).filter fun c => (tenantOf s v).clmask.getLsbD c && !(s.cfg.fenced.contains c)
/-- Whether a model image keeps the limits of its manifest and its tables (R6, R94, R341, R355, R367, R391, R397); a manifest
may have no emission (log 98, DESIGN CHOICE). -/
def modelOk (s : State) (m : Model) : Bool :=
  m.num ≤ 255 && m.block == 2 ^ Nat.log2 m.block && 16 ≤ m.block && m.block ≤ 4096 && 1 ≤ m.ppb && m.ppb ≤ 64 &&
    m.rot.length ≤ 256 && m.rot.all (fun w => fieldOf w.toNat 48 16 == 0) &&
    m.emits.length ≤ 2 ^ 20 && m.emits.all (fun e => 1 ≤ e.length && e.length ≤ 8) &&
    m.grams.all (tableOk s m.tenant) && m.area.toNat % 64 == 0 && m.lists.length == m.templates.length &&
    m.lists.any (·.contains m.step) && m.lists.any (·.contains m.prefill)
/-- The runtime loads a model instance for a tenant that is ready and accepts models (R94, R388, R408): its home set is the
tenant's partition, and its first step is step 1 (R344, R379) (log 98, DESIGN CHOICE). -/
def loadsModel (m : Model) (s : State) : Out :=
  let t := tenantOf s m.tenant
  if 16 ≤ m.tenant || t.vstate != 2 || !(t.faccept.getLsbD 5) || !(modelOk s m) || (modelOf s m.tenant m.num).isSome then
    notEnabled "MODEL"
  else
    let m := { m with homeSet := homeClusters s m.tenant, stepNo := 0, deficits := [], visited := 16 }
    .next (setCtx s { s.ctx with models := s.ctx.models ++ [m] })
/-- The runtime unloads a model instance that has no step in flight: its index entries go, and the pages that nothing else
references (R346) (log 98, DESIGN CHOICE). -/
def unloadsModel (v num : Nat) (s : State) : Out :=
  if (modelOf s v num).isNone || s.ctx.steps.any fun t => t.tenant == v && t.inst == num then notEnabled "MODEL"
  else
    .next (sweepPages (setCtx s { s.ctx with
      models := s.ctx.models.filter fun m => !(m.tenant == v && m.num == num)
      pfx := s.ctx.pfx.filter fun e => !(e.tenant == v && e.model == num) }) v)
/-- An instruction cache drops a word that it holds (R76). -/
def dropsFetched (c key : Nat) (s : State) : State := setIcache s (s.icache.filter fun e => !(e.1 == c && e.2.1 == key))
/-- An instruction cache takes a word ahead of its use (R76). -/
def fetchesAhead (c key : Nat) (s : State) : Out :=
  if 1024 ≤ c || key % 4 != 0 || 2 ^ 64 ≤ key || poisoned s key 4 then notEnabled "FETCH_AHEAD"
  else
    let s := dropsFetched c key s
    let (s, bs) := getHome s key 4
    .next (setIcache s (keepWord s.icache c key (BitVec.ofNat 32 (ofBytes bs))))
/-- An early read of an engine command or a tile task (R262). -/
def readsAhead (cmd : Nat) (ea : Word) (s : State) : Out :=
  match taskOf s cmd with
  | some t => readAheadTask s t ea
  | none => moveReadAhead cmd ea s
/-- One posted word of an engine command or a tile task performs (R262). -/
def drains (cmd : Nat) (ea : Word) (s : State) : Out :=
  match taskOf s cmd with
  | some t => drainTask s t ea
  | none => moveDrain cmd ea s
/-- An uncorrectable error is found in a dirty sector as its line is evicted: it is charged to the line's owner, a record is
sent, and the sector is poisoned (R219). -/
def poisonSector (slice set way sector : Nat) (s : State) : Out :=
  match s.l2.lines.find? fun l => l.slice == slice && l.set == set && l.way == way with
  | none => notEnabled "SECTOR"
  | some l =>
    if 4 ≤ sector || !(l.dirty.getLsbD sector) then notEnabled "SECTOR"
    else
      let clk := l.wclk.bind fun i => s.l2.clks.find? fun e => e.slice == slice && e.idx == i
      let info : Word := match clk with
        | some e => (clockVal s e.clk).setWidth 64
        | none => BitVec.allOnes 64
      let r : Record := { partRecord l.owner 4 (BitVec.ofNat 64 (l.line * 256)) info with die := slice / 2048 }
      let s := queueRecord (dropLine s l.line) r
      .next (setL2 s { s.l2 with poison := insertNat (l.line * 4 + sector) s.l2.poison })

/-! ### The plan -/

/-- One move of the plan. -/
noncomputable def runMove (m : Move) (s : State) : Out :=
  match m with
  | .run p => runParty p s
  | .event i => runEvent i s
  | .tick n => .next (passTime n s)
  | .hostWrite addr data => .next (hostWrites addr data s)
  | .granule cmd g => moveGranule cmd g s
  | .loadModel m => loadsModel m s
  | .unloadModel v num => unloadsModel v num s
  | .registerRead fn bar off size => readRegister fn bar off size s
  | .poisonLine slice set way sector => poisonSector slice set way sector s
  | .route c i acc path => routeAcc c i acc path s
  | .readAhead cmd ea => readsAhead cmd ea s
  | .drain cmd ea => drains cmd ea s
  | .flush cmd => moveFlush cmd s
  | .dropFetched c key => .next (dropsFetched c key s)
  | .fetchAhead c key => fetchesAhead c key s
  | .hostError => .next (setXlat s { s.xlat with hostError := true })
  | .linkUp link => linkTrained link s

/-! ### With an empty plan -/

/-- The moves that can take an access further, in the order in which they are tried (log 10, DESIGN CHOICE). -/
def accMoves (c i id : Nat) : List (State → Out) :=
  [execExplicitLoadPerform c i id, execLoadDataReturn c i id 0, execExplicitStorePerform c i id,
   execCoherentStorePerform c i id, execRemotePacketPerform (.own c i id)]
/-- The first of some moves that goes on. -/
def firstNext (s : State) : List (State → Out) → Option State
  | [] => none
  | f :: fs =>
    match f s with
    | .next t => some t
    | _ => firstNext s fs
/-- The oldest access of a core that some move takes further. -/
def nextAccess (s : State) (c i : Nat) : List Acc → Option State
  | [] => none
  | a :: as =>
    match firstNext s (accMoves c i a.id) with
    | some t => some t
    | none => nextAccess s c i as
/-- The move of the acting party alone: a core's oldest access goes on, and then its next word. -/
noncomputable def runAlone (s : State) : Out :=
  match s.cur with
  | .core c i =>
    match nextAccess s c i (pcoreAt s c i).accs with
    | some t => .next t
    | none => runParty (.core c i) s
  | p => runParty p s

end Sys2Proof.Machine
end

