-- ==== Sys2Proof/Machine/Step.lean ====
section
/-! DEFINITION. One step of the part, and an instruction stored where the next step fetches. -/

namespace Sys2Proof.Machine

/-- One step: the first move of the plan, or with an empty plan the acting party's own. -/
noncomputable def step (s : State) : Host.Outcome State Fault Refusal :=
  match s.plan with
  | m :: ms => runMove m (setPlan s ms)
  | [] => runAlone s

/-- The device VA at which `withFetchWord` places an instruction. -/
def fetchVa : Nat := 0x4000000000
/-- The bytes that an instruction of a table row takes in memory, lowest first. -/
def fetchBytes (nbits w : Nat) : List Byte := toBytes 8 (w % 2 ^ nbits)
/-- The page of `fetchVa` in the translation cache of a cluster (or of the part, 1024), with the bytes in memory behind it. -/
def withFetchPage (s : State) (unit v : Nat) (bs : List Byte) : State :=
  let e : TEntry := { unit := unit, tenant := v, va := fetchVa, r := true, w := true, x := true }
  let k := memKey .device 0
  let s := setXlat s { s.xlat with entries := e :: s.xlat.entries }
  let s := setIcache s []
  let s := setL2 s { s.l2 with poison := s.l2.poison.filter (· != k / 64), lost := s.l2.lost.filter fun b => k + 8 ≤ b }
  setMem s (memWriteBytes s.mem k bs)
/-- A firing of tenant 0 on the acting core (core 0 of cluster 0 where no core acts), with its program counter at
`fetchVa` (log 17, DESIGN CHOICE). -/
def withFetchFiring (s : State) : State × Nat × Nat × Nat :=
  let (c, i) : Nat × Nat := match s.cur with
    | .core c i => (c, i)
    | _ => (0, 0)
  let pc : Word := BitVec.ofNat 64 fetchVa
  match firingAt s c i with
  | some f =>
    let f := { f with ending := false, cores := f.cores.map fun k => { k with pc := pc, busy := .none } }
    (putFiring s f, c, i, f.tenant)
  | none =>
    let f : Firing := { id := s.nextId, clus := c, lead := i, cores := [{ idx := i, pc := pc }], wdlimit := 2 ^ 16 }
    (setNextId (setFirings s (s.firings ++ [f])) (s.nextId + 1), c, i, 0)
/-- A running agent of tenant 0 in the acting slot (slot 0 where no agent acts), with its program at `fetchVa`. -/
def withFetchAgent (s : State) : State × Nat × Nat :=
  let n := match s.cur with
    | .agent n => n
    | _ => 0
  let s := match (List.range 16).find? fun v =>
      (tenantOf s v).sbase.toNat ≤ n && n < (tenantOf s v).sbase.toNat + (tenantOf s v).scount.toNat with
    | some _ => s
    | none => putTenant s 0 { tenantOf s 0 with sbase := 0, scount := BitVec.ofNat 32 (n + 1) }
  let v := (slotTenant s n).getD 0
  let k := { slotAt s n with tenant := v, st := .running, rprog := BitVec.ofNat 64 fetchVa, rpsize := 8, pc := 0, owed := false, klaunch := none }
  (putSlot s k, n, v)
/-- The state with an instruction stored where the very next step fetches it: that step is the acting core's next word, or
for a context-level word the acting agent's. -/
noncomputable def State.withFetchWord (s : State) (nbits w : Nat) : State :=
  let bs := fetchBytes nbits w
  let agent := match decodeBytes bs, decodeAgentBytes bs with
    | .reject _, .instr _ => true
    | _, _ => false
  if agent then
    let (s, n, v) := withFetchAgent s
    setPlan (withFetchPage s 1024 v bs) [.run (.agent n)]
  else
    let (s, c, i, v) := withFetchFiring s
    setPlan (withFetchPage s c v bs) [.run (.core c i)]

end Sys2Proof.Machine
end

