-- ==== Sys2Proof/Safety.lean ====
section
/-! DEFINITION. What counts as a safe state, and the terms in which claims are made: when an instruction issues, and what
it leaves of a firing. -/

namespace Sys2Proof.Machine

/-! ### Kernel level -/

/-- An instruction of a site issues in a state: the acting core holds a firing whose commit does not wait and whose watchdog
has not run out, nothing holds the issue of the cores that act, and no unfinished load of theirs will write a register that
it names (R28, R58, R112, R136, R197). `f` is the firing with its first issue noted, and `units` are the cores that act. -/
def Issues (s : State) (t : Site) (f : Firing) (units : List Core) : Prop :=
  ∃ c i f0, s.cur = .core c i ∧ firingAt s c i = some f0 ∧ f = { f0 with issued := true } ∧ units = actingCores f i ∧
    f.ending = false ∧ expired f = false ∧ units.any (fun k => busyHolds k.busy) = false ∧ interlocked s f units t = false
/-- What an instruction that only changes register files leaves of the firing: `g` on the gang's uniform file, or on the
files of each acting core, where the governing predicate selects. -/
def fileResult (f : Firing) (units : List Core) (uni : Bool) (pr : BitVec 3) (g : RFile → RFile) : Firing :=
  let on (r : RFile) : RFile := if takes r pr then g r else r
  if uni then
    let r := fileOf f units true (units.head?.getD {})
    if takes r pr then flagAll (putUniform f units (g r).u) (g r).fl else f
  else
    putCores f (units.map fun c =>
      let r := on (fileOf f units false c)
      { r.core with nflags := r.core.nflags ||| r.fl })
/-- The state after an instruction that only changed the firing, with the acting cores past it. -/
def afterWord (s : State) (f f' : Firing) (units : List Core) (len : Word) : State :=
  putFiring (putFiring s f) (advance f' units len)
/-- Every operand of an instruction that changes register files and nothing else: it issues, and the state after it is that
of its function on the files. `len` is its length in bytes. -/
def RunsAs {Op : Type} (i : Op → Instr) (uni : Op → Bool) (pr : Op → BitVec 3) (len : Word) (g : Op → RFile → RFile) : Prop :=
  ∀ s f units o, Issues s (siteOf (i o)) f units →
    exec (i o) s = .next (afterWord s f (fileResult f units (uni o) (pr o) (g o)) units len)
/-- The same of a format-A instruction. -/
def RunsA (i : OpA → Instr) (g : OpA → RFile → RFile) : Prop := RunsAs i (fun o => o.k == 1) (fun o => o.pr) 4 g
/-- The same of a format-I instruction, which has no k bit. -/
def RunsI (i : OpI → Instr) (g : OpI → RFile → RFile) : Prop := RunsAs i (fun _ => false) (fun o => o.pr) 4 g
/-- The same of a format-X instruction. -/
def RunsX (i : OpX → Instr) (g : OpX → RFile → RFile) : Prop := RunsAs i (fun o => o.o.k == 1) (fun o => o.o.pr) 8 g

/-- A result on 64 bits, or on bits [31:0] of each source with the result sign-extended (R119). -/
def byWidth (q : BitVec 3) (g32 : W32 → W32 → W32) (g64 : Word → Word → Word) (a b : Word) : Word :=
  if q = 1 then (g32 (a.setWidth 32) (b.setWidth 32)).signExtend 64 else g64 a b
/-- d := A op B. -/
def setAB (o : OpA) (g : Word → Word → Word) (r : RFile) : RFile :=
  setS r o.d.toNat (g (getS r o.a.toNat) (getS r o.b.toNat))
/-- d := A op B, with a flag raised where a test of A and B holds. -/
def setABFlag (o : OpA) (g : Word → Word → Word) (fl : FlagBits) (when : Word → Word → Prop)
    [∀ a b, Decidable (when a b)] (r : RFile) : RFile :=
  let r' := setAB o g r
  if when (getS r o.a.toNat) (getS r o.b.toNat) then { r' with fl := r'.fl ||| fl } else r'
/-- Predicate d from a condition on A and B (R127). -/
def setIf (o : OpA) (g : Word → Word → Bool) (r : RFile) : RFile :=
  setP r o.d.toNat (if g (getS r o.a.toNat) (getS r o.b.toNat) then 0xFFFF else 0)
/-- The same where the result depends on the firing and the state beside. -/
def RunsIn {Op : Type} (i : Op → Instr) (uni : Op → Bool) (pr : Op → BitVec 3) (len : Word)
    (g : Op → State → Firing → RFile → RFile) : Prop :=
  ∀ s f units o, Issues s (siteOf (i o)) f units →
    exec (i o) s = .next (afterWord s f (fileResult f units (uni o) (pr o) (g o (putFiring s f) f)) units len)
/-- The active cores of an instruction that a `p` register of each core governs. -/
def activeCores (units : List Core) (pr : BitVec 3) : List Core := units.filter fun c => (getPr c pr.toNat).getLsbD 0
/-- The state after a precise trap of a word: `trapFiring` on the firing with its first issue noted. -/
def afterTrap (s : State) (f : Firing) (t : TrapInfo) (w : Site) : State :=
  trapFiring (putFiring s f) f t (w.words.head?.getD 0) (w.words[1]?.getD 0)
/-- The state after a taken control transfer. -/
def afterJump (s : State) (f f' : Firing) (units : List Core) (target : Word) : State :=
  putFiring (putFiring s f) (jumpTo f' units target)
/-- Every core of a list gives the same answer, and there is one. -/
def Unanimous {α : Type} (votes : List α) (v : α) : Prop := votes ≠ [] ∧ ∀ x ∈ votes, x = v
/-- Two cores of a list answer differently. -/
def Divided {α : Type} (votes : List α) : Prop := ∃ x ∈ votes, ∃ y ∈ votes, x ≠ y

/-! ### Vector instructions -/

/-- What a vector instruction that names `srcs` sees on a core: the words at the heads of its links, and the core with those
popped that it names (R60, R145). -/
def vecView (srcs : List (BitVec 5)) (c : Core) : VIn :=
  { core := popCore (srcs.contains 30) (srcs.contains 31) c, lw := c.lw.head?.getD 0, le := c.le.head?.getD 0 }
/-- Every operand of a vector instruction that never traps: while a pop finds no word or a push no room nothing happens but
the first issue (R146); otherwise each core that `on` selects gets the result `g`. -/
def RunsV (i : OpA → Instr) (srcs : OpA → List (BitVec 5)) (dst : OpA → Option (BitVec 5)) (on : OpA → Core → Bool)
    (g : OpA → VIn → VOut) : Prop :=
  ∀ s f units o, Issues s (siteOf (i o)) f units →
    let act := units.filter (on o)
    let outs := act.map fun c => g o (vecView (srcs o) c)
    let ready (c : Core) : Bool := popReady ((srcs o).contains 30) ((srcs o).contains 31) c
    ((∃ c ∈ act, ready c = false) → exec (i o) s = .next (putFiring s f)) ∧
    ((∀ c ∈ act, ready c = true) →
      (applyVec f (dst o) outs = none → exec (i o) s = .next (putFiring s f)) ∧
      ∀ f', applyVec f (dst o) outs = some f' → exec (i o) s = .next (afterWord s f f' units 4))
/-- Element e of v_a. -/
def elA (o : OpA) (v : VIn) (e : Nat) : Nat := elemAt (qWidth o.q) (srcV v o.a) e
/-- Element e of v_b. -/
def elB (o : OpA) (v : VIn) (e : Nat) : Nat := elemAt (qWidth o.q) (srcV v o.b) e
/-- Element e of v_d as it stood. -/
def elD (o : OpA) (v : VIn) (e : Nat) : Nat := elemAt (qWidth o.q) (srcV v o.d) e
/-- A result by element, written where the mask selects (R143). -/
def byElement (o : OpA) (g : VIn → Nat → Nat × FlagBits) (v : VIn) : VOut :=
  elementOut v (maskOf v o.pr) (qWidth o.q) (g v)
/-- Every vector instruction whose result is by element of sources a; a and b; a, b and d. -/
def RunsV1 (i : OpA → Instr) (g : OpA → Nat → Nat × FlagBits) : Prop :=
  RunsV i (fun o => [o.a]) (fun o => some o.d) (fun _ _ => true) fun o => byElement o fun v e => g o (elA o v e)
/-- The same of sources a and b. -/
def RunsV2 (i : OpA → Instr) (g : OpA → Nat → Nat → Nat × FlagBits) : Prop :=
  RunsV i (fun o => [o.a, o.b]) (fun o => some o.d) (fun _ _ => true) fun o =>
    byElement o fun v e => g o (elA o v e) (elB o v e)
/-- The same of sources a, b and d. -/
def RunsV3 (i : OpA → Instr) (g : OpA → Nat → Nat → Nat → Nat × FlagBits) : Prop :=
  RunsV i (fun o => [o.a, o.b, o.d]) (fun o => some o.d) (fun _ _ => true) fun o =>
    byElement o fun v e => g o (elA o v e) (elB o v e) (elD o v e)
/-- The same of a function of the files that writes every byte of d. -/
def RunsVW (i : OpA → Instr) (srcs : OpA → List (BitVec 5)) (g : OpA → VIn → Vec × FlagBits) : Prop :=
  RunsV i srcs (fun o => some o.d) (fun _ _ => true) fun o v =>
    { core := v.core, val := (g o v).1, mask := 0xFFFF, fl := (g o v).2 }
/-- A float result where q names a float type, an integer result where it does not (R141). -/
def byKind (o : OpA) (fl : Val → Val → Val) (int : (w : Nat) → Int → Int → Int) (a b : Nat) : Nat × FlagBits :=
  if qFloat o.q then rne (qFmt o.q) (fl (decodeFmt (qFmt o.q) a) (decodeFmt (qFmt o.q) b))
  else ((int (qWidth o.q) (signedOf (qWidth o.q) a) (signedOf (qWidth o.q) b) % 2 ^ qWidth o.q).toNat, 0)

/-! ### Memory instructions -/

/-- Every operand of an instruction that checks each selected core first (R112, R192): `chk` gives the check of a core, if it
makes an access. While the counter `cnt` that its accesses would raise is full it waits (R61). Else where some check traps,
the lowest core's trap is taken. Where each passes, and the accesses are `ready`, the state is `after`; else only the checks
leave their mark. Both are told the accesses with the word's bits, and `after` how many selected cores make none. -/
def CheckedIf {Op : Type} (i : Op → Instr) (uni : Op → Bool) (cnt : Op → Option Bool)
    (sel : Op → Firing → List Core → List Core)
    (chk : Op → Firing → List Core → Core → Option (State → State × Chk))
    (ready : Op → State → Firing → List Core → List (Core × Acc) → Bool)
    (after : Op → State → Firing → List Core → Nat → List (Core × Acc) → State) : Prop :=
  ∀ s f units o, Issues s (siteOf (i o)) f units →
    let cores := sel o f units
    let asks := cores.filterMap fun c => (chk o f units c).map fun g => (c, g)
    let full := countersFull (putFiring s f) f (if uni o then units else asks.map (·.1)) (cnt o)
    let w := siteOf (i o)
    (asks ≠ [] ∧ full = true → exec (i o) s = .next (putFiring s f)) ∧
    (asks = [] ∨ full = false →
      (∀ s' rs t, checkAll (putFiring s f) asks = (s', rs) → firstTrap rs = some t →
        exec (i o) s = .next (trapFiring s' f t (w.words.head?.getD 0) (w.words[1]?.getD 0))) ∧
      ∀ (s' : State) (l : List (Core × Acc)), checkAll (putFiring s f) asks = (s', l.map fun e => (e.1, .ok e.2)) →
        let accs := l.map fun e => (e.1, { e.2 with words := w.words })
        (ready o s' f units accs = true →
          exec (i o) s = .next (after o s' f units (cores.length - asks.length) accs)) ∧
        (ready o s' f units accs = false → exec (i o) s = .next s'))
/-- The same of an instruction whose checked accesses go on at once. -/
def Checked {Op : Type} (i : Op → Instr) (uni : Op → Bool) (cnt : Op → Option Bool)
    (sel : Op → Firing → List Core → List Core)
    (chk : Op → Firing → List Core → Core → Option (State → State × Chk))
    (after : Op → State → Firing → List Core → Nat → List (Core × Acc) → State) : Prop :=
  CheckedIf i uni cnt sel chk (fun _ _ _ _ _ => true) after
/-- The same of an access under the checks of R192, which goes on while `ready`; `acc` gives the length that its checks cover
and the access. -/
def RunsMIf {Op : Type} (i : Op → Instr) (uni : Op → Bool) (form : Form) (want : Want)
    (sel : Op → Firing → List Core → List Core) (acc : Op → Firing → List Core → Core → Option (Nat × Acc))
    (ready : Op → State → Firing → List Core → List (Core × Acc) → Bool)
    (after : Op → State → Firing → List Core → Nat → List (Core × Acc) → State) : Prop :=
  CheckedIf i uni (fun _ => some (raisesLoad form want)) sel (fun o f units c =>
    (acc o f units c).map fun r => fun s => checkAccess s f c form want r.1 r.2) ready after
/-- The same of an access that goes on at once. -/
def RunsM {Op : Type} (i : Op → Instr) (uni : Op → Bool) (form : Form) (want : Want)
    (sel : Op → Firing → List Core → List Core) (acc : Op → Firing → List Core → Core → Option (Nat × Acc))
    (after : Op → State → Firing → List Core → Nat → List (Core × Acc) → State) : Prop :=
  RunsMIf i uni form want sel acc (fun _ _ _ _ _ => true) after
/-- The cores whose governing predicate selects a format-M word: one for the gang with k = 1. -/
def selM (o : OpM) (f : Firing) (units : List Core) : List Core :=
  (if o.o.k = 1 then units.take 1 else units).filter fun c => takes (fileOf f units (o.o.k == 1) c) o.o.pr
/-- The files of a core, or the uniform file with k = 1. -/
def fileM (o : OpM) (f : Firing) (units : List Core) (c : Core) : RFile := fileOf f units (o.o.k == 1) c
/-- A + (B << sx) + off (R70). -/
def addrIndexed (o : OpM) (r : RFile) : Word :=
  getS r o.o.a.toNat + (getS r o.o.b.toNat <<< o.sx.toNat) + o.off.signExtend 64
/-- A + off (R70). -/
def addrPlain (o : OpM) (r : RFile) : Word := getS r o.o.a.toNat + o.off.signExtend 64
/-- The accesses enter the orders of their cores, which go on 8 bytes, or wait for a reply where one holds issue. -/
def issued (uni : Bool) (s : State) (f : Firing) (units : List Core) (idle : Nat) (l : List (Core × Acc)) : State :=
  let r := issueAll (tickIdle s f idle) f units uni l
  putFiring r.1 (if l.any fun e => holdsIssue e.2 then r.2 else advance r.2 units 8)
/-- The scalar destination of a load or an atomic. -/
def destM (o : OpM) : Dest := if o.o.k = 1 then .g o.o.d.toNat else if o.o.d = 0 then .none else .x o.o.d.toNat

/-! ### Context-level words -/

/-- A word issues on an agent: it is the acting running slot, owes no trap, waits for no launch, and the scoreboard holds
neither the registers that the word reads and writes nor the contexts that it names (R373). -/
def AgentIssues (s : State) (k : Slot) (rd wr cs : List (BitVec 4)) : Prop :=
  ∃ n, s.cur = .agent n ∧ slotOf s n = some k ∧ k.st = .running ∧ k.owed = false ∧ k.klaunch = none ∧
    boardHolds s k rd wr cs = false
/-- Every operand of a word that reads and writes these registers and names these contexts: the state after it. -/
def RunsWord (i : OpC → Instr) (rd wr cs : OpC → List (BitVec 4)) (t : OpC → State → Slot → State) : Prop :=
  ∀ s k o, AgentIssues s k (rd o) (wr o) (cs o) → exec (i o) s = .next (t o s k)
/-- The same of a word that only writes a_x and goes on to the next word. -/
def SetsA (i : OpC → Instr) (rd : OpC → List (BitVec 4)) (g : OpC → Slot → Word) : Prop :=
  RunsWord i rd (fun o => [o.x]) (fun _ => []) fun o s k =>
    putSlot s { k with a := k.a.set o.x.toNat (g o k), pc := k.pc + 8 }
/-- A word on operands A = a_y and B, which is a_z, or the sign-extended immediate where bit 0 of m is set (R376). -/
def OperatesA (i : OpC → Instr) (g : OpC → Word → Word → Word) : Prop :=
  SetsA i (fun o => if o.m.getLsbD 0 then [o.y] else [o.y, o.z]) fun o k =>
    g o k.a[o.y.toNat] (if o.m.getLsbD 0 then o.imm.signExtend 64 else k.a[o.z.toNat])
/-- The slot past its word with a status in a_x. -/
def answered (s : State) (k : Slot) (o : OpC) (w : Word) : State :=
  let n := slotAt s k.num
  putSlot s { n with a := n.a.set o.x.toNat w, pc := n.pc + 8 }
/-- The state in which a long instruction has begun: a_x is pending, its contexts carry its record, and it runs on to its first
boundary (R373, R375, R380). -/
def begun (s : State) (k : Slot) (o : OpC) (l : Long) : State :=
  takeFaults (settleAppend (putLong (putSlot s (pastWord
    { k with pend := k.pend ||| ((1 : BitVec 16) <<< o.x.toNat), long := some l })) k.num l) k.num)

/-! ### What a word leaves -/

/-- A core is another but for its program counter, flags, links and marks, and the registers that `x`, `p` and `v` select; its
private uniform file likewise. -/
def KeepsCore (x p v : Nat → Bool) (k' k : Core) : Prop :=
  k'.idx = k.idx ∧ (∀ n, x n = false → getX k' n = getX k n ∧ getG k'.u n = getG k.u n) ∧
    (∀ n, p n = false → getPr k' n = getPr k n ∧ getGp k'.u n = getGp k.u n) ∧ ∀ n, v n = false → vget k'.v n 0 = vget k.v n 0
/-- Every operand of a word changes the acting core's firing alone, and there no registers but those selected. -/
def KeepsRest (i : OpA → Instr) (x p v : OpA → Nat → Bool) : Prop :=
  ∀ s t o c j f, s.cur = .core c j → firingAt s c j = some f → exec (i o) s = .next t →
    t = setFirings s t.firings ∧ (∀ n, n ≠ f.id → firingOf t n = firingOf s n) ∧
    ∃ f', firingAt t c j = some f' ∧ f'.id = f.id ∧ (∀ k' ∈ f'.cores, ∃ k ∈ f.cores, KeepsCore (x o) (p o) (v o) k' k) ∧
      (∀ n, x o n = false → getG f'.u n = getG f.u n) ∧ ∀ n, p o n = false → getGp f'.u n = getGp f.u n

/-! ### Words and their encodings -/

/-- Whether an instruction is a context-level word (R79). -/
def isAgentWord : Instr → Bool
  | .aMoviLo _ | .aMoviHi _ | .aMoviZ _ | .aMov _ | .aAdd _ | .aSub _ | .aAnd _ | .aOr _ | .aXor _ | .aShl _ | .aShr _
  | .aMul _ | .aCmp _ | .aBr _ | .aJmp _ | .aCall _ | .aRet _ | .aLd _ | .aSt _ | .aWaitPend _ | .aWaitSig _
  | .aWaitAll _ | .aSigSlot _ | .aSigHost _ | .aYield _ | .aHalt _ | .aKlaunch _ | .aFence _ | .cNew _ | .cFork _
  | .cDrop _ | .cTrim _ | .cLen _ | .cRead _ | .cHint _ | .cPin _ | .cUnpin _ | .cProg _ | .cBind _ | .cGram _
  | .cSamp _ | .cApp _ | .cGen _ | .cScore _ | .cChoose _ | .cSpec _ => true
  | _ => false
/-- The words that an instruction is encoded in decode to it: a short word whatever follows it, a long instruction's two
words, a context-level word's halves. -/
def DecodesBack (i : Instr) : Prop :=
  (∀ w0, encode i = [w0] → ∀ w1, decodeKernel w0 w1 = .instr i) ∧
  (∀ w0 w1, encode i = [w0, w1] → isAgentWord i = false → decodeKernel w0 w1 = .instr i) ∧
  ∀ w0 w1, encode i = [w0, w1] → isAgentWord i = true → decodeAgent (w1 ++ w0) = .instr i

end Sys2Proof.Machine
end

