-- ==== Sys2Proof/Certificates/Slice0/Obligations.lean ====
section
/-! DEFINITION. The statements for the provers. -/

open Sys2Proof Sys2Proof.Machine

/-! ### Scalar instructions -/

/-- ALU computes d := A op B at 64 bits, or at 32 with the result sign-extended (R119, R120). ALUI adds a sign-extended
imm12, MOVI writes d from imm32, and ALUL computes d := A op I (R121, R122, R123). -/
def Obligations.AluAndImmediatesCompute : Prop :=
  (RunsA .aluAdd (fun o => setAB o (byWidth o.q (· + ·) (· + ·))) ∧
   RunsA .aluSub (fun o => setAB o (byWidth o.q (· - ·) (· - ·))) ∧
   RunsA .aluAnd (fun o => setAB o (byWidth o.q (· &&& ·) (· &&& ·))) ∧
   RunsA .aluOr (fun o => setAB o (byWidth o.q (· ||| ·) (· ||| ·))) ∧
   RunsA .aluXor (fun o => setAB o (byWidth o.q (· ^^^ ·) (· ^^^ ·))) ∧
   RunsA .aluShl (fun o => setAB o (byWidth o.q (fun a b => a <<< (b.toNat % 32)) (fun a b => a <<< (b.toNat % 64)))) ∧
   RunsA .aluShr (fun o => setAB o (byWidth o.q (fun a b => a >>> (b.toNat % 32)) (fun a b => a >>> (b.toNat % 64)))) ∧
   RunsA .aluSra (fun o =>
     setAB o (byWidth o.q (fun a b => a.sshiftRight (b.toNat % 32)) (fun a b => a.sshiftRight (b.toNat % 64))))) ∧
  let wide (o : OpX) (g32 : W32 → W32 → W32) (g64 : Word → Word → Word) (r : RFile) : RFile :=
    setS r o.o.d.toNat (byWidth o.o.q g32 g64 (getS r o.o.a.toNat) (o.imm.signExtend 64))
  let shift (o : OpX) (g32 : W32 → Nat → W32) (g64 : Word → Nat → Word) (r : RFile) : RFile :=
    setS r o.o.d.toNat
      (byWidth o.o.q (fun a _ => g32 a (o.imm.toNat % 32)) (fun a _ => g64 a (o.imm.toNat % 64)) (getS r o.o.a.toNat) 0)
  RunsI .alui (fun o r => setS r o.d.toNat (getS r o.a.toNat + o.imm.signExtend 64)) ∧
  RunsX .moviLo (fun o r => setS r o.o.d.toNat (o.imm.signExtend 64)) ∧
  RunsX .moviHi (fun o r => setS r o.o.d.toNat (o.imm ++ (getS r o.o.d.toNat).setWidth 32)) ∧
  RunsX .moviZ (fun o r => setS r o.o.d.toNat (o.imm.setWidth 64)) ∧
  RunsX .alulAdd (fun o => wide o (· + ·) (· + ·)) ∧
  RunsX .alulAnd (fun o => wide o (· &&& ·) (· &&& ·)) ∧
  RunsX .alulOr (fun o => wide o (· ||| ·) (· ||| ·)) ∧
  RunsX .alulXor (fun o => wide o (· ^^^ ·) (· ^^^ ·)) ∧
  RunsX .alulShl (fun o => shift o (· <<< ·) (· <<< ·)) ∧
  RunsX .alulShr (fun o => shift o (· >>> ·) (· >>> ·)) ∧
  RunsX .alulSra (fun o => shift o (·.sshiftRight ·) (·.sshiftRight ·))

/-- MULDIV computes products, quotients and remainders; a division by zero sets DZ and gives the results of R124. BITS
computes counts, reversals, fields and rotations (R125). MINMAX picks the lesser or greater source, and clamps |A|, A +
B and A − B to the signed range with SAT (R126). -/
def Obligations.IntegerWordsCompute : Prop :=
  (let div (o : OpA) (g32 : W32 → W32 → W32) (g64 : Word → Word → Word) : RFile → RFile :=
     setABFlag o (byWidth o.q g32 g64) fDZ (fun _ b => if o.q = 1 then b.setWidth 32 = 0#32 else b = 0)
   RunsA .muldivMul (fun o => setAB o (byWidth o.q (· * ·) (· * ·))) ∧
   RunsA .muldivMulh (fun o => setAB o (byWidth o.q (fun a b => BitVec.ofInt 32 (a.toInt * b.toInt / 2 ^ 32))
     (fun a b => BitVec.ofInt 64 (a.toInt * b.toInt / 2 ^ 64)))) ∧
   RunsA .muldivMulhu (fun o => setAB o (byWidth o.q (fun a b => BitVec.ofNat 32 (a.toNat * b.toNat / 2 ^ 32))
     (fun a b => BitVec.ofNat 64 (a.toNat * b.toNat / 2 ^ 64)))) ∧
   RunsA .muldivDiv (fun o => div o (fun a b => if b = 0 then -1 else BitVec.ofInt 32 (a.toInt.tdiv b.toInt))
     (fun a b => if b = 0 then -1 else BitVec.ofInt 64 (a.toInt.tdiv b.toInt))) ∧
   RunsA .muldivDivu (fun o => div o (fun a b => if b = 0 then -1 else a / b) (fun a b => if b = 0 then -1 else a / b)) ∧
   RunsA .muldivRem (fun o => div o (fun a b => if b = 0 then a else BitVec.ofInt 32 (a.toInt.tmod b.toInt))
     (fun a b => if b = 0 then a else BitVec.ofInt 64 (a.toInt.tmod b.toInt))) ∧
   RunsA .muldivRemu (fun o => div o (fun a b => if b = 0 then a else a % b) (fun a b => if b = 0 then a else a % b))) ∧
  (let count (o : OpA) (g : (n : Nat) → BitVec n → Nat) : RFile → RFile :=
     setAB o fun a _ => BitVec.ofNat 64 (if o.q = 1 then g 32 (a.setWidth 32) else g 64 a)
   let field (a b : Word) : Nat × Nat :=
     let pos := b.toNat % 64
     let len := min (b.toNat / 2 ^ 8 % 2 ^ 7) 64
     let w := min (pos + len) 64 - pos
     (a.toNat / 2 ^ pos % 2 ^ w, w)
   RunsA .bitsClz (fun o => count o fun n a => if a.toNat = 0 then n else n - 1 - Nat.log2 a.toNat) ∧
   RunsA .bitsCtz (fun o => count o fun n a => ((List.range n).find? fun j => a.getLsbD j).getD n) ∧
   RunsA .bitsPopc (fun o => count o fun n a => (List.range n).countP fun j => a.getLsbD j) ∧
   RunsA .bitsBrev (fun o => setAB o (byWidth o.q (fun a _ => a.reverse) (fun a _ => a.reverse))) ∧
   RunsA .bitsBswap (fun o => setAB o (byWidth o.q
     (fun a _ => BitVec.ofNat 32 (ofBytes (toBytes 4 a.toNat).reverse))
     (fun a _ => BitVec.ofNat 64 (ofBytes (toBytes 8 a.toNat).reverse)))) ∧
   RunsA .bitsExtu (fun o => setAB o fun a b => BitVec.ofNat 64 (field a b).1) ∧
   RunsA .bitsExts (fun o => setAB o fun a b =>
     if (field a b).2 = 0 then 0 else BitVec.ofInt 64 (Int.bmod (field a b).1 (2 ^ (field a b).2))) ∧
   RunsA .bitsRotr (fun o => setAB o (byWidth o.q (fun a b => a.rotateRight (b.toNat % 32))
     (fun a b => a.rotateRight (b.toNat % 64))))) ∧
  let clamp (n : Nat) (i : Int) : Int := max (-2 ^ (n - 1)) (min (2 ^ (n - 1) - 1) i)
  let sat (o : OpA) (g : Int → Int → Int) : RFile → RFile :=
    setABFlag o (byWidth o.q (fun a b => BitVec.ofInt 32 (clamp 32 (g a.toInt b.toInt)))
      (fun a b => BitVec.ofInt 64 (clamp 64 (g a.toInt b.toInt)))) fSAT
      (fun a b => if o.q = 1
        then clamp 32 (g (a.setWidth 32).toInt (b.setWidth 32).toInt) ≠ g (a.setWidth 32).toInt (b.setWidth 32).toInt
        else clamp 64 (g a.toInt b.toInt) ≠ g a.toInt b.toInt)
  RunsA .minmaxMin (fun o => setAB o (byWidth o.q (fun a b => if a.toInt < b.toInt then a else b)
    (fun a b => if a.toInt < b.toInt then a else b))) ∧
  RunsA .minmaxMax (fun o => setAB o (byWidth o.q (fun a b => if a.toInt < b.toInt then b else a)
    (fun a b => if a.toInt < b.toInt then b else a))) ∧
  RunsA .minmaxMinu (fun o => setAB o (byWidth o.q (fun a b => if a < b then a else b) (fun a b => if a < b then a else b))) ∧
  RunsA .minmaxMaxu (fun o => setAB o (byWidth o.q (fun a b => if a < b then b else a) (fun a b => if a < b then b else a))) ∧
  RunsA .minmaxAbs (fun o => sat o fun a _ => a.natAbs) ∧
  RunsA .minmaxAdds (fun o => sat o (· + ·)) ∧
  RunsA .minmaxSubs (fun o => sat o (· - ·))

/-- CMP and CMPI write a predicate from a condition, all ones or all zeros, and gp 1 or 0 with k = 1 (R127 to R129).
PLOG works bitwise within one predicate file, and moves between it and the scalar file (R130). -/
def Obligations.PredicatesCompute : Prop :=
  (let cond (o : OpA) (g : (n : Nat) → BitVec n → BitVec n → Bool) : RFile → RFile :=
     setIf o fun a b => if o.q = 1 then g 32 (a.setWidth 32) (b.setWidth 32) else g 64 a b
   let condI (o : OpI) (g : Word → Word → Bool) (r : RFile) : RFile :=
     setP r o.d.toNat (if g (getS r o.a.toNat) (o.imm.signExtend 64) then 0xFFFF else 0)
   RunsA .cmpEq (fun o => cond o fun _ a b => a == b) ∧
   RunsA .cmpNe (fun o => cond o fun _ a b => a != b) ∧
   RunsA .cmpLt (fun o => cond o fun _ a b => decide (a.toInt < b.toInt)) ∧
   RunsA .cmpGe (fun o => cond o fun _ a b => decide (b.toInt ≤ a.toInt)) ∧
   RunsA .cmpLtu (fun o => cond o fun _ a b => decide (a.toNat < b.toNat)) ∧
   RunsA .cmpGeu (fun o => cond o fun _ a b => decide (b.toNat ≤ a.toNat)) ∧
   RunsA .cmpTst (fun o => cond o fun _ a b => a &&& b != 0) ∧
   RunsI .cmpiEq (fun o => condI o (· == ·)) ∧
   RunsI .cmpiNe (fun o => condI o (· != ·)) ∧
   RunsI .cmpiLt (fun o => condI o fun a c => decide (a.toInt < c.toInt)) ∧
   RunsI .cmpiLtu (fun o => condI o fun a c => decide (a.toNat < c.toNat))) ∧
  let logic (o : OpA) (g : BitVec 16 → BitVec 16 → BitVec 16) (r : RFile) : RFile :=
    setP r o.d.toNat (g (getP r o.a.toNat) (getP r o.b.toNat))
  RunsA .plogAnd (fun o => logic o (· &&& ·)) ∧
  RunsA .plogOr (fun o => logic o (· ||| ·)) ∧
  RunsA .plogXor (fun o => logic o (· ^^^ ·)) ∧
  RunsA .plogAndn (fun o => logic o fun a b => a &&& ~~~b) ∧
  RunsA .plogNot (fun o => logic o fun a _ => ~~~a) ∧
  RunsA .plogSetx (fun o r =>
    if r.uni then setP r o.d.toNat (if getS r o.a.toNat ≠ 0 then 0xFFFF else 0)
    else setP r o.d.toNat ((getS r o.a.toNat).setWidth 16)) ∧
  RunsA .plogGetx (fun o r =>
    if r.uni then setS r o.d.toNat (if getGp r.u o.a.toNat then 1 else 0)
    else setS r o.d.toNat ((getPr r.core o.a.toNat).setWidth 64))

/-- GMOV moves values between the active cores, in ascending order, and the gang's uniform file, and `agree` traps AGREE
where two active cores differ (R131); ID writes an identity value: a level index or count, the core, its place in the
gang, the gang's width, the cluster, the package (R118, R132). Of the model, not of the spec: that the index of a level below
the one at which the actor is bound reads 0 (log 113, DESIGN CHOICE), and that the trap of `agree` names the lowest active core
(log 131, DESIGN CHOICE). Of the model: log 113, 131. -/
def Obligations.GangAndIdentityMove : Prop :=
  (let id (i : OpA → Instr) (v : OpA → State → Firing → Core → Nat) : Prop :=
     RunsIn i (fun o => o.k == 1) (fun o => o.pr) 4 fun o s f r => setS r o.d.toNat (BitVec.ofNat 64 (v o s f r.core))
   id .idLvl (fun o s f _ => ((instOf s f.inst).bind fun x => x.path[o.q.toNat]?).getD 0) ∧
   id .idCnt (fun o s f _ => ((launchOf s f.launch).bind fun l => l.counts[o.q.toNat]?).getD 0) ∧
   id .idCore (fun _ _ _ c => c.idx) ∧
   id .idGpos (fun _ _ f c => c.idx - f.lead) ∧
   id .idGwid (fun _ _ f _ => f.cores.length) ∧
   id .idClus (fun _ _ f _ => f.clus) ∧
   id .idPkg (fun _ s _ _ => s.cfg.pkgid.toNat)) ∧
  ∀ s f units (o : OpA),
    let act := activeCores units o.pr
    let u := uniformOf f units
    let ends (i : OpA → Instr) (f' : Firing) : Prop :=
      Issues s (siteOf (i o)) f units → exec (i o) s = .next (afterWord s f f' units 4)
    let toG (w : Word) : Firing := putUniform f units (setG u o.d.toNat w)
    let toGp (b : Bool) : Firing := putUniform f units (setGp u o.d.toNat b)
    let bit (c : Core) : Bool := (getPr c o.a.toNat).getLsbD 0
    ends .gmovGet (match act with
      | [] => f
      | c :: _ => toG (getX c o.a.toNat)) ∧
    ends .gmovPut (putCores f (act.map fun c => setX c o.d.toNat (getG u o.a.toNat))) ∧
    ends .gmovAny (toGp (act.any bit)) ∧
    ends .gmovAll (toGp (act.all bit)) ∧
    ends .gmovCount (toG (BitVec.ofNat 64 (act.countP bit))) ∧
    (act = [] → ends .gmovAgree f) ∧
    ∀ c rest, act = c :: rest →
      ((∀ k ∈ rest, getX k o.a.toNat = getX c o.a.toNat) → ends .gmovAgree (toG (getX c o.a.toNat))) ∧
      ((∃ k ∈ rest, getX k o.a.toNat ≠ getX c o.a.toNat) → Issues s (siteOf (.gmovAgree o)) f units →
        exec (.gmovAgree o) s = .next (afterTrap s f { core := c.idx, cause := 0x10 } (siteOf (.gmovAgree o))))

/-! ### Control transfer, ends, regions and gangs -/

/-- BR goes to PC + 4 × disp where its predicate, negated with n, holds on the acting cores or in the uniform file, goes
on where it does not, and traps DIVERGE where cores of a fused gang disagree (R69, R113, R133). JAL writes PC + 4 into
x_d of every acting core and goes to its target; JR goes to the register read before its link is written, where its
predicate holds, goes on where it does not, and traps DIVERGE where cores disagree (R113, R134, R135). -/
def Obligations.ControlTransfers : Prop :=
  (∀ s f units (o : OpB), Issues s (siteOf (.br o)) f units →
     let p := o.lo.toNat % 8
     let n := o.lo.getLsbD 3
     let votes : List Bool := if o.lo.getLsbD 4 then [getGp (uniformOf f units) p != n]
       else units.map fun c => (getPr c p).getLsbD 0 != n
     (Unanimous votes true → exec (.br o) s = .next (afterJump s f f units (pcOf units + (o.disp.signExtend 64 <<< 2)))) ∧
     (Unanimous votes false → exec (.br o) s = .next (afterWord s f f units 4)) ∧
     (Divided votes → exec (.br o) s = .next (afterTrap s f { core := lowest units, cause := 0x0E } (siteOf (.br o))))) ∧
  (∀ s f units (o : OpB), Issues s (siteOf (.jal o)) f units →
    exec (.jal o) s = .next (afterJump s f (putCores f (units.map fun c => setX c o.lo.toNat (c.pc + 4))) units
      (pcOf units + (o.disp.signExtend 64 <<< 2)))) ∧
  ∀ s f units (o : OpA), Issues s (siteOf (.jr o)) f units →
    let link := pcOf units + 4
    let u := uniformOf f units
    let votes : List (Option Word) := units.map fun c =>
      if (getPr c o.pr.toNat).getLsbD 0 then some (getX c o.a.toNat) else none
    (o.k = 1 → getGp u o.pr.toNat = true → exec (.jr o) s =
      .next (afterJump s f (putUniform f units (setG u o.d.toNat link)) units (getG u o.a.toNat))) ∧
    (o.k = 1 → getGp u o.pr.toNat = false → exec (.jr o) s = .next (afterWord s f f units 4)) ∧
    (∀ target, o.k = 0 → Unanimous votes (some target) → exec (.jr o) s =
      .next (afterJump s f (putCores f (units.map fun c => setX c o.d.toNat link)) units target)) ∧
    (o.k = 0 → Unanimous votes none → exec (.jr o) s = .next (afterWord s f f units 4)) ∧
    (o.k = 0 → Divided votes →
      exec (.jr o) s = .next (afterTrap s f { core := lowest units, cause := 0x0E } (siteOf (.jr o))))

/-- END falls through where its predicate is false, traps GANG while split and DIVERGE where cores disagree; else
`commit` waits for its effect, `retry` aborts the firing so that the instance fires again, and `fail` aborts it, fails
the instance and with it the launch, and sends a record (R27, R113, R136). Of the model: log 22. -/
def Obligations.EndsEnd : Prop :=
  ∀ s f units (o : OpA),
    let votes : List Bool := if o.k = 1 then [getGp (uniformOf f units) o.pr.toNat]
      else units.map fun c => (getPr c o.pr.toNat).getLsbD 0
    let s' := putFiring s f
    let ends (i : OpA → Instr) (t : State) : Prop := Issues s (siteOf (i o)) f units →
      (Unanimous votes true → f.split = false → exec (i o) s = .next t) ∧
      (Unanimous votes true → f.split = true →
        exec (i o) s = .next (afterTrap s f { core := lowest units, cause := 0x0F } (siteOf (i o)))) ∧
      (Unanimous votes false → exec (i o) s = .next (afterWord s f f units 4)) ∧
      (Divided votes → exec (i o) s = .next (afterTrap s f { core := lowest units, cause := 0x0E } (siteOf (i o))))
    ends .endCommit (putFiring s' { f with ending := true }) ∧
    ends .endRetry (retryInst (abortFiring s' f (endAccs f.id)) f.inst f.clus) ∧
    ends .endFail (settle (queueRecord (failInst (abortFiring (ackNotices s' f) f (endAccs f.id)) f.inst f.launch)
      (failRecord (abortFiring (ackNotices s' f) f (endAccs f.id)) f)) f.clus)

/-- REGION sets and clears rgentry and rgmask; GANG splits with copies of the uniform file, fuses where every core has come
with one target, and aligns; `split` while split, `fuse` while fused and targets that differ trap GANG, the last at the
leader's `gang.fuse` (R114 to R116, R137, R138). Of the model: log 130, 132. -/
def Obligations.RegionsAndGangs : Prop :=
  RunsAs .regionClose (fun _ => false) (fun o => o.pr) 4
    (fun _ r => { r with core := { r.core with rgentry := 0, rgmask := 0, capture := none } }) ∧
  (∀ s f units (o : OpA), Issues s (siteOf (.regionOpen o)) f units → anyPending (putFiring s f) f units = false →
    activeCores units o.pr ≠ [] →
    let go (c : Core) : Core :=
      let mask := getX c o.a.toNat
      { c with rgentry := c.pc + 4, rgmask := mask,
               capture := some (capture c (uniformOf f units) (c.pc + 4) mask, c.nflags) }
    exec (.regionOpen o) s = .next (afterWord s f
      { putCores f ((activeCores units o.pr).map go) with mark := (f.staged.length, f.popped) } units 4)) ∧
  ∀ s f units (o : OpB),
    let trap (i : OpB → Instr) : Prop :=
      exec (i o) s = .next (afterTrap s f { core := lowest units, cause := 0x0F } (siteOf (i o)))
    (Issues s (siteOf (.gangAlign o)) f units → exec (.gangAlign o) s = .next (afterWord s f f units 4)) ∧
    (Issues s (siteOf (.gangSplit o)) f units → f.split = true → trap .gangSplit) ∧
    (Issues s (siteOf (.gangSplit o)) f units → f.split = false → anyPending (putFiring s f) f units = false →
      let f' := advance f units 4
      exec (.gangSplit o) s = .next (putFiring (putFiring s f)
        { f' with split := true, cores := f'.cores.map fun c => { c with u := f.u } })) ∧
    (Issues s (siteOf (.gangFuse o)) f units → f.split = false → trap .gangFuse) ∧
    (Issues s (siteOf (.gangFuse o)) f units → f.split = true → anyPending (putFiring s f) f units = false →
      let w0 := (siteOf (.gangFuse o)).words.head?.getD 0
      let f' := putCores f (units.map fun c => { c with busy := .fuse (c.pc + (o.disp.signExtend 64 <<< 2)) w0 })
      let lead := (f'.cores.find? fun c => c.idx == f.lead).getD {}
      (∀ target, f'.cores ≠ [] → (∀ c ∈ f'.cores, ∃ w, c.busy = .fuse target w) →
        exec (.gangFuse o) s = .next (putFiring (putFiring s f)
          { f' with split := false, u := lead.u, cores := f'.cores.map fun c =>
              { c with busy := .none, pc := target, u := {} } })) ∧
      ((∃ c ∈ f'.cores, ∀ target w, c.busy ≠ .fuse target w) →
        exec (.gangFuse o) s = .next (putFiring (putFiring s f) f')) ∧
      ((∀ c ∈ f'.cores, ∃ target w, c.busy = .fuse target w) →
        (∃ c ∈ f'.cores, ∃ d ∈ f'.cores, ∃ a b v w, c.busy = .fuse a v ∧ d.busy = .fuse b w ∧ a ≠ b) →
        ∀ target w, lead.busy = .fuse target w →
          exec (.gangFuse o) s = .next (trapFiring (putFiring (putFiring s f) f') f' { core := f.lead, cause := 0x0F } w 0)))

/-- WAIT goes on where the counters that q selects are at most the threshold on every core it governs (R200); `sys.r`
and `sys.w` read and write the system registers, each with the value that R118 and R276 give it, and trap PRIV on the supervisor
block outside the handler; a write of `trtail` below its value or above `trhead` is ignored (R118, R276, R285); TRAP ends the
firing with cause USER, x_a and the code (R284). Of the model: log 113. -/
def Obligations.WaitsAndSystem : Prop :=
  (∀ s f units (o : OpA), Issues s (siteOf (.waitLe o)) f units →
    (∀ c ∈ activeCores units o.pr, waitTest (putFiring s f) f c o.q.toNat o.b.toNat = true) →
    exec (.waitLe o) s = .next (afterWord s f (fileResult f units false o.pr fun r => r) units 4)) ∧
  (∀ s f units (o : OpA), Issues s (siteOf (.waitLex o)) f units →
    (∀ c ∈ activeCores units o.pr, waitTest (putFiring s f) f c o.q.toNat (getX c o.b.toNat).toNat = true) →
    exec (.waitLex o) s = .next (afterWord s f (fileResult f units false o.pr fun r => r) units 4)) ∧
  (∀ s f units (o : OpI), Issues s (siteOf (.trap o)) f units → ∀ c rest, activeCores units o.pr = c :: rest →
    exec (.trap o) s = .next (afterTrap s f { core := c.idx, cause := 0x17, val := getX c o.a.toNat, info := o.imm.setWidth 64 }
      (siteOf (.trap o)))) ∧
  (∀ s f units (o : OpI), Issues s (siteOf (.sysR o)) f units →
    (0x100 ≤ o.imm.toNat → isHandler (putFiring s f) f = false →
      exec (.sysR o) s = .next (afterTrap s f { core := lowest units, cause := 0x03 } (siteOf (.sysR o)))) ∧
    ((o.imm.toNat < 0x100 ∨ isHandler (putFiring s f) f = true) → exec (.sysR o) s = .next (afterWord s f
      (fileResult f units false o.pr fun r => setS r o.d.toNat (sysRead (putFiring s f) f r.core o.imm.toNat)) units 4))) ∧
  (∀ s f c,
    let word (n : Nat) : Word := BitVec.ofNat 64 n
    let t := tenantOf s f.tenant
    let is (n : Nat) (w : Word) : Prop := sysRead s f c n = w
    (∀ n, n < 8 → is n (word (((instOf s f.inst).bind fun x => x.path[n]?).getD 0)) ∧
      is (8 + n) (word (((launchOf s f.launch).bind fun l => l.counts[n]?).getD 0))) ∧
    is 0x010 (word c.idx) ∧ is 0x011 (word (c.idx - f.lead)) ∧ is 0x012 (word f.cores.length) ∧ is 0x013 (word f.clus) ∧
    is 0x014 (word s.cfg.pkgid.toNat) ∧ is 0x015 (word f.tenant) ∧ is 0x040 (c.nflags.setWidth 64) ∧
    is 0x050 (word (ocld s f c)) ∧ is 0x051 (word (ocst s f c)) ∧ is 0x052 (word (occp s f c)) ∧ is 0x053 (word (octk s f c)) ∧
    is 0x060 (word f.wdcount) ∧ is 0x061 (word f.wdlimit) ∧ is 0x062 (if f.split then 1 else 0) ∧ is 0x063 (word f.actor) ∧
    is 0x064 c.rgentry ∧ is 0x065 c.rgmask ∧ is 0x080 (if t.preempt.contains f.clus then 1 else 0) ∧
    is 0x081 (word f.attempt) ∧ is 0x100 t.trbase ∧ is 0x101 (word (t.trlog.toNat % 32)) ∧ is 0x102 t.trhead ∧
    is 0x103 t.trtail ∧ is 0x104 0 ∧ is 0x105 (t.trlost.setWidth 64) ∧
    is 0x106 (word (s.insts.countP fun x => x.tenant == f.tenant && match x.st with
      | .held _ => true
      | _ => false))) ∧
  ∀ s f units (o : OpI), Issues s (siteOf (.sysW o)) f units →
    let act := activeCores units o.pr
    let consume (s : State) (c : Core) : State :=
      let t := tenantOf s f.tenant
      let w := getX c o.a.toNat
      if t.trtail.toNat ≤ w.toNat ∧ w.toNat ≤ t.trhead.toNat then putTenant s f.tenant { t with trtail := w } else s
    (o.imm.toNat = 0x103 → isHandler (putFiring s f) f = true → exec (.sysW o) s =
      .next (putFiring (act.foldl consume (putFiring s f)) (advance f units 4))) ∧
    (0x100 ≤ o.imm.toNat → isHandler (putFiring s f) f = false →
      exec (.sysW o) s = .next (afterTrap s f { core := lowest units, cause := 0x03 } (siteOf (.sysW o)))) ∧
    (o.imm.toNat = 0x040 → exec (.sysW o) s = .next (afterWord s f
      (putCores f (act.map fun c => { c with nflags := (getX c o.a.toNat).setWidth 7 })) units 4)) ∧
    (o.imm.toNat = 0x104 → act ≠ [] → isHandler (putFiring s f) f = true → exec (.sysW o) s =
      .next (putFiring (putFiring s f) (putCores f (act.map fun c => { c with busy := .resolve (getX c o.a.toNat) }))))

/-! ### Vector instructions -/

/-- VARITH adds, subtracts, multiplies, picks the lesser or greater and takes |A| element by element: floating results
are rounded once to nearest even, integer ones wrap, `adds`, `subs` and `abs` clamp with SAT; VFMA rounds ±A × B ± D
once (R147, R148). -/
def Obligations.VectorArithmeticComputes : Prop :=
  let clamped (o : OpA) (i : Int) : Nat × FlagBits :=
    let hi : Int := 2 ^ (qWidth o.q - 1) - 1
    let c := max (-hi - 1) (min hi i)
    ((c % 2 ^ qWidth o.q).toNat, if c = i then 0 else fSAT)
  let sgn (o : OpA) (a : Nat) : Int := signedOf (qWidth o.q) a
  let pick (big : Bool) (o : OpA) (a b : Nat) : Nat × FlagBits :=
    if qFloat o.q then floatPick (qFmt o.q) big a b
    else (if (if big then sgn o b < sgn o a else sgn o a < sgn o b) then a else b, 0)
  let fused (negP negD : Bool) (o : OpA) (a b d : Nat) : Nat × FlagBits :=
    let x := qFmt o.q
    let flip (n : Bool) (v : Val) : Val := if n then valNegate v else v
    if qFloat o.q then
      rne x (valAdd (flip negP (valMul (decodeFmt x a) (decodeFmt x b))) (flip negD (decodeFmt x d)))
    else
      let p : Int := if negP then -(sgn o a * sgn o b) else sgn o a * sgn o b
      (((p + if negD then -sgn o d else sgn o d) % 2 ^ qWidth o.q).toNat, 0)
  RunsV2 .varithAdd (fun o => byKind o valAdd fun _ a b => a + b) ∧
  RunsV2 .varithSub (fun o => byKind o valSub fun _ a b => a - b) ∧
  RunsV2 .varithMul (fun o => byKind o valMul fun _ a b => a * b) ∧
  RunsV2 .varithMin (pick false) ∧
  RunsV2 .varithMax (pick true) ∧
  RunsV2 .varithAdds (fun o a b => if qFloat o.q then (0, 0) else clamped o (sgn o a + sgn o b)) ∧
  RunsV2 .varithSubs (fun o a b => if qFloat o.q then (0, 0) else clamped o (sgn o a - sgn o b)) ∧
  RunsV1 .varithAbs (fun o a =>
    if qFloat o.q then arithAbs o.q a else clamped o (sgn o a).natAbs) ∧
  RunsV3 .vfmaFma (fused false false) ∧
  RunsV3 .vfmaFms (fused false true) ∧
  RunsV3 .vfmaFnma (fused true false) ∧
  RunsV3 .vfmaFnms (fused true true)

/-- VDOT adds to each active 32-bit lane of D the exact sum of the lane's products, rounding once to FP32, or clamping
to INT32 with IOV; VRED writes the whole of d from the active elements: the balanced tree, the bitwise fold, the wide
sum, and the lowest index of the largest element (R53, R149, R150). -/
def Obligations.DotsAndReductionsCompute : Prop :=
  let products (fa fb : Fmt) (o : OpA) (v : VIn) (e : Nat) : List Val :=
    let n := fmtWidth fa
    (rangeFrom (32 / n * e) (32 / n)).map fun i =>
      valMul (decodeFmt fa (elemAt n (srcV v o.a) i)) (decodeFmt fb (elemAt n (srcV v o.b) i))
  let dot (i : OpA → Instr) (fa fb : Fmt) (lane : List Val → Nat → Nat × FlagBits) : Prop :=
    RunsV i (fun o => [o.a, o.b, o.d]) (fun o => some o.d) (fun _ _ => true) fun o v =>
      elementOut v (maskOf v o.pr) 32 fun e => lane (products fa fb o v e) (elemAt 32 (srcV v o.d) e)
  let whole (ps : List Val) (d : Nat) : Nat × FlagBits :=
    let x := (ps.map valToInt).sum + signedOf 32 d
    let c := max (-2 ^ 31) (min (2 ^ 31 - 1) x)
    ((c % 2 ^ 32).toNat, if c = x then 0 else fIOV)
  let red (i : OpA → Instr) (g : OpA → Reduction) : Prop :=
    RunsVW i (fun o => [o.a]) fun o v => g o (maskOf v o.pr) (srcV v o.a)
  let fold (g : Nat → Nat → Nat) (id : Nat → Nat) (o : OpA) : Reduction := fun m a =>
    let w := qWidth o.q
    (BitVec.ofNat 128 ((((List.range (128 / w)).filter (active m w)).map (elemAt w a)).foldl g (id w)), 0)
  dot .vdotBf16 .bf16 .bf16 dotFloat ∧ dot .vdotFp16 .fp16 .fp16 dotFloat ∧
  dot .vdotE4m3 .e4m3 .e4m3 dotFloat ∧ dot .vdotE5m2 .e5m2 .e5m2 dotFloat ∧
  dot .vdotI8 .i8 .i8 whole ∧ dot .vdotU8 .u8 .u8 whole ∧ dot .vdotI8u8 .i8 .u8 whole ∧
  red .vredAdd (fun o => redTree o.q .add) ∧
  red .vredMin (fun o => redTree o.q .min) ∧
  red .vredMax (fun o => redTree o.q .max) ∧
  red .vredAddw (fun o => redWide o.q) ∧
  red .vredAnd (fold (· &&& ·) fun w => 2 ^ w - 1) ∧
  red .vredOr (fold (· ||| ·) fun _ => 0) ∧
  red .vredXor (fold (· ^^^ ·) fun _ => 0) ∧
  red .vredImax (fun o => redImax o.q)

/-- VLOGIC works on the bits of each active element; VCMP writes predicate d with the mask bits of the active elements
whose condition holds, NaN comparing unordered (R151, R152). -/
def Obligations.VectorLogicAndComparesDecide : Prop :=
  let bits (g : Nat → Nat → Nat → Nat) (o : OpA) (a b : Nat) : Nat × FlagBits := (g (qWidth o.q) a b, 0)
  let nan (o : OpA) (a : Nat) : Bool := valIsNan (decodeFmt (qFmt o.q) a)
  let signals (o : OpA) (a : Nat) : Bool := match decodeFmt (qFmt o.q) a with
    | .nan nv => nv
    | _ => false
  let cmp (o : OpA) (a b : Nat) : Int := valCmp (decodeFmt (qFmt o.q) a) (decodeFmt (qFmt o.q) b)
  let quiet (o : OpA) (a b : Nat) : FlagBits := if signals o a || signals o b then fNV else 0
  let ordered (o : OpA) (a b : Nat) : Bool := !(nan o a || nan o b)
  let cond (i : OpA → Instr) (fl : OpA → Nat → Nat → Bool × FlagBits) (int : OpA → Nat → Nat → Bool) : Prop :=
    RunsV i (fun o => [o.a, o.b]) (fun _ => none) (fun _ _ => true) fun o v =>
      let w := qWidth o.q
      let m := maskOf v o.pr
      let at' (e : Nat) : Bool × FlagBits := if active m w e
        then (if qFloat o.q then fl o (elA o v e) (elB o v e) else (int o (elA o v e) (elB o v e), 0)) else (false, 0)
      { core := setPr v.core o.d.toNat (BitVec.ofNat 16 (packNat 1 ((List.range 16).map fun j =>
          if (((List.range (128 / w)).map at')[8 * j / w]?.getD (false, 0)).1 then 1 else 0))),
        fl := ((List.range (128 / w)).map at').foldl (fun f r => f ||| r.2) 0 }
  let sgn (o : OpA) (a : Nat) : Int := signedOf (qWidth o.q) a
  let loud (o : OpA) (a b : Nat) : FlagBits := if ordered o a b then 0 else fNV
  RunsV2 .vlogicAnd (bits fun _ a b => a &&& b) ∧
  RunsV2 .vlogicOr (bits fun _ a b => a ||| b) ∧
  RunsV2 .vlogicXor (bits fun _ a b => a ^^^ b) ∧
  RunsV2 .vlogicAndn (bits fun w a b => a &&& (2 ^ w - 1 - b)) ∧
  RunsV1 .vlogicNot (fun o a => (2 ^ qWidth o.q - 1 - a, 0)) ∧
  RunsV2 .vlogicShl (bits fun w a b => a * 2 ^ (b % w) % 2 ^ w) ∧
  RunsV2 .vlogicShr (bits fun w a b => a / 2 ^ (b % w)) ∧
  RunsV2 .vlogicSra (bits fun w a b => ((signedOf w a / 2 ^ (b % w)) % 2 ^ w).toNat) ∧
  cond .vcmpEq (fun o a b => (ordered o a b && cmp o a b == 0, quiet o a b)) (fun _ a b => a == b) ∧
  cond .vcmpNe (fun o a b => (!(ordered o a b && cmp o a b == 0), quiet o a b)) (fun _ a b => a != b) ∧
  cond .vcmpLt (fun o a b => (ordered o a b && decide (cmp o a b < 0), loud o a b)) (fun o a b => sgn o a < sgn o b) ∧
  cond .vcmpLe (fun o a b => (ordered o a b && decide (cmp o a b ≤ 0), loud o a b)) (fun o a b => sgn o a ≤ sgn o b) ∧
  cond .vcmpLtu (fun _ _ _ => (false, 0)) (fun _ a b => a < b) ∧
  cond .vcmpLeu (fun _ _ _ => (false, 0)) (fun _ a b => a ≤ b) ∧
  cond .vcmpUn (fun o a b => (!ordered o a b, quiet o a b)) (fun _ _ _ => false)

/-- VSEL selects bytes, zeroes, compresses and expands; VMOV copies active elements, broadcasts x_a, and inserts and
extracts the element that x_b numbers; VPERM rearranges (R153, R160, R161). -/
def Obligations.VectorMovesRearrange : Prop :=
  let list (o : OpA) (v : VIn) : List Nat := (List.range (128 / qWidth o.q)).map (elA o v)
  let on (o : OpA) (v : VIn) : List Nat := (List.range (128 / qWidth o.q)).filter (active (maskOf v o.pr) (qWidth o.q))
  let n (o : OpA) : Nat := 128 / qWidth o.q
  let xb (o : OpA) (v : VIn) : Nat := (getX v.core o.b.toNat).toNat % n o
  let xa (o : OpA) (v : VIn) : Nat := (getX v.core o.a.toNat).toNat % 2 ^ qWidth o.q
  let perm (i : OpA → Instr) (srcs : OpA → List (BitVec 5)) (g : OpA → VIn → Nat → Nat) : Prop :=
    RunsV i srcs (fun o => some o.d) (fun _ _ => true) fun o => byElement o fun v e => (g o v e, 0)
  RunsVW .vselSel (fun o => [o.a, o.b]) (fun o v => (selBytes (maskOf v o.pr) (srcV v o.a) (srcV v o.b), 0)) ∧
  RunsVW .vselZero (fun o => [o.a]) (fun o v => (selBytes (maskOf v o.pr) (srcV v o.a) 0, 0)) ∧
  RunsVW .vselCmpr (fun o => [o.a]) (fun o v => (packElems (qWidth o.q) ((on o v).map (elA o v)), 0)) ∧
  RunsVW .vselExpd (fun o => [o.a]) (fun o v =>
    (packElems (qWidth o.q) (expand (maskOf v o.pr) (qWidth o.q) 0 (list o v) (n o)), 0)) ∧
  RunsV1 .vmovMov (fun _ a => (a, 0)) ∧
  perm .vmovBcast (fun _ => []) (fun o v _ => xa o v) ∧
  RunsV .vmovIns (fun _ => []) (fun o => some o.d) (fun _ _ => true) (fun o v =>
    let r := byElement o (fun v e => (if e = xb o v then xa o v else 0, 0)) v
    { r with mask := r.mask &&& activeBytes (BitVec.ofNat 16 (2 ^ (qWidth o.q * xb o v / 8))) (qWidth o.q) }) ∧
  RunsV .vmovExt (fun o => [o.a]) (fun _ => none) (fun _ _ => true) (fun o v =>
    { core := setX v.core o.d.toNat (BitVec.ofNat 64 (elA o v (xb o v))) }) ∧
  perm .vpermPerm (fun o => [o.a, o.b]) (fun o v j =>
    let i := elemAt 8 (srcV v o.b) j
    if 128 ≤ i then 0 else if i % 32 < 16 then elemAt 8 (srcV v o.a) (i % 32) else elemAt 8 (srcV v o.d) (i % 32 - 16)) ∧
  perm .vpermZiplo (fun o => [o.a, o.b]) (fun o v e => if e % 2 = 0 then elA o v (e / 2) else elB o v (e / 2)) ∧
  perm .vpermZiphi (fun o => [o.a, o.b])
    (fun o v e => if e % 2 = 0 then elA o v (e / 2 + n o / 2) else elB o v (e / 2 + n o / 2)) ∧
  perm .vpermUzpe (fun o => [o.a, o.b])
    (fun o v e => if e < n o / 2 then elA o v (2 * e) else elB o v (2 * (e - n o / 2))) ∧
  perm .vpermUzpo (fun o => [o.a, o.b])
    (fun o v e => if e < n o / 2 then elA o v (2 * e + 1) else elB o v (2 * (e - n o / 2) + 1)) ∧
  perm .vpermSplat (fun o => [o.a]) (fun o v _ => elA o v (xb o v)) ∧
  perm .vpermRev (fun o => [o.a]) (fun o v e => elA o v (n o - 1 - e))

/-- VCVT converts the low elements of a to T under each rounding mode and widens exactly; VSCALE rounds one product with
its scale; VCB writes the eight weights of a codebook index (R154 to R158). -/
def Obligations.VectorConversionsRound : Prop :=
  let cvt (i : OpA → Instr) (mode : Nat) : Prop :=
    RunsV i (fun o => [o.a]) (fun o => some o.d) (fun _ _ => true) fun o v =>
      let tf := cvtFmt (o.b.toNat % 16)
      let wt := fmtWidth tf
      let n := min (128 / qWidth o.q) (128 / wt)
      let m := maskOf v o.pr
      let es := (List.range n).map fun e => if active m wt e
        then roundTo tf mode (o.b.getLsbD 4) (stoWord (stoKey v.core) e) (decodeFmt (qFmt o.q) (elA o v e)) else (0, 0)
      { core := v.core, val := packElems wt (es.map fun r => r.1),
        mask := BitVec.ofNat 16 (packNat 1 ((List.range 16).map fun j =>
          if wt * n ≤ 8 * j || active m wt (8 * j / wt) then 1 else 0)),
        fl := es.foldl (fun f r => f ||| r.2) 0 }
  let scale (i : OpA → Instr) (g : OpA → Vec → Nat → Val → Val) : Prop :=
    RunsV i (fun o => [o.a, o.b]) (fun o => some o.d) (fun _ _ => true) fun o => byElement o fun v e =>
      rne (qFmt o.q) (g o (srcV v o.b) e (decodeFmt (qFmt o.q) (elA o v e)))
  cvt .vcvtRne 0 ∧ cvt .vcvtRtz 1 ∧ cvt .vcvtRup 2 ∧ cvt .vcvtRdn 3 ∧ cvt .vcvtSto 4 ∧
  RunsV .vcvtWide (fun o => [o.a]) (fun o => some o.d) (fun _ _ => true) (fun o => byElement o fun v e =>
    rne (qFmt o.q) (decodeFmt (cvtFmt (o.b.toNat % 16)) (elemAt (fmtWidth (cvtFmt (o.b.toNat % 16))) (srcV v o.a) e))) ∧
  scale .vscaleLdexp (fun o b e x => valMul x (.num false 1 1 (signedOf (qWidth o.q) (elemAt (qWidth o.q) b e)))) ∧
  scale .vscaleMx (fun _ b _ x => valMul x (scaleE8M0 (elemAt 8 b 0))) ∧
  scale .vscaleSb4 (fun _ b _ x => valMul x (scaleE5M3 (elemAt 8 b 0))) ∧
  scale .vscaleCb (fun _ b _ x =>
    let p := valMul x (decodeFmt .e4m3 (elemAt 8 b 0))
    if valIsZero x && !valIsNan p then x else p) ∧
  RunsV .vcbDec (fun o => [o.a]) (fun o => some o.d) (fun _ _ => true) (fun o v =>
    elementOut v (maskOf v o.pr) 16 fun j =>
      rne (qFmt o.q) (cbWeight ((srcV v o.a).toNat % 2 ^ 32) ((srcV v o.a).toNat / 2 ^ 32 % 2 ^ 16) j))

/-- VSFU and VSFU2 apply their function to every active element of a; the functions have the values and flags of R57's table at
zeros, at infinities, at 1 and below 0, and answer a NaN with the canonical NaN, in each of their formats (R57, R159). Of the
model: log 6. -/
def Obligations.SpecialFunctionsApply : Prop :=
  let runs (i : OpA → Instr) (g : Sfu) : Prop := RunsV1 i fun o => sfu g (qFmt o.q)
  let table (x : Fmt) (neg inf nan one : Nat) : Prop :=
    (∀ f c nv, decodeFmt x c = .nan nv → (sfu f x c).1 = nan) ∧
    (∀ f ∈ [Sfu.log2, .rsqrt, .sqrt], sfu f x (neg + inf) = (nan, fNV) ∧
      ∀ c n d e, decodeFmt x c = .num true n d e → n ≠ 0 → sfu f x c = (nan, fNV)) ∧
    (∀ f ∈ [Sfu.log2, .sqrt, .exp2, .gelut, .gelue, .silu, .softp], sfu f x inf = (inf, 0)) ∧
    (∀ f ∈ [Sfu.sin, .cos], sfu f x inf = (nan, fNV) ∧ sfu f x (neg + inf) = (nan, fNV)) ∧
    (∀ f ∈ [Sfu.tanh, .erf], sfu f x inf = (one, 0) ∧ sfu f x (neg + inf) = (neg + one, 0)) ∧
    (∀ f ∈ [Sfu.sin, .tanh, .erf, .sqrt], sfu f x 0 = (0, 0) ∧ sfu f x neg = (neg, 0)) ∧
    (∀ f ∈ [Sfu.gelut, .gelue, .silu], sfu f x (neg + inf) = (neg, 0)) ∧
    (∀ f ∈ [Sfu.exp2, .sigm, .softp], sfu f x (neg + inf) = (0, 0)) ∧
    (∀ f ∈ [Sfu.exp2, .cos], sfu f x 0 = (one, 0) ∧ sfu f x neg = (one, 0)) ∧
    sfu .log2 x 0 = (neg + inf, fDZ) ∧ sfu .log2 x neg = (neg + inf, fDZ) ∧ sfu .log2 x one = (0, 0) ∧
    sfu .sigm x inf = (one, 0) ∧ sfu .rsqrt x inf = (0, 0) ∧ sfu .rcp x inf = (0, 0) ∧ sfu .rcp x (neg + inf) = (neg, 0) ∧
    ∀ f ∈ [Sfu.rcp, .rsqrt], sfu f x 0 = (inf, fDZ) ∧ sfu f x neg = (neg + inf, fDZ)
  (runs .vsfuExp2 .exp2 ∧ runs .vsfuLog2 .log2 ∧ runs .vsfuRcp .rcp ∧ runs .vsfuRsqrt .rsqrt ∧ runs .vsfuSqrt .sqrt ∧
    runs .vsfuSin .sin ∧ runs .vsfuCos .cos ∧ runs .vsfuTanh .tanh ∧ runs .vsfu2Sigm .sigm ∧ runs .vsfu2Gelut .gelut ∧
    runs .vsfu2Gelue .gelue ∧ runs .vsfu2Silu .silu ∧ runs .vsfu2Erf .erf ∧ runs .vsfu2Softp .softp) ∧
  table .fp32 0x80000000 0x7F800000 0x7FC00000 0x3F800000 ∧ table .bf16 0x8000 0x7F80 0x7FC0 0x3F80 ∧
  table .fp16 0x8000 0x7C00 0x7E00 0x3C00

/-- VLINK pops, peeks and skips the words of a neighbour link, sending them on with `fwd`; ID `lane` writes each
element's number, on the cores that its predicate selects (R132, R162). -/
def Obligations.NeighbourLinksMove : Prop :=
  let on (o : OpA) (v : VIn) : List (Nat × Vec) :=
    if o.q = 1 then [(if o.a = 30 then 31 else 30, srcV v o.a)] else []
  RunsV .vlinkPop (fun o => [o.a]) (fun o => some o.d) (fun _ _ => true) (fun o v =>
    { core := v.core, val := srcV v o.a, mask := maskOf v o.pr, push := on o v }) ∧
  RunsV .vlinkSkip (fun o => [o.a]) (fun _ => none) (fun _ _ => true) (fun o v => { core := v.core, push := on o v }) ∧
  RunsV .idLane (fun _ => []) (fun o => some o.d) (fun o c => (getPr c o.pr.toNat).getLsbD 0) (fun o v =>
    { core := v.core, mask := 0xFFFF,
      val := packElems (8 * 2 ^ o.q.toNat) (List.range (128 / (8 * 2 ^ o.q.toNat))) }) ∧
  ∀ s f units (o : OpA), Issues s (siteOf (.vlinkPeek o)) f units →
    let q (c : Core) : List Vec := if o.a = 30 then c.lw else c.le
    o.a = 30 ∨ o.a = 31 →
    ((∃ c ∈ units, q c = []) → exec (.vlinkPeek o) s = .next (putFiring s f)) ∧
    ((∀ c ∈ units, q c ≠ []) → o.d.toNat < 30 → exec (.vlinkPeek o) s = .next (afterWord s f
      (putCores f (units.map fun c => { c with
        v := c.v.setIfInBounds o.d.toNat (selBytes (getPr c o.pr.toNat) ((q c).headD 0) (vget c.v o.d.toNat 0)) })) units 4))

/-! ### Memory instructions -/

/-- LD and ST check A + (B << sx) + off on every selected core and issue an access of their size there: a load to x_d,
or g_d with k = 1, extended as named, or a store of the low bytes of d (R70, R192, R197). -/
def Obligations.ScalarLoadsAndStoresIssue : Prop :=
  let uni (o : OpM) : Bool := o.o.k == 1
  let ld (i : OpM → Instr) (size : Nat) (sext : Bool) : Prop :=
    RunsM i uni .scalar .rd selM (fun o f units c =>
      some (size, { kind := .load, ea := addrIndexed o (fileM o f units c), size := size, sext := sext, sets := 1,
                    dest := destM o, nu := o.nu, pol := o.pol })) fun o => issued (o.o.k == 1)
  let st (i : OpM → Instr) (size : Nat) : Prop :=
    RunsM i uni .scalar .wr selM (fun o f units c =>
      let r := fileM o f units c
      some (size, { kind := .store, ea := addrIndexed o r, size := size, sets := 2,
                    data := (getS r o.o.d.toNat).setWidth 128, bytes := BitVec.ofNat 16 (2 ^ size - 1),
                    nu := o.nu, pol := o.pol })) fun o => issued (o.o.k == 1)
  ld .ldB 1 false ∧ ld .ldH 2 false ∧ ld .ldW 4 false ∧ ld .ldD 8 false ∧
  ld .ldBs 1 true ∧ ld .ldHs 2 true ∧ ld .ldWs 4 true ∧
  st .stB 1 ∧ st .stH 2 ∧ st .stW 4 ∧ st .stD 8

/-- VLD and VST act for the cores whose mask selects a byte: 16 bytes, or one element, broadcast by a load; a load to a link
pushes a word of zeros where no element is active, and stalls while it cannot; a store from a link pops it and stalls while
it is empty (R60, R143, R198). -/
def Obligations.VectorLoadsAndStoresIssue : Prop :=
  let all : OpM → Firing → List Core → List Core := fun _ _ units => units
  let mask (o : OpM) (c : Core) : BitVec 16 := activeBytes (getPr c o.o.pr.toNat) (qWidth o.o.q)
  let addr (o : OpM) (f : Firing) (units : List Core) (c : Core) : Word := addrIndexed o (fileOf f units false c)
  let lane (a : Word) : Bool := spaceOf a == 7
  let size (o : OpM) : Nat := qWidth o.o.q / 8
  let src (o : OpM) (c : Core) : Vec :=
    if o.o.d = 30 then c.lw.headD 0 else if o.o.d = 31 then c.le.headD 0 else vget c.v o.o.d.toNat 0
  let ld (i : OpM → Instr) (bc : Bool) : Prop :=
    RunsMIf i (fun _ => false) .vec .rd all (fun o f units c =>
      let n := if bc then size o else 16
      if mask o c = 0 then none
      else some (n, { kind := .load, ea := addr o f units c, size := n, lanes := !bc && lane (addr o f units c), sets := 1,
                      dest := .vec o.o.d.toNat n bc (mask o c), nu := o.nu, pol := o.pol }))
      (fun o s f units _ => (pushIdle o s f units).isSome)
      fun o s f units => issued false s ((pushIdle o s f units).getD f) units
  let st (i : OpM → Instr) (n : OpM → Nat) (m : OpM → Core → BitVec 16) : Prop :=
    RunsMIf i (fun _ => false) .vec .wr all (fun o f units c =>
      if m o c = 0 then none
      else some (n o, { kind := .store, ea := addr o f units c, size := n o,
                        lanes := n o == 16 && lane (addr o f units c), sets := 2, data := src o c, bytes := m o c,
                        nu := o.nu, pol := o.pol }))
      (fun o _ _ units _ => units.all (popReady (o.o.d == 30) (o.o.d == 31)))
      fun o s f units => issued false s (putCores f (units.map (popCore (o.o.d == 30) (o.o.d == 31)))) units
  ld .vldV false ∧ ld .vldBc true ∧ st .vstV (fun _ => 16) mask ∧
  st .vstE size (fun o c => if active (getPr c o.o.pr.toNat) (qWidth o.o.q) 0 then BitVec.ofNat 16 (2 ^ size o - 1) else 0)

/-- LDF and STE with k = 0 in a fused gang wider than 1 trap GANG. Otherwise, once what orders the access lets it
perform, a word whose bit fits moves at its bank at once: LDF reads a full word, and `take` empties it; STE writes an
empty one, and `fill` fills it. Where the bit does not fit, or one of the same kind waits already, the operation waits
at the bank (R195). FE tests and changes the bits of words in ascending core order, once what orders each access lets it
perform: `test` and `tas` put the old bit in a predicate; `set` and `tas` fill a word, `clr` empties one; `setr` and `clrr` fill
and empty x_b consecutive words, each act one word, the lowest core first (R196). Of the model: log 33, 104. -/
def Obligations.FullEmptyWordsMove : Prop :=
  (let word (i : OpM → Instr) (load : Bool) (fn : Nat) (bit : Bool) : Prop :=
     ∀ s f units o, Issues s (siteOf (i o)) f units →
       let acc (c : Core) : Acc :=
         let r := fileM o f units c
         { kind := if load then .ldf else .ste, fn := fn, ea := addrIndexed o r, size := 8, sets := if load then 1 else 2,
           dest := if load then destM o else .none, data := if load then 0 else (getS r o.o.d.toNat).setWidth 128 }
       (selM o f units = [] → exec (i o) s = .next (afterWord s f f units 8)) ∧
       ∀ c rest, selM o f units = c :: rest →
         (o.o.k = 0 → 1 < units.length →
           exec (i o) s = .next (afterTrap s f { core := c.idx, cause := 0x0F, addr := (acc c).ea } (siteOf (i o)))) ∧
         ((o.o.k = 1 ∨ units.length ≤ 1) → rest = [] →
           countersFull (putFiring s f) f (if o.o.k = 1 then units else [c]) (some load) = false →
           ∀ s1 a1 s2 a2,
             checkAccess (putFiring s f) f c .word (if load then .rd else .wr) 8 (acc c) = (s1, .ok a1) →
             stampAcc s1 f units (o.o.k == 1) c { a1 with words := (siteOf (i o)).words } = (s2, a2) →
             mayPerform s2 f.clus c.idx a2 = true → clashes s2 f.clus c.idx a2 = [] → coversDone s2 f.clus c.idx a2 = true →
             (s2.full.contains a2.key = load → queuedOn s2.waiters s2 a2 = false →
               let s3 := if load
                 then acquireRead s2 f.clus c.idx { a2 with val := vecOf (memReadBytes s2.mem a2.key 8), performed := true }
                 else afterWrite (setMem s2 (memWriteN s2.mem a2.key 8 (a2.data.toNat % 2 ^ 64))) f.clus c.idx a2 a2.key
                   (releaseUnit s2 f.clus c.idx a2)
               let s4 := if bit then putBit s3 a2.key (!load) else s3
               let f' := if load then (writeDest f c.idx { a2 with val := vecOf (memReadBytes s2.mem a2.key 8), performed := true }).getD f
                 else f
               exec (i o) s = .next (putFiring s4 (advance f' units 8))) ∧
             ((s2.full.contains a2.key = !load ∨ queuedOn s2.waiters s2 a2 = true) →
               exec (i o) s = .next (putFiring
                 (setWaiters (pushAcc s2 f.clus c.idx a2) (s2.waiters ++ [{ c := f.clus, i := c.idx, acc := a2.id }]))
                 (putCores f (units.map fun k => { k with busy := .reply a2.id })))))
   word .ldfKeep true 0 false ∧ word .ldfTake true 1 true ∧ word .steFill false 0 true ∧ word .steKeep false 1 false) ∧
  let fe (i : OpA → Instr) (fn : Nat) (pred : Bool) (new : Option Bool) (sets : BitVec 5) : Prop :=
    let r (o : OpA) (f : Firing) (units : List Core) (c : Core) : RFile := fileOf f units (o.k == 1) c
    RunsMIf i (fun o => o.k == 1) .word .wr
      (fun o f units => (if o.k = 1 then units.take 1 else units).filter fun c => takes (r o f units c) o.pr)
      (fun o f units c => some (8,
        { kind := .fe, fn := fn, ea := getS (r o f units c) o.a.toNat, size := 8, sets := sets,
          pred := if pred then o.d.toNat else 0, predGp := o.k == 1 }))
      (fun o s f units l => l.all fun e =>
        let p := stampAcc s f units (o.k == 1) e.1 e.2
        mayPerform p.1 f.clus e.1.idx p.2 && (clashes p.1 f.clus e.1.idx p.2).isEmpty && coversDone p.1 f.clus e.1.idx p.2)
      fun o s f units _ l =>
        let act (st : State × Firing) (e : Core × Acc) : State × Firing :=
          let p := stampAcc st.1 st.2 units (o.k == 1) e.1 e.2
          let a := { p.2 with flag := p.1.full.contains p.2.key }
          let s := if pred = false then p.1 else if a.flag then acquireRead p.1 f.clus e.1.idx a
            else noteSeen p.1 f.clus e.1.idx a p.1.dir p.1.acq
          let s := match new with
            | some b => afterWrite (putBit s a.key b) f.clus e.1.idx a a.key (releaseUnit s f.clus e.1.idx a)
            | none => s
          (s, (writeDest st.2 e.1.idx a).getD st.2)
        putFiring (l.foldl act (s, f)).1 (advance (l.foldl act (s, f)).2 units 4)
  (fe .feTest 0 true none 1 ∧ fe .feSet 1 false (some true) 2 ∧ fe .feClr 2 false (some false) 2 ∧
    fe .feTas 3 true (some true) 3) ∧
  let range (i : OpA → Instr) (fn : Nat) (b : Bool) : Prop :=
    let acc (o : OpA) (f : Firing) (units : List Core) (c : Core) : Acc :=
      { kind := .fe, fn := fn, ea := getS (fileOf f units (o.k == 1) c) o.a.toNat, size := 8, sets := 2, predGp := o.k == 1 }
    let goes (units : List Core) : Prop := ∃ c ∈ units, ∃ key done n, c.busy = .words key done n
    (∀ s f units o, Issues s (siteOf (i o)) f units →
      let sel := (if o.k = 1 then units.take 1 else units).filter fun c => takes (fileOf f units (o.k == 1) c) o.pr
      let n (c : Core) : Nat := (getS (fileOf f units (o.k == 1) c) o.b.toNat).toNat
      let asks := sel.map fun c => (c, fun s => checkAccess s f c .word .wr (if 4096 < n c then 2 ^ 40 else 8 * max (n c) 1)
        (acc o f units c))
      let mark (f : Firing) (e : Core × Acc) : Firing :=
        updCore f e.1.idx fun c => { c with busy := .words e.2.key 0 (n e.1) }
      (goes units → exec (i o) s = feRange o fn b (putFiring s f) f units) ∧
      (¬goes units → countersFull (putFiring s f) f (if o.k = 1 then units else sel) (some false) = false →
        (∀ s' rs t, checkAll (putFiring s f) asks = (s', rs) → firstTrap rs = some t →
          exec (i o) s = .next (trapFiring s' f t ((siteOf (i o)).words.head?.getD 0) ((siteOf (i o)).words[1]?.getD 0))) ∧
        ∀ s' (l : List (Core × Acc)), checkAll (putFiring s f) asks = (s', l.map fun e => (e.1, .ok e.2)) →
          exec (i o) s = feRange o fn b s' (l.foldl mark f) units)) ∧
    ∀ o s f units,
      let mine (f : Firing) : List Core := f.cores.filter fun k => units.any fun u => u.idx == k.idx
      let left (k : Core) : Bool := match k.busy with
        | .words _ done n => done < n
        | _ => false
      let past (f : Firing) : Firing := advance (putCores f ((mine f).map fun k => { k with busy := .none })) units 4
      ((mine f).find? left = none → feRange o fn b s f units = .next (putFiring s (past f))) ∧
      ∀ k key done n, (mine f).find? left = some k → k.busy = .words key done n →
        let a := acc o f units k
        let p := stampAcc s f units (o.k == 1) k { a with space := spaceOf a.ea, key := key + 8 * done }
        let ready := mayPerform p.1 f.clus k.idx p.2 = true ∧ clashes p.1 f.clus k.idx p.2 = [] ∧
          coversDone p.1 f.clus k.idx p.2 = true
        let flagged := { p.2 with flag := p.1.full.contains p.2.key }
        let s' := afterWrite (putBit p.1 (key + 8 * done) b) f.clus k.idx flagged (key + 8 * done)
          (releaseUnit p.1 f.clus k.idx flagged)
        let f' := updCore ((writeDest f k.idx flagged).getD f) k.idx fun c => match c.busy with
          | .words key done n => { c with busy := .words key (done + 1) n }
          | _ => c
        (¬ready → feRange o fn b s f units = .next s) ∧
        (ready → feRange o fn b s f units = .next (putFiring s' (if (mine f').any left then f' else past f')))
  range .feSetr 4 true ∧ range .feClrr 5 false

/-- AMO and CAS check A + off; once nothing earlier holds them, those at a bank of spaces 0x4 to 0x6 perform there in ascending
core order, the others enter their core's order; RED enters its core's order (R240 to R243). What a fused gang's cores make
with k = 0 is one group (R287). An AMO at a bank returns the old value and writes the function of R241 on it and B: `addb`
old + D only where that is at most B and fits, with its refusal in a predicate; CAS writes only where the old value is D
(R242); RED combines by the functions of R243. Of the model: log 33. -/
def Obligations.AtomicsIssueAndCompute : Prop :=
  (let less (w q x y : Nat) : Bool := if q = 2 ∨ q = 3 then decide (x < y) else decide (signedOf w x < signedOf w y)
   let value (w fn q old b : Nat) : Nat :=
     match fn with
     | 0 => (old + b) % 2 ^ w
     | 1 => if less w q b old then b else old
     | 2 => if less w q old b then b else old
     | 3 => old &&& b
     | 4 => old ||| b
     | 5 => old ^^^ b
     | 6 => (floatPick .fp32 false old b).1
     | _ => (floatPick .fp32 true old b).1
   (∀ fn q size old b, old < 2 ^ (8 * size) → b < 2 ^ (8 * size) →
     combine fn q size old b = value (8 * size) fn q old b) ∧
   (∀ (a : Acc) (old : Nat), old < 2 ^ (8 * a.size) →
     let b := a.data.toNat % 2 ^ 64
     let d := a.data2.toNat % 2 ^ 64
     let w := 8 * a.size
     a.size = 4 ∨ a.size = 8 →
     (a.kind = .cas → atomicNew a old = (if old = d % 2 ^ w then some (b % 2 ^ w) else none, false)) ∧
     (a.kind = .amo →
       (a.fn = 0 → atomicNew a old = (some ((old + b) % 2 ^ w), false)) ∧
       (2 ≤ a.fn → a.fn ≤ 6 → atomicNew a old = (some (value w (a.fn - 1) a.q old (b % 2 ^ w)), false)) ∧
       (a.fn = 7 → atomicNew a old = (some (b % 2 ^ w), false)) ∧
       (a.fn = 1 →
         let sum := signedOf 64 old + signedOf 64 d
         (sum ≤ signedOf 64 b → -2 ^ 63 ≤ sum → atomicNew a old = (some (sum % 2 ^ 64).toNat, false)) ∧
         ((signedOf 64 b < sum ∨ sum < -2 ^ 63) → atomicNew a old = (none, true))))) ∧
   ∀ s f units uni (c : Core) (a : Acc), a.kind = .amo ∨ a.kind = .cas → a.lanes = false → a.size = 4 ∨ a.size = 8 →
     a.space = 4 ∨ a.space = 5 ∨ a.space = 6 →
     let p := (stampAcc s f units uni c a).2
     let old := vecOf (memReadBytes s.mem a.key a.size)
     let new := atomicNew p old.toNat
     (bankAtomic s f units uni c a).2 = (writeDest f c.idx { p with val := old, flag := new.2, performed := true }).getD f ∧
     (bankAtomic s f units uni c a).1.mem = match new.1 with
       | some v => memWriteMasked s.mem a.key (2 ^ a.size - 1) (toBytes a.size v)
       | none => s.mem) ∧
  let uni (o : OpM) : Bool := o.o.k == 1
  let group (o : OpM) (s : State) (f : Firing) (l : List (Core × Acc)) : List (Core × Acc) :=
    if o.o.k = 1 ∨ f.split = true then l else l.map fun e => (e.1, { e.2 with grp := s.nextId })
  let bank (a : Acc) : Bool := a.space == 4 || a.space == 5 || a.space == 6
  let amo (i : OpM → Instr) (form : Form) (kind : AccKind) (fn : Nat) (addb : Bool) : Prop :=
    RunsMIf i uni form .rmw selM (fun o f units c =>
      let r := fileM o f units c
      let size := if !addb && (o.o.q == 1 || o.o.q == 3) then 4 else 8
      some (size, { kind := kind, fn := fn, q := if addb then 0 else o.o.q.toNat, ea := addrPlain o r, size := size,
                    sext := !addb && o.o.q == 1, sets := 16, data := (getS r o.o.b.toNat).setWidth 128,
                    data2 := (getS r o.o.d.toNat).setWidth 128, dest := destM o,
                    pred := if addb then o.o.q.toNat else 0, predGp := o.o.k == 1, nu := o.nu }))
      (fun o s f units l => ((group o s f l).filter fun e => bank e.2).all fun e =>
        let p := stampAcc s f units (o.o.k == 1) e.1 e.2
        mayPerform p.1 f.clus e.1.idx p.2 && (clashes p.1 f.clus e.1.idx p.2).isEmpty && gangTurn p.1 f.clus p.2)
      fun o s f units _ l =>
        let act (st : State × Firing) (e : Core × Acc) : State × Firing :=
          if bank e.2 then bankAtomic st.1 st.2 units (o.o.k == 1) e.1 e.2
          else issueAll st.1 st.2 units (o.o.k == 1) [e]
        let r := (group o s f l).foldl act (s, f)
        putFiring r.1 (if l.any fun e => holdsIssue e.2 then r.2 else advance r.2 units 8)
  let red (i : OpM → Instr) (fn : Nat) : Prop :=
    RunsM i uni (.red fn) .rmw selM (fun o f units c =>
      let r := fileM o f units c
      let size := if fn = 6 ∨ fn = 7 ∨ o.o.q = 1 ∨ o.o.q = 3 then 4 else 8
      some (size, { kind := .red, fn := fn, q := o.o.q.toNat, ea := addrPlain o r, size := size, sets := 16,
                    data := (getS r o.o.b.toNat).setWidth 128, nu := o.nu, pol := o.pol }))
      fun o s f units idle l => issued (o.o.k == 1) s f units idle (group o s f l)
  amo .amoAdd (.amo 0) .amo 0 false ∧ amo .amoAddb (.amo 1) .amo 1 true ∧ amo .amoMin (.amo 2) .amo 2 false ∧
  amo .amoMax (.amo 3) .amo 3 false ∧ amo .amoAnd (.amo 4) .amo 4 false ∧ amo .amoOr (.amo 5) .amo 5 false ∧
  amo .amoXor (.amo 6) .amo 6 false ∧ amo .amoSwap (.amo 7) .amo 7 false ∧ amo .cas .cas .cas 0 false ∧
  red .redAdd 0 ∧ red .redMin 1 ∧ red .redMax 2 ∧ red .redAnd 3 ∧ red .redOr 4 ∧ red .redXor 5 ∧ red .redFmin 6 ∧
  red .redFmax 7

/-- The checks of R192 on one access come in their order: SPACE for a space that the instruction may not name or
reserved bits of the pointer, ALIGN for an address that its size does not divide, and what the window or the translation
answers. -/
def Obligations.AccessChecksTrap : Prop :=
  ∀ s f c form want span (a : Acc), a.lanes = false →
    let trap (cause : Nat) : Chk := .trap { core := c.idx, cause := cause, addr := a.ea }
    ((spaceOk s f.tenant form (spaceOf a.ea) = false ∨ pointerClean a.ea = false) →
      checkAccess s f c form want span a = (s, trap 0x04)) ∧
    (spaceOk s f.tenant form (spaceOf a.ea) = true → pointerClean a.ea = true → spaceOf a.ea ≠ 14 →
      (a.ea.toNat % a.size ≠ 0 → checkAccess s f c form want span a = (s, trap 0x05)) ∧
      (a.ea.toNat % a.size = 0 → ∀ s' k, locateFor s f c.idx a.ea span want = (s', .cause k) →
        checkAccess s f c form want span a = (s', trap k)) ∧
      (a.ea.toNat % a.size = 0 → ∀ s' p, locateFor s f c.idx a.ea span want = (s', .ok p) →
        (locked s' f.clus a.ea.toNat span (accWrites a) = true →
          checkAccess s f c form want span a = (s', trap 0x07))))

/-- CACHE acts on the line of each core's address, and does nothing where a read of it would fault: `pf` fetches its
missing sectors and applies nu, `pfl1` also fills the core's L1 but for host lines and reduction aliases, `nu` applies
nu, `wb` and `wbinv` enter the core's order; a fetch into a set that holds only window ways waits (R220, R221). Of the model:
log 40. -/
def Obligations.CacheInstructionsAct : Prop :=
  let cache (i : OpM → Instr) (fn : Nat) (act : State → Firing → Core → Acc → State) : Prop :=
    CheckedIf i (fun o => o.o.k == 1) (fun _ => if 3 ≤ fn then some false else none) selM (fun o f units c => some fun s => cacheCheck s f c
      { kind := .cache, fn := fn, ea := addrPlain o (fileM o f units c), size := 256, nu := o.nu })
      (fun _ s _ _ l => l.all fun e => !(decide (fn < 2) && !e.2.performed && setBlocked s (lineReq e.2)))
      fun o s f units idle l =>
        let go (s : State) (e : Core × Acc) : State :=
          let p := stampAcc s f units (o.o.k == 1) e.1 e.2
          if p.2.performed then p.1 else act p.1 f e.1 p.2
        putFiring (tickIdle (l.foldl go s) f idle) (advance f units 8)
  let fetch (s : State) (a : Acc) : State := (l2Access s (lineReq a)).1
  cache .cachePf 0 (fun s _ _ a => fetch s a) ∧
  cache .cachePfl1 1 (fun s f c a =>
    if a.space = 0 ∧ isAlias a.key = false then fillL1 (fetch s a) f.clus c.idx a else fetch s a) ∧
  cache .cacheNu 2 (fun s _ _ a => l2Nu s (lineReq a)) ∧
  cache .cacheWb 3 (fun s f c a => pushAcc s f.clus c.idx a) ∧
  cache .cacheWbinv 4 (fun s f c a => pushAcc s f.clus c.idx a)

/-- RCLK reads the firing's reuse clock, advances it by imm32 for every core that executes it, and sets a core's default
class of a space (R222). PIN checks for a space-0x8 pointer at offset 0, else SPACE; `win` resizes the die's window to
the least of the request, the window quota and the share, or to 0 on a die without a cluster of the tenant, and both
write the granted ways to d (R223). Of the model: log 3. -/
def Obligations.ClocksMoveAndPinsGrant : Prop :=
  (RunsIn .rclkRead (fun o => o.o.k == 1) (fun o => o.o.pr) 8
     (fun o s f r => setS r o.o.d.toNat ((clockVal s (clockOf s f)).setWidth 64)) ∧
   RunsAs .rclkDflt (fun _ => false) (fun o => o.o.pr) 8 (fun o r =>
     if o.imm.toNat / 2 ^ 8 % 2 ^ 4 = 1 then { r with core := { r.core with dfl1 := o.imm.setWidth 5 } }
     else { r with core := { r.core with dfl0 := o.imm.setWidth 5 } }) ∧
   ∀ s f units (o : OpX), Issues s (siteOf (.rclkAdv o)) f units →
     let n := ((if o.o.k = 1 then units.take 1 else units).filter fun c => takes (fileOf f units (o.o.k == 1) c) o.o.pr).length
     exec (.rclkAdv o) s = .next (putFiring
       ((List.range n).foldl (fun s _ => tickClock s (clockOf s f) o.imm) (putFiring s f)) (advance f units 8))) ∧
  let pin (i : OpM → Instr) (cnt : Option Bool) (eff : OpM → State → Firing → RFile → Nat → State × Word) : Prop :=
    Checked i (fun o => o.o.k == 1) (fun _ => cnt) selM (fun o f units c =>
      let a := addrPlain o (fileM o f units c)
      some fun s =>
        if spaceOf a = 8 ∧ pointerClean a = true ∧ a.toNat % 2 ^ 26 = 0 then (s, .ok { kind := .pin, ea := a })
        else (s, .trap { core := c.idx, cause := 0x04, addr := a })) fun o s f units idle l =>
      let go (st : State × Firing) (e : Core × Acc) : State × Firing :=
        let r := eff o st.1 f (fileM o f units e.1) (e.2.ea.toNat / 2 ^ 26 % 2 ^ 2)
        (r.1, if o.o.k = 1 then putUniOf st.2 e.1.idx fun u => setG u o.o.d.toNat r.2
          else updCore st.2 e.1.idx fun c => setX c o.o.d.toNat r.2)
      let r := l.foldl go (s, f)
      putFiring (tickIdle r.1 f (idle + l.length)) (advance r.2 units 8)
  pin .pinWin (some false) (fun o s f r die =>
    let t := tenantOf s f.tenant
    let n := if dieClusters t die = [] then 0 else min (getS r o.o.b.toNat).toNat (min (qWindow t) (qShare t))
    (resizeWindow s f.tenant die n, BitVec.ofNat 64 n)) ∧
  pin .pinSize none (fun _ s f _ die => (s, BitVec.ofNat 64 (windowWays (tenantOf s f.tenant) die)))

/-- XLAT: `probe` answers a translation without trapping, and for a host page that is not cached asks for it first;
`touch` traps as an access of its kind would; `inv` traps PRIV outside the handler, and in it drops the page's
translations and counts until the invalidation completes (R244). Of the model: log 16, 41. -/
def Obligations.TranslationsAnswer : Prop :=
  let addr (o : OpM) (f : Firing) (units : List Core) (c : Core) : Word := addrPlain o (fileM o f units c)
  let uni (o : OpM) : Bool := o.o.k == 1
  Checked .xlatProbe uni (fun _ => none) selM (fun o f units c => some fun s =>
      xlatCheck s f c (addr o f units c) fun s => (s, .ok { ea := addr o f units c })) (fun o s f units idle l =>
    if l.any fun e => spaceOf e.2.ea == 1 && (probeLeaf s f e.1 (vaOf e.2.ea)).isNone then waitProbes s f l
    else match xlatFinish (o.o.k == 1) o (xlatValue o.o.q.toNat) s f units idle l with
      | .next t => t
      | _ => s) ∧
  Checked .xlatTouch uni (fun _ => none) selM (fun o f units c => some fun s =>
      let a := addr o f units c
      let want := wantOfQ o.o.q.toNat
      let trap (s : State) (k : Nat) : State × Chk := (s, .trap { core := c.idx, cause := k, addr := a })
      xlatCheck s f c a fun s =>
        if spaceOf a = 1 ∧ want = .ex ∧ (hostLeaf s (sectorOf f.clus) f.tenant (vaOf a)).isSome = true then trap s 0x0A
        else match locateFor s f c.idx a 1 want with
          | (s, .cause k) => trap s k
          | (s, .ask p cached) => (s, .page p cached want)
          | (s, .ok _) => (s, .ok { ea := a })) (fun o s f units idle l =>
    match xlatFinish (o.o.k == 1) o (xlatValue o.o.q.toNat) s f units idle l with
      | .next t => t
      | _ => s) ∧
  Checked .xlatInv uni (fun _ => some false) selM (fun o f units c => some fun s =>
      let a := addr o f units c
      xlatCheck s f c a fun s =>
        if isHandler s f then (s, .ok { kind := .xlatInv, ea := a, space := spaceOf a })
        else (s, .trap { core := c.idx, cause := 0x03, addr := a })) (fun o s f units idle l =>
    let go (s : State) (e : Core × Acc) : State :=
      let p := stampAcc s f units (o.o.k == 1) e.1 e.2
      startInval (pushAcc p.1 f.clus e.1.idx p.2) f.tenant (spaceOf p.2.ea == 1) (vaOf p.2.ea) 1 false
        (some (f.clus, e.1.idx, p.2.id))
    putFiring (tickIdle (l.foldl go s) f idle) (advance f units 8))

/-- FENCE enters an entry with its sets and scope in the order of each core that executes it, with the messages that its
firing has popped, asks for flush markers at scope 6 and 7, and does nothing else with an empty set (R255, R264, R265). Of
the model: log 36. -/
def Obligations.FencesEnterTheOrder : Prop :=
  ∀ s f units (o : OpA), Issues s (siteOf (.fenceOrd o)) f units →
    let act := activeCores units o.pr
    let entry (s : State) (n : Nat) : Acc :=
      { id := n, firing := f.id, launch := f.launch, tenant := f.tenant, kind := .fence, pset := o.a, sset := o.b,
        scope := o.q.toNat, home := f.clus * 8 + f.lead, width := f.cores.length, senders := sendersOf s f,
        fn := f.staged.length }
    let go (s : State) (c : Core) : State :=
      let n := newId s
      let e := entry n.2 n.1
      let s := pushAcc n.2 f.clus c.idx e
      if 6 ≤ o.q.toNat then
        sendMarkers s f.clus c.idx (((before s f.clus c.idx e).map fun b => b.2).filter fun a => a.sets &&& o.a != 0)
      else s
    exec (.fenceOrd o) s = .next (putFiring
      (if o.a = 0 ∨ o.b = 0 then putFiring s f else sweep (act.foldl go (putFiring s f))) (advance f units 4))

/-! ### The order machine -/

/-- Accesses perform: an explicit store or RED that nothing earlier clashes with reaches its home and leaves its core's order; a
write-back writes its line back, and `wbinv` drops it, and leaves the order (R221); a posted remote one is first sent, on the
lowest path that survives where no other was chosen (R416). A coherent store takes a timestamp above
every read of the line, and a coherent atomic keeps the old value for its return; what a gang's atomics make to one line
performs in ascending core order (R199, R251, R253, R263, R287). Of the model: log 32, 34. -/
def Obligations.StoresPerform : Prop :=
  ∀ s c i n (a : Acc), accAt s c i n = some a → a.performed = false → groupClear s c i a = true →
    let event := Instr.explicitStorePerform c i n
    let posted := a.kind = .store ∨ a.kind = .red
    let all (g : State → Nat → Acc → State) : State := (groupOf s c i a).foldl (fun s e => g s e.1 e.2) s
    (a.kind = .store → coherent a = false → a.space ≠ 2 → exec event s = .next (sweep (afterWrite (dropAcc
      (writeBytes (placeL2 s a true) a a.bytes.toNat (vecBytes a.data)) c i n) c i a a.key (releaseUnit s c i a)))) ∧
    (a.kind = .red → a.space ≠ 2 → exec event s = .next (sweep (all fun s i a => afterWrite (dropAcc
      (if a.space = 0 ∧ a.pol = 0 then redEnter s c i a else redAct s c i a) c i a.id) c i a a.key (releaseUnit s c i a)))) ∧
    (a.kind = .cache → a.space ≠ 2 → exec event s = .next (sweep (all fun s i a => dropAcc
      (if a.fn = 3 then writeBack s (lineOf a.key) else dropLine s (lineOf a.key)) c i a.id))) ∧
    (posted → a.space = 2 → a.sent = false → groupLeaves s c i a = true →
      ∀ j, firstUp s (a.ea.toNat / 2 ^ 48 % 2 ^ 12) = some j → exec event s = .next (all fun s i a => sendPacket s c i a j)) ∧
    (posted → a.space = 2 → a.sent = true → a.ea.toNat / 2 ^ 48 % 2 ^ 12 ≠ s.cfg.pkgid.toNat → clear s c i a = true →
      arrives s c i a = true → exec event s =
        .next (sweep (updAcc (popPath s (.acc c i n)) c i n fun a => { a with performed := true }))) ∧
    (coherent a = true → a.kind ≠ .load → (a.kind = .store ∨ meetsPoison s a = false) →
      exec (.coherentStorePerform c i n) s = .next (sweep (all fun s i a =>
        let line := lineOf a.key
        let ts := max (ptsOf s c i a) ((stampOf s line).2 + 1)
        let s1 := noteWrite (setPts (setStamp s line ts ts) c i a ts) a ts
        if a.kind = .store then
          afterWrite (dropAcc (writeBytes (placeL2 s1 a true) a a.bytes.toNat (vecBytes a.data)) c i a.id) c i a a.key
            (releaseUnit s c i a)
        else
          let r := serveAtomic s1 c i a
          updAcc r.1 c i a.id fun b => { b with performed := true, val := r.2.val, flag := r.2.flag })))

/-- An explicit load reads its home, or the youngest queued store of its core that covers it; a performed load or atomic
writes its register and leaves the order; a coherent load first performs from a lease or at its home; a read that meets a
poisoned sector traps UCE (R197, R219, R251 to R253). LDF and STE that wait are served oldest first once their bit fits
(R194); a host completion error returns all ones, writes a MEMERR record and fails the launch (R235). Of the model: log 10,
23, 26. -/
def Obligations.LoadsReturnAndWaitersServe : Prop :=
  ((∀ s k w a, s.waiters[k]? = some w → waiterAcc s w = some a → bitReady s a = true →
     queuedOn (s.waiters.take k) s a = false → mayPerform s w.c w.i a = true →
     ∀ t, deliver (setWaiters (bankMove s w.c w.i a).1 ((bankMove s w.c w.i a).1.waiters.eraseIdx k)) w.c w.i
         (bankMove s w.c w.i a).2 = some t →
       exec (.feWaiterServe k) s = .next (sweep t)) ∧
   ∀ s c i n a, accAt s c i n = some a → a.space = 1 → (a.kind = .load ∨ isAtomic a = true) →
     linkWaits s c i a = false →
     ∀ t, deliver s c i { a with performed := true, val := BitVec.allOnes 128 } = some t →
       exec (.hostCompletionError c i n) s = .next (sweep (queueRecord (failLaunch t a.launch)
         { die := dieOf c, tenant := a.tenant, rtype := 4, core := i, clus := c,
           actid := ((firingOf s a.firing).map fun f => f.actor).getD 0xFF, val := a.ea, firing := a.firing,
           ts := ((firingOf s a.firing).map (firingTs s)).getD (maxPts s c (coresOf i a)) }))) ∧
  ∀ s c i n lease (a : Acc), accAt s c i n = some a →
    let uce (event : Instr) : Prop := ∀ f, firingOf (dropAcc s c i n) a.firing = some f →
      exec event s = .next (sweep (trapFiring (dropAcc s c i n) f
        { core := i, cause := 0x0D, addr := a.ea, pc := some a.pc } (a.words.head?.getD 0) (a.words[1]?.getD 0)))
    (a.kind = .load → coherent a = false → a.space ≠ 2 → a.performed = false → clear s c i a = true →
      (meetsPoison s a = true → uce (.explicitLoadPerform c i n)) ∧
      (meetsPoison s a = false →
        let r := readBytes (placeL2 (noteSeen s c i a s.dir s.acq) a false) a
        exec (.explicitLoadPerform c i n) s = .next (sweep (updAcc r.1 c i n fun b =>
          { b with performed := true, val := vecOf r.2 })))) ∧
    (a.kind = .load → coherent a = false → a.space ≠ 2 → a.performed = false → mayPerform s c i a = true →
      l2Blocked s a false = false →
      ∀ e bytes, youngest (clashes s c i a) = some e → (∀ b ∈ clashes s c i a, b.2.kind = .store) →
        forwardBytes e.2 a = some bytes → exec (.explicitLoadPerform c i n) s =
          .next (sweep (updAcc s c i n fun b => { b with performed := true, val := vecOf bytes }))) ∧
    ((a.kind = .load ∨ a.kind = .amo ∨ a.kind = .cas) → a.space ≠ 2 → a.performed = true → linkWaits s c i a = false →
      ∀ f f', firingOf s a.firing = some f → writeDest f i a = some f' →
        exec (.loadDataReturn c i n lease) s = .next (sweep (dropAcc (putFiring s (release f' a.id (accLen a))) c i a.id))) ∧
    (a.kind = .load → coherent a = true → a.performed = false → clear s c i a = true → linkWaits s c i a = false →
      ((leaseOf s c i a = none ∧ meetsPoison s a = true) → uce (.loadDataReturn c i n lease)) ∧
      ((leaseOf s c i a ≠ none ∨ meetsPoison s a = false) →
        ∀ t, deliver (coherentLoad s c i lease a).1 c i (coherentLoad s c i lease a).2 = some t →
          exec (.loadDataReturn c i n lease) s = .next (sweep t)))

/-- A packet performs at its remote home, or is dropped where the home faults, and a read publishes the releases that it
meets; a reply returns its value, or traps REMOTE with the remote cause; a posted access that faults is dropped, with a record
and a failed launch; a flush marker is answered once every earlier packet of its path has performed, and the last answer of
its group gathers them; where no path survives, none of this comes (R236, R259, R263, R264, R416). Of the model: log 23, 32,
127, 135, 136. -/
def Obligations.RemoteAccessesPerform : Prop :=
  (∀ s vf va size op d d2,
    let a := packetAcc vf va size op d d2
    (∀ s' k, remoteHome s 0 a = (s', .error k) → exec (.remotePacketPerform (.incoming vf va size op d d2)) s = .next s') ∧
    ∀ s' b, remoteHome s 0 a = (s', .ok b) → (accReads b = true → served s' .dom b.key b.size = true) →
      exec (.remotePacketPerform (.incoming vf va size op d d2)) s = .next (sweep (performIncoming s' b))) ∧
  (∀ s c i n a val, accAt s c i n = some a → a.space = 2 → (a.kind = .load ∨ a.kind = .amo ∨ a.kind = .cas) →
    a.ea.toNat / 2 ^ 48 % 2 ^ 12 ≠ s.cfg.pkgid.toNat → linkWaits s c i a = false → clear s c i a = true →
    arrives s c i a = true →
    let s' := popPath s (.acc c i n)
    (∀ cause f, cause ≠ 0 → firingOf (dropAcc s' c i n) a.firing = some f →
      exec (.remoteReply c i n cause val) s = .next (sweep (trapFiring (dropAcc s' c i n) f
        { core := i, cause := 0x0C, sub := cause, addr := a.ea, pc := some a.pc } (a.words.head?.getD 0)
        (a.words[1]?.getD 0)))) ∧
    (∀ t, a.kind ≠ .amo → deliver s' c i { a with performed := true, val := val, flag := false } = some t →
      exec (.remoteReply c i n 0 val) s = .next (sweep t)) ∧
    ∀ t, a.kind = .amo → deliver s' c i
        { a with performed := true, val := val, flag := (atomicNew a (val.toNat % 2 ^ (8 * a.size))).2 } = some t →
      exec (.remoteReply c i n 0 val) s = .next (sweep t)) ∧
  (∀ s c i n a, accAt s c i n = some a → a.space = 2 → (a.kind = .store ∨ a.kind = .red) → a.sent = true →
    a.ea.toNat / 2 ^ 48 % 2 ^ 12 ≠ s.cfg.pkgid.toNat → (a.performed = true ∨ arrives s c i a = true) →
    (firstUp s (a.ea.toNat / 2 ^ 48 % 2 ^ 12)).isSome = true →
    exec (.remotePostedFault c i n) s = .next (sweep (queueRecord
      (failLaunch (dropAcc (popPath s (.acc c i n)) c i n) a.launch)
      { die := dieOf c, tenant := a.tenant, rtype := 4, core := i, clus := c,
        actid := ((firingOf s a.firing).map fun f => f.actor).getD 0xFF, val := a.ea, firing := a.firing,
        ts := ((firingOf s a.firing).map (firingTs s)).getD (maxPts s c (coresOf i a)) }))) ∧
  (∀ s k m, s.markers[k]? = some m → m.sent = true → m.answered = false →
    (∀ p ∈ aheadOf s m, m.pkg ≠ s.cfg.pkgid.toNat ∧ ∀ g, p ≠ .marker g) → (firstUp s m.pkg).isSome = true →
    let s1 := setMarkers s (s.markers.set k { m with answered := true })
    exec (.flushMarkerArrive k) s =
      .next (sweep ((aheadOf s m).foldl (settlePacket m) (setPaths s1 (takeMarker m s.paths))))) ∧
  ∀ s k m, s.markers[k]? = some m → m.answered = true → (firstUp s m.pkg).isSome = true →
    let s1 := setMarkers s (s.markers.eraseIdx k)
    ((∀ x ∈ s1.markers, x.group ≠ m.group) → exec (.flushAnswerArrive k) s = .next (sweep (gatherMarker s1 m))) ∧
    ((∃ x ∈ s1.markers, x.group = m.group) → exec (.flushAnswerArrive k) s = .next (sweep s1))

/-! ### Messages, channels and barriers -/

/-- SEND stages the messages of its selected cores in ascending order, or traps MSGADDR, MSGPERM or MSGQ at the first
core that may not; nothing is staged then, and a popped link must hold a word (R60, R176, R177). -/
def Obligations.SendsStage : Prop :=
  let send (i : OpA → Instr) (uni : OpA → Bool) (kind : Nat) (q : OpA → Nat) (lw le : OpA → Bool)
      (pay : OpA → Firing → List Core → Core → Payloads) : Prop :=
    ∀ s f units o, Issues s (siteOf (i o)) f units →
      let act := (if uni o then units.take 1 else units).filter fun c => takes (fileOf f units (uni o) c) o.pr
      let cores (c : Core) : List Nat := if uni o then units.map fun k => k.idx else [c.idx]
      let staged := stageAll (putFiring s f) kind (q o) cores (fun c => getS (fileOf f units (uni o) c) o.a.toNat)
        (pay o f units) f act
      ((∃ c ∈ act, popReady (lw o) (le o) c = false) → exec (i o) s = .next (putFiring s f)) ∧
      ((∀ c ∈ act, popReady (lw o) (le o) c = true) →
        (∀ t, staged = .error t → exec (i o) s = .next (afterTrap s f t (siteOf (i o)))) ∧
        ∀ f', staged = .ok f' → exec (i o) s = .next (afterWord s f (putCores f' (act.map fun c =>
          popCore (lw o) (le o) { c with nflags := c.nflags ||| (pay o f units c).2 })) units 4))
  let src (o : OpA) (c : Core) : Vec :=
    if o.b = 30 then c.lw.headD 0 else if o.b = 31 then c.le.headD 0 else vget c.v o.b.toNat 0
  send .sendX (fun o => o.k == 1) 1 (fun _ => 0) (fun _ => false) (fun _ => false)
    (fun o f units c => ([[getS (fileOf f units (o.k == 1) c) o.b.toNat]], 0)) ∧
  send .sendV (fun _ => false) 2 (fun o => o.q.toNat) (fun o => o.b == 30) (fun o => o.b == 31)
    (fun o _ _ c => sendVec o.q.toNat (src o c)) ∧
  send .sendNz (fun _ => false) 3 (fun o => o.q.toNat) (fun o => o.b == 30) (fun o => o.b == 31)
    (fun o _ _ c => sendNonzero o.q.toNat (getX c o.d.toNat) (src o c)) ∧
  ∀ s f c cores kind q addr (p : Payloads),
    (maOk addr = false → stage s f c cores kind q addr p = .error { core := c.idx, cause := 0x12 }) ∧
    (maOk addr = true → maySend s f.tenant f.clus (maClus addr) = false →
      stage s f c cores kind q addr p = .error { core := c.idx, cause := 0x13 }) ∧
    (maOk addr = true → maySend s f.tenant f.clus (maClus addr) = true → 64 < f.staged.length + p.1.length →
      stage s f c cores kind q addr p = .error { core := c.idx, cause := 0x14 })

/-- RECV pops the words of the instance's direct queue in ascending core order: `w` stalls where none remains, `try`
answers with a predicate, `hdr` reads the oldest header and `drop` pops the rest of a message; CHAN reads a slot's
pointer, its header and the channel's counts, and traps CHANIX outside the reservation, at the first core that acts or for the
gang with k = 1, whose false predicate makes it a NOP (R166, R179 to R181). -/
def Obligations.ReceivesAndChannelsRead : Prop :=
  let recv (i : OpA → Instr) (g : OpA → List Msg → Nat → Core → Option (Nat × Core)) : Prop :=
    ∀ s f units o x, Issues s (siteOf (i o)) f units → instOf (putFiring s f) f.inst = some x →
      let act := units.filter fun c => takes (fileOf f units false c) o.pr
      let n0 := poppedOf (putFiring s f) x
      let run := act.foldlM (init := (n0, ([] : List Core))) fun st c =>
        (g o (directQueue (putFiring s f) x) st.1 c).map fun r => (r.1, st.2 ++ [r.2])
      (run = none → exec (i o) s = .next (putFiring s f)) ∧
      ∀ n cs, run = some (n, cs) → exec (i o) s = .next (putFiring (setPopped (putFiring s f) x n)
        (advance (putCores { f with popped := f.popped + (n - n0) } cs) units 4))
  let word (q : List Msg) (n : Nat) : Option Word := (oldestMsg q n).bind fun r => r.1.words[r.2]?
  let chan (i : OpA → Instr) (g : State → Firing → Chan → Resv → Word → Option Word) : Prop :=
    ∀ s f units o, Issues s (siteOf (i o)) f units → o.k = 1 →
      let s' := putFiring s f
      let u := uniformOf f units
      let val := (portResv s' f o.a.toNat).bind fun v => (chanAt s' f.clus f.launch v.chan).bind fun x =>
        g s' f x v (getG u o.b.toNat)
      (getGp u o.pr.toNat = false → exec (i o) s = .next (afterWord s f f units 4)) ∧
      (getGp u o.pr.toNat = true →
      (∀ w, val = some w → exec (i o) s = .next (afterWord s f (fileResult f units true o.pr fun r => setS r o.d.toNat w) units 4)) ∧
      (val = none → exec (i o) s = .next (afterTrap s f { core := lowest units, cause := 0x15 } (siteOf (i o)))))
  let slot (i : OpA → Instr) (g : State → Firing → Chan → Resv → Word → Option Word) : Prop :=
    ∀ s f units o (w : Core → Word), Issues s (siteOf (i o)) f units → o.k = 0 →
      let s' := putFiring s f
      let val (c : Core) : Option Word := (portResv s' f o.a.toNat).bind fun v =>
        (chanAt s' f.clus f.launch v.chan).bind fun x => g s' f x v (getX c o.b.toNat)
      let acts (c : Core) : Bool := (getPr c o.pr.toNat).getLsbD 0
      (∀ pre c rest, units = pre ++ c :: rest → acts c = true → val c = none →
        (∀ d ∈ pre, acts d = false ∨ val d ≠ none) →
        exec (i o) s = .next (afterTrap s f { core := c.idx, cause := 0x15 } (siteOf (i o)))) ∧
      ((∀ c ∈ units, acts c = true → val c = some (w c)) → exec (i o) s = .next (afterWord s f (fileResult f units false o.pr fun r => setS r o.d.toNat (w r.core)) units 4))
  let port (i : OpA → Instr) (g : State → Firing → Chan → Resv → Word → Option Word) : Prop := chan i g ∧ slot i g
  recv .recvW (fun o q n c => (word q n).map fun w => (n + 1, setX c o.d.toNat w)) ∧
  recv .recvTry (fun o q n c => match word q n with
    | some w => some (n + 1, setPr (setX c o.d.toNat w) o.b.toNat 0xFFFF)
    | none => some (n, setPr (setX c o.d.toNat 0) o.b.toNat 0)) ∧
  recv .recvHdr (fun o q n c => (oldestMsg q n).map fun r => (n, setX c o.d.toNat (msgHeader r.1))) ∧
  recv .recvDrop (fun _ q n c => match oldestMsg q n with
    | some r => some (n + (msgLen r.1 - r.2), c)
    | none => some (n, c)) ∧
  port .chanSlot (fun s f x v b => (v.slots[b.toNat]?).map fun j =>
    BitVec.ofNat 64 (5 * 2 ^ 60 + (x.base + j * x.bytes - clusterBase s f.launch f.clus))) ∧
  port .chanHdr (fun _ _ x v b => (v.slots[b.toNat]?).map fun j => x.hdrs.getD j 0) ∧
  port .chanCnt (fun _ _ x _ _ =>
    some (BitVec.ofNat 64 ((x.filled.length + x.fr) * 2 ^ 32 + (x.free.length + x.er))))

/-- BAR: `init` sets N, or traps BARSTATE; `arrive` counts an arrival in the phase that the core's lead names and writes that
phase, once what it releases is Done at cluster scope and no lead counter stands at 3; `wait` and `sync` go on once the lead
counters are 0, and acquire the arrivals of the completed phases in which their core has arrived; `query` reads the barrier.
A phase whose count reaches N completes at once, and with no active core nothing is done (R182 to R185). Of the model:
log 35. -/
def Obligations.BarriersCount : Prop :=
  (∀ b : Bar, let c := completePhases 4 b
    (c.n = b.n ∧ (c.n = 0 ∨ c.counts.1 < c.n)) ∧ ((b.n = 0 ∨ b.counts.1 < b.n) → c = b) ∧
    (b.n ≠ 0 → b.n ≤ b.counts.1 → c = completePhases 3 { b with
      phase := b.phase + 1, counts := (b.counts.2.1, b.counts.2.2, 0), lead := b.lead.map fun l => l - 1,
      done := b.done + 1 })) ∧
  (∀ (b : Bar) i, let l := b.lead.getD i 0
    (3 ≤ l → arriveBar b i = none) ∧
    (l < 3 → arriveBar b i = some (completePhases 4
      { b with lead := b.lead.set i (l + 1)
               counts := (b.counts.1 + if l = 0 then 1 else 0, b.counts.2.1 + if l = 1 then 1 else 0,
                 b.counts.2.2 + if l = 2 then 1 else 0) }, b.phase + BitVec.ofNat 2 l))) ∧
  ∀ s f units (o : OpA),
    let s' := putFiring s f
    let act := (if o.k = 1 then units.take 1 else units).filter fun c => takes (fileOf f units (o.k == 1) c) o.pr
    let put (b : Bar) : State := putBar s' f (o.a.toNat % 4) b
    let n (c : Core) : Nat := (getS (fileOf f units (o.k == 1) c) o.b.toNat).toNat
    let gang (l : List Core) : List Core := if o.k = 1 then units else l
    (act = [] → ∀ i ∈ [Instr.barInit, .barArrive, .barWait, .barSync, .barQuery], Issues s (siteOf (i o)) f units →
      exec (i o) s = .next (afterWord s f f units 4)) ∧
    ∀ b, act ≠ [] → barOf s' f (o.a.toNat % 4) = some b →
      let set (b : Bar) (c : Core) : Option Bar :=
        if 1 ≤ n c ∧ n c ≤ 8 ∧ (b.n = 0 ∨ b.counts = (0, 0, 0)) then some (completePhases 4 { b with n := n c }) else none
      let acquired (s : State) (b : Bar) : State := act.foldl (init := s) fun s c =>
        let l := b.rels.filter fun r => decide (r.no < b.done) && r.cores.contains c.idx
        acquire s f.clus ((gang [c]).map fun k => k.idx) (l.flatMap fun r => r.pend)
          (l.foldl (fun m r => max m r.ts) 0)
      (Issues s (siteOf (.barInit o)) f units →
        (∀ b', act.foldlM set b = some b' →
          exec (.barInit o) s = .next (putFiring (put b') (advance f units 4))) ∧
        ∀ pre c rest b', act = pre ++ c :: rest → pre.foldlM set b = some b' → set b' c = none →
          exec (.barInit o) s = .next (afterTrap s f { core := c.idx, cause := 0x16 } (siteOf (.barInit o)))) ∧
      (Issues s (siteOf (.barArrive o)) f units →
        (coversQuiet f (arrivalCovers s' f (gang act)) = true → (∀ c ∈ act, b.lead.getD c.idx 0 < 3) →
          (act.map fun c => c.idx).Nodup →
          ∃ b' l, arrivals s' o f units act b = some (b', l) ∧
            exec (.barArrive o) s = .next (putFiring (put b') (advance (barWrite o f l) units 4))) ∧
        (∀ b' l, arrivals s' o f units act b = some (b', l) →
          exec (.barArrive o) s = .next (putFiring (put b') (advance (barWrite o f l) units 4)) ∧
          ∀ c, act = [c] → l = [(c, ((b.phase + BitVec.ofNat 2 (b.lead.getD c.idx 0)).setWidth 64))]) ∧
        (arrivals s' o f units act b = none → exec (.barArrive o) s = .next s')) ∧
      (Issues s (siteOf (.barWait o)) f units →
        ((∀ c ∈ act, b.lead.getD c.idx 0 = 0) →
          exec (.barWait o) s = .next (putFiring (acquired s' b) (advance f units 4))) ∧
        ((∃ c ∈ act, b.lead.getD c.idx 0 ≠ 0) → exec (.barWait o) s = .next s')) ∧
      (Issues s (siteOf (.barSync o)) f units → (∀ c ∈ f.cores, ∀ p, c.busy ≠ .arrived p) →
        ∀ b' l, arrivals s' o f units act b = some (b', l) →
        let f' := l.foldl (fun f e => updCore f e.1.idx fun c => { c with busy := .arrived (e.2.setWidth 2) }) f
        ((∃ c ∈ act, b'.lead.getD c.idx 0 ≠ 0) → exec (.barSync o) s = .next (putFiring (put b') f')) ∧
        let rest := f'.cores.map fun c => if act.any (fun k => k.idx == c.idx) then { c with busy := .none } else c
        ((∀ c ∈ act, b'.lead.getD c.idx 0 = 0) → exec (.barSync o) s = .next (putFiring (acquired (put b') b')
          (advance (barWrite o { f' with cores := rest } l) units 4)))) ∧
      (Issues s (siteOf (.barQuery o)) f units → exec (.barQuery o) s = .next (putFiring s' (advance (barWrite o f
        (act.map fun c => (c, BitVec.ofNat 64 (b.lead.getD c.idx 0 * 2 ^ 40 + b.n * 2 ^ 32 + b.phase.toNat * 2 ^ 24 +
          b.counts.2.2 * 2 ^ 16 + b.counts.2.1 * 2 ^ 8 + b.counts.1)))) units 4)))

/-! ### Engines and tile tasks -/

/-- An engine instruction issues one command for each selected core, in ascending order up to the first that waits, and goes
on when all are issued. A full inbox holds a command at issue, and so do `occp` at 255, its range locks and its cores'
accesses, before its unit checks it; one that fails a check is rejected with a handle of serial 0; an accepted one stands in
its unit's inbox, holds its range locks, and takes the cluster's next serial, which its handle shows (R260, R261, R316 to
R320). Of the model: log 19, 66, 70, 72, 114. -/
def Obligations.EngineCommandsIssue : Prop :=
  let eng (i : OpE → Instr) (image : List Byte → Bool) (maj fn blk : Nat) : Prop :=
    ∀ s f units o, Issues s (siteOf (i o)) f units →
      let uni := o.o.k == 1
      let act := (if uni then units.take 1 else units).filter fun c => takes (fileOf f units uni c) o.o.pr
      let issue (s : State) (f : Firing) (c : Core) : Issue := issueCmd image s f (mkCmd s f units uni c o maj fn blk)
      let r := issueEach issue uni o.o.d.toNat (act.filter fun c => c.busy != .issued) (putFiring s f) f
      let waits (k : Core) : Bool := act.any (fun c => c.idx == k.idx) && k.busy != .issued
      let cores := r.2.cores.map fun k => if k.busy = .issued then { k with busy := .none } else k
      ((∃ k ∈ r.2.cores, waits k = true) → exec (i o) s = .next (putFiring r.1 r.2)) ∧
      ((∀ k ∈ r.2.cores, waits k = false) →
        exec (i o) s = .next (putFiring r.1 (advance { r.2 with cores := cores } units 8))) ∧
      (act = [] → (∀ k ∈ f.cores, k.busy = .none) → exec (i o) s = .next (afterWord s f f units 8)) ∧
      ∀ c s2 h, act = [c] → (∀ k ∈ f.cores, k.busy = .none) → issue (putFiring s f) f c = .done s2 h →
        exec (i o) s = .next (putFiring (clearFailed s2 (.core f.clus c.idx))
          (advance (writeD f uni c.idx o.o.d.toNat h) units 8))
  let any : List Byte → Bool := fun _ => true
  eng .copyCp any 0x41 0 6 ∧ eng .copyFill any 0x41 1 5 ∧ eng .copyChan any 0x41 2 6 ∧
  eng .gatherG any 0x43 0 6 ∧ eng .gatherS any 0x43 1 6 ∧ eng .twalkLd any 0x45 0 6 ∧ eng .twalkWb any 0x45 1 6 ∧
  eng .nbmvMv any 0x47 0 7 ∧ eng .attnBlk any 0x49 0 8 ∧ eng .attnMrg any 0x49 1 4 ∧
  eng .sampleHist any 0x4B 0 10 ∧ eng .sampleThr any 0x4B 1 9 ∧ eng .sampleMass any 0x4B 2 10 ∧
  eng .sampleDraw any 0x4B 3 9 ∧ eng .textNorm any 0x4D 0 7 ∧ eng .textTbl imageOk 0x4D 1 6 ∧
  ∀ image s f (m : Cmd),
    let room := (s.eng.cmds.countP fun k => k.unit == m.unit && k.uidx == m.uidx && !(resting s k)) < (unitOf m.maj).2 ∧
      (∀ i ∈ m.cores, occp s f { idx := i } < 255) ∧ mustWait s m = false
    (¬room → issueCmd image s f m = .waits) ∧
    (room → ∀ n, cmdCheck s m = some n → issueCmd image s f m = .done (rejectCmd s m n) (handleOf 0 m.unit m.c)) ∧
    (room → cmdCheck s m = none → ∀ s', lateCheck image s m = .ok s' false →
      issueCmd image s f m = .done (rejectCmd s m 8) (handleOf 0 m.unit m.c)) ∧
    (room → cmdCheck s m = none → ∀ s', lateCheck image s m = .ok s' true →
      let n := (lastSerial s m.c + 1) % 2 ^ 32
      ∃ s2, issueCmd image s f m = .done s2 (handleOf n m.unit m.c) ∧
        s2.eng.cmds = s.eng.cmds ++ [{ m with id := s.nextId, serial := n }] ∧ lastSerial s2 m.c = n ∧
        s2.eng.locks = s.eng.locks ++ (declared m).map fun x =>
          { c := m.c, lo := x.ea.toNat, hi := x.ea.toNat + x.n, dst := x.dst, cmd := s.nextId })

/-- `copy.stat` reads a command's status word, or code 6 for a retired handle, or SHAPE for one of serial 0; `copy.rsm` lets a
parked command run on and `copy.abrt` ends it with FAULT, both for the handler alone, else PRIV (R318, R323, R325). VSTOP
makes a task's current version final, once no publication of it is under way, and VWAIT waits for a version, finality or a
settle group, and acquires on its return (R305, R312, R315, R329). Of the model: log 66, 71. -/
def Obligations.HandlesAnswer : Prop :=
  let copy (i : OpE → Instr) (priv : Bool) (act : State → Firing → Word → State × Word) : Prop :=
    ∀ s f units o, Issues s (siteOf (i o)) f units →
      let uni := o.o.k == 1
      let sel := (if uni then units.take 1 else units).filter fun c => takes (fileOf f units uni c) o.o.pr
      let go (st : State × Firing) (c : Core) : State × Firing :=
        let r := act st.1 f (getS (fileOf f units uni c) o.o.a.toNat)
        (r.1, writeD st.2 uni c.idx o.o.d.toNat r.2)
      let r := sel.foldl go (putFiring s f, f)
      (priv = true → sel ≠ [] → isHandler (putFiring s f) f = false →
        exec (i o) s = .next (afterTrap s f { core := lowest sel, cause := 0x03 } (siteOf (i o)))) ∧
      ((priv = false ∨ isHandler (putFiring s f) f = true ∨ sel = []) →
        exec (i o) s = .next (putFiring r.1 (advance r.2 units 8)))
  let wait (i : OpX → Instr) (g : OpX → State → Firing → Word → WaitRes) : Prop :=
    ∀ s f units o, Issues s (siteOf (i o)) f units →
      let uni := o.o.k == 1
      let sel := (if uni then units.take 1 else units).filter fun c => takes (fileOf f units uni c) o.o.pr
      let answers := waitAll (fun s c => g o s f (getS (fileOf f units uni c) o.o.a.toNat)) sel (putFiring s f)
      (answers = none → exec (i o) s = .next (putFiring s f)) ∧
      ∀ s' l, answers = some (s', l) →
        let go (st : State × Firing) (e : Core × Word × Nat) : State × Firing :=
          (raisePts st.1 f.clus (if uni then units.map fun k => k.idx else [e.1.idx]) e.2.2,
            writeD st.2 uni e.1.idx o.o.d.toNat e.2.1)
        let r := l.foldl go (s', f)
        exec (i o) s = .next (putFiring (sweep r.1) (advance r.2 units 8))
  let status (s : State) (f : Firing) (h : Word) : State × Word := match cmdNamed s f.tenant h with
    | some m => (s, liveStatus m)
    | none => if h.toNat / 2 ^ 16 % 2 ^ 32 = 0 ∧ h.getLsbD 63 = false then rejectedStatus s f.tenant h else (s, retiredStatus)
  copy .copyStat false status ∧
  copy .copyRsm true (fun s f h => match parkedNamed s f.tenant h with
    | none => status s f h
    | some m =>
      let m := { m with code := if m.begun then 1 else 0, cause := 0 }
      (putCmd s m, liveStatus m)) ∧
  copy .copyAbrt true (fun s f h => match parkedNamed s f.tenant h with
    | none => status s f h
    | some m => (faultCmd s m m.cause, endStatus m 5 m.cause)) ∧
  (∀ s f units (o : OpX), Issues s (siteOf (.vstopCur o)) f units →
    let uni := o.o.k == 1
    let sel := (if uni then units.take 1 else units).filter fun c => takes (fileOf f units uni c) o.o.pr
    let handle (c : Core) : Word := getS (fileOf f units uni c) o.o.a.toNat
    let go (st : State × Firing) (c : Core) : State × Firing :=
      let r := stopHandle st.1 f.tenant (handle c)
      (r.1, writeD st.2 uni c.idx o.o.d.toNat r.2)
    let r := sel.foldl go (putFiring s f, f)
    ((∃ c ∈ sel, publishing (putFiring s f) f.tenant (handle c) = true) → exec (.vstopCur o) s = .next (putFiring s f)) ∧
    ((∀ c ∈ sel, publishing (putFiring s f) f.tenant (handle c) = false) →
      exec (.vstopCur o) s = .next (putFiring r.1 (advance r.2 units 8)))) ∧
  wait .vwaitVer (fun o s f h => waitHandle s f.tenant h fun ver fin => fin || decide (o.imm.toNat % 16 ≤ ver)) ∧
  wait .vwaitFin (fun _ s f h => waitHandle s f.tenant h fun _ fin => fin) ∧
  wait .vwaitSet (fun o s f _ => waitSettled s f.launch (sectorOf f.clus) (o.imm.toNat % 4096)) ∧
  wait .vwaitSets (fun o s f h => waitSettled s f.launch (h.toNat % 64) (o.imm.toNat % 4096)) ∧
  wait .vwaitPoll (fun _ s f h => waitHandle s f.tenant h fun _ _ => true)

/-- A unit starts the oldest command of its inbox and reads its guard word; a command completes when all its granules and its
status write have performed; a translation fault parks it, another fault ends it with FAULT, and under pre-emption it stops
at a multiple of 2^sg granules; a refining NBMV command publishes its first version (R262, R316, R321 to R324, R329). Of the
model: log 52, 54, 55, 58. -/
def Obligations.EngineCommandsRun : Prop :=
  ∀ s id (m : Cmd), cmdOf s id = some m →
    let taken (s : State) (n : Nat) (skip : Bool) : Cmd :=
      { m with begun := true, count := n, skip := skip, code := 1, tables := if m.maj = 0x47 then s.eng.nbTables else [] }
    (m.code = 0 → startsBehind s m = false → (tenantOf s m.tenant).preempt.contains m.c = false → enginesHeld s m = false →
      engineFenced s m.c m.cores m.id = false →
      (m.e.guard = 0 → exec (.engineCommandStart id) s = .next (putCmd s (taken s (cmdCount m) m.skip))) ∧
      (∀ s' bytes, m.e.guard ≠ 0 → unitRead (cmdMaster m) 30 0 s m.guard 4 = .ok s' bytes →
        exec (.engineCommandStart id) s =
          .next (putCmd s' (taken s' (min (ofBytes bytes) (cmdCount m)) (ofBytes bytes == 0))))) ∧
    (m.code = 1 → enginesHeld s m = false → (m.maj = 0x47 → m.e.ver ≠ 1 ∧ m.haltAt ≠ s.clk + 1) →
      (tenantOf s m.tenant).preempt.contains m.c = false → ∀ s' m', finishCmd s m = .ok s' m' →
      exec (.engineCommandComplete id) s = .next (endCmd
        (if m.maj = 0x47 ∧ m'.ver ≠ m.ver then nbNotice s' m' (endStatus m' (if m'.skip then 3 else 2) 0) else s') m')) ∧
    (mayFault s m = true → ∀ c s' k, nextFault s m = some (c, s', k) →
      (parks c = true → exec (.enginePark id) s = .next (parkCmd s' { k with ver := m.ver } c)) ∧
      (parks c = false → exec (.engineCommandFault id c) s = .next (faultCmd s m c))) ∧
    (m.code = 1 → m.stopped = false → hasGranules m = true → (tenantOf s m.tenant).preempt.contains m.c = true →
      progOf m % 2 ^ m.e.sg.toNat = 0 → m.outs = [] →
      exec (.enginePreemptStop id) s = .next (putCmd s { m with stopped := true })) ∧
    (m.code = 1 → m.maj = 0x47 → m.e.ver = 1 → m.ver = 0 → m.skip = false → enginesHeld s m = false →
      m.haltAt ≠ s.clk + 1 → ∀ s' m', firstVersion s m = .ok s' m' →
      exec (.nbmvPublish id) s = .next (sweep (observeCmd (putCmd (nbNotice s' m' (liveStatus m')) m') m')))

/-- TASK and CBLD submit a record for each selected core, which holds issue until the scheduler accepts it; at acceptance a
record that fails a check is rejected with serial 0, a SHAPE record and a failed launch, and another takes the sector's next
serial and lowest free entry; a codebook word of a tenant that did not accept CBW traps ILL (R289 to R291, R294, R313, R408).
Of the model: log 66, 70, 72, 128. -/
def Obligations.TasksSubmit : Prop :=
  let task (i : OpE → Instr) (fn blk : Nat) (cbld : Bool) : Prop :=
    ∀ s f units o, Issues s (siteOf (i o)) f units →
      let uni := o.o.k == 1
      let act := (if uni then units.take 1 else units).filter fun c => takes (fileOf f units uni c) o.o.pr
      let r := submitEach (fun s f c => submitTask s f units uni o fn blk cbld c) (act.filter fun c => c.busy != .issued)
        (putFiring s f) f
      let waits (k : Core) : Bool := act.any (fun c => c.idx == k.idx) && k.busy != .issued
      let cores := r.2.cores.map fun k => if k.busy = .issued then { k with busy := .none } else k
      (codebookBarred s f.tenant o cbld = true → exec (i o) s = trapAt (putFiring s f) f
        { core := lowest units, cause := 0x01 } (siteOf (i o))) ∧
      (codebookBarred s f.tenant o cbld = false →
        ((∃ k ∈ r.2.cores, waits k = true) → exec (i o) s = .next (putFiring r.1 r.2)) ∧
        ((∀ k ∈ r.2.cores, waits k = false) →
          exec (i o) s = .next (putFiring r.1 (advance { r.2 with cores := cores } units 8))))
  task .taskMma 0 9 false ∧ task .taskMmav 1 11 false ∧ task .taskEw 2 9 false ∧ task .taskRed 3 9 false ∧
  task .taskCvt 4 9 false ∧ task .taskTr 5 9 false ∧ task .cbldMe 0 2 true ∧ task .cbldNb 1 2 true ∧
  ∀ s k u f, s.tasks.subs[k]? = some u → firingOf s u.firing = some f →
    let t := taskFrom s f u
    (∀ n, taskCheck s t = some n →
      let rejects := putWhere (fun e => e.1 == (t.tenant, t.sec)) ((t.tenant, t.sec), n) s.tasks.rejects
      exec (.taskAccept k) s = .next (answerTask (failLaunch (taskRecord (setTasks s { s.tasks with rejects := rejects }) t
        (taskHandle 0 t.sec 0) n) t.launch) f u (taskHandle 0 t.sec 0))) ∧
    ∀ e, taskCheck s t = none → freeEntry s t.sec = some e → roomFor s t = true →
      let t' := { t with entry := e, renamed := needsTile s t }
      let s' := tickClock s t.clk (BitVec.ofNat 32 (taskReads t ++ taskWrites t).length)
      let serials := putWhere (fun k => k.1 == t.sec) (t.sec, taskSerial s u.sec + 1) s'.tasks.serials
      exec (.taskAccept k) s = .next (answerTask
        (setTasks s' { s'.tasks with tasks := s'.tasks.tasks ++ [t'], serials := serials }) f u
        (taskHandle (taskSerial s u.sec + 1) t.sec e))

/-- A task whose dependences are met fires on the free engine of the lowest-numbered cluster; its results are published,
or kept in a rename tile while older overlapping tasks stand; it fires again on a later publication of what it read; it
retires when final, acknowledged, and with no younger overlapping task that has still to fire; an operand's fault, or a
producer's, ends it with FAULT; an engine error moves it to another engine, and pre-emption stops it (R295, R296, R298, R303,
R304, R307, R308). Of the model: log 59, 61, 68. -/
def Obligations.TasksRun : Prop :=
  ∀ s id (t : Task), taskOf s id = some t →
    let free := engineFenced s t.c t.cores t.id = false
    (∀ cl s' t', free → t.cbld = false → t.firings = 0 → lostEngine t = false → freeEngine s t = some cl →
      wantsFiring s t = true → fireTask s t cl = .ok s' t' → t'.fin = false →
      exec (.taskIssue id) s = .next (putTask s' t')) ∧
    (∀ s1 s', free → t.cbld = true → tableReady s t = true → loadTable s t = .ok s1 s' →
      exec (.taskIssue id) s = .next s') ∧
    (∀ cl s' t', free → t.cbld = false → t.firings ≠ 0 → freeEngine s t = some cl → wantsFiring s t = true →
      fireTask s t cl = .ok s' t' → t'.fin = false → exec (.taskRefire id) s = .next (putTask s' t')) ∧
    (t.stopAt ≠ s.clk + 1 → readyOf s t = .pass →
      (heldAtD s t = true → exec (.taskPublish id) s = .next
        (putTask s { (passDone t).1 with tile := some (passDone t).2, renamed := true })) ∧
      (∀ s1 s2, heldAtD s t = false →
        publishRows s (passDone t).1 (passDone t).2.1 (passDone t).2.2.1 (passDone t).2.2.2 = .ok s1 s2 →
        exec (.taskPublish id) s = .next s2)) ∧
    (∀ v last rows s1 s2, t.stopAt ≠ s.clk + 1 → readyOf s t = .tile v last rows →
      publishRows s t v last rows = .ok s1 s2 → exec (.taskPublish id) s = .next s2) ∧
    (t.fin = true → t.notes = [] → (∀ k ∈ youngerTasks s t, k.fin = true ∨ tasksMeet t k = false ∨ k.firings ≠ 0) →
      exec (.taskRetire id) s =
        .next (setTasks s { s.tasks with tasks := (s.tasks.tasks.filter fun k => k.id != id).map (leaveTask t) })) ∧
    (t.fin = false → inheritsFault s t = true → exec (.taskFault id 0) s = .next (faultTask s t 0)) ∧
    (∀ s' cause, cause ≠ 0 → faultAt s t cause = some s' → exec (.taskFault id cause) s = .next (faultTask s' t cause)) ∧
    (∀ c, t.engine = some c → (∃ k ∈ sectorClusters s t.tenant t.sec, k ≠ c) → exec (.engineHwRerun id) s =
      .next (putTask s { t with engine := freeEngine s { t with shun := some c }, shun := some c, stopped := false })) ∧
    (∀ c, t.engine = some c → (∀ k ∈ sectorClusters s t.tenant t.sec, k = c) →
      exec (.engineHwRerun id) s = .next (faultTask s t 0x18)) ∧
    (∀ c, t.engine = some c → t.stopped = false → (tenantOf s t.tenant).preempt.contains c = true →
      exec (.taskPreemptStop id) s = .next (putTask s { t with stopped := true }))

/-! ### Fetching -/

/-- Words that are no instruction trap ILL at W0's address, and a failed fetch traps FETCH with its translation cause,
or UCE on a poisoned sector; an agent's word that is no instruction takes AILL and one that cannot be fetched takes
AFETCH, with the PC on the word (R74, R75, R80, R374). -/
def Obligations.FetchOutcomesTrap : Prop :=
  (∀ s c i f, s.cur = .core c i → firingAt s c i = some f →
    let units := actingCores f i
    let t (cause sub : Nat) (addr : Word) : TrapInfo := { core := lowest units, cause := cause, sub := sub, addr := addr }
    (∀ s' w0 w1, fetchAt s f (pcOf units) = (s', .words w0 w1) →
      exec (.illegalEncoding w0 w1) s = .next (trapFiring s' { f with issued := true } (t 0x01 0 0) w0 w1)) ∧
    ∀ s' addr sub w0, fetchAt s f (pcOf units) = (s', .failed addr sub w0) →
      exec (.instructionFetchFault addr sub w0) s = .next (trapFiring s' { f with issued := true }
        (if sub = 0x0D then t 0x0D 0 addr else t 0x02 sub addr) w0 0)) ∧
  ∀ s n k, s.cur = .agent n → slotOf s n = some k → k.st = .running →
    (∀ s' w, agentFetch s k = some (s', w) → agentLegal w = false →
      exec (.agentIllegalWord w) s = .next (agentTrap s k 1)) ∧
    (agentFetch s k = none → exec .agentFetchFault s = .next (agentTrap s k 2))

/-! ### The context level -/

/-- The context-level scalar words write a_x and go on: moves, arithmetic, logic, shifts by B[5:0], the low product, and
comparisons that give 1 or 0 (R376). The context-level control words: branches, calls and returns, whose misaligned
target takes AFETCH; loads and stores of agent memory, which take AMEM outside it; waits, signals, `a.yield`, `a.halt`,
`a.klaunch` and `a.fence` (R375, R376). Of the model: log 74. -/
def Obligations.AgentWordsAct : Prop :=
  (let cond (n : Nat) (a b : Word) : Bool :=
     if n = 0 then a == b else if n = 1 then a != b else if n = 2 then decide (a.toInt < b.toInt)
     else if n = 3 then decide (b.toInt ≤ a.toInt) else if n = 4 then decide (a.toNat < b.toNat)
     else decide (b.toNat ≤ a.toNat)
   SetsA .aMoviLo (fun _ => []) (fun o _ => o.imm.signExtend 64) ∧
   SetsA .aMoviHi (fun _ => []) (fun o k => o.imm ++ (k.a[o.x.toNat]).setWidth 32) ∧
   SetsA .aMoviZ (fun _ => []) (fun o _ => o.imm.setWidth 64) ∧
   SetsA .aMov (fun o => [o.y]) (fun o k => k.a[o.y.toNat]) ∧
   OperatesA .aAdd (fun _ a b => a + b) ∧ OperatesA .aSub (fun _ a b => a - b) ∧
   OperatesA .aAnd (fun _ a b => a &&& b) ∧ OperatesA .aOr (fun _ a b => a ||| b) ∧ OperatesA .aXor (fun _ a b => a ^^^ b) ∧
   OperatesA .aShl (fun _ a b => a <<< (b.toNat % 64)) ∧
   OperatesA .aShr (fun o a b => if o.m.getLsbD 1 then a.sshiftRight (b.toNat % 64) else a >>> (b.toNat % 64)) ∧
   OperatesA .aMul (fun _ a b => a * b) ∧
   OperatesA .aCmp (fun o a b => if cond (o.m.toNat / 2) a b then 1 else 0)) ∧
  let no : OpC → List (BitVec 4) := fun _ => []
  let y : OpC → List (BitVec 4) := fun o => [o.y]
  let x : OpC → List (BitVec 4) := fun o => [o.x]
  let on (s : State) (k : Slot) : State := putSlot s { k with pc := k.pc + 8 }
  RunsWord .aBr y no no (fun o s k =>
    if (if o.m.getLsbD 0 then k.a[o.y.toNat] = 0 else k.a[o.y.toNat] ≠ 0) then putSlot s { k with pc := o.imm } else on s k) ∧
  RunsWord .aJmp no no no (fun o s k => putSlot s { k with pc := o.imm }) ∧
  RunsWord .aCall no x no (fun o s k =>
    putSlot s { k with a := k.a.set o.x.toNat ((k.pc + 8).setWidth 64), pc := o.imm }) ∧
  RunsWord .aRet y no no (fun o s k =>
    let t : W32 := (k.a[o.y.toNat]).setWidth 32
    if t.toNat % 8 = 0 then putSlot s { k with pc := t } else agentTrap s k 2) ∧
  RunsWord .aYield no no no (fun _ => on) ∧
  RunsWord .aFence no no no (fun _ s k => if resultsOwed k then s else on s k) ∧
  RunsWord .aWaitPend y no no (fun _ => on) ∧
  RunsWord .aWaitAll no no no (fun _ s k => if k.pend = 0 then on s k else s) ∧
  RunsWord .aWaitSig y x no (fun o s k =>
    let got := k.sig &&& k.a[o.y.toNat]
    if got = 0 then s
    else putSlot s { k with sig := k.sig &&& ~~~got, a := k.a.set o.x.toNat got, pc := k.pc + 8 }) ∧
  RunsWord .aSigSlot (fun o => [o.y, o.z]) no no (fun o s k =>
    let n := (k.a[o.y.toNat]).toNat % 65536
    if slotTenant s n = some k.tenant then
      let t := slotAt (on s k) n
      putSlot (on s k) { t with sig := t.sig ||| k.a[o.z.toNat] }
    else agentTrap s k 5) ∧
  RunsWord .aSigHost y no no (fun o s k =>
    sendMsix (putSlot s { k with hmsg := k.a[o.y.toNat], pc := k.pc + 8 }) k.tenant 1) ∧
  RunsWord .aHalt y no no (fun o s k =>
    if k.pend = 0 then dropCtxs (putSlot s { k with cause := (k.a[o.y.toNat]).setWidth 32, st := .halted }) k.num k.tenant
      fun _ => true
    else s) ∧
  RunsWord .aKlaunch y x no (fun o s k =>
    let off := k.a[o.y.toNat]
    if off.toNat + 160 ≤ 65536 ∧ off.toNat % 32 = 0 ∧ amRead s k off 160 ≠ none
    then putSlot s { k with klaunch := some (o.x.toNat, k.ramem + off) } else agentTrap s k 4) ∧
  ∀ s k (o : OpC), let off := k.a[o.y.toNat] + o.imm.signExtend 64
    let n := 2 ^ o.m.toNat
    let inside := off.toNat + n ≤ 65536 ∧ off.toNat % n = 0
    (AgentIssues s k [o.y] [o.x] [] →
      (¬inside → exec (.aLd o) s = .next (agentTrap s k 4)) ∧
      (inside → ∀ e, partKey s k.tenant (k.ramem + off) .rd = .error e → exec (.aLd o) s = .next (agentTrap s k 4)) ∧
      (inside → ∀ key, partKey s k.tenant (k.ramem + off) .rd = .ok key → served s .sys key n = true →
        exec (.aLd o) s = .next (putSlot (partWord s key n 0).1
          { k with a := k.a.set o.x.toNat (BitVec.ofNat 64 (partWord s key n 0).2), pc := k.pc + 8 }))) ∧
    (AgentIssues s k [o.x, o.y] [] [] →
      (¬inside → exec (.aSt o) s = .next (agentTrap s k 4)) ∧
      (inside → ∀ e, partKey s k.tenant (k.ramem + off) .wr = .error e → exec (.aSt o) s = .next (agentTrap s k 4)) ∧
      (inside → ∀ key, partKey s k.tenant (k.ramem + off) .wr = .ok key → exec (.aSt o) s =
        .next (putSlot (partPut s key n ((k.a[o.x.toNat]).toNat % 2 ^ (8 * n)) 0) { k with pc := k.pc + 8 })))

/-- The context-management words make, share, drop, trim, read, hint, pin, bind and constrain contexts, with the statuses of
R356; an empty or occupied register takes ACTX, and a range outside agent memory AMEM (R357 to R369). Of the model: log 75,
76, 125. -/
def Obligations.ContextWordsManage : Prop :=
  let no : OpC → List (BitVec 4) := fun _ => []
  let on (s : State) (k : Slot) : State := putSlot s { k with pc := k.pc + 8 }
  let held (r : BitVec 4) (g : State → Slot → Ctx → State) (s : State) (k : Slot) : State :=
    match ctxOf s k.num r.toNat with
    | none => agentTrap s k 3
    | some c => g s k c
  RunsWord .cNew (fun o => [o.y]) no (fun o => [o.x]) (fun o s k =>
    if ctxOf s k.num o.x.toNat = none then on (putCtx s
      { slot := k.num, reg := o.x.toNat, tenant := k.tenant, key := (k.a[o.y.toNat]).setWidth 32 }) k
    else agentTrap s k 3) ∧
  RunsWord .cFork (fun o => [o.z]) no (fun o => [o.x, o.y]) (fun o => held o.y fun s k c =>
    if ctxOf s k.num o.x.toNat = none then on (putCtx s
      { c with reg := o.x.toNat, key := (k.a[o.z.toNat]).setWidth 32, pinned := false, hint := none, prog := none }) k
    else agentTrap s k 3) ∧
  RunsWord .cDrop no no (fun o => [o.x]) (fun o s k => dropCtxs (on s k) k.num k.tenant fun r => r == o.x.toNat) ∧
  RunsWord .cTrim (fun o => [o.z]) (fun o => [o.x]) (fun o => [o.y]) (fun o => held o.y fun s k c =>
    let n := (k.a[o.z.toNat]).toNat
    let c' := cutCtx c.block c (if c.bytes.length ≤ n then c.entries else entriesWithin n 0 c.entries)
    answered (sweepPages (putCtx s c') k.tenant) k o (BitVec.ofNat 64 c'.bytes.length)) ∧
  RunsWord .cLen no (fun o => [o.x]) (fun o => [o.y]) (fun o => held o.y fun s k c =>
    answered s k o (if o.m = 0 then BitVec.ofNat 64 c.bytes.length else if o.m = 1 then BitVec.ofNat 64 c.entries.length
      else stateWord s c)) ∧
  RunsWord .cRead (fun o => [o.z, o.w]) (fun o => [o.x]) (fun o => [o.y]) (fun o => held o.y fun s k c =>
    let bytes := (c.bytes.drop (k.a[o.z.toNat]).toNat).take o.imm.toNat
    if (k.a[o.w.toNat]).toNat + o.imm.toNat ≤ 65536 then match amWrite s k k.a[o.w.toNat] bytes with
      | none => agentTrap s k 4
      | some s => answered s k o (BitVec.ofNat 64 bytes.length)
    else agentTrap s k 4) ∧
  RunsWord .cHint (fun o => [o.y]) no (fun o => [o.x]) (fun o => held o.x fun s k c =>
    let h : W32 := (k.a[o.y.toNat]).setWidth 32
    on (putCtx s { c with hint := if h = 0 then none else some h }) k) ∧
  RunsWord .cUnpin no no (fun o => [o.x]) (fun o s k => match ctxOf s k.num o.x.toNat with
    | none => on s k
    | some c => on (putCtx s { c with pinned := false }) k) ∧
  RunsWord .cPin no (fun o => [o.x]) (fun o => [o.y]) (fun o => held o.y fun s k c =>
    let s' := putCtx s { c with pinned := true }
    if c.poisoned then answered s k o 4
    else if c.pinned = true ∨ c.bound = none ∨ c.blocks = [] then answered s' k o 0
    else if 3 * (tenantOf s k.tenant).poolfr.toNat < 4 * (pinnedPages s' k.tenant).length then answered s k o 5
    else if pinFits s' k.tenant = false then answered s k o 6
    else
      let s' := (pagesOf c.blocks).foldl (fun s n => cancelTwilight s k.tenant n) s'
      if allResident s' c then answered s' k o 0
      else on (setCtx s' { s'.ctx with
        pins := s'.ctx.pins ++ [{ slot := k.num, reg := o.y.toNat, dest := o.x.toNat }] }) k) ∧
  RunsWord .cProg (fun o => [o.z]) (fun o => [o.x]) (fun o => [o.y]) (fun o => held o.y fun s k c =>
    let off := k.a[o.z.toNat]
    if off.toNat + 64 ≤ 65536 ∧ off.toNat % 8 = 0 then
      match amWrite s k off ((c.prog.map progBytes).getD (List.replicate 64 0)) with
      | none => agentTrap s k 4
      | some s => answered s k o (BitVec.ofNat 64 ((c.prog.map fun p => p.status).getD 0))
    else agentTrap s k 4) ∧
  RunsWord .cBind (fun o => [o.z]) (fun o => [o.x]) (fun o => [o.y]) (fun o => held o.y fun s k c =>
    let n := (k.a[o.z.toNat]).toNat
    if c.poisoned then answered s k o 4
    else match modelOf s k.tenant n with
      | none => answered s k o 2
      | some m =>
        if accepted s k.tenant 5 = false then answered s k o 2
        else if c.bytes ≠ [] ∧ c.bound ≠ none ∧ c.bound ≠ some n then answered s k o 3
        else
          let c' := { c with bound := some m.num, homeSet := m.homeSet }
          answered (putCtx s (if c.entries = [] then { c' with block := m.block, ppb := m.ppb } else c')) k o 0) ∧
  RunsWord .cGram (fun o => [o.z]) (fun o => [o.x]) (fun o => [o.y]) (fun o => held o.y fun s k c =>
    let g := (k.a[o.z.toNat]).toNat % 65536
    let off := o.imm.toNat % 65536
    let units := o.imm.toNat / 65536
    if g = 0xFFFF ∧ o.imm ≠ 0 then agentTrap s k 1
    else if g ≠ 0xFFFF ∧ (units = 0 ∨ 1024 < units ∨ 65536 < off + 64 * units ∨ off % 8 ≠ 0) then agentTrap s k 4
    else if c.poisoned then answered s k o 4
    else match boundModel s c with
      | none => answered s k o 1
      | some m =>
        if g = 0xFFFF then answered (putCtx s { c with gram := none }) k o 0
        else if m.grams.length ≤ g then answered s k o 7
        else answered (putCtx s { c with gram := some { num := g, off := off, units := units } }) k o 0) ∧
  RunsWord .cSamp (fun o => [o.y]) (fun o => [o.x]) no (fun o s k =>
    let off := k.a[o.y.toNat]
    if off.toNat + 32 ≤ 65536 ∧ off.toNat % 8 = 0 then if amServed s k off 32 = false then s else match amRead s k off 32 with
      | none => agentTrap s k 4
      | some (s, bytes) =>
        if sampOk (sampOf bytes) then answered (putSlot s { k with samp := sampOf bytes }) k o 0 else answered s k o 8
    else agentTrap s k 4)

/-- The five long instructions begin on a bound context that holds no long instruction: their operands, a stop list among
them, are read at issue, once no release there waits, a_x is pending, and they run on from their first boundary; a poisoned context ends `c.gen` with PAGE_INTEGRITY
and an unbound one with UNBOUND at once (R354, R373, R382). Of the model: log 73, 76. -/
def Obligations.LongInstructionsBegin : Prop :=
  ∀ s k (o : OpC) c, k.long = none → ctxOf s k.num o.y.toNat = some c →
    let l (op : Nat) : Long := freshLong o op k c
    let issues (rd cs : List (BitVec 4)) : Prop := AgentIssues s k rd [o.x] cs
    let w := (k.a[o.w.toNat]).toNat
    let z := (k.a[o.z.toNat]).toNat
    let zw := issues [o.z, o.w] [o.y]
    let ended (s' : State) (op n : Nat) : State := endLong (putLong (putSlot s' (pastWord
      { k with pend := k.pend ||| ((1 : BitVec 16) <<< o.x.toNat), long := some (l op) })) k.num (l op)) k.num (l op) n
    let operand (off : Word) (n : Nat) (s' : State) (bytes : List Byte) : Prop :=
      amServed s k off n = true ∧ amRead s k off n = some (s', bytes)
    let reads (want : Bool) (s' : State) (stops : List (List Byte)) : Prop :=
      if want then o.imm.toNat < 65536 ∧ o.imm.toNat % 8 = 0 ∧ ∃ bytes,
        operand (o.imm.setWidth 64) (min 512 (65536 - o.imm.toNat)) s' bytes ∧
        let n := (bytes.getD 0 0).toNat
        1 ≤ n ∧ n ≤ 16 ∧ parseStops n (bytes.drop 1) = .ok (some stops)
      else s' = s ∧ stops = []
    (∀ s' stops, c.poisoned = true → issues [o.z] [o.y] → reads (o.m.getLsbD 0) s' stops →
      exec (.cGen o) s = .next (ended s' 0x61 0x44)) ∧
    (∀ s' stops, c.poisoned = false → issues [o.z] [o.y] → reads (o.m.getLsbD 0) s' stops → boundModel s' c = none →
      exec (.cGen o) s = .next (ended s' 0x61 1)) ∧
    (zw → 1 ≤ w → w ≤ 65536 → z + w ≤ 65536 → amServed s k k.a[o.z.toNat] w = false →
      exec (.cApp o) s = .next s ∧ exec (.cScore o) s = .next s) ∧
    (c.poisoned = false → ∀ s' m, boundModel s' c = some m →
      (∀ bytes, zw → 1 ≤ w → w ≤ 65536 → z + w ≤ 65536 → operand k.a[o.z.toNat] w s' bytes → bytes ≠ [] →
        (o.m.getLsbD 2 = true → exec (.cApp o) s = .next (begun s' k o
          { l 0x60 with data := bytes, prog := { (l 0x60).prog with limit := bytes.length } })) ∧
        (o.m.getLsbD 2 = false →
          let out := (normText (textSet s' k.tenant (o.m.toNat % 4)) (o.m.getLsbD 3) (2 ^ 24) bytes).1
          exec (.cApp o) s = .next (begun s' k o
            { l 0x60 with data := out, prog := { (l 0x60).prog with limit := out.length } })) ∧
        (ctxFull c = false → resultOk s' k o 8 = true →
          let prog := { (l 0x62).prog with limit := if o.m.getLsbD 0 then w else 0 }
          exec (.cScore o) s = .next (begun s' k o { l 0x62 with data := bytes, used := [(0, 0)], sums := [none], prog := prog }))) ∧
      (∀ stops, issues [o.z] [o.y] → reads (o.m.getLsbD 0) s' stops → ctxFull c = false → 1 ≤ z → z ≤ 2 ^ 24 →
        exec (.cGen o) s = .next (begun s' k o { l 0x61 with stops := stops, prog := { (l 0x61).prog with limit := z } })) ∧
      (∀ s1 table alts, zw → 2 ≤ w → w ≤ 64 → z + 8 * w ≤ 65536 → z % 8 = 0 → operand k.a[o.z.toNat] (8 * w) s1 table →
        readAlts k ((List.range w).map fun j =>
          (ofBytes ((table.drop (8 * j)).take 4), ofBytes ((table.drop (8 * j + 4)).take 4))) s1 = .ok (s', some alts) →
        resultOk s' k o (4 + 4 * w) = true → ctxFull c = false → exec (.cChoose o) s = .next (begun s' k o
          { l 0x63 with alts := alts, used := alts.map fun _ => (0, 0), sums := alts.map fun _ => none })) ∧
      (∀ stops d, issues [o.w] [o.y, o.z] → reads (o.m.getLsbD 6) s' stops → ctxOf s k.num o.z.toNat = some d →
        d.poisoned = false → boundModel s' d ≠ none → d.bound ≠ c.bound → ctxFull c = false → ctxFull d = false → 1 ≤ w →
        w ≤ 2 ^ 24 →
        exec (.cSpec o) s = .next (begun s' k o { l 0x64 with stops := stops, prog := { (l 0x64).prog with limit := w } })))

/-! ### Launches -/

/-- A ready tenant's launches are accepted in queue order, or from `supl` or an agent: an accepted entry advances
lqhead, one that names no record is skipped and counted, and `supl` waits while a supervisor runs, and is taken up where a
record before it is rejected; a held launch
proceeds once its after word is nonzero and its counts are read; a level instance takes context with all that it needs
on its cluster, a barrier group, and a place for each of its actors; a finished repeat instance gives its slots back; a
launch whose work has ended and performed writes its status word, which carries the timestamps of its writes (R19, R20, R23,
R24, R182, R266, R407, R409). Of the model: log 35, 43, 45, 46. -/
def Obligations.LaunchesRun : Prop :=
  (∀ s v, let t := tenantOf s v
    (∀ val, t.vstate ≠ 2 → exec (.suplWrite v val) s = .next s) ∧
    (∀ tail, t.vstate ≠ 2 → exec (.lqDoorbell v tail) s = .next s) ∧
    (t.vstate = 2 →
      (∀ val, exec (.suplWrite v val) s = .next (putTenant s v
        (if t.suplLaunch = none ∧ t.supl = none then { t with supl := some val } else { t with suplHeld := some val }))) ∧
      (∀ tail, exec (.lqDoorbell v tail) s =
        .next (if (tail - t.lqhead).toNat ≤ 2 ^ t.lqlog.toNat then putTenant s v { t with lqtail := tail } else s)) ∧
      (let entry := t.lqbase + BitVec.ofNat 64 (8 * (t.lqhead.toNat % 2 ^ t.lqlog.toNat))
       (t.lqhead ≠ t.lqtail → t.supl = none → partServed s v entry 8 = false →
          exec (.launchAccept v .queue) s = .next s) ∧
       ∀ s1 bytes, t.lqhead ≠ t.lqtail → t.supl = none → partServed s v entry 8 = true →
        partRead s v entry 8 = .ok (s1, bytes) →
        let va := BitVec.ofNat 64 (ofBytes bytes)
        let past (s : State) : Tenant := { tenantOf s v with lqhead := (tenantOf s v).lqhead + 1 }
        ((va.toNat % 32 ≠ 0 ∨ spaceOf va ≠ 0) → exec (.launchAccept v .queue) s =
          .next (putTenant s1 v { past s1 with lqerr := (tenantOf s1 v).lqerr + 1 })) ∧
        ∀ s2 id, va.toNat % 32 = 0 → spaceOf va = 0 → acceptRecord s1 v va .queue = (s2, .accepted id) →
          exec (.launchAccept v .queue) s = .next (putTenant s2 v (past s2))) ∧
      (∀ va s1 id, t.supl = some va → acceptRecord s v va .supl = (s1, .accepted id) → exec (.launchAccept v .supl) s =
        .next (putTenant s1 v { tenantOf s1 v with supl := none, suplLaunch := some id })) ∧
      (∀ va s1 a, t.supl = some va → acceptRecord s v va .supl = (s1, a) → (a = .rejected ∨ ∃ n, a = .unreportable n) → exec (.launchAccept v .supl) s =
        .next (putTenant s1 v { tenantOf s1 v with supl := (tenantOf s1 v).suplHeld, suplHeld := none })) ∧
      ∀ n k dest va s1 id k1, slotOf s n = some k → k.klaunch = some (dest, va) → k.tenant = v →
        acceptRecord s v va (.klaunch n dest) = (s1, .accepted id) → slotOf s1 n = some k1 →
        exec (.launchAccept v (.klaunch n)) s =
          .next (putSlot s1 { k1 with a := k1.a.setIfInBounds dest 0, pc := k1.pc + 8, klaunch := none }))) ∧
  (∀ s n k, launchOf s n = some k → k.held = true →
    let on (s : State) (counts : List Nat) : State :=
      putLaunch s { proceeding s n k with held := false, counts := counts, ts := s.hts }
    (∀ s1 counts, k.after = 0 → readCounts s k.tenant n k.levels = .ok (s1, some counts) →
      exec (.launchProceed n) s = .next (on s1 counts)) ∧
    ∀ s1 p s2 counts, k.after ≠ 0 → partLocate s k.tenant k.after .rd = (s1, .ok p) → (partWord s1 p.key 8 n).2 ≠ 0 →
      served s1 .sys p.key 8 = true → readCounts (partWord s1 p.key 8 n).1 k.tenant n k.levels = .ok (s2, some counts) →
      exec (.launchProceed n) s = .next (on s2 counts)) ∧
  (∀ s n path k, launchOf s n = some k → k.held = false →
    let mark (s : State) : State :=
      setLaunches s (s.launches.map fun x => if x.id == n then { x with taken := x.taken ++ [path] } else x)
    let actors := actorsAt k (path.length - 1)
    (∀ u c s1, pathReady k path = true → unitAt k.part (launchWidth k) k.levels path {} = some u →
      placeOf k.part u = some c → holdsCluster s k.tenant c = true → (tenantOf s k.tenant).leaving.contains c = false →
      isSaved s k.tenant c = false → othersOn s k.tenant c = false → s.cfg.fenced.contains c = false →
      (∀ e ∈ s.launches, e.tenant = k.tenant → e.id < n → e.held = false → hasOpen e (some c) = false) →
      takeOn c u k path actors (mark s) = some s1 → exec (.levelTakeContext n path) s = .next s1 ∧
        (∃ g ∈ s1.bars, g.clus = c ∧ g.launch = n) ∧
        ∀ a ∈ actors, ∃ x ∈ s1.insts, x.launch = n ∧ x.actor = a ∧ x.path = path ∧ x.clus = c) ∧
    (path ≠ [] → (k.levels.getD (path.length - 1) {}).dom = 6 → k.taken.contains path = true → isFinished k path = false →
      ((unitAt k.part (launchWidth k) k.levels path {}).any fun u =>
        openLevel k (launchWidth k) (fun _ _ => true) ((k.levels.zip k.counts).drop path.length) path u) = false →
      let mine (x : Inst) : Bool := x.launch == n && x.path.take path.length == path
      let ids := (s.insts.filter mine).map fun x => x.id
      (∀ x ∈ s.insts, mine x = true → quiescent x = true) →
      (∀ m ∈ s.transit, m.launch = n → ∀ x a, targetOf s m = .inst x a → mine x = false) →
      (∀ e ∈ s.inbox, e.2.inst ∉ ids) → (∀ m ∈ s.eng.cmds, m.inst ∉ ids) →
      (∀ t ∈ s.tasks.tasks, t.inst ∈ ids → t.fin = true) →
      exec (.repeatInstanceFinish n path) s = .next (putLaunch (setClosed (setInsts s (s.insts.filter fun x => !(mine x)))
        (s.closed.filter fun g => !(ids.contains g.inst))) { k with finished := k.finished ++ [path] })) ∧
    (hasOpen k none = false → (∀ x ∈ s.insts, x.launch = n → quiescent x = true) → (∀ f ∈ s.firings, f.launch ≠ n) →
      (∀ m ∈ s.transit, m.launch = n → m.kind = 4) → (∀ e ∈ s.inbox, e.2.launch = n → canFill s e = false) →
      (∀ m ∈ s.eng.cmds, m.launch ≠ n) → (∀ t ∈ s.tasks.tasks, t.launch = n → t.fin = true) →
      (∀ p ∈ s.pcores, ∀ a ∈ p.accs, a.launch = n → a.kind ≠ .fence → sysDone a = true) →
      exec (.launchComplete n) s = .next (endLaunch s k (if k.failed then 3 else 1)))) ∧
  ∀ s (k : Launch) code s1 p, isStep k.origin = false → partLocate s k.tenant k.done .wr = (s1, .ok p) → spaceOf k.done = 0 →
    endLaunch s k code =
      freeSupl (stepEnded (forgetLaunch (partPut s1 p.key 8 code k.wts) k.id) k.id (code != 1)) k.tenant k.id

/-! ### The actor scheduler -/

/-- The oldest eligible instance that can bind takes the lowest free sound group; after 4,096 clk a group is closed for the
one that starves; a commit takes effect, all in one act, once what it covers is Done; a firing at its limit, whose commit
takes no effect any more, traps WATCHDOG; a hardware error restarts the firing away from the core, or after a passed check on
it, or ends it as `end.fail`; a failed unit fences its cluster (R27, R28, R106 to R109, R281). Of the model: log 48, 49, 112,
129, 133, 138. -/
def Obligations.FiringsBindAndEnd : Prop :=
  (∀ s c x lead, (∀ y ∈ s.insts, y.clus = c → y.st = .eligible → noGroup s c (instWidth s y) = false) →
    oldestInst (s.insts.filter fun y => readyInst s c y && inputsQuiet s y && (bindLead s y).isSome) = some x →
    bindLead s x = some lead → exec (.firingBind c) s = .next (bindInst s x lead)) ∧
  (∀ s c x, x ∈ s.insts → x.clus = c → x.st = .eligible → noGroup s c (instWidth s x) = true →
    s.cfg.fenced.contains c = false → exec (.firingBind c) s = .next (fenceCluster s c)) ∧
  (∀ s c x lead, oldestInst (s.insts.filter (readyInst s c)) = some x → x.since + 4096 ≤ s.clk →
    (∀ g ∈ s.closed, g.inst ≠ x.id) → (leadsOf s x).find? (groupSound s x) = some lead → exec (.starvationClose c) s =
      .next (setClosed s (s.closed ++ [{ c := c, inst := x.id, lead := lead, width := instWidth s x }]))) ∧
  (∀ s c, s.cfg.fenced.contains c = false → exec (.clusterUnitFailure c) s = .next (sweep (fenceCluster s c))) ∧
  ∀ s n f, firingOf s n = some f →
    (f.ending = true → expired f = false → commitQuiet s f = true → sendsFit s f = true →
      exec (.commitTakeEffect n) s = .next (sweep (commitFiring s f))) ∧
    (f.issued = true → f.wdlimit ≤ f.wdcount →
      let k := stalledCore f
      let w := wordsAt s f k
      exec (.watchdogExpiry n) s = .next (sweep (trapFiring s f { core := k.idx, cause := 0x11 } w.1 w.2))) ∧
    ∀ core passes, (∃ k ∈ f.cores, k.idx = core) →
      let s1 := noteError s f.clus core
      let may := ((launchOf s1 f.launch).map fun l => l.rst).getD false = true ∧ (actorOf s1 f.launch f.actor).rst = true ∧
        f.attempt < 3
      (¬may → exec (.hardwareError n core passes) s = .next (sweep (hwFail s1 f core))) ∧
      ∀ x, may → instOf s1 f.inst = some x →
        let away := ∃ l ∈ leadsOf s1 x, groupSound s1 { x with avoid := some core } l = true
        (away → exec (.hardwareError n core passes) s = .next (sweep (restartFiring s1 f core true))) ∧
        (¬away → passes = true → inService s1 f.clus core = true →
          exec (.hardwareError n core passes) s = .next (sweep (restartFiring s1 f core false))) ∧
        (¬away → (passes = false ∨ inService s1 f.clus core = false) → exec (.hardwareError n core passes) s =
          .next (sweep (hwFail (putPcore s1 { pcoreAt s1 f.clus core with out := true }) f core)))

/-- The oldest record of a die and tenant, but for those of clusters whose state is saved, is written once the firing's
stores are Done and the ring has room; it takes the next place of the ring, is announced, and interrupts the function; a
write of `tresolve` resolves the held instance once the core's stores are Done; a message takes an entry of its inbox or is
dropped with an UNDELIV record and a failed launch, and the oldest one for a channel fills its first free slot (R172 to
R174, R274, R275, R280). Of the model: log 23, 29. -/
def Obligations.RecordsAndMessagesMove : Prop :=
  (∀ s die k r, s.records[k]? = some r → r.die = die →
    (∀ q ∈ s.records.take k, q.die = die → q.tenant = r.tenant → isSaved s q.tenant q.clus = true) →
    isSaved s r.tenant r.clus = false → storesDone s r.firing = true →
    let t := tenantOf s r.tenant
    t.trhead - t.trtail ≠ 1#64 <<< t.trlog.toNat →
    let s1 := setRecords s (s.records.eraseIdx k)
    let j := t.trhead.toNat % 2 ^ t.trlog.toNat
    let seq := t.trhead.toNat + 1
    (∀ e, partWrite s1 r.tenant (t.trbase + BitVec.ofNat 64 (64 * j)) (recordBytes r seq) = .error e →
      exec (.recordWrite die k) s = .next (loseRecord s1 r)) ∧
    ∀ s2, partWrite s1 r.tenant (t.trbase + BitVec.ofNat 64 (64 * j)) (recordBytes r seq) = .ok s2 →
      exec (.recordWrite die k) s = .next (sendMsix (holdInst (announce
        (putTenant s2 r.tenant { tenantOf s2 r.tenant with trhead := t.trhead + 1 }) r j) r seq) r.tenant 0)) ∧
  (∀ s c core f (k : Core) w, firingAt s c core = some f → f.cores.find? (fun k => k.idx == core) = some k →
    k.busy = .resolve w →
    (∀ a ∈ storesOf s c core, doneAt a 5 c core 0 8 = true) →
    (∀ u ∈ actingCores f core, ∀ w, u.idx < core → u.busy ≠ .resolve w) →
    let f1 := updCore f core fun k => { k with busy := .none }
    (∀ u ∈ actingCores f core, ∀ w, u.idx ≠ core → u.busy ≠ .resolve w) →
    exec (.tresolveWrite c core) s = .next (resolveWrite (putFiring s (advance f1 (actingCores f core) 4)) f.tenant w
      (maxPts s c [core]) (((storesOf s c core).map fun a => a.id) ++ owedTo s c [core] |>.filter (unfinished s)))) ∧
  (∀ s k m, s.transit[k]? = some m → heldBack (s.transit.take k) m = false → isSaved s m.tenant (maClus m.addr) = false →
    let s1 := setTransit s (s.transit.eraseIdx k)
    (targetOf s m = .none → exec (.messageDeliver k) s = .next (dropMessage s1 m)) ∧
    ∀ x a, targetOf s m = .inst x a →
      (portTakes s x a m = false → exec (.messageDeliver k) s = .next (dropMessage s1 m)) ∧
      (portTakes s x a m = true →
        (s.inbox.countP fun e => e.1 == maClus m.addr && !(isSaved s e.2.tenant (maClus m.addr))) < 256 →
        exec (.messageDeliver k) s = .next (setInbox s1 (s.inbox ++ [(maClus m.addr, { m with inst := x.id })])))) ∧
  ∀ s c k m n ch j rest, s.inbox[k]? = some (c, m) →
    let port (m : Msg) : Option Nat :=
      if maPort m.addr < 8 then ((actorOf s m.launch (maActor m.addr)).ins[maPort m.addr]?).map fun r => r.1 else none
    port m = some n → chanAt s c m.launch n = some ch → ch.free = j :: rest → isSaved s m.tenant c = false →
    (∀ e ∈ s.inbox.take k, e.1 = c → e.2.launch = m.launch → port e.2 ≠ some n) →
    exec (.messageFillSlot c k) s = .next (fillSlot (setInbox s (s.inbox.eraseIdx k)) c ch j m)

/-! ### Start-up, tenants and pre-emption -/

/-- Power and training make the part ready and the PF a function that configures; the part-status error bit is cleared
by a write of 1; an enabled VF configures with its credibility at 0; a `ready` tenant whose configuration passes becomes
ready, else it has failed; a reset of a function puts it back to configuring (R400, R401, R406, R407, R410). Of the
model: log 89, 95. -/
def Obligations.PartAndFunctionsStart : Prop :=
  ∀ s v, let t := tenantOf s v
    (s.cfg.powered = false → exec .powerOn s = .next (setCfg s { s.cfg with powered := true })) ∧
    (∀ links, s.cfg.powered = true → s.cfg.ready = false →
      let s1 := setCfg s { s.cfg with ready := true, links := links }
      exec (.partReady links) s =
        .next (setVstate (sendMsix (putTenant s1 0 { tenantOf s1 0 with enabled := true }) 0 3) 0 1)) ∧
    exec .partStatusErrorClear s =
      .next (if s.cfg.error then sendMsix (setCfg s { s.cfg with error := false }) 0 3 else s) ∧
    (1 ≤ v → v < 16 → t.enabled = false → s.cfg.ready = true → ∃ s1, exec (.vfEnable v) s = .next s1 ∧
      (tenantOf s1 v).enabled = true ∧ (tenantOf s1 v).vstate = 1 ∧ (tenantOf s1 v).cred = 0 ∧ (tenantOf s1 v).lqhead = 0 ∧
      (tenantOf s1 v).clmask = t.clmask ∧ s1.mem = s.mem ∧ s1.launches = s.launches) ∧
    (t.vstate ≠ 1 → exec (.vcmdReady v) s = .next s) ∧
    (t.vstate = 1 → exec (.vcmdReady v) s = .next (setVstate s v (if configOk s v then 2 else 4))) ∧
    (t.enabled = true → exec (.vcmdReset v) s = .next (resetTenant s v) ∧
      exec (.functionLevelReset v) s = .next (resetTenant s v)) ∧
    exec (.frerrRead v) s = .next (putTenant s v { t with frerr := 0 }) ∧
    ∀ die off, off < windowSize s v die → exec (.windowUncorrectableError v die off) s = .next (setL2 s
      { s.l2 with lost := (rangeFrom (windowKey s v die (off / 256 * 256)) 256).foldr insertNat s.l2.lost })

/-- A group that gains an owner is zeroed before its ready bit; one that loses it loses its translations; a format range
register takes a clean and valid value, drops the lines of its alias, and refuses another; a tenant block's
words move quotas, with a refusal setting the error bit, and wait while a pre-emption of the tenant is stopping, but for
pcmd; a removed cluster leaves once the tenant holds no instance or
window there (R225, R237, R402, R403, R418). Of the model: log 92, 94. -/
def Obligations.ResourcesAreGranted : Prop :=
  (∀ s g (val : Word), g < 48 →
    let e := groupAt s g
    let owner := val.toNat % 2 ^ 4
    (val.getLsbD 8 = true → e.assigned = true → e.owner = owner → exec (.groupAssign g val) s = .next s) ∧
    (val.getLsbD 8 = true → e.assigned = false → exec (.groupAssign g val) s = .next (agreeMask (agreeMask
      (putGroup s g { owner := owner, assigned := true, ready := false }) e.owner) owner)) ∧
    (val.getLsbD 8 = true → e.assigned = true → e.owner ≠ owner → exec (.groupAssign g val) s = .next (agreeMask (agreeMask
      (putGroup (forgetGroup s e.owner g) g { owner := owner, assigned := true, ready := false }) e.owner) owner)) ∧
    (val.getLsbD 8 = false → exec (.groupRemove g val) s = .next (agreeMask
      (putGroup (if e.assigned then forgetGroup s e.owner g else s) g { owner := owner, assigned := false, ready := false })
      e.owner)) ∧
    (e.assigned = true → e.ready = false → exec (.groupZeroingDone g) s =
      .next (putGroup (fillRange s (memKey .device (g * 2 ^ 34)) (2 ^ 34) []) g { e with ready := true }))) ∧
  (∀ s reg word val, reg < 16 → word < 4 →
    let f := replaceWord (vget s.cfg.fregs reg 0) word val
    let ok := fregClean f = true ∧ fregOk s f = true
    (ok → ∃ s1, exec (.formatRangeWrite reg word val) s = .next s1 ∧ vget s1.cfg.fregs reg 0 = f) ∧
    (¬ok → ∃ s1, exec (.formatRangeWrite reg word val) s = .next s1 ∧ s1.cfg.fregs = s.cfg.fregs ∧ s1.cfg.error = true ∧
      (tenantOf s1 0).frerr.getLsbD reg = true)) ∧
  (∀ s v off (val : Word), v < 16 → off < 0x400 → off % 8 = 0 → off ≠ 0xB0 → (tenantOf s v).preempt ≠ [] →
    exec (.tenantBlockWrite v off val) s = .next (setCfg s { s.cfg with held := s.cfg.held ++ [(v, off, val)] })) ∧
  (∀ s v (val : Word), v < 16 → exec (.tenantBlockWrite v 0xB0 val) s =
    .next (writePcmd s v (BitVec.ofNat 32 (val.toNat % 2 ^ 32)))) ∧
  (∀ s v (val : Word), v < 16 → let t := tenantOf s v
    t.preempt = [] →
    (exec (.tenantBlockWrite v 0xA0 val) s = .next (putTenant s v { t with hmreg := val })) ∧
    (20 ≤ val.toNat % 2 ^ 32 % 32 → val.toNat % 2 ^ 32 % 32 ≤ 30 → exec (.tenantBlockWrite v 0x98 val) s =
      .next (putTenant s v { t with prlim := BitVec.ofNat 32 (val.toNat % 2 ^ 32 % 32) })) ∧
    ((val.toNat % 2 ^ 32 % 32 < 20 ∨ 30 < val.toNat % 2 ^ 32 % 32) →
      exec (.tenantBlockWrite v 0x98 val) s = .next (refuseWrite s)) ∧
    (∀ off, off < 0x80 → off % 8 = 0 → exec (.tenantBlockWrite v off val) s = .next (writeClmask s v (off / 8) val)) ∧
    exec (.tenantBlockWrite v 0x88 val) s = .next (writeSlots s v val) ∧
    exec (.tenantBlockWrite v 0x90 val) s = .next (writeL2q s v val) ∧
    exec (.tenantBlockWrite v 0xA8 val) s = .next (writeSlice s v (val.toNat / 2 ^ 32))) ∧
  ∀ s v c, let t := tenantOf s v
    t.leaving.contains c = true → (∀ x ∈ s.insts, ¬(x.tenant = v ∧ x.clus = c)) →
    (∀ l ∈ s.launches, l.tenant = v → ∀ w ∈ l.windows, ¬(w.space ≠ 4 ∧ w.place = c)) →
    let s1 := leaveHomes (setSaved (putTenant s v
      { t with clmask := t.clmask &&& ~~~((1 : BitVec 1024) <<< c), leaving := t.leaving.filter fun k => k != c })
      (s.saved.filter fun x => !(x.v == v && x.c == c))) v c
    let s2 := (clusterWays t c).foldl (fun s w => forgetLost s w.1 w.2) s1
    exec (.clusterLeavePartition v c) s = .next (leavePcmd s2 v c) ∧
      ((t.preempt.contains c = false ∨ t.preempt.filter (fun k => k != c) ≠ []) →
       (t.resume.contains c = false ∨ t.resume.filter (fun k => k != c) ≠ []) → v < 16 →
        leavePcmd s2 v c = putTenant s2 v { tenantOf s2 v with
          preempt := t.preempt.filter (fun k => k != c), urgent := t.urgent.filter (fun k => k != c),
          resume := t.resume.filter (fun k => k != c) })

/-- `pcmd` 1 and 2 pre-empt the clusters of a time-sliced tenant, 2 discarding what its open region lets it, and 3 resumes; a
request that may not be is answered with pstat 3; at the handler boundary a cluster's state is saved, its windows' bytes with
it, and the last one ends the pre-emption; once no other tenant is on a cluster, its state returns, the chip windows of its
die with the first cluster there (R278 to R280, R411). Of the model: log 30, 88, 124,
138. -/
def Obligations.TenantsArePreempted : Prop :=
  (∀ s v (val : W32), let t := tenantOf s v
    let code := val.toNat % 2 ^ 8
    (t.slice = false → code = 1 → exec (.pcmdPreempt v val) s = .next (setPstat s v 3)) ∧
    (t.slice = false → code = 2 → exec (.pcmdPreemptUrgent v val) s = .next (setPstat s v 3)) ∧
    (t.slice = true →
      let asked := (pcmdClusters t val).filter fun c => !(isSaved s v c)
      let all := t.preempt ++ asked.filter fun c => !(t.preempt.contains c)
      let s1 (hot : List Nat) : State :=
        setPstat (putTenant s v { t with preempt := all, urgent := t.urgent ++ hot.filter fun c => !(t.urgent.contains c) }) v
          (if all.isEmpty then 2 else 1)
      (code = 1 → exec (.pcmdPreempt v val) s = .next (s1 [])) ∧
      (code = 2 → exec (.pcmdPreemptUrgent v val) s = .next (asked.foldl (fun s c => discardOn s v c) (s1 asked)))) ∧
    (code = 3 → t.preempt ≠ [] → exec (.pcmdResume v val) s = .next (setPstat s v 3)) ∧
    (code = 3 → t.preempt = [] →
      let cl := (pcmdClusters t val).filter fun c => isSaved s v c
      let s1 := putTenant s v { t with resume := t.resume ++ cl.filter fun c => !(t.resume.contains c) }
      exec (.pcmdResume v val) s = .next (if cl = [] then setPstat s1 v 0 else s1))) ∧
  (∀ s v c, v < 16 → (tenantOf s v).preempt.contains c = true →
    let s1 := if (tenantOf s v).urgent.contains c then discardOn s v c else s
    atBoundary s1 v c = true →
    let s0 := quietL1 (setClosed s1 (s1.closed.filter fun g => !(g.c == c && (instOf s1 g.inst).any fun x => x.tenant == v))) c
    let within (k : Nat) : Bool := (tenantRanges s0 v c).any fun r => decide (r.1 ≤ k ∧ k < r.1 + r.2)
    let s2 := saveCluster s1 v c
    exec (.contextSave v c) s = .next (takeFaults (leavePcmd s2 v c)) ∧ isSaved s2 v c = true ∧
      (∃ x ∈ s2.saved, x.v = v ∧ x.c = c ∧ x.cells = (s0.mem.filter fun e => within e.1) ∧ x.full = s0.full.filter within) ∧
      let rest := (tenantOf s2 v).preempt.filter fun k => k != c
      ((tenantOf s2 v).resume.contains c = false → rest ≠ [] → leavePcmd s2 v c = putTenant s2 v { tenantOf s2 v with
        preempt := rest, urgent := (tenantOf s2 v).urgent.filter (fun k => k != c),
        resume := (tenantOf s2 v).resume.filter (fun k => k != c) }) ∧
      ((tenantOf s2 v).preempt.contains c = true → (tenantOf s2 v).resume.contains c = false → rest = [] →
        (∀ e ∈ s2.cfg.held, e.1 ≠ v) →
        (tenantOf (leavePcmd s2 v c) v).pstat = 2 ∧ (tenantOf (leavePcmd s2 v c) v).preempt = [])) ∧
  ∀ s v c x s1, (s.saved.find? fun y => y.v == v && y.c == c) = some x → (tenantOf s v).resume.contains c = true →
    othersOn s v c = false → restoreChip s v (dieOf c) = some s1 →
    let ranges := tenantRanges s1 v c
    let within (k : Nat) : Bool := ranges.any fun r => decide (r.1 ≤ k ∧ k < r.1 + r.2)
    ∃ s2, exec (.contextRestore v c) s = .next s2 ∧ isSaved s2 v c = false ∧
      s2.mem = memWriteCells (ranges.foldl (fun m r => memClear m r.1 (r.1 + r.2)) s1.mem) x.cells ∧
      s2.full = x.full.foldr insertNat (s1.full.filter fun k => !(within k)) ∧
      (tenantOf s2 v).resume = (tenantOf s v).resume.filter fun k => k != c

/-! ### Registers, the fabric, translation answers and clocks -/

/-- A write to a function's registers acts only once the function is enabled; an access that is not 4 or 8 aligned
bytes, or that no register takes, changes nothing; some fields of the page are written only while the function
configures (R6, R371, R401, R406). Of the model: log 89, 90. -/
def Obligations.RegistersAreWritten : Prop :=
  (∀ s v bar off size (val : Word), (tenantOf s v).enabled = false →
    exec (.registerWrite v bar off size val) s = .refused (.notEnabled "REGISTER_WRITE")) ∧
  ∀ s v bar off size (val : Word), v < 16 → (tenantOf s v).enabled = true →
    let t := tenantOf s v
    let write := exec (.registerWrite v bar off size val) s
    (pageAccess off size = false → (bar = 0 ∨ bar = 2) → write = .next s) ∧
    (pageAccess off size = true →
      (bar = 0 → 0x1000 ≤ off → (v ≠ 0 ∨ size ≠ 8) → write = .next s) ∧
      (bar = 0 → 0x1000 ≤ off → v = 0 → size = 8 → write = .next (writePf s off val)) ∧
      (bar = 2 → t.scount.toNat ≤ off / 4096 → write = .next s) ∧
      (bar = 2 → off / 4096 < t.scount.toNat →
        write = .next (writeSlotPage s (t.sbase.toNat + off / 4096) (off % 4096) size val)) ∧
      (bar = 0 → off = 0x020 → size = 8 → write = .next (putTenant s v { t with troot := val })) ∧
      (bar = 0 → off = 0x010 → size = 8 →
        write = .next (if t.vstate = 1 then putTenant s v { t with faccept := val } else s)) ∧
      (bar = 0 → off = 0x048 → size = 8 →
        write = .next (if t.vstate = 1 then putTenant s v { t with pool := val } else s)) ∧
      (bar = 0 → off < 0x010 → write = .next s))

/-- The aperture reaches memory under the L2, the n-th granted group in each 2^34 bytes, and nothing beyond; a package that
leaves the membership table is lost; a flit error changes timing only, and a link that goes down clears its bit and announces
it; the broadcasts of a clock reach a slice in the order in which they were sent; a credibility window closes after 65,536
promises (R206, R210, R214, R405, R414 to R416). What a host's read returns stands in `hostRead`. Of the model: log 91, 96,
116, 127. -/
def Obligations.FabricAndClocksMove : Prop :=
  ∀ s v,
    (∀ off size (val : Word), (tenantOf s v).enabled = true → 1 ≤ size → off % 8 + size ≤ 8 →
      (aperturePa s v off = none → exec (.apertureAccess v off size true val) s = .next s ∧
        exec (.apertureAccess v off size false val) s = .next (setHostRead s (BitVec.ofNat 64 (2 ^ (8 * size) - 1)))) ∧
      ∀ pa, aperturePa s v off = some pa →
        let key := memKey .device pa
        let s1 := dropLine s (lineOf key)
        exec (.apertureAccess v off size true val) s =
          .next (putRange s1 key (toBytes size (val.toNat % 2 ^ (8 * size)))) ∧
        (served s .sys key size = true → exec (.apertureAccess v off size false val) s =
          let r := getHome (outsideRead s1 key size) key size
          .next (setHostRead r.1 (BitVec.ofNat 64 (ofBytes r.2))))) ∧
    (∀ word val, word < 64 →
      let new := replaceWord s.cfg.members word val
      exec (.membershipWrite word val) s = .next (losePackages (setCfg s { s.cfg with members := new })
        fun k => k != s.cfg.pkgid.toNat && s.cfg.members.getLsbD k && !(new.getLsbD k))) ∧
    (∀ link, s.cfg.links.getLsbD link = true → exec (.flitCrcError link) s = .next s ∧
      exec (.linkDown link) s =
        .next (sendMsix (setCfg s { s.cfg with links := s.cfg.links &&& ~~~((1 : BitVec 18) <<< link) }) 0 3)) ∧
    (∀ clk slice j t, s.l2.casts[j]? = some (slice, clk, t) →
      (∀ e ∈ s.l2.casts.take j, ¬(e.1 = slice ∧ e.2.1 = clk)) → exec (.clockBroadcast clk slice) s =
        .next (broadcast (setL2 s { s.l2 with casts := s.l2.casts.eraseIdx j }) slice clk t)) ∧
    (65536 ≤ (tenantOf s v).promises →
      let t := tenantOf s v
      let cred := if 8192 < t.broken then min 7 (t.cred + 1) else if t.broken < 2048 then t.cred - 1 else t.cred
      exec (.credibilityWindowClose v) s = .next (putTenant s v { t with cred := cred, promises := 0, broken := 0 }))

/-- A driver's or the host's invalidation removes the covered translations and completes once what translated through
them has drained; a Translation Completion fills the sector's cache, or answers a probe that no access has joined without
filling it; a page response of Success asks again, another fails the accesses that the request answers, and Response Failure
stops requests until `prirst`; no response within the limit, or no free request to send, is a failure (R231 to R234, R244,
R245, R286). Of the model: log 28, 50. -/
def Obligations.TranslationEventsAct : Prop :=
  (∀ s v va, exec (.invWrite v va) s = .next (startInval s v false (vaOf va) 1 true none)) ∧
  (∀ s v addr size, exec (.atsInvalidateRequest v addr size false) s =
    .next (startInval (dropHostLines s v addr.toNat size) v true addr.toNat size false none)) ∧
  (∀ s v addr size, exec (.atsInvalidateRequest v addr size true) s =
    .next (startInval (dropHostLines s v 0 (2 ^ 64)) v true 0 (2 ^ 64) false none)) ∧
  (∀ s k e, s.xlat.invals[k]? = some e → drained s e = true →
    let r := recallWhere s fun _ _ _ => true
    let s1 := setXlat r { r.xlat with invals := r.xlat.invals.eraseIdx k }
    let s2 := if e.driver then putTenant s1 e.fn { tenantOf s1 e.fn with invdone := (tenantOf s1 e.fn).invdone + 1 } else s1
    (e.core = none → exec (.invalidationComplete k) s = .next s2) ∧
    ∀ c i id, e.core = some (c, i, id) → exec (.invalidationComplete k) s = .next (sweep (dropAcc s2 c i id))) ∧
  (∀ s v val, exec (.priRestart v val) s =
    .next (if val = 1 then putTenant s v { tenantOf s v with priStop := false } else s)) ∧
  ∀ s k q, s.xlat.reqs[k]? = some q →
    (∀ ta n r w u, let size := max (2 ^ n) 4096
      let e := hostEntry q ta (2 ^ n) r w u
      e.pa % size = 0 →
      let s1 := setXlat s { s.xlat with probed := s.xlat.probed ++ q.probers.map fun p => (p, e) }
      (q.phase = 0 → exec (.translationCompletion k ta (2 ^ n) r w u) s = .next (endReq (fillHost s1 e) q fun _ => false)) ∧
      (q.phase = 2 → exec (.translationCompletion k ta (2 ^ n) r w u) s =
        .next (endReq (fillHost s1 e) q fun want => answers q want && !(hostGrants e want))) ∧
      (q.phase = 4 → exec (.translationCompletion k ta (2 ^ n) r w u) s = .next
        (endReq (if q.waiters = [] ∧ q.cmds = [] then s1 else fillHost s1 e) q fun _ => false))) ∧
    let late := q.since + 2 ^ ((tenantOf s q.fn).prlim.toNat % 32) ≤ s.clk
    let ended (s : State) (q : PageReq) : State := endReq s q (answers q)
    (q.phase = 1 → ¬late →
      exec (.prgResponse k 0) s = .next (nextPri (updReq s q.id fun q => { q with phase := 2 }) q.fn) ∧
      exec (.prgResponse k 1) s = .next (nextPri (ended s q) q.fn) ∧
      (let s1 := putTenant s q.fn { tenantOf s q.fn with priStop := true }
       exec (.prgResponse k 15) s = .next
          ((s1.xlat.reqs.filter fun r => r.fn == q.fn && r.phase == 3).foldl ended (nextPri (ended s1 q) q.fn)))) ∧
    ((q.phase = 1 ∨ q.phase = 3) → late → exec (.pageRequestTimeout k) s = .next (nextPri (ended s q) q.fn))

/-! ### Slots, pages and steps -/

/-- A host starts, stops, resumes and resets an agent's slot and signals it; commands that do not fit the slot's state
change nothing; a start whose fields break their limits leaves the slot idle with AFETCH as its cause, one of a tenant without
CTXL only sets that cause; a stop waits for the end of a step or of a round (R371, R372, R382, R383, R408). -/
def Obligations.SlotCommandsAct : Prop :=
  ∀ s n v, slotTenant s n = some v →
    let k := slotAt s n
    (∀ val, exec (.sigWrite n val) s = .next (putSlot s { k with sig := k.sig ||| val })) ∧
    ((k.st = .idle ∨ k.st = .halted) → accepted s v 1 = false →
      exec (.slotStart n) s = .next (putSlot s { k with cause := 2 })) ∧
    ((k.st = .idle ∨ k.st = .halted) → accepted s v 1 = true → startOk s { k with tenant := v } = false →
      exec (.slotStart n) s = .next (putSlot s { k with tenant := v, st := .idle, cause := 2 })) ∧
    ((k.st = .idle ∨ k.st = .halted) → accepted s v 1 = true → startOk s { k with tenant := v } = true →
      ∃ t, exec (.slotStart n) s = .next (putSlot s t) ∧
      t.num = k.num ∧ t.tenant = v ∧ t.st = .running ∧ t.pc = k.entry ∧ t.pend = 0 ∧ t.samp = {} ∧ t.long = none ∧
      t.rprog = k.prog ∧ t.rpsize = k.psize ∧ t.ramem = k.amem ∧
      ∀ j : Fin 16, t.a[j] = if j.val < 4 then k.init.getD j.val 0 else 0) ∧
    (k.st ≠ .idle → k.st ≠ .halted → exec (.slotStart n) s = .next s) ∧
    (k.st = .running → (isSeated s n = true ∨ midRound k = true) →
      exec (.slotStop n) s = .next (putSlot s { k with st := .stopping })) ∧
    (k.st = .running → isSeated s n = false → midRound k = false →
      exec (.slotStop n) s = .next (putSlot s (suspend { k with st := .stopped }))) ∧
    (k.st ≠ .running → exec (.slotStop n) s = .next s) ∧
    ((k.st = .stopped ∨ k.st = .trapped) → exec (.slotResume n) s =
      .next (putSlot s { k with st := .running, long := k.long.map fun l => { l with susp := false } })) ∧
    (k.st ≠ .stopped → k.st ≠ .trapped → exec (.slotResume n) s = .next s) ∧
    (isSeated s n = true → exec (.slotReset n) s = .next (putSlot s { k with st := .stopping, rst := true })) ∧
    (isSeated s n = false → slotOf s n ≠ none → exec (.slotReset n) s = .next (dropCtxs (putSlot s
      { k with st := .idle, pend := 0, long := none, owed := false, klaunch := none, rst := false }) n k.tenant fun _ => true))

/-- An eviction starts where free frames fall short, takes the page of the largest distance first and puts it at a place of
the backing store; its commit writes the page and its tag there, frees the frame and drops the index entries of a page that no
context references; a promotion takes the lowest free frame and completes only where the tag of the bytes read back matches,
else the page has failed, with a record where the read met an error; a failed page poisons the contexts that hold it once no
step of them is in flight, at once where none is; a block whose owner has left moves home, and a stub stays for the launches
accepted before (R342, R344, R346 to R353, R419). Of the model: log 83, 85, 117, 126. -/
def Obligations.PagesMove : Prop :=
  ∀ s v,
    (∀ p, comingFrames s v < max (tenantOf s v).headroom.toNat (pinNeed s v + faultNeed s v + fillNeed s v) →
      chooseEviction s v = some p → canEvict s p = true →
      exec (.evictionStart v) s = .next (beginTwilight s p (decide (comingFrames s v < pinNeed s v)))) ∧
    (∀ n fr pa, choosePromotion (takeFaults s) v = some n → lowestFrame (takeFaults s) v = some fr →
      framePa (takeFaults s) v fr = some pa → ∃ s2,
      exec (.promotionStart v) s = .next s2 ∧ (v, n) ∉ s2.ctx.faults ∧
      s2.ctx.pages = ((takeFaults s).ctx.pages.map fun p =>
        if p.tenant == v && p.num == n then { p with st := .promoting, frame := some fr, pa := pa } else p)) ∧
    (∀ n p, pageAt s v n = some p →
      (∀ pl l s2, p.st = .twilight → p.place = some pl → pageBusy s p = false →
        let r := frameCells s p.pa
        placeSpan r.1 v pl .wr = (s2, .ok l) → exec (.evictionCommit v n) s =
          .next (takeFaults (evictIndexOnly (updPage (writePlace s2 l r.2 p.tag) v n fun p =>
            { p with st := .absent, frame := none, pa := 0, tag := 0, forPin := false }) v n))) ∧
      (∀ pl l s2 lost, p.st = .promoting → p.place = some pl → p.failed = false → placeSpan s v pl .rd = (s2, .ok l) →
        let r := readPlace s2 l
        let cells := memWriteCells r.2.1 (lost.filter fun c => decide (c.1 < frameSize))
        let bad := r.1.xlat.hostError = true ∧ spaceOf (tenantOf r.1 v).backing = 1
        let fails (s : State) : State :=
          if stepOn s v n then updPage s v n fun p => { p with failed := true } else integrityAct s v n
        (bad → exec (.promotionComplete v n lost) s = .next (fails (queueRecord
          (setXlat r.1 { r.1.xlat with hostError := false })
          { die := 4, tenant := v, rtype := 4, val := (tenantOf r.1 v).backing + BitVec.ofNat 64 (pl * placeSize) }))) ∧
        (¬bad → tagOf cells ≠ r.2.2 → exec (.promotionComplete v n lost) s = .next (fails r.1)) ∧
        (¬bad → tagOf cells = r.2.2 → exec (.promotionComplete v n lost) s = .next (takeFaults (settleAppends (settlePins (updPage
          (fillFrame r.1 p.pa cells) v n fun p => { p with st := .resident, place := none, tag := 0 })))))) ∧
      (p.failed = true → stepOn s v n = false → exec (.integrityFailure v n) s = .next (integrityAct s v n))) ∧
    ∀ ctx block j home first n rest p, (blocksAt s v ctx block)[j]? = some (home, first, n :: rest) → pageAt s v n = some p →
      (∀ k ∈ n :: rest, ∀ q, pageAt s v k = some q → pageBusy s q = false) →
      (∀ b ∈ (blocksAt s v ctx block).take j, rehoming s v block b = none) →
      let home := homeOf home first block
      p.home ≠ home → ∃ s2, exec (.blockRehome v ctx block) s = .next s2 ∧
        (∀ k ∈ n :: rest, ∀ q, pageAt s2 v k = some q → q.home = home) ∧
        (s.launches ≠ [] → ∃ b ∈ s2.ctx.stubs, b.tenant = v ∧ b.pages = n :: rest ∧ b.old = p.home ∧ b.new = home ∧
          b.launches = s.launches.map fun l => l.id)

/-- A step is filled with the seats of ready agents, its record written and its launches submitted; it commits once its
launches have completed, each seat's transaction in order, and then the instance has no step in flight (R377 to R379,
R397). Of the model: log 84. -/
def Obligations.StepsFillAndCommit : Prop :=
  ∀ s v n m, modelOf s v n = some m →
    (pinHolds s v n = false → (∀ t ∈ s.ctx.steps, ¬(t.tenant = v ∧ t.inst = n)) →
      let s1 := takeFaults s
      let f := fillStep s1 m
      f.seated ≠ [] →
      let s2 := beginStep s1 v n m f ((readyFor s1 m).filter fun r => !(f.seated.any fun x => x.slot == r.slot))
      exec (.stepFill v n) s = .next s2 ∧ ∃ t ∈ s2.ctx.steps, t.tenant = v ∧ t.inst = n) ∧
    ∀ t, (s.ctx.steps.find? fun t => t.tenant == v && t.inst == n) = some t → t.launches = [] →
      let slots := (t.seats.map fun e => e.slot).eraseDups
      let groups := slots.map fun k => t.seats.zipIdx.filter fun e => e.1.slot == k
      let s1 := (groups.foldl (commitAgent t.bad m) (s, [])).1
      let s2 := setCtx s1 { s1.ctx with steps := s1.ctx.steps.filter fun x => !(x.tenant == v && x.inst == n) }
      let s3 := slots.foldl settleSlot (sweepPages s2 v)
      let s4 := pinEvictions s3 v s3.ctx.pages.length
      exec (.stepCommit v n) s = .next (takeFaults (integrityActs s4 v))

/-! ### The whole machine -/

/-- A trap aborts its firing and no other: the instance is held, or fails where the firing is the supervisor handler's;
the record waits at its die while there is room; memory is unchanged (R270 to R272, R275). -/
def Obligations.TrapsHoldTheInstance : Prop :=
  ∀ s f t w0 w1,
    let s' := trapFiring s f t w0 w1
    let room := (s.records.filter fun q => q.die == dieOf f.clus).length < 256
    firingOf s' f.id = none ∧ (∀ n, n ≠ f.id → firingOf s' n = firingOf s n) ∧ s'.mem = s.mem ∧ s'.full = s.full ∧
    (room → trapRecord s f t w0 w1 ∈ s'.records) ∧
    (room → isHandler s f = false → ∀ x, instOf s f.inst = some x → ∃ y, instOf s' f.inst = some y ∧ y.st = .held 0) ∧
    (isHandler s f = true → ∀ x, instOf s f.inst = some x → ∃ y, instOf s' f.inst = some y ∧ y.st = .failed)

/-- `x0` reads 0, `p0` reads 0xFFFF and `gp0` reads 1, and their writes are discarded; every other register reads what
was last written to it, and a write changes no other register (R58). -/
def Obligations.RegisterFilesHold : Prop :=
  (∀ c : Core, getX c 0 = 0 ∧ getPr c 0 = 0xFFFF) ∧ (∀ u : UFile, getGp u 0 = true) ∧
  (∀ (c : Core) n w, n < 32 →
    (∀ m, getX (setX c n w) m = if m = n ∧ n ≠ 0 then w else getX c m) ∧
    (setX c n w).p = c.p ∧ (setX c n w).v = c.v ∧ (setX c n w).pc = c.pc ∧ (setX c n w).nflags = c.nflags) ∧
  (∀ (c : Core) n w, n < 8 →
    (∀ m, getPr (setPr c n w) m = if m = n ∧ n ≠ 0 then w else getPr c m) ∧
    (setPr c n w).x = c.x ∧ (setPr c n w).v = c.v ∧ (setPr c n w).pc = c.pc ∧ (setPr c n w).nflags = c.nflags) ∧
  (∀ (v : VIn) (n m : BitVec 5) mask w, n.toNat < 30 →
    let v' := { v with core := setV v.core n.toNat mask w }
    (m ≠ n → srcV v' m = srcV v m) ∧
    (∀ j, j < 16 → (srcV v' n).extractLsb' (8 * j) 8 =
      if mask.getLsbD j then w.extractLsb' (8 * j) 8 else (srcV v n).extractLsb' (8 * j) 8) ∧
    (mask = 0xFFFF → srcV v' n = w) ∧
    v'.core.x = v.core.x ∧ v'.core.p = v.core.p ∧ v'.core.pc = v.core.pc ∧ v'.core.nflags = v.core.nflags) ∧
  (∀ (u : UFile) n w, n < 32 → (∀ m, getG (setG u n w) m = if m = n then w else getG u m) ∧ (setG u n w).gp = u.gp) ∧
  ∀ (u : UFile) n b, n < 8 → (∀ m, m < 8 → getGp (setGp u n b) m = if m = n ∧ n ≠ 0 then b else getGp u m) ∧
    (setGp u n b).g = u.g

/-- A word that computes into a register changes the firing of its core alone, and there only the register that it names
as its destination, the program counter, `nflags` and what a link loses or gains: every other register of every core and
of the uniform file, all of memory and every other firing stay (R58, R60, R63). -/
def Obligations.RegisterWordsKeepTheRest : Prop :=
  let d (o : OpA) (n : Nat) : Bool := n == o.d.toNat
  let no (_ : OpA) (_ : Nat) : Bool := false
  (∀ i ∈ [Instr.aluAdd, .aluSub, .aluAnd, .aluOr, .aluXor, .aluShl, .aluShr, .aluSra, .muldivMul, .muldivMulh, .muldivMulhu,
      .muldivDiv, .muldivDivu, .muldivRem, .muldivRemu, .bitsClz, .bitsCtz, .bitsPopc, .bitsBrev, .bitsBswap, .bitsExtu,
      .bitsExts, .bitsRotr, .minmaxMin, .minmaxMax, .minmaxMinu, .minmaxMaxu, .minmaxAbs, .minmaxAdds, .minmaxSubs, .plogGetx,
      .idLvl, .idCore, .idGpos, .idGwid, .idClus, .idCnt, .idPkg, .vmovExt], KeepsRest i d no no) ∧
  (∀ i ∈ [Instr.cmpEq, .cmpNe, .cmpLt, .cmpGe, .cmpLtu, .cmpGeu, .cmpTst, .plogAnd, .plogOr, .plogXor, .plogAndn, .plogNot,
      .plogSetx, .vcmpEq, .vcmpNe, .vcmpLt, .vcmpLe, .vcmpLtu, .vcmpLeu, .vcmpUn], KeepsRest i no d no) ∧
  ∀ i ∈ [Instr.varithAdd, .varithSub, .varithMul, .varithMin, .varithMax, .varithAdds, .varithSubs, .varithAbs, .vfmaFma,
      .vfmaFms, .vfmaFnma, .vfmaFnms, .vdotBf16, .vdotFp16, .vdotE4m3, .vdotE5m2, .vdotI8, .vdotU8, .vdotI8u8, .vredAdd,
      .vredMin, .vredMax, .vredAddw, .vredAnd, .vredOr, .vredXor, .vredImax, .vlogicAnd, .vlogicOr, .vlogicXor, .vlogicAndn,
      .vlogicNot, .vlogicShl, .vlogicShr, .vlogicSra, .vselSel, .vselZero, .vselCmpr, .vselExpd, .vcvtRne, .vcvtRtz, .vcvtRup,
      .vcvtRdn, .vcvtSto, .vcvtWide, .vscaleLdexp, .vscaleMx, .vscaleSb4, .vscaleCb, .vcbDec, .vsfuExp2, .vsfuLog2, .vsfuRcp,
      .vsfuRsqrt, .vsfuSqrt, .vsfuSin, .vsfuCos, .vsfuTanh, .vsfu2Sigm, .vsfu2Gelut, .vsfu2Gelue, .vsfu2Silu, .vsfu2Erf,
      .vsfu2Softp, .vmovMov, .vmovBcast, .vmovIns, .vpermPerm, .vpermZiplo, .vpermZiphi, .vpermUzpe, .vpermUzpo, .vpermSplat,
      .vpermRev], KeepsRest i no no d

/-- Loads, stores and reductions change no memory when they issue; a store of explicit memory then changes the bytes
that its mask selects and no other byte (R196, R199). -/
def Obligations.StoresKeepOtherBytes : Prop :=
  (∀ s t (o : OpM), ∀ i ∈ [Instr.ldB, .ldH, .ldW, .ldD, .ldBs, .ldHs, .ldWs, .stB, .stH, .stW, .stD, .vldV, .vldBc, .vstV, .vstE,
      .redAdd, .redMin, .redMax, .redAnd, .redOr, .redXor, .redFmin, .redFmax], exec (i o) s = .next t →
    t.mem = s.mem ∧ t.full = s.full) ∧
  ∀ s c i n (a : Acc), accAt s c i n = some a → a.kind = .store → a.lanes = false → (a.space = 4 ∨ a.space = 5 ∨ a.space = 6) →
    coherent a = false → a.performed = false → clear s c i a = true → Memory.wf s.mem = true →
    ∃ t, exec (.explicitStorePerform c i n) s = .next t ∧ t.full = s.full ∧ ∀ k, memRead t.mem k =
      if a.key ≤ k ∧ k < a.key + 16 ∧ a.bytes.getLsbD (k - a.key) = true then a.data.extractLsb' (8 * (k - a.key)) 8
      else memRead s.mem k

/-- A step takes the first move of the plan. A core's move fetches at its program counter and runs the instruction that
the words decode to, or traps ILL; a core with no firing, or whose firing waits, does nothing. An agent's move does the
same of its word (R63, R74, R75, R79, R80). Of the model: log 4. -/
def Obligations.StepsRunTheDecodedInstruction : Prop :=
  ∀ s ms,
    (∀ c i, s.plan = .run (.core c i) :: ms →
      let s1 := setCur (setPlan s ms) (.core c i)
      (firingAt s1 c i = none → step s = .next s1) ∧
      ∀ f, firingAt s1 c i = some f →
        (waits f (actingCores f i) = true → step s = .next s1) ∧
        (waits f (actingCores f i) = false →
          (∀ s2 w0 w1, fetchAt s1 f (pcOf (actingCores f i)) = (s2, .words w0 w1) →
            (∀ j, decodeKernel w0 w1 = .instr j → step s = exec j s2) ∧
            ∀ r, decodeKernel w0 w1 = .reject r → step s = exec (.illegalEncoding w0 w1) s2) ∧
          ∀ s2 addr sub w0, fetchAt s1 f (pcOf (actingCores f i)) = (s2, .failed addr sub w0) →
            step s = exec (.instructionFetchFault addr sub w0) s2)) ∧
    (∀ n k, s.plan = .run (.agent n) :: ms →
      let s1 := setCur (setPlan s ms) (.agent n)
      slotOf s1 n = some k → k.st = .running → k.owed = false → k.klaunch = none →
      (agentFetch s1 k = none → step s = exec .agentFetchFault s1) ∧
      ∀ s2 w, agentFetch s1 k = some (s2, w) →
        (∀ j, decodeAgent w = .instr j → step s = exec j s2) ∧
        ∀ r, decodeAgent w = .reject r → step s = exec (.agentIllegalWord w) s2) ∧
    ∀ j, s.plan = .event j :: ms → isEvent j = true → wellFormed j = true → step s = exec j (setPlan s ms)

/-- Words written out in the spec decode to the instructions that it gives for them, one of each format, and the words
that it calls illegal are rejected (R64 to R71, R75, R79). -/
def Obligations.WordsDecode : Prop :=
  (∀ w1, decodeKernel 0x000A4182 w1 = .instr (.aluAdd { d := 3, a := 4, b := 5 })) ∧
  (∀ w1, decodeKernel 0x10062082 w1 = .instr (.aluAdd { d := 1, a := 2, b := 3, k := 1 })) ∧
  (∀ w1, decodeKernel 0x00000004 w1 = .instr (.alui {})) ∧
  (∀ w1, decodeKernel 0x008003EC w1 = .instr (.sysR { d := 7, imm := 0x040 })) ∧
  (∀ w1, decodeKernel 0x0080006C w1 = .instr (.sysW { imm := 0x040 })) ∧
  (∀ w1, decodeKernel 0xFFFFD120 w1 = .instr (.br { lo := 2, disp := -3 })) ∧
  decodeKernel 0x00803291 0x00C00010 = .instr (.ldW { o := { d := 5, a := 3 }, off := 16, nu := 12 }) ∧
  decodeKernel 0x00400081 0x00000040 = .instr (.moviHi { o := { d := 1 }, imm := 0x40 }) ∧
  decodeKernel 0x00428A31 0x12600000 = .instr (.taskMmav { o := { d := 20, a := 8, q := 0, b := 1 }, fb := 18, shape := 6 }) ∧
  decodeAgent 0x0000000000054303 = .instr (.aAdd { x := 3, y := 4, z := 5 }) ∧
  (∀ w1, decodeKernel 0 w1 = .reject .reserved) ∧ decodeKernel 0xFFFFFFFF 0xFFFFFFFF = .reject .reserved

/-- For every well-formed instruction, decoding its encoding gives it back, with every operand at every value that the
encoding admits (R63 to R73, R79). -/
def Obligations.EncodingsDecodeBack : Prop := ∀ i, wellFormed i = true → DecodesBack i

/-- Memory keeps its canonical form, in which equal memories are equal lists: whatever step a state with it takes, the
next state has it. Of the model: log 1. -/
def Obligations.MemoryStaysCanonical : Prop := ∀ s t, Memory.wf s.mem = true → step s = .next t → Memory.wf t.mem = true

/-- The part after reset: memory is canonical and lists nothing, no launch, firing or agent exists, no function is
enabled, a tenant's sched is 1 and 64, its prlim 27 and its headroom 64, and no cluster may send to another (R176, R233,
R348, R402). Of the model: log 1, 2. -/
def Obligations.ResetHolds : Prop :=
  Memory.wf State.reset.mem = true ∧ State.reset.mem = [] ∧ State.reset.launches = [] ∧ State.reset.firings = [] ∧
  State.reset.slots = [] ∧ State.reset.cfg.perms = [] ∧
  ∀ v, v < 16 → (tenantOf State.reset v).enabled = false ∧ (tenantOf State.reset v).sched.toNat % 2 ^ 8 = 1 ∧
    (tenantOf State.reset v).sched.toNat / 2 ^ 8 = 64 ∧ (tenantOf State.reset v).prlim = 27 ∧
    (tenantOf State.reset v).headroom = 64 ∧ (tenantOf State.reset v).clmask = 0 ∧ (tenantOf State.reset v).l2q = 0
end

