-- ==== Sys2Proof/Laws/Memory.lean ====
section
/-! SUPPORT. Memory: every operation keeps the canonical form, a read after a write gives what was written, and a write
leaves every other byte alone. -/

namespace Sys2Proof.Laws.Memory

open Sys2Proof.Machine

/-- A canonical list stays so from a lower bound on. -/
theorem wfFrom_mono {lo lo' : Nat} (h : lo' ≤ lo) : ∀ m : Mem, Memory.wfFrom lo m = true → Memory.wfFrom lo' m = true
  | [], _ => rfl
  | (k, b) :: t, hm => by
    simp only [Memory.wfFrom, Bool.and_eq_true, decide_eq_true_eq] at hm ⊢
    exact ⟨⟨by omega, hm.1.2⟩, hm.2⟩

/-- One write keeps the canonical form from any bound at or below its key. -/
theorem wfFrom_memWrite (b : Byte) : ∀ (m : Mem) (lo k : Nat), lo ≤ k → Memory.wfFrom lo m = true →
    Memory.wfFrom lo (memWrite m k b) = true
  | [], lo, k, hk, _ => by
    by_cases hb : b = unlisted <;> simp [memWrite, Memory.wfFrom, hb, hk]
  | (k', b') :: t, lo, k, hk, hm => by
    simp only [Memory.wfFrom, Bool.and_eq_true, decide_eq_true_eq] at hm
    obtain ⟨⟨h1, h2⟩, h3⟩ := hm
    unfold memWrite
    by_cases hlt : k < k'
    · by_cases hb : b = unlisted
      · simp [hlt, hb, Memory.wfFrom, h1, h2, h3]
      · have h4 : k + 1 ≤ k' := hlt
        simp [hlt, hb, Memory.wfFrom, hk, h4, h2, h3]
    · by_cases heq : k = k'
      · subst heq
        by_cases hb : b = unlisted
        · simp only [Nat.lt_irrefl, if_false, beq_self_eq_true, if_true, hb]
          exact wfFrom_mono (by omega) t h3
        · simp [hb, Memory.wfFrom, hk, h3]
      · simp only [hlt, if_false, beq_iff_eq, heq, Memory.wfFrom, Bool.and_eq_true, decide_eq_true_eq]
        exact ⟨⟨h1, h2⟩, wfFrom_memWrite b t (k' + 1) k (by omega) h3⟩

/-- A filter keeps the canonical form. -/
theorem wfFrom_filter (p : Host.Cell → Bool) : ∀ (m : Mem) (lo : Nat), Memory.wfFrom lo m = true →
    Memory.wfFrom lo (m.filter p) = true
  | [], _, _ => rfl
  | (k, b) :: t, lo, hm => by
    simp only [Memory.wfFrom, Bool.and_eq_true, decide_eq_true_eq] at hm
    by_cases hp : p (k, b) = true
    · simp only [List.filter, hp, Memory.wfFrom, Bool.and_eq_true, decide_eq_true_eq]
      exact ⟨hm.1, wfFrom_filter p t (k + 1) hm.2⟩
    · simp only [List.filter, Bool.eq_false_iff.mpr hp]
      exact wfFrom_mono (by omega) _ (wfFrom_filter p t (k + 1) hm.2)

/-- The empty memory is canonical. -/
@[simp] theorem wf_nil : Memory.wf [] = true := rfl

/-- A write of one byte keeps the canonical form. -/
theorem wf_memWrite {m : Mem} (h : Memory.wf m = true) (k : Nat) (b : Byte) : Memory.wf (memWrite m k b) = true :=
  wfFrom_memWrite b m 0 k (Nat.zero_le k) h

/-- A filter keeps it. -/
theorem wf_filter {m : Mem} (h : Memory.wf m = true) (p : Host.Cell → Bool) : Memory.wf (m.filter p) = true :=
  wfFrom_filter p m 0 h

/-- A write of several bytes keeps it. -/
theorem wf_memWriteBytes : ∀ (bs : List Byte) {m : Mem} (k : Nat), Memory.wf m = true →
    Memory.wf (memWriteBytes m k bs) = true
  | [], _, _, h => h
  | b :: bs, _, k, h => wf_memWriteBytes bs (k + 1) (wf_memWrite h k b)

/-- A write of a number keeps it. -/
theorem wf_memWriteN {m : Mem} (h : Memory.wf m = true) (k n v : Nat) : Memory.wf (memWriteN m k n v) = true :=
  wf_memWriteBytes _ k h

/-- A masked write keeps it. -/
theorem wf_memWriteMasked : ∀ (bs : List Byte) {m : Mem} (k mask : Nat), Memory.wf m = true →
    Memory.wf (memWriteMasked m k mask bs) = true
  | [], _, _, _, h => h
  | b :: bs, m, k, mask, h => by
    unfold memWriteMasked
    split
    · exact wf_memWriteMasked bs (k + 1) (mask / 2) (wf_memWrite h k b)
    · exact wf_memWriteMasked bs (k + 1) (mask / 2) h

/-- A write of cells keeps it. -/
theorem wf_memWriteCells : ∀ (cs : List Host.Cell) {m : Mem}, Memory.wf m = true → Memory.wf (memWriteCells m cs) = true
  | [], _, h => h
  | (k, b) :: cs, _, h => wf_memWriteCells cs (wf_memWrite h k b)

/-- A slice is canonical. -/
theorem wf_memSlice {m : Mem} (h : Memory.wf m = true) (lo hi : Nat) : Memory.wf (memSlice m lo hi) = true :=
  wf_filter h _

/-- Clearing a range keeps the canonical form. -/
theorem wf_memClear {m : Mem} (h : Memory.wf m = true) (lo hi : Nat) : Memory.wf (memClear m lo hi) = true :=
  wf_filter h _

/-- A copy keeps it. -/
theorem wf_memCopy {m : Mem} (h : Memory.wf m = true) (src dst n : Nat) : Memory.wf (memCopy m src dst n) = true :=
  wf_memWriteBytes _ dst h

/-- A key below every listed one reads as unlisted. -/
theorem memRead_below : ∀ (m : Mem) (lo k : Nat), k < lo → Memory.wfFrom lo m = true → memRead m k = unlisted
  | [], _, _, _, _ => rfl
  | (k', b) :: t, lo, k, hk, hm => by
    simp only [Memory.wfFrom, Bool.and_eq_true, decide_eq_true_eq] at hm
    have h1 : k < k' := by omega
    have h2 : k ≠ k' := by omega
    simp [memRead, h1, h2]

/-- The byte just written is read. -/
theorem memRead_memWrite_same (b : Byte) : ∀ (m : Mem) (lo k : Nat), Memory.wfFrom lo m = true →
    memRead (memWrite m k b) k = b
  | [], _, k, _ => by
    by_cases hb : b = unlisted <;> simp [memWrite, memRead, hb]
  | (k', b') :: t, lo, k, hm => by
    simp only [Memory.wfFrom, Bool.and_eq_true, decide_eq_true_eq] at hm
    unfold memWrite
    by_cases hlt : k < k'
    · have hne : k ≠ k' := by omega
      by_cases hb : b = unlisted <;> simp [hlt, hb, memRead, hne]
    · by_cases heq : k = k'
      · subst heq
        by_cases hb : b = unlisted
        · simp only [Nat.lt_irrefl, if_false, beq_self_eq_true, if_true, hb]
          exact memRead_below t (k + 1) k (by omega) hm.2
        · simp [hb, memRead]
      · simp only [hlt, if_false, beq_iff_eq, heq, memRead]
        exact memRead_memWrite_same b t (k' + 1) k hm.2

/-- Every other byte reads as before. -/
theorem memRead_memWrite_other (b : Byte) : ∀ (m : Mem) (lo k j : Nat), j ≠ k → Memory.wfFrom lo m = true →
    memRead (memWrite m k b) j = memRead m j
  | [], _, k, j, hj, _ => by
    by_cases hb : b = unlisted <;> simp [memWrite, memRead, hb, hj]
  | (k', b') :: t, lo, k, j, hj, hm => by
    simp only [Memory.wfFrom, Bool.and_eq_true, decide_eq_true_eq] at hm
    unfold memWrite
    by_cases hlt : k < k'
    · by_cases hb : b = unlisted
      · simp [hlt, hb]
      · simp only [hlt, if_true, beq_iff_eq, hb, if_false, memRead, hj]
        by_cases hjk : j < k
        · have h1 : j < k' := by omega
          have h2 : j ≠ k' := by omega
          simp [hjk, h1, h2]
        · simp [hjk]
    · by_cases heq : k = k'
      · subst heq
        by_cases hb : b = unlisted
        · simp only [Nat.lt_irrefl, if_false, beq_self_eq_true, if_true, hb, memRead, beq_iff_eq, hj]
          by_cases hjk : j < k
          · simp only [hjk, if_true]
            exact memRead_below t (k + 1) j (by omega) hm.2
          · simp [hjk]
        · simp [hb, memRead, hj]
      · simp only [hlt, if_false, beq_iff_eq, heq, memRead]
        by_cases h1 : j = k'
        · simp [h1]
        · by_cases h2 : j < k'
          · simp [h1, h2]
          · simp only [h1, if_false, h2]
            exact memRead_memWrite_other b t (k' + 1) k j hj hm.2

/-- A filter that keeps a key leaves what it reads. -/
theorem memRead_filter (p : Host.Cell → Bool) (k : Nat) (hp : ∀ b, p (k, b) = true) : ∀ (m : Mem) (lo : Nat),
    Memory.wfFrom lo m = true → memRead (m.filter p) k = memRead m k
  | [], _, _ => rfl
  | (k', b) :: t, lo, hm => by
    simp only [Memory.wfFrom, Bool.and_eq_true, decide_eq_true_eq] at hm
    have ih := memRead_filter p k hp t (k' + 1) hm.2
    by_cases hk : p (k', b) = true
    · simp only [List.filter, hk, memRead, ih]
    · simp only [List.filter, Bool.eq_false_iff.mpr hk, memRead, ih]
      have hne : k ≠ k' := fun h => hk (h ▸ hp b)
      by_cases hlt : k < k'
      · simp only [beq_iff_eq, hne, if_false, hlt, if_true]
        exact memRead_below t (k' + 1) k (by omega) hm.2
      · simp [hne, hlt]

/-- Writing several bytes leaves every byte outside them. -/
theorem memRead_memWriteBytes_other : ∀ (bs : List Byte) (m : Mem) (k j : Nat), (j < k ∨ k + bs.length ≤ j) →
    Memory.wf m = true → memRead (memWriteBytes m k bs) j = memRead m j
  | [], _, _, _, _, _ => rfl
  | b :: bs, m, k, j, hj, hm => by
    simp only [List.length_cons] at hj
    unfold memWriteBytes
    rw [memRead_memWriteBytes_other bs _ (k + 1) j (by omega) (wf_memWrite hm k b)]
    exact memRead_memWrite_other b m 0 k j (by omega) hm

/-- Writing several bytes leaves them to be read. -/
theorem memRead_memWriteBytes_same : ∀ (bs : List Byte) (m : Mem) (k j : Nat), j < bs.length → Memory.wf m = true →
    memRead (memWriteBytes m k bs) (k + j) = bs.getD j 0
  | [], _, _, _, hj, _ => absurd hj (by simp)
  | b :: bs, m, k, j, hj, hm => by
    unfold memWriteBytes
    cases j with
    | zero =>
      rw [memRead_memWriteBytes_other bs _ (k + 1) (k + 0) (by omega) (wf_memWrite hm k b)]
      simpa using memRead_memWrite_same b m 0 k hm
    | succ j =>
      have h := memRead_memWriteBytes_same bs (memWrite m k b) (k + 1) j (by simpa using hj) (wf_memWrite hm k b)
      rw [show k + (j + 1) = k + 1 + j by omega, h]
      simp

end Sys2Proof.Laws.Memory
end

