-- ==== Sys2Proof/Laws/Words.lean ====
section
/-! SUPPORT. What the decoder finds in a word that the encoder packed, one lemma for each format. -/

namespace Sys2Proof.Laws.Encoding

open Sys2Proof.Machine

/-! ### Bits of the packed words -/

/-- The bits of eight fields, the last lowest. -/
theorem bits8 {n1 n2 n3 n4 n5 n6 n7 n8 : Nat} (x1 : BitVec n1) (x2 : BitVec n2) (x3 : BitVec n3) (x4 : BitVec n4)
    (x5 : BitVec n5) (x6 : BitVec n6) (x7 : BitVec n7) (x8 : BitVec n8) (i : Nat) :
    (x1 ++ x2 ++ x3 ++ x4 ++ x5 ++ x6 ++ x7 ++ x8).getLsbD i =
    if i < n8 then x8.getLsbD i else if i < n8 + n7 then x7.getLsbD (i - n8)
    else if i < n8 + n7 + n6 then x6.getLsbD (i - (n8 + n7))
    else if i < n8 + n7 + n6 + n5 then x5.getLsbD (i - (n8 + n7 + n6))
    else if i < n8 + n7 + n6 + n5 + n4 then x4.getLsbD (i - (n8 + n7 + n6 + n5))
    else if i < n8 + n7 + n6 + n5 + n4 + n3 then x3.getLsbD (i - (n8 + n7 + n6 + n5 + n4))
    else if i < n8 + n7 + n6 + n5 + n4 + n3 + n2 then x2.getLsbD (i - (n8 + n7 + n6 + n5 + n4 + n3))
    else x1.getLsbD (i - (n8 + n7 + n6 + n5 + n4 + n3 + n2)) := by
  simp only [BitVec.getLsbD_append, Nat.sub_sub]
  repeat' split
  all_goals first | rfl | omega
/-- The bits of a format-A word. -/
theorem bit_packA (o : OpA) (f : BitVec 3) (op : BitVec 7) (i : Nat) : (packA o f op).getLsbD i =
    if i < 7 then op.getLsbD i else if i < 12 then o.d.getLsbD (i - 7) else if i < 17 then o.a.getLsbD (i - 12)
    else if i < 22 then o.b.getLsbD (i - 17) else if i < 25 then f.getLsbD (i - 22)
    else if i < 28 then o.q.getLsbD (i - 25) else if i < 29 then o.k.getLsbD (i - 28) else o.pr.getLsbD (i - 29) :=
  bits8 o.pr o.k o.q f o.b o.a o.d op i
/-- The bits of a format-I word. -/
theorem bit_packI (o : OpI) (op : BitVec 7) (i : Nat) : (packI o op).getLsbD i =
    if i < 7 then op.getLsbD i else if i < 12 then o.d.getLsbD (i - 7) else if i < 17 then o.a.getLsbD (i - 12)
    else if i < 29 then o.imm.getLsbD (i - 17) else o.pr.getLsbD (i - 29) := by
  have h : (packI o op).getLsbD i = (o.pr ++ o.imm ++ o.a ++ o.d ++ op).getLsbD i := rfl
  rw [h]
  simp only [BitVec.getLsbD_append, Nat.sub_sub]
  repeat' split
  all_goals first | rfl | omega
/-- The bits of a format-B word. -/
theorem bit_packB (o : OpB) (op : BitVec 7) (i : Nat) : (packB o op).getLsbD i =
    if i < 7 then op.getLsbD i else if i < 12 then o.lo.getLsbD (i - 7) else o.disp.getLsbD (i - 12) := by
  have h : (packB o op).getLsbD i = (o.disp ++ o.lo ++ op).getLsbD i := rfl
  rw [h]
  simp only [BitVec.getLsbD_append, Nat.sub_sub]
  repeat' split
  all_goals first | rfl | omega
/-- The bits of W1 of format M. -/
theorem bit_packM (o : OpM) (i : Nat) : (packM o).getLsbD i =
    if i < 20 then o.off.getLsbD i else if i < 25 then o.nu.getLsbD (i - 20) else if i < 28 then o.pol.getLsbD (i - 25)
    else o.sx.getLsbD (i - 28) := by
  have h : (packM o).getLsbD i = (o.sx ++ o.pol ++ o.nu ++ o.off).getLsbD i := rfl
  rw [h]
  simp only [BitVec.getLsbD_append, Nat.sub_sub]
  repeat' split
  all_goals first | rfl | omega
/-- The bits of W1 of format E. -/
theorem bit_packE (o : OpE) (i : Nat) : (packE o).getLsbD i =
    if i < 5 then o.guard.getLsbD i else if i < 10 then o.nur.getLsbD (i - 5) else if i < 15 then o.nuw.getLsbD (i - 10)
    else if i < 17 then o.ver.getLsbD (i - 15) else if i < 20 then o.sg.getLsbD (i - 17)
    else if i < 24 then o.shape.getLsbD (i - 20) else if i < 29 then o.fb.getLsbD (i - 24) else o.fo.getLsbD (i - 29) :=
  bits8 o.fo o.fb o.shape o.sg o.ver o.nuw o.nur o.guard i
/-- A context-level word (R79). -/
def wordC (o : OpC) (aop : BitVec 8) : Word := o.imm ++ (o.m ++ o.w ++ o.z ++ o.y ++ o.x ++ aop : W32)
/-- The bits of a context-level word. -/
theorem bit_packC (o : OpC) (aop : BitVec 8) (i : Nat) :
    (wordC o aop).getLsbD i =
    if i < 8 then aop.getLsbD i else if i < 12 then o.x.getLsbD (i - 8) else if i < 16 then o.y.getLsbD (i - 12)
    else if i < 20 then o.z.getLsbD (i - 16) else if i < 24 then o.w.getLsbD (i - 20)
    else if i < 32 then o.m.getLsbD (i - 24) else o.imm.getLsbD (i - 32) := by
  have h : (wordC o aop).getLsbD i =
    (o.imm ++ (o.m ++ o.w ++ o.z ++ o.y ++ o.x ++ aop)).getLsbD i := rfl
  rw [h]
  simp only [BitVec.getLsbD_append, Nat.sub_sub]
  repeat' split
  all_goals first | rfl | omega

/-! ### Fields of the packed words -/

/-- The op of a format-A word. -/
theorem op_packA (o : OpA) (f : BitVec 3) (op : BitVec 7) : (packA o f op).extractLsb' 0 7 = op := by
  ext i hi
  simp only [BitVec.getElem_extractLsb', bit_packA]
  simp [hi, BitVec.getLsbD_eq_getElem]
/-- Its function. -/
theorem f_packA (o : OpA) (f : BitVec 3) (op : BitVec 7) : fOf (packA o f op) = f.toNat := by
  unfold fOf; congr 1
  ext i hi
  simp only [BitVec.getElem_extractLsb', bit_packA]
  interval_cases i <;> simp
/-- Its fields. -/
theorem fields_packA (o : OpA) (f : BitVec 3) (op : BitVec 7) : fieldsA (packA o f op) = o := by
  obtain ⟨pr, k, q, b, a, d⟩ := o
  simp only [fieldsA, OpA.mk.injEq]
  refine ⟨?_, ?_, ?_, ?_, ?_, ?_⟩ <;>
  · apply BitVec.eq_of_getLsbD_eq
    intro i hi
    simp only [BitVec.getLsbD_extractLsb', bit_packA]
    have h : i < 5 := by omega
    interval_cases i <;> simp at hi ⊢
/-- Its length. -/
theorem long_packA (o : OpA) (f : BitVec 3) (op : BitVec 7) : isLong (packA o f op) = op.getLsbD 0 := by
  unfold isLong; rw [bit_packA]; rfl
/-- The op of a format-I word. -/
theorem op_packI (o : OpI) (op : BitVec 7) : (packI o op).extractLsb' 0 7 = op := by
  ext i hi
  simp only [BitVec.getElem_extractLsb', bit_packI]
  simp [hi, BitVec.getLsbD_eq_getElem]
/-- Its fields. -/
theorem fields_packI (o : OpI) (op : BitVec 7) : fieldsI (packI o op) = o := by
  obtain ⟨pr, imm, a, d⟩ := o
  simp only [fieldsI, OpI.mk.injEq]
  refine ⟨?_, ?_, ?_, ?_⟩ <;>
  · apply BitVec.eq_of_getLsbD_eq
    intro i hi
    simp only [BitVec.getLsbD_extractLsb', bit_packI]
    have h : i < 12 := by omega
    interval_cases i <;> simp at hi ⊢
/-- Its length. -/
theorem long_packI (o : OpI) (op : BitVec 7) : isLong (packI o op) = op.getLsbD 0 := by
  unfold isLong; rw [bit_packI]; rfl
/-- The op of a format-B word. -/
theorem op_packB (o : OpB) (op : BitVec 7) : (packB o op).extractLsb' 0 7 = op := by
  ext i hi
  simp only [BitVec.getElem_extractLsb', bit_packB]
  simp [hi, BitVec.getLsbD_eq_getElem]
/-- Its fields. -/
theorem fields_packB (o : OpB) (op : BitVec 7) : fieldsB (packB o op) = o := by
  obtain ⟨disp, lo⟩ := o
  simp only [fieldsB, OpB.mk.injEq]
  refine ⟨?_, ?_⟩ <;>
  · apply BitVec.eq_of_getLsbD_eq
    intro i hi
    simp only [BitVec.getLsbD_extractLsb', bit_packB]
    have h : i < 20 := by omega
    interval_cases i <;> simp at hi ⊢
/-- Its length. -/
theorem long_packB (o : OpB) (op : BitVec 7) : isLong (packB o op) = op.getLsbD 0 := by
  unfold isLong; rw [bit_packB]; rfl
/-- The fields of format M. -/
theorem fields_packM (o : OpM) (f : BitVec 3) (op : BitVec 7) : fieldsM (packA o.o f op) (packM o) = o := by
  obtain ⟨o, sx, pol, nu, off⟩ := o
  simp only [fieldsM, fields_packA, OpM.mk.injEq, true_and]
  refine ⟨?_, ?_, ?_, ?_⟩ <;>
  · apply BitVec.eq_of_getLsbD_eq
    intro i hi
    simp only [BitVec.getLsbD_extractLsb', bit_packM]
    have h : i < 20 := by omega
    interval_cases i <;> simp at hi ⊢
/-- The fields of format E. -/
theorem fields_packE (o : OpE) (f : BitVec 3) (op : BitVec 7) : fieldsE (packA o.o f op) (packE o) = o := by
  obtain ⟨o, fo, fb, shape, sg, ver, nuw, nur, guard⟩ := o
  simp only [fieldsE, fields_packA, OpE.mk.injEq, true_and]
  refine ⟨?_, ?_, ?_, ?_, ?_, ?_, ?_, ?_⟩ <;>
  · apply BitVec.eq_of_getLsbD_eq
    intro i hi
    simp only [BitVec.getLsbD_extractLsb', bit_packE]
    have h : i < 5 := by omega
    interval_cases i <;> simp at hi ⊢
/-- The fields of format X. -/
theorem fields_packX (o : OpX) (f : BitVec 3) (op : BitVec 7) : fieldsX (packA o.o f op) o.imm = o := by
  simp only [fieldsX, fields_packA]
/-- The op of a context-level word. -/
theorem op_packC (o : OpC) (aop : BitVec 8) :
    (wordC o aop).extractLsb' 0 8 = aop := by
  ext i hi
  simp only [BitVec.getElem_extractLsb', bit_packC]
  simp [hi, BitVec.getLsbD_eq_getElem]
/-- Its fields. -/
theorem fields_packC (o : OpC) (aop : BitVec 8) :
    fieldsC (wordC o aop) = o := by
  obtain ⟨imm, m, w, z, y, x⟩ := o
  simp only [fieldsC, OpC.mk.injEq]
  refine ⟨?_, ?_, ?_, ?_, ?_, ?_⟩ <;>
  · apply BitVec.eq_of_getLsbD_eq
    intro i hi
    simp only [BitVec.getLsbD_extractLsb', bit_packC]
    have h : i < 32 := by omega
    interval_cases i <;> simp at hi ⊢

/-! ### The formats -/

/-- A well-formed instruction's words decode to it. -/
def Statement (i : Instr) : Prop := wellFormed i = true → DecodesBack i

/-- An event has no words. -/
theorem noWords {i : Instr} (h : encode i = []) : Statement i := by
  intro _; unfold DecodesBack; simp [h]
/-- A short word whose candidate is the instruction decodes to it. -/
theorem ofShort {i : Instr} {w : W32} (he : encode i = [w]) (hl : isLong w = false)
    (hc : wellFormed i = true → candidateShort w = some i) : Statement i := by
  intro hw
  unfold DecodesBack
  simp only [he, List.cons.injEq, and_true, reduceCtorEq, and_false, false_implies, implies_true]
  rintro w0 rfl w1
  simp only [decodeKernel, hl, Bool.false_eq_true, if_false, hc hw, checked, hw, if_true]
/-- A long instruction whose candidate is the instruction decodes to it. -/
theorem ofLong {i : Instr} {v w : W32} (he : encode i = [v, w]) (ha : isAgentWord i = false) (hl : isLong v = true)
    (hc : candidateLong v w = some i) : Statement i := by
  intro hw
  unfold DecodesBack
  simp only [he, List.cons.injEq, and_true, ha, reduceCtorEq, and_false, false_implies, implies_true, true_and]
  rintro w0 w1 ⟨rfl, rfl⟩ _
  simp only [decodeKernel, hl, if_true, hc, checked, hw]
/-- A context-level word whose candidate is the instruction decodes to it. -/
theorem ofAgent {i : Instr} {v w : W32} (he : encode i = [v, w]) (ha : isAgentWord i = true)
    (hc : wellFormed i = true → candidateAgent (w ++ v) = some i) : Statement i := by
  intro hw
  unfold DecodesBack
  simp only [he, List.cons.injEq, and_true, ha, reduceCtorEq, and_false, false_implies, implies_true, true_and]
  rintro w0 w1 ⟨rfl, rfl⟩ _
  simp only [decodeAgent, hc hw, checked, hw, if_true]

variable {iA : OpA → Instr} {iI : OpI → Instr} {iB : OpB → Instr} {iM : OpM → Instr} {iE : OpE → Instr} {iX : OpX → Instr}
  {iC : OpC → Instr}

/-- Format A. -/
theorem shortA (f : BitVec 3) (op : BitVec 7) (he : ∀ o, encode (iA o) = [packA o f op]) (hl : op.getLsbD 0 = false)
    (hc : ∀ w : W32, w.extractLsb' 0 7 = op → fOf w = f.toNat → candidateShort w = some (iA (fieldsA w))) (o : OpA) :
    Statement (iA o) :=
  ofShort (he o) ((long_packA o f op).trans hl) fun _ => by
    rw [hc _ (op_packA o f op) (f_packA o f op), fields_packA]
/-- Format I. -/
theorem shortI (op : BitVec 7) (he : ∀ o, encode (iI o) = [packI o op]) (hl : op.getLsbD 0 = false)
    (hc : ∀ w : W32, w.extractLsb' 0 7 = op → candidateShort w = some (iI (fieldsI w))) (o : OpI) : Statement (iI o) :=
  ofShort (he o) ((long_packI o op).trans hl) fun _ => by rw [hc _ (op_packI o op), fields_packI]
/-- Format B. -/
theorem shortB (op : BitVec 7) (he : ∀ o, encode (iB o) = [packB o op]) (hl : op.getLsbD 0 = false)
    (hc : ∀ w : W32, w.extractLsb' 0 7 = op → candidateShort w = some (iB (fieldsB w))) (o : OpB) : Statement (iB o) :=
  ofShort (he o) ((long_packB o op).trans hl) fun _ => by rw [hc _ (op_packB o op), fields_packB]
/-- Format I with a condition in its d field (R67). -/
theorem cmpi (c : BitVec 2) (he : ∀ o, encode (iI o) = [packI (cmpiPack o c) 0x0E])
    (hw : ∀ o, wellFormed (iI o) = decide (o.d.toNat < 8))
    (hc : ∀ w : W32, w.extractLsb' 0 7 = 0x0E → (fieldsI w).d.toNat / 8 = c.toNat →
      candidateShort w = some (iI (cmpiFields (fieldsI w)))) (o : OpI) : Statement (iI o) :=
  ofShort (he o) ((long_packI _ _).trans rfl) fun h => by
    have hd : o.d.toNat < 8 := by simpa [hw] using h
    have hn : (cmpiPack o c).d.toNat = c.toNat * 8 + o.d.toNat := by
      simp only [cmpiPack, BitVec.toNat_append, BitVec.extractLsb'_toNat, Nat.shiftRight_zero]
      rw [Nat.shiftLeft_eq, Nat.mod_eq_of_lt (by omega : o.d.toNat < 2 ^ 3), ← Nat.shiftLeft_eq,
        Nat.shiftLeft_add_eq_or_of_lt (by omega : o.d.toNat < 2 ^ 3)]
    rw [hc _ (op_packI _ _) (by rw [fields_packI, hn]; omega), fields_packI]
    obtain ⟨pr, imm, a, d⟩ := o
    have : (cmpiPack ⟨pr, imm, a, d⟩ c).d &&& 7 = d := by
      apply BitVec.eq_of_toNat_eq
      rw [BitVec.toNat_and, hn]
      show (c.toNat * 8 + d.toNat) &&& (2 ^ 3 - 1) = _
      rw [Nat.and_two_pow_sub_one_eq_mod]
      have : d.toNat < 8 := hd
      omega
    simp only [cmpiFields, this]
    rfl
/-- Format B with a function in its lo field. -/
theorem gang (f : BitVec 5) (he : ∀ o, encode (iB o) = [packB o 0x2A]) (hw : ∀ o, wellFormed (iB o) = true → o.lo = f)
    (hc : ∀ w : W32, w.extractLsb' 0 7 = 0x2A → (fieldsB w).lo.toNat = f.toNat →
      candidateShort w = some (iB (fieldsB w))) (o : OpB) : Statement (iB o) :=
  ofShort (he o) ((long_packB _ _).trans rfl) fun h => by
    rw [hc _ (op_packB _ _) (by rw [fields_packB, hw o h]), fields_packB]
/-- Format I with reads and writes told apart by d. -/
theorem sys (he : ∀ o, encode (iI o) = [packI o 0x6C])
    (hc : ∀ w : W32, w.extractLsb' 0 7 = 0x6C → wellFormed (iI (fieldsI w)) = true →
      candidateShort w = some (iI (fieldsI w))) (o : OpI) : Statement (iI o) :=
  ofShort (he o) ((long_packI _ _).trans rfl) fun h => by
    rw [hc _ (op_packI _ _) (by rw [fields_packI]; exact h), fields_packI]
/-- Format M. -/
theorem longM (f : BitVec 3) (op : BitVec 7) (he : ∀ o, encode (iM o) = [packA o.o f op, packM o])
    (ha : ∀ o, isAgentWord (iM o) = false) (hl : op.getLsbD 0 = true)
    (hc : ∀ w w1 : W32, w.extractLsb' 0 7 = op → fOf w = f.toNat → candidateLong w w1 = some (iM (fieldsM w w1))) (o : OpM) :
    Statement (iM o) :=
  ofLong (he o) (ha o) ((long_packA o.o f op).trans hl) (by
    rw [hc _ _ (op_packA o.o f op) (f_packA o.o f op), fields_packM])
/-- Format E. -/
theorem longE (f : BitVec 3) (op : BitVec 7) (he : ∀ o, encode (iE o) = [packA o.o f op, packE o])
    (ha : ∀ o, isAgentWord (iE o) = false) (hl : op.getLsbD 0 = true)
    (hc : ∀ w w1 : W32, w.extractLsb' 0 7 = op → fOf w = f.toNat → candidateLong w w1 = some (iE (fieldsE w w1))) (o : OpE) :
    Statement (iE o) :=
  ofLong (he o) (ha o) ((long_packA o.o f op).trans hl) (by
    rw [hc _ _ (op_packA o.o f op) (f_packA o.o f op), fields_packE])
/-- Format X. -/
theorem longX (f : BitVec 3) (op : BitVec 7) (he : ∀ o, encode (iX o) = [packA o.o f op, o.imm])
    (ha : ∀ o, isAgentWord (iX o) = false) (hl : op.getLsbD 0 = true)
    (hc : ∀ w w1 : W32, w.extractLsb' 0 7 = op → fOf w = f.toNat → candidateLong w w1 = some (iX (fieldsX w w1))) (o : OpX) :
    Statement (iX o) :=
  ofLong (he o) (ha o) ((long_packA o.o f op).trans hl) (by
    rw [hc _ _ (op_packA o.o f op) (f_packA o.o f op), fields_packX])
/-- A context-level word. -/
theorem agent (aop : BitVec 8) (he : ∀ o, encode (iC o) = packC o aop) (ha : ∀ o, isAgentWord (iC o) = true)
    (hc : ∀ w : Word, w.extractLsb' 0 8 = aop → candidateAgent w = some (iC (fieldsC w))) (o : OpC) : Statement (iC o) :=
  ofAgent (he o) (ha o) fun _ => (hc _ (op_packC o aop)).trans (by rw [fields_packC])
/-- A context-level word whose function is m. -/
theorem agentM (aop m : BitVec 8) (he : ∀ o, encode (iC o) = packC o aop) (ha : ∀ o, isAgentWord (iC o) = true)
    (hw : ∀ o, wellFormed (iC o) = true → o.m = m)
    (hc : ∀ w : Word, w.extractLsb' 0 8 = aop → (fieldsC w).m = m → candidateAgent w = some (iC (fieldsC w))) (o : OpC) :
    Statement (iC o) :=
  ofAgent (he o) (ha o) fun h => (hc _ (op_packC o aop) (by rw [fields_packC, hw o h])).trans (by rw [fields_packC])

end Sys2Proof.Laws.Encoding
end

