-- ==== Sys2Proof/Laws/PerInstr.lean ====
section
/-! SUPPORT. One lemma for each constructor: the words of a well-formed instruction decode to it. -/

namespace Sys2Proof.Laws.Encoding

open Sys2Proof.Machine


theorem powerOn : Statement .powerOn := noWords rfl
theorem partReady x0 : Statement (.partReady x0) := noWords rfl
theorem registerWrite x0 x1 x2 x3 x4 : Statement (.registerWrite x0 x1 x2 x3 x4) := noWords rfl
theorem partStatusErrorClear : Statement .partStatusErrorClear := noWords rfl
theorem groupAssign x0 x1 : Statement (.groupAssign x0 x1) := noWords rfl
theorem groupZeroingDone x0 : Statement (.groupZeroingDone x0) := noWords rfl
theorem groupRemove x0 x1 : Statement (.groupRemove x0 x1) := noWords rfl
theorem formatRangeWrite x0 x1 x2 : Statement (.formatRangeWrite x0 x1 x2) := noWords rfl
theorem tenantBlockWrite x0 x1 x2 : Statement (.tenantBlockWrite x0 x1 x2) := noWords rfl
theorem clusterLeavePartition x0 x1 : Statement (.clusterLeavePartition x0 x1) := noWords rfl
theorem pcmdPreempt x0 x1 : Statement (.pcmdPreempt x0 x1) := noWords rfl
theorem pcmdPreemptUrgent x0 x1 : Statement (.pcmdPreemptUrgent x0 x1) := noWords rfl
theorem pcmdResume x0 x1 : Statement (.pcmdResume x0 x1) := noWords rfl
theorem contextSave x0 x1 : Statement (.contextSave x0 x1) := noWords rfl
theorem contextRestore x0 x1 : Statement (.contextRestore x0 x1) := noWords rfl
theorem vcmdReady x0 : Statement (.vcmdReady x0) := noWords rfl
theorem vcmdReset x0 : Statement (.vcmdReset x0) := noWords rfl
theorem functionLevelReset x0 : Statement (.functionLevelReset x0) := noWords rfl
theorem suplWrite x0 x1 : Statement (.suplWrite x0 x1) := noWords rfl
theorem lqDoorbell x0 x1 : Statement (.lqDoorbell x0 x1) := noWords rfl
theorem launchAccept x0 x1 : Statement (.launchAccept x0 x1) := noWords rfl
theorem launchProceed x0 : Statement (.launchProceed x0) := noWords rfl
theorem levelTakeContext x0 x1 : Statement (.levelTakeContext x0 x1) := noWords rfl
theorem repeatInstanceFinish x0 x1 : Statement (.repeatInstanceFinish x0 x1) := noWords rfl
theorem firingBind x0 : Statement (.firingBind x0) := noWords rfl
theorem starvationClose x0 : Statement (.starvationClose x0) := noWords rfl
theorem commitTakeEffect x0 : Statement (.commitTakeEffect x0) := noWords rfl
theorem watchdogExpiry x0 : Statement (.watchdogExpiry x0) := noWords rfl
theorem recordWrite x0 x1 : Statement (.recordWrite x0 x1) := noWords rfl
theorem messageDeliver x0 : Statement (.messageDeliver x0) := noWords rfl
theorem messageFillSlot x0 x1 : Statement (.messageFillSlot x0 x1) := noWords rfl
theorem launchComplete x0 : Statement (.launchComplete x0) := noWords rfl
theorem hardwareError x0 x1 x2 : Statement (.hardwareError x0 x1 x2) := noWords rfl
theorem explicitStorePerform x0 x1 x2 : Statement (.explicitStorePerform x0 x1 x2) := noWords rfl
theorem explicitLoadPerform x0 x1 x2 : Statement (.explicitLoadPerform x0 x1 x2) := noWords rfl
theorem loadDataReturn x0 x1 x2 x3 : Statement (.loadDataReturn x0 x1 x2 x3) := noWords rfl
theorem feWaiterServe x0 : Statement (.feWaiterServe x0) := noWords rfl
theorem clockBroadcast x0 x1 : Statement (.clockBroadcast x0 x1) := noWords rfl
theorem credibilityWindowClose x0 : Statement (.credibilityWindowClose x0) := noWords rfl
theorem invWrite x0 x1 : Statement (.invWrite x0 x1) := noWords rfl
theorem invalidationComplete x0 : Statement (.invalidationComplete x0) := noWords rfl
theorem priRestart x0 x1 : Statement (.priRestart x0 x1) := noWords rfl
theorem frerrRead x0 : Statement (.frerrRead x0) := noWords rfl
theorem apertureAccess x0 x1 x2 x3 x4 : Statement (.apertureAccess x0 x1 x2 x3 x4) := noWords rfl
theorem slotStart x0 : Statement (.slotStart x0) := noWords rfl
theorem slotStop x0 : Statement (.slotStop x0) := noWords rfl
theorem slotResume x0 : Statement (.slotResume x0) := noWords rfl
theorem slotReset x0 : Statement (.slotReset x0) := noWords rfl
theorem sigWrite x0 x1 : Statement (.sigWrite x0 x1) := noWords rfl
theorem membershipWrite x0 x1 : Statement (.membershipWrite x0 x1) := noWords rfl
theorem atsInvalidateRequest x0 x1 x2 x3 : Statement (.atsInvalidateRequest x0 x1 x2 x3) := noWords rfl
theorem translationCompletion x0 x1 x2 x3 x4 x5 : Statement (.translationCompletion x0 x1 x2 x3 x4 x5) := noWords rfl
theorem prgResponse x0 x1 : Statement (.prgResponse x0 x1) := noWords rfl
theorem pageRequestTimeout x0 : Statement (.pageRequestTimeout x0) := noWords rfl
theorem hostCompletionError x0 x1 x2 : Statement (.hostCompletionError x0 x1 x2) := noWords rfl
theorem flitCrcError x0 : Statement (.flitCrcError x0) := noWords rfl
theorem linkDown x0 : Statement (.linkDown x0) := noWords rfl
theorem remotePacketPerform x0 : Statement (.remotePacketPerform x0) := noWords rfl
theorem remoteReply x0 x1 x2 x3 x4 : Statement (.remoteReply x0 x1 x2 x3 x4) := noWords rfl
theorem remotePostedFault x0 x1 x2 : Statement (.remotePostedFault x0 x1 x2) := noWords rfl
theorem flushMarkerArrive x0 : Statement (.flushMarkerArrive x0) := noWords rfl
theorem flushAnswerArrive x0 : Statement (.flushAnswerArrive x0) := noWords rfl
theorem engineCommandStart x0 : Statement (.engineCommandStart x0) := noWords rfl
theorem enginePark x0 : Statement (.enginePark x0) := noWords rfl
theorem engineCommandComplete x0 : Statement (.engineCommandComplete x0) := noWords rfl
theorem engineCommandFault x0 x1 : Statement (.engineCommandFault x0 x1) := noWords rfl
theorem enginePreemptStop x0 : Statement (.enginePreemptStop x0) := noWords rfl
theorem nbmvPublish x0 : Statement (.nbmvPublish x0) := noWords rfl
theorem taskAccept x0 : Statement (.taskAccept x0) := noWords rfl
theorem taskIssue x0 : Statement (.taskIssue x0) := noWords rfl
theorem taskPublish x0 : Statement (.taskPublish x0) := noWords rfl
theorem taskRefire x0 : Statement (.taskRefire x0) := noWords rfl
theorem taskRetire x0 : Statement (.taskRetire x0) := noWords rfl
theorem taskFault x0 x1 : Statement (.taskFault x0 x1) := noWords rfl
theorem engineHwRerun x0 : Statement (.engineHwRerun x0) := noWords rfl
theorem taskPreemptStop x0 : Statement (.taskPreemptStop x0) := noWords rfl
theorem stepFill x0 x1 : Statement (.stepFill x0 x1) := noWords rfl
theorem stepCommit x0 x1 : Statement (.stepCommit x0 x1) := noWords rfl
theorem evictionStart x0 : Statement (.evictionStart x0) := noWords rfl
theorem evictionCommit x0 x1 : Statement (.evictionCommit x0 x1) := noWords rfl
theorem promotionStart x0 : Statement (.promotionStart x0) := noWords rfl
theorem promotionComplete x0 x1 x2 : Statement (.promotionComplete x0 x1 x2) := noWords rfl
theorem integrityFailure x0 x1 : Statement (.integrityFailure x0 x1) := noWords rfl
theorem blockRehome x0 x1 x2 : Statement (.blockRehome x0 x1 x2) := noWords rfl
theorem aluAdd (o : OpA) : Statement (.aluAdd o) := shortA 0 0x02 (fun _ => rfl) rfl (fun w h hf => by
  unfold candidateShort; rw [h, hf]; rfl) o
theorem aluSub (o : OpA) : Statement (.aluSub o) := shortA 1 0x02 (fun _ => rfl) rfl (fun w h hf => by
  unfold candidateShort; rw [h, hf]; rfl) o
theorem aluAnd (o : OpA) : Statement (.aluAnd o) := shortA 2 0x02 (fun _ => rfl) rfl (fun w h hf => by
  unfold candidateShort; rw [h, hf]; rfl) o
theorem aluOr (o : OpA) : Statement (.aluOr o) := shortA 3 0x02 (fun _ => rfl) rfl (fun w h hf => by
  unfold candidateShort; rw [h, hf]; rfl) o
theorem aluXor (o : OpA) : Statement (.aluXor o) := shortA 4 0x02 (fun _ => rfl) rfl (fun w h hf => by
  unfold candidateShort; rw [h, hf]; rfl) o
theorem aluShl (o : OpA) : Statement (.aluShl o) := shortA 5 0x02 (fun _ => rfl) rfl (fun w h hf => by
  unfold candidateShort; rw [h, hf]; rfl) o
theorem aluShr (o : OpA) : Statement (.aluShr o) := shortA 6 0x02 (fun _ => rfl) rfl (fun w h hf => by
  unfold candidateShort; rw [h, hf]; rfl) o
theorem aluSra (o : OpA) : Statement (.aluSra o) := shortA 7 0x02 (fun _ => rfl) rfl (fun w h hf => by
  unfold candidateShort; rw [h, hf]; rfl) o
theorem alui (o : OpI) : Statement (.alui o) := shortI 0x04 (fun _ => rfl) rfl (fun w h => by
  unfold candidateShort; rw [h]; rfl) o
theorem muldivMul (o : OpA) : Statement (.muldivMul o) := shortA 0 0x06 (fun _ => rfl) rfl (fun w h hf => by
  unfold candidateShort; rw [h, hf]; rfl) o
theorem muldivMulh (o : OpA) : Statement (.muldivMulh o) := shortA 1 0x06 (fun _ => rfl) rfl (fun w h hf => by
  unfold candidateShort; rw [h, hf]; rfl) o
theorem muldivMulhu (o : OpA) : Statement (.muldivMulhu o) := shortA 2 0x06 (fun _ => rfl) rfl (fun w h hf => by
  unfold candidateShort; rw [h, hf]; rfl) o
theorem muldivDiv (o : OpA) : Statement (.muldivDiv o) := shortA 3 0x06 (fun _ => rfl) rfl (fun w h hf => by
  unfold candidateShort; rw [h, hf]; rfl) o
theorem muldivDivu (o : OpA) : Statement (.muldivDivu o) := shortA 4 0x06 (fun _ => rfl) rfl (fun w h hf => by
  unfold candidateShort; rw [h, hf]; rfl) o
theorem muldivRem (o : OpA) : Statement (.muldivRem o) := shortA 5 0x06 (fun _ => rfl) rfl (fun w h hf => by
  unfold candidateShort; rw [h, hf]; rfl) o
theorem muldivRemu (o : OpA) : Statement (.muldivRemu o) := shortA 6 0x06 (fun _ => rfl) rfl (fun w h hf => by
  unfold candidateShort; rw [h, hf]; rfl) o
theorem bitsClz (o : OpA) : Statement (.bitsClz o) := shortA 0 0x08 (fun _ => rfl) rfl (fun w h hf => by
  unfold candidateShort; rw [h, hf]; rfl) o
theorem bitsCtz (o : OpA) : Statement (.bitsCtz o) := shortA 1 0x08 (fun _ => rfl) rfl (fun w h hf => by
  unfold candidateShort; rw [h, hf]; rfl) o
theorem bitsPopc (o : OpA) : Statement (.bitsPopc o) := shortA 2 0x08 (fun _ => rfl) rfl (fun w h hf => by
  unfold candidateShort; rw [h, hf]; rfl) o
theorem bitsBrev (o : OpA) : Statement (.bitsBrev o) := shortA 3 0x08 (fun _ => rfl) rfl (fun w h hf => by
  unfold candidateShort; rw [h, hf]; rfl) o
theorem bitsBswap (o : OpA) : Statement (.bitsBswap o) := shortA 4 0x08 (fun _ => rfl) rfl (fun w h hf => by
  unfold candidateShort; rw [h, hf]; rfl) o
theorem bitsExtu (o : OpA) : Statement (.bitsExtu o) := shortA 5 0x08 (fun _ => rfl) rfl (fun w h hf => by
  unfold candidateShort; rw [h, hf]; rfl) o
theorem bitsExts (o : OpA) : Statement (.bitsExts o) := shortA 6 0x08 (fun _ => rfl) rfl (fun w h hf => by
  unfold candidateShort; rw [h, hf]; rfl) o
theorem bitsRotr (o : OpA) : Statement (.bitsRotr o) := shortA 7 0x08 (fun _ => rfl) rfl (fun w h hf => by
  unfold candidateShort; rw [h, hf]; rfl) o
theorem minmaxMin (o : OpA) : Statement (.minmaxMin o) := shortA 0 0x0A (fun _ => rfl) rfl (fun w h hf => by
  unfold candidateShort; rw [h, hf]; rfl) o
theorem minmaxMax (o : OpA) : Statement (.minmaxMax o) := shortA 1 0x0A (fun _ => rfl) rfl (fun w h hf => by
  unfold candidateShort; rw [h, hf]; rfl) o
theorem minmaxMinu (o : OpA) : Statement (.minmaxMinu o) := shortA 2 0x0A (fun _ => rfl) rfl (fun w h hf => by
  unfold candidateShort; rw [h, hf]; rfl) o
theorem minmaxMaxu (o : OpA) : Statement (.minmaxMaxu o) := shortA 3 0x0A (fun _ => rfl) rfl (fun w h hf => by
  unfold candidateShort; rw [h, hf]; rfl) o
theorem minmaxAbs (o : OpA) : Statement (.minmaxAbs o) := shortA 4 0x0A (fun _ => rfl) rfl (fun w h hf => by
  unfold candidateShort; rw [h, hf]; rfl) o
theorem minmaxAdds (o : OpA) : Statement (.minmaxAdds o) := shortA 5 0x0A (fun _ => rfl) rfl (fun w h hf => by
  unfold candidateShort; rw [h, hf]; rfl) o
theorem minmaxSubs (o : OpA) : Statement (.minmaxSubs o) := shortA 6 0x0A (fun _ => rfl) rfl (fun w h hf => by
  unfold candidateShort; rw [h, hf]; rfl) o
theorem cmpEq (o : OpA) : Statement (.cmpEq o) := shortA 0 0x0C (fun _ => rfl) rfl (fun w h hf => by
  unfold candidateShort; rw [h, hf]; rfl) o
theorem cmpNe (o : OpA) : Statement (.cmpNe o) := shortA 1 0x0C (fun _ => rfl) rfl (fun w h hf => by
  unfold candidateShort; rw [h, hf]; rfl) o
theorem cmpLt (o : OpA) : Statement (.cmpLt o) := shortA 2 0x0C (fun _ => rfl) rfl (fun w h hf => by
  unfold candidateShort; rw [h, hf]; rfl) o
theorem cmpGe (o : OpA) : Statement (.cmpGe o) := shortA 3 0x0C (fun _ => rfl) rfl (fun w h hf => by
  unfold candidateShort; rw [h, hf]; rfl) o
theorem cmpLtu (o : OpA) : Statement (.cmpLtu o) := shortA 4 0x0C (fun _ => rfl) rfl (fun w h hf => by
  unfold candidateShort; rw [h, hf]; rfl) o
theorem cmpGeu (o : OpA) : Statement (.cmpGeu o) := shortA 5 0x0C (fun _ => rfl) rfl (fun w h hf => by
  unfold candidateShort; rw [h, hf]; rfl) o
theorem cmpTst (o : OpA) : Statement (.cmpTst o) := shortA 6 0x0C (fun _ => rfl) rfl (fun w h hf => by
  unfold candidateShort; rw [h, hf]; rfl) o
theorem cmpiEq (o : OpI) : Statement (.cmpiEq o) := cmpi 0 (fun _ => rfl) (fun _ => rfl) (fun w h hd => by
  unfold candidateShort; rw [h]; show (match (fieldsI w).d.toNat / 8 with | 0 => _ | 1 => _ | 2 => _ | _ => _) = _; rw [hd]; rfl) o
theorem cmpiNe (o : OpI) : Statement (.cmpiNe o) := cmpi 1 (fun _ => rfl) (fun _ => rfl) (fun w h hd => by
  unfold candidateShort; rw [h]; show (match (fieldsI w).d.toNat / 8 with | 0 => _ | 1 => _ | 2 => _ | _ => _) = _; rw [hd]; rfl) o
theorem cmpiLt (o : OpI) : Statement (.cmpiLt o) := cmpi 2 (fun _ => rfl) (fun _ => rfl) (fun w h hd => by
  unfold candidateShort; rw [h]; show (match (fieldsI w).d.toNat / 8 with | 0 => _ | 1 => _ | 2 => _ | _ => _) = _; rw [hd]; rfl) o
theorem cmpiLtu (o : OpI) : Statement (.cmpiLtu o) := cmpi 3 (fun _ => rfl) (fun _ => rfl) (fun w h hd => by
  unfold candidateShort; rw [h]; show (match (fieldsI w).d.toNat / 8 with | 0 => _ | 1 => _ | 2 => _ | _ => _) = _; rw [hd]; rfl) o
theorem plogAnd (o : OpA) : Statement (.plogAnd o) := shortA 0 0x10 (fun _ => rfl) rfl (fun w h hf => by
  unfold candidateShort; rw [h, hf]; rfl) o
theorem plogOr (o : OpA) : Statement (.plogOr o) := shortA 1 0x10 (fun _ => rfl) rfl (fun w h hf => by
  unfold candidateShort; rw [h, hf]; rfl) o
theorem plogXor (o : OpA) : Statement (.plogXor o) := shortA 2 0x10 (fun _ => rfl) rfl (fun w h hf => by
  unfold candidateShort; rw [h, hf]; rfl) o
theorem plogAndn (o : OpA) : Statement (.plogAndn o) := shortA 3 0x10 (fun _ => rfl) rfl (fun w h hf => by
  unfold candidateShort; rw [h, hf]; rfl) o
theorem plogNot (o : OpA) : Statement (.plogNot o) := shortA 4 0x10 (fun _ => rfl) rfl (fun w h hf => by
  unfold candidateShort; rw [h, hf]; rfl) o
theorem plogSetx (o : OpA) : Statement (.plogSetx o) := shortA 5 0x10 (fun _ => rfl) rfl (fun w h hf => by
  unfold candidateShort; rw [h, hf]; rfl) o
theorem plogGetx (o : OpA) : Statement (.plogGetx o) := shortA 6 0x10 (fun _ => rfl) rfl (fun w h hf => by
  unfold candidateShort; rw [h, hf]; rfl) o
theorem gmovGet (o : OpA) : Statement (.gmovGet o) := shortA 0 0x12 (fun _ => rfl) rfl (fun w h hf => by
  unfold candidateShort; rw [h, hf]; rfl) o
theorem gmovAgree (o : OpA) : Statement (.gmovAgree o) := shortA 1 0x12 (fun _ => rfl) rfl (fun w h hf => by
  unfold candidateShort; rw [h, hf]; rfl) o
theorem gmovPut (o : OpA) : Statement (.gmovPut o) := shortA 2 0x12 (fun _ => rfl) rfl (fun w h hf => by
  unfold candidateShort; rw [h, hf]; rfl) o
theorem gmovAny (o : OpA) : Statement (.gmovAny o) := shortA 3 0x12 (fun _ => rfl) rfl (fun w h hf => by
  unfold candidateShort; rw [h, hf]; rfl) o
theorem gmovAll (o : OpA) : Statement (.gmovAll o) := shortA 4 0x12 (fun _ => rfl) rfl (fun w h hf => by
  unfold candidateShort; rw [h, hf]; rfl) o
theorem gmovCount (o : OpA) : Statement (.gmovCount o) := shortA 5 0x12 (fun _ => rfl) rfl (fun w h hf => by
  unfold candidateShort; rw [h, hf]; rfl) o
theorem idLvl (o : OpA) : Statement (.idLvl o) := shortA 0 0x14 (fun _ => rfl) rfl (fun w h hf => by
  unfold candidateShort; rw [h, hf]; rfl) o
theorem idCore (o : OpA) : Statement (.idCore o) := shortA 1 0x14 (fun _ => rfl) rfl (fun w h hf => by
  unfold candidateShort; rw [h, hf]; rfl) o
theorem idGpos (o : OpA) : Statement (.idGpos o) := shortA 2 0x14 (fun _ => rfl) rfl (fun w h hf => by
  unfold candidateShort; rw [h, hf]; rfl) o
theorem idGwid (o : OpA) : Statement (.idGwid o) := shortA 3 0x14 (fun _ => rfl) rfl (fun w h hf => by
  unfold candidateShort; rw [h, hf]; rfl) o
theorem idClus (o : OpA) : Statement (.idClus o) := shortA 4 0x14 (fun _ => rfl) rfl (fun w h hf => by
  unfold candidateShort; rw [h, hf]; rfl) o
theorem idCnt (o : OpA) : Statement (.idCnt o) := shortA 5 0x14 (fun _ => rfl) rfl (fun w h hf => by
  unfold candidateShort; rw [h, hf]; rfl) o
theorem idLane (o : OpA) : Statement (.idLane o) := shortA 6 0x14 (fun _ => rfl) rfl (fun w h hf => by
  unfold candidateShort; rw [h, hf]; rfl) o
theorem idPkg (o : OpA) : Statement (.idPkg o) := shortA 7 0x14 (fun _ => rfl) rfl (fun w h hf => by
  unfold candidateShort; rw [h, hf]; rfl) o
theorem br (o : OpB) : Statement (.br o) := shortB 0x20 (fun _ => rfl) rfl (fun w h => by
  unfold candidateShort; rw [h]; rfl) o
theorem jal (o : OpB) : Statement (.jal o) := shortB 0x22 (fun _ => rfl) rfl (fun w h => by
  unfold candidateShort; rw [h]; rfl) o
theorem jr (o : OpA) : Statement (.jr o) := shortA 0 0x24 (fun _ => rfl) rfl (fun w h hf => by
  unfold candidateShort; rw [h, hf]; rfl) o
theorem endCommit (o : OpA) : Statement (.endCommit o) := shortA 0 0x26 (fun _ => rfl) rfl (fun w h hf => by
  unfold candidateShort; rw [h, hf]; rfl) o
theorem endRetry (o : OpA) : Statement (.endRetry o) := shortA 1 0x26 (fun _ => rfl) rfl (fun w h hf => by
  unfold candidateShort; rw [h, hf]; rfl) o
theorem endFail (o : OpA) : Statement (.endFail o) := shortA 2 0x26 (fun _ => rfl) rfl (fun w h hf => by
  unfold candidateShort; rw [h, hf]; rfl) o
theorem regionOpen (o : OpA) : Statement (.regionOpen o) := shortA 0 0x28 (fun _ => rfl) rfl (fun w h hf => by
  unfold candidateShort; rw [h, hf]; rfl) o
theorem regionClose (o : OpA) : Statement (.regionClose o) := shortA 1 0x28 (fun _ => rfl) rfl (fun w h hf => by
  unfold candidateShort; rw [h, hf]; rfl) o
theorem gangSplit (o : OpB) : Statement (.gangSplit o) := gang 0 (fun _ => rfl) (fun o h => by
  have h : (o.lo == 0 && o.disp == 0) = true := h
  simp only [Bool.and_eq_true, beq_iff_eq] at h; simp only [h]) (fun w h hd => by
  unfold candidateShort; rw [h]; show (match (fieldsB w).lo.toNat % 8 with | 0 => _ | 1 => _ | 2 => _ | _ => _) = _; rw [hd]; rfl) o
theorem gangFuse (o : OpB) : Statement (.gangFuse o) := gang 1 (fun _ => rfl) (fun o h => by
  have h : (o.lo == 1) = true := h
  simp only [Bool.and_eq_true, beq_iff_eq] at h; simp only [h]) (fun w h hd => by
  unfold candidateShort; rw [h]; show (match (fieldsB w).lo.toNat % 8 with | 0 => _ | 1 => _ | 2 => _ | _ => _) = _; rw [hd]; rfl) o
theorem gangAlign (o : OpB) : Statement (.gangAlign o) := gang 2 (fun _ => rfl) (fun o h => by
  have h : (o.lo == 2 && o.disp == 0) = true := h
  simp only [Bool.and_eq_true, beq_iff_eq] at h; simp only [h]) (fun w h hd => by
  unfold candidateShort; rw [h]; show (match (fieldsB w).lo.toNat % 8 with | 0 => _ | 1 => _ | 2 => _ | _ => _) = _; rw [hd]; rfl) o
theorem moviLo (o : OpX) : Statement (.moviLo o) := longX 0 0x01 (fun _ => rfl) (fun _ => rfl) rfl (fun w w1 h hf => by
  unfold candidateLong; rw [h, hf]; rfl) o
theorem moviHi (o : OpX) : Statement (.moviHi o) := longX 1 0x01 (fun _ => rfl) (fun _ => rfl) rfl (fun w w1 h hf => by
  unfold candidateLong; rw [h, hf]; rfl) o
theorem moviZ (o : OpX) : Statement (.moviZ o) := longX 2 0x01 (fun _ => rfl) (fun _ => rfl) rfl (fun w w1 h hf => by
  unfold candidateLong; rw [h, hf]; rfl) o
theorem alulAdd (o : OpX) : Statement (.alulAdd o) := longX 0 0x03 (fun _ => rfl) (fun _ => rfl) rfl (fun w w1 h hf => by
  unfold candidateLong; rw [h, hf]; rfl) o
theorem alulAnd (o : OpX) : Statement (.alulAnd o) := longX 1 0x03 (fun _ => rfl) (fun _ => rfl) rfl (fun w w1 h hf => by
  unfold candidateLong; rw [h, hf]; rfl) o
theorem alulOr (o : OpX) : Statement (.alulOr o) := longX 2 0x03 (fun _ => rfl) (fun _ => rfl) rfl (fun w w1 h hf => by
  unfold candidateLong; rw [h, hf]; rfl) o
theorem alulXor (o : OpX) : Statement (.alulXor o) := longX 3 0x03 (fun _ => rfl) (fun _ => rfl) rfl (fun w w1 h hf => by
  unfold candidateLong; rw [h, hf]; rfl) o
theorem alulShl (o : OpX) : Statement (.alulShl o) := longX 4 0x03 (fun _ => rfl) (fun _ => rfl) rfl (fun w w1 h hf => by
  unfold candidateLong; rw [h, hf]; rfl) o
theorem alulShr (o : OpX) : Statement (.alulShr o) := longX 5 0x03 (fun _ => rfl) (fun _ => rfl) rfl (fun w w1 h hf => by
  unfold candidateLong; rw [h, hf]; rfl) o
theorem alulSra (o : OpX) : Statement (.alulSra o) := longX 6 0x03 (fun _ => rfl) (fun _ => rfl) rfl (fun w w1 h hf => by
  unfold candidateLong; rw [h, hf]; rfl) o
theorem varithAdd (o : OpA) : Statement (.varithAdd o) := shortA 0 0x30 (fun _ => rfl) rfl (fun w h hf => by
  unfold candidateShort; rw [h, hf]; rfl) o
theorem varithSub (o : OpA) : Statement (.varithSub o) := shortA 1 0x30 (fun _ => rfl) rfl (fun w h hf => by
  unfold candidateShort; rw [h, hf]; rfl) o
theorem varithMul (o : OpA) : Statement (.varithMul o) := shortA 2 0x30 (fun _ => rfl) rfl (fun w h hf => by
  unfold candidateShort; rw [h, hf]; rfl) o
theorem varithMin (o : OpA) : Statement (.varithMin o) := shortA 3 0x30 (fun _ => rfl) rfl (fun w h hf => by
  unfold candidateShort; rw [h, hf]; rfl) o
theorem varithMax (o : OpA) : Statement (.varithMax o) := shortA 4 0x30 (fun _ => rfl) rfl (fun w h hf => by
  unfold candidateShort; rw [h, hf]; rfl) o
theorem varithAdds (o : OpA) : Statement (.varithAdds o) := shortA 5 0x30 (fun _ => rfl) rfl (fun w h hf => by
  unfold candidateShort; rw [h, hf]; rfl) o
theorem varithSubs (o : OpA) : Statement (.varithSubs o) := shortA 6 0x30 (fun _ => rfl) rfl (fun w h hf => by
  unfold candidateShort; rw [h, hf]; rfl) o
theorem varithAbs (o : OpA) : Statement (.varithAbs o) := shortA 7 0x30 (fun _ => rfl) rfl (fun w h hf => by
  unfold candidateShort; rw [h, hf]; rfl) o
theorem vfmaFma (o : OpA) : Statement (.vfmaFma o) := shortA 0 0x32 (fun _ => rfl) rfl (fun w h hf => by
  unfold candidateShort; rw [h, hf]; rfl) o
theorem vfmaFms (o : OpA) : Statement (.vfmaFms o) := shortA 1 0x32 (fun _ => rfl) rfl (fun w h hf => by
  unfold candidateShort; rw [h, hf]; rfl) o
theorem vfmaFnma (o : OpA) : Statement (.vfmaFnma o) := shortA 2 0x32 (fun _ => rfl) rfl (fun w h hf => by
  unfold candidateShort; rw [h, hf]; rfl) o
theorem vfmaFnms (o : OpA) : Statement (.vfmaFnms o) := shortA 3 0x32 (fun _ => rfl) rfl (fun w h hf => by
  unfold candidateShort; rw [h, hf]; rfl) o
theorem vdotBf16 (o : OpA) : Statement (.vdotBf16 o) := shortA 0 0x40 (fun _ => rfl) rfl (fun w h hf => by
  unfold candidateShort; rw [h, hf]; rfl) o
theorem vdotFp16 (o : OpA) : Statement (.vdotFp16 o) := shortA 1 0x40 (fun _ => rfl) rfl (fun w h hf => by
  unfold candidateShort; rw [h, hf]; rfl) o
theorem vdotE4m3 (o : OpA) : Statement (.vdotE4m3 o) := shortA 2 0x40 (fun _ => rfl) rfl (fun w h hf => by
  unfold candidateShort; rw [h, hf]; rfl) o
theorem vdotE5m2 (o : OpA) : Statement (.vdotE5m2 o) := shortA 3 0x40 (fun _ => rfl) rfl (fun w h hf => by
  unfold candidateShort; rw [h, hf]; rfl) o
theorem vdotI8 (o : OpA) : Statement (.vdotI8 o) := shortA 4 0x40 (fun _ => rfl) rfl (fun w h hf => by
  unfold candidateShort; rw [h, hf]; rfl) o
theorem vdotU8 (o : OpA) : Statement (.vdotU8 o) := shortA 5 0x40 (fun _ => rfl) rfl (fun w h hf => by
  unfold candidateShort; rw [h, hf]; rfl) o
theorem vdotI8u8 (o : OpA) : Statement (.vdotI8u8 o) := shortA 6 0x40 (fun _ => rfl) rfl (fun w h hf => by
  unfold candidateShort; rw [h, hf]; rfl) o
theorem vredAdd (o : OpA) : Statement (.vredAdd o) := shortA 0 0x3E (fun _ => rfl) rfl (fun w h hf => by
  unfold candidateShort; rw [h, hf]; rfl) o
theorem vredMin (o : OpA) : Statement (.vredMin o) := shortA 1 0x3E (fun _ => rfl) rfl (fun w h hf => by
  unfold candidateShort; rw [h, hf]; rfl) o
theorem vredMax (o : OpA) : Statement (.vredMax o) := shortA 2 0x3E (fun _ => rfl) rfl (fun w h hf => by
  unfold candidateShort; rw [h, hf]; rfl) o
theorem vredAddw (o : OpA) : Statement (.vredAddw o) := shortA 3 0x3E (fun _ => rfl) rfl (fun w h hf => by
  unfold candidateShort; rw [h, hf]; rfl) o
theorem vredAnd (o : OpA) : Statement (.vredAnd o) := shortA 4 0x3E (fun _ => rfl) rfl (fun w h hf => by
  unfold candidateShort; rw [h, hf]; rfl) o
theorem vredOr (o : OpA) : Statement (.vredOr o) := shortA 5 0x3E (fun _ => rfl) rfl (fun w h hf => by
  unfold candidateShort; rw [h, hf]; rfl) o
theorem vredXor (o : OpA) : Statement (.vredXor o) := shortA 6 0x3E (fun _ => rfl) rfl (fun w h hf => by
  unfold candidateShort; rw [h, hf]; rfl) o
theorem vredImax (o : OpA) : Statement (.vredImax o) := shortA 7 0x3E (fun _ => rfl) rfl (fun w h hf => by
  unfold candidateShort; rw [h, hf]; rfl) o
theorem vlogicAnd (o : OpA) : Statement (.vlogicAnd o) := shortA 0 0x34 (fun _ => rfl) rfl (fun w h hf => by
  unfold candidateShort; rw [h, hf]; rfl) o
theorem vlogicOr (o : OpA) : Statement (.vlogicOr o) := shortA 1 0x34 (fun _ => rfl) rfl (fun w h hf => by
  unfold candidateShort; rw [h, hf]; rfl) o
theorem vlogicXor (o : OpA) : Statement (.vlogicXor o) := shortA 2 0x34 (fun _ => rfl) rfl (fun w h hf => by
  unfold candidateShort; rw [h, hf]; rfl) o
theorem vlogicAndn (o : OpA) : Statement (.vlogicAndn o) := shortA 3 0x34 (fun _ => rfl) rfl (fun w h hf => by
  unfold candidateShort; rw [h, hf]; rfl) o
theorem vlogicNot (o : OpA) : Statement (.vlogicNot o) := shortA 4 0x34 (fun _ => rfl) rfl (fun w h hf => by
  unfold candidateShort; rw [h, hf]; rfl) o
theorem vlogicShl (o : OpA) : Statement (.vlogicShl o) := shortA 5 0x34 (fun _ => rfl) rfl (fun w h hf => by
  unfold candidateShort; rw [h, hf]; rfl) o
theorem vlogicShr (o : OpA) : Statement (.vlogicShr o) := shortA 6 0x34 (fun _ => rfl) rfl (fun w h hf => by
  unfold candidateShort; rw [h, hf]; rfl) o
theorem vlogicSra (o : OpA) : Statement (.vlogicSra o) := shortA 7 0x34 (fun _ => rfl) rfl (fun w h hf => by
  unfold candidateShort; rw [h, hf]; rfl) o
theorem vcmpEq (o : OpA) : Statement (.vcmpEq o) := shortA 0 0x36 (fun _ => rfl) rfl (fun w h hf => by
  unfold candidateShort; rw [h, hf]; rfl) o
theorem vcmpNe (o : OpA) : Statement (.vcmpNe o) := shortA 1 0x36 (fun _ => rfl) rfl (fun w h hf => by
  unfold candidateShort; rw [h, hf]; rfl) o
theorem vcmpLt (o : OpA) : Statement (.vcmpLt o) := shortA 2 0x36 (fun _ => rfl) rfl (fun w h hf => by
  unfold candidateShort; rw [h, hf]; rfl) o
theorem vcmpLe (o : OpA) : Statement (.vcmpLe o) := shortA 3 0x36 (fun _ => rfl) rfl (fun w h hf => by
  unfold candidateShort; rw [h, hf]; rfl) o
theorem vcmpLtu (o : OpA) : Statement (.vcmpLtu o) := shortA 4 0x36 (fun _ => rfl) rfl (fun w h hf => by
  unfold candidateShort; rw [h, hf]; rfl) o
theorem vcmpLeu (o : OpA) : Statement (.vcmpLeu o) := shortA 5 0x36 (fun _ => rfl) rfl (fun w h hf => by
  unfold candidateShort; rw [h, hf]; rfl) o
theorem vcmpUn (o : OpA) : Statement (.vcmpUn o) := shortA 6 0x36 (fun _ => rfl) rfl (fun w h hf => by
  unfold candidateShort; rw [h, hf]; rfl) o
theorem vselSel (o : OpA) : Statement (.vselSel o) := shortA 0 0x38 (fun _ => rfl) rfl (fun w h hf => by
  unfold candidateShort; rw [h, hf]; rfl) o
theorem vselZero (o : OpA) : Statement (.vselZero o) := shortA 1 0x38 (fun _ => rfl) rfl (fun w h hf => by
  unfold candidateShort; rw [h, hf]; rfl) o
theorem vselCmpr (o : OpA) : Statement (.vselCmpr o) := shortA 2 0x38 (fun _ => rfl) rfl (fun w h hf => by
  unfold candidateShort; rw [h, hf]; rfl) o
theorem vselExpd (o : OpA) : Statement (.vselExpd o) := shortA 3 0x38 (fun _ => rfl) rfl (fun w h hf => by
  unfold candidateShort; rw [h, hf]; rfl) o
theorem vcvtRne (o : OpA) : Statement (.vcvtRne o) := shortA 0 0x3A (fun _ => rfl) rfl (fun w h hf => by
  unfold candidateShort; rw [h, hf]; rfl) o
theorem vcvtRtz (o : OpA) : Statement (.vcvtRtz o) := shortA 1 0x3A (fun _ => rfl) rfl (fun w h hf => by
  unfold candidateShort; rw [h, hf]; rfl) o
theorem vcvtRup (o : OpA) : Statement (.vcvtRup o) := shortA 2 0x3A (fun _ => rfl) rfl (fun w h hf => by
  unfold candidateShort; rw [h, hf]; rfl) o
theorem vcvtRdn (o : OpA) : Statement (.vcvtRdn o) := shortA 3 0x3A (fun _ => rfl) rfl (fun w h hf => by
  unfold candidateShort; rw [h, hf]; rfl) o
theorem vcvtSto (o : OpA) : Statement (.vcvtSto o) := shortA 4 0x3A (fun _ => rfl) rfl (fun w h hf => by
  unfold candidateShort; rw [h, hf]; rfl) o
theorem vcvtWide (o : OpA) : Statement (.vcvtWide o) := shortA 5 0x3A (fun _ => rfl) rfl (fun w h hf => by
  unfold candidateShort; rw [h, hf]; rfl) o
theorem vscaleLdexp (o : OpA) : Statement (.vscaleLdexp o) := shortA 0 0x4C (fun _ => rfl) rfl (fun w h hf => by
  unfold candidateShort; rw [h, hf]; rfl) o
theorem vscaleMx (o : OpA) : Statement (.vscaleMx o) := shortA 1 0x4C (fun _ => rfl) rfl (fun w h hf => by
  unfold candidateShort; rw [h, hf]; rfl) o
theorem vscaleSb4 (o : OpA) : Statement (.vscaleSb4 o) := shortA 2 0x4C (fun _ => rfl) rfl (fun w h hf => by
  unfold candidateShort; rw [h, hf]; rfl) o
theorem vscaleCb (o : OpA) : Statement (.vscaleCb o) := shortA 3 0x4C (fun _ => rfl) rfl (fun w h hf => by
  unfold candidateShort; rw [h, hf]; rfl) o
theorem vcbDec (o : OpA) : Statement (.vcbDec o) := shortA 0 0x4A (fun _ => rfl) rfl (fun w h hf => by
  unfold candidateShort; rw [h, hf]; rfl) o
theorem vsfuExp2 (o : OpA) : Statement (.vsfuExp2 o) := shortA 0 0x42 (fun _ => rfl) rfl (fun w h hf => by
  unfold candidateShort; rw [h, hf]; rfl) o
theorem vsfuLog2 (o : OpA) : Statement (.vsfuLog2 o) := shortA 1 0x42 (fun _ => rfl) rfl (fun w h hf => by
  unfold candidateShort; rw [h, hf]; rfl) o
theorem vsfuRcp (o : OpA) : Statement (.vsfuRcp o) := shortA 2 0x42 (fun _ => rfl) rfl (fun w h hf => by
  unfold candidateShort; rw [h, hf]; rfl) o
theorem vsfuRsqrt (o : OpA) : Statement (.vsfuRsqrt o) := shortA 3 0x42 (fun _ => rfl) rfl (fun w h hf => by
  unfold candidateShort; rw [h, hf]; rfl) o
theorem vsfuSqrt (o : OpA) : Statement (.vsfuSqrt o) := shortA 4 0x42 (fun _ => rfl) rfl (fun w h hf => by
  unfold candidateShort; rw [h, hf]; rfl) o
theorem vsfuSin (o : OpA) : Statement (.vsfuSin o) := shortA 5 0x42 (fun _ => rfl) rfl (fun w h hf => by
  unfold candidateShort; rw [h, hf]; rfl) o
theorem vsfuCos (o : OpA) : Statement (.vsfuCos o) := shortA 6 0x42 (fun _ => rfl) rfl (fun w h hf => by
  unfold candidateShort; rw [h, hf]; rfl) o
theorem vsfuTanh (o : OpA) : Statement (.vsfuTanh o) := shortA 7 0x42 (fun _ => rfl) rfl (fun w h hf => by
  unfold candidateShort; rw [h, hf]; rfl) o
theorem vsfu2Sigm (o : OpA) : Statement (.vsfu2Sigm o) := shortA 0 0x44 (fun _ => rfl) rfl (fun w h hf => by
  unfold candidateShort; rw [h, hf]; rfl) o
theorem vsfu2Gelut (o : OpA) : Statement (.vsfu2Gelut o) := shortA 1 0x44 (fun _ => rfl) rfl (fun w h hf => by
  unfold candidateShort; rw [h, hf]; rfl) o
theorem vsfu2Gelue (o : OpA) : Statement (.vsfu2Gelue o) := shortA 2 0x44 (fun _ => rfl) rfl (fun w h hf => by
  unfold candidateShort; rw [h, hf]; rfl) o
theorem vsfu2Silu (o : OpA) : Statement (.vsfu2Silu o) := shortA 3 0x44 (fun _ => rfl) rfl (fun w h hf => by
  unfold candidateShort; rw [h, hf]; rfl) o
theorem vsfu2Erf (o : OpA) : Statement (.vsfu2Erf o) := shortA 4 0x44 (fun _ => rfl) rfl (fun w h hf => by
  unfold candidateShort; rw [h, hf]; rfl) o
theorem vsfu2Softp (o : OpA) : Statement (.vsfu2Softp o) := shortA 5 0x44 (fun _ => rfl) rfl (fun w h hf => by
  unfold candidateShort; rw [h, hf]; rfl) o
theorem vmovMov (o : OpA) : Statement (.vmovMov o) := shortA 0 0x46 (fun _ => rfl) rfl (fun w h hf => by
  unfold candidateShort; rw [h, hf]; rfl) o
theorem vmovBcast (o : OpA) : Statement (.vmovBcast o) := shortA 1 0x46 (fun _ => rfl) rfl (fun w h hf => by
  unfold candidateShort; rw [h, hf]; rfl) o
theorem vmovIns (o : OpA) : Statement (.vmovIns o) := shortA 2 0x46 (fun _ => rfl) rfl (fun w h hf => by
  unfold candidateShort; rw [h, hf]; rfl) o
theorem vmovExt (o : OpA) : Statement (.vmovExt o) := shortA 3 0x46 (fun _ => rfl) rfl (fun w h hf => by
  unfold candidateShort; rw [h, hf]; rfl) o
theorem vpermPerm (o : OpA) : Statement (.vpermPerm o) := shortA 0 0x3C (fun _ => rfl) rfl (fun w h hf => by
  unfold candidateShort; rw [h, hf]; rfl) o
theorem vpermZiplo (o : OpA) : Statement (.vpermZiplo o) := shortA 1 0x3C (fun _ => rfl) rfl (fun w h hf => by
  unfold candidateShort; rw [h, hf]; rfl) o
theorem vpermZiphi (o : OpA) : Statement (.vpermZiphi o) := shortA 2 0x3C (fun _ => rfl) rfl (fun w h hf => by
  unfold candidateShort; rw [h, hf]; rfl) o
theorem vpermUzpe (o : OpA) : Statement (.vpermUzpe o) := shortA 3 0x3C (fun _ => rfl) rfl (fun w h hf => by
  unfold candidateShort; rw [h, hf]; rfl) o
theorem vpermUzpo (o : OpA) : Statement (.vpermUzpo o) := shortA 4 0x3C (fun _ => rfl) rfl (fun w h hf => by
  unfold candidateShort; rw [h, hf]; rfl) o
theorem vpermSplat (o : OpA) : Statement (.vpermSplat o) := shortA 5 0x3C (fun _ => rfl) rfl (fun w h hf => by
  unfold candidateShort; rw [h, hf]; rfl) o
theorem vpermRev (o : OpA) : Statement (.vpermRev o) := shortA 6 0x3C (fun _ => rfl) rfl (fun w h hf => by
  unfold candidateShort; rw [h, hf]; rfl) o
theorem vlinkPop (o : OpA) : Statement (.vlinkPop o) := shortA 0 0x48 (fun _ => rfl) rfl (fun w h hf => by
  unfold candidateShort; rw [h, hf]; rfl) o
theorem vlinkPeek (o : OpA) : Statement (.vlinkPeek o) := shortA 1 0x48 (fun _ => rfl) rfl (fun w h hf => by
  unfold candidateShort; rw [h, hf]; rfl) o
theorem vlinkSkip (o : OpA) : Statement (.vlinkSkip o) := shortA 2 0x48 (fun _ => rfl) rfl (fun w h hf => by
  unfold candidateShort; rw [h, hf]; rfl) o
theorem sendX (o : OpA) : Statement (.sendX o) := shortA 0 0x50 (fun _ => rfl) rfl (fun w h hf => by
  unfold candidateShort; rw [h, hf]; rfl) o
theorem sendV (o : OpA) : Statement (.sendV o) := shortA 1 0x50 (fun _ => rfl) rfl (fun w h hf => by
  unfold candidateShort; rw [h, hf]; rfl) o
theorem sendNz (o : OpA) : Statement (.sendNz o) := shortA 2 0x50 (fun _ => rfl) rfl (fun w h hf => by
  unfold candidateShort; rw [h, hf]; rfl) o
theorem recvW (o : OpA) : Statement (.recvW o) := shortA 0 0x52 (fun _ => rfl) rfl (fun w h hf => by
  unfold candidateShort; rw [h, hf]; rfl) o
theorem recvTry (o : OpA) : Statement (.recvTry o) := shortA 1 0x52 (fun _ => rfl) rfl (fun w h hf => by
  unfold candidateShort; rw [h, hf]; rfl) o
theorem recvHdr (o : OpA) : Statement (.recvHdr o) := shortA 2 0x52 (fun _ => rfl) rfl (fun w h hf => by
  unfold candidateShort; rw [h, hf]; rfl) o
theorem recvDrop (o : OpA) : Statement (.recvDrop o) := shortA 3 0x52 (fun _ => rfl) rfl (fun w h hf => by
  unfold candidateShort; rw [h, hf]; rfl) o
theorem chanSlot (o : OpA) : Statement (.chanSlot o) := shortA 0 0x54 (fun _ => rfl) rfl (fun w h hf => by
  unfold candidateShort; rw [h, hf]; rfl) o
theorem chanHdr (o : OpA) : Statement (.chanHdr o) := shortA 1 0x54 (fun _ => rfl) rfl (fun w h hf => by
  unfold candidateShort; rw [h, hf]; rfl) o
theorem chanCnt (o : OpA) : Statement (.chanCnt o) := shortA 2 0x54 (fun _ => rfl) rfl (fun w h hf => by
  unfold candidateShort; rw [h, hf]; rfl) o
theorem barInit (o : OpA) : Statement (.barInit o) := shortA 0 0x56 (fun _ => rfl) rfl (fun w h hf => by
  unfold candidateShort; rw [h, hf]; rfl) o
theorem barArrive (o : OpA) : Statement (.barArrive o) := shortA 1 0x56 (fun _ => rfl) rfl (fun w h hf => by
  unfold candidateShort; rw [h, hf]; rfl) o
theorem barWait (o : OpA) : Statement (.barWait o) := shortA 2 0x56 (fun _ => rfl) rfl (fun w h hf => by
  unfold candidateShort; rw [h, hf]; rfl) o
theorem barSync (o : OpA) : Statement (.barSync o) := shortA 3 0x56 (fun _ => rfl) rfl (fun w h hf => by
  unfold candidateShort; rw [h, hf]; rfl) o
theorem barQuery (o : OpA) : Statement (.barQuery o) := shortA 4 0x56 (fun _ => rfl) rfl (fun w h hf => by
  unfold candidateShort; rw [h, hf]; rfl) o
theorem ldB (o : OpM) : Statement (.ldB o) := longM 0 0x11 (fun _ => rfl) (fun _ => rfl) rfl (fun w w1 h hf => by
  unfold candidateLong; rw [h, hf]; rfl) o
theorem ldH (o : OpM) : Statement (.ldH o) := longM 1 0x11 (fun _ => rfl) (fun _ => rfl) rfl (fun w w1 h hf => by
  unfold candidateLong; rw [h, hf]; rfl) o
theorem ldW (o : OpM) : Statement (.ldW o) := longM 2 0x11 (fun _ => rfl) (fun _ => rfl) rfl (fun w w1 h hf => by
  unfold candidateLong; rw [h, hf]; rfl) o
theorem ldD (o : OpM) : Statement (.ldD o) := longM 3 0x11 (fun _ => rfl) (fun _ => rfl) rfl (fun w w1 h hf => by
  unfold candidateLong; rw [h, hf]; rfl) o
theorem ldBs (o : OpM) : Statement (.ldBs o) := longM 4 0x11 (fun _ => rfl) (fun _ => rfl) rfl (fun w w1 h hf => by
  unfold candidateLong; rw [h, hf]; rfl) o
theorem ldHs (o : OpM) : Statement (.ldHs o) := longM 5 0x11 (fun _ => rfl) (fun _ => rfl) rfl (fun w w1 h hf => by
  unfold candidateLong; rw [h, hf]; rfl) o
theorem ldWs (o : OpM) : Statement (.ldWs o) := longM 6 0x11 (fun _ => rfl) (fun _ => rfl) rfl (fun w w1 h hf => by
  unfold candidateLong; rw [h, hf]; rfl) o
theorem stB (o : OpM) : Statement (.stB o) := longM 0 0x13 (fun _ => rfl) (fun _ => rfl) rfl (fun w w1 h hf => by
  unfold candidateLong; rw [h, hf]; rfl) o
theorem stH (o : OpM) : Statement (.stH o) := longM 1 0x13 (fun _ => rfl) (fun _ => rfl) rfl (fun w w1 h hf => by
  unfold candidateLong; rw [h, hf]; rfl) o
theorem stW (o : OpM) : Statement (.stW o) := longM 2 0x13 (fun _ => rfl) (fun _ => rfl) rfl (fun w w1 h hf => by
  unfold candidateLong; rw [h, hf]; rfl) o
theorem stD (o : OpM) : Statement (.stD o) := longM 3 0x13 (fun _ => rfl) (fun _ => rfl) rfl (fun w w1 h hf => by
  unfold candidateLong; rw [h, hf]; rfl) o
theorem vldV (o : OpM) : Statement (.vldV o) := longM 0 0x15 (fun _ => rfl) (fun _ => rfl) rfl (fun w w1 h hf => by
  unfold candidateLong; rw [h, hf]; rfl) o
theorem vldBc (o : OpM) : Statement (.vldBc o) := longM 1 0x15 (fun _ => rfl) (fun _ => rfl) rfl (fun w w1 h hf => by
  unfold candidateLong; rw [h, hf]; rfl) o
theorem vstV (o : OpM) : Statement (.vstV o) := longM 0 0x17 (fun _ => rfl) (fun _ => rfl) rfl (fun w w1 h hf => by
  unfold candidateLong; rw [h, hf]; rfl) o
theorem vstE (o : OpM) : Statement (.vstE o) := longM 1 0x17 (fun _ => rfl) (fun _ => rfl) rfl (fun w w1 h hf => by
  unfold candidateLong; rw [h, hf]; rfl) o
theorem ldfKeep (o : OpM) : Statement (.ldfKeep o) := longM 0 0x19 (fun _ => rfl) (fun _ => rfl) rfl (fun w w1 h hf => by
  unfold candidateLong; rw [h, hf]; rfl) o
theorem ldfTake (o : OpM) : Statement (.ldfTake o) := longM 1 0x19 (fun _ => rfl) (fun _ => rfl) rfl (fun w w1 h hf => by
  unfold candidateLong; rw [h, hf]; rfl) o
theorem steFill (o : OpM) : Statement (.steFill o) := longM 0 0x1B (fun _ => rfl) (fun _ => rfl) rfl (fun w w1 h hf => by
  unfold candidateLong; rw [h, hf]; rfl) o
theorem steKeep (o : OpM) : Statement (.steKeep o) := longM 1 0x1B (fun _ => rfl) (fun _ => rfl) rfl (fun w w1 h hf => by
  unfold candidateLong; rw [h, hf]; rfl) o
theorem feTest (o : OpA) : Statement (.feTest o) := shortA 0 0x5E (fun _ => rfl) rfl (fun w h hf => by
  unfold candidateShort; rw [h, hf]; rfl) o
theorem feSet (o : OpA) : Statement (.feSet o) := shortA 1 0x5E (fun _ => rfl) rfl (fun w h hf => by
  unfold candidateShort; rw [h, hf]; rfl) o
theorem feClr (o : OpA) : Statement (.feClr o) := shortA 2 0x5E (fun _ => rfl) rfl (fun w h hf => by
  unfold candidateShort; rw [h, hf]; rfl) o
theorem feTas (o : OpA) : Statement (.feTas o) := shortA 3 0x5E (fun _ => rfl) rfl (fun w h hf => by
  unfold candidateShort; rw [h, hf]; rfl) o
theorem feSetr (o : OpA) : Statement (.feSetr o) := shortA 4 0x5E (fun _ => rfl) rfl (fun w h hf => by
  unfold candidateShort; rw [h, hf]; rfl) o
theorem feClrr (o : OpA) : Statement (.feClrr o) := shortA 5 0x5E (fun _ => rfl) rfl (fun w h hf => by
  unfold candidateShort; rw [h, hf]; rfl) o
theorem waitLe (o : OpA) : Statement (.waitLe o) := shortA 0 0x5C (fun _ => rfl) rfl (fun w h hf => by
  unfold candidateShort; rw [h, hf]; rfl) o
theorem waitLex (o : OpA) : Statement (.waitLex o) := shortA 1 0x5C (fun _ => rfl) rfl (fun w h hf => by
  unfold candidateShort; rw [h, hf]; rfl) o
theorem cachePf (o : OpM) : Statement (.cachePf o) := longM 0 0x21 (fun _ => rfl) (fun _ => rfl) rfl (fun w w1 h hf => by
  unfold candidateLong; rw [h, hf]; rfl) o
theorem cachePfl1 (o : OpM) : Statement (.cachePfl1 o) := longM 1 0x21 (fun _ => rfl) (fun _ => rfl) rfl (fun w w1 h hf => by
  unfold candidateLong; rw [h, hf]; rfl) o
theorem cacheNu (o : OpM) : Statement (.cacheNu o) := longM 2 0x21 (fun _ => rfl) (fun _ => rfl) rfl (fun w w1 h hf => by
  unfold candidateLong; rw [h, hf]; rfl) o
theorem cacheWb (o : OpM) : Statement (.cacheWb o) := longM 3 0x21 (fun _ => rfl) (fun _ => rfl) rfl (fun w w1 h hf => by
  unfold candidateLong; rw [h, hf]; rfl) o
theorem cacheWbinv (o : OpM) : Statement (.cacheWbinv o) := longM 4 0x21 (fun _ => rfl) (fun _ => rfl) rfl (fun w w1 h hf => by
  unfold candidateLong; rw [h, hf]; rfl) o
theorem rclkRead (o : OpX) : Statement (.rclkRead o) := longX 0 0x23 (fun _ => rfl) (fun _ => rfl) rfl (fun w w1 h hf => by
  unfold candidateLong; rw [h, hf]; rfl) o
theorem rclkAdv (o : OpX) : Statement (.rclkAdv o) := longX 1 0x23 (fun _ => rfl) (fun _ => rfl) rfl (fun w w1 h hf => by
  unfold candidateLong; rw [h, hf]; rfl) o
theorem rclkDflt (o : OpX) : Statement (.rclkDflt o) := longX 2 0x23 (fun _ => rfl) (fun _ => rfl) rfl (fun w w1 h hf => by
  unfold candidateLong; rw [h, hf]; rfl) o
theorem pinWin (o : OpM) : Statement (.pinWin o) := longM 0 0x25 (fun _ => rfl) (fun _ => rfl) rfl (fun w w1 h hf => by
  unfold candidateLong; rw [h, hf]; rfl) o
theorem pinSize (o : OpM) : Statement (.pinSize o) := longM 1 0x25 (fun _ => rfl) (fun _ => rfl) rfl (fun w w1 h hf => by
  unfold candidateLong; rw [h, hf]; rfl) o
theorem amoAdd (o : OpM) : Statement (.amoAdd o) := longM 0 0x29 (fun _ => rfl) (fun _ => rfl) rfl (fun w w1 h hf => by
  unfold candidateLong; rw [h, hf]; rfl) o
theorem amoAddb (o : OpM) : Statement (.amoAddb o) := longM 1 0x29 (fun _ => rfl) (fun _ => rfl) rfl (fun w w1 h hf => by
  unfold candidateLong; rw [h, hf]; rfl) o
theorem amoMin (o : OpM) : Statement (.amoMin o) := longM 2 0x29 (fun _ => rfl) (fun _ => rfl) rfl (fun w w1 h hf => by
  unfold candidateLong; rw [h, hf]; rfl) o
theorem amoMax (o : OpM) : Statement (.amoMax o) := longM 3 0x29 (fun _ => rfl) (fun _ => rfl) rfl (fun w w1 h hf => by
  unfold candidateLong; rw [h, hf]; rfl) o
theorem amoAnd (o : OpM) : Statement (.amoAnd o) := longM 4 0x29 (fun _ => rfl) (fun _ => rfl) rfl (fun w w1 h hf => by
  unfold candidateLong; rw [h, hf]; rfl) o
theorem amoOr (o : OpM) : Statement (.amoOr o) := longM 5 0x29 (fun _ => rfl) (fun _ => rfl) rfl (fun w w1 h hf => by
  unfold candidateLong; rw [h, hf]; rfl) o
theorem amoXor (o : OpM) : Statement (.amoXor o) := longM 6 0x29 (fun _ => rfl) (fun _ => rfl) rfl (fun w w1 h hf => by
  unfold candidateLong; rw [h, hf]; rfl) o
theorem amoSwap (o : OpM) : Statement (.amoSwap o) := longM 7 0x29 (fun _ => rfl) (fun _ => rfl) rfl (fun w w1 h hf => by
  unfold candidateLong; rw [h, hf]; rfl) o
theorem cas (o : OpM) : Statement (.cas o) := longM 0 0x2B (fun _ => rfl) (fun _ => rfl) rfl (fun w w1 h hf => by
  unfold candidateLong; rw [h, hf]; rfl) o
theorem redAdd (o : OpM) : Statement (.redAdd o) := longM 0 0x2D (fun _ => rfl) (fun _ => rfl) rfl (fun w w1 h hf => by
  unfold candidateLong; rw [h, hf]; rfl) o
theorem redMin (o : OpM) : Statement (.redMin o) := longM 1 0x2D (fun _ => rfl) (fun _ => rfl) rfl (fun w w1 h hf => by
  unfold candidateLong; rw [h, hf]; rfl) o
theorem redMax (o : OpM) : Statement (.redMax o) := longM 2 0x2D (fun _ => rfl) (fun _ => rfl) rfl (fun w w1 h hf => by
  unfold candidateLong; rw [h, hf]; rfl) o
theorem redAnd (o : OpM) : Statement (.redAnd o) := longM 3 0x2D (fun _ => rfl) (fun _ => rfl) rfl (fun w w1 h hf => by
  unfold candidateLong; rw [h, hf]; rfl) o
theorem redOr (o : OpM) : Statement (.redOr o) := longM 4 0x2D (fun _ => rfl) (fun _ => rfl) rfl (fun w w1 h hf => by
  unfold candidateLong; rw [h, hf]; rfl) o
theorem redXor (o : OpM) : Statement (.redXor o) := longM 5 0x2D (fun _ => rfl) (fun _ => rfl) rfl (fun w w1 h hf => by
  unfold candidateLong; rw [h, hf]; rfl) o
theorem redFmin (o : OpM) : Statement (.redFmin o) := longM 6 0x2D (fun _ => rfl) (fun _ => rfl) rfl (fun w w1 h hf => by
  unfold candidateLong; rw [h, hf]; rfl) o
theorem redFmax (o : OpM) : Statement (.redFmax o) := longM 7 0x2D (fun _ => rfl) (fun _ => rfl) rfl (fun w w1 h hf => by
  unfold candidateLong; rw [h, hf]; rfl) o
theorem xlatProbe (o : OpM) : Statement (.xlatProbe o) := longM 0 0x2F (fun _ => rfl) (fun _ => rfl) rfl (fun w w1 h hf => by
  unfold candidateLong; rw [h, hf]; rfl) o
theorem xlatTouch (o : OpM) : Statement (.xlatTouch o) := longM 1 0x2F (fun _ => rfl) (fun _ => rfl) rfl (fun w w1 h hf => by
  unfold candidateLong; rw [h, hf]; rfl) o
theorem xlatInv (o : OpM) : Statement (.xlatInv o) := longM 2 0x2F (fun _ => rfl) (fun _ => rfl) rfl (fun w w1 h hf => by
  unfold candidateLong; rw [h, hf]; rfl) o
theorem fenceOrd (o : OpA) : Statement (.fenceOrd o) := shortA 0 0x64 (fun _ => rfl) rfl (fun w h hf => by
  unfold candidateShort; rw [h, hf]; rfl) o
theorem trap (o : OpI) : Statement (.trap o) := shortI 0x6A (fun _ => rfl) rfl (fun w h => by
  unfold candidateShort; rw [h]; rfl) o
theorem sysR (o : OpI) : Statement (.sysR o) := sys (fun _ => rfl) (fun w h hw => by
  unfold candidateShort; rw [h]; show (if (fieldsI w).d == 0 then _ else _) = _; rw [if_neg (by
  have hw : ((fieldsI w).d != 0 && (fieldsI w).a == 0 && sysReadable (fieldsI w).imm.toNat) = true := hw
  simp only [Bool.and_eq_true, beq_iff_eq, bne_iff_ne] at hw; exact fun e => hw.1.1 (by simpa using e))]) o
theorem sysW (o : OpI) : Statement (.sysW o) := sys (fun _ => rfl) (fun w h hw => by
  unfold candidateShort; rw [h]; show (if (fieldsI w).d == 0 then _ else _) = _; rw [if_pos (by
  have hw : ((fieldsI w).d == 0 && sysWritable (fieldsI w).imm.toNat) = true := hw
  simp only [Bool.and_eq_true, beq_iff_eq] at hw; simp [hw.1])]) o
theorem tresolveWrite x0 x1 : Statement (.tresolveWrite x0 x1) := noWords rfl
theorem taskMma (o : OpE) : Statement (.taskMma o) := longE 0 0x31 (fun _ => rfl) (fun _ => rfl) rfl (fun w w1 h hf => by
  unfold candidateLong; rw [h, hf]; rfl) o
theorem taskMmav (o : OpE) : Statement (.taskMmav o) := longE 1 0x31 (fun _ => rfl) (fun _ => rfl) rfl (fun w w1 h hf => by
  unfold candidateLong; rw [h, hf]; rfl) o
theorem taskEw (o : OpE) : Statement (.taskEw o) := longE 2 0x31 (fun _ => rfl) (fun _ => rfl) rfl (fun w w1 h hf => by
  unfold candidateLong; rw [h, hf]; rfl) o
theorem taskRed (o : OpE) : Statement (.taskRed o) := longE 3 0x31 (fun _ => rfl) (fun _ => rfl) rfl (fun w w1 h hf => by
  unfold candidateLong; rw [h, hf]; rfl) o
theorem taskCvt (o : OpE) : Statement (.taskCvt o) := longE 4 0x31 (fun _ => rfl) (fun _ => rfl) rfl (fun w w1 h hf => by
  unfold candidateLong; rw [h, hf]; rfl) o
theorem taskTr (o : OpE) : Statement (.taskTr o) := longE 5 0x31 (fun _ => rfl) (fun _ => rfl) rfl (fun w w1 h hf => by
  unfold candidateLong; rw [h, hf]; rfl) o
theorem vstopCur (o : OpX) : Statement (.vstopCur o) := longX 0 0x33 (fun _ => rfl) (fun _ => rfl) rfl (fun w w1 h hf => by
  unfold candidateLong; rw [h, hf]; rfl) o
theorem vwaitVer (o : OpX) : Statement (.vwaitVer o) := longX 0 0x35 (fun _ => rfl) (fun _ => rfl) rfl (fun w w1 h hf => by
  unfold candidateLong; rw [h, hf]; rfl) o
theorem vwaitFin (o : OpX) : Statement (.vwaitFin o) := longX 1 0x35 (fun _ => rfl) (fun _ => rfl) rfl (fun w w1 h hf => by
  unfold candidateLong; rw [h, hf]; rfl) o
theorem vwaitSet (o : OpX) : Statement (.vwaitSet o) := longX 2 0x35 (fun _ => rfl) (fun _ => rfl) rfl (fun w w1 h hf => by
  unfold candidateLong; rw [h, hf]; rfl) o
theorem vwaitSets (o : OpX) : Statement (.vwaitSets o) := longX 3 0x35 (fun _ => rfl) (fun _ => rfl) rfl (fun w w1 h hf => by
  unfold candidateLong; rw [h, hf]; rfl) o
theorem vwaitPoll (o : OpX) : Statement (.vwaitPoll o) := longX 4 0x35 (fun _ => rfl) (fun _ => rfl) rfl (fun w w1 h hf => by
  unfold candidateLong; rw [h, hf]; rfl) o
theorem cbldMe (o : OpE) : Statement (.cbldMe o) := longE 0 0x37 (fun _ => rfl) (fun _ => rfl) rfl (fun w w1 h hf => by
  unfold candidateLong; rw [h, hf]; rfl) o
theorem cbldNb (o : OpE) : Statement (.cbldNb o) := longE 1 0x37 (fun _ => rfl) (fun _ => rfl) rfl (fun w w1 h hf => by
  unfold candidateLong; rw [h, hf]; rfl) o
theorem copyCp (o : OpE) : Statement (.copyCp o) := longE 0 0x41 (fun _ => rfl) (fun _ => rfl) rfl (fun w w1 h hf => by
  unfold candidateLong; rw [h, hf]; rfl) o
theorem copyFill (o : OpE) : Statement (.copyFill o) := longE 1 0x41 (fun _ => rfl) (fun _ => rfl) rfl (fun w w1 h hf => by
  unfold candidateLong; rw [h, hf]; rfl) o
theorem copyChan (o : OpE) : Statement (.copyChan o) := longE 2 0x41 (fun _ => rfl) (fun _ => rfl) rfl (fun w w1 h hf => by
  unfold candidateLong; rw [h, hf]; rfl) o
theorem copyStat (o : OpE) : Statement (.copyStat o) := longE 5 0x41 (fun _ => rfl) (fun _ => rfl) rfl (fun w w1 h hf => by
  unfold candidateLong; rw [h, hf]; rfl) o
theorem copyRsm (o : OpE) : Statement (.copyRsm o) := longE 6 0x41 (fun _ => rfl) (fun _ => rfl) rfl (fun w w1 h hf => by
  unfold candidateLong; rw [h, hf]; rfl) o
theorem copyAbrt (o : OpE) : Statement (.copyAbrt o) := longE 7 0x41 (fun _ => rfl) (fun _ => rfl) rfl (fun w w1 h hf => by
  unfold candidateLong; rw [h, hf]; rfl) o
theorem gatherG (o : OpE) : Statement (.gatherG o) := longE 0 0x43 (fun _ => rfl) (fun _ => rfl) rfl (fun w w1 h hf => by
  unfold candidateLong; rw [h, hf]; rfl) o
theorem gatherS (o : OpE) : Statement (.gatherS o) := longE 1 0x43 (fun _ => rfl) (fun _ => rfl) rfl (fun w w1 h hf => by
  unfold candidateLong; rw [h, hf]; rfl) o
theorem twalkLd (o : OpE) : Statement (.twalkLd o) := longE 0 0x45 (fun _ => rfl) (fun _ => rfl) rfl (fun w w1 h hf => by
  unfold candidateLong; rw [h, hf]; rfl) o
theorem twalkWb (o : OpE) : Statement (.twalkWb o) := longE 1 0x45 (fun _ => rfl) (fun _ => rfl) rfl (fun w w1 h hf => by
  unfold candidateLong; rw [h, hf]; rfl) o
theorem nbmvMv (o : OpE) : Statement (.nbmvMv o) := longE 0 0x47 (fun _ => rfl) (fun _ => rfl) rfl (fun w w1 h hf => by
  unfold candidateLong; rw [h, hf]; rfl) o
theorem attnBlk (o : OpE) : Statement (.attnBlk o) := longE 0 0x49 (fun _ => rfl) (fun _ => rfl) rfl (fun w w1 h hf => by
  unfold candidateLong; rw [h, hf]; rfl) o
theorem attnMrg (o : OpE) : Statement (.attnMrg o) := longE 1 0x49 (fun _ => rfl) (fun _ => rfl) rfl (fun w w1 h hf => by
  unfold candidateLong; rw [h, hf]; rfl) o
theorem sampleHist (o : OpE) : Statement (.sampleHist o) := longE 0 0x4B (fun _ => rfl) (fun _ => rfl) rfl (fun w w1 h hf => by
  unfold candidateLong; rw [h, hf]; rfl) o
theorem sampleThr (o : OpE) : Statement (.sampleThr o) := longE 1 0x4B (fun _ => rfl) (fun _ => rfl) rfl (fun w w1 h hf => by
  unfold candidateLong; rw [h, hf]; rfl) o
theorem sampleMass (o : OpE) : Statement (.sampleMass o) := longE 2 0x4B (fun _ => rfl) (fun _ => rfl) rfl (fun w w1 h hf => by
  unfold candidateLong; rw [h, hf]; rfl) o
theorem sampleDraw (o : OpE) : Statement (.sampleDraw o) := longE 3 0x4B (fun _ => rfl) (fun _ => rfl) rfl (fun w w1 h hf => by
  unfold candidateLong; rw [h, hf]; rfl) o
theorem textNorm (o : OpE) : Statement (.textNorm o) := longE 0 0x4D (fun _ => rfl) (fun _ => rfl) rfl (fun w w1 h hf => by
  unfold candidateLong; rw [h, hf]; rfl) o
theorem textTbl (o : OpE) : Statement (.textTbl o) := longE 1 0x4D (fun _ => rfl) (fun _ => rfl) rfl (fun w w1 h hf => by
  unfold candidateLong; rw [h, hf]; rfl) o
theorem aMoviLo (o : OpC) : Statement (.aMoviLo o) := agentM 0x01 0 (fun _ => rfl) (fun _ => rfl)
  (fun o h => by
  have h : (o.y == 0 && o.z == 0 && o.w == 0 && o.m == 0) = true := h
  simp only [Bool.and_eq_true, beq_iff_eq] at h; exact h.2) (fun w h hm => by
  unfold candidateAgent; dsimp only; rw [h, hm]; rfl) o
theorem aMoviHi (o : OpC) : Statement (.aMoviHi o) := agentM 0x01 1 (fun _ => rfl) (fun _ => rfl)
  (fun o h => by
  have h : (o.y == 0 && o.z == 0 && o.w == 0 && o.m == 1) = true := h
  simp only [Bool.and_eq_true, beq_iff_eq] at h; exact h.2) (fun w h hm => by
  unfold candidateAgent; dsimp only; rw [h, hm]; rfl) o
theorem aMoviZ (o : OpC) : Statement (.aMoviZ o) := agentM 0x01 2 (fun _ => rfl) (fun _ => rfl)
  (fun o h => by
  have h : (o.y == 0 && o.z == 0 && o.w == 0 && o.m == 2) = true := h
  simp only [Bool.and_eq_true, beq_iff_eq] at h; exact h.2) (fun w h hm => by
  unfold candidateAgent; dsimp only; rw [h, hm]; rfl) o
theorem aMov (o : OpC) : Statement (.aMov o) := agent 0x02 (fun _ => rfl) (fun _ => rfl) (fun w h => by
  unfold candidateAgent; rw [h]; rfl) o
theorem aAdd (o : OpC) : Statement (.aAdd o) := agent 0x03 (fun _ => rfl) (fun _ => rfl) (fun w h => by
  unfold candidateAgent; rw [h]; rfl) o
theorem aSub (o : OpC) : Statement (.aSub o) := agent 0x04 (fun _ => rfl) (fun _ => rfl) (fun w h => by
  unfold candidateAgent; rw [h]; rfl) o
theorem aAnd (o : OpC) : Statement (.aAnd o) := agent 0x05 (fun _ => rfl) (fun _ => rfl) (fun w h => by
  unfold candidateAgent; rw [h]; rfl) o
theorem aOr (o : OpC) : Statement (.aOr o) := agent 0x06 (fun _ => rfl) (fun _ => rfl) (fun w h => by
  unfold candidateAgent; rw [h]; rfl) o
theorem aXor (o : OpC) : Statement (.aXor o) := agent 0x07 (fun _ => rfl) (fun _ => rfl) (fun w h => by
  unfold candidateAgent; rw [h]; rfl) o
theorem aShl (o : OpC) : Statement (.aShl o) := agent 0x08 (fun _ => rfl) (fun _ => rfl) (fun w h => by
  unfold candidateAgent; rw [h]; rfl) o
theorem aShr (o : OpC) : Statement (.aShr o) := agent 0x09 (fun _ => rfl) (fun _ => rfl) (fun w h => by
  unfold candidateAgent; rw [h]; rfl) o
theorem aMul (o : OpC) : Statement (.aMul o) := agent 0x0A (fun _ => rfl) (fun _ => rfl) (fun w h => by
  unfold candidateAgent; rw [h]; rfl) o
theorem aCmp (o : OpC) : Statement (.aCmp o) := agent 0x0B (fun _ => rfl) (fun _ => rfl) (fun w h => by
  unfold candidateAgent; rw [h]; rfl) o
theorem aBr (o : OpC) : Statement (.aBr o) := agent 0x10 (fun _ => rfl) (fun _ => rfl) (fun w h => by
  unfold candidateAgent; rw [h]; rfl) o
theorem aJmp (o : OpC) : Statement (.aJmp o) := agent 0x11 (fun _ => rfl) (fun _ => rfl) (fun w h => by
  unfold candidateAgent; rw [h]; rfl) o
theorem aCall (o : OpC) : Statement (.aCall o) := agent 0x12 (fun _ => rfl) (fun _ => rfl) (fun w h => by
  unfold candidateAgent; rw [h]; rfl) o
theorem aRet (o : OpC) : Statement (.aRet o) := agent 0x13 (fun _ => rfl) (fun _ => rfl) (fun w h => by
  unfold candidateAgent; rw [h]; rfl) o
theorem aLd (o : OpC) : Statement (.aLd o) := agent 0x18 (fun _ => rfl) (fun _ => rfl) (fun w h => by
  unfold candidateAgent; rw [h]; rfl) o
theorem aSt (o : OpC) : Statement (.aSt o) := agent 0x19 (fun _ => rfl) (fun _ => rfl) (fun w h => by
  unfold candidateAgent; rw [h]; rfl) o
theorem aWaitPend (o : OpC) : Statement (.aWaitPend o) := agentM 0x20 0 (fun _ => rfl) (fun _ => rfl)
  (fun o h => by
  have h : (o.x == 0 && o.z == 0 && o.w == 0 && o.imm == 0 && o.m == 0) = true := h
  simp only [Bool.and_eq_true, beq_iff_eq] at h; exact h.2) (fun w h hm => by
  unfold candidateAgent; dsimp only; rw [h, hm]; rfl) o
theorem aWaitSig (o : OpC) : Statement (.aWaitSig o) := agentM 0x20 1 (fun _ => rfl) (fun _ => rfl)
  (fun o h => by
  have h : (o.z == 0 && o.w == 0 && o.imm == 0 && o.m == 1) = true := h
  simp only [Bool.and_eq_true, beq_iff_eq] at h; exact h.2) (fun w h hm => by
  unfold candidateAgent; dsimp only; rw [h, hm]; rfl) o
theorem aWaitAll (o : OpC) : Statement (.aWaitAll o) := agentM 0x20 2 (fun _ => rfl) (fun _ => rfl)
  (fun o h => by
  have h : (o.x == 0 && o.y == 0 && o.z == 0 && o.w == 0 && o.imm == 0 && o.m == 2) = true := h
  simp only [Bool.and_eq_true, beq_iff_eq] at h; exact h.2) (fun w h hm => by
  unfold candidateAgent; dsimp only; rw [h, hm]; rfl) o
theorem aSigSlot (o : OpC) : Statement (.aSigSlot o) := agentM 0x21 0 (fun _ => rfl) (fun _ => rfl)
  (fun o h => by
  have h : (o.x == 0 && o.w == 0 && o.imm == 0 && o.m == 0) = true := h
  simp only [Bool.and_eq_true, beq_iff_eq] at h; exact h.2) (fun w h hm => by
  unfold candidateAgent; dsimp only; rw [h, hm]; rfl) o
theorem aSigHost (o : OpC) : Statement (.aSigHost o) := agentM 0x21 1 (fun _ => rfl) (fun _ => rfl)
  (fun o h => by
  have h : (o.x == 0 && o.z == 0 && o.w == 0 && o.imm == 0 && o.m == 1) = true := h
  simp only [Bool.and_eq_true, beq_iff_eq] at h; exact h.2) (fun w h hm => by
  unfold candidateAgent; dsimp only; rw [h, hm]; rfl) o
theorem aYield (o : OpC) : Statement (.aYield o) := agent 0x22 (fun _ => rfl) (fun _ => rfl) (fun w h => by
  unfold candidateAgent; rw [h]; rfl) o
theorem aHalt (o : OpC) : Statement (.aHalt o) := agent 0x23 (fun _ => rfl) (fun _ => rfl) (fun w h => by
  unfold candidateAgent; rw [h]; rfl) o
theorem aKlaunch (o : OpC) : Statement (.aKlaunch o) := agent 0x28 (fun _ => rfl) (fun _ => rfl) (fun w h => by
  unfold candidateAgent; rw [h]; rfl) o
theorem aFence (o : OpC) : Statement (.aFence o) := agent 0x29 (fun _ => rfl) (fun _ => rfl) (fun w h => by
  unfold candidateAgent; rw [h]; rfl) o
theorem cNew (o : OpC) : Statement (.cNew o) := agent 0x40 (fun _ => rfl) (fun _ => rfl) (fun w h => by
  unfold candidateAgent; rw [h]; rfl) o
theorem cFork (o : OpC) : Statement (.cFork o) := agent 0x41 (fun _ => rfl) (fun _ => rfl) (fun w h => by
  unfold candidateAgent; rw [h]; rfl) o
theorem cDrop (o : OpC) : Statement (.cDrop o) := agent 0x42 (fun _ => rfl) (fun _ => rfl) (fun w h => by
  unfold candidateAgent; rw [h]; rfl) o
theorem cTrim (o : OpC) : Statement (.cTrim o) := agent 0x43 (fun _ => rfl) (fun _ => rfl) (fun w h => by
  unfold candidateAgent; rw [h]; rfl) o
theorem cLen (o : OpC) : Statement (.cLen o) := agent 0x44 (fun _ => rfl) (fun _ => rfl) (fun w h => by
  unfold candidateAgent; rw [h]; rfl) o
theorem cRead (o : OpC) : Statement (.cRead o) := agent 0x45 (fun _ => rfl) (fun _ => rfl) (fun w h => by
  unfold candidateAgent; rw [h]; rfl) o
theorem cHint (o : OpC) : Statement (.cHint o) := agent 0x46 (fun _ => rfl) (fun _ => rfl) (fun w h => by
  unfold candidateAgent; rw [h]; rfl) o
theorem cPin (o : OpC) : Statement (.cPin o) := agent 0x47 (fun _ => rfl) (fun _ => rfl) (fun w h => by
  unfold candidateAgent; rw [h]; rfl) o
theorem cUnpin (o : OpC) : Statement (.cUnpin o) := agent 0x48 (fun _ => rfl) (fun _ => rfl) (fun w h => by
  unfold candidateAgent; rw [h]; rfl) o
theorem cProg (o : OpC) : Statement (.cProg o) := agent 0x49 (fun _ => rfl) (fun _ => rfl) (fun w h => by
  unfold candidateAgent; rw [h]; rfl) o
theorem cBind (o : OpC) : Statement (.cBind o) := agent 0x4A (fun _ => rfl) (fun _ => rfl) (fun w h => by
  unfold candidateAgent; rw [h]; rfl) o
theorem cGram (o : OpC) : Statement (.cGram o) := agent 0x4B (fun _ => rfl) (fun _ => rfl) (fun w h => by
  unfold candidateAgent; rw [h]; rfl) o
theorem cSamp (o : OpC) : Statement (.cSamp o) := agent 0x4C (fun _ => rfl) (fun _ => rfl) (fun w h => by
  unfold candidateAgent; rw [h]; rfl) o
theorem cApp (o : OpC) : Statement (.cApp o) := agent 0x60 (fun _ => rfl) (fun _ => rfl) (fun w h => by
  unfold candidateAgent; rw [h]; rfl) o
theorem cGen (o : OpC) : Statement (.cGen o) := agent 0x61 (fun _ => rfl) (fun _ => rfl) (fun w h => by
  unfold candidateAgent; rw [h]; rfl) o
theorem cScore (o : OpC) : Statement (.cScore o) := agent 0x62 (fun _ => rfl) (fun _ => rfl) (fun w h => by
  unfold candidateAgent; rw [h]; rfl) o
theorem cChoose (o : OpC) : Statement (.cChoose o) := agent 0x63 (fun _ => rfl) (fun _ => rfl) (fun w h => by
  unfold candidateAgent; rw [h]; rfl) o
theorem cSpec (o : OpC) : Statement (.cSpec o) := agent 0x64 (fun _ => rfl) (fun _ => rfl) (fun w h => by
  unfold candidateAgent; rw [h]; rfl) o
theorem vfEnable x0 : Statement (.vfEnable x0) := noWords rfl
theorem illegalEncoding x0 x1 : Statement (.illegalEncoding x0 x1) := noWords rfl
theorem instructionFetchFault x0 x1 x2 : Statement (.instructionFetchFault x0 x1 x2) := noWords rfl
theorem agentIllegalWord x0 : Statement (.agentIllegalWord x0) := noWords rfl
theorem agentFetchFault : Statement .agentFetchFault := noWords rfl
theorem windowUncorrectableError x0 x1 x2 : Statement (.windowUncorrectableError x0 x1 x2) := noWords rfl
theorem clusterUnitFailure x0 : Statement (.clusterUnitFailure x0) := noWords rfl
theorem coherentStorePerform x0 x1 x2 : Statement (.coherentStorePerform x0 x1 x2) := noWords rfl

end Sys2Proof.Laws.Encoding
end

