-- ==== Sys2Proof/Laws/Shapes.lean ====
section
/-! SUPPORT. What the shared shapes of an instruction do when it issues: one lemma for each shape. -/

namespace Sys2Proof.Laws.Shapes

open Sys2Proof.Machine

/-- A word that issues runs its body on the firing with its first issue noted. -/
theorem withFiring_issues {s : State} {t : Site} {f : Firing} {units : List Core} (h : Issues s t f units)
    (body : State → Firing → List Core → Out) : withFiring t s body = body (putFiring s f) f units := by
  obtain ⟨c, i, f0, hc, hf, hfe, hu, he, hx, hb, hi⟩ := h
  have hi' : interlocked (putFiring s f) f units t = false := hi
  have he0 : f0.ending = false := by rw [hfe] at he; exact he
  simp only [withFiring, hc, hf, ← hfe, ← hu]
  simp only [he0, hx, hb, hi', Bool.or_self, Bool.false_eq_true, if_false]

/-- Cores that all finish are collected. -/
theorem collect_ok {α β : Type} (l : List α) (g : α → β) : collect (l.map fun a => Res.ok (g a)) = .ok (l.map g) := by
  unfold collect
  split
  · rename_i h
    rw [List.findSome?_eq_some_iff] at h
    obtain ⟨_, a, _, hl, ha, _⟩ := h
    obtain ⟨b, _, rfl⟩ := List.mem_map.mp (hl ▸ List.mem_append_right _ List.mem_cons_self : a ∈ l.map fun a => Res.ok (g a))
    exact absurd ha (by simp)
  · clear * -
    induction l with
    | nil => rfl
    | cons a l ih => simp only [List.map_cons, List.foldr_cons, ih]

/-- A register instruction that neither traps nor stalls gives the result of its function on every file. -/
theorem fileInstr_next {s : State} {w : Site} {f : Firing} {units : List Core} (h : Issues s w f units) (uni : Bool)
    (pr : BitVec 3) {g : State → Firing → RFile → Res RFile} {k : RFile → RFile}
    (hg : ∀ r, g (putFiring s f) f r = .ok (k r)) :
    fileInstr w uni pr g s = .next (afterWord s f (fileResult f units uni pr k) units (siteLen w)) := by
  have hr : runFile f units uni pr (g (putFiring s f) f) = .ok (fileResult f units uni pr k) := by
    cases uni with
    | true =>
      simp only [runFile, fileResult, if_true, hg, Res.bindOk]
      split <;> rfl
    | false =>
      have hgo : (fun c => if takes (fileOf f units false c) pr = true then g (putFiring s f) f (fileOf f units false c)
          else .ok (fileOf f units false c)) =
          fun c => Res.ok (if takes (fileOf f units false c) pr = true then k (fileOf f units false c)
            else fileOf f units false c) := by
        funext c; split <;> simp [hg]
      simp only [runFile, fileResult, Bool.false_eq_true, if_false, hgo, collect_ok, Res.bindOk, List.map_map]
      rfl
  simp only [fileInstr, withFiring_issues h, hr, afterWord]

end Sys2Proof.Laws.Shapes
end

