-- ==== Sys2Proof/Laws/State.lean ====
section
/-! SUPPORT. What each replacement of a field of State leaves: one lemma per field and replacement. -/

namespace Sys2Proof.Laws.State

open Sys2Proof.Machine

@[simp] theorem setCfg_cfg (s : State) (v : Cfg) : (setCfg s v).cfg = v := rfl
@[simp] theorem setCfg_tenants (s : State) (v : Cfg) : (setCfg s v).tenants = s.tenants := rfl
@[simp] theorem setCfg_mem (s : State) (v : Cfg) : (setCfg s v).mem = s.mem := rfl
@[simp] theorem setCfg_full (s : State) (v : Cfg) : (setCfg s v).full = s.full := rfl
@[simp] theorem setCfg_waiters (s : State) (v : Cfg) : (setCfg s v).waiters = s.waiters := rfl
@[simp] theorem setCfg_l2 (s : State) (v : Cfg) : (setCfg s v).l2 = s.l2 := rfl
@[simp] theorem setCfg_xlat (s : State) (v : Cfg) : (setCfg s v).xlat = s.xlat := rfl
@[simp] theorem setCfg_launches (s : State) (v : Cfg) : (setCfg s v).launches = s.launches := rfl
@[simp] theorem setCfg_insts (s : State) (v : Cfg) : (setCfg s v).insts = s.insts := rfl
@[simp] theorem setCfg_closed (s : State) (v : Cfg) : (setCfg s v).closed = s.closed := rfl
@[simp] theorem setCfg_chans (s : State) (v : Cfg) : (setCfg s v).chans = s.chans := rfl
@[simp] theorem setCfg_bars (s : State) (v : Cfg) : (setCfg s v).bars = s.bars := rfl
@[simp] theorem setCfg_transit (s : State) (v : Cfg) : (setCfg s v).transit = s.transit := rfl
@[simp] theorem setCfg_inbox (s : State) (v : Cfg) : (setCfg s v).inbox = s.inbox := rfl
@[simp] theorem setCfg_firings (s : State) (v : Cfg) : (setCfg s v).firings = s.firings := rfl
@[simp] theorem setCfg_pcores (s : State) (v : Cfg) : (setCfg s v).pcores = s.pcores := rfl
@[simp] theorem setCfg_eng (s : State) (v : Cfg) : (setCfg s v).eng = s.eng := rfl
@[simp] theorem setCfg_tasks (s : State) (v : Cfg) : (setCfg s v).tasks = s.tasks := rfl
@[simp] theorem setCfg_ctx (s : State) (v : Cfg) : (setCfg s v).ctx = s.ctx := rfl
@[simp] theorem setCfg_slots (s : State) (v : Cfg) : (setCfg s v).slots = s.slots := rfl
@[simp] theorem setCfg_markers (s : State) (v : Cfg) : (setCfg s v).markers = s.markers := rfl
@[simp] theorem setCfg_paths (s : State) (v : Cfg) : (setCfg s v).paths = s.paths := rfl
@[simp] theorem setCfg_hts (s : State) (v : Cfg) : (setCfg s v).hts = s.hts := rfl
@[simp] theorem setCfg_hostRead (s : State) (v : Cfg) : (setCfg s v).hostRead = s.hostRead := rfl
@[simp] theorem setCfg_icache (s : State) (v : Cfg) : (setCfg s v).icache = s.icache := rfl
@[simp] theorem setCfg_dir (s : State) (v : Cfg) : (setCfg s v).dir = s.dir := rfl
@[simp] theorem setCfg_acq (s : State) (v : Cfg) : (setCfg s v).acq = s.acq := rfl
@[simp] theorem setCfg_records (s : State) (v : Cfg) : (setCfg s v).records = s.records := rfl
@[simp] theorem setCfg_saved (s : State) (v : Cfg) : (setCfg s v).saved = s.saved := rfl
@[simp] theorem setCfg_clk (s : State) (v : Cfg) : (setCfg s v).clk = s.clk := rfl
@[simp] theorem setCfg_nextId (s : State) (v : Cfg) : (setCfg s v).nextId = s.nextId := rfl
@[simp] theorem setCfg_free (s : State) (v : Cfg) : (setCfg s v).free = s.free := rfl
@[simp] theorem setCfg_cur (s : State) (v : Cfg) : (setCfg s v).cur = s.cur := rfl
@[simp] theorem setCfg_plan (s : State) (v : Cfg) : (setCfg s v).plan = s.plan := rfl
@[simp] theorem setTenants_cfg (s : State) (v : Vector Tenant 16) : (setTenants s v).cfg = s.cfg := rfl
@[simp] theorem setTenants_tenants (s : State) (v : Vector Tenant 16) : (setTenants s v).tenants = v := rfl
@[simp] theorem setTenants_mem (s : State) (v : Vector Tenant 16) : (setTenants s v).mem = s.mem := rfl
@[simp] theorem setTenants_full (s : State) (v : Vector Tenant 16) : (setTenants s v).full = s.full := rfl
@[simp] theorem setTenants_waiters (s : State) (v : Vector Tenant 16) : (setTenants s v).waiters = s.waiters := rfl
@[simp] theorem setTenants_l2 (s : State) (v : Vector Tenant 16) : (setTenants s v).l2 = s.l2 := rfl
@[simp] theorem setTenants_xlat (s : State) (v : Vector Tenant 16) : (setTenants s v).xlat = s.xlat := rfl
@[simp] theorem setTenants_launches (s : State) (v : Vector Tenant 16) : (setTenants s v).launches = s.launches := rfl
@[simp] theorem setTenants_insts (s : State) (v : Vector Tenant 16) : (setTenants s v).insts = s.insts := rfl
@[simp] theorem setTenants_closed (s : State) (v : Vector Tenant 16) : (setTenants s v).closed = s.closed := rfl
@[simp] theorem setTenants_chans (s : State) (v : Vector Tenant 16) : (setTenants s v).chans = s.chans := rfl
@[simp] theorem setTenants_bars (s : State) (v : Vector Tenant 16) : (setTenants s v).bars = s.bars := rfl
@[simp] theorem setTenants_transit (s : State) (v : Vector Tenant 16) : (setTenants s v).transit = s.transit := rfl
@[simp] theorem setTenants_inbox (s : State) (v : Vector Tenant 16) : (setTenants s v).inbox = s.inbox := rfl
@[simp] theorem setTenants_firings (s : State) (v : Vector Tenant 16) : (setTenants s v).firings = s.firings := rfl
@[simp] theorem setTenants_pcores (s : State) (v : Vector Tenant 16) : (setTenants s v).pcores = s.pcores := rfl
@[simp] theorem setTenants_eng (s : State) (v : Vector Tenant 16) : (setTenants s v).eng = s.eng := rfl
@[simp] theorem setTenants_tasks (s : State) (v : Vector Tenant 16) : (setTenants s v).tasks = s.tasks := rfl
@[simp] theorem setTenants_ctx (s : State) (v : Vector Tenant 16) : (setTenants s v).ctx = s.ctx := rfl
@[simp] theorem setTenants_slots (s : State) (v : Vector Tenant 16) : (setTenants s v).slots = s.slots := rfl
@[simp] theorem setTenants_markers (s : State) (v : Vector Tenant 16) : (setTenants s v).markers = s.markers := rfl
@[simp] theorem setTenants_paths (s : State) (v : Vector Tenant 16) : (setTenants s v).paths = s.paths := rfl
@[simp] theorem setTenants_hts (s : State) (v : Vector Tenant 16) : (setTenants s v).hts = s.hts := rfl
@[simp] theorem setTenants_hostRead (s : State) (v : Vector Tenant 16) : (setTenants s v).hostRead = s.hostRead := rfl
@[simp] theorem setTenants_icache (s : State) (v : Vector Tenant 16) : (setTenants s v).icache = s.icache := rfl
@[simp] theorem setTenants_dir (s : State) (v : Vector Tenant 16) : (setTenants s v).dir = s.dir := rfl
@[simp] theorem setTenants_acq (s : State) (v : Vector Tenant 16) : (setTenants s v).acq = s.acq := rfl
@[simp] theorem setTenants_records (s : State) (v : Vector Tenant 16) : (setTenants s v).records = s.records := rfl
@[simp] theorem setTenants_saved (s : State) (v : Vector Tenant 16) : (setTenants s v).saved = s.saved := rfl
@[simp] theorem setTenants_clk (s : State) (v : Vector Tenant 16) : (setTenants s v).clk = s.clk := rfl
@[simp] theorem setTenants_nextId (s : State) (v : Vector Tenant 16) : (setTenants s v).nextId = s.nextId := rfl
@[simp] theorem setTenants_free (s : State) (v : Vector Tenant 16) : (setTenants s v).free = s.free := rfl
@[simp] theorem setTenants_cur (s : State) (v : Vector Tenant 16) : (setTenants s v).cur = s.cur := rfl
@[simp] theorem setTenants_plan (s : State) (v : Vector Tenant 16) : (setTenants s v).plan = s.plan := rfl
@[simp] theorem setMem_cfg (s : State) (v : Mem) : (setMem s v).cfg = s.cfg := rfl
@[simp] theorem setMem_tenants (s : State) (v : Mem) : (setMem s v).tenants = s.tenants := rfl
@[simp] theorem setMem_mem (s : State) (v : Mem) : (setMem s v).mem = v := rfl
@[simp] theorem setMem_full (s : State) (v : Mem) : (setMem s v).full = s.full := rfl
@[simp] theorem setMem_waiters (s : State) (v : Mem) : (setMem s v).waiters = s.waiters := rfl
@[simp] theorem setMem_l2 (s : State) (v : Mem) : (setMem s v).l2 = s.l2 := rfl
@[simp] theorem setMem_xlat (s : State) (v : Mem) : (setMem s v).xlat = s.xlat := rfl
@[simp] theorem setMem_launches (s : State) (v : Mem) : (setMem s v).launches = s.launches := rfl
@[simp] theorem setMem_insts (s : State) (v : Mem) : (setMem s v).insts = s.insts := rfl
@[simp] theorem setMem_closed (s : State) (v : Mem) : (setMem s v).closed = s.closed := rfl
@[simp] theorem setMem_chans (s : State) (v : Mem) : (setMem s v).chans = s.chans := rfl
@[simp] theorem setMem_bars (s : State) (v : Mem) : (setMem s v).bars = s.bars := rfl
@[simp] theorem setMem_transit (s : State) (v : Mem) : (setMem s v).transit = s.transit := rfl
@[simp] theorem setMem_inbox (s : State) (v : Mem) : (setMem s v).inbox = s.inbox := rfl
@[simp] theorem setMem_firings (s : State) (v : Mem) : (setMem s v).firings = s.firings := rfl
@[simp] theorem setMem_pcores (s : State) (v : Mem) : (setMem s v).pcores = s.pcores := rfl
@[simp] theorem setMem_eng (s : State) (v : Mem) : (setMem s v).eng = s.eng := rfl
@[simp] theorem setMem_tasks (s : State) (v : Mem) : (setMem s v).tasks = s.tasks := rfl
@[simp] theorem setMem_ctx (s : State) (v : Mem) : (setMem s v).ctx = s.ctx := rfl
@[simp] theorem setMem_slots (s : State) (v : Mem) : (setMem s v).slots = s.slots := rfl
@[simp] theorem setMem_markers (s : State) (v : Mem) : (setMem s v).markers = s.markers := rfl
@[simp] theorem setMem_paths (s : State) (v : Mem) : (setMem s v).paths = s.paths := rfl
@[simp] theorem setMem_hts (s : State) (v : Mem) : (setMem s v).hts = s.hts := rfl
@[simp] theorem setMem_hostRead (s : State) (v : Mem) : (setMem s v).hostRead = s.hostRead := rfl
@[simp] theorem setMem_icache (s : State) (v : Mem) : (setMem s v).icache = s.icache := rfl
@[simp] theorem setMem_dir (s : State) (v : Mem) : (setMem s v).dir = s.dir := rfl
@[simp] theorem setMem_acq (s : State) (v : Mem) : (setMem s v).acq = s.acq := rfl
@[simp] theorem setMem_records (s : State) (v : Mem) : (setMem s v).records = s.records := rfl
@[simp] theorem setMem_saved (s : State) (v : Mem) : (setMem s v).saved = s.saved := rfl
@[simp] theorem setMem_clk (s : State) (v : Mem) : (setMem s v).clk = s.clk := rfl
@[simp] theorem setMem_nextId (s : State) (v : Mem) : (setMem s v).nextId = s.nextId := rfl
@[simp] theorem setMem_free (s : State) (v : Mem) : (setMem s v).free = s.free := rfl
@[simp] theorem setMem_cur (s : State) (v : Mem) : (setMem s v).cur = s.cur := rfl
@[simp] theorem setMem_plan (s : State) (v : Mem) : (setMem s v).plan = s.plan := rfl
@[simp] theorem setFull_cfg (s : State) (v : List Nat) : (setFull s v).cfg = s.cfg := rfl
@[simp] theorem setFull_tenants (s : State) (v : List Nat) : (setFull s v).tenants = s.tenants := rfl
@[simp] theorem setFull_mem (s : State) (v : List Nat) : (setFull s v).mem = s.mem := rfl
@[simp] theorem setFull_full (s : State) (v : List Nat) : (setFull s v).full = v := rfl
@[simp] theorem setFull_waiters (s : State) (v : List Nat) : (setFull s v).waiters = s.waiters := rfl
@[simp] theorem setFull_l2 (s : State) (v : List Nat) : (setFull s v).l2 = s.l2 := rfl
@[simp] theorem setFull_xlat (s : State) (v : List Nat) : (setFull s v).xlat = s.xlat := rfl
@[simp] theorem setFull_launches (s : State) (v : List Nat) : (setFull s v).launches = s.launches := rfl
@[simp] theorem setFull_insts (s : State) (v : List Nat) : (setFull s v).insts = s.insts := rfl
@[simp] theorem setFull_closed (s : State) (v : List Nat) : (setFull s v).closed = s.closed := rfl
@[simp] theorem setFull_chans (s : State) (v : List Nat) : (setFull s v).chans = s.chans := rfl
@[simp] theorem setFull_bars (s : State) (v : List Nat) : (setFull s v).bars = s.bars := rfl
@[simp] theorem setFull_transit (s : State) (v : List Nat) : (setFull s v).transit = s.transit := rfl
@[simp] theorem setFull_inbox (s : State) (v : List Nat) : (setFull s v).inbox = s.inbox := rfl
@[simp] theorem setFull_firings (s : State) (v : List Nat) : (setFull s v).firings = s.firings := rfl
@[simp] theorem setFull_pcores (s : State) (v : List Nat) : (setFull s v).pcores = s.pcores := rfl
@[simp] theorem setFull_eng (s : State) (v : List Nat) : (setFull s v).eng = s.eng := rfl
@[simp] theorem setFull_tasks (s : State) (v : List Nat) : (setFull s v).tasks = s.tasks := rfl
@[simp] theorem setFull_ctx (s : State) (v : List Nat) : (setFull s v).ctx = s.ctx := rfl
@[simp] theorem setFull_slots (s : State) (v : List Nat) : (setFull s v).slots = s.slots := rfl
@[simp] theorem setFull_markers (s : State) (v : List Nat) : (setFull s v).markers = s.markers := rfl
@[simp] theorem setFull_paths (s : State) (v : List Nat) : (setFull s v).paths = s.paths := rfl
@[simp] theorem setFull_hts (s : State) (v : List Nat) : (setFull s v).hts = s.hts := rfl
@[simp] theorem setFull_hostRead (s : State) (v : List Nat) : (setFull s v).hostRead = s.hostRead := rfl
@[simp] theorem setFull_icache (s : State) (v : List Nat) : (setFull s v).icache = s.icache := rfl
@[simp] theorem setFull_dir (s : State) (v : List Nat) : (setFull s v).dir = s.dir := rfl
@[simp] theorem setFull_acq (s : State) (v : List Nat) : (setFull s v).acq = s.acq := rfl
@[simp] theorem setFull_records (s : State) (v : List Nat) : (setFull s v).records = s.records := rfl
@[simp] theorem setFull_saved (s : State) (v : List Nat) : (setFull s v).saved = s.saved := rfl
@[simp] theorem setFull_clk (s : State) (v : List Nat) : (setFull s v).clk = s.clk := rfl
@[simp] theorem setFull_nextId (s : State) (v : List Nat) : (setFull s v).nextId = s.nextId := rfl
@[simp] theorem setFull_free (s : State) (v : List Nat) : (setFull s v).free = s.free := rfl
@[simp] theorem setFull_cur (s : State) (v : List Nat) : (setFull s v).cur = s.cur := rfl
@[simp] theorem setFull_plan (s : State) (v : List Nat) : (setFull s v).plan = s.plan := rfl
@[simp] theorem setWaiters_cfg (s : State) (v : List FeWaiter) : (setWaiters s v).cfg = s.cfg := rfl
@[simp] theorem setWaiters_tenants (s : State) (v : List FeWaiter) : (setWaiters s v).tenants = s.tenants := rfl
@[simp] theorem setWaiters_mem (s : State) (v : List FeWaiter) : (setWaiters s v).mem = s.mem := rfl
@[simp] theorem setWaiters_full (s : State) (v : List FeWaiter) : (setWaiters s v).full = s.full := rfl
@[simp] theorem setWaiters_waiters (s : State) (v : List FeWaiter) : (setWaiters s v).waiters = v := rfl
@[simp] theorem setWaiters_l2 (s : State) (v : List FeWaiter) : (setWaiters s v).l2 = s.l2 := rfl
@[simp] theorem setWaiters_xlat (s : State) (v : List FeWaiter) : (setWaiters s v).xlat = s.xlat := rfl
@[simp] theorem setWaiters_launches (s : State) (v : List FeWaiter) : (setWaiters s v).launches = s.launches := rfl
@[simp] theorem setWaiters_insts (s : State) (v : List FeWaiter) : (setWaiters s v).insts = s.insts := rfl
@[simp] theorem setWaiters_closed (s : State) (v : List FeWaiter) : (setWaiters s v).closed = s.closed := rfl
@[simp] theorem setWaiters_chans (s : State) (v : List FeWaiter) : (setWaiters s v).chans = s.chans := rfl
@[simp] theorem setWaiters_bars (s : State) (v : List FeWaiter) : (setWaiters s v).bars = s.bars := rfl
@[simp] theorem setWaiters_transit (s : State) (v : List FeWaiter) : (setWaiters s v).transit = s.transit := rfl
@[simp] theorem setWaiters_inbox (s : State) (v : List FeWaiter) : (setWaiters s v).inbox = s.inbox := rfl
@[simp] theorem setWaiters_firings (s : State) (v : List FeWaiter) : (setWaiters s v).firings = s.firings := rfl
@[simp] theorem setWaiters_pcores (s : State) (v : List FeWaiter) : (setWaiters s v).pcores = s.pcores := rfl
@[simp] theorem setWaiters_eng (s : State) (v : List FeWaiter) : (setWaiters s v).eng = s.eng := rfl
@[simp] theorem setWaiters_tasks (s : State) (v : List FeWaiter) : (setWaiters s v).tasks = s.tasks := rfl
@[simp] theorem setWaiters_ctx (s : State) (v : List FeWaiter) : (setWaiters s v).ctx = s.ctx := rfl
@[simp] theorem setWaiters_slots (s : State) (v : List FeWaiter) : (setWaiters s v).slots = s.slots := rfl
@[simp] theorem setWaiters_markers (s : State) (v : List FeWaiter) : (setWaiters s v).markers = s.markers := rfl
@[simp] theorem setWaiters_paths (s : State) (v : List FeWaiter) : (setWaiters s v).paths = s.paths := rfl
@[simp] theorem setWaiters_hts (s : State) (v : List FeWaiter) : (setWaiters s v).hts = s.hts := rfl
@[simp] theorem setWaiters_hostRead (s : State) (v : List FeWaiter) : (setWaiters s v).hostRead = s.hostRead := rfl
@[simp] theorem setWaiters_icache (s : State) (v : List FeWaiter) : (setWaiters s v).icache = s.icache := rfl
@[simp] theorem setWaiters_dir (s : State) (v : List FeWaiter) : (setWaiters s v).dir = s.dir := rfl
@[simp] theorem setWaiters_acq (s : State) (v : List FeWaiter) : (setWaiters s v).acq = s.acq := rfl
@[simp] theorem setWaiters_records (s : State) (v : List FeWaiter) : (setWaiters s v).records = s.records := rfl
@[simp] theorem setWaiters_saved (s : State) (v : List FeWaiter) : (setWaiters s v).saved = s.saved := rfl
@[simp] theorem setWaiters_clk (s : State) (v : List FeWaiter) : (setWaiters s v).clk = s.clk := rfl
@[simp] theorem setWaiters_nextId (s : State) (v : List FeWaiter) : (setWaiters s v).nextId = s.nextId := rfl
@[simp] theorem setWaiters_free (s : State) (v : List FeWaiter) : (setWaiters s v).free = s.free := rfl
@[simp] theorem setWaiters_cur (s : State) (v : List FeWaiter) : (setWaiters s v).cur = s.cur := rfl
@[simp] theorem setWaiters_plan (s : State) (v : List FeWaiter) : (setWaiters s v).plan = s.plan := rfl
@[simp] theorem setL2_cfg (s : State) (v : L2) : (setL2 s v).cfg = s.cfg := rfl
@[simp] theorem setL2_tenants (s : State) (v : L2) : (setL2 s v).tenants = s.tenants := rfl
@[simp] theorem setL2_mem (s : State) (v : L2) : (setL2 s v).mem = s.mem := rfl
@[simp] theorem setL2_full (s : State) (v : L2) : (setL2 s v).full = s.full := rfl
@[simp] theorem setL2_waiters (s : State) (v : L2) : (setL2 s v).waiters = s.waiters := rfl
@[simp] theorem setL2_l2 (s : State) (v : L2) : (setL2 s v).l2 = v := rfl
@[simp] theorem setL2_xlat (s : State) (v : L2) : (setL2 s v).xlat = s.xlat := rfl
@[simp] theorem setL2_launches (s : State) (v : L2) : (setL2 s v).launches = s.launches := rfl
@[simp] theorem setL2_insts (s : State) (v : L2) : (setL2 s v).insts = s.insts := rfl
@[simp] theorem setL2_closed (s : State) (v : L2) : (setL2 s v).closed = s.closed := rfl
@[simp] theorem setL2_chans (s : State) (v : L2) : (setL2 s v).chans = s.chans := rfl
@[simp] theorem setL2_bars (s : State) (v : L2) : (setL2 s v).bars = s.bars := rfl
@[simp] theorem setL2_transit (s : State) (v : L2) : (setL2 s v).transit = s.transit := rfl
@[simp] theorem setL2_inbox (s : State) (v : L2) : (setL2 s v).inbox = s.inbox := rfl
@[simp] theorem setL2_firings (s : State) (v : L2) : (setL2 s v).firings = s.firings := rfl
@[simp] theorem setL2_pcores (s : State) (v : L2) : (setL2 s v).pcores = s.pcores := rfl
@[simp] theorem setL2_eng (s : State) (v : L2) : (setL2 s v).eng = s.eng := rfl
@[simp] theorem setL2_tasks (s : State) (v : L2) : (setL2 s v).tasks = s.tasks := rfl
@[simp] theorem setL2_ctx (s : State) (v : L2) : (setL2 s v).ctx = s.ctx := rfl
@[simp] theorem setL2_slots (s : State) (v : L2) : (setL2 s v).slots = s.slots := rfl
@[simp] theorem setL2_markers (s : State) (v : L2) : (setL2 s v).markers = s.markers := rfl
@[simp] theorem setL2_paths (s : State) (v : L2) : (setL2 s v).paths = s.paths := rfl
@[simp] theorem setL2_hts (s : State) (v : L2) : (setL2 s v).hts = s.hts := rfl
@[simp] theorem setL2_hostRead (s : State) (v : L2) : (setL2 s v).hostRead = s.hostRead := rfl
@[simp] theorem setL2_icache (s : State) (v : L2) : (setL2 s v).icache = s.icache := rfl
@[simp] theorem setL2_dir (s : State) (v : L2) : (setL2 s v).dir = s.dir := rfl
@[simp] theorem setL2_acq (s : State) (v : L2) : (setL2 s v).acq = s.acq := rfl
@[simp] theorem setL2_records (s : State) (v : L2) : (setL2 s v).records = s.records := rfl
@[simp] theorem setL2_saved (s : State) (v : L2) : (setL2 s v).saved = s.saved := rfl
@[simp] theorem setL2_clk (s : State) (v : L2) : (setL2 s v).clk = s.clk := rfl
@[simp] theorem setL2_nextId (s : State) (v : L2) : (setL2 s v).nextId = s.nextId := rfl
@[simp] theorem setL2_free (s : State) (v : L2) : (setL2 s v).free = s.free := rfl
@[simp] theorem setL2_cur (s : State) (v : L2) : (setL2 s v).cur = s.cur := rfl
@[simp] theorem setL2_plan (s : State) (v : L2) : (setL2 s v).plan = s.plan := rfl
@[simp] theorem setXlat_cfg (s : State) (v : Xlat) : (setXlat s v).cfg = s.cfg := rfl
@[simp] theorem setXlat_tenants (s : State) (v : Xlat) : (setXlat s v).tenants = s.tenants := rfl
@[simp] theorem setXlat_mem (s : State) (v : Xlat) : (setXlat s v).mem = s.mem := rfl
@[simp] theorem setXlat_full (s : State) (v : Xlat) : (setXlat s v).full = s.full := rfl
@[simp] theorem setXlat_waiters (s : State) (v : Xlat) : (setXlat s v).waiters = s.waiters := rfl
@[simp] theorem setXlat_l2 (s : State) (v : Xlat) : (setXlat s v).l2 = s.l2 := rfl
@[simp] theorem setXlat_xlat (s : State) (v : Xlat) : (setXlat s v).xlat = v := rfl
@[simp] theorem setXlat_launches (s : State) (v : Xlat) : (setXlat s v).launches = s.launches := rfl
@[simp] theorem setXlat_insts (s : State) (v : Xlat) : (setXlat s v).insts = s.insts := rfl
@[simp] theorem setXlat_closed (s : State) (v : Xlat) : (setXlat s v).closed = s.closed := rfl
@[simp] theorem setXlat_chans (s : State) (v : Xlat) : (setXlat s v).chans = s.chans := rfl
@[simp] theorem setXlat_bars (s : State) (v : Xlat) : (setXlat s v).bars = s.bars := rfl
@[simp] theorem setXlat_transit (s : State) (v : Xlat) : (setXlat s v).transit = s.transit := rfl
@[simp] theorem setXlat_inbox (s : State) (v : Xlat) : (setXlat s v).inbox = s.inbox := rfl
@[simp] theorem setXlat_firings (s : State) (v : Xlat) : (setXlat s v).firings = s.firings := rfl
@[simp] theorem setXlat_pcores (s : State) (v : Xlat) : (setXlat s v).pcores = s.pcores := rfl
@[simp] theorem setXlat_eng (s : State) (v : Xlat) : (setXlat s v).eng = s.eng := rfl
@[simp] theorem setXlat_tasks (s : State) (v : Xlat) : (setXlat s v).tasks = s.tasks := rfl
@[simp] theorem setXlat_ctx (s : State) (v : Xlat) : (setXlat s v).ctx = s.ctx := rfl
@[simp] theorem setXlat_slots (s : State) (v : Xlat) : (setXlat s v).slots = s.slots := rfl
@[simp] theorem setXlat_markers (s : State) (v : Xlat) : (setXlat s v).markers = s.markers := rfl
@[simp] theorem setXlat_paths (s : State) (v : Xlat) : (setXlat s v).paths = s.paths := rfl
@[simp] theorem setXlat_hts (s : State) (v : Xlat) : (setXlat s v).hts = s.hts := rfl
@[simp] theorem setXlat_hostRead (s : State) (v : Xlat) : (setXlat s v).hostRead = s.hostRead := rfl
@[simp] theorem setXlat_icache (s : State) (v : Xlat) : (setXlat s v).icache = s.icache := rfl
@[simp] theorem setXlat_dir (s : State) (v : Xlat) : (setXlat s v).dir = s.dir := rfl
@[simp] theorem setXlat_acq (s : State) (v : Xlat) : (setXlat s v).acq = s.acq := rfl
@[simp] theorem setXlat_records (s : State) (v : Xlat) : (setXlat s v).records = s.records := rfl
@[simp] theorem setXlat_saved (s : State) (v : Xlat) : (setXlat s v).saved = s.saved := rfl
@[simp] theorem setXlat_clk (s : State) (v : Xlat) : (setXlat s v).clk = s.clk := rfl
@[simp] theorem setXlat_nextId (s : State) (v : Xlat) : (setXlat s v).nextId = s.nextId := rfl
@[simp] theorem setXlat_free (s : State) (v : Xlat) : (setXlat s v).free = s.free := rfl
@[simp] theorem setXlat_cur (s : State) (v : Xlat) : (setXlat s v).cur = s.cur := rfl
@[simp] theorem setXlat_plan (s : State) (v : Xlat) : (setXlat s v).plan = s.plan := rfl
@[simp] theorem setLaunches_cfg (s : State) (v : List Launch) : (setLaunches s v).cfg = s.cfg := rfl
@[simp] theorem setLaunches_tenants (s : State) (v : List Launch) : (setLaunches s v).tenants = s.tenants := rfl
@[simp] theorem setLaunches_mem (s : State) (v : List Launch) : (setLaunches s v).mem = s.mem := rfl
@[simp] theorem setLaunches_full (s : State) (v : List Launch) : (setLaunches s v).full = s.full := rfl
@[simp] theorem setLaunches_waiters (s : State) (v : List Launch) : (setLaunches s v).waiters = s.waiters := rfl
@[simp] theorem setLaunches_l2 (s : State) (v : List Launch) : (setLaunches s v).l2 = s.l2 := rfl
@[simp] theorem setLaunches_xlat (s : State) (v : List Launch) : (setLaunches s v).xlat = s.xlat := rfl
@[simp] theorem setLaunches_launches (s : State) (v : List Launch) : (setLaunches s v).launches = v := rfl
@[simp] theorem setLaunches_insts (s : State) (v : List Launch) : (setLaunches s v).insts = s.insts := rfl
@[simp] theorem setLaunches_closed (s : State) (v : List Launch) : (setLaunches s v).closed = s.closed := rfl
@[simp] theorem setLaunches_chans (s : State) (v : List Launch) : (setLaunches s v).chans = s.chans := rfl
@[simp] theorem setLaunches_bars (s : State) (v : List Launch) : (setLaunches s v).bars = s.bars := rfl
@[simp] theorem setLaunches_transit (s : State) (v : List Launch) : (setLaunches s v).transit = s.transit := rfl
@[simp] theorem setLaunches_inbox (s : State) (v : List Launch) : (setLaunches s v).inbox = s.inbox := rfl
@[simp] theorem setLaunches_firings (s : State) (v : List Launch) : (setLaunches s v).firings = s.firings := rfl
@[simp] theorem setLaunches_pcores (s : State) (v : List Launch) : (setLaunches s v).pcores = s.pcores := rfl
@[simp] theorem setLaunches_eng (s : State) (v : List Launch) : (setLaunches s v).eng = s.eng := rfl
@[simp] theorem setLaunches_tasks (s : State) (v : List Launch) : (setLaunches s v).tasks = s.tasks := rfl
@[simp] theorem setLaunches_ctx (s : State) (v : List Launch) : (setLaunches s v).ctx = s.ctx := rfl
@[simp] theorem setLaunches_slots (s : State) (v : List Launch) : (setLaunches s v).slots = s.slots := rfl
@[simp] theorem setLaunches_markers (s : State) (v : List Launch) : (setLaunches s v).markers = s.markers := rfl
@[simp] theorem setLaunches_paths (s : State) (v : List Launch) : (setLaunches s v).paths = s.paths := rfl
@[simp] theorem setLaunches_hts (s : State) (v : List Launch) : (setLaunches s v).hts = s.hts := rfl
@[simp] theorem setLaunches_hostRead (s : State) (v : List Launch) : (setLaunches s v).hostRead = s.hostRead := rfl
@[simp] theorem setLaunches_icache (s : State) (v : List Launch) : (setLaunches s v).icache = s.icache := rfl
@[simp] theorem setLaunches_dir (s : State) (v : List Launch) : (setLaunches s v).dir = s.dir := rfl
@[simp] theorem setLaunches_acq (s : State) (v : List Launch) : (setLaunches s v).acq = s.acq := rfl
@[simp] theorem setLaunches_records (s : State) (v : List Launch) : (setLaunches s v).records = s.records := rfl
@[simp] theorem setLaunches_saved (s : State) (v : List Launch) : (setLaunches s v).saved = s.saved := rfl
@[simp] theorem setLaunches_clk (s : State) (v : List Launch) : (setLaunches s v).clk = s.clk := rfl
@[simp] theorem setLaunches_nextId (s : State) (v : List Launch) : (setLaunches s v).nextId = s.nextId := rfl
@[simp] theorem setLaunches_free (s : State) (v : List Launch) : (setLaunches s v).free = s.free := rfl
@[simp] theorem setLaunches_cur (s : State) (v : List Launch) : (setLaunches s v).cur = s.cur := rfl
@[simp] theorem setLaunches_plan (s : State) (v : List Launch) : (setLaunches s v).plan = s.plan := rfl
@[simp] theorem setInsts_cfg (s : State) (v : List Inst) : (setInsts s v).cfg = s.cfg := rfl
@[simp] theorem setInsts_tenants (s : State) (v : List Inst) : (setInsts s v).tenants = s.tenants := rfl
@[simp] theorem setInsts_mem (s : State) (v : List Inst) : (setInsts s v).mem = s.mem := rfl
@[simp] theorem setInsts_full (s : State) (v : List Inst) : (setInsts s v).full = s.full := rfl
@[simp] theorem setInsts_waiters (s : State) (v : List Inst) : (setInsts s v).waiters = s.waiters := rfl
@[simp] theorem setInsts_l2 (s : State) (v : List Inst) : (setInsts s v).l2 = s.l2 := rfl
@[simp] theorem setInsts_xlat (s : State) (v : List Inst) : (setInsts s v).xlat = s.xlat := rfl
@[simp] theorem setInsts_launches (s : State) (v : List Inst) : (setInsts s v).launches = s.launches := rfl
@[simp] theorem setInsts_insts (s : State) (v : List Inst) : (setInsts s v).insts = v := rfl
@[simp] theorem setInsts_closed (s : State) (v : List Inst) : (setInsts s v).closed = s.closed := rfl
@[simp] theorem setInsts_chans (s : State) (v : List Inst) : (setInsts s v).chans = s.chans := rfl
@[simp] theorem setInsts_bars (s : State) (v : List Inst) : (setInsts s v).bars = s.bars := rfl
@[simp] theorem setInsts_transit (s : State) (v : List Inst) : (setInsts s v).transit = s.transit := rfl
@[simp] theorem setInsts_inbox (s : State) (v : List Inst) : (setInsts s v).inbox = s.inbox := rfl
@[simp] theorem setInsts_firings (s : State) (v : List Inst) : (setInsts s v).firings = s.firings := rfl
@[simp] theorem setInsts_pcores (s : State) (v : List Inst) : (setInsts s v).pcores = s.pcores := rfl
@[simp] theorem setInsts_eng (s : State) (v : List Inst) : (setInsts s v).eng = s.eng := rfl
@[simp] theorem setInsts_tasks (s : State) (v : List Inst) : (setInsts s v).tasks = s.tasks := rfl
@[simp] theorem setInsts_ctx (s : State) (v : List Inst) : (setInsts s v).ctx = s.ctx := rfl
@[simp] theorem setInsts_slots (s : State) (v : List Inst) : (setInsts s v).slots = s.slots := rfl
@[simp] theorem setInsts_markers (s : State) (v : List Inst) : (setInsts s v).markers = s.markers := rfl
@[simp] theorem setInsts_paths (s : State) (v : List Inst) : (setInsts s v).paths = s.paths := rfl
@[simp] theorem setInsts_hts (s : State) (v : List Inst) : (setInsts s v).hts = s.hts := rfl
@[simp] theorem setInsts_hostRead (s : State) (v : List Inst) : (setInsts s v).hostRead = s.hostRead := rfl
@[simp] theorem setInsts_icache (s : State) (v : List Inst) : (setInsts s v).icache = s.icache := rfl
@[simp] theorem setInsts_dir (s : State) (v : List Inst) : (setInsts s v).dir = s.dir := rfl
@[simp] theorem setInsts_acq (s : State) (v : List Inst) : (setInsts s v).acq = s.acq := rfl
@[simp] theorem setInsts_records (s : State) (v : List Inst) : (setInsts s v).records = s.records := rfl
@[simp] theorem setInsts_saved (s : State) (v : List Inst) : (setInsts s v).saved = s.saved := rfl
@[simp] theorem setInsts_clk (s : State) (v : List Inst) : (setInsts s v).clk = s.clk := rfl
@[simp] theorem setInsts_nextId (s : State) (v : List Inst) : (setInsts s v).nextId = s.nextId := rfl
@[simp] theorem setInsts_free (s : State) (v : List Inst) : (setInsts s v).free = s.free := rfl
@[simp] theorem setInsts_cur (s : State) (v : List Inst) : (setInsts s v).cur = s.cur := rfl
@[simp] theorem setInsts_plan (s : State) (v : List Inst) : (setInsts s v).plan = s.plan := rfl
@[simp] theorem setClosed_cfg (s : State) (v : List Closed) : (setClosed s v).cfg = s.cfg := rfl
@[simp] theorem setClosed_tenants (s : State) (v : List Closed) : (setClosed s v).tenants = s.tenants := rfl
@[simp] theorem setClosed_mem (s : State) (v : List Closed) : (setClosed s v).mem = s.mem := rfl
@[simp] theorem setClosed_full (s : State) (v : List Closed) : (setClosed s v).full = s.full := rfl
@[simp] theorem setClosed_waiters (s : State) (v : List Closed) : (setClosed s v).waiters = s.waiters := rfl
@[simp] theorem setClosed_l2 (s : State) (v : List Closed) : (setClosed s v).l2 = s.l2 := rfl
@[simp] theorem setClosed_xlat (s : State) (v : List Closed) : (setClosed s v).xlat = s.xlat := rfl
@[simp] theorem setClosed_launches (s : State) (v : List Closed) : (setClosed s v).launches = s.launches := rfl
@[simp] theorem setClosed_insts (s : State) (v : List Closed) : (setClosed s v).insts = s.insts := rfl
@[simp] theorem setClosed_closed (s : State) (v : List Closed) : (setClosed s v).closed = v := rfl
@[simp] theorem setClosed_chans (s : State) (v : List Closed) : (setClosed s v).chans = s.chans := rfl
@[simp] theorem setClosed_bars (s : State) (v : List Closed) : (setClosed s v).bars = s.bars := rfl
@[simp] theorem setClosed_transit (s : State) (v : List Closed) : (setClosed s v).transit = s.transit := rfl
@[simp] theorem setClosed_inbox (s : State) (v : List Closed) : (setClosed s v).inbox = s.inbox := rfl
@[simp] theorem setClosed_firings (s : State) (v : List Closed) : (setClosed s v).firings = s.firings := rfl
@[simp] theorem setClosed_pcores (s : State) (v : List Closed) : (setClosed s v).pcores = s.pcores := rfl
@[simp] theorem setClosed_eng (s : State) (v : List Closed) : (setClosed s v).eng = s.eng := rfl
@[simp] theorem setClosed_tasks (s : State) (v : List Closed) : (setClosed s v).tasks = s.tasks := rfl
@[simp] theorem setClosed_ctx (s : State) (v : List Closed) : (setClosed s v).ctx = s.ctx := rfl
@[simp] theorem setClosed_slots (s : State) (v : List Closed) : (setClosed s v).slots = s.slots := rfl
@[simp] theorem setClosed_markers (s : State) (v : List Closed) : (setClosed s v).markers = s.markers := rfl
@[simp] theorem setClosed_paths (s : State) (v : List Closed) : (setClosed s v).paths = s.paths := rfl
@[simp] theorem setClosed_hts (s : State) (v : List Closed) : (setClosed s v).hts = s.hts := rfl
@[simp] theorem setClosed_hostRead (s : State) (v : List Closed) : (setClosed s v).hostRead = s.hostRead := rfl
@[simp] theorem setClosed_icache (s : State) (v : List Closed) : (setClosed s v).icache = s.icache := rfl
@[simp] theorem setClosed_dir (s : State) (v : List Closed) : (setClosed s v).dir = s.dir := rfl
@[simp] theorem setClosed_acq (s : State) (v : List Closed) : (setClosed s v).acq = s.acq := rfl
@[simp] theorem setClosed_records (s : State) (v : List Closed) : (setClosed s v).records = s.records := rfl
@[simp] theorem setClosed_saved (s : State) (v : List Closed) : (setClosed s v).saved = s.saved := rfl
@[simp] theorem setClosed_clk (s : State) (v : List Closed) : (setClosed s v).clk = s.clk := rfl
@[simp] theorem setClosed_nextId (s : State) (v : List Closed) : (setClosed s v).nextId = s.nextId := rfl
@[simp] theorem setClosed_free (s : State) (v : List Closed) : (setClosed s v).free = s.free := rfl
@[simp] theorem setClosed_cur (s : State) (v : List Closed) : (setClosed s v).cur = s.cur := rfl
@[simp] theorem setClosed_plan (s : State) (v : List Closed) : (setClosed s v).plan = s.plan := rfl
@[simp] theorem setChans_cfg (s : State) (v : List Chan) : (setChans s v).cfg = s.cfg := rfl
@[simp] theorem setChans_tenants (s : State) (v : List Chan) : (setChans s v).tenants = s.tenants := rfl
@[simp] theorem setChans_mem (s : State) (v : List Chan) : (setChans s v).mem = s.mem := rfl
@[simp] theorem setChans_full (s : State) (v : List Chan) : (setChans s v).full = s.full := rfl
@[simp] theorem setChans_waiters (s : State) (v : List Chan) : (setChans s v).waiters = s.waiters := rfl
@[simp] theorem setChans_l2 (s : State) (v : List Chan) : (setChans s v).l2 = s.l2 := rfl
@[simp] theorem setChans_xlat (s : State) (v : List Chan) : (setChans s v).xlat = s.xlat := rfl
@[simp] theorem setChans_launches (s : State) (v : List Chan) : (setChans s v).launches = s.launches := rfl
@[simp] theorem setChans_insts (s : State) (v : List Chan) : (setChans s v).insts = s.insts := rfl
@[simp] theorem setChans_closed (s : State) (v : List Chan) : (setChans s v).closed = s.closed := rfl
@[simp] theorem setChans_chans (s : State) (v : List Chan) : (setChans s v).chans = v := rfl
@[simp] theorem setChans_bars (s : State) (v : List Chan) : (setChans s v).bars = s.bars := rfl
@[simp] theorem setChans_transit (s : State) (v : List Chan) : (setChans s v).transit = s.transit := rfl
@[simp] theorem setChans_inbox (s : State) (v : List Chan) : (setChans s v).inbox = s.inbox := rfl
@[simp] theorem setChans_firings (s : State) (v : List Chan) : (setChans s v).firings = s.firings := rfl
@[simp] theorem setChans_pcores (s : State) (v : List Chan) : (setChans s v).pcores = s.pcores := rfl
@[simp] theorem setChans_eng (s : State) (v : List Chan) : (setChans s v).eng = s.eng := rfl
@[simp] theorem setChans_tasks (s : State) (v : List Chan) : (setChans s v).tasks = s.tasks := rfl
@[simp] theorem setChans_ctx (s : State) (v : List Chan) : (setChans s v).ctx = s.ctx := rfl
@[simp] theorem setChans_slots (s : State) (v : List Chan) : (setChans s v).slots = s.slots := rfl
@[simp] theorem setChans_markers (s : State) (v : List Chan) : (setChans s v).markers = s.markers := rfl
@[simp] theorem setChans_paths (s : State) (v : List Chan) : (setChans s v).paths = s.paths := rfl
@[simp] theorem setChans_hts (s : State) (v : List Chan) : (setChans s v).hts = s.hts := rfl
@[simp] theorem setChans_hostRead (s : State) (v : List Chan) : (setChans s v).hostRead = s.hostRead := rfl
@[simp] theorem setChans_icache (s : State) (v : List Chan) : (setChans s v).icache = s.icache := rfl
@[simp] theorem setChans_dir (s : State) (v : List Chan) : (setChans s v).dir = s.dir := rfl
@[simp] theorem setChans_acq (s : State) (v : List Chan) : (setChans s v).acq = s.acq := rfl
@[simp] theorem setChans_records (s : State) (v : List Chan) : (setChans s v).records = s.records := rfl
@[simp] theorem setChans_saved (s : State) (v : List Chan) : (setChans s v).saved = s.saved := rfl
@[simp] theorem setChans_clk (s : State) (v : List Chan) : (setChans s v).clk = s.clk := rfl
@[simp] theorem setChans_nextId (s : State) (v : List Chan) : (setChans s v).nextId = s.nextId := rfl
@[simp] theorem setChans_free (s : State) (v : List Chan) : (setChans s v).free = s.free := rfl
@[simp] theorem setChans_cur (s : State) (v : List Chan) : (setChans s v).cur = s.cur := rfl
@[simp] theorem setChans_plan (s : State) (v : List Chan) : (setChans s v).plan = s.plan := rfl
@[simp] theorem setBars_cfg (s : State) (v : List BarGroup) : (setBars s v).cfg = s.cfg := rfl
@[simp] theorem setBars_tenants (s : State) (v : List BarGroup) : (setBars s v).tenants = s.tenants := rfl
@[simp] theorem setBars_mem (s : State) (v : List BarGroup) : (setBars s v).mem = s.mem := rfl
@[simp] theorem setBars_full (s : State) (v : List BarGroup) : (setBars s v).full = s.full := rfl
@[simp] theorem setBars_waiters (s : State) (v : List BarGroup) : (setBars s v).waiters = s.waiters := rfl
@[simp] theorem setBars_l2 (s : State) (v : List BarGroup) : (setBars s v).l2 = s.l2 := rfl
@[simp] theorem setBars_xlat (s : State) (v : List BarGroup) : (setBars s v).xlat = s.xlat := rfl
@[simp] theorem setBars_launches (s : State) (v : List BarGroup) : (setBars s v).launches = s.launches := rfl
@[simp] theorem setBars_insts (s : State) (v : List BarGroup) : (setBars s v).insts = s.insts := rfl
@[simp] theorem setBars_closed (s : State) (v : List BarGroup) : (setBars s v).closed = s.closed := rfl
@[simp] theorem setBars_chans (s : State) (v : List BarGroup) : (setBars s v).chans = s.chans := rfl
@[simp] theorem setBars_bars (s : State) (v : List BarGroup) : (setBars s v).bars = v := rfl
@[simp] theorem setBars_transit (s : State) (v : List BarGroup) : (setBars s v).transit = s.transit := rfl
@[simp] theorem setBars_inbox (s : State) (v : List BarGroup) : (setBars s v).inbox = s.inbox := rfl
@[simp] theorem setBars_firings (s : State) (v : List BarGroup) : (setBars s v).firings = s.firings := rfl
@[simp] theorem setBars_pcores (s : State) (v : List BarGroup) : (setBars s v).pcores = s.pcores := rfl
@[simp] theorem setBars_eng (s : State) (v : List BarGroup) : (setBars s v).eng = s.eng := rfl
@[simp] theorem setBars_tasks (s : State) (v : List BarGroup) : (setBars s v).tasks = s.tasks := rfl
@[simp] theorem setBars_ctx (s : State) (v : List BarGroup) : (setBars s v).ctx = s.ctx := rfl
@[simp] theorem setBars_slots (s : State) (v : List BarGroup) : (setBars s v).slots = s.slots := rfl
@[simp] theorem setBars_markers (s : State) (v : List BarGroup) : (setBars s v).markers = s.markers := rfl
@[simp] theorem setBars_paths (s : State) (v : List BarGroup) : (setBars s v).paths = s.paths := rfl
@[simp] theorem setBars_hts (s : State) (v : List BarGroup) : (setBars s v).hts = s.hts := rfl
@[simp] theorem setBars_hostRead (s : State) (v : List BarGroup) : (setBars s v).hostRead = s.hostRead := rfl
@[simp] theorem setBars_icache (s : State) (v : List BarGroup) : (setBars s v).icache = s.icache := rfl
@[simp] theorem setBars_dir (s : State) (v : List BarGroup) : (setBars s v).dir = s.dir := rfl
@[simp] theorem setBars_acq (s : State) (v : List BarGroup) : (setBars s v).acq = s.acq := rfl
@[simp] theorem setBars_records (s : State) (v : List BarGroup) : (setBars s v).records = s.records := rfl
@[simp] theorem setBars_saved (s : State) (v : List BarGroup) : (setBars s v).saved = s.saved := rfl
@[simp] theorem setBars_clk (s : State) (v : List BarGroup) : (setBars s v).clk = s.clk := rfl
@[simp] theorem setBars_nextId (s : State) (v : List BarGroup) : (setBars s v).nextId = s.nextId := rfl
@[simp] theorem setBars_free (s : State) (v : List BarGroup) : (setBars s v).free = s.free := rfl
@[simp] theorem setBars_cur (s : State) (v : List BarGroup) : (setBars s v).cur = s.cur := rfl
@[simp] theorem setBars_plan (s : State) (v : List BarGroup) : (setBars s v).plan = s.plan := rfl
@[simp] theorem setTransit_cfg (s : State) (v : List Msg) : (setTransit s v).cfg = s.cfg := rfl
@[simp] theorem setTransit_tenants (s : State) (v : List Msg) : (setTransit s v).tenants = s.tenants := rfl
@[simp] theorem setTransit_mem (s : State) (v : List Msg) : (setTransit s v).mem = s.mem := rfl
@[simp] theorem setTransit_full (s : State) (v : List Msg) : (setTransit s v).full = s.full := rfl
@[simp] theorem setTransit_waiters (s : State) (v : List Msg) : (setTransit s v).waiters = s.waiters := rfl
@[simp] theorem setTransit_l2 (s : State) (v : List Msg) : (setTransit s v).l2 = s.l2 := rfl
@[simp] theorem setTransit_xlat (s : State) (v : List Msg) : (setTransit s v).xlat = s.xlat := rfl
@[simp] theorem setTransit_launches (s : State) (v : List Msg) : (setTransit s v).launches = s.launches := rfl
@[simp] theorem setTransit_insts (s : State) (v : List Msg) : (setTransit s v).insts = s.insts := rfl
@[simp] theorem setTransit_closed (s : State) (v : List Msg) : (setTransit s v).closed = s.closed := rfl
@[simp] theorem setTransit_chans (s : State) (v : List Msg) : (setTransit s v).chans = s.chans := rfl
@[simp] theorem setTransit_bars (s : State) (v : List Msg) : (setTransit s v).bars = s.bars := rfl
@[simp] theorem setTransit_transit (s : State) (v : List Msg) : (setTransit s v).transit = v := rfl
@[simp] theorem setTransit_inbox (s : State) (v : List Msg) : (setTransit s v).inbox = s.inbox := rfl
@[simp] theorem setTransit_firings (s : State) (v : List Msg) : (setTransit s v).firings = s.firings := rfl
@[simp] theorem setTransit_pcores (s : State) (v : List Msg) : (setTransit s v).pcores = s.pcores := rfl
@[simp] theorem setTransit_eng (s : State) (v : List Msg) : (setTransit s v).eng = s.eng := rfl
@[simp] theorem setTransit_tasks (s : State) (v : List Msg) : (setTransit s v).tasks = s.tasks := rfl
@[simp] theorem setTransit_ctx (s : State) (v : List Msg) : (setTransit s v).ctx = s.ctx := rfl
@[simp] theorem setTransit_slots (s : State) (v : List Msg) : (setTransit s v).slots = s.slots := rfl
@[simp] theorem setTransit_markers (s : State) (v : List Msg) : (setTransit s v).markers = s.markers := rfl
@[simp] theorem setTransit_paths (s : State) (v : List Msg) : (setTransit s v).paths = s.paths := rfl
@[simp] theorem setTransit_hts (s : State) (v : List Msg) : (setTransit s v).hts = s.hts := rfl
@[simp] theorem setTransit_hostRead (s : State) (v : List Msg) : (setTransit s v).hostRead = s.hostRead := rfl
@[simp] theorem setTransit_icache (s : State) (v : List Msg) : (setTransit s v).icache = s.icache := rfl
@[simp] theorem setTransit_dir (s : State) (v : List Msg) : (setTransit s v).dir = s.dir := rfl
@[simp] theorem setTransit_acq (s : State) (v : List Msg) : (setTransit s v).acq = s.acq := rfl
@[simp] theorem setTransit_records (s : State) (v : List Msg) : (setTransit s v).records = s.records := rfl
@[simp] theorem setTransit_saved (s : State) (v : List Msg) : (setTransit s v).saved = s.saved := rfl
@[simp] theorem setTransit_clk (s : State) (v : List Msg) : (setTransit s v).clk = s.clk := rfl
@[simp] theorem setTransit_nextId (s : State) (v : List Msg) : (setTransit s v).nextId = s.nextId := rfl
@[simp] theorem setTransit_free (s : State) (v : List Msg) : (setTransit s v).free = s.free := rfl
@[simp] theorem setTransit_cur (s : State) (v : List Msg) : (setTransit s v).cur = s.cur := rfl
@[simp] theorem setTransit_plan (s : State) (v : List Msg) : (setTransit s v).plan = s.plan := rfl
@[simp] theorem setInbox_cfg (s : State) (v : List (Nat × Msg)) : (setInbox s v).cfg = s.cfg := rfl
@[simp] theorem setInbox_tenants (s : State) (v : List (Nat × Msg)) : (setInbox s v).tenants = s.tenants := rfl
@[simp] theorem setInbox_mem (s : State) (v : List (Nat × Msg)) : (setInbox s v).mem = s.mem := rfl
@[simp] theorem setInbox_full (s : State) (v : List (Nat × Msg)) : (setInbox s v).full = s.full := rfl
@[simp] theorem setInbox_waiters (s : State) (v : List (Nat × Msg)) : (setInbox s v).waiters = s.waiters := rfl
@[simp] theorem setInbox_l2 (s : State) (v : List (Nat × Msg)) : (setInbox s v).l2 = s.l2 := rfl
@[simp] theorem setInbox_xlat (s : State) (v : List (Nat × Msg)) : (setInbox s v).xlat = s.xlat := rfl
@[simp] theorem setInbox_launches (s : State) (v : List (Nat × Msg)) : (setInbox s v).launches = s.launches := rfl
@[simp] theorem setInbox_insts (s : State) (v : List (Nat × Msg)) : (setInbox s v).insts = s.insts := rfl
@[simp] theorem setInbox_closed (s : State) (v : List (Nat × Msg)) : (setInbox s v).closed = s.closed := rfl
@[simp] theorem setInbox_chans (s : State) (v : List (Nat × Msg)) : (setInbox s v).chans = s.chans := rfl
@[simp] theorem setInbox_bars (s : State) (v : List (Nat × Msg)) : (setInbox s v).bars = s.bars := rfl
@[simp] theorem setInbox_transit (s : State) (v : List (Nat × Msg)) : (setInbox s v).transit = s.transit := rfl
@[simp] theorem setInbox_inbox (s : State) (v : List (Nat × Msg)) : (setInbox s v).inbox = v := rfl
@[simp] theorem setInbox_firings (s : State) (v : List (Nat × Msg)) : (setInbox s v).firings = s.firings := rfl
@[simp] theorem setInbox_pcores (s : State) (v : List (Nat × Msg)) : (setInbox s v).pcores = s.pcores := rfl
@[simp] theorem setInbox_eng (s : State) (v : List (Nat × Msg)) : (setInbox s v).eng = s.eng := rfl
@[simp] theorem setInbox_tasks (s : State) (v : List (Nat × Msg)) : (setInbox s v).tasks = s.tasks := rfl
@[simp] theorem setInbox_ctx (s : State) (v : List (Nat × Msg)) : (setInbox s v).ctx = s.ctx := rfl
@[simp] theorem setInbox_slots (s : State) (v : List (Nat × Msg)) : (setInbox s v).slots = s.slots := rfl
@[simp] theorem setInbox_markers (s : State) (v : List (Nat × Msg)) : (setInbox s v).markers = s.markers := rfl
@[simp] theorem setInbox_paths (s : State) (v : List (Nat × Msg)) : (setInbox s v).paths = s.paths := rfl
@[simp] theorem setInbox_hts (s : State) (v : List (Nat × Msg)) : (setInbox s v).hts = s.hts := rfl
@[simp] theorem setInbox_hostRead (s : State) (v : List (Nat × Msg)) : (setInbox s v).hostRead = s.hostRead := rfl
@[simp] theorem setInbox_icache (s : State) (v : List (Nat × Msg)) : (setInbox s v).icache = s.icache := rfl
@[simp] theorem setInbox_dir (s : State) (v : List (Nat × Msg)) : (setInbox s v).dir = s.dir := rfl
@[simp] theorem setInbox_acq (s : State) (v : List (Nat × Msg)) : (setInbox s v).acq = s.acq := rfl
@[simp] theorem setInbox_records (s : State) (v : List (Nat × Msg)) : (setInbox s v).records = s.records := rfl
@[simp] theorem setInbox_saved (s : State) (v : List (Nat × Msg)) : (setInbox s v).saved = s.saved := rfl
@[simp] theorem setInbox_clk (s : State) (v : List (Nat × Msg)) : (setInbox s v).clk = s.clk := rfl
@[simp] theorem setInbox_nextId (s : State) (v : List (Nat × Msg)) : (setInbox s v).nextId = s.nextId := rfl
@[simp] theorem setInbox_free (s : State) (v : List (Nat × Msg)) : (setInbox s v).free = s.free := rfl
@[simp] theorem setInbox_cur (s : State) (v : List (Nat × Msg)) : (setInbox s v).cur = s.cur := rfl
@[simp] theorem setInbox_plan (s : State) (v : List (Nat × Msg)) : (setInbox s v).plan = s.plan := rfl
@[simp] theorem setFirings_cfg (s : State) (v : List Firing) : (setFirings s v).cfg = s.cfg := rfl
@[simp] theorem setFirings_tenants (s : State) (v : List Firing) : (setFirings s v).tenants = s.tenants := rfl
@[simp] theorem setFirings_mem (s : State) (v : List Firing) : (setFirings s v).mem = s.mem := rfl
@[simp] theorem setFirings_full (s : State) (v : List Firing) : (setFirings s v).full = s.full := rfl
@[simp] theorem setFirings_waiters (s : State) (v : List Firing) : (setFirings s v).waiters = s.waiters := rfl
@[simp] theorem setFirings_l2 (s : State) (v : List Firing) : (setFirings s v).l2 = s.l2 := rfl
@[simp] theorem setFirings_xlat (s : State) (v : List Firing) : (setFirings s v).xlat = s.xlat := rfl
@[simp] theorem setFirings_launches (s : State) (v : List Firing) : (setFirings s v).launches = s.launches := rfl
@[simp] theorem setFirings_insts (s : State) (v : List Firing) : (setFirings s v).insts = s.insts := rfl
@[simp] theorem setFirings_closed (s : State) (v : List Firing) : (setFirings s v).closed = s.closed := rfl
@[simp] theorem setFirings_chans (s : State) (v : List Firing) : (setFirings s v).chans = s.chans := rfl
@[simp] theorem setFirings_bars (s : State) (v : List Firing) : (setFirings s v).bars = s.bars := rfl
@[simp] theorem setFirings_transit (s : State) (v : List Firing) : (setFirings s v).transit = s.transit := rfl
@[simp] theorem setFirings_inbox (s : State) (v : List Firing) : (setFirings s v).inbox = s.inbox := rfl
@[simp] theorem setFirings_firings (s : State) (v : List Firing) : (setFirings s v).firings = v := rfl
@[simp] theorem setFirings_pcores (s : State) (v : List Firing) : (setFirings s v).pcores = s.pcores := rfl
@[simp] theorem setFirings_eng (s : State) (v : List Firing) : (setFirings s v).eng = s.eng := rfl
@[simp] theorem setFirings_tasks (s : State) (v : List Firing) : (setFirings s v).tasks = s.tasks := rfl
@[simp] theorem setFirings_ctx (s : State) (v : List Firing) : (setFirings s v).ctx = s.ctx := rfl
@[simp] theorem setFirings_slots (s : State) (v : List Firing) : (setFirings s v).slots = s.slots := rfl
@[simp] theorem setFirings_markers (s : State) (v : List Firing) : (setFirings s v).markers = s.markers := rfl
@[simp] theorem setFirings_paths (s : State) (v : List Firing) : (setFirings s v).paths = s.paths := rfl
@[simp] theorem setFirings_hts (s : State) (v : List Firing) : (setFirings s v).hts = s.hts := rfl
@[simp] theorem setFirings_hostRead (s : State) (v : List Firing) : (setFirings s v).hostRead = s.hostRead := rfl
@[simp] theorem setFirings_icache (s : State) (v : List Firing) : (setFirings s v).icache = s.icache := rfl
@[simp] theorem setFirings_dir (s : State) (v : List Firing) : (setFirings s v).dir = s.dir := rfl
@[simp] theorem setFirings_acq (s : State) (v : List Firing) : (setFirings s v).acq = s.acq := rfl
@[simp] theorem setFirings_records (s : State) (v : List Firing) : (setFirings s v).records = s.records := rfl
@[simp] theorem setFirings_saved (s : State) (v : List Firing) : (setFirings s v).saved = s.saved := rfl
@[simp] theorem setFirings_clk (s : State) (v : List Firing) : (setFirings s v).clk = s.clk := rfl
@[simp] theorem setFirings_nextId (s : State) (v : List Firing) : (setFirings s v).nextId = s.nextId := rfl
@[simp] theorem setFirings_free (s : State) (v : List Firing) : (setFirings s v).free = s.free := rfl
@[simp] theorem setFirings_cur (s : State) (v : List Firing) : (setFirings s v).cur = s.cur := rfl
@[simp] theorem setFirings_plan (s : State) (v : List Firing) : (setFirings s v).plan = s.plan := rfl
@[simp] theorem setPcores_cfg (s : State) (v : List PCore) : (setPcores s v).cfg = s.cfg := rfl
@[simp] theorem setPcores_tenants (s : State) (v : List PCore) : (setPcores s v).tenants = s.tenants := rfl
@[simp] theorem setPcores_mem (s : State) (v : List PCore) : (setPcores s v).mem = s.mem := rfl
@[simp] theorem setPcores_full (s : State) (v : List PCore) : (setPcores s v).full = s.full := rfl
@[simp] theorem setPcores_waiters (s : State) (v : List PCore) : (setPcores s v).waiters = s.waiters := rfl
@[simp] theorem setPcores_l2 (s : State) (v : List PCore) : (setPcores s v).l2 = s.l2 := rfl
@[simp] theorem setPcores_xlat (s : State) (v : List PCore) : (setPcores s v).xlat = s.xlat := rfl
@[simp] theorem setPcores_launches (s : State) (v : List PCore) : (setPcores s v).launches = s.launches := rfl
@[simp] theorem setPcores_insts (s : State) (v : List PCore) : (setPcores s v).insts = s.insts := rfl
@[simp] theorem setPcores_closed (s : State) (v : List PCore) : (setPcores s v).closed = s.closed := rfl
@[simp] theorem setPcores_chans (s : State) (v : List PCore) : (setPcores s v).chans = s.chans := rfl
@[simp] theorem setPcores_bars (s : State) (v : List PCore) : (setPcores s v).bars = s.bars := rfl
@[simp] theorem setPcores_transit (s : State) (v : List PCore) : (setPcores s v).transit = s.transit := rfl
@[simp] theorem setPcores_inbox (s : State) (v : List PCore) : (setPcores s v).inbox = s.inbox := rfl
@[simp] theorem setPcores_firings (s : State) (v : List PCore) : (setPcores s v).firings = s.firings := rfl
@[simp] theorem setPcores_pcores (s : State) (v : List PCore) : (setPcores s v).pcores = v := rfl
@[simp] theorem setPcores_eng (s : State) (v : List PCore) : (setPcores s v).eng = s.eng := rfl
@[simp] theorem setPcores_tasks (s : State) (v : List PCore) : (setPcores s v).tasks = s.tasks := rfl
@[simp] theorem setPcores_ctx (s : State) (v : List PCore) : (setPcores s v).ctx = s.ctx := rfl
@[simp] theorem setPcores_slots (s : State) (v : List PCore) : (setPcores s v).slots = s.slots := rfl
@[simp] theorem setPcores_markers (s : State) (v : List PCore) : (setPcores s v).markers = s.markers := rfl
@[simp] theorem setPcores_paths (s : State) (v : List PCore) : (setPcores s v).paths = s.paths := rfl
@[simp] theorem setPcores_hts (s : State) (v : List PCore) : (setPcores s v).hts = s.hts := rfl
@[simp] theorem setPcores_hostRead (s : State) (v : List PCore) : (setPcores s v).hostRead = s.hostRead := rfl
@[simp] theorem setPcores_icache (s : State) (v : List PCore) : (setPcores s v).icache = s.icache := rfl
@[simp] theorem setPcores_dir (s : State) (v : List PCore) : (setPcores s v).dir = s.dir := rfl
@[simp] theorem setPcores_acq (s : State) (v : List PCore) : (setPcores s v).acq = s.acq := rfl
@[simp] theorem setPcores_records (s : State) (v : List PCore) : (setPcores s v).records = s.records := rfl
@[simp] theorem setPcores_saved (s : State) (v : List PCore) : (setPcores s v).saved = s.saved := rfl
@[simp] theorem setPcores_clk (s : State) (v : List PCore) : (setPcores s v).clk = s.clk := rfl
@[simp] theorem setPcores_nextId (s : State) (v : List PCore) : (setPcores s v).nextId = s.nextId := rfl
@[simp] theorem setPcores_free (s : State) (v : List PCore) : (setPcores s v).free = s.free := rfl
@[simp] theorem setPcores_cur (s : State) (v : List PCore) : (setPcores s v).cur = s.cur := rfl
@[simp] theorem setPcores_plan (s : State) (v : List PCore) : (setPcores s v).plan = s.plan := rfl
@[simp] theorem setEng_cfg (s : State) (v : Eng) : (setEng s v).cfg = s.cfg := rfl
@[simp] theorem setEng_tenants (s : State) (v : Eng) : (setEng s v).tenants = s.tenants := rfl
@[simp] theorem setEng_mem (s : State) (v : Eng) : (setEng s v).mem = s.mem := rfl
@[simp] theorem setEng_full (s : State) (v : Eng) : (setEng s v).full = s.full := rfl
@[simp] theorem setEng_waiters (s : State) (v : Eng) : (setEng s v).waiters = s.waiters := rfl
@[simp] theorem setEng_l2 (s : State) (v : Eng) : (setEng s v).l2 = s.l2 := rfl
@[simp] theorem setEng_xlat (s : State) (v : Eng) : (setEng s v).xlat = s.xlat := rfl
@[simp] theorem setEng_launches (s : State) (v : Eng) : (setEng s v).launches = s.launches := rfl
@[simp] theorem setEng_insts (s : State) (v : Eng) : (setEng s v).insts = s.insts := rfl
@[simp] theorem setEng_closed (s : State) (v : Eng) : (setEng s v).closed = s.closed := rfl
@[simp] theorem setEng_chans (s : State) (v : Eng) : (setEng s v).chans = s.chans := rfl
@[simp] theorem setEng_bars (s : State) (v : Eng) : (setEng s v).bars = s.bars := rfl
@[simp] theorem setEng_transit (s : State) (v : Eng) : (setEng s v).transit = s.transit := rfl
@[simp] theorem setEng_inbox (s : State) (v : Eng) : (setEng s v).inbox = s.inbox := rfl
@[simp] theorem setEng_firings (s : State) (v : Eng) : (setEng s v).firings = s.firings := rfl
@[simp] theorem setEng_pcores (s : State) (v : Eng) : (setEng s v).pcores = s.pcores := rfl
@[simp] theorem setEng_eng (s : State) (v : Eng) : (setEng s v).eng = v := rfl
@[simp] theorem setEng_tasks (s : State) (v : Eng) : (setEng s v).tasks = s.tasks := rfl
@[simp] theorem setEng_ctx (s : State) (v : Eng) : (setEng s v).ctx = s.ctx := rfl
@[simp] theorem setEng_slots (s : State) (v : Eng) : (setEng s v).slots = s.slots := rfl
@[simp] theorem setEng_markers (s : State) (v : Eng) : (setEng s v).markers = s.markers := rfl
@[simp] theorem setEng_paths (s : State) (v : Eng) : (setEng s v).paths = s.paths := rfl
@[simp] theorem setEng_hts (s : State) (v : Eng) : (setEng s v).hts = s.hts := rfl
@[simp] theorem setEng_hostRead (s : State) (v : Eng) : (setEng s v).hostRead = s.hostRead := rfl
@[simp] theorem setEng_icache (s : State) (v : Eng) : (setEng s v).icache = s.icache := rfl
@[simp] theorem setEng_dir (s : State) (v : Eng) : (setEng s v).dir = s.dir := rfl
@[simp] theorem setEng_acq (s : State) (v : Eng) : (setEng s v).acq = s.acq := rfl
@[simp] theorem setEng_records (s : State) (v : Eng) : (setEng s v).records = s.records := rfl
@[simp] theorem setEng_saved (s : State) (v : Eng) : (setEng s v).saved = s.saved := rfl
@[simp] theorem setEng_clk (s : State) (v : Eng) : (setEng s v).clk = s.clk := rfl
@[simp] theorem setEng_nextId (s : State) (v : Eng) : (setEng s v).nextId = s.nextId := rfl
@[simp] theorem setEng_free (s : State) (v : Eng) : (setEng s v).free = s.free := rfl
@[simp] theorem setEng_cur (s : State) (v : Eng) : (setEng s v).cur = s.cur := rfl
@[simp] theorem setEng_plan (s : State) (v : Eng) : (setEng s v).plan = s.plan := rfl
@[simp] theorem setTasks_cfg (s : State) (v : Tasks) : (setTasks s v).cfg = s.cfg := rfl
@[simp] theorem setTasks_tenants (s : State) (v : Tasks) : (setTasks s v).tenants = s.tenants := rfl
@[simp] theorem setTasks_mem (s : State) (v : Tasks) : (setTasks s v).mem = s.mem := rfl
@[simp] theorem setTasks_full (s : State) (v : Tasks) : (setTasks s v).full = s.full := rfl
@[simp] theorem setTasks_waiters (s : State) (v : Tasks) : (setTasks s v).waiters = s.waiters := rfl
@[simp] theorem setTasks_l2 (s : State) (v : Tasks) : (setTasks s v).l2 = s.l2 := rfl
@[simp] theorem setTasks_xlat (s : State) (v : Tasks) : (setTasks s v).xlat = s.xlat := rfl
@[simp] theorem setTasks_launches (s : State) (v : Tasks) : (setTasks s v).launches = s.launches := rfl
@[simp] theorem setTasks_insts (s : State) (v : Tasks) : (setTasks s v).insts = s.insts := rfl
@[simp] theorem setTasks_closed (s : State) (v : Tasks) : (setTasks s v).closed = s.closed := rfl
@[simp] theorem setTasks_chans (s : State) (v : Tasks) : (setTasks s v).chans = s.chans := rfl
@[simp] theorem setTasks_bars (s : State) (v : Tasks) : (setTasks s v).bars = s.bars := rfl
@[simp] theorem setTasks_transit (s : State) (v : Tasks) : (setTasks s v).transit = s.transit := rfl
@[simp] theorem setTasks_inbox (s : State) (v : Tasks) : (setTasks s v).inbox = s.inbox := rfl
@[simp] theorem setTasks_firings (s : State) (v : Tasks) : (setTasks s v).firings = s.firings := rfl
@[simp] theorem setTasks_pcores (s : State) (v : Tasks) : (setTasks s v).pcores = s.pcores := rfl
@[simp] theorem setTasks_eng (s : State) (v : Tasks) : (setTasks s v).eng = s.eng := rfl
@[simp] theorem setTasks_tasks (s : State) (v : Tasks) : (setTasks s v).tasks = v := rfl
@[simp] theorem setTasks_ctx (s : State) (v : Tasks) : (setTasks s v).ctx = s.ctx := rfl
@[simp] theorem setTasks_slots (s : State) (v : Tasks) : (setTasks s v).slots = s.slots := rfl
@[simp] theorem setTasks_markers (s : State) (v : Tasks) : (setTasks s v).markers = s.markers := rfl
@[simp] theorem setTasks_paths (s : State) (v : Tasks) : (setTasks s v).paths = s.paths := rfl
@[simp] theorem setTasks_hts (s : State) (v : Tasks) : (setTasks s v).hts = s.hts := rfl
@[simp] theorem setTasks_hostRead (s : State) (v : Tasks) : (setTasks s v).hostRead = s.hostRead := rfl
@[simp] theorem setTasks_icache (s : State) (v : Tasks) : (setTasks s v).icache = s.icache := rfl
@[simp] theorem setTasks_dir (s : State) (v : Tasks) : (setTasks s v).dir = s.dir := rfl
@[simp] theorem setTasks_acq (s : State) (v : Tasks) : (setTasks s v).acq = s.acq := rfl
@[simp] theorem setTasks_records (s : State) (v : Tasks) : (setTasks s v).records = s.records := rfl
@[simp] theorem setTasks_saved (s : State) (v : Tasks) : (setTasks s v).saved = s.saved := rfl
@[simp] theorem setTasks_clk (s : State) (v : Tasks) : (setTasks s v).clk = s.clk := rfl
@[simp] theorem setTasks_nextId (s : State) (v : Tasks) : (setTasks s v).nextId = s.nextId := rfl
@[simp] theorem setTasks_free (s : State) (v : Tasks) : (setTasks s v).free = s.free := rfl
@[simp] theorem setTasks_cur (s : State) (v : Tasks) : (setTasks s v).cur = s.cur := rfl
@[simp] theorem setTasks_plan (s : State) (v : Tasks) : (setTasks s v).plan = s.plan := rfl
@[simp] theorem setCtx_cfg (s : State) (v : CtxSt) : (setCtx s v).cfg = s.cfg := rfl
@[simp] theorem setCtx_tenants (s : State) (v : CtxSt) : (setCtx s v).tenants = s.tenants := rfl
@[simp] theorem setCtx_mem (s : State) (v : CtxSt) : (setCtx s v).mem = s.mem := rfl
@[simp] theorem setCtx_full (s : State) (v : CtxSt) : (setCtx s v).full = s.full := rfl
@[simp] theorem setCtx_waiters (s : State) (v : CtxSt) : (setCtx s v).waiters = s.waiters := rfl
@[simp] theorem setCtx_l2 (s : State) (v : CtxSt) : (setCtx s v).l2 = s.l2 := rfl
@[simp] theorem setCtx_xlat (s : State) (v : CtxSt) : (setCtx s v).xlat = s.xlat := rfl
@[simp] theorem setCtx_launches (s : State) (v : CtxSt) : (setCtx s v).launches = s.launches := rfl
@[simp] theorem setCtx_insts (s : State) (v : CtxSt) : (setCtx s v).insts = s.insts := rfl
@[simp] theorem setCtx_closed (s : State) (v : CtxSt) : (setCtx s v).closed = s.closed := rfl
@[simp] theorem setCtx_chans (s : State) (v : CtxSt) : (setCtx s v).chans = s.chans := rfl
@[simp] theorem setCtx_bars (s : State) (v : CtxSt) : (setCtx s v).bars = s.bars := rfl
@[simp] theorem setCtx_transit (s : State) (v : CtxSt) : (setCtx s v).transit = s.transit := rfl
@[simp] theorem setCtx_inbox (s : State) (v : CtxSt) : (setCtx s v).inbox = s.inbox := rfl
@[simp] theorem setCtx_firings (s : State) (v : CtxSt) : (setCtx s v).firings = s.firings := rfl
@[simp] theorem setCtx_pcores (s : State) (v : CtxSt) : (setCtx s v).pcores = s.pcores := rfl
@[simp] theorem setCtx_eng (s : State) (v : CtxSt) : (setCtx s v).eng = s.eng := rfl
@[simp] theorem setCtx_tasks (s : State) (v : CtxSt) : (setCtx s v).tasks = s.tasks := rfl
@[simp] theorem setCtx_ctx (s : State) (v : CtxSt) : (setCtx s v).ctx = v := rfl
@[simp] theorem setCtx_slots (s : State) (v : CtxSt) : (setCtx s v).slots = s.slots := rfl
@[simp] theorem setCtx_markers (s : State) (v : CtxSt) : (setCtx s v).markers = s.markers := rfl
@[simp] theorem setCtx_paths (s : State) (v : CtxSt) : (setCtx s v).paths = s.paths := rfl
@[simp] theorem setCtx_hts (s : State) (v : CtxSt) : (setCtx s v).hts = s.hts := rfl
@[simp] theorem setCtx_hostRead (s : State) (v : CtxSt) : (setCtx s v).hostRead = s.hostRead := rfl
@[simp] theorem setCtx_icache (s : State) (v : CtxSt) : (setCtx s v).icache = s.icache := rfl
@[simp] theorem setCtx_dir (s : State) (v : CtxSt) : (setCtx s v).dir = s.dir := rfl
@[simp] theorem setCtx_acq (s : State) (v : CtxSt) : (setCtx s v).acq = s.acq := rfl
@[simp] theorem setCtx_records (s : State) (v : CtxSt) : (setCtx s v).records = s.records := rfl
@[simp] theorem setCtx_saved (s : State) (v : CtxSt) : (setCtx s v).saved = s.saved := rfl
@[simp] theorem setCtx_clk (s : State) (v : CtxSt) : (setCtx s v).clk = s.clk := rfl
@[simp] theorem setCtx_nextId (s : State) (v : CtxSt) : (setCtx s v).nextId = s.nextId := rfl
@[simp] theorem setCtx_free (s : State) (v : CtxSt) : (setCtx s v).free = s.free := rfl
@[simp] theorem setCtx_cur (s : State) (v : CtxSt) : (setCtx s v).cur = s.cur := rfl
@[simp] theorem setCtx_plan (s : State) (v : CtxSt) : (setCtx s v).plan = s.plan := rfl
@[simp] theorem setSlots_cfg (s : State) (v : List Slot) : (setSlots s v).cfg = s.cfg := rfl
@[simp] theorem setSlots_tenants (s : State) (v : List Slot) : (setSlots s v).tenants = s.tenants := rfl
@[simp] theorem setSlots_mem (s : State) (v : List Slot) : (setSlots s v).mem = s.mem := rfl
@[simp] theorem setSlots_full (s : State) (v : List Slot) : (setSlots s v).full = s.full := rfl
@[simp] theorem setSlots_waiters (s : State) (v : List Slot) : (setSlots s v).waiters = s.waiters := rfl
@[simp] theorem setSlots_l2 (s : State) (v : List Slot) : (setSlots s v).l2 = s.l2 := rfl
@[simp] theorem setSlots_xlat (s : State) (v : List Slot) : (setSlots s v).xlat = s.xlat := rfl
@[simp] theorem setSlots_launches (s : State) (v : List Slot) : (setSlots s v).launches = s.launches := rfl
@[simp] theorem setSlots_insts (s : State) (v : List Slot) : (setSlots s v).insts = s.insts := rfl
@[simp] theorem setSlots_closed (s : State) (v : List Slot) : (setSlots s v).closed = s.closed := rfl
@[simp] theorem setSlots_chans (s : State) (v : List Slot) : (setSlots s v).chans = s.chans := rfl
@[simp] theorem setSlots_bars (s : State) (v : List Slot) : (setSlots s v).bars = s.bars := rfl
@[simp] theorem setSlots_transit (s : State) (v : List Slot) : (setSlots s v).transit = s.transit := rfl
@[simp] theorem setSlots_inbox (s : State) (v : List Slot) : (setSlots s v).inbox = s.inbox := rfl
@[simp] theorem setSlots_firings (s : State) (v : List Slot) : (setSlots s v).firings = s.firings := rfl
@[simp] theorem setSlots_pcores (s : State) (v : List Slot) : (setSlots s v).pcores = s.pcores := rfl
@[simp] theorem setSlots_eng (s : State) (v : List Slot) : (setSlots s v).eng = s.eng := rfl
@[simp] theorem setSlots_tasks (s : State) (v : List Slot) : (setSlots s v).tasks = s.tasks := rfl
@[simp] theorem setSlots_ctx (s : State) (v : List Slot) : (setSlots s v).ctx = s.ctx := rfl
@[simp] theorem setSlots_slots (s : State) (v : List Slot) : (setSlots s v).slots = v := rfl
@[simp] theorem setSlots_markers (s : State) (v : List Slot) : (setSlots s v).markers = s.markers := rfl
@[simp] theorem setSlots_paths (s : State) (v : List Slot) : (setSlots s v).paths = s.paths := rfl
@[simp] theorem setSlots_hts (s : State) (v : List Slot) : (setSlots s v).hts = s.hts := rfl
@[simp] theorem setSlots_hostRead (s : State) (v : List Slot) : (setSlots s v).hostRead = s.hostRead := rfl
@[simp] theorem setSlots_icache (s : State) (v : List Slot) : (setSlots s v).icache = s.icache := rfl
@[simp] theorem setSlots_dir (s : State) (v : List Slot) : (setSlots s v).dir = s.dir := rfl
@[simp] theorem setSlots_acq (s : State) (v : List Slot) : (setSlots s v).acq = s.acq := rfl
@[simp] theorem setSlots_records (s : State) (v : List Slot) : (setSlots s v).records = s.records := rfl
@[simp] theorem setSlots_saved (s : State) (v : List Slot) : (setSlots s v).saved = s.saved := rfl
@[simp] theorem setSlots_clk (s : State) (v : List Slot) : (setSlots s v).clk = s.clk := rfl
@[simp] theorem setSlots_nextId (s : State) (v : List Slot) : (setSlots s v).nextId = s.nextId := rfl
@[simp] theorem setSlots_free (s : State) (v : List Slot) : (setSlots s v).free = s.free := rfl
@[simp] theorem setSlots_cur (s : State) (v : List Slot) : (setSlots s v).cur = s.cur := rfl
@[simp] theorem setSlots_plan (s : State) (v : List Slot) : (setSlots s v).plan = s.plan := rfl
@[simp] theorem setMarkers_cfg (s : State) (v : List Marker) : (setMarkers s v).cfg = s.cfg := rfl
@[simp] theorem setMarkers_tenants (s : State) (v : List Marker) : (setMarkers s v).tenants = s.tenants := rfl
@[simp] theorem setMarkers_mem (s : State) (v : List Marker) : (setMarkers s v).mem = s.mem := rfl
@[simp] theorem setMarkers_full (s : State) (v : List Marker) : (setMarkers s v).full = s.full := rfl
@[simp] theorem setMarkers_waiters (s : State) (v : List Marker) : (setMarkers s v).waiters = s.waiters := rfl
@[simp] theorem setMarkers_l2 (s : State) (v : List Marker) : (setMarkers s v).l2 = s.l2 := rfl
@[simp] theorem setMarkers_xlat (s : State) (v : List Marker) : (setMarkers s v).xlat = s.xlat := rfl
@[simp] theorem setMarkers_launches (s : State) (v : List Marker) : (setMarkers s v).launches = s.launches := rfl
@[simp] theorem setMarkers_insts (s : State) (v : List Marker) : (setMarkers s v).insts = s.insts := rfl
@[simp] theorem setMarkers_closed (s : State) (v : List Marker) : (setMarkers s v).closed = s.closed := rfl
@[simp] theorem setMarkers_chans (s : State) (v : List Marker) : (setMarkers s v).chans = s.chans := rfl
@[simp] theorem setMarkers_bars (s : State) (v : List Marker) : (setMarkers s v).bars = s.bars := rfl
@[simp] theorem setMarkers_transit (s : State) (v : List Marker) : (setMarkers s v).transit = s.transit := rfl
@[simp] theorem setMarkers_inbox (s : State) (v : List Marker) : (setMarkers s v).inbox = s.inbox := rfl
@[simp] theorem setMarkers_firings (s : State) (v : List Marker) : (setMarkers s v).firings = s.firings := rfl
@[simp] theorem setMarkers_pcores (s : State) (v : List Marker) : (setMarkers s v).pcores = s.pcores := rfl
@[simp] theorem setMarkers_eng (s : State) (v : List Marker) : (setMarkers s v).eng = s.eng := rfl
@[simp] theorem setMarkers_tasks (s : State) (v : List Marker) : (setMarkers s v).tasks = s.tasks := rfl
@[simp] theorem setMarkers_ctx (s : State) (v : List Marker) : (setMarkers s v).ctx = s.ctx := rfl
@[simp] theorem setMarkers_slots (s : State) (v : List Marker) : (setMarkers s v).slots = s.slots := rfl
@[simp] theorem setMarkers_markers (s : State) (v : List Marker) : (setMarkers s v).markers = v := rfl
@[simp] theorem setMarkers_paths (s : State) (v : List Marker) : (setMarkers s v).paths = s.paths := rfl
@[simp] theorem setMarkers_hts (s : State) (v : List Marker) : (setMarkers s v).hts = s.hts := rfl
@[simp] theorem setMarkers_hostRead (s : State) (v : List Marker) : (setMarkers s v).hostRead = s.hostRead := rfl
@[simp] theorem setMarkers_icache (s : State) (v : List Marker) : (setMarkers s v).icache = s.icache := rfl
@[simp] theorem setMarkers_dir (s : State) (v : List Marker) : (setMarkers s v).dir = s.dir := rfl
@[simp] theorem setMarkers_acq (s : State) (v : List Marker) : (setMarkers s v).acq = s.acq := rfl
@[simp] theorem setMarkers_records (s : State) (v : List Marker) : (setMarkers s v).records = s.records := rfl
@[simp] theorem setMarkers_saved (s : State) (v : List Marker) : (setMarkers s v).saved = s.saved := rfl
@[simp] theorem setMarkers_clk (s : State) (v : List Marker) : (setMarkers s v).clk = s.clk := rfl
@[simp] theorem setMarkers_nextId (s : State) (v : List Marker) : (setMarkers s v).nextId = s.nextId := rfl
@[simp] theorem setMarkers_free (s : State) (v : List Marker) : (setMarkers s v).free = s.free := rfl
@[simp] theorem setMarkers_cur (s : State) (v : List Marker) : (setMarkers s v).cur = s.cur := rfl
@[simp] theorem setMarkers_plan (s : State) (v : List Marker) : (setMarkers s v).plan = s.plan := rfl
@[simp] theorem setPaths_cfg (s : State) (v : List FPath) : (setPaths s v).cfg = s.cfg := rfl
@[simp] theorem setPaths_tenants (s : State) (v : List FPath) : (setPaths s v).tenants = s.tenants := rfl
@[simp] theorem setPaths_mem (s : State) (v : List FPath) : (setPaths s v).mem = s.mem := rfl
@[simp] theorem setPaths_full (s : State) (v : List FPath) : (setPaths s v).full = s.full := rfl
@[simp] theorem setPaths_waiters (s : State) (v : List FPath) : (setPaths s v).waiters = s.waiters := rfl
@[simp] theorem setPaths_l2 (s : State) (v : List FPath) : (setPaths s v).l2 = s.l2 := rfl
@[simp] theorem setPaths_xlat (s : State) (v : List FPath) : (setPaths s v).xlat = s.xlat := rfl
@[simp] theorem setPaths_launches (s : State) (v : List FPath) : (setPaths s v).launches = s.launches := rfl
@[simp] theorem setPaths_insts (s : State) (v : List FPath) : (setPaths s v).insts = s.insts := rfl
@[simp] theorem setPaths_closed (s : State) (v : List FPath) : (setPaths s v).closed = s.closed := rfl
@[simp] theorem setPaths_chans (s : State) (v : List FPath) : (setPaths s v).chans = s.chans := rfl
@[simp] theorem setPaths_bars (s : State) (v : List FPath) : (setPaths s v).bars = s.bars := rfl
@[simp] theorem setPaths_transit (s : State) (v : List FPath) : (setPaths s v).transit = s.transit := rfl
@[simp] theorem setPaths_inbox (s : State) (v : List FPath) : (setPaths s v).inbox = s.inbox := rfl
@[simp] theorem setPaths_firings (s : State) (v : List FPath) : (setPaths s v).firings = s.firings := rfl
@[simp] theorem setPaths_pcores (s : State) (v : List FPath) : (setPaths s v).pcores = s.pcores := rfl
@[simp] theorem setPaths_eng (s : State) (v : List FPath) : (setPaths s v).eng = s.eng := rfl
@[simp] theorem setPaths_tasks (s : State) (v : List FPath) : (setPaths s v).tasks = s.tasks := rfl
@[simp] theorem setPaths_ctx (s : State) (v : List FPath) : (setPaths s v).ctx = s.ctx := rfl
@[simp] theorem setPaths_slots (s : State) (v : List FPath) : (setPaths s v).slots = s.slots := rfl
@[simp] theorem setPaths_markers (s : State) (v : List FPath) : (setPaths s v).markers = s.markers := rfl
@[simp] theorem setPaths_paths (s : State) (v : List FPath) : (setPaths s v).paths = v := rfl
@[simp] theorem setPaths_hts (s : State) (v : List FPath) : (setPaths s v).hts = s.hts := rfl
@[simp] theorem setPaths_hostRead (s : State) (v : List FPath) : (setPaths s v).hostRead = s.hostRead := rfl
@[simp] theorem setPaths_icache (s : State) (v : List FPath) : (setPaths s v).icache = s.icache := rfl
@[simp] theorem setPaths_dir (s : State) (v : List FPath) : (setPaths s v).dir = s.dir := rfl
@[simp] theorem setPaths_acq (s : State) (v : List FPath) : (setPaths s v).acq = s.acq := rfl
@[simp] theorem setPaths_records (s : State) (v : List FPath) : (setPaths s v).records = s.records := rfl
@[simp] theorem setPaths_saved (s : State) (v : List FPath) : (setPaths s v).saved = s.saved := rfl
@[simp] theorem setPaths_clk (s : State) (v : List FPath) : (setPaths s v).clk = s.clk := rfl
@[simp] theorem setPaths_nextId (s : State) (v : List FPath) : (setPaths s v).nextId = s.nextId := rfl
@[simp] theorem setPaths_free (s : State) (v : List FPath) : (setPaths s v).free = s.free := rfl
@[simp] theorem setPaths_cur (s : State) (v : List FPath) : (setPaths s v).cur = s.cur := rfl
@[simp] theorem setPaths_plan (s : State) (v : List FPath) : (setPaths s v).plan = s.plan := rfl
@[simp] theorem setHts_cfg (s : State) (v : Nat) : (setHts s v).cfg = s.cfg := rfl
@[simp] theorem setHts_tenants (s : State) (v : Nat) : (setHts s v).tenants = s.tenants := rfl
@[simp] theorem setHts_mem (s : State) (v : Nat) : (setHts s v).mem = s.mem := rfl
@[simp] theorem setHts_full (s : State) (v : Nat) : (setHts s v).full = s.full := rfl
@[simp] theorem setHts_waiters (s : State) (v : Nat) : (setHts s v).waiters = s.waiters := rfl
@[simp] theorem setHts_l2 (s : State) (v : Nat) : (setHts s v).l2 = s.l2 := rfl
@[simp] theorem setHts_xlat (s : State) (v : Nat) : (setHts s v).xlat = s.xlat := rfl
@[simp] theorem setHts_launches (s : State) (v : Nat) : (setHts s v).launches = s.launches := rfl
@[simp] theorem setHts_insts (s : State) (v : Nat) : (setHts s v).insts = s.insts := rfl
@[simp] theorem setHts_closed (s : State) (v : Nat) : (setHts s v).closed = s.closed := rfl
@[simp] theorem setHts_chans (s : State) (v : Nat) : (setHts s v).chans = s.chans := rfl
@[simp] theorem setHts_bars (s : State) (v : Nat) : (setHts s v).bars = s.bars := rfl
@[simp] theorem setHts_transit (s : State) (v : Nat) : (setHts s v).transit = s.transit := rfl
@[simp] theorem setHts_inbox (s : State) (v : Nat) : (setHts s v).inbox = s.inbox := rfl
@[simp] theorem setHts_firings (s : State) (v : Nat) : (setHts s v).firings = s.firings := rfl
@[simp] theorem setHts_pcores (s : State) (v : Nat) : (setHts s v).pcores = s.pcores := rfl
@[simp] theorem setHts_eng (s : State) (v : Nat) : (setHts s v).eng = s.eng := rfl
@[simp] theorem setHts_tasks (s : State) (v : Nat) : (setHts s v).tasks = s.tasks := rfl
@[simp] theorem setHts_ctx (s : State) (v : Nat) : (setHts s v).ctx = s.ctx := rfl
@[simp] theorem setHts_slots (s : State) (v : Nat) : (setHts s v).slots = s.slots := rfl
@[simp] theorem setHts_markers (s : State) (v : Nat) : (setHts s v).markers = s.markers := rfl
@[simp] theorem setHts_paths (s : State) (v : Nat) : (setHts s v).paths = s.paths := rfl
@[simp] theorem setHts_hts (s : State) (v : Nat) : (setHts s v).hts = v := rfl
@[simp] theorem setHts_hostRead (s : State) (v : Nat) : (setHts s v).hostRead = s.hostRead := rfl
@[simp] theorem setHts_icache (s : State) (v : Nat) : (setHts s v).icache = s.icache := rfl
@[simp] theorem setHts_dir (s : State) (v : Nat) : (setHts s v).dir = s.dir := rfl
@[simp] theorem setHts_acq (s : State) (v : Nat) : (setHts s v).acq = s.acq := rfl
@[simp] theorem setHts_records (s : State) (v : Nat) : (setHts s v).records = s.records := rfl
@[simp] theorem setHts_saved (s : State) (v : Nat) : (setHts s v).saved = s.saved := rfl
@[simp] theorem setHts_clk (s : State) (v : Nat) : (setHts s v).clk = s.clk := rfl
@[simp] theorem setHts_nextId (s : State) (v : Nat) : (setHts s v).nextId = s.nextId := rfl
@[simp] theorem setHts_free (s : State) (v : Nat) : (setHts s v).free = s.free := rfl
@[simp] theorem setHts_cur (s : State) (v : Nat) : (setHts s v).cur = s.cur := rfl
@[simp] theorem setHts_plan (s : State) (v : Nat) : (setHts s v).plan = s.plan := rfl
@[simp] theorem setHostRead_cfg (s : State) (v : Word) : (setHostRead s v).cfg = s.cfg := rfl
@[simp] theorem setHostRead_tenants (s : State) (v : Word) : (setHostRead s v).tenants = s.tenants := rfl
@[simp] theorem setHostRead_mem (s : State) (v : Word) : (setHostRead s v).mem = s.mem := rfl
@[simp] theorem setHostRead_full (s : State) (v : Word) : (setHostRead s v).full = s.full := rfl
@[simp] theorem setHostRead_waiters (s : State) (v : Word) : (setHostRead s v).waiters = s.waiters := rfl
@[simp] theorem setHostRead_l2 (s : State) (v : Word) : (setHostRead s v).l2 = s.l2 := rfl
@[simp] theorem setHostRead_xlat (s : State) (v : Word) : (setHostRead s v).xlat = s.xlat := rfl
@[simp] theorem setHostRead_launches (s : State) (v : Word) : (setHostRead s v).launches = s.launches := rfl
@[simp] theorem setHostRead_insts (s : State) (v : Word) : (setHostRead s v).insts = s.insts := rfl
@[simp] theorem setHostRead_closed (s : State) (v : Word) : (setHostRead s v).closed = s.closed := rfl
@[simp] theorem setHostRead_chans (s : State) (v : Word) : (setHostRead s v).chans = s.chans := rfl
@[simp] theorem setHostRead_bars (s : State) (v : Word) : (setHostRead s v).bars = s.bars := rfl
@[simp] theorem setHostRead_transit (s : State) (v : Word) : (setHostRead s v).transit = s.transit := rfl
@[simp] theorem setHostRead_inbox (s : State) (v : Word) : (setHostRead s v).inbox = s.inbox := rfl
@[simp] theorem setHostRead_firings (s : State) (v : Word) : (setHostRead s v).firings = s.firings := rfl
@[simp] theorem setHostRead_pcores (s : State) (v : Word) : (setHostRead s v).pcores = s.pcores := rfl
@[simp] theorem setHostRead_eng (s : State) (v : Word) : (setHostRead s v).eng = s.eng := rfl
@[simp] theorem setHostRead_tasks (s : State) (v : Word) : (setHostRead s v).tasks = s.tasks := rfl
@[simp] theorem setHostRead_ctx (s : State) (v : Word) : (setHostRead s v).ctx = s.ctx := rfl
@[simp] theorem setHostRead_slots (s : State) (v : Word) : (setHostRead s v).slots = s.slots := rfl
@[simp] theorem setHostRead_markers (s : State) (v : Word) : (setHostRead s v).markers = s.markers := rfl
@[simp] theorem setHostRead_paths (s : State) (v : Word) : (setHostRead s v).paths = s.paths := rfl
@[simp] theorem setHostRead_hts (s : State) (v : Word) : (setHostRead s v).hts = s.hts := rfl
@[simp] theorem setHostRead_hostRead (s : State) (v : Word) : (setHostRead s v).hostRead = v := rfl
@[simp] theorem setHostRead_icache (s : State) (v : Word) : (setHostRead s v).icache = s.icache := rfl
@[simp] theorem setHostRead_dir (s : State) (v : Word) : (setHostRead s v).dir = s.dir := rfl
@[simp] theorem setHostRead_acq (s : State) (v : Word) : (setHostRead s v).acq = s.acq := rfl
@[simp] theorem setHostRead_records (s : State) (v : Word) : (setHostRead s v).records = s.records := rfl
@[simp] theorem setHostRead_saved (s : State) (v : Word) : (setHostRead s v).saved = s.saved := rfl
@[simp] theorem setHostRead_clk (s : State) (v : Word) : (setHostRead s v).clk = s.clk := rfl
@[simp] theorem setHostRead_nextId (s : State) (v : Word) : (setHostRead s v).nextId = s.nextId := rfl
@[simp] theorem setHostRead_free (s : State) (v : Word) : (setHostRead s v).free = s.free := rfl
@[simp] theorem setHostRead_cur (s : State) (v : Word) : (setHostRead s v).cur = s.cur := rfl
@[simp] theorem setHostRead_plan (s : State) (v : Word) : (setHostRead s v).plan = s.plan := rfl
@[simp] theorem setIcache_cfg (s : State) (v : List (Nat × Nat × W32)) : (setIcache s v).cfg = s.cfg := rfl
@[simp] theorem setIcache_tenants (s : State) (v : List (Nat × Nat × W32)) : (setIcache s v).tenants = s.tenants := rfl
@[simp] theorem setIcache_mem (s : State) (v : List (Nat × Nat × W32)) : (setIcache s v).mem = s.mem := rfl
@[simp] theorem setIcache_full (s : State) (v : List (Nat × Nat × W32)) : (setIcache s v).full = s.full := rfl
@[simp] theorem setIcache_waiters (s : State) (v : List (Nat × Nat × W32)) : (setIcache s v).waiters = s.waiters := rfl
@[simp] theorem setIcache_l2 (s : State) (v : List (Nat × Nat × W32)) : (setIcache s v).l2 = s.l2 := rfl
@[simp] theorem setIcache_xlat (s : State) (v : List (Nat × Nat × W32)) : (setIcache s v).xlat = s.xlat := rfl
@[simp] theorem setIcache_launches (s : State) (v : List (Nat × Nat × W32)) : (setIcache s v).launches = s.launches := rfl
@[simp] theorem setIcache_insts (s : State) (v : List (Nat × Nat × W32)) : (setIcache s v).insts = s.insts := rfl
@[simp] theorem setIcache_closed (s : State) (v : List (Nat × Nat × W32)) : (setIcache s v).closed = s.closed := rfl
@[simp] theorem setIcache_chans (s : State) (v : List (Nat × Nat × W32)) : (setIcache s v).chans = s.chans := rfl
@[simp] theorem setIcache_bars (s : State) (v : List (Nat × Nat × W32)) : (setIcache s v).bars = s.bars := rfl
@[simp] theorem setIcache_transit (s : State) (v : List (Nat × Nat × W32)) : (setIcache s v).transit = s.transit := rfl
@[simp] theorem setIcache_inbox (s : State) (v : List (Nat × Nat × W32)) : (setIcache s v).inbox = s.inbox := rfl
@[simp] theorem setIcache_firings (s : State) (v : List (Nat × Nat × W32)) : (setIcache s v).firings = s.firings := rfl
@[simp] theorem setIcache_pcores (s : State) (v : List (Nat × Nat × W32)) : (setIcache s v).pcores = s.pcores := rfl
@[simp] theorem setIcache_eng (s : State) (v : List (Nat × Nat × W32)) : (setIcache s v).eng = s.eng := rfl
@[simp] theorem setIcache_tasks (s : State) (v : List (Nat × Nat × W32)) : (setIcache s v).tasks = s.tasks := rfl
@[simp] theorem setIcache_ctx (s : State) (v : List (Nat × Nat × W32)) : (setIcache s v).ctx = s.ctx := rfl
@[simp] theorem setIcache_slots (s : State) (v : List (Nat × Nat × W32)) : (setIcache s v).slots = s.slots := rfl
@[simp] theorem setIcache_markers (s : State) (v : List (Nat × Nat × W32)) : (setIcache s v).markers = s.markers := rfl
@[simp] theorem setIcache_paths (s : State) (v : List (Nat × Nat × W32)) : (setIcache s v).paths = s.paths := rfl
@[simp] theorem setIcache_hts (s : State) (v : List (Nat × Nat × W32)) : (setIcache s v).hts = s.hts := rfl
@[simp] theorem setIcache_hostRead (s : State) (v : List (Nat × Nat × W32)) : (setIcache s v).hostRead = s.hostRead := rfl
@[simp] theorem setIcache_icache (s : State) (v : List (Nat × Nat × W32)) : (setIcache s v).icache = v := rfl
@[simp] theorem setIcache_dir (s : State) (v : List (Nat × Nat × W32)) : (setIcache s v).dir = s.dir := rfl
@[simp] theorem setIcache_acq (s : State) (v : List (Nat × Nat × W32)) : (setIcache s v).acq = s.acq := rfl
@[simp] theorem setIcache_records (s : State) (v : List (Nat × Nat × W32)) : (setIcache s v).records = s.records := rfl
@[simp] theorem setIcache_saved (s : State) (v : List (Nat × Nat × W32)) : (setIcache s v).saved = s.saved := rfl
@[simp] theorem setIcache_clk (s : State) (v : List (Nat × Nat × W32)) : (setIcache s v).clk = s.clk := rfl
@[simp] theorem setIcache_nextId (s : State) (v : List (Nat × Nat × W32)) : (setIcache s v).nextId = s.nextId := rfl
@[simp] theorem setIcache_free (s : State) (v : List (Nat × Nat × W32)) : (setIcache s v).free = s.free := rfl
@[simp] theorem setIcache_cur (s : State) (v : List (Nat × Nat × W32)) : (setIcache s v).cur = s.cur := rfl
@[simp] theorem setIcache_plan (s : State) (v : List (Nat × Nat × W32)) : (setIcache s v).plan = s.plan := rfl
@[simp] theorem setDir_cfg (s : State) (v : List Rel) : (setDir s v).cfg = s.cfg := rfl
@[simp] theorem setDir_tenants (s : State) (v : List Rel) : (setDir s v).tenants = s.tenants := rfl
@[simp] theorem setDir_mem (s : State) (v : List Rel) : (setDir s v).mem = s.mem := rfl
@[simp] theorem setDir_full (s : State) (v : List Rel) : (setDir s v).full = s.full := rfl
@[simp] theorem setDir_waiters (s : State) (v : List Rel) : (setDir s v).waiters = s.waiters := rfl
@[simp] theorem setDir_l2 (s : State) (v : List Rel) : (setDir s v).l2 = s.l2 := rfl
@[simp] theorem setDir_xlat (s : State) (v : List Rel) : (setDir s v).xlat = s.xlat := rfl
@[simp] theorem setDir_launches (s : State) (v : List Rel) : (setDir s v).launches = s.launches := rfl
@[simp] theorem setDir_insts (s : State) (v : List Rel) : (setDir s v).insts = s.insts := rfl
@[simp] theorem setDir_closed (s : State) (v : List Rel) : (setDir s v).closed = s.closed := rfl
@[simp] theorem setDir_chans (s : State) (v : List Rel) : (setDir s v).chans = s.chans := rfl
@[simp] theorem setDir_bars (s : State) (v : List Rel) : (setDir s v).bars = s.bars := rfl
@[simp] theorem setDir_transit (s : State) (v : List Rel) : (setDir s v).transit = s.transit := rfl
@[simp] theorem setDir_inbox (s : State) (v : List Rel) : (setDir s v).inbox = s.inbox := rfl
@[simp] theorem setDir_firings (s : State) (v : List Rel) : (setDir s v).firings = s.firings := rfl
@[simp] theorem setDir_pcores (s : State) (v : List Rel) : (setDir s v).pcores = s.pcores := rfl
@[simp] theorem setDir_eng (s : State) (v : List Rel) : (setDir s v).eng = s.eng := rfl
@[simp] theorem setDir_tasks (s : State) (v : List Rel) : (setDir s v).tasks = s.tasks := rfl
@[simp] theorem setDir_ctx (s : State) (v : List Rel) : (setDir s v).ctx = s.ctx := rfl
@[simp] theorem setDir_slots (s : State) (v : List Rel) : (setDir s v).slots = s.slots := rfl
@[simp] theorem setDir_markers (s : State) (v : List Rel) : (setDir s v).markers = s.markers := rfl
@[simp] theorem setDir_paths (s : State) (v : List Rel) : (setDir s v).paths = s.paths := rfl
@[simp] theorem setDir_hts (s : State) (v : List Rel) : (setDir s v).hts = s.hts := rfl
@[simp] theorem setDir_hostRead (s : State) (v : List Rel) : (setDir s v).hostRead = s.hostRead := rfl
@[simp] theorem setDir_icache (s : State) (v : List Rel) : (setDir s v).icache = s.icache := rfl
@[simp] theorem setDir_dir (s : State) (v : List Rel) : (setDir s v).dir = v := rfl
@[simp] theorem setDir_acq (s : State) (v : List Rel) : (setDir s v).acq = s.acq := rfl
@[simp] theorem setDir_records (s : State) (v : List Rel) : (setDir s v).records = s.records := rfl
@[simp] theorem setDir_saved (s : State) (v : List Rel) : (setDir s v).saved = s.saved := rfl
@[simp] theorem setDir_clk (s : State) (v : List Rel) : (setDir s v).clk = s.clk := rfl
@[simp] theorem setDir_nextId (s : State) (v : List Rel) : (setDir s v).nextId = s.nextId := rfl
@[simp] theorem setDir_free (s : State) (v : List Rel) : (setDir s v).free = s.free := rfl
@[simp] theorem setDir_cur (s : State) (v : List Rel) : (setDir s v).cur = s.cur := rfl
@[simp] theorem setDir_plan (s : State) (v : List Rel) : (setDir s v).plan = s.plan := rfl
@[simp] theorem setAcq_cfg (s : State) (v : List Carry) : (setAcq s v).cfg = s.cfg := rfl
@[simp] theorem setAcq_tenants (s : State) (v : List Carry) : (setAcq s v).tenants = s.tenants := rfl
@[simp] theorem setAcq_mem (s : State) (v : List Carry) : (setAcq s v).mem = s.mem := rfl
@[simp] theorem setAcq_full (s : State) (v : List Carry) : (setAcq s v).full = s.full := rfl
@[simp] theorem setAcq_waiters (s : State) (v : List Carry) : (setAcq s v).waiters = s.waiters := rfl
@[simp] theorem setAcq_l2 (s : State) (v : List Carry) : (setAcq s v).l2 = s.l2 := rfl
@[simp] theorem setAcq_xlat (s : State) (v : List Carry) : (setAcq s v).xlat = s.xlat := rfl
@[simp] theorem setAcq_launches (s : State) (v : List Carry) : (setAcq s v).launches = s.launches := rfl
@[simp] theorem setAcq_insts (s : State) (v : List Carry) : (setAcq s v).insts = s.insts := rfl
@[simp] theorem setAcq_closed (s : State) (v : List Carry) : (setAcq s v).closed = s.closed := rfl
@[simp] theorem setAcq_chans (s : State) (v : List Carry) : (setAcq s v).chans = s.chans := rfl
@[simp] theorem setAcq_bars (s : State) (v : List Carry) : (setAcq s v).bars = s.bars := rfl
@[simp] theorem setAcq_transit (s : State) (v : List Carry) : (setAcq s v).transit = s.transit := rfl
@[simp] theorem setAcq_inbox (s : State) (v : List Carry) : (setAcq s v).inbox = s.inbox := rfl
@[simp] theorem setAcq_firings (s : State) (v : List Carry) : (setAcq s v).firings = s.firings := rfl
@[simp] theorem setAcq_pcores (s : State) (v : List Carry) : (setAcq s v).pcores = s.pcores := rfl
@[simp] theorem setAcq_eng (s : State) (v : List Carry) : (setAcq s v).eng = s.eng := rfl
@[simp] theorem setAcq_tasks (s : State) (v : List Carry) : (setAcq s v).tasks = s.tasks := rfl
@[simp] theorem setAcq_ctx (s : State) (v : List Carry) : (setAcq s v).ctx = s.ctx := rfl
@[simp] theorem setAcq_slots (s : State) (v : List Carry) : (setAcq s v).slots = s.slots := rfl
@[simp] theorem setAcq_markers (s : State) (v : List Carry) : (setAcq s v).markers = s.markers := rfl
@[simp] theorem setAcq_paths (s : State) (v : List Carry) : (setAcq s v).paths = s.paths := rfl
@[simp] theorem setAcq_hts (s : State) (v : List Carry) : (setAcq s v).hts = s.hts := rfl
@[simp] theorem setAcq_hostRead (s : State) (v : List Carry) : (setAcq s v).hostRead = s.hostRead := rfl
@[simp] theorem setAcq_icache (s : State) (v : List Carry) : (setAcq s v).icache = s.icache := rfl
@[simp] theorem setAcq_dir (s : State) (v : List Carry) : (setAcq s v).dir = s.dir := rfl
@[simp] theorem setAcq_acq (s : State) (v : List Carry) : (setAcq s v).acq = v := rfl
@[simp] theorem setAcq_records (s : State) (v : List Carry) : (setAcq s v).records = s.records := rfl
@[simp] theorem setAcq_saved (s : State) (v : List Carry) : (setAcq s v).saved = s.saved := rfl
@[simp] theorem setAcq_clk (s : State) (v : List Carry) : (setAcq s v).clk = s.clk := rfl
@[simp] theorem setAcq_nextId (s : State) (v : List Carry) : (setAcq s v).nextId = s.nextId := rfl
@[simp] theorem setAcq_free (s : State) (v : List Carry) : (setAcq s v).free = s.free := rfl
@[simp] theorem setAcq_cur (s : State) (v : List Carry) : (setAcq s v).cur = s.cur := rfl
@[simp] theorem setAcq_plan (s : State) (v : List Carry) : (setAcq s v).plan = s.plan := rfl
@[simp] theorem setRecords_cfg (s : State) (v : List Record) : (setRecords s v).cfg = s.cfg := rfl
@[simp] theorem setRecords_tenants (s : State) (v : List Record) : (setRecords s v).tenants = s.tenants := rfl
@[simp] theorem setRecords_mem (s : State) (v : List Record) : (setRecords s v).mem = s.mem := rfl
@[simp] theorem setRecords_full (s : State) (v : List Record) : (setRecords s v).full = s.full := rfl
@[simp] theorem setRecords_waiters (s : State) (v : List Record) : (setRecords s v).waiters = s.waiters := rfl
@[simp] theorem setRecords_l2 (s : State) (v : List Record) : (setRecords s v).l2 = s.l2 := rfl
@[simp] theorem setRecords_xlat (s : State) (v : List Record) : (setRecords s v).xlat = s.xlat := rfl
@[simp] theorem setRecords_launches (s : State) (v : List Record) : (setRecords s v).launches = s.launches := rfl
@[simp] theorem setRecords_insts (s : State) (v : List Record) : (setRecords s v).insts = s.insts := rfl
@[simp] theorem setRecords_closed (s : State) (v : List Record) : (setRecords s v).closed = s.closed := rfl
@[simp] theorem setRecords_chans (s : State) (v : List Record) : (setRecords s v).chans = s.chans := rfl
@[simp] theorem setRecords_bars (s : State) (v : List Record) : (setRecords s v).bars = s.bars := rfl
@[simp] theorem setRecords_transit (s : State) (v : List Record) : (setRecords s v).transit = s.transit := rfl
@[simp] theorem setRecords_inbox (s : State) (v : List Record) : (setRecords s v).inbox = s.inbox := rfl
@[simp] theorem setRecords_firings (s : State) (v : List Record) : (setRecords s v).firings = s.firings := rfl
@[simp] theorem setRecords_pcores (s : State) (v : List Record) : (setRecords s v).pcores = s.pcores := rfl
@[simp] theorem setRecords_eng (s : State) (v : List Record) : (setRecords s v).eng = s.eng := rfl
@[simp] theorem setRecords_tasks (s : State) (v : List Record) : (setRecords s v).tasks = s.tasks := rfl
@[simp] theorem setRecords_ctx (s : State) (v : List Record) : (setRecords s v).ctx = s.ctx := rfl
@[simp] theorem setRecords_slots (s : State) (v : List Record) : (setRecords s v).slots = s.slots := rfl
@[simp] theorem setRecords_markers (s : State) (v : List Record) : (setRecords s v).markers = s.markers := rfl
@[simp] theorem setRecords_paths (s : State) (v : List Record) : (setRecords s v).paths = s.paths := rfl
@[simp] theorem setRecords_hts (s : State) (v : List Record) : (setRecords s v).hts = s.hts := rfl
@[simp] theorem setRecords_hostRead (s : State) (v : List Record) : (setRecords s v).hostRead = s.hostRead := rfl
@[simp] theorem setRecords_icache (s : State) (v : List Record) : (setRecords s v).icache = s.icache := rfl
@[simp] theorem setRecords_dir (s : State) (v : List Record) : (setRecords s v).dir = s.dir := rfl
@[simp] theorem setRecords_acq (s : State) (v : List Record) : (setRecords s v).acq = s.acq := rfl
@[simp] theorem setRecords_records (s : State) (v : List Record) : (setRecords s v).records = v := rfl
@[simp] theorem setRecords_saved (s : State) (v : List Record) : (setRecords s v).saved = s.saved := rfl
@[simp] theorem setRecords_clk (s : State) (v : List Record) : (setRecords s v).clk = s.clk := rfl
@[simp] theorem setRecords_nextId (s : State) (v : List Record) : (setRecords s v).nextId = s.nextId := rfl
@[simp] theorem setRecords_free (s : State) (v : List Record) : (setRecords s v).free = s.free := rfl
@[simp] theorem setRecords_cur (s : State) (v : List Record) : (setRecords s v).cur = s.cur := rfl
@[simp] theorem setRecords_plan (s : State) (v : List Record) : (setRecords s v).plan = s.plan := rfl
@[simp] theorem setSaved_cfg (s : State) (v : List Saved) : (setSaved s v).cfg = s.cfg := rfl
@[simp] theorem setSaved_tenants (s : State) (v : List Saved) : (setSaved s v).tenants = s.tenants := rfl
@[simp] theorem setSaved_mem (s : State) (v : List Saved) : (setSaved s v).mem = s.mem := rfl
@[simp] theorem setSaved_full (s : State) (v : List Saved) : (setSaved s v).full = s.full := rfl
@[simp] theorem setSaved_waiters (s : State) (v : List Saved) : (setSaved s v).waiters = s.waiters := rfl
@[simp] theorem setSaved_l2 (s : State) (v : List Saved) : (setSaved s v).l2 = s.l2 := rfl
@[simp] theorem setSaved_xlat (s : State) (v : List Saved) : (setSaved s v).xlat = s.xlat := rfl
@[simp] theorem setSaved_launches (s : State) (v : List Saved) : (setSaved s v).launches = s.launches := rfl
@[simp] theorem setSaved_insts (s : State) (v : List Saved) : (setSaved s v).insts = s.insts := rfl
@[simp] theorem setSaved_closed (s : State) (v : List Saved) : (setSaved s v).closed = s.closed := rfl
@[simp] theorem setSaved_chans (s : State) (v : List Saved) : (setSaved s v).chans = s.chans := rfl
@[simp] theorem setSaved_bars (s : State) (v : List Saved) : (setSaved s v).bars = s.bars := rfl
@[simp] theorem setSaved_transit (s : State) (v : List Saved) : (setSaved s v).transit = s.transit := rfl
@[simp] theorem setSaved_inbox (s : State) (v : List Saved) : (setSaved s v).inbox = s.inbox := rfl
@[simp] theorem setSaved_firings (s : State) (v : List Saved) : (setSaved s v).firings = s.firings := rfl
@[simp] theorem setSaved_pcores (s : State) (v : List Saved) : (setSaved s v).pcores = s.pcores := rfl
@[simp] theorem setSaved_eng (s : State) (v : List Saved) : (setSaved s v).eng = s.eng := rfl
@[simp] theorem setSaved_tasks (s : State) (v : List Saved) : (setSaved s v).tasks = s.tasks := rfl
@[simp] theorem setSaved_ctx (s : State) (v : List Saved) : (setSaved s v).ctx = s.ctx := rfl
@[simp] theorem setSaved_slots (s : State) (v : List Saved) : (setSaved s v).slots = s.slots := rfl
@[simp] theorem setSaved_markers (s : State) (v : List Saved) : (setSaved s v).markers = s.markers := rfl
@[simp] theorem setSaved_paths (s : State) (v : List Saved) : (setSaved s v).paths = s.paths := rfl
@[simp] theorem setSaved_hts (s : State) (v : List Saved) : (setSaved s v).hts = s.hts := rfl
@[simp] theorem setSaved_hostRead (s : State) (v : List Saved) : (setSaved s v).hostRead = s.hostRead := rfl
@[simp] theorem setSaved_icache (s : State) (v : List Saved) : (setSaved s v).icache = s.icache := rfl
@[simp] theorem setSaved_dir (s : State) (v : List Saved) : (setSaved s v).dir = s.dir := rfl
@[simp] theorem setSaved_acq (s : State) (v : List Saved) : (setSaved s v).acq = s.acq := rfl
@[simp] theorem setSaved_records (s : State) (v : List Saved) : (setSaved s v).records = s.records := rfl
@[simp] theorem setSaved_saved (s : State) (v : List Saved) : (setSaved s v).saved = v := rfl
@[simp] theorem setSaved_clk (s : State) (v : List Saved) : (setSaved s v).clk = s.clk := rfl
@[simp] theorem setSaved_nextId (s : State) (v : List Saved) : (setSaved s v).nextId = s.nextId := rfl
@[simp] theorem setSaved_free (s : State) (v : List Saved) : (setSaved s v).free = s.free := rfl
@[simp] theorem setSaved_cur (s : State) (v : List Saved) : (setSaved s v).cur = s.cur := rfl
@[simp] theorem setSaved_plan (s : State) (v : List Saved) : (setSaved s v).plan = s.plan := rfl
@[simp] theorem setClk_cfg (s : State) (v : Nat) : (setClk s v).cfg = s.cfg := rfl
@[simp] theorem setClk_tenants (s : State) (v : Nat) : (setClk s v).tenants = s.tenants := rfl
@[simp] theorem setClk_mem (s : State) (v : Nat) : (setClk s v).mem = s.mem := rfl
@[simp] theorem setClk_full (s : State) (v : Nat) : (setClk s v).full = s.full := rfl
@[simp] theorem setClk_waiters (s : State) (v : Nat) : (setClk s v).waiters = s.waiters := rfl
@[simp] theorem setClk_l2 (s : State) (v : Nat) : (setClk s v).l2 = s.l2 := rfl
@[simp] theorem setClk_xlat (s : State) (v : Nat) : (setClk s v).xlat = s.xlat := rfl
@[simp] theorem setClk_launches (s : State) (v : Nat) : (setClk s v).launches = s.launches := rfl
@[simp] theorem setClk_insts (s : State) (v : Nat) : (setClk s v).insts = s.insts := rfl
@[simp] theorem setClk_closed (s : State) (v : Nat) : (setClk s v).closed = s.closed := rfl
@[simp] theorem setClk_chans (s : State) (v : Nat) : (setClk s v).chans = s.chans := rfl
@[simp] theorem setClk_bars (s : State) (v : Nat) : (setClk s v).bars = s.bars := rfl
@[simp] theorem setClk_transit (s : State) (v : Nat) : (setClk s v).transit = s.transit := rfl
@[simp] theorem setClk_inbox (s : State) (v : Nat) : (setClk s v).inbox = s.inbox := rfl
@[simp] theorem setClk_firings (s : State) (v : Nat) : (setClk s v).firings = s.firings := rfl
@[simp] theorem setClk_pcores (s : State) (v : Nat) : (setClk s v).pcores = s.pcores := rfl
@[simp] theorem setClk_eng (s : State) (v : Nat) : (setClk s v).eng = s.eng := rfl
@[simp] theorem setClk_tasks (s : State) (v : Nat) : (setClk s v).tasks = s.tasks := rfl
@[simp] theorem setClk_ctx (s : State) (v : Nat) : (setClk s v).ctx = s.ctx := rfl
@[simp] theorem setClk_slots (s : State) (v : Nat) : (setClk s v).slots = s.slots := rfl
@[simp] theorem setClk_markers (s : State) (v : Nat) : (setClk s v).markers = s.markers := rfl
@[simp] theorem setClk_paths (s : State) (v : Nat) : (setClk s v).paths = s.paths := rfl
@[simp] theorem setClk_hts (s : State) (v : Nat) : (setClk s v).hts = s.hts := rfl
@[simp] theorem setClk_hostRead (s : State) (v : Nat) : (setClk s v).hostRead = s.hostRead := rfl
@[simp] theorem setClk_icache (s : State) (v : Nat) : (setClk s v).icache = s.icache := rfl
@[simp] theorem setClk_dir (s : State) (v : Nat) : (setClk s v).dir = s.dir := rfl
@[simp] theorem setClk_acq (s : State) (v : Nat) : (setClk s v).acq = s.acq := rfl
@[simp] theorem setClk_records (s : State) (v : Nat) : (setClk s v).records = s.records := rfl
@[simp] theorem setClk_saved (s : State) (v : Nat) : (setClk s v).saved = s.saved := rfl
@[simp] theorem setClk_clk (s : State) (v : Nat) : (setClk s v).clk = v := rfl
@[simp] theorem setClk_nextId (s : State) (v : Nat) : (setClk s v).nextId = s.nextId := rfl
@[simp] theorem setClk_free (s : State) (v : Nat) : (setClk s v).free = s.free := rfl
@[simp] theorem setClk_cur (s : State) (v : Nat) : (setClk s v).cur = s.cur := rfl
@[simp] theorem setClk_plan (s : State) (v : Nat) : (setClk s v).plan = s.plan := rfl
@[simp] theorem setNextId_cfg (s : State) (v : Nat) : (setNextId s v).cfg = s.cfg := rfl
@[simp] theorem setNextId_tenants (s : State) (v : Nat) : (setNextId s v).tenants = s.tenants := rfl
@[simp] theorem setNextId_mem (s : State) (v : Nat) : (setNextId s v).mem = s.mem := rfl
@[simp] theorem setNextId_full (s : State) (v : Nat) : (setNextId s v).full = s.full := rfl
@[simp] theorem setNextId_waiters (s : State) (v : Nat) : (setNextId s v).waiters = s.waiters := rfl
@[simp] theorem setNextId_l2 (s : State) (v : Nat) : (setNextId s v).l2 = s.l2 := rfl
@[simp] theorem setNextId_xlat (s : State) (v : Nat) : (setNextId s v).xlat = s.xlat := rfl
@[simp] theorem setNextId_launches (s : State) (v : Nat) : (setNextId s v).launches = s.launches := rfl
@[simp] theorem setNextId_insts (s : State) (v : Nat) : (setNextId s v).insts = s.insts := rfl
@[simp] theorem setNextId_closed (s : State) (v : Nat) : (setNextId s v).closed = s.closed := rfl
@[simp] theorem setNextId_chans (s : State) (v : Nat) : (setNextId s v).chans = s.chans := rfl
@[simp] theorem setNextId_bars (s : State) (v : Nat) : (setNextId s v).bars = s.bars := rfl
@[simp] theorem setNextId_transit (s : State) (v : Nat) : (setNextId s v).transit = s.transit := rfl
@[simp] theorem setNextId_inbox (s : State) (v : Nat) : (setNextId s v).inbox = s.inbox := rfl
@[simp] theorem setNextId_firings (s : State) (v : Nat) : (setNextId s v).firings = s.firings := rfl
@[simp] theorem setNextId_pcores (s : State) (v : Nat) : (setNextId s v).pcores = s.pcores := rfl
@[simp] theorem setNextId_eng (s : State) (v : Nat) : (setNextId s v).eng = s.eng := rfl
@[simp] theorem setNextId_tasks (s : State) (v : Nat) : (setNextId s v).tasks = s.tasks := rfl
@[simp] theorem setNextId_ctx (s : State) (v : Nat) : (setNextId s v).ctx = s.ctx := rfl
@[simp] theorem setNextId_slots (s : State) (v : Nat) : (setNextId s v).slots = s.slots := rfl
@[simp] theorem setNextId_markers (s : State) (v : Nat) : (setNextId s v).markers = s.markers := rfl
@[simp] theorem setNextId_paths (s : State) (v : Nat) : (setNextId s v).paths = s.paths := rfl
@[simp] theorem setNextId_hts (s : State) (v : Nat) : (setNextId s v).hts = s.hts := rfl
@[simp] theorem setNextId_hostRead (s : State) (v : Nat) : (setNextId s v).hostRead = s.hostRead := rfl
@[simp] theorem setNextId_icache (s : State) (v : Nat) : (setNextId s v).icache = s.icache := rfl
@[simp] theorem setNextId_dir (s : State) (v : Nat) : (setNextId s v).dir = s.dir := rfl
@[simp] theorem setNextId_acq (s : State) (v : Nat) : (setNextId s v).acq = s.acq := rfl
@[simp] theorem setNextId_records (s : State) (v : Nat) : (setNextId s v).records = s.records := rfl
@[simp] theorem setNextId_saved (s : State) (v : Nat) : (setNextId s v).saved = s.saved := rfl
@[simp] theorem setNextId_clk (s : State) (v : Nat) : (setNextId s v).clk = s.clk := rfl
@[simp] theorem setNextId_nextId (s : State) (v : Nat) : (setNextId s v).nextId = v := rfl
@[simp] theorem setNextId_free (s : State) (v : Nat) : (setNextId s v).free = s.free := rfl
@[simp] theorem setNextId_cur (s : State) (v : Nat) : (setNextId s v).cur = s.cur := rfl
@[simp] theorem setNextId_plan (s : State) (v : Nat) : (setNextId s v).plan = s.plan := rfl
@[simp] theorem setFree_cfg (s : State) (v : Nat) : (setFree s v).cfg = s.cfg := rfl
@[simp] theorem setFree_tenants (s : State) (v : Nat) : (setFree s v).tenants = s.tenants := rfl
@[simp] theorem setFree_mem (s : State) (v : Nat) : (setFree s v).mem = s.mem := rfl
@[simp] theorem setFree_full (s : State) (v : Nat) : (setFree s v).full = s.full := rfl
@[simp] theorem setFree_waiters (s : State) (v : Nat) : (setFree s v).waiters = s.waiters := rfl
@[simp] theorem setFree_l2 (s : State) (v : Nat) : (setFree s v).l2 = s.l2 := rfl
@[simp] theorem setFree_xlat (s : State) (v : Nat) : (setFree s v).xlat = s.xlat := rfl
@[simp] theorem setFree_launches (s : State) (v : Nat) : (setFree s v).launches = s.launches := rfl
@[simp] theorem setFree_insts (s : State) (v : Nat) : (setFree s v).insts = s.insts := rfl
@[simp] theorem setFree_closed (s : State) (v : Nat) : (setFree s v).closed = s.closed := rfl
@[simp] theorem setFree_chans (s : State) (v : Nat) : (setFree s v).chans = s.chans := rfl
@[simp] theorem setFree_bars (s : State) (v : Nat) : (setFree s v).bars = s.bars := rfl
@[simp] theorem setFree_transit (s : State) (v : Nat) : (setFree s v).transit = s.transit := rfl
@[simp] theorem setFree_inbox (s : State) (v : Nat) : (setFree s v).inbox = s.inbox := rfl
@[simp] theorem setFree_firings (s : State) (v : Nat) : (setFree s v).firings = s.firings := rfl
@[simp] theorem setFree_pcores (s : State) (v : Nat) : (setFree s v).pcores = s.pcores := rfl
@[simp] theorem setFree_eng (s : State) (v : Nat) : (setFree s v).eng = s.eng := rfl
@[simp] theorem setFree_tasks (s : State) (v : Nat) : (setFree s v).tasks = s.tasks := rfl
@[simp] theorem setFree_ctx (s : State) (v : Nat) : (setFree s v).ctx = s.ctx := rfl
@[simp] theorem setFree_slots (s : State) (v : Nat) : (setFree s v).slots = s.slots := rfl
@[simp] theorem setFree_markers (s : State) (v : Nat) : (setFree s v).markers = s.markers := rfl
@[simp] theorem setFree_paths (s : State) (v : Nat) : (setFree s v).paths = s.paths := rfl
@[simp] theorem setFree_hts (s : State) (v : Nat) : (setFree s v).hts = s.hts := rfl
@[simp] theorem setFree_hostRead (s : State) (v : Nat) : (setFree s v).hostRead = s.hostRead := rfl
@[simp] theorem setFree_icache (s : State) (v : Nat) : (setFree s v).icache = s.icache := rfl
@[simp] theorem setFree_dir (s : State) (v : Nat) : (setFree s v).dir = s.dir := rfl
@[simp] theorem setFree_acq (s : State) (v : Nat) : (setFree s v).acq = s.acq := rfl
@[simp] theorem setFree_records (s : State) (v : Nat) : (setFree s v).records = s.records := rfl
@[simp] theorem setFree_saved (s : State) (v : Nat) : (setFree s v).saved = s.saved := rfl
@[simp] theorem setFree_clk (s : State) (v : Nat) : (setFree s v).clk = s.clk := rfl
@[simp] theorem setFree_nextId (s : State) (v : Nat) : (setFree s v).nextId = s.nextId := rfl
@[simp] theorem setFree_free (s : State) (v : Nat) : (setFree s v).free = v := rfl
@[simp] theorem setFree_cur (s : State) (v : Nat) : (setFree s v).cur = s.cur := rfl
@[simp] theorem setFree_plan (s : State) (v : Nat) : (setFree s v).plan = s.plan := rfl
@[simp] theorem setCur_cfg (s : State) (v : Party) : (setCur s v).cfg = s.cfg := rfl
@[simp] theorem setCur_tenants (s : State) (v : Party) : (setCur s v).tenants = s.tenants := rfl
@[simp] theorem setCur_mem (s : State) (v : Party) : (setCur s v).mem = s.mem := rfl
@[simp] theorem setCur_full (s : State) (v : Party) : (setCur s v).full = s.full := rfl
@[simp] theorem setCur_waiters (s : State) (v : Party) : (setCur s v).waiters = s.waiters := rfl
@[simp] theorem setCur_l2 (s : State) (v : Party) : (setCur s v).l2 = s.l2 := rfl
@[simp] theorem setCur_xlat (s : State) (v : Party) : (setCur s v).xlat = s.xlat := rfl
@[simp] theorem setCur_launches (s : State) (v : Party) : (setCur s v).launches = s.launches := rfl
@[simp] theorem setCur_insts (s : State) (v : Party) : (setCur s v).insts = s.insts := rfl
@[simp] theorem setCur_closed (s : State) (v : Party) : (setCur s v).closed = s.closed := rfl
@[simp] theorem setCur_chans (s : State) (v : Party) : (setCur s v).chans = s.chans := rfl
@[simp] theorem setCur_bars (s : State) (v : Party) : (setCur s v).bars = s.bars := rfl
@[simp] theorem setCur_transit (s : State) (v : Party) : (setCur s v).transit = s.transit := rfl
@[simp] theorem setCur_inbox (s : State) (v : Party) : (setCur s v).inbox = s.inbox := rfl
@[simp] theorem setCur_firings (s : State) (v : Party) : (setCur s v).firings = s.firings := rfl
@[simp] theorem setCur_pcores (s : State) (v : Party) : (setCur s v).pcores = s.pcores := rfl
@[simp] theorem setCur_eng (s : State) (v : Party) : (setCur s v).eng = s.eng := rfl
@[simp] theorem setCur_tasks (s : State) (v : Party) : (setCur s v).tasks = s.tasks := rfl
@[simp] theorem setCur_ctx (s : State) (v : Party) : (setCur s v).ctx = s.ctx := rfl
@[simp] theorem setCur_slots (s : State) (v : Party) : (setCur s v).slots = s.slots := rfl
@[simp] theorem setCur_markers (s : State) (v : Party) : (setCur s v).markers = s.markers := rfl
@[simp] theorem setCur_paths (s : State) (v : Party) : (setCur s v).paths = s.paths := rfl
@[simp] theorem setCur_hts (s : State) (v : Party) : (setCur s v).hts = s.hts := rfl
@[simp] theorem setCur_hostRead (s : State) (v : Party) : (setCur s v).hostRead = s.hostRead := rfl
@[simp] theorem setCur_icache (s : State) (v : Party) : (setCur s v).icache = s.icache := rfl
@[simp] theorem setCur_dir (s : State) (v : Party) : (setCur s v).dir = s.dir := rfl
@[simp] theorem setCur_acq (s : State) (v : Party) : (setCur s v).acq = s.acq := rfl
@[simp] theorem setCur_records (s : State) (v : Party) : (setCur s v).records = s.records := rfl
@[simp] theorem setCur_saved (s : State) (v : Party) : (setCur s v).saved = s.saved := rfl
@[simp] theorem setCur_clk (s : State) (v : Party) : (setCur s v).clk = s.clk := rfl
@[simp] theorem setCur_nextId (s : State) (v : Party) : (setCur s v).nextId = s.nextId := rfl
@[simp] theorem setCur_free (s : State) (v : Party) : (setCur s v).free = s.free := rfl
@[simp] theorem setCur_cur (s : State) (v : Party) : (setCur s v).cur = v := rfl
@[simp] theorem setCur_plan (s : State) (v : Party) : (setCur s v).plan = s.plan := rfl
@[simp] theorem setPlan_cfg (s : State) (v : List Move) : (setPlan s v).cfg = s.cfg := rfl
@[simp] theorem setPlan_tenants (s : State) (v : List Move) : (setPlan s v).tenants = s.tenants := rfl
@[simp] theorem setPlan_mem (s : State) (v : List Move) : (setPlan s v).mem = s.mem := rfl
@[simp] theorem setPlan_full (s : State) (v : List Move) : (setPlan s v).full = s.full := rfl
@[simp] theorem setPlan_waiters (s : State) (v : List Move) : (setPlan s v).waiters = s.waiters := rfl
@[simp] theorem setPlan_l2 (s : State) (v : List Move) : (setPlan s v).l2 = s.l2 := rfl
@[simp] theorem setPlan_xlat (s : State) (v : List Move) : (setPlan s v).xlat = s.xlat := rfl
@[simp] theorem setPlan_launches (s : State) (v : List Move) : (setPlan s v).launches = s.launches := rfl
@[simp] theorem setPlan_insts (s : State) (v : List Move) : (setPlan s v).insts = s.insts := rfl
@[simp] theorem setPlan_closed (s : State) (v : List Move) : (setPlan s v).closed = s.closed := rfl
@[simp] theorem setPlan_chans (s : State) (v : List Move) : (setPlan s v).chans = s.chans := rfl
@[simp] theorem setPlan_bars (s : State) (v : List Move) : (setPlan s v).bars = s.bars := rfl
@[simp] theorem setPlan_transit (s : State) (v : List Move) : (setPlan s v).transit = s.transit := rfl
@[simp] theorem setPlan_inbox (s : State) (v : List Move) : (setPlan s v).inbox = s.inbox := rfl
@[simp] theorem setPlan_firings (s : State) (v : List Move) : (setPlan s v).firings = s.firings := rfl
@[simp] theorem setPlan_pcores (s : State) (v : List Move) : (setPlan s v).pcores = s.pcores := rfl
@[simp] theorem setPlan_eng (s : State) (v : List Move) : (setPlan s v).eng = s.eng := rfl
@[simp] theorem setPlan_tasks (s : State) (v : List Move) : (setPlan s v).tasks = s.tasks := rfl
@[simp] theorem setPlan_ctx (s : State) (v : List Move) : (setPlan s v).ctx = s.ctx := rfl
@[simp] theorem setPlan_slots (s : State) (v : List Move) : (setPlan s v).slots = s.slots := rfl
@[simp] theorem setPlan_markers (s : State) (v : List Move) : (setPlan s v).markers = s.markers := rfl
@[simp] theorem setPlan_paths (s : State) (v : List Move) : (setPlan s v).paths = s.paths := rfl
@[simp] theorem setPlan_hts (s : State) (v : List Move) : (setPlan s v).hts = s.hts := rfl
@[simp] theorem setPlan_hostRead (s : State) (v : List Move) : (setPlan s v).hostRead = s.hostRead := rfl
@[simp] theorem setPlan_icache (s : State) (v : List Move) : (setPlan s v).icache = s.icache := rfl
@[simp] theorem setPlan_dir (s : State) (v : List Move) : (setPlan s v).dir = s.dir := rfl
@[simp] theorem setPlan_acq (s : State) (v : List Move) : (setPlan s v).acq = s.acq := rfl
@[simp] theorem setPlan_records (s : State) (v : List Move) : (setPlan s v).records = s.records := rfl
@[simp] theorem setPlan_saved (s : State) (v : List Move) : (setPlan s v).saved = s.saved := rfl
@[simp] theorem setPlan_clk (s : State) (v : List Move) : (setPlan s v).clk = s.clk := rfl
@[simp] theorem setPlan_nextId (s : State) (v : List Move) : (setPlan s v).nextId = s.nextId := rfl
@[simp] theorem setPlan_free (s : State) (v : List Move) : (setPlan s v).free = s.free := rfl
@[simp] theorem setPlan_cur (s : State) (v : List Move) : (setPlan s v).cur = s.cur := rfl
@[simp] theorem setPlan_plan (s : State) (v : List Move) : (setPlan s v).plan = v := rfl

end Sys2Proof.Laws.State
end

