-- ==== Sys2Proof/Tests/Slice0.lean ====
section
/-! SUPPORT. Tests: ill-formed terms that the checks refuse, words of the spec that decode to their instructions, single
steps with results worked out by hand from the rules, and for every statement a state and operands that meet its
hypotheses. -/

namespace Sys2Proof.Tests
open Sys2Proof Sys2Proof.Machine
set_option Elab.async false

/-! ### States for the witnesses -/

/-- A firing of one core on cluster 0. -/
def fire : Firing := { id := 1, inst := 1, launch := 1, cores := [{}], issued := true }
/-- The same with a core of these registers, or a gang of two. -/
def one (c : Core) : Firing := { fire with cores := [c] }
def gang (a b : Core) : Firing := { fire with cores := [a, { b with idx := 1 }] }
/-- A core whose p1 is true. -/
def pTrue : Core := setPr {} 1 0xFFFF
/-- The part while this firing runs, its core 0 acting. -/
def demo (f : Firing) : State :=
  { State.reset with
    launches := [{ id := 1, held := false, counts := [1], graph := { actors := [{}] } }]
    insts := [{ id := 1, launch := 1, st := .firing 1 }]
    firings := [f], cur := .core 0 0, nextId := 2 }
/-- The same where the launch is a supervisor's. -/
def super (f : Firing) : State :=
  { demo f with launches := [{ id := 1, held := false, counts := [1], origin := .supl, graph := { actors := [{}] } }] }
/-- An instruction issues on core 0 in a state. -/
def On (s : State) (f : Firing) (i : Instr) : Prop := Issues s (siteOf i) f (actingCores f 0)

theorem on_of {s : State} {f : Firing} {i : Instr} (h : s.cur = .core 0 0) (hf : firingAt s 0 0 = some f)
    (hp : s.pcores = []) (hi : f.issued = true) (he : f.ending = false)
    (hb : (actingCores f 0).any (fun k => busyHolds k.busy) = false) (hx : expired f = false := by rfl) : On s f i := by
  refine ⟨0, 0, f, h, hf, ?_, rfl, he, hx, hb, ?_⟩
  · cases f; simp_all
  · simp [interlocked, accsOf, pcoreAt, hp]
theorem on_fire (i : Instr) : On (demo fire) fire i := on_of rfl rfl rfl rfl rfl rfl

theorem unanimous_one {α : Type} (v : α) : Unanimous [v] v := ⟨nofun, fun _ h => List.mem_singleton.1 h⟩
theorem divided_two {α : Type} (v w : α) (h : v ≠ w) : Divided [v, w] := ⟨v, .head _, w, .tail _ (.head _), h⟩

/-! ### Witnesses: scalar instructions, control transfer and gangs -/

theorem witness_AluAndImmediatesCompute (o : OpA) (p : OpI) (x : OpX) :
    On (demo fire) fire (.aluAdd o) ∧ On (demo fire) fire (.alui p) ∧ On (demo fire) fire (.moviLo x) :=
  ⟨on_fire _, on_fire _, on_fire _⟩
theorem witness_IntegerWordsCompute (o : OpA) : On (demo fire) fire (.muldivMul o) := on_fire _
theorem witness_PredicatesCompute (o : OpA) (p : OpI) :
    On (demo fire) fire (.cmpEq o) ∧ On (demo fire) fire (.cmpiEq p) := ⟨on_fire _, on_fire _⟩
theorem witness_GangAndIdentityMove :
    (∀ o, On (demo fire) fire (.idLvl o) ∧ On (demo fire) fire (.gmovGet o)) ∧ activeCores [{}] 1 = [] ∧
    (let f := gang {} {}
     On (demo f) f (.gmovAgree {}) ∧ ∃ c rest, activeCores (actingCores f 0) 0 = c :: rest ∧ ∀ k ∈ rest, getX k 0 = getX c 0) ∧
    let f := gang {} (setX {} 1 7)
    On (demo f) f (.gmovAgree { a := 1 }) ∧
      ∃ c rest, activeCores (actingCores f 0) 0 = c :: rest ∧ ∃ k ∈ rest, getX k 1 ≠ getX c 1 :=
  ⟨fun _ => ⟨on_fire _, on_fire _⟩, rfl, ⟨on_of rfl rfl rfl rfl rfl rfl, _, _, rfl, by decide⟩,
    on_of rfl rfl rfl rfl rfl rfl, _, _, rfl, by decide⟩
theorem witness_ControlTransfers :
    (∀ (o : OpB) (a : OpA), On (demo fire) fire (.br o) ∧ On (demo fire) fire (.jal o) ∧ On (demo fire) fire (.jr a)) ∧
    (let votes (f : Firing) (p : Nat) : List Bool := (actingCores f 0).map fun c => (getPr c p).getLsbD 0 != false
     let f := gang pTrue {}
     Unanimous (votes fire 0) true ∧ Unanimous (votes fire 1) false ∧ Divided (votes f 1) ∧ On (demo f) f (.br { lo := 1 })) ∧
    let votes (f : Firing) (p : Nat) : List (Option Word) := (actingCores f 0).map fun c =>
      if (getPr c p).getLsbD 0 then some (getX c 3) else none
    let f := gang pTrue {}
    getGp (uniformOf fire (actingCores fire 0)) 0 = true ∧ getGp (uniformOf fire (actingCores fire 0)) 1 = false ∧
    Unanimous (votes fire 0) (some 0) ∧ Unanimous (votes fire 1) none ∧ Divided (votes f 1) ∧
    On (demo f) f (.jr { a := 3, pr := 1 }) :=
  ⟨fun _ _ => ⟨on_fire _, on_fire _, on_fire _⟩,
    ⟨by unfold Unanimous; decide, by unfold Unanimous; decide, by unfold Divided; decide, on_of rfl rfl rfl rfl rfl rfl⟩,
    rfl, rfl, unanimous_one (some 0), unanimous_one none, divided_two (some 0) none nofun,
    on_of rfl rfl rfl rfl rfl rfl⟩
theorem witness_EndsEnd :
    let votes (f : Firing) (p : Nat) : List Bool := (actingCores f 0).map fun c => (getPr c p).getLsbD 0
    let f := gang pTrue {}
    let g := { fire with split := true }
    (On (demo fire) fire (.endCommit {}) ∧ Unanimous (votes fire 0) true ∧ fire.split = false) ∧
    (On (demo g) g (.endCommit {}) ∧ Unanimous (votes g 0) true ∧ g.split = true) ∧
    (On (demo fire) fire (.endRetry { pr := 1 }) ∧ Unanimous (votes fire 1) false) ∧
    On (demo f) f (.endFail { pr := 1 }) ∧ Divided (votes f 1) :=
  ⟨⟨on_fire _, by unfold Unanimous; decide, rfl⟩, ⟨on_of rfl rfl rfl rfl rfl rfl, by unfold Unanimous; decide, rfl⟩,
    ⟨on_fire _, by unfold Unanimous; decide⟩, on_of rfl rfl rfl rfl rfl rfl, by unfold Divided; decide⟩
theorem witness_RegionsAndGangs :
    let f := { fire with split := true }
    let g := { gang {} {} with split := true }
    let h := { gang {} { busy := .fuse 4 7 } with split := true }
    let fused (f : Firing) (w : W32) : Firing := putCores f ((actingCores f 0).map fun c => { c with busy := .fuse (c.pc + 0) w })
    (∀ o : OpA, On (demo fire) fire (.regionClose o)) ∧
    (∀ o : OpB, On (demo fire) fire (.gangAlign o) ∧ On (demo f) f (.gangFuse o) ∧ On (demo g) g (.gangFuse o) ∧
      On (demo h) h (.gangFuse o)) ∧
    On (demo fire) fire (.regionOpen {}) ∧ anyPending (putFiring (demo fire) fire) fire (actingCores fire 0) = false ∧
    anyPending (putFiring (demo f) f) f (actingCores f 0) = false ∧ activeCores (actingCores fire 0) 0 ≠ [] ∧
    fire.split = false ∧ f.split = true ∧
    ∀ w, ((fused f w).cores ≠ [] ∧ ∀ c ∈ (fused f w).cores, ∃ v, c.busy = .fuse 0 v) ∧
      (∃ c ∈ (fused g w).cores, ∀ target v, c.busy ≠ .fuse target v) ∧
      (∀ c ∈ (fused h w).cores, ∃ target v, c.busy = .fuse target v) ∧
      (∃ c ∈ (fused h w).cores, ∃ d ∈ (fused h w).cores, ∃ a b v u, c.busy = .fuse a v ∧ d.busy = .fuse b u ∧ a ≠ b) ∧
      (((fused h w).cores.find? fun c => c.idx == h.lead).getD {}).busy = .fuse 0 w :=
  ⟨fun _ => on_fire _, fun _ => ⟨on_fire _, on_of rfl rfl rfl rfl rfl rfl, on_of rfl rfl rfl rfl rfl rfl,
    on_of rfl rfl rfl rfl rfl rfl⟩, on_fire _, rfl, rfl, by decide, rfl, rfl, fun w =>
    ⟨⟨nofun, List.forall_mem_singleton.2 ⟨w, rfl⟩⟩, ⟨{ idx := 1 }, List.Mem.tail _ (.head _), fun _ _ => nofun⟩,
      List.forall_mem_cons.2 ⟨⟨0, w, rfl⟩, List.forall_mem_singleton.2 ⟨4, 7, rfl⟩⟩,
      ⟨_, .head _, _, .tail _ (.head _), 0, 4, w, 7, rfl, rfl, by decide⟩, rfl⟩⟩
theorem witness_WaitsAndSystem :
    (∀ (o : OpA) (p : OpI), On (demo fire) fire (.waitLe o) ∧ On (demo fire) fire (.waitLex o) ∧
      On (demo fire) fire (.trap p) ∧ On (demo fire) fire (.sysR p) ∧ On (demo fire) fire (.sysW p) ∧
      On (super fire) fire (.sysR p) ∧ On (super fire) fire (.sysW p)) ∧
    (∀ c ∈ activeCores (actingCores fire 0) 0, waitTest (putFiring (demo fire) fire) fire c 0 0 = true) ∧
    (∃ c rest, activeCores (actingCores fire 0) 0 = c :: rest) ∧
    0x100 ≤ (0x100#12).toNat ∧ isHandler (putFiring (demo fire) fire) fire = false ∧ (0x0FF#12).toNat < 0x100 ∧
    isHandler (putFiring (super fire) fire) fire = true ∧ activeCores (actingCores fire 0) 0 ≠ [] :=
  ⟨fun _ _ => ⟨on_fire _, on_fire _, on_fire _, on_fire _, on_fire _, on_of rfl rfl rfl rfl rfl rfl,
    on_of rfl rfl rfl rfl rfl rfl⟩, by decide, ⟨_, _, rfl⟩, by decide, rfl, by decide, rfl, by decide⟩

/-! ### Words and the instructions that the spec gives for them

Each word is put together from the field maps of R65 to R71 and R79, the opcode numbers of the entries' tables and the
`match` of spec/opcode_table.json, one word for every word constructor. -/

theorem words_scalar :
    decodeKernel 0xA0062082 0 = .instr (.aluAdd { d := 1, a := 2, b := 3, pr := 5 }) ∧
    decodeKernel 0xA0462082 0 = .instr (.aluSub { d := 1, a := 2, b := 3, pr := 5 }) ∧
    decodeKernel 0xA0862082 0 = .instr (.aluAnd { d := 1, a := 2, b := 3, pr := 5 }) ∧
    decodeKernel 0xA0C62082 0 = .instr (.aluOr { d := 1, a := 2, b := 3, pr := 5 }) ∧
    decodeKernel 0xA1062082 0 = .instr (.aluXor { d := 1, a := 2, b := 3, pr := 5 }) ∧
    decodeKernel 0xA1462082 0 = .instr (.aluShl { d := 1, a := 2, b := 3, pr := 5 }) ∧
    decodeKernel 0xA1862082 0 = .instr (.aluShr { d := 1, a := 2, b := 3, pr := 5 }) ∧
    decodeKernel 0xA1C62082 0 = .instr (.aluSra { d := 1, a := 2, b := 3, pr := 5 }) ∧
    decodeKernel 0x1FFE2084 0 = .instr (.alui { d := 1, a := 2, imm := 4095 }) ∧
    decodeKernel 0xA0062086 0 = .instr (.muldivMul { d := 1, a := 2, b := 3, pr := 5 }) ∧
    decodeKernel 0xA0462086 0 = .instr (.muldivMulh { d := 1, a := 2, b := 3, pr := 5 }) ∧
    decodeKernel 0xA0862086 0 = .instr (.muldivMulhu { d := 1, a := 2, b := 3, pr := 5 }) ∧
    decodeKernel 0xA0C62086 0 = .instr (.muldivDiv { d := 1, a := 2, b := 3, pr := 5 }) ∧
    decodeKernel 0xA1062086 0 = .instr (.muldivDivu { d := 1, a := 2, b := 3, pr := 5 }) ∧
    decodeKernel 0xA1462086 0 = .instr (.muldivRem { d := 1, a := 2, b := 3, pr := 5 }) ∧
    decodeKernel 0xA1862086 0 = .instr (.muldivRemu { d := 1, a := 2, b := 3, pr := 5 }) ∧
    decodeKernel 0xA0002088 0 = .instr (.bitsClz { d := 1, a := 2, pr := 5 }) ∧
    decodeKernel 0xA0402088 0 = .instr (.bitsCtz { d := 1, a := 2, pr := 5 }) ∧
    decodeKernel 0xA0802088 0 = .instr (.bitsPopc { d := 1, a := 2, pr := 5 }) ∧
    decodeKernel 0xA0C02088 0 = .instr (.bitsBrev { d := 1, a := 2, pr := 5 }) ∧
    decodeKernel 0xA1002088 0 = .instr (.bitsBswap { d := 1, a := 2, pr := 5 }) ∧
    decodeKernel 0xA1462088 0 = .instr (.bitsExtu { d := 1, a := 2, b := 3, pr := 5 }) ∧
    decodeKernel 0xA1862088 0 = .instr (.bitsExts { d := 1, a := 2, b := 3, pr := 5 }) ∧
    decodeKernel 0xA1C62088 0 = .instr (.bitsRotr { d := 1, a := 2, b := 3, pr := 5 }) ∧
    decodeKernel 0xA006208A 0 = .instr (.minmaxMin { d := 1, a := 2, b := 3, pr := 5 }) ∧
    decodeKernel 0xA046208A 0 = .instr (.minmaxMax { d := 1, a := 2, b := 3, pr := 5 }) ∧
    decodeKernel 0xA086208A 0 = .instr (.minmaxMinu { d := 1, a := 2, b := 3, pr := 5 }) ∧
    decodeKernel 0xA0C6208A 0 = .instr (.minmaxMaxu { d := 1, a := 2, b := 3, pr := 5 }) ∧
    decodeKernel 0xA100208A 0 = .instr (.minmaxAbs { d := 1, a := 2, pr := 5 }) ∧
    decodeKernel 0xA146208A 0 = .instr (.minmaxAdds { d := 1, a := 2, b := 3, pr := 5 }) ∧
    decodeKernel 0xA186208A 0 = .instr (.minmaxSubs { d := 1, a := 2, b := 3, pr := 5 }) ∧
    decodeKernel 0xA006208C 0 = .instr (.cmpEq { d := 1, a := 2, b := 3, pr := 5 }) ∧
    decodeKernel 0xA046208C 0 = .instr (.cmpNe { d := 1, a := 2, b := 3, pr := 5 }) ∧
    decodeKernel 0xA086208C 0 = .instr (.cmpLt { d := 1, a := 2, b := 3, pr := 5 }) ∧
    decodeKernel 0xA0C6208C 0 = .instr (.cmpGe { d := 1, a := 2, b := 3, pr := 5 }) ∧
    decodeKernel 0xA106208C 0 = .instr (.cmpLtu { d := 1, a := 2, b := 3, pr := 5 }) ∧
    decodeKernel 0xA146208C 0 = .instr (.cmpGeu { d := 1, a := 2, b := 3, pr := 5 }) ∧
    decodeKernel 0xA186208C 0 = .instr (.cmpTst { d := 1, a := 2, b := 3, pr := 5 }) ∧
    decodeKernel 0x1FFE208E 0 = .instr (.cmpiEq { d := 1, a := 2, imm := 4095 }) ∧
    decodeKernel 0x1FFE248E 0 = .instr (.cmpiNe { d := 1, a := 2, imm := 4095 }) ∧
    decodeKernel 0x1FFE288E 0 = .instr (.cmpiLt { d := 1, a := 2, imm := 4095 }) ∧
    decodeKernel 0x1FFE2C8E 0 = .instr (.cmpiLtu { d := 1, a := 2, imm := 4095 }) ∧
    decodeKernel 0xA0062090 0 = .instr (.plogAnd { d := 1, a := 2, b := 3, pr := 5 }) ∧
    decodeKernel 0xA0462090 0 = .instr (.plogOr { d := 1, a := 2, b := 3, pr := 5 }) ∧
    decodeKernel 0xA0862090 0 = .instr (.plogXor { d := 1, a := 2, b := 3, pr := 5 }) ∧
    decodeKernel 0xA0C62090 0 = .instr (.plogAndn { d := 1, a := 2, b := 3, pr := 5 }) ∧
    decodeKernel 0xA1002090 0 = .instr (.plogNot { d := 1, a := 2, pr := 5 }) ∧
    decodeKernel 0xA1402090 0 = .instr (.plogSetx { d := 1, a := 2, pr := 5 }) ∧
    decodeKernel 0xA1802090 0 = .instr (.plogGetx { d := 1, a := 2, pr := 5 }) ∧
    decodeKernel 0xA0002092 0 = .instr (.gmovGet { d := 1, a := 2, pr := 5 }) ∧
    decodeKernel 0xA0402092 0 = .instr (.gmovAgree { d := 1, a := 2, pr := 5 }) ∧
    decodeKernel 0xA0802092 0 = .instr (.gmovPut { d := 1, a := 2, pr := 5 }) ∧
    decodeKernel 0xA0C02092 0 = .instr (.gmovAny { d := 1, a := 2, pr := 5 }) ∧
    decodeKernel 0xA1002092 0 = .instr (.gmovAll { d := 1, a := 2, pr := 5 }) ∧
    decodeKernel 0xA1402092 0 = .instr (.gmovCount { d := 1, a := 2, pr := 5 }) ∧
    decodeKernel 0xA0000094 0 = .instr (.idLvl { d := 1, pr := 5 }) ∧
    decodeKernel 0xA0400094 0 = .instr (.idCore { d := 1, pr := 5 }) ∧
    decodeKernel 0xA0800094 0 = .instr (.idGpos { d := 1, pr := 5 }) ∧
    decodeKernel 0xA0C00094 0 = .instr (.idGwid { d := 1, pr := 5 }) ∧
    decodeKernel 0xA1000094 0 = .instr (.idClus { d := 1, pr := 5 }) ∧
    decodeKernel 0xA1400094 0 = .instr (.idCnt { d := 1, pr := 5 }) ∧
    decodeKernel 0xA1800094 0 = .instr (.idLane { d := 1, pr := 5 }) ∧
    decodeKernel 0xA1C00094 0 = .instr (.idPkg { d := 1, pr := 5 }) := by
  and_intros <;> rfl
theorem words_control :
    decodeKernel 0xFFFFD520 0 = .instr (.br { disp := -3, lo := 10 }) ∧
    decodeKernel 0x00010FA2 0 = .instr (.jal { disp := 16, lo := 31 }) ∧
    decodeKernel 0xA00020A4 0 = .instr (.jr { d := 1, a := 2, pr := 5 }) ∧
    decodeKernel 0xA0000026 0 = .instr (.endCommit { pr := 5 }) ∧
    decodeKernel 0xA0400026 0 = .instr (.endRetry { pr := 5 }) ∧
    decodeKernel 0xA0800026 0 = .instr (.endFail { pr := 5 }) ∧
    decodeKernel 0xA0002028 0 = .instr (.regionOpen { a := 2, pr := 5 }) ∧
    decodeKernel 0xA0400028 0 = .instr (.regionClose { pr := 5 }) ∧
    decodeKernel 0x0000002A 0 = .instr (.gangSplit {}) ∧
    decodeKernel 0x000050AA 0 = .instr (.gangFuse { lo := 1, disp := 5 }) ∧
    decodeKernel 0x0000012A 0 = .instr (.gangAlign { lo := 2 }) ∧
    decodeKernel 0xA006005C 0 = .instr (.waitLe { b := 3, pr := 5 }) ∧
    decodeKernel 0xA046005C 0 = .instr (.waitLex { b := 3, pr := 5 }) ∧
    decodeKernel 0xA0062064 0 = .instr (.fenceOrd { a := 2, b := 3, pr := 5 }) ∧
    decodeKernel 0x002A206A 0 = .instr (.trap { a := 2, imm := 21 }) ∧
    decodeKernel 0x008000EC 0 = .instr (.sysR { d := 1, imm := 64 }) ∧
    decodeKernel 0x0080206C 0 = .instr (.sysW { a := 2, imm := 64 }) := by
  and_intros <;> rfl
theorem words_vector_arithmetic :
    decodeKernel 0x000620B0 0 = .instr (.varithAdd { d := 1, a := 2, b := 3 }) ∧
    decodeKernel 0x004620B0 0 = .instr (.varithSub { d := 1, a := 2, b := 3 }) ∧
    decodeKernel 0x008620B0 0 = .instr (.varithMul { d := 1, a := 2, b := 3 }) ∧
    decodeKernel 0x00C620B0 0 = .instr (.varithMin { d := 1, a := 2, b := 3 }) ∧
    decodeKernel 0x010620B0 0 = .instr (.varithMax { d := 1, a := 2, b := 3 }) ∧
    decodeKernel 0x074620B0 0 = .instr (.varithAdds { d := 1, a := 2, b := 3, q := 3 }) ∧
    decodeKernel 0x078620B0 0 = .instr (.varithSubs { d := 1, a := 2, b := 3, q := 3 }) ∧
    decodeKernel 0x01C020B0 0 = .instr (.varithAbs { d := 1, a := 2 }) ∧
    decodeKernel 0x000620B2 0 = .instr (.vfmaFma { d := 1, a := 2, b := 3 }) ∧
    decodeKernel 0x004620B2 0 = .instr (.vfmaFms { d := 1, a := 2, b := 3 }) ∧
    decodeKernel 0x008620B2 0 = .instr (.vfmaFnma { d := 1, a := 2, b := 3 }) ∧
    decodeKernel 0x00C620B2 0 = .instr (.vfmaFnms { d := 1, a := 2, b := 3 }) ∧
    decodeKernel 0x000620C0 0 = .instr (.vdotBf16 { d := 1, a := 2, b := 3 }) ∧
    decodeKernel 0x004620C0 0 = .instr (.vdotFp16 { d := 1, a := 2, b := 3 }) ∧
    decodeKernel 0x008620C0 0 = .instr (.vdotE4m3 { d := 1, a := 2, b := 3 }) ∧
    decodeKernel 0x00C620C0 0 = .instr (.vdotE5m2 { d := 1, a := 2, b := 3 }) ∧
    decodeKernel 0x010620C0 0 = .instr (.vdotI8 { d := 1, a := 2, b := 3 }) ∧
    decodeKernel 0x014620C0 0 = .instr (.vdotU8 { d := 1, a := 2, b := 3 }) ∧
    decodeKernel 0x018620C0 0 = .instr (.vdotI8u8 { d := 1, a := 2, b := 3 }) ∧
    decodeKernel 0x000020BE 0 = .instr (.vredAdd { d := 1, a := 2 }) ∧
    decodeKernel 0x004020BE 0 = .instr (.vredMin { d := 1, a := 2 }) ∧
    decodeKernel 0x008020BE 0 = .instr (.vredMax { d := 1, a := 2 }) ∧
    decodeKernel 0x02C020BE 0 = .instr (.vredAddw { d := 1, a := 2, q := 1 }) ∧
    decodeKernel 0x070020BE 0 = .instr (.vredAnd { d := 1, a := 2, q := 3 }) ∧
    decodeKernel 0x074020BE 0 = .instr (.vredOr { d := 1, a := 2, q := 3 }) ∧
    decodeKernel 0x078020BE 0 = .instr (.vredXor { d := 1, a := 2, q := 3 }) ∧
    decodeKernel 0x01C020BE 0 = .instr (.vredImax { d := 1, a := 2 }) ∧
    decodeKernel 0x000620B4 0 = .instr (.vlogicAnd { d := 1, a := 2, b := 3 }) ∧
    decodeKernel 0x004620B4 0 = .instr (.vlogicOr { d := 1, a := 2, b := 3 }) ∧
    decodeKernel 0x008620B4 0 = .instr (.vlogicXor { d := 1, a := 2, b := 3 }) ∧
    decodeKernel 0x00C620B4 0 = .instr (.vlogicAndn { d := 1, a := 2, b := 3 }) ∧
    decodeKernel 0x010020B4 0 = .instr (.vlogicNot { d := 1, a := 2 }) ∧
    decodeKernel 0x074620B4 0 = .instr (.vlogicShl { d := 1, a := 2, b := 3, q := 3 }) ∧
    decodeKernel 0x098620B4 0 = .instr (.vlogicShr { d := 1, a := 2, b := 3, q := 4 }) ∧
    decodeKernel 0x0BC620B4 0 = .instr (.vlogicSra { d := 1, a := 2, b := 3, q := 5 }) ∧
    decodeKernel 0x000620B6 0 = .instr (.vcmpEq { d := 1, a := 2, b := 3 }) ∧
    decodeKernel 0x004620B6 0 = .instr (.vcmpNe { d := 1, a := 2, b := 3 }) ∧
    decodeKernel 0x008620B6 0 = .instr (.vcmpLt { d := 1, a := 2, b := 3 }) ∧
    decodeKernel 0x00C620B6 0 = .instr (.vcmpLe { d := 1, a := 2, b := 3 }) ∧
    decodeKernel 0x070620B6 0 = .instr (.vcmpLtu { d := 1, a := 2, b := 3, q := 3 }) ∧
    decodeKernel 0x074620B6 0 = .instr (.vcmpLeu { d := 1, a := 2, b := 3, q := 3 }) ∧
    decodeKernel 0x018620B6 0 = .instr (.vcmpUn { d := 1, a := 2, b := 3 }) := by
  and_intros <;> rfl
theorem words_vector_moves :
    decodeKernel 0x000620B8 0 = .instr (.vselSel { d := 1, a := 2, b := 3 }) ∧
    decodeKernel 0x004020B8 0 = .instr (.vselZero { d := 1, a := 2 }) ∧
    decodeKernel 0x008020B8 0 = .instr (.vselCmpr { d := 1, a := 2 }) ∧
    decodeKernel 0x00C020B8 0 = .instr (.vselExpd { d := 1, a := 2 }) ∧
    decodeKernel 0x000620BA 0 = .instr (.vcvtRne { d := 1, a := 2, b := 3 }) ∧
    decodeKernel 0x004620BA 0 = .instr (.vcvtRtz { d := 1, a := 2, b := 3 }) ∧
    decodeKernel 0x008620BA 0 = .instr (.vcvtRup { d := 1, a := 2, b := 3 }) ∧
    decodeKernel 0x00C620BA 0 = .instr (.vcvtRdn { d := 1, a := 2, b := 3 }) ∧
    decodeKernel 0x010620BA 0 = .instr (.vcvtSto { d := 1, a := 2, b := 3 }) ∧
    decodeKernel 0x014620BA 0 = .instr (.vcvtWide { d := 1, a := 2, b := 3 }) ∧
    decodeKernel 0x000620CC 0 = .instr (.vscaleLdexp { d := 1, a := 2, b := 3 }) ∧
    decodeKernel 0x004620CC 0 = .instr (.vscaleMx { d := 1, a := 2, b := 3 }) ∧
    decodeKernel 0x008620CC 0 = .instr (.vscaleSb4 { d := 1, a := 2, b := 3 }) ∧
    decodeKernel 0x00C620CC 0 = .instr (.vscaleCb { d := 1, a := 2, b := 3 }) ∧
    decodeKernel 0x020020CA 0 = .instr (.vcbDec { d := 1, a := 2, q := 1 }) ∧
    decodeKernel 0x000020C2 0 = .instr (.vsfuExp2 { d := 1, a := 2 }) ∧
    decodeKernel 0x004020C2 0 = .instr (.vsfuLog2 { d := 1, a := 2 }) ∧
    decodeKernel 0x008020C2 0 = .instr (.vsfuRcp { d := 1, a := 2 }) ∧
    decodeKernel 0x00C020C2 0 = .instr (.vsfuRsqrt { d := 1, a := 2 }) ∧
    decodeKernel 0x010020C2 0 = .instr (.vsfuSqrt { d := 1, a := 2 }) ∧
    decodeKernel 0x014020C2 0 = .instr (.vsfuSin { d := 1, a := 2 }) ∧
    decodeKernel 0x018020C2 0 = .instr (.vsfuCos { d := 1, a := 2 }) ∧
    decodeKernel 0x01C020C2 0 = .instr (.vsfuTanh { d := 1, a := 2 }) ∧
    decodeKernel 0x000020C4 0 = .instr (.vsfu2Sigm { d := 1, a := 2 }) ∧
    decodeKernel 0x004020C4 0 = .instr (.vsfu2Gelut { d := 1, a := 2 }) ∧
    decodeKernel 0x008020C4 0 = .instr (.vsfu2Gelue { d := 1, a := 2 }) ∧
    decodeKernel 0x00C020C4 0 = .instr (.vsfu2Silu { d := 1, a := 2 }) ∧
    decodeKernel 0x010020C4 0 = .instr (.vsfu2Erf { d := 1, a := 2 }) ∧
    decodeKernel 0x014020C4 0 = .instr (.vsfu2Softp { d := 1, a := 2 }) ∧
    decodeKernel 0x000020C6 0 = .instr (.vmovMov { d := 1, a := 2 }) ∧
    decodeKernel 0x004020C6 0 = .instr (.vmovBcast { d := 1, a := 2 }) ∧
    decodeKernel 0x008620C6 0 = .instr (.vmovIns { d := 1, a := 2, b := 3 }) ∧
    decodeKernel 0x00C620C6 0 = .instr (.vmovExt { d := 1, a := 2, b := 3 }) ∧
    decodeKernel 0x0A0620BC 0 = .instr (.vpermPerm { d := 1, a := 2, b := 3, q := 5 }) ∧
    decodeKernel 0x004620BC 0 = .instr (.vpermZiplo { d := 1, a := 2, b := 3 }) ∧
    decodeKernel 0x008620BC 0 = .instr (.vpermZiphi { d := 1, a := 2, b := 3 }) ∧
    decodeKernel 0x00C620BC 0 = .instr (.vpermUzpe { d := 1, a := 2, b := 3 }) ∧
    decodeKernel 0x010620BC 0 = .instr (.vpermUzpo { d := 1, a := 2, b := 3 }) ∧
    decodeKernel 0x014620BC 0 = .instr (.vpermSplat { d := 1, a := 2, b := 3 }) ∧
    decodeKernel 0x018020BC 0 = .instr (.vpermRev { d := 1, a := 2 }) ∧
    decodeKernel 0x0201F0C8 0 = .instr (.vlinkPop { d := 1, a := 31, q := 1 }) ∧
    decodeKernel 0x0041F0C8 0 = .instr (.vlinkPeek { d := 1, a := 31 }) ∧
    decodeKernel 0x0281F048 0 = .instr (.vlinkSkip { a := 31, q := 1 }) := by
  and_intros <;> rfl
theorem words_messages :
    decodeKernel 0xA0062050 0 = .instr (.sendX { a := 2, b := 3, pr := 5 }) ∧
    decodeKernel 0xA0462050 0 = .instr (.sendV { a := 2, b := 3, pr := 5 }) ∧
    decodeKernel 0xA08620D0 0 = .instr (.sendNz { d := 1, a := 2, b := 3, pr := 5 }) ∧
    decodeKernel 0xA00000D2 0 = .instr (.recvW { d := 1, pr := 5 }) ∧
    decodeKernel 0xA04600D2 0 = .instr (.recvTry { d := 1, b := 3, pr := 5 }) ∧
    decodeKernel 0xA08000D2 0 = .instr (.recvHdr { d := 1, pr := 5 }) ∧
    decodeKernel 0xA0C00052 0 = .instr (.recvDrop { pr := 5 }) ∧
    decodeKernel 0xA00620D4 0 = .instr (.chanSlot { d := 1, a := 2, b := 3, pr := 5 }) ∧
    decodeKernel 0xA04620D4 0 = .instr (.chanHdr { d := 1, a := 2, b := 3, pr := 5 }) ∧
    decodeKernel 0xA08020D4 0 = .instr (.chanCnt { d := 1, a := 2, pr := 5 }) ∧
    decodeKernel 0xA0062056 0 = .instr (.barInit { a := 2, b := 3, pr := 5 }) ∧
    decodeKernel 0xA04020D6 0 = .instr (.barArrive { d := 1, a := 2, pr := 5 }) ∧
    decodeKernel 0xA0802056 0 = .instr (.barWait { a := 2, pr := 5 }) ∧
    decodeKernel 0xA0C020D6 0 = .instr (.barSync { d := 1, a := 2, pr := 5 }) ∧
    decodeKernel 0xA10020D6 0 = .instr (.barQuery { d := 1, a := 2, pr := 5 }) ∧
    decodeKernel 0xA00020DE 0 = .instr (.feTest { d := 1, a := 2, pr := 5 }) ∧
    decodeKernel 0xA040205E 0 = .instr (.feSet { a := 2, pr := 5 }) ∧
    decodeKernel 0xA080205E 0 = .instr (.feClr { a := 2, pr := 5 }) ∧
    decodeKernel 0xA0C020DE 0 = .instr (.feTas { d := 1, a := 2, pr := 5 }) ∧
    decodeKernel 0xA106205E 0 = .instr (.feSetr { a := 2, b := 3, pr := 5 }) ∧
    decodeKernel 0xA146205E 0 = .instr (.feClrr { a := 2, b := 3, pr := 5 }) := by
  and_intros <;> rfl
theorem words_immediates_and_memory :
    decodeKernel 0x10000081 0x12345678 = .instr (.moviLo { o := { d := 1, k := 1 }, imm := 0x12345678 }) ∧
    decodeKernel 0x10400081 0x12345678 = .instr (.moviHi { o := { d := 1, k := 1 }, imm := 0x12345678 }) ∧
    decodeKernel 0x10800081 0x12345678 = .instr (.moviZ { o := { d := 1, k := 1 }, imm := 0x12345678 }) ∧
    decodeKernel 0x00002083 0xFFFFFFF0 = .instr (.alulAdd { o := { d := 1, a := 2 }, imm := 0xfffffff0 }) ∧
    decodeKernel 0x00402083 0xFFFFFFF0 = .instr (.alulAnd { o := { d := 1, a := 2 }, imm := 0xfffffff0 }) ∧
    decodeKernel 0x00802083 0xFFFFFFF0 = .instr (.alulOr { o := { d := 1, a := 2 }, imm := 0xfffffff0 }) ∧
    decodeKernel 0x00C02083 0xFFFFFFF0 = .instr (.alulXor { o := { d := 1, a := 2 }, imm := 0xfffffff0 }) ∧
    decodeKernel 0x01002083 0x0000001F = .instr (.alulShl { o := { d := 1, a := 2 }, imm := 0x1f }) ∧
    decodeKernel 0x01402083 0x0000001F = .instr (.alulShr { o := { d := 1, a := 2 }, imm := 0x1f }) ∧
    decodeKernel 0x01802083 0x0000001F = .instr (.alulSra { o := { d := 1, a := 2 }, imm := 0x1f }) ∧
    decodeKernel 0x00062091 0x24CFFFF8 = .instr (.ldB { o := { d := 1, a := 2, b := 3 }, sx := 2, pol := 2, nu := 12, off := 0xffff8 }) ∧
    decodeKernel 0x00462091 0x24CFFFF8 = .instr (.ldH { o := { d := 1, a := 2, b := 3 }, sx := 2, pol := 2, nu := 12, off := 0xffff8 }) ∧
    decodeKernel 0x00862091 0x24CFFFF8 = .instr (.ldW { o := { d := 1, a := 2, b := 3 }, sx := 2, pol := 2, nu := 12, off := 0xffff8 }) ∧
    decodeKernel 0x00C62091 0x24CFFFF8 = .instr (.ldD { o := { d := 1, a := 2, b := 3 }, sx := 2, pol := 2, nu := 12, off := 0xffff8 }) ∧
    decodeKernel 0x01062091 0x24CFFFF8 = .instr (.ldBs { o := { d := 1, a := 2, b := 3 }, sx := 2, pol := 2, nu := 12, off := 0xffff8 }) ∧
    decodeKernel 0x01462091 0x24CFFFF8 = .instr (.ldHs { o := { d := 1, a := 2, b := 3 }, sx := 2, pol := 2, nu := 12, off := 0xffff8 }) ∧
    decodeKernel 0x01862091 0x24CFFFF8 = .instr (.ldWs { o := { d := 1, a := 2, b := 3 }, sx := 2, pol := 2, nu := 12, off := 0xffff8 }) ∧
    decodeKernel 0x00062093 0x24CFFFF8 = .instr (.stB { o := { d := 1, a := 2, b := 3 }, sx := 2, pol := 2, nu := 12, off := 0xffff8 }) ∧
    decodeKernel 0x00462093 0x24CFFFF8 = .instr (.stH { o := { d := 1, a := 2, b := 3 }, sx := 2, pol := 2, nu := 12, off := 0xffff8 }) ∧
    decodeKernel 0x00862093 0x24CFFFF8 = .instr (.stW { o := { d := 1, a := 2, b := 3 }, sx := 2, pol := 2, nu := 12, off := 0xffff8 }) ∧
    decodeKernel 0x00C62093 0x24CFFFF8 = .instr (.stD { o := { d := 1, a := 2, b := 3 }, sx := 2, pol := 2, nu := 12, off := 0xffff8 }) ∧
    decodeKernel 0x00062095 0x24CFFFF8 = .instr (.vldV { o := { d := 1, a := 2, b := 3 }, sx := 2, pol := 2, nu := 12, off := 0xffff8 }) ∧
    decodeKernel 0x00462095 0x24CFFFF8 = .instr (.vldBc { o := { d := 1, a := 2, b := 3 }, sx := 2, pol := 2, nu := 12, off := 0xffff8 }) ∧
    decodeKernel 0x00062097 0x24CFFFF8 = .instr (.vstV { o := { d := 1, a := 2, b := 3 }, sx := 2, pol := 2, nu := 12, off := 0xffff8 }) ∧
    decodeKernel 0x00462097 0x24CFFFF8 = .instr (.vstE { o := { d := 1, a := 2, b := 3 }, sx := 2, pol := 2, nu := 12, off := 0xffff8 }) ∧
    decodeKernel 0x00062099 0x24CFFFF8 = .instr (.ldfKeep { o := { d := 1, a := 2, b := 3 }, sx := 2, pol := 2, nu := 12, off := 0xffff8 }) ∧
    decodeKernel 0x00462099 0x24CFFFF8 = .instr (.ldfTake { o := { d := 1, a := 2, b := 3 }, sx := 2, pol := 2, nu := 12, off := 0xffff8 }) ∧
    decodeKernel 0x0006209B 0x24CFFFF8 = .instr (.steFill { o := { d := 1, a := 2, b := 3 }, sx := 2, pol := 2, nu := 12, off := 0xffff8 }) ∧
    decodeKernel 0x0046209B 0x24CFFFF8 = .instr (.steKeep { o := { d := 1, a := 2, b := 3 }, sx := 2, pol := 2, nu := 12, off := 0xffff8 }) ∧
    decodeKernel 0x00002021 0x00000100 = .instr (.cachePf { o := { a := 2 }, off := 0x100 }) ∧
    decodeKernel 0x00402021 0x00000100 = .instr (.cachePfl1 { o := { a := 2 }, off := 0x100 }) ∧
    decodeKernel 0x00802021 0x00000100 = .instr (.cacheNu { o := { a := 2 }, off := 0x100 }) ∧
    decodeKernel 0x00C02021 0x00000100 = .instr (.cacheWb { o := { a := 2 }, off := 0x100 }) ∧
    decodeKernel 0x01002021 0x00000100 = .instr (.cacheWbinv { o := { a := 2 }, off := 0x100 }) ∧
    decodeKernel 0x000000A3 0x00000000 = .instr (.rclkRead { o := { d := 1 } }) ∧
    decodeKernel 0x00400023 0x00020000 = .instr (.rclkAdv { o := {}, imm := 0x20000 }) ∧
    decodeKernel 0x00800023 0x00000114 = .instr (.rclkDflt { o := {}, imm := 0x114 }) ∧
    decodeKernel 0x000620A5 0x00000000 = .instr (.pinWin { o := { d := 1, a := 2, b := 3 } }) ∧
    decodeKernel 0x004020A5 0x00000000 = .instr (.pinSize { o := { d := 1, a := 2 } }) := by
  and_intros <;> rfl
theorem words_atomics :
    decodeKernel 0x000620A9 0x00C00010 = .instr (.amoAdd { o := { d := 1, a := 2, b := 3 }, nu := 12, off := 0x10 }) ∧
    decodeKernel 0x004620A9 0x00C00010 = .instr (.amoAddb { o := { d := 1, a := 2, b := 3 }, nu := 12, off := 0x10 }) ∧
    decodeKernel 0x008620A9 0x00C00010 = .instr (.amoMin { o := { d := 1, a := 2, b := 3 }, nu := 12, off := 0x10 }) ∧
    decodeKernel 0x00C620A9 0x00C00010 = .instr (.amoMax { o := { d := 1, a := 2, b := 3 }, nu := 12, off := 0x10 }) ∧
    decodeKernel 0x010620A9 0x00C00010 = .instr (.amoAnd { o := { d := 1, a := 2, b := 3 }, nu := 12, off := 0x10 }) ∧
    decodeKernel 0x014620A9 0x00C00010 = .instr (.amoOr { o := { d := 1, a := 2, b := 3 }, nu := 12, off := 0x10 }) ∧
    decodeKernel 0x018620A9 0x00C00010 = .instr (.amoXor { o := { d := 1, a := 2, b := 3 }, nu := 12, off := 0x10 }) ∧
    decodeKernel 0x01C620A9 0x00C00010 = .instr (.amoSwap { o := { d := 1, a := 2, b := 3 }, nu := 12, off := 0x10 }) ∧
    decodeKernel 0x000620AB 0x00C00010 = .instr (.cas { o := { d := 1, a := 2, b := 3 }, nu := 12, off := 0x10 }) ∧
    decodeKernel 0x0006202D 0x06C00010 = .instr (.redAdd { o := { a := 2, b := 3 }, pol := 3, nu := 12, off := 0x10 }) ∧
    decodeKernel 0x0046202D 0x06C00010 = .instr (.redMin { o := { a := 2, b := 3 }, pol := 3, nu := 12, off := 0x10 }) ∧
    decodeKernel 0x0086202D 0x06C00010 = .instr (.redMax { o := { a := 2, b := 3 }, pol := 3, nu := 12, off := 0x10 }) ∧
    decodeKernel 0x00C6202D 0x06C00010 = .instr (.redAnd { o := { a := 2, b := 3 }, pol := 3, nu := 12, off := 0x10 }) ∧
    decodeKernel 0x0106202D 0x06C00010 = .instr (.redOr { o := { a := 2, b := 3 }, pol := 3, nu := 12, off := 0x10 }) ∧
    decodeKernel 0x0146202D 0x06C00010 = .instr (.redXor { o := { a := 2, b := 3 }, pol := 3, nu := 12, off := 0x10 }) ∧
    decodeKernel 0x0186202D 0x06C00010 = .instr (.redFmin { o := { a := 2, b := 3 }, pol := 3, nu := 12, off := 0x10 }) ∧
    decodeKernel 0x01C6202D 0x06C00010 = .instr (.redFmax { o := { a := 2, b := 3 }, pol := 3, nu := 12, off := 0x10 }) ∧
    decodeKernel 0x000020AF 0x00000010 = .instr (.xlatProbe { o := { d := 1, a := 2 }, off := 0x10 }) ∧
    decodeKernel 0x004020AF 0x00000010 = .instr (.xlatTouch { o := { d := 1, a := 2 }, off := 0x10 }) ∧
    decodeKernel 0x0080202F 0x00000010 = .instr (.xlatInv { o := { a := 2 }, off := 0x10 }) := by
  and_intros <;> rfl
theorem words_engines_and_tasks :
    decodeKernel 0x000280B1 0x326090A6 = .instr (.taskMma { o := { d := 1, a := 8, b := 1 }, fo := 1, fb := 18, shape := 6, ver := 1, nuw := 4, nur := 5, guard := 6 }) ∧
    decodeKernel 0x004280B1 0x326090A6 = .instr (.taskMmav { o := { d := 1, a := 8, b := 1 }, fo := 1, fb := 18, shape := 6, ver := 1, nuw := 4, nur := 5, guard := 6 }) ∧
    decodeKernel 0x008280B1 0x020010A6 = .instr (.taskEw { o := { d := 1, a := 8, b := 1 }, fb := 2, nuw := 4, nur := 5, guard := 6 }) ∧
    decodeKernel 0x00C280B1 0x000010A6 = .instr (.taskRed { o := { d := 1, a := 8, b := 1 }, nuw := 4, nur := 5, guard := 6 }) ∧
    decodeKernel 0x010280B1 0x000010A6 = .instr (.taskCvt { o := { d := 1, a := 8, b := 1 }, nuw := 4, nur := 5, guard := 6 }) ∧
    decodeKernel 0x014280B1 0x200010A6 = .instr (.taskTr { o := { d := 1, a := 8, b := 1 }, fo := 1, nuw := 4, nur := 5, guard := 6 }) ∧
    decodeKernel 0x000154B3 0x00000000 = .instr (.vstopCur { o := { d := 9, a := 21 } }) ∧
    decodeKernel 0x000154B5 0x00000002 = .instr (.vwaitVer { o := { d := 9, a := 21 }, imm := 0x2 }) ∧
    decodeKernel 0x004154B5 0x00000000 = .instr (.vwaitFin { o := { d := 9, a := 21 } }) ∧
    decodeKernel 0x008004B5 0x00000005 = .instr (.vwaitSet { o := { d := 9 }, imm := 0x5 }) ∧
    decodeKernel 0x00C154B5 0x00000005 = .instr (.vwaitSets { o := { d := 9, a := 21 }, imm := 0x5 }) ∧
    decodeKernel 0x010154B5 0x00000000 = .instr (.vwaitPoll { o := { d := 9, a := 21 } }) ∧
    decodeKernel 0x0000E037 0x12000000 = .instr (.cbldMe { o := { a := 14 }, fb := 18 }) ∧
    decodeKernel 0x0040E037 0x12000000 = .instr (.cbldNb { o := { a := 14 }, fb := 18 }) ∧
    decodeKernel 0x000020C1 0x000600A6 = .instr (.copyCp { o := { d := 1, a := 2 }, sg := 3, nur := 5, guard := 6 }) ∧
    decodeKernel 0x004020C1 0x00061006 = .instr (.copyFill { o := { d := 1, a := 2 }, sg := 3, nuw := 4, guard := 6 }) ∧
    decodeKernel 0x008020C1 0x000600A6 = .instr (.copyChan { o := { d := 1, a := 2 }, sg := 3, nur := 5, guard := 6 }) ∧
    decodeKernel 0x014020C1 0x00000000 = .instr (.copyStat { o := { d := 1, a := 2 } }) ∧
    decodeKernel 0x018020C1 0x00000000 = .instr (.copyRsm { o := { d := 1, a := 2 } }) ∧
    decodeKernel 0x01C020C1 0x00000000 = .instr (.copyAbrt { o := { d := 1, a := 2 } }) ∧
    decodeKernel 0x000020C3 0x00000000 = .instr (.gatherG { o := { d := 1, a := 2 } }) ∧
    decodeKernel 0x004020C3 0x00000000 = .instr (.gatherS { o := { d := 1, a := 2 } }) ∧
    decodeKernel 0x000020C5 0x00000000 = .instr (.twalkLd { o := { d := 1, a := 2 } }) ∧
    decodeKernel 0x004020C5 0x00000000 = .instr (.twalkWb { o := { d := 1, a := 2 } }) ∧
    decodeKernel 0x000220C7 0x00300006 = .instr (.nbmvMv { o := { d := 1, a := 2, b := 1 }, shape := 3, guard := 6 }) ∧
    decodeKernel 0x000300C9 0x00000000 = .instr (.attnBlk { o := { d := 1, a := 16, b := 1 } }) ∧
    decodeKernel 0x004180C9 0x00000000 = .instr (.attnMrg { o := { d := 1, a := 24 } }) ∧
    decodeKernel 0x0000A0CB 0x00000000 = .instr (.sampleHist { o := { d := 1, a := 10 } }) ∧
    decodeKernel 0x0040A0CB 0x00000000 = .instr (.sampleThr { o := { d := 1, a := 10 } }) ∧
    decodeKernel 0x0080A0CB 0x00000000 = .instr (.sampleMass { o := { d := 1, a := 10 } }) ∧
    decodeKernel 0x00C0A0CB 0x00000000 = .instr (.sampleDraw { o := { d := 1, a := 10 } }) ∧
    decodeKernel 0x000020CD 0x00000000 = .instr (.textNorm { o := { d := 1, a := 2 } }) ∧
    decodeKernel 0x004020CD 0x00000000 = .instr (.textTbl { o := { d := 1, a := 2 } }) := by
  and_intros <;> rfl
theorem words_agents :
    decodeAgent 0x0000000700000101 = .instr (.aMoviLo { imm := 7, x := 1 }) ∧
    decodeAgent 0x0000000701000101 = .instr (.aMoviHi { imm := 7, m := 1, x := 1 }) ∧
    decodeAgent 0x0000000702000101 = .instr (.aMoviZ { imm := 7, m := 2, x := 1 }) ∧
    decodeAgent 0x0000000000002102 = .instr (.aMov { y := 2, x := 1 }) ∧
    decodeAgent 0x0000000000054303 = .instr (.aAdd { z := 5, y := 4, x := 3 }) ∧
    decodeAgent 0x0000000101004304 = .instr (.aSub { imm := 1, m := 1, y := 4, x := 3 }) ∧
    decodeAgent 0x0000000000054305 = .instr (.aAnd { z := 5, y := 4, x := 3 }) ∧
    decodeAgent 0x0000000000054306 = .instr (.aOr { z := 5, y := 4, x := 3 }) ∧
    decodeAgent 0x0000000000054307 = .instr (.aXor { z := 5, y := 4, x := 3 }) ∧
    decodeAgent 0x0000000000054308 = .instr (.aShl { z := 5, y := 4, x := 3 }) ∧
    decodeAgent 0x0000000002054309 = .instr (.aShr { m := 2, z := 5, y := 4, x := 3 }) ∧
    decodeAgent 0x000000000005430A = .instr (.aMul { z := 5, y := 4, x := 3 }) ∧
    decodeAgent 0x000000000405430B = .instr (.aCmp { m := 4, z := 5, y := 4, x := 3 }) ∧
    decodeAgent 0x0000004001004010 = .instr (.aBr { imm := 64, m := 1, y := 4 }) ∧
    decodeAgent 0x0000004000000011 = .instr (.aJmp { imm := 64 }) ∧
    decodeAgent 0x0000004000000312 = .instr (.aCall { imm := 64, x := 3 }) ∧
    decodeAgent 0x0000000000004013 = .instr (.aRet { y := 4 }) ∧
    decodeAgent 0x0000000803004318 = .instr (.aLd { imm := 8, m := 3, y := 4, x := 3 }) ∧
    decodeAgent 0x0000010001000419 = .instr (.aSt { imm := 256, m := 1, x := 4 }) ∧
    decodeAgent 0x0000000000009020 = .instr (.aWaitPend { y := 9 }) ∧
    decodeAgent 0x0000000001009320 = .instr (.aWaitSig { m := 1, y := 9, x := 3 }) ∧
    decodeAgent 0x0000000002000020 = .instr (.aWaitAll { m := 2 }) ∧
    decodeAgent 0x0000000000054021 = .instr (.aSigSlot { z := 5, y := 4 }) ∧
    decodeAgent 0x0000000001009021 = .instr (.aSigHost { m := 1, y := 9 }) ∧
    decodeAgent 0x0000000000000022 = .instr (.aYield {}) ∧
    decodeAgent 0x0000000000009023 = .instr (.aHalt { y := 9 }) ∧
    decodeAgent 0x0000000000004328 = .instr (.aKlaunch { y := 4, x := 3 }) ∧
    decodeAgent 0x0000000000000029 = .instr (.aFence {}) ∧
    decodeAgent 0x0000000000001040 = .instr (.cNew { y := 1 }) ∧
    decodeAgent 0x0000000000032141 = .instr (.cFork { z := 3, y := 2, x := 1 }) ∧
    decodeAgent 0x0000000000000142 = .instr (.cDrop { x := 1 }) ∧
    decodeAgent 0x0000000000032143 = .instr (.cTrim { z := 3, y := 2, x := 1 }) ∧
    decodeAgent 0x0000000002002144 = .instr (.cLen { m := 2, y := 2, x := 1 }) ∧
    decodeAgent 0x0000002000870645 = .instr (.cRead { imm := 32, w := 8, z := 7, x := 6 }) ∧
    decodeAgent 0x0000000000002146 = .instr (.cHint { y := 2, x := 1 }) ∧
    decodeAgent 0x0000000000000847 = .instr (.cPin { x := 8 }) ∧
    decodeAgent 0x0000000000000148 = .instr (.cUnpin { x := 1 }) ∧
    decodeAgent 0x0000000000032149 = .instr (.cProg { z := 3, y := 2, x := 1 }) ∧
    decodeAgent 0x000000000002034A = .instr (.cBind { z := 2, x := 3 }) ∧
    decodeAgent 0x000100000003214B = .instr (.cGram { imm := 65536, z := 3, y := 2, x := 1 }) ∧
    decodeAgent 0x000000000000214C = .instr (.cSamp { y := 2, x := 1 }) ∧
    decodeAgent 0x0000000000650760 = .instr (.cApp { w := 6, z := 5, x := 7 }) ∧
    decodeAgent 0x0000000000080961 = .instr (.cGen { z := 8, x := 9 }) ∧
    decodeAgent 0x0000000800432162 = .instr (.cScore { imm := 8, w := 4, z := 3, y := 2, x := 1 }) ∧
    decodeAgent 0x0000000800432163 = .instr (.cChoose { imm := 8, w := 4, z := 3, y := 2, x := 1 }) ∧
    decodeAgent 0x0000000853432164 = .instr (.cSpec { imm := 8, m := 83, w := 4, z := 3, y := 2, x := 1 }) := by
  and_intros <;> rfl

/-! ### Ill-formed terms are refused

One term for each check of WellFormed.lean and of Machine/Forms.lean, each just past the range that the spec gives. -/

/-- A field out of the range of what it names, and a field that is not used (R65, R71). -/
theorem test_refused_registers :
    wellFormed (.aluAdd { q := 2 }) = false ∧
    wellFormed (.varithAdd { q := 6 }) = false ∧
    wellFormed (.vmovMov { k := 1 }) = false ∧
    wellFormed (.cmpEq { d := 8 }) = false ∧
    wellFormed (.cmpiEq { d := 8 }) = false ∧
    wellFormed (.plogNot { b := 1 }) = false ∧
    wellFormed (.vpermPerm { q := 5, d := 30 }) = false ∧
    wellFormed (.vlinkPop { a := 29 }) = false ∧
    wellFormed (.barInit { a := 4 }) = false ∧
    wellFormed (.chanSlot { a := 16 }) = false ∧
    wellFormed (.chanHdr { a := 8 }) = false ∧
    wellFormed (.gmovAny { d := 8 }) = false ∧
    wellFormed (.gmovGet { k := 1 }) = false ∧
    wellFormed (.vmovExt { pr := 1 }) = false ∧
    wellFormed (.vlinkSkip { a := 30, pr := 1 }) = false ∧
    wellFormed (.waitLe { q := 5 }) = false ∧
    wellFormed (.idLane { q := 4 }) = false ∧
    wellFormed (.trap { d := 1, imm := 1 }) = false ∧
    wellFormed (.gangSplit { lo := 1 }) = false ∧
    wellFormed (.gangSplit { disp := 1 }) = false ∧
    wellFormed (.gangFuse { lo := 0 }) = false ∧
    wellFormed (.gangAlign { lo := 2, disp := 1 }) = false := by
  and_intros <;> decide

/-- Types and formats that an operation does not take (R141, R143, R154, R156). -/
theorem test_refused_operations :
    wellFormed (.varithAdds { q := 0 }) = false ∧
    wellFormed (.vredAddw { q := 3 }) = false ∧
    wellFormed (.vcmpUn { q := 3 }) = false ∧
    wellFormed (.vcbDec { q := 0 }) = false ∧
    wellFormed (.vpermPerm { q := 4 }) = false ∧
    wellFormed (.vcvtRne { b := 14 }) = false ∧
    wellFormed (.vcvtRne { b := 8, pr := 1 }) = false ∧
    wellFormed (.vcvtWide { q := 5, b := 11 }) = false ∧
    wellFormed (.vcvtWide { q := 0, b := 0 }) = false := by
  and_intros <;> decide

/-- Reserved fields and ranges of the memory words (R70, R123, R187, R222, R243). -/
theorem test_refused_memory :
    wellFormed (.ldD { pol := 4 }) = false ∧
    wellFormed (.cachePf { sx := 1 }) = false ∧
    wellFormed (.cachePf { pol := 1 }) = false ∧
    wellFormed (.cacheWb { nu := 1 }) = false ∧
    wellFormed (.redAdd { pol := 1 }) = false ∧
    wellFormed (.amoMin { o := { q := 4 } }) = false ∧
    wellFormed (.alulShl { imm := 64 }) = false ∧
    wellFormed (.alulShl { o := { q := 1 }, imm := 32 }) = false ∧
    wellFormed (.rclkRead { imm := 1 }) = false ∧
    wellFormed (.rclkAdv { imm := 0 }) = false ∧
    wellFormed (.rclkAdv { imm := 131073 }) = false ∧
    wellFormed (.rclkDflt { imm := 30 }) = false ∧
    wellFormed (.rclkDflt { imm := 0x201 }) = false ∧
    wellFormed (.rclkDflt { imm := 0 }) = false ∧
    wellFormed (.pinWin { sx := 1 }) = false := by
  and_intros <;> decide

/-- System registers that do not exist or are read only (R62, R68). -/
theorem test_refused_system :
    wellFormed (.sysR { d := 1, imm := 0x016 }) = false ∧
    wellFormed (.sysR { d := 0, imm := 0 }) = false ∧
    wellFormed (.sysR { d := 1, a := 1, imm := 0 }) = false ∧
    wellFormed (.sysR { d := 1, imm := 0x107 }) = false ∧
    wellFormed (.sysW { a := 1, imm := 0 }) = false ∧
    wellFormed (.sysW { d := 1, a := 1, imm := 0x040 }) = false ∧
    wellFormed (.sysW { a := 1, imm := 0x102 }) = false := by
  and_intros <;> decide

/-- Formats, shapes and versions of the task words and of the combine buffer (R310, R313). -/
theorem test_refused_tasks :
    wellFormed (.taskMma { o := { a := 24 } }) = false ∧
    wellFormed (.taskMmav { o := { a := 22 } }) = false ∧
    wellFormed (.taskMma { o := { b := 18 } }) = false ∧
    wellFormed (.taskMma { fb := 19 }) = false ∧
    wellFormed (.taskMma { o := { b := 8 }, fb := 8 }) = false ∧
    wellFormed (.taskMma { fo := 5 }) = false ∧
    wellFormed (.taskMma { shape := 7 }) = false ∧
    wellFormed (.taskMma { ver := 3 }) = false ∧
    wellFormed (.taskEw { o := { b := 8 } }) = false ∧
    wellFormed (.taskEw { shape := 5 }) = false ∧
    wellFormed (.taskRed { fb := 1 }) = false ∧
    wellFormed (.taskRed { shape := 3 }) = false ∧
    wellFormed (.taskCvt { fo := 6 }) = false ∧
    wellFormed (.taskCvt { shape := 1 }) = false ∧
    wellFormed (.taskTr { fo := 1 }) = false ∧
    wellFormed (.taskTr { o := { b := 5 }, fo := 5 }) = false ∧
    wellFormed (.cbldMe {}) = false ∧
    wellFormed (.cbldMe { fb := 18, guard := 1 }) = false ∧
    wellFormed (.vstopCur { imm := 1 }) = false ∧
    wellFormed (.vwaitVer { imm := 0 }) = false ∧
    wellFormed (.vwaitVer { imm := 16 }) = false ∧
    wellFormed (.vwaitSet { imm := 0x1000 }) = false ∧
    wellFormed (.vwaitPoll { imm := 1 }) = false := by
  and_intros <;> decide

/-- Fields of the engine words (R325 to R335). -/
theorem test_refused_engines :
    wellFormed (.copyCp { shape := 2 }) = false ∧
    wellFormed (.copyCp { o := { q := 1 } }) = false ∧
    wellFormed (.copyCp { shape := 1, o := { b := 18 } }) = false ∧
    wellFormed (.copyFill { nur := 1 }) = false ∧
    wellFormed (.copyChan { nuw := 1 }) = false ∧
    wellFormed (.copyStat { guard := 1 }) = false ∧
    wellFormed (.copyStat { fo := 1 }) = false ∧
    wellFormed (.gatherG { shape := 2 }) = false ∧
    wellFormed (.twalkLd { nuw := 1 }) = false ∧
    wellFormed (.twalkWb { nur := 1 }) = false ∧
    wellFormed (.nbmvMv { fo := 3 }) = false ∧
    wellFormed (.nbmvMv { o := { b := 2 } }) = false ∧
    wellFormed (.nbmvMv { ver := 2 }) = false ∧
    wellFormed (.attnBlk { o := { b := 3 } }) = false ∧
    wellFormed (.attnBlk { o := { b := 1 }, shape := 8 }) = false ∧
    wellFormed (.attnMrg { fo := 1 }) = false ∧
    wellFormed (.sampleHist { fb := 1 }) = false ∧
    wellFormed (.textNorm { shape := 2 }) = false ∧
    wellFormed (.textTbl { shape := 1 }) = false ∧
    wellFormed (.textTbl { ver := 1 }) = false := by
  and_intros <;> decide

/-- Fields of the context-level words (R79, R80, R376). -/
theorem test_refused_agent_words :
    wellFormed (.aMoviLo { m := 1 }) = false ∧
    wellFormed (.aMov { imm := 1 }) = false ∧
    wellFormed (.aAdd { m := 1, z := 1 }) = false ∧
    wellFormed (.aAdd { imm := 1 }) = false ∧
    wellFormed (.aAdd { m := 2 }) = false ∧
    wellFormed (.aShr { m := 4 }) = false ∧
    wellFormed (.aCmp { m := 12 }) = false ∧
    wellFormed (.aBr { imm := 4 }) = false ∧
    wellFormed (.aBr { m := 2 }) = false ∧
    wellFormed (.aJmp { imm := 1 }) = false ∧
    wellFormed (.aLd { m := 4 }) = false ∧
    wellFormed (.aYield { x := 1 }) = false ∧
    wellFormed (.cLen { m := 3 }) = false ∧
    wellFormed (.cRead { imm := 0 }) = false ∧
    wellFormed (.cRead { imm := 65537 }) = false ∧
    wellFormed (.cApp { m := 16 }) = false ∧
    wellFormed (.cGen { imm := 8 }) = false ∧
    wellFormed (.cScore { m := 2 }) = false ∧
    wellFormed (.cChoose { m := 2 }) = false ∧
    wellFormed (.cSpec { m := 0x80 }) = false ∧
    wellFormed (.cSpec { m := 0x3F, imm := 8 }) = false := by
  and_intros <;> decide

/-- Events that name a unit that the part does not have (R1, R106, R371, R401). -/
theorem test_refused_events :
    wellFormed (.groupAssign 48 0) = false ∧
    wellFormed (.groupZeroingDone 48) = false ∧
    wellFormed (.formatRangeWrite 16 0 0) = false ∧
    wellFormed (.formatRangeWrite 0 4 0) = false ∧
    wellFormed (.vcmdReady 16) = false ∧
    wellFormed (.firingBind 1024) = false ∧
    wellFormed (.contextSave 16 0) = false ∧
    wellFormed (.contextSave 0 1024) = false ∧
    wellFormed (.recordWrite 5 0) = false ∧
    wellFormed (.explicitLoadPerform 0 8 0) = false ∧
    wellFormed (.coherentStorePerform 1024 0 0) = false ∧
    wellFormed (.clockBroadcast {} 8192) = false ∧
    wellFormed (.slotStart 65536) = false ∧
    wellFormed (.membershipWrite 64 0) = false ∧
    wellFormed (.linkDown 18) = false ∧
    wellFormed (.flitCrcError 18) = false ∧
    wellFormed (.stepFill 0 256) = false ∧
    wellFormed (.stepCommit 16 0) = false ∧
    wellFormed (.windowUncorrectableError 0 4 0) = false ∧
    wellFormed (.tresolveWrite 0 8) = false ∧
    wellFormed (.apertureAccess 16 0 0 0 0) = false ∧
    wellFormed (.clusterUnitFailure 1024) = false := by
  and_intros <;> decide

/-- A reserved major, a reserved function and a reserved field take ILL (R75). -/
theorem test_decode_refuses :
    (∀ i, decodeKernel 0x0000007F 0 ≠ .instr i) ∧ (∀ i, decodeKernel 0x01C00010 0 ≠ .instr i) ∧
      (∀ i, decodeKernel 0x01460010 0 ≠ .instr i) ∧ (∀ i, decodeAgent 0x0000000000000005F ≠ .instr i) := by
  and_intros <;> intro i h <;> cases h

/-- The word that spec/14_prog_experts.md gives for `plog.getx x10, p2`, as the host numbers it. -/
theorem test_table_word : decodeTableWord 32 0x01802510 = some (.plogGetx { d := 10, a := 2 }) := by rfl

/-- The word that `withFetchWord` places runs in the very next step: `alui x31, x0, -3` (R67, R121). -/
theorem test_withFetchWord_runs :
    (match step (State.reset.withFetchWord 32 0x1FFA0F84) with
      | .next t => t.firings.map fun f => f.cores.map fun k => (k.pc, k.x.toList.getLast?)
      | _ => []) = [[(0x4000000004, some 0xFFFFFFFFFFFFFFFD)]] := by
  decide +kernel

/-! ### Results of one step, worked out by hand from the rules -/

/-- x5, p5 and `nflags` after an instruction whose sources are x2 and x3. -/
def after (i : Instr) (a b : Word) : Option (Word × BitVec 16 × BitVec 7) :=
  let f := one (setX (setX (setX {} 2 a) 3 b) 5 0x1122334455667788)
  match exec i (demo f) with
  | .next t => ((t.firings.flatMap (·.cores)).map fun c => (getX c 5, getPr c 5, c.nflags)).head?
  | _ => none

/-- R119, R120: the 32-bit difference 0 - 0x80000000, sign-extended. -/
theorem test_alu_sub_w_extends :
    after (.aluSub { q := 1, d := 5, a := 2, b := 3 }) 0xF00000000 0x80000000 = some (0xFFFFFFFF80000000, 0, 0) := by
  decide +kernel

/-- R120: only B[5:0] is the shift amount, here 4. -/
theorem test_alu_sra_amount :
    after (.aluSra { d := 5, a := 2, b := 3 }) 0x8000000000000000 0x44 = some (0xF800000000000000, 0, 0) := by
  decide +kernel

/-- R120: `shr.w` shifts the zero-extended low half. -/
theorem test_alu_shr_w :
    after (.aluShr { q := 1, d := 5, a := 2, b := 3 }) 0xFFFFFFFF80000000 0x24 = some (0x08000000, 0, 0) := by
  decide +kernel

/-- R122: `movi.hi` keeps bits [31:0]. -/
theorem test_movi_hi_keeps_low :
    after (.moviHi { o := { d := 5 }, imm := 0x80000001 }) 0 0 = some (0x8000000155667788, 0, 0) := by
  decide +kernel

/-- R124: the high half of -1 times 2. -/
theorem test_mulh :
    after (.muldivMulh { d := 5, a := 2, b := 3 }) 0xFFFFFFFFFFFFFFFF 2 = some (0xFFFFFFFFFFFFFFFF, 0, 0) := by
  decide +kernel

/-- R124: the high half of (2^64 - 1) times 2. -/
theorem test_mulhu :
    after (.muldivMulhu { d := 5, a := 2, b := 3 }) 0xFFFFFFFFFFFFFFFF 2 = some (1, 0, 0) := by
  decide +kernel

/-- R124: 2^32 - 1, sign-extended, and DZ. -/
theorem test_divu_w_by_zero :
    after (.muldivDivu { q := 1, d := 5, a := 2, b := 3 }) 7 0 = some (0xFFFFFFFFFFFFFFFF, 0, 2) := by
  decide +kernel

/-- R124: -7 divided by 2 is -3. -/
theorem test_div_rounds_to_zero :
    after (.muldivDiv { d := 5, a := 2, b := 3 }) 0xFFFFFFFFFFFFFFF9 2 = some (0xFFFFFFFFFFFFFFFD, 0, 0) := by
  decide +kernel

/-- R124: the remainder has the sign of A. -/
theorem test_rem_sign :
    after (.muldivRem { d := 5, a := 2, b := 3 }) 0xFFFFFFFFFFFFFFF9 2 = some (0xFFFFFFFFFFFFFFFF, 0, 0) := by
  decide +kernel

/-- R125: bits [11:4] of 0xF80, sign-extended (pos 4, len 8). -/
theorem test_exts :
    after (.bitsExts { d := 5, a := 2, b := 3 }) 0xF80 0x804 = some (0xFFFFFFFFFFFFFFF8, 0, 0) := by
  decide +kernel

/-- R125: `ctz.w` of a zero low half is 32. -/
theorem test_ctz_w_zero :
    after (.bitsCtz { q := 1, d := 5, a := 2 }) 0xF00000000 0 = some (32, 0, 0) := by
  decide +kernel

/-- R126: the absolute value of the most negative number saturates and sets SAT. -/
theorem test_abs_saturates :
    after (.minmaxAbs { d := 5, a := 2 }) 0x8000000000000000 0 = some (0x7FFFFFFFFFFFFFFF, 0, 32) := by
  decide +kernel

/-- R126: the 32-bit signed sum clamps and sets SAT. -/
theorem test_adds_w :
    after (.minmaxAdds { q := 1, d := 5, a := 2, b := 3 }) 0x7FFFFFFF 1 = some (0x7FFFFFFF, 0, 32) := by
  decide +kernel

/-- R128: -1 is below 1 as signed 32-bit numbers. -/
theorem test_cmp_lt_w :
    after (.cmpLt { q := 1, d := 5, a := 2, b := 3 }) 0x00000000FFFFFFFF 1 = some (0x1122334455667788, 0xFFFF, 0) := by
  decide +kernel

/-- R128: 2^32 - 1 is not below 1. -/
theorem test_cmp_ltu :
    after (.cmpLtu { d := 5, a := 2, b := 3 }) 0x00000000FFFFFFFF 1 = some (0x1122334455667788, 0, 0) := by
  decide +kernel

/-- R129: the immediate -1 is 2^64 - 1 where it is compared unsigned. -/
theorem test_cmpi_ltu :
    after (.cmpiLtu { d := 5, a := 2, imm := 0xFFF }) 5 0 = some (0x1122334455667788, 0xFFFF, 0) := by
  decide +kernel

/-- R130: p_d := x_a[15:0]. -/
theorem test_plog_setx :
    after (.plogSetx { d := 5, a := 2 }) 0x12345 0 = some (0x1122334455667788, 0x2345, 0) := by
  decide +kernel

/-- v5 and `nflags` after a vector instruction whose sources are v2 and v3, with p1 = 0x0001 and v5 = 0x1111 before. -/
def vafter (i : Instr) (a b : BitVec 128) : Option (BitVec 128 × BitVec 7) :=
  let c : Core := setPr {} 1 1
  let f := one { c with v := ((c.v.setIfInBounds 2 a).setIfInBounds 3 b).setIfInBounds 5 0x1111 }
  match exec i (demo f) with
  | .next t => ((t.firings.flatMap (·.cores)).map fun c => (vget c.v 5 0, c.nflags)).head?
  | _ => none

/-- R147: 1 + 2^-24 is a tie, which goes to even, and is inexact (NX). -/
theorem test_varith_rounds_to_even :
    vafter (.varithAdd { d := 5, a := 2, b := 3 }) 0x3F800000 0x33800000 = some (0x3F800000, 0x10) := by
  decide +kernel

/-- R143, R147: only the element whose mask bit is 1 is written, clamped (SAT). -/
theorem test_varith_adds_masked :
    vafter (.varithAdds { q := 5, pr := 1, d := 5, a := 2, b := 3 }) 0x7F7F 0x0101 = some (0x117F, 0x20) := by
  decide +kernel

/-- R147: -0 is less than +0. -/
theorem test_varith_max_zero :
    vafter (.varithMax { d := 5, a := 2, b := 3 }) 0x80000000 0 = some (0, 0) := by
  decide +kernel

/-- R148: infinity times 0 gives the canonical NaN and NV. -/
theorem test_vfma_infinity_times_zero :
    vafter (.vfmaFma { d := 5, a := 2, b := 3 }) 0x7F800000 0 = some (0x7FC00000, 1) := by
  decide +kernel

/-! ### Witnesses: vector instructions -/

/-- A firing of one core whose links hold four words each. -/
def fullLinks : Firing := one { lw := [1, 2, 3, 4], le := [5, 6, 7, 8] }
theorem on_full (i : Instr) : On (demo fullLinks) fullLinks i := on_of rfl rfl rfl rfl rfl rfl
/-- Each case of a vector instruction is met: a pop finds no word, a push finds no room, and the results are written. -/
def VecCases (i : OpA → Instr) (srcs : OpA → List (BitVec 5)) (dst : OpA → Option (BitVec 5)) (on : OpA → Core → Bool)
    (g : OpA → VIn → VOut) : Prop :=
  let act (f : Firing) (o : OpA) : List Core := (actingCores f 0).filter (on o)
  let outs (f : Firing) (o : OpA) : List VOut := (act f o).map fun c => g o (vecView (srcs o) c)
  let ready (o : OpA) (c : Core) : Bool := popReady ((srcs o).contains 30) ((srcs o).contains 31) c
  (∃ o, On (demo fire) fire (i o) ∧ ∃ c ∈ act fire o, ready o c = false) ∧
  (∃ o, On (demo fullLinks) fullLinks (i o) ∧ (∀ c ∈ act fullLinks o, ready o c = true) ∧
    applyVec fullLinks (dst o) (outs fullLinks o) = none) ∧
  ∃ o f', On (demo fire) fire (i o) ∧ (∀ c ∈ act fire o, ready o c = true) ∧ applyVec fire (dst o) (outs fire o) = some f'
theorem vec_cases {i : OpA → Instr} {srcs : OpA → List (BitVec 5)} {dst : OpA → Option (BitVec 5)} {on : OpA → Core → Bool}
    {g : OpA → VIn → VOut} (o1 o2 o3 : OpA) (f' : Firing)
    (h1 : ((actingCores fire 0).filter (on o1)).any (fun c => !(popReady ((srcs o1).contains 30) ((srcs o1).contains 31) c)) = true)
    (h2 : ((actingCores fullLinks 0).filter (on o2)).all (popReady ((srcs o2).contains 30) ((srcs o2).contains 31)) = true)
    (h3 : applyVec fullLinks (dst o2) (((actingCores fullLinks 0).filter (on o2)).map fun c => g o2 (vecView (srcs o2) c)) = none)
    (h4 : ((actingCores fire 0).filter (on o3)).all (popReady ((srcs o3).contains 30) ((srcs o3).contains 31)) = true)
    (h5 : applyVec fire (dst o3) (((actingCores fire 0).filter (on o3)).map fun c => g o3 (vecView (srcs o3) c)) = some f') :
    VecCases i srcs dst on g := by
  obtain ⟨c, hc, hr⟩ := List.any_eq_true.1 h1
  exact ⟨⟨o1, on_fire _, c, hc, by simpa using hr⟩, ⟨o2, on_full _, List.all_eq_true.1 h2, h3⟩,
    o3, f', on_fire _, List.all_eq_true.1 h4, h5⟩
/-- The same of results by element. -/
abbrev VecCasesE (i : OpA → Instr) (srcs : OpA → List (BitVec 5)) (g : OpA → VIn → VOut) : Prop :=
  VecCases i srcs (fun o => some o.d) (fun _ _ => true) g

theorem witness_VectorArithmeticComputes :
    VecCasesE .varithAdd (fun o => [o.a, o.b]) (fun o => byElement o fun v e =>
      byKind o valAdd (fun _ a b => a + b) (elA o v e) (elB o v e)) ∧
    VecCasesE .varithAbs (fun o => [o.a]) (fun o => byElement o fun v e => (elA o v e, 0)) ∧
    VecCasesE .vfmaFma (fun o => [o.a, o.b, o.d]) (fun o => byElement o fun v e => (elD o v e, 0)) :=
  ⟨vec_cases { a := 30 } { d := 30 } {} _ rfl rfl rfl rfl rfl, vec_cases { a := 30 } { d := 30 } {} _ rfl rfl rfl rfl rfl,
    vec_cases { b := 30 } { d := 31 } {} _ rfl rfl rfl rfl rfl⟩
theorem witness_DotsAndReductionsCompute :
    VecCasesE .vdotI8 (fun o => [o.a, o.b, o.d]) (fun o v => elementOut v (maskOf v o.pr) 32 fun e => (elemAt 32 (srcV v o.d) e, 0)) ∧
    VecCasesE .vredAdd (fun o => [o.a]) (fun o v =>
      { core := v.core, val := (redTree o.q .add (maskOf v o.pr) (srcV v o.a)).1, mask := 0xFFFF }) :=
  ⟨vec_cases { a := 30 } { d := 30 } {} _ rfl rfl rfl rfl rfl, vec_cases { a := 31 } { d := 30 } {} _ rfl rfl rfl rfl rfl⟩
theorem witness_VectorLogicAndComparesDecide :
    VecCasesE .vlogicAnd (fun o => [o.a, o.b]) (fun o => byElement o fun v e => (elA o v e &&& elB o v e, 0)) :=
  vec_cases { b := 31 } { d := 31 } {} _ rfl rfl rfl rfl rfl
theorem witness_VectorMovesRearrange :
    VecCasesE .vmovMov (fun o => [o.a]) (fun o => byElement o fun v e => (elA o v e, 0)) ∧
    VecCasesE .vselZero (fun o => [o.a]) (fun o v => { core := v.core, val := selBytes (maskOf v o.pr) (srcV v o.a) 0, mask := 0xFFFF }) :=
  ⟨vec_cases { a := 30 } { d := 30 } {} _ rfl rfl rfl rfl rfl, vec_cases { a := 30 } { d := 30 } {} _ rfl rfl rfl rfl rfl⟩
theorem witness_VectorConversionsRound :
    VecCasesE .vscaleMx (fun o => [o.a, o.b]) (fun o => byElement o fun v e =>
      rne (qFmt o.q) (valMul (decodeFmt (qFmt o.q) (elA o v e)) (scaleE8M0 (elemAt 8 (srcV v o.b) 0)))) :=
  vec_cases { a := 30 } { d := 30 } {} _ rfl rfl rfl rfl rfl
theorem witness_SpecialFunctionsApply :
    VecCasesE .vsfuExp2 (fun o => [o.a]) (fun o => byElement o fun v e => sfu .exp2 (qFmt o.q) (elA o v e)) ∧
    (∀ x ∈ [(Fmt.fp32, 0x7FC00001), (.bf16, 0x7FC1), (.fp16, 0x7E01)], ∃ nv, decodeFmt x.1 x.2 = .nan nv) ∧
    ∀ x ∈ [(Fmt.fp32, 0x80000001), (.bf16, 0x8001), (.fp16, 0x8001)], ∃ n d e, decodeFmt x.1 x.2 = .num true n d e ∧ n ≠ 0 := by
  refine ⟨vec_cases { a := 30 } { d := 30 } {} _ rfl rfl rfl rfl rfl, ?_, ?_⟩ <;> intro x h <;>
    simp only [List.mem_cons, List.not_mem_nil, or_false] at h
  · obtain rfl | rfl | rfl := h <;> exact ⟨_, rfl⟩
  · obtain rfl | rfl | rfl := h <;> exact ⟨_, _, _, rfl, by decide⟩
theorem witness_NeighbourLinksMove :
    VecCasesE .vlinkPop (fun o => [o.a]) (fun o v => { core := v.core, val := srcV v o.a, mask := maskOf v o.pr }) ∧
    On (demo fire) fire (.vlinkPeek { a := 30 }) ∧ (∃ c ∈ actingCores fire 0, c.lw = []) ∧
    On (demo fullLinks) fullLinks (.vlinkPeek { a := 31, d := 29 }) ∧
    (∀ c ∈ actingCores fullLinks 0, c.le ≠ []) ∧ (29#5).toNat < 30 :=
  ⟨vec_cases { a := 30 } { a := 30, d := 30 } {} _ rfl rfl rfl rfl rfl, on_fire _, ⟨{}, .head _, rfl⟩, on_full _,
    List.forall_mem_singleton.2 (List.cons_ne_nil 5 _), by decide⟩

/-! ### Witnesses: memory instructions -/

/-- A core whose x1 points at its launch's cluster window, x2 to device memory that nothing maps, x3 to L2 window 0 and x4
into the system space. -/
def pointers : Core := setX (setX (setX (setX {} 1 (5#64 <<< 60)) 2 (0x10000#64)) 3 (8#64 <<< 60)) 4 (14#64 <<< 60)
def mover : Firing := one pointers
/-- The part while `mover` runs, with a window of 256 bytes in its cluster memory. -/
def windowed (f : Firing) : State :=
  { demo f with launches := [{ id := 1, held := false, counts := [1], graph := { actors := [{}] },
                               windows := [{ space := 5, place := 0, base := 0, size := 256 }] }] }
theorem on_mover (i : Instr) : On (windowed mover) mover i := on_of rfl rfl rfl rfl rfl rfl
/-- Whether the counter that an instruction raises is full, on its way with these operands. -/
def fullFor {Op : Type} (s : State) (uni : Op → Bool) (cnt : Op → Option Bool) (sel : Op → Firing → List Core → List Core)
    (chk : Op → Firing → List Core → Core → Option (State → State × Chk)) (o : Op) : Bool :=
  let asks := (sel o mover (actingCores mover 0)).filterMap fun c =>
    (chk o mover (actingCores mover 0) c).map fun g => (c, g)
  countersFull (putFiring s mover) mover (if uni o then actingCores mover 0 else asks.map (·.1)) (cnt o)
/-- Both cases of a checked instruction are met by these operands: a check traps, and all pass. -/
def CheckCases {Op : Type} (i : Op → Instr) (uni : Op → Bool) (cnt : Op → Option Bool)
    (sel : Op → Firing → List Core → List Core)
    (chk : Op → Firing → List Core → Core → Option (State → State × Chk)) : Prop :=
  let s := windowed mover
  let asks (o : Op) := (sel o mover (actingCores mover 0)).filterMap fun c =>
    (chk o mover (actingCores mover 0) c).map fun g => (c, g)
  (∃ o s' rs t, On s mover (i o) ∧ fullFor s uni cnt sel chk o = false ∧ checkAll (putFiring s mover) (asks o) = (s', rs) ∧
    firstTrap rs = some t) ∧
  ∃ (o : Op) (s' : State) (l : List (Core × Acc)), On s mover (i o) ∧ fullFor s uni cnt sel chk o = false ∧ l ≠ [] ∧
    checkAll (putFiring s mover) (asks o) = (s', l.map fun e => (e.1, .ok e.2))
abbrev MemCases {Op : Type} (i : Op → Instr) (uni : Op → Bool) (form : Form) (want : Want)
    (sel : Op → Firing → List Core → List Core) (acc : Op → Firing → List Core → Core → Option (Nat × Acc)) : Prop :=
  CheckCases i uni (fun _ => some (raisesLoad form want)) sel
    (fun o f units c => (acc o f units c).map fun r => fun s => checkAccess s f c form want r.1 r.2)
theorem check_cases {Op : Type} {i : Op → Instr} {uni : Op → Bool} {cnt : Op → Option Bool}
    {sel : Op → Firing → List Core → List Core}
    {chk : Op → Firing → List Core → Core → Option (State → State × Chk)} (o1 o2 : Op)
    (h1 : (firstTrap (checkAll (putFiring (windowed mover) mover) ((sel o1 mover (actingCores mover 0)).filterMap fun c =>
      (chk o1 mover (actingCores mover 0) c).map fun g => (c, g))).2).isSome = true)
    (h2 : (match (checkAll (putFiring (windowed mover) mover) ((sel o2 mover (actingCores mover 0)).filterMap fun c =>
      (chk o2 mover (actingCores mover 0) c).map fun g => (c, g))).2 with | [(_, .ok _)] => true | _ => false) = true)
    (f1 : fullFor (windowed mover) uni cnt sel chk o1 = false := by rfl)
    (f2 : fullFor (windowed mover) uni cnt sel chk o2 = false := by rfl) :
    CheckCases i uni cnt sel chk := by
  obtain ⟨t, ht⟩ := Option.isSome_iff_exists.1 h1
  refine ⟨⟨o1, _, _, t, on_mover _, f1, Prod.mk.eta.symm, ht⟩, o2, ?_⟩
  dsimp only
  generalize checkAll (putFiring (windowed mover) mover) _ = r at h2 ⊢
  obtain ⟨s, rs⟩ := r
  dsimp only at h2
  split at h2
  · exact ⟨s, [(_, _)], on_mover _, f2, List.cons_ne_nil _ _, rfl⟩
  · cases h2
/-- An instruction waits while its counter stands at 255, and not at 254: that of loads, and that of the others. -/
theorem witness_counters :
    let s (n : Nat) (a : Acc) : State := { windowed mover with
      pcores := [{ accs := List.replicate n { a with id := 9, firing := 1, launch := 1, space := 5 } }] }
    let ld : Acc := { kind := .load, sets := 1 }
    let st : Acc := { kind := .store, sets := 2 }
    (On (s 255 ld) mover (.ldB { o := { a := 1 } }) ∧ countersFull (s 255 ld) mover (actingCores mover 0) (some true) = true ∧
      countersFull (s 254 ld) mover (actingCores mover 0) (some true) = false) ∧
    countersFull (s 255 st) mover (actingCores mover 0) (some false) = true ∧
      countersFull (s 255 st) mover (actingCores mover 0) (some true) = false := by
  refine ⟨⟨⟨0, 0, mover, rfl, rfl, rfl, rfl, rfl, rfl, rfl, ?_⟩, ?_, ?_⟩, ?_, ?_⟩ <;> decide +kernel

theorem witness_ScalarLoadsAndStoresIssue :
    MemCases .ldB (fun o => o.o.k == 1) .scalar .rd selM (fun o f units c =>
      some (1, { kind := .load, ea := addrIndexed o (fileM o f units c), size := 1, sets := 1, dest := destM o,
                 nu := o.nu, pol := o.pol })) ∧
    MemCases .stD (fun o => o.o.k == 1) .scalar .wr selM (fun o f units c =>
      some (8, { kind := .store, ea := addrIndexed o (fileM o f units c), size := 8, sets := 2,
                 data := (getS (fileM o f units c) o.o.d.toNat).setWidth 128, bytes := BitVec.ofNat 16 (2 ^ 8 - 1),
                 nu := o.nu, pol := o.pol })) :=
  ⟨check_cases { o := { a := 2 } } { o := { a := 1 }, off := 255 } rfl rfl,
    check_cases { o := { a := 1 }, off := 4 } { o := { a := 1 }, off := 248 } rfl rfl⟩
theorem witness_VectorLoadsAndStoresIssue :
    let mask (o : OpM) (c : Core) : BitVec 16 := activeBytes (getPr c o.o.pr.toNat) (qWidth o.o.q)
    let ea (o : OpM) (f : Firing) (units : List Core) (c : Core) : Word := addrIndexed o (fileOf f units false c)
    let linked : OpM := { o := { d := 30, pr := 1 } }
    let jam := one { pointers with lw := List.replicate 4 0, le := List.replicate 4 0 }
    MemCases .vldV (fun _ => false) .vec .rd (fun _ _ units => units) (fun o f units c =>
      if mask o c = 0 then none
      else some (16, { kind := .load, ea := ea o f units c, size := 16, lanes := spaceOf (ea o f units c) == 7, sets := 1,
                       dest := .vec o.o.d.toNat 16 false (mask o c), nu := o.nu, pol := o.pol })) ∧
    MemCases .vstV (fun _ => false) .vec .wr (fun _ _ units => units) (fun o f units c =>
      if mask o c = 0 then none
      else some (16, { kind := .store, ea := ea o f units c, size := 16, lanes := spaceOf (ea o f units c) == 7, sets := 2,
                       bytes := mask o c, nu := o.nu, pol := o.pol })) ∧
    ((pushIdle { o := { d := 3 } } (windowed mover) mover (actingCores mover 0)).isSome = true ∧ mask linked pointers = 0 ∧
      (pushIdle linked (windowed mover) mover (actingCores mover 0)).isSome = true ∧
      (pushIdle linked (demo jam) jam (actingCores jam 0)).isSome = false) ∧
    (actingCores mover 0).all (popReady false false) = true ∧ (actingCores mover 0).all (popReady true false) = false :=
  ⟨check_cases { o := { a := 1 }, off := 8 } { o := { a := 1 }, off := 240 } rfl rfl,
    check_cases { o := { a := 2 } } { o := { a := 1 }, off := 16 } rfl rfl, by decide +kernel, rfl, rfl⟩
theorem witness_CacheInstructionsAct :
    let pinned : State := { windowed mover with
      tenants := (windowed mover).tenants.set 0 { clmask := 1, windows := [16, 0, 0, 0] } }
    let line : Acc := { kind := .cache, key := 0x40000000 }
    CheckCases .cachePf (fun o => o.o.k == 1) (fun _ => none) selM (fun o f units c => some fun s => cacheCheck s f c
      { kind := .cache, fn := 0, ea := addrPlain o (fileM o f units c), size := 256, nu := o.nu }) ∧
    (checkAll (windowed mover) [(pointers, fun s => cacheCheck s mover pointers
      { kind := .cache, ea := getX pointers 2, size := 256 })]).2.length = 1 ∧
    setBlocked (windowed mover) (lineReq line) = false ∧ setBlocked pinned (lineReq line) = true := by
  refine ⟨check_cases { o := { a := 1 } } { o := { a := 2 } } rfl rfl, ?_, ?_, ?_⟩ <;> decide +kernel
theorem witness_TranslationsAnswer :
    CheckCases .xlatProbe (fun o => o.o.k == 1) (fun _ => none) selM (fun o f units c => some fun s =>
      xlatCheck s f c (addrPlain o (fileM o f units c)) fun s => (s, .ok { ea := addrPlain o (fileM o f units c) })) :=
  check_cases { o := { a := 1 } } { o := { a := 2 } } rfl rfl
theorem witness_ClocksMoveAndPinsGrant :
    (∀ o : OpX, On (demo fire) fire (.rclkAdv o) ∧ On (demo fire) fire (.rclkRead o) ∧ On (demo fire) fire (.rclkDflt o)) ∧
    CheckCases .pinWin (fun o => o.o.k == 1) (fun _ => some false) selM (fun o f units c => some fun s =>
        if spaceOf (addrPlain o (fileM o f units c)) = 8 ∧ pointerClean (addrPlain o (fileM o f units c)) = true ∧
          (addrPlain o (fileM o f units c)).toNat % 2 ^ 26 = 0
        then (s, .ok { kind := .pin, ea := addrPlain o (fileM o f units c) })
        else (s, .trap { core := c.idx, cause := 0x04, addr := addrPlain o (fileM o f units c) })) :=
  ⟨fun _ => ⟨on_fire _, on_fire _, on_fire _⟩, check_cases { o := { a := 3 }, off := 1 } { o := { a := 3 } } rfl rfl⟩
theorem witness_FencesEnterTheOrder (o : OpA) : On (demo fire) fire (.fenceOrd o) := on_fire _
theorem witness_FullEmptyWordsMove :
    let f := gang pointers pointers
    let lead : Firing := mover
    let at' (full : List Nat) : State := { windowed mover with full := full }
    let key := memKey .cluster 0
    let acc (kind : AccKind) (fn : Nat) (sets : BitVec 5) : Acc := { kind := kind, fn := fn, ea := 5#64 <<< 60, size := 8, sets := sets }
    let runs (full : List Nat) (want : Want) (a : Acc) (i : Instr) (fits : Bool) : Prop :=
      On (at' full) mover i ∧
      countersFull (putFiring (at' full) mover) mover [pointers] (some (want == .rd)) = false ∧
      ∃ s1 a1 s2 a2, checkAccess (putFiring (at' full) mover) lead pointers .word want 8 a = (s1, .ok a1) ∧
        stampAcc s1 mover (actingCores mover 0) false pointers { a1 with words := (siteOf i).words } = (s2, a2) ∧
        mayPerform s2 0 0 a2 = true ∧ clashes s2 0 0 a2 = [] ∧ coversDone s2 0 0 a2 = true ∧
        (s2.full.contains a2.key = (a.kind == .ldf)) = fits ∧ queuedOn s2.waiters s2 a2 = false
    selM { o := { pr := 1 } } mover (actingCores mover 0) = [] ∧
    (On (windowed f) f (.ldfKeep { o := { a := 1 } }) ∧ 1 < (actingCores f 0).length ∧
      ∃ c rest, selM { o := { a := 1 } } f (actingCores f 0) = c :: rest) ∧
    runs [key] .rd (acc .ldf 1 1) (.ldfTake { o := { a := 1 } }) true ∧
    runs [] .rd (acc .ldf 1 1) (.ldfTake { o := { a := 1 } }) false ∧
    runs [] .wr (acc .ste 0 2) (.steFill { o := { a := 1 } }) true ∧
    runs [key] .wr (acc .ste 0 2) (.steFill { o := { a := 1 } }) false ∧
    MemCases .feSetr (fun o => o.k == 1) .word .wr (fun o _ units => units.filter fun c => takes (fileOf mover units (o.k == 1) c) o.pr)
      (fun o f units c =>
        let n := (getS (fileOf f units (o.k == 1) c) o.b.toNat).toNat
        some (if 4096 < n then 2 ^ 40 else 8 * max n 1,
          { kind := .fe, fn := 4, ea := getS (fileOf f units (o.k == 1) c) o.a.toNat, size := 8, sets := 2 })) := by
  refine ⟨rfl, ⟨on_of rfl rfl rfl rfl rfl rfl, by decide, _, _, rfl⟩, ?_, ?_, ?_, ?_,
    check_cases { a := 1, b := 1 } { a := 1 } rfl rfl⟩ <;>
  exact ⟨on_of rfl rfl rfl rfl rfl rfl, rfl, _, _, _, _, rfl, rfl, rfl, rfl, rfl, by decide, rfl⟩
/-- The words of a range, one of which an earlier store of the core still holds. -/
theorem witness_FullEmptyRanges :
    let key := memKey .cluster 0
    let f (done : Nat) : Firing := one { pointers with busy := .words key done 2 }
    let mine (f : Firing) : List Core := f.cores.filter fun k => (actingCores f 0).any fun u => u.idx == k.idx
    let left (k : Core) : Bool := match k.busy with
      | .words _ done n => done < n
      | _ => false
    let ready (s : State) (f : Firing) (done : Nat) : Bool :=
      let k := f.cores.headD {}
      let a : Acc := { kind := .fe, fn := 4, ea := getX k 1, size := 8, sets := 2 }
      let p := stampAcc s f (actingCores f 0) false k { a with space := spaceOf a.ea, key := key + 8 * done }
      mayPerform p.1 0 0 p.2 && (clashes p.1 0 0 p.2).isEmpty && coversDone p.1 0 0 p.2
    let held : State := { windowed (f 1) with
      pcores := [{ accs := [{ id := 1, firing := 1, launch := 1, kind := .store, space := 5, bytes := 0xFF, key := key + 8 }] }] }
    On (windowed (f 0)) (f 0) (.feSetr { a := 1, b := 2 }) ∧ (∃ c ∈ actingCores (f 0) 0, ∃ key done n, c.busy = .words key done n) ∧
    (mine (f 2)).find? left = none ∧ (mine (f 1)).find? left = some { pointers with busy := .words key 1 2 } ∧
    ready (windowed (f 0)) (f 0) 0 = true ∧ ready (windowed (f 1)) (f 1) 1 = true ∧ ready held (f 1) 1 = false :=
  ⟨on_of rfl rfl rfl rfl rfl rfl, ⟨_, .head _, _, _, _, rfl⟩, by decide +kernel, by decide +kernel, by decide +kernel,
    by decide +kernel, by decide +kernel⟩
theorem witness_AtomicsIssueAndCompute :
    MemCases .amoAdd (fun o => o.o.k == 1) (.amo 0) .rmw selM (fun o f units c =>
      some (8, { kind := .amo, q := 0, ea := addrPlain o (fileM o f units c), size := 8, sets := 16, dest := destM o, nu := o.nu })) ∧
    MemCases .redAdd (fun o => o.o.k == 1) (.red 0) .rmw selM (fun o f units c =>
      some (8, { kind := .red, ea := addrPlain o (fileM o f units c), size := 8, sets := 16, nu := o.nu, pol := o.pol })) ∧
    (∃ a : Acc, a.kind = .cas ∧ a.size = 8) ∧ (∃ a : Acc, a.kind = .amo ∧ a.fn = 7 ∧ a.size = 4) ∧
    (∃ a : Acc, a.kind = .amo ∧ a.fn = 0 ∧ a.size = 8) ∧ (∃ a : Acc, a.kind = .amo ∧ 2 ≤ a.fn ∧ a.fn ≤ 6 ∧ a.size = 4) ∧
    (∃ a : Acc, a.kind = .amo ∧ a.lanes = false ∧ a.size = 8 ∧ a.space = 4) ∧
    let addb : Acc := { kind := .amo, fn := 1, data := 5, data2 := 3 }
    addb.kind = .amo ∧ addb.fn = 1 ∧ signedOf 64 2 + signedOf 64 3 ≤ signedOf 64 5 ∧ signedOf 64 5 < signedOf 64 3 + signedOf 64 3 :=
  ⟨check_cases { o := { a := 1 }, off := 1 } { o := { a := 1 }, off := 248 } rfl rfl,
    check_cases { o := { a := 4 } } { o := { a := 1 } } rfl rfl, ⟨{ kind := .cas, size := 8 }, rfl, rfl⟩,
    ⟨{ kind := .amo, fn := 7, size := 4 }, rfl, rfl, rfl⟩, ⟨{ kind := .amo, fn := 0, size := 8 }, rfl, rfl, rfl⟩,
    ⟨{ kind := .amo, fn := 6, size := 4 }, rfl, by decide, by decide, rfl⟩,
    ⟨{ kind := .amo, size := 8, space := 4 }, rfl, rfl, rfl, rfl⟩, rfl, rfl, by decide, by decide⟩
theorem witness_AccessChecksTrap :
    let s := windowed mover
    let lock : State := { s with eng := { cmds := [{ id := 7, code := 1 }],
                                          locks := [{ c := 0, lo := 5 * 2 ^ 60, hi := 5 * 2 ^ 60 + 8, dst := true, cmd := 7 }] } }
    let ok (a : Word) : Prop := spaceOk s 0 .scalar (spaceOf a) = true ∧ pointerClean a = true ∧ spaceOf a ≠ 14
    spaceOk s 0 .scalar (spaceOf (15#64 <<< 60)) = false ∧ pointerClean ((5#64 <<< 60) ||| (1#64 <<< 59)) = false ∧
    (ok ((5#64 <<< 60) + 252) ∧ ((5#64 <<< 60) + 252).toNat % 8 ≠ 0) ∧
    (ok ((5#64 <<< 60) + 256) ∧ ((5#64 <<< 60) + 256).toNat % 8 = 0 ∧ ∃ s' k, locateFor s mover 0 ((5#64 <<< 60) + 256) 8 .rd = (s', .cause k)) ∧
    (5#64 <<< 60).toNat % 8 = 0 ∧ ∃ s' p, locateFor lock mover 0 (5#64 <<< 60) 8 .rd = (s', .ok p) ∧
      locked s' 0 (5#64 <<< 60).toNat 8 false = true :=
  ⟨rfl, rfl, ⟨⟨rfl, rfl, by decide⟩, by decide⟩, ⟨⟨rfl, rfl, by decide⟩, rfl, _, _, rfl⟩, rfl, _, _, rfl, by decide⟩

/-! ### Witnesses: the order machine, messages and barriers -/

/-- The part while `fire` runs with these unfinished accesses in the order of core 0. -/
def ordered (l : List Acc) : State := { demo fire with pcores := [{ accs := l }] }
def acc (kind : AccKind) (space : Nat) : Acc := { id := 9, firing := 1, launch := 1, kind := kind, space := space }
/-- An address in package 1. -/
def far : Word := 1#64 <<< 48
/-- A state whose links are all up. -/
def linked (s : State) : State := { s with cfg := { s.cfg with links := BitVec.allOnes 18 } }

theorem witness_StoresPerform :
    let held (s : State) (a : Acc) : Bool := (accAt s 0 0 9 == some a) && !a.performed && groupClear s 0 0 a
    let far := { acc .red 2 with sent := true, ea := far }
    let onPath : State := linked { ordered [far] with paths := [{ pkg := 1, queue := [.acc 0 0 9] }] }
    let wb := { acc .cache 0 with fn := 3 }
    (held (ordered [acc .store 5]) (acc .store 5) = true ∧ coherent (acc .store 5) = false) ∧
    held (ordered [acc .red 0]) (acc .red 0) = true ∧ (held (ordered [wb]) wb = true ∧ wb.space ≠ 2) ∧
    (firstUp (linked (ordered [acc .store 2])) 1 = some 0 ∧ firstUp (ordered [acc .store 2]) 1 = none) ∧
    (held (ordered [acc .store 2]) (acc .store 2) = true ∧ (acc .store 2).sent = false ∧
      groupLeaves (ordered [acc .store 2]) 0 0 (acc .store 2) = true) ∧
    (held onPath far = true ∧ far.sent = true ∧ far.ea.toNat / 2 ^ 48 % 2 ^ 12 ≠ onPath.cfg.pkgid.toNat ∧
      clear onPath 0 0 far = true ∧ arrives onPath 0 0 far = true) ∧
    (held (ordered [acc .store 0]) (acc .store 0) = true ∧ coherent (acc .store 0) = true) ∧
    held (ordered [acc .amo 0]) (acc .amo 0) = true ∧ coherent (acc .amo 0) = true ∧
    meetsPoison (ordered [acc .amo 0]) (acc .amo 0) = false := by decide +kernel
theorem witness_LoadsReturnAndWaitersServe :
    (let a := { acc .ste 5 with fn := 0, dest := .none }
     let s := { ordered [a] with waiters := [{ acc := 9 }] }
     s.waiters[0]? = some { acc := 9 } ∧ waiterAcc s { acc := 9 } = some a ∧ bitReady s a = true ∧
     queuedOn (s.waiters.take 0) s a = false ∧ mayPerform s 0 0 a = true ∧
     (deliver (setWaiters (bankMove s 0 0 a).1 ((bankMove s 0 0 a).1.waiters.eraseIdx 0)) 0 0 (bankMove s 0 0 a).2).isSome = true) ∧
    (let a := { acc .load 1 with dest := .x 3 }
     let s := ordered [a]
     accAt s 0 0 9 = some a ∧ linkWaits s 0 0 a = false ∧
     (deliver s 0 0 { a with performed := true, val := BitVec.allOnes 128 }).isSome = true) ∧
    (let a := acc .load 5
     accAt (ordered [a]) 0 0 9 = some a ∧ coherent a = false ∧ clear (ordered [a]) 0 0 a = true ∧
     meetsPoison (ordered [a]) a = false ∧ (firingOf (dropAcc (ordered [a]) 0 0 9) a.firing).isSome = true) ∧
    (let a := acc .load 8
     let s := { ordered [a] with l2 := { lost := [0] } }
     clear s 0 0 a = true ∧ meetsPoison s a = true ∧ (firingOf (dropAcc s 0 0 9) a.firing).isSome = true) ∧
    (let a := acc .load 5
     let b := { acc .store 5 with id := 8, bytes := 0xFF }
     let s := ordered [b, a]
     accAt s 0 0 9 = some a ∧ mayPerform s 0 0 a = true ∧ l2Blocked s a false = false ∧
     youngest (clashes s 0 0 a) = some (0, b) ∧ (∀ e ∈ clashes s 0 0 a, e.2.kind = .store) ∧ (forwardBytes b a).isSome = true) ∧
    (let a := { acc .load 5 with performed := true, dest := .x 3 }
     accAt (ordered [a]) 0 0 9 = some a ∧ linkWaits (ordered [a]) 0 0 a = false ∧ firingOf (ordered [a]) 1 = some fire ∧
     (writeDest fire 0 a).isSome = true) ∧
    let a := { acc .load 0 with dest := .x 3 }
    let s := ordered [a]
    let p := { s with l2 := { poison := [0] } }
    let l := { s with pcores := [{ accs := [a], leases := [{ rts := 9 }] }] }
    (accAt s 0 0 9 = some a ∧ coherent a = true ∧ clear s 0 0 a = true ∧ linkWaits s 0 0 a = false) ∧
      (leaseOf p 0 0 a = none ∧ meetsPoison p a = true) ∧ (leaseOf l 0 0 a).isSome = true ∧ meetsPoison s a = false ∧
      (deliver (coherentLoad s 0 0 10 a).1 0 0 (coherentLoad s 0 0 10 a).2).isSome = true := by decide +kernel
theorem witness_RemoteAccessesPerform :
    (∃ s' k, remoteHome (demo fire) 0 (packetAcc 0 0x10000 8 .load 0 0) = (s', .error k)) ∧
    (let s := { demo fire with xlat := { entries := [{ unit := 0, va := 0x10000, r := true, w := true }] } }
     ∃ s' b, remoteHome s 0 (packetAcc 0 0x10000 8 .load 0 0) = (s', .ok b) ∧ accReads b = true ∧
       served s' .dom b.key b.size = true) ∧
    (let a := { acc .amo 2 with ea := far, dest := .x 3, size := 8 }
     let s := linked (ordered [a])
     accAt s 0 0 9 = some a ∧ linkWaits s 0 0 a = false ∧ clear s 0 0 a = true ∧ arrives s 0 0 a = true ∧
     (deliver (popPath s (.acc 0 0 9)) 0 0
       { a with performed := true, val := 7, flag := (atomicNew a ((7#128).toNat % 2 ^ (8 * a.size))).2 }).isSome = true) ∧
    (let a := { acc .load 2 with ea := far, dest := .x 3 }
     let s := linked (ordered [a])
     accAt s 0 0 9 = some a ∧ a.ea.toNat / 2 ^ 48 % 2 ^ 12 ≠ s.cfg.pkgid.toNat ∧ linkWaits s 0 0 a = false ∧
     clear s 0 0 a = true ∧ arrives s 0 0 a = true ∧ (firingOf (dropAcc (popPath s (.acc 0 0 9)) 0 0 9) 1).isSome = true ∧
     (deliver (popPath s (.acc 0 0 9)) 0 0 { a with performed := true, val := 0, flag := false }).isSome = true) ∧
    (let a := { acc .store 2 with ea := far, sent := true, performed := true }
     accAt (ordered [a]) 0 0 9 = some a ∧ a.ea.toNat / 2 ^ 48 % 2 ^ 12 ≠ (ordered [a]).cfg.pkgid.toNat) ∧
    (firstUp (linked (ordered [])) 1).isSome = true ∧
    let a := { acc .store 2 with ea := far, sent := true }
    let m : Marker := { accs := [9], pkg := 1, group := 4, sent := true }
    let s := { ordered [a] with
      markers := [m, { m with answered := true }, { m with group := 5, answered := true }]
      paths := [{ pkg := 1, queue := [.acc 0 0 9, .marker 4] }] }
    s.markers[0]? = some m ∧ aheadOf s m = [.acc 0 0 9] ∧ m.pkg ≠ s.cfg.pkgid.toNat ∧
      s.markers[1]? = some { m with answered := true } ∧ (s.markers.eraseIdx 1).any (fun x => x.group == 4) = true ∧
      (s.markers.eraseIdx 2).all (fun x => x.group != 5) = true := by
  refine ⟨⟨_, _, rfl⟩, ⟨_, _, rfl, rfl, ?_⟩, ?_⟩ <;> decide +kernel
theorem witness_SendsStage :
    (∀ o, On (demo fire) fire (.sendX o) ∧ On (demo fire) fire (.sendV o)) ∧
    (∃ c ∈ actingCores fire 0, popReady true false c = false) ∧ (∀ c ∈ actingCores fire 0, popReady false false c = true) ∧
    (∃ t, stageAll (demo fire) 1 0 (fun _ => [0]) (fun _ => 1#64 <<< 42) (fun _ => ([[0]], 0)) fire (actingCores fire 0) = .error t) ∧
    (∃ f, stageAll (demo fire) 1 0 (fun _ => [0]) (fun _ => 0) (fun _ => ([[0]], 0)) fire (actingCores fire 0) = .ok f) ∧
    maOk (1#64 <<< 42) = false ∧ maOk ((1#64 <<< 42) - 0x30001) = true ∧
    maySend (demo fire) 0 0 1 = false ∧ maySend (demo fire) 0 0 0 = true ∧
    64 < (List.replicate 64 ({} : Msg)).length + [[(0 : Word)]].length :=
  ⟨fun _ => ⟨on_fire _, on_fire _⟩, ⟨{}, .head _, rfl⟩, List.forall_mem_singleton.2 rfl, ⟨_, rfl⟩, ⟨_, rfl⟩, rfl, rfl,
    by decide +kernel, rfl, by decide⟩
theorem witness_ReceivesAndChannelsRead :
    let m : Msg := { launch := 1, addr := 0xF000, words := [7], inst := 1 }
    let s := { demo fire with
      inbox := [(0, m)], chans := [{ launch := 1, free := [0] }]
      launches := [{ id := 1, held := false, graph := { actors := [{ ins := [(0, 1)] }], chans := [{}] } }] }
    let f := { fire with resv := [{ slots := [0] }] }
    let t := { s with firings := [f] }
    (∀ o, On (demo fire) fire (.recvW o)) ∧ On s fire (.recvW {}) ∧ (∃ x, instOf (putFiring s fire) 1 = some x ∧
      oldestMsg (directQueue (putFiring s fire) x) (poppedOf (putFiring s fire) x) = some (m, 0)) ∧
    (∃ x, instOf (putFiring (demo fire) fire) 1 = some x ∧
      oldestMsg (directQueue (putFiring (demo fire) fire) x) (poppedOf (putFiring (demo fire) fire) x) = none) ∧
    On t f (.chanSlot { k := 1 }) ∧ getGp (uniformOf f (actingCores f 0)) 0 = true ∧
    (∃ v x j, portResv (putFiring t f) f 0 = some v ∧ chanAt (putFiring t f) 0 1 v.chan = some x ∧ v.slots[0]? = some j ∧
      v.slots[1]? = none) ∧
    getGp (uniformOf f (actingCores f 0)) 1 = false ∧ On t f (.chanSlot {}) ∧
    (actingCores f 0 = [] ++ ({} : Core) :: [] ∧ (getPr ({} : Core) 0).getLsbD 0 = true ∧ portResv (putFiring t f) f 1 = none) :=
  ⟨fun _ => on_fire _, on_of rfl rfl rfl rfl rfl rfl, ⟨_, rfl, rfl⟩, ⟨_, rfl, rfl⟩, on_of rfl rfl rfl rfl rfl rfl, rfl,
    ⟨_, _, _, rfl, rfl, rfl, rfl⟩, rfl, on_of rfl rfl rfl rfl rfl rfl, rfl, rfl, rfl⟩
theorem witness_BarriersCount :
    let at' (b : Bar) : State := { demo fire with bars := [{ launch := 1, bars := [b, {}, {}, {}] }] }
    let two : Bar := { n := 2, counts := (1, 0, 0), lead := [1, 0, 0, 0, 0, 0, 0, 0] }
    let far : Bar := { n := 2, lead := [3, 0, 0, 0, 0, 0, 0, 0] }
    let count (n : Word) : Nat := (getS (fileOf (one (setX {} 1 n)) [setX {} 1 n] false (setX {} 1 n)) 1).toNat
    let act := activeCores (actingCores fire 0) 0
    let after (b : Bar) : Option (List Nat) := (arrivals (putFiring (at' b) fire) {} fire (actingCores fire 0) act b).map fun r => r.1.lead
    (∀ o, On (at' two) fire (.barArrive o) ∧ On (at' two) fire (.barWait o) ∧ On (at' two) fire (.barSync o) ∧
      On (at' two) fire (.barQuery o) ∧ On (at' {}) fire (.barInit o)) ∧
    ((actingCores fire 0).filter fun c => takes (fileOf fire (actingCores fire 0) false c) 1) = [] ∧ act = [{}] ∧
    barOf (putFiring (at' two) fire) fire 0 = some two ∧ (count 1 = 1 ∧ count 8 = 8 ∧ count 9 = 9 ∧ count 0 = 0) ∧
    ({ n := 8 } : Bar).counts = (0, 0, 0) ∧ two.counts ≠ (0, 0, 0) ∧
    (coversQuiet fire (arrivalCovers (putFiring (at' two) fire) fire act) = true ∧ (∀ c ∈ act, two.lead.getD c.idx 0 < 3) ∧
      (act.map fun c => c.idx).Nodup) ∧
    (arrivals (putFiring (at' two) fire) {} fire (actingCores fire 0) act two).isSome = true ∧
    (arrivals (putFiring (at' far) fire) {} fire (actingCores fire 0) act far).isNone = true ∧
    (∀ c ∈ act, ({} : Bar).lead.getD c.idx 0 = 0) ∧ (∃ c ∈ act, two.lead.getD c.idx 0 ≠ 0) ∧
    (∀ c ∈ fire.cores, ∀ p, c.busy ≠ .arrived p) ∧ after { n := 3 } = some [1, 0, 0, 0, 0, 0, 0, 0] ∧
    after { n := 1 } = some [0, 0, 0, 0, 0, 0, 0, 0] ∧
    (({ n := 1 } : Bar).n ≠ 0 ∧ 1 ≤ ({ n := 1, counts := (1, 0, 0) } : Bar).counts.1 ∧ ({} : Bar).n = 0) :=
  ⟨fun _ => ⟨on_of rfl rfl rfl rfl rfl rfl, on_of rfl rfl rfl rfl rfl rfl, on_of rfl rfl rfl rfl rfl rfl,
    on_of rfl rfl rfl rfl rfl rfl, on_of rfl rfl rfl rfl rfl rfl⟩, rfl, rfl, rfl, ⟨rfl, rfl, rfl, rfl⟩, rfl, by decide,
    ⟨rfl, by decide, by decide⟩, rfl, rfl, by decide, by decide, List.forall_mem_singleton.2 fun _ => nofun, rfl, rfl, by decide⟩

/-! ### Witnesses: engines and tile tasks -/

/-- A tenant that has clusters 0 and 1, four slots and a page table at 0x2000. -/
def ready : Tenant := { enabled := true, vstate := 2, troot := 0x2000, clmask := 3, scount := 4 }
/-- A state with this tenant 0, whose page table maps the first 2^30 bytes of its space to a ready group. -/
def mapped (s : State) (t : Tenant) : State :=
  { s with
    mem := [(0x2000, 1), (0x2009, 0x40), (0x4000, 1), (0x4009, 0x60), (0x6000, 0x1F), (0x600B, 0x40)].map fun e =>
      (memKey .hbm e.1, BitVec.ofNat 8 e.2)
    cfg := { s.cfg with groups := s.cfg.groups.set 0 { assigned := true, ready := true } }, tenants := s.tenants.set 0 t }
theorem mapped_translates : partKey (mapped (demo fire) ready) 0 0x100 .wr = .ok (0x40000000 + 0x100) := by decide +kernel

/-- Whether a piece of work succeeds with a result that `p` holds of. -/
def okAnd {α : Type} (w : Work α) (p : State → α → Bool) : Bool := match w with
  | .ok s a => p s a
  | _ => false
theorem ok_of {α : Type} {w : Work α} {p : State → α → Bool} (h : okAnd w p = true) : ∃ s a, w = .ok s a ∧ p s a = true := by
  cases w <;> simp_all [okAnd]

/-- A core whose block of registers from x8 on fills one word of its cluster window. -/
def filler : Firing := one (setX (setX {} 10 (5#64 <<< 60)) 11 0x100000001)
def fillCmd : Cmd := mkCmd (windowed filler) filler (actingCores filler 0) false (filler.cores.headD {}) { o := { a := 8 } } 0x41 1 5
/-- The part with these commands. -/
def engines (l : List Cmd) : State := { windowed filler with eng := { cmds := l } }

/-- What an issue comes to: 0 it waits, 1 it asks for a page, 2 it is done. -/
def issueKind (r : Issue) : Nat := match r with
  | .waits => 0
  | .asks _ _ => 1
  | .done _ _ => 2
theorem issue_done {r : Issue} (h : issueKind r = 2) : ∃ s w, r = .done s w := by
  cases r <;> simp_all [issueKind]
theorem witness_EngineCommandsIssue :
    let s := windowed filler
    let any : List Byte → Bool := fun _ => true
    let issue (s : State) (f : Firing) (c : Core) : Issue :=
      issueCmd any s f (mkCmd s f (actingCores f 0) false c { o := { a := 8 } } 0x41 1 5)
    let crowd (n : Nat) : State := engines (List.replicate n { unit := 1 })
    let locks (n : Nat) : State := { s with eng := { locks := List.replicate n {} } }
    let waits (r : State × Firing) : Bool := r.2.cores.any fun k => k.busy != .issued
    let run (s : State) : State × Firing := issueEach issue false 3 filler.cores (putFiring s filler) filler
    let many (k : Nat) : State := engines (List.replicate k { firing := 1, cores := [0], unit := 5 })
    let text : Cmd := { fillCmd with maj := 0x4D, fn := 1, unit := 6, uidx := 0, blk := [0, 0x10000, 64, 0, 0, 0] }
    let late (p : List Byte → Bool) (b : Bool) : Bool := okAnd (lateCheck p (mapped s ready) text) fun _ ok => ok == b
    let inbox (s : State) (m : Cmd) : Nat := s.eng.cmds.countP fun k => k.unit == m.unit && k.uidx == m.uidx && !(resting s k)
    On s filler (.copyFill { o := { a := 8 } }) ∧ waits (run (crowd 16)) = true ∧ waits (run s) = false ∧
    ([] : List Core).filter (fun c => takes (fileOf filler [] false c) 0) = [] ∧ (∀ k ∈ filler.cores, k.busy = .none) ∧
    issueKind (issue (putFiring s filler) filler (filler.cores.headD {})) = 2 ∧
    (∀ i ∈ fillCmd.cores, occp s filler { idx := i } < 255 ∧ occp (many 254) filler { idx := i } < 255 ∧
      ¬occp (many 255) filler { idx := i } < 255) ∧ inbox (crowd 15) fillCmd < (unitOf fillCmd.maj).2 ∧
    ¬inbox (crowd 16) fillCmd < (unitOf fillCmd.maj).2 ∧
    mustWait (locks 32) fillCmd = true ∧ mustWait (locks 31) fillCmd = false ∧
    cmdCheck s fillCmd = none ∧ cmdCheck s { fillCmd with blk := [] } = some 3 ∧
    late any true = true ∧ late (fun _ => false) false = true := by
  refine ⟨on_of rfl rfl rfl rfl rfl rfl, ?_, ?_, ?_, ?_, ?_, ?_, ?_, ?_, ?_, ?_, ?_, ?_, ?_, ?_⟩ <;> decide +kernel
theorem witness_HandlesAnswer :
    let nb : Cmd := { id := 7, maj := 0x47, unit := 3, serial := 1, code := 1, e := { ver := 1 } }
    let s : State := { demo fire with eng := { cmds := [nb] } }
    let wait (h : Word) := waitAll (fun s _ => waitHandle s 0 h fun ver fin => fin || decide (1 ≤ ver)) (actingCores fire 0) s
    let task : Task := { serial := 1, early := [3] }
    (∀ (o : OpE) (x : OpX), On s fire (.copyStat o) ∧ On s fire (.copyRsm o) ∧ On (super fire) fire (.copyAbrt o) ∧
      On s fire (.vstopCur x) ∧ On s fire (.vwaitVer x)) ∧
    actingCores fire 0 ≠ [] ∧ isHandler (putFiring s fire) fire = false ∧ isHandler (putFiring (super fire) fire) fire = true ∧
    wait (cmdHandle nb) = none ∧ (wait 0).isSome = true ∧
    publishing { demo fire with tasks := { tasks := [task] } } 0 (taskHandle 1 0 0) = true ∧ publishing s 0 (cmdHandle nb) = false :=
  ⟨fun _ _ => ⟨on_of rfl rfl rfl rfl rfl rfl, on_of rfl rfl rfl rfl rfl rfl, on_of rfl rfl rfl rfl rfl rfl,
    on_of rfl rfl rfl rfl rfl rfl, on_of rfl rfl rfl rfl rfl rfl⟩, by decide, rfl, rfl, rfl, rfl, rfl, rfl⟩
theorem witness_EngineCommandsRun :
    let m : Cmd := { fillCmd with id := 7 }
    let g : Cmd := { m with guard := 0x100, e := { guard := 5 } }
    let lost : Cmd := { m with begun := true, code := 1, count := 1, blk := m.blk.set 2 (0x10000 : Word) }
    let nb : Cmd := { id := 7, maj := 0x47, unit := 3, code := 1, begun := true, e := { ver := 1 } }
    let free (s : State) (m : Cmd) : Bool := (tenantOf s m.tenant).preempt.contains m.c || enginesHeld s m
    let fault (s : State) (m : Cmd) : Option Nat := (nextFault s m).map (·.1)
    (cmdOf (engines [m]) 7 = some m ∧ m.code = 0 ∧ startsBehind (engines [m]) m = false ∧ free (engines [m]) m = false ∧
      engineFenced (engines [m]) m.c m.cores m.id = false ∧ m.e.guard = 0) ∧
    (okAnd (unitRead (cmdMaster g) 30 0 (mapped (engines [g]) ready) g.guard 4) (fun _ _ => true) = true ∧ g.e.guard ≠ 0) ∧
    okAnd (finishCmd (engines [{ m with code := 1, begun := true, count := 1 }]) { m with code := 1, begun := true, count := 1 })
      (fun _ _ => true) = true ∧
    (mayFault (engines [lost]) lost = true ∧ fault (engines [lost]) lost = some 0x08 ∧ parks 0x08 = true) ∧
    (let s : State := { mapped (engines [g]) ready with l2 := { poison := [0x40000100 / 64] } }
     mayFault s g = true ∧ fault s g = some 0x0D ∧ parks 0x0D = false) ∧
    (hasGranules lost = true ∧ lost.stopped = false ∧ progOf lost % 2 ^ lost.e.sg.toNat = 0 ∧ lost.outs = [] ∧
      (tenantOf (mapped (engines [lost]) { ready with preempt := [0] }) 0).preempt.contains 0 = true) ∧
    nb.maj = 0x47 ∧ nb.ver = 0 ∧ nb.skip = false ∧ nb.haltAt ≠ (engines [nb]).clk + 1 ∧
      okAnd (firstVersion (engines [nb]) nb) (fun _ _ => true) = true := by
  refine ⟨⟨rfl, rfl, ?_, ?_, ?_, rfl⟩, ⟨?_, ?_⟩, ?_, ⟨?_, ?_, ?_⟩, ⟨?_, ?_, ?_⟩, ⟨?_, rfl, ?_, rfl, ?_⟩, rfl, rfl, rfl, ?_, ?_⟩ <;>
    decide +kernel
/-- A submission of a table load from device memory, and one of an element-wise task without operands. -/
def loadSub : TaskSub := { id := 5, firing := 1, cbld := true, e := { fb := 18 }, blk := [0x10000, 0] }
def emptySub : TaskSub := { id := 6, firing := 1, fn := 2, blk := List.replicate 9 0 }
/-- A transposition of one row from the cluster window to the device memory, held by cluster 0's sector. -/
def flip : Task :=
  { id := 5, launch := 1, firing := 1, inst := 1, cores := [0], fn := 5, e := { fo := 0 }, rows := some 1,
    blk := [5#64 <<< 60, 0, 0, 0x10000, 0x000400040004, 0, 0, 0, 0] }
/-- The part with these tasks, tenant 0 holding clusters 0 and 1. -/
def tasking (l : List Task) : State :=
  mapped { windowed mover with tasks := { tasks := l, subs := [loadSub, emptySub] } } ready

theorem witness_TasksSubmit :
    let s := tasking []
    let waits (r : State × Firing) : Bool := r.2.cores.any fun k => k.busy != .issued
    let run (f : Firing) : State × Firing := submitEach (fun s f c => submitTask s f (actingCores f 0) false {} 2 9 false c)
      ((actingCores f 0).filter fun c => c.busy != .issued) (putFiring s f) f
    let sent := one { busy := .issued }
    On s mover (.taskEw {}) ∧ waits (run mover) = true ∧ waits (run sent) = false ∧
    s.tasks.subs[0]? = some loadSub ∧ s.tasks.subs[1]? = some emptySub ∧ firingOf s 1 = some mover ∧
    taskCheck s (taskFrom s mover emptySub) = some 3 ∧ taskCheck s (taskFrom s mover loadSub) = none ∧
    freeEntry s 0 = some 0 ∧ roomFor s (taskFrom s mover loadSub) = true ∧
    codebookBarred s 0 {} false = false ∧ codebookBarred s 0 { fb := 18 } false = true := by
  refine ⟨on_of rfl rfl rfl rfl rfl rfl, ?_, ?_, rfl, rfl, rfl, ?_, ?_, ?_, ?_, ?_, ?_⟩ <;> decide +kernel
theorem witness_TasksRun :
    let load : Task := { taskFrom (tasking []) mover loadSub with id := 5 }
    let busy : Task := { flip with engine := some 0, firings := 1, code := 1 }
    let other : Task := { flip with id := 4, fin := true, ver := 1 }
    let stale : Task := { flip with firings := 1, pass := 1, ver := 1, code := 1, seen := [(4, 0)] }
    let bad : Task := { flip with blk := flip.blk.set 0 ((3#64) <<< 32) }
    let older : Task := { flip with id := 4 }
    let done : Task := { flip with fin := true, code := 2 }
    let tiled : Task := { flip with tile := some (1, true, []), renamed := true }
    let after (k : Task) : State := tasking [done, { k with id := 6 }]
    let fires (s : State) (t : Task) : Prop := freeEngine s t = some 0 ∧ wantsFiring s t = true ∧
      okAnd (fireTask s t 0) (fun _ t' => !t'.fin) = true
    (taskOf (tasking [flip]) 5 = some flip ∧ engineFenced (tasking [flip]) flip.c flip.cores flip.id = false ∧
      lostEngine flip = false ∧ fires (tasking [flip]) flip) ∧
    (tableReady (tasking [load]) load = true ∧ okAnd (loadTable (tasking [load]) load) (fun _ _ => true) = true) ∧
    fires (tasking [other, stale]) stale ∧
    (busy.stopAt ≠ (tasking []).clk + 1 ∧ readyOf (tasking [older, busy]) busy = .pass ∧
      heldAtD (tasking [older, busy]) busy = true) ∧
    (readyOf (tasking [busy]) busy = .pass ∧ heldAtD (tasking [busy]) busy = false ∧
      okAnd (publishRows (tasking [busy]) (passDone busy).1 (passDone busy).2.1 (passDone busy).2.2.1 (passDone busy).2.2.2)
        (fun _ _ => true) = true) ∧
    (readyOf (tasking [tiled]) tiled = .tile 1 true [] ∧
      okAnd (publishRows (tasking [tiled]) tiled 1 true []) (fun _ _ => true) = true) ∧
    (done.fin = true ∧ done.notes = [] ∧ youngerTasks (tasking [done]) done = [] ∧
      (youngerTasks (after done) done).length = 1 ∧ (youngerTasks (after busy) done).length = 1 ∧
      (youngerTasks (after { flip with blk := List.replicate 9 0 }) done).all (fun k => !(tasksMeet done k)) = true) ∧
    (flip.fin = false ∧ inheritsFault (tasking [{ flip with id := 4, blk := [0, 0, 0, 5#64 <<< 60, 0x400040004], code := 5, fin := true }, flip]) flip = true) ∧
    (faultAt (tasking [bad]) bad 0x08).isSome = true ∧
    (busy.engine = some 0 ∧ ∃ k ∈ sectorClusters (tasking [busy]) 0 0, k ≠ 0) ∧
    (∀ k ∈ sectorClusters (mapped (tasking [busy]) { ready with clmask := 1 }) 0 0, k = 0) ∧
    busy.stopped = false ∧ (tenantOf (mapped (tasking [busy]) { ready with preempt := [0] }) 0).preempt.contains 0 = true := by
  refine ⟨⟨rfl, ?_, ?_, ?_, ?_, ?_⟩, ⟨?_, ?_⟩, ⟨?_, ?_, ?_⟩, ⟨?_, ?_, ?_⟩, ⟨?_, ?_, ?_⟩, ⟨?_, ?_⟩, ⟨rfl, rfl, ?_, ?_, ?_, ?_⟩, ⟨rfl, ?_⟩,
    ?_, ⟨rfl, ?_⟩, ?_, rfl, ?_⟩ <;> decide +kernel
theorem witness_FetchOutcomesTrap :
    let f := one { pc := 0x100 }
    let s := mapped (demo f) ready
    let agent (k : Slot) : State := { mapped (demo fire) ready with cur := .agent 0, slots := [k] }
    let run : Slot := { st := .running, rprog := 0x1000, rpsize := 16 }
    (s.cur = .core 0 0 ∧ firingAt s 0 0 = some f ∧ ∃ s' w0 w1, fetchAt s f 0x100 = (s', .words w0 w1)) ∧
    (∃ s' addr sub w0, fetchAt (demo fire) fire 0 = (s', .failed addr sub w0)) ∧
    (slotOf (agent run) 0 = some run ∧ ((agentFetch (agent run) run).map fun r => agentLegal r.2) = some false) ∧
    agentFetch (agent { run with pc := 16 }) { run with pc := 16 } = none :=
  ⟨⟨rfl, rfl, _, _, _, Prod.ext_iff.2 ⟨rfl, rfl⟩⟩, ⟨_, _, _, _, rfl⟩, ⟨rfl, by decide +kernel⟩, rfl⟩

/-! ### Witnesses: agents and contexts -/

/-- A context in register 1, bound to a model instance. -/
def context : Ctx := { reg := 1, bound := some 0, bytes := [65], entries := [{}] }
/-- The part with this agent in slot 0 acting, a table of two alternatives at 0 of its memory and a stop list at 0x100. -/
def agent (k : Slot) (l : List Ctx) : State :=
  let s := mapped { demo fire with
    cur := .agent 0, slots := [k], ctx := { ctxs := l, models := [{}, { num := 1 }] } } ready
  { s with mem := (0x40020004, 1) :: (0x4002000C, 1) :: (0x40020100, 1) :: (0x40020101, 1) :: (0x40020102, 65) :: s.mem }
/-- A running agent: a2 is 0, a3 is 2, and its memory is at 0x20000. -/
def runner : Slot := { st := .running, ramem := 0x20000, a := (Vector.replicate 16 0).set 3 2 }
theorem agent_issues (l : List Ctx) (k : Slot) (rd wr cs : List (BitVec 4)) (hn : k.num = 0) (hs : k.st = .running)
    (ho : k.owed = false) (hk : k.klaunch = none) (hl : k.long = none) (hp : k.pend = 0) :
    AgentIssues (agent k l) k rd wr cs :=
  ⟨0, rfl, by simp [slotOf, agent, mapped, hn], hs, ho, hk, by simp [boardHolds, agent, mapped, hl, hp]⟩
theorem runner_issues (rd wr cs : List (BitVec 4)) : AgentIssues (agent runner [context]) runner rd wr cs :=
  agent_issues _ _ _ _ _ rfl rfl rfl rfl rfl rfl

theorem witness_AgentWordsAct :
    let far : Slot := { runner with ramem := 0x40000000 }
    (∀ rd wr cs, AgentIssues (agent runner [context]) runner rd wr cs ∧ AgentIssues (agent far [context]) far rd wr cs) ∧
    ¬((65529#64).toNat + 8 ≤ 65536 ∧ (65529#64).toNat % 8 = 0) ∧ ((65528#64).toNat + 8 ≤ 65536 ∧ (65528#64).toNat % 8 = 0) ∧
    (∃ e, partKey (agent far [context]) 0 (far.ramem + 65528) .rd = .error e) ∧
    (∃ e, partKey (agent far [context]) 0 (far.ramem + 65528) .wr = .error e) ∧
    partKey (agent runner [context]) 0 (runner.ramem + 65528) .rd = .ok 0x4002FFF8 ∧
    partKey (agent runner [context]) 0 (runner.ramem + 65528) .wr = .ok 0x4002FFF8 ∧
    served (agent runner [context]) .sys 0x4002FFF8 8 = true :=
  ⟨fun _ _ _ => ⟨runner_issues _ _ _, agent_issues _ _ _ _ _ rfl rfl rfl rfl rfl rfl⟩, by decide, by decide,
    ⟨8, by decide +kernel⟩, ⟨8, by decide +kernel⟩, by decide +kernel, by decide +kernel, rfl⟩
theorem witness_ContextWordsManage (rd wr cs : List (BitVec 4)) : AgentIssues (agent runner [context]) runner rd wr cs :=
  runner_issues _ _ _
theorem witness_LongInstructionsBegin :
    let s := agent runner [context]
    let lone := agent runner [{ context with bound := none }]
    let sick := agent runner [{ context with poisoned := true }]
    let pair := agent runner [context, { context with reg := 2, bound := some 1 }]
    let o : OpC := { x := 0, y := 1, z := 2, w := 3 }
    let stops (s : State) (imm : W32) : Option (List (List Byte)) :=
      (if amServed s runner (imm.setWidth 64) (min 512 (65536 - imm.toNat)) then
        amRead s runner (imm.setWidth 64) (min 512 (65536 - imm.toNat)) else none).bind fun r =>
        match parseStops (r.2.getD 0 0).toNat (r.2.drop 1) with
        | .ok l => l
        | .error _ => none
    runner.long = none ∧ (∀ rd wr cs l, AgentIssues (agent runner l) runner rd wr cs) ∧
    ctxOf s 0 1 = some context ∧ context.poisoned = false ∧ (boundModel s context).isSome = true ∧ amServed s runner 0 2 = true ∧
    amServed { s with dir := [{ key := 0x40020000, pend := [9] }], pcores := [{ accs := [acc .store 0] }] }
      runner 0 2 = false ∧
    (ctxOf lone 0 1 = some { context with bound := none } ∧ boundModel lone { context with bound := none } = none) ∧
    ctxOf sick 0 1 = some { context with poisoned := true } ∧ o.m.getLsbD 0 = false ∧
    ((0x41#8).getLsbD 0 = true ∧ (0x41#8).getLsbD 6 = true ∧ (0x100#32).toNat < 65536 ∧ (0x100#32).toNat % 8 = 0 ∧
      stops s 0x100 = some [[65]] ∧ stops lone 0x100 = some [[65]] ∧ stops sick 0x100 = some [[65]] ∧
      stops pair 0x100 = some [[65]] ∧ stops { s with mem := (0x4002FFF8, 1) :: (0x4002FFF9, 1) :: s.mem } 0xFFF8 = some [[0]]) ∧
    (1 ≤ (runner.a[3]).toNat ∧ (runner.a[2]).toNat + (runner.a[3]).toNat ≤ 65536 ∧
      ((amRead s runner 0 2).map fun r => r.2.length) = some 2) ∧
    ctxFull context = false ∧ resultOk s runner o 8 = true ∧ (1 ≤ (2 ^ 24 : Nat) ∧ (2 ^ 24 : Nat) ≤ 2 ^ 24) ∧
    (2 ≤ (runner.a[3]).toNat ∧ ((amRead s runner 0 16).bind fun r => match readAlts runner ((List.range 2).map fun j =>
        (ofBytes ((r.2.drop (8 * j)).take 4), ofBytes ((r.2.drop (8 * j + 4)).take 4))) r.1 with
      | .ok (_, some alts) => some alts
      | _ => none) = some [[0], [0]] ∧ resultOk s runner o 12 = true) ∧
    (ctxOf pair 0 2).map (fun d => (d.poisoned, (boundModel pair d).isSome, d.bound == context.bound, ctxFull d)) =
      some (false, true, false, false) := by
  refine ⟨rfl, fun _ _ _ _ => agent_issues _ _ _ _ _ rfl rfl rfl rfl rfl rfl, ?_⟩
  decide +kernel

/-! ### Witnesses: launches, the scheduler, records and messages -/

/-- Memory with a launch record at 0x30000 whose graph block is at 0x30100, a word 1 at 0x30200, and at 0x30300 a launch
queue that names the record and then no record. -/
def recorded (s : State) : State :=
  let at' (l : List (Nat × Nat)) : Mem := l.map fun e => (0x40030000 + e.1, BitVec.ofNat 8 e.2)
  { s with mem := at' [(0x01, 1), (0x02, 3), (0x11, 2), (0x12, 3), (0x20, 1), (0x28, 1), (0x2C, 5), (0x100, 1), (0x200, 1),
                       (0x302, 3), (0x308, 1)] ++ s.mem }
def queued : Tenant := { ready with lqbase := 0x30300, lqlog := 1, lqtail := 2 }
/-- The part with this launch and this tenant, and nothing running. -/
def launching (k : Launch) (t : Tenant) : State :=
  recorded (mapped { State.reset with launches := [k], nextId := 3 } t)
/-- A launch of one repeated core level with one actor. -/
def plain : Launch :=
  { id := 2, held := false, done := 0x30200, part := 3, levels := [{ dom := 5, count := 1, max := 1 }], counts := [1],
    graph := { actors := [{}] } }
def repeating : Launch :=
  { plain with levels := [{ dom := 5, count := 1, max := 1 }, { dom := 6, count := 1, max := 1 }], counts := [1, 1],
               taken := [[0], [0, 0]], graph := { actors := [{ lvl := 1 }] } }
/-- Whether an acceptance ends with a launch. -/
def isAccepted (r : State × Accept) : Bool := match r.2 with
  | .accepted _ => true
  | _ => false
/-- Whether it ends with a rejected record. -/
def isRejected (r : State × Accept) : Bool := match r.2 with
  | .rejected => true
  | _ => false
/-- Whether it cannot report the failure. -/
def isLost (r : State × Accept) : Bool := match r.2 with
  | .unreportable _ => true
  | _ => false

theorem witness_LaunchesRun :
    let entry (s : State) (head : Nat) : Option Word :=
      ((partRead s 0 (0x30300 + BitVec.ofNat 64 (8 * (head % 2))) 8).toOption).map fun r => BitVec.ofNat 64 (ofBytes r.2)
    let s := launching plain queued
    let asker : Slot := { num := 1, st := .running, klaunch := some (2, 0x30000) }
    let held (after : Word) : Launch := { plain with held := true, after := after }
    let s2 := launching repeating ready
    let mine (x : Inst) : Bool := x.launch == 2 && x.path.take 2 == [0, 0]
    let ended := { plain with taken := [[0]] }
    (({ ready with vstate := 1 } : Tenant).vstate ≠ 2 ∧ (tenantOf s 0).vstate = 2 ∧ (tenantOf s 0).supl = none) ∧
    (queued.lqhead ≠ queued.lqtail ∧ partServed s 0 0x30300 8 = true ∧ partServed s 0 0x30308 8 = true ∧ entry s 0 = some 0x30000 ∧ isAccepted (acceptRecord s 0 0x30000 .queue) = true) ∧
    (({ queued with lqhead := 1 } : Tenant).lqhead ≠ queued.lqtail ∧ entry s 1 = some 1 ∧ (1#64).toNat % 32 ≠ 0) ∧
    ((tenantOf (launching plain { queued with supl := some 0x30000 }) 0).supl = some 0x30000 ∧
      isAccepted (acceptRecord s 0 0x30000 .supl) = true ∧ isRejected (acceptRecord { s with mem := (0x40030000, 1) :: s.mem } 0 0x30000 .supl) = true ∧
      isLost (acceptRecord s 0 0x30200 .supl) = true) ∧
    (isAccepted (acceptRecord { s with slots := [asker] } 0 0x30000 (.klaunch 1 2)) = true ∧
      (slotOf (acceptRecord { s with slots := [asker] } 0 0x30000 (.klaunch 1 2)).1 1).isSome = true) ∧
    (launchOf (launching (held 0) ready) 2 = some (held 0) ∧
      ((readCounts (launching (held 0) ready) 0 2 plain.levels).toOption.map fun r => r.2) = some (some [1])) ∧
    ((partWord (launching (held 0x30200) ready) 0x40030200 8 2).2 ≠ 0 ∧ served (launching (held 0x30200) ready) .sys 0x40030200 8 = true) ∧
    (pathReady plain [0] = true ∧ actorsAt plain 0 ≠ [] ∧ actorsAt { plain with graph := {} } 0 = [] ∧
      (unitAt plain.part (launchWidth plain) plain.levels [0] {}).bind (placeOf plain.part) = some 0 ∧
      holdsCluster s 0 0 = true ∧ (tenantOf s 0).leaving.contains 0 = false ∧ isSaved s 0 0 = false ∧ othersOn s 0 0 = false ∧
      s.cfg.fenced.contains 0 = false ∧ (∀ e ∈ s.launches, e.tenant = 0 → e.id < 2 → e.held = false → hasOpen e (some 0) = false) ∧
      ((unitAt plain.part (launchWidth plain) plain.levels [0] {}).bind fun u =>
        takeOn 0 u plain [0] (actorsAt plain 0) { s with launches := [{ plain with taken := [[0]] }] }).isSome = true) ∧
    ((repeating.levels.getD 1 {}).dom = 6 ∧ repeating.taken.contains [0, 0] = true ∧ isFinished repeating [0, 0] = false ∧
      ((unitAt repeating.part (launchWidth repeating) repeating.levels [0, 0] {}).any fun u => openLevel repeating
        (launchWidth repeating) (fun _ _ => true) ((repeating.levels.zip repeating.counts).drop 2) [0, 0] u) = false ∧
      (∀ x ∈ s2.insts, mine x = true → quiescent x = true) ∧ s2.transit = [] ∧ s2.inbox = [] ∧ s2.eng.cmds = [] ∧
      s2.tasks.tasks = []) ∧
    (hasOpen ended none = false ∧ isStep ended.origin = false ∧
      ((match (partLocate (launching ended ready) 0 0x30200 .wr).2 with | .ok p => p.key | _ => 0) = 0x40030200) ∧
      spaceOf 0x30200 = 0 ∧ (launching ended ready).insts = [] ∧ (launching ended ready).firings = [] ∧
      (launching ended ready).pcores = []) := by
  refine ⟨⟨?_, ?_, ?_⟩, ⟨?_, ?_, ?_, ?_, ?_⟩, ⟨?_, ?_, ?_⟩, ⟨?_, ?_, ?_, ?_⟩, ⟨?_, ?_⟩, ⟨rfl, ?_⟩, ⟨?_, ?_⟩,
    ⟨?_, ?_, ?_, ?_, ?_, ?_, ?_, ?_, ?_, ?_, ?_⟩, ⟨?_, ?_, ?_, ?_, nofun, rfl, rfl, rfl, rfl⟩, ?_, ?_, ?_, ?_, rfl, rfl, rfl⟩ <;>
    decide +kernel
theorem witness_FiringsBindAndEnd :
    let x : Inst := { id := 2, launch := 1, st := .eligible }
    let at' (l : List Inst) : State := { mapped (demo fire) ready with insts := l, clk := 4096 }
    let free : State := { at' [x] with firings := [] }
    let broken : State := { at' [x] with pcores := (List.range 8).map fun i => { i := i, out := true } }
    let rst : State := { demo fire with
      launches := [{ id := 1, held := false, rst := true, graph := { actors := [{ rst := true }] } }] }
    let may (s : State) (f : Firing) : Prop :=
      ((launchOf s 1).map fun l => l.rst).getD false = true ∧ (actorOf s 1 0).rst = true ∧ f.attempt < 3
    let home : Inst := { id := 1, launch := 1, group := some (0, 1) }
    let away (s : State) (x : Inst) : Bool := (leadsOf s x).any (groupSound s { x with avoid := some 0 })
    let spoilt : State := { demo fire with pcores := [{ errAt := some 0 }], clk := 2 ^ 30 - 1 }
    let late (n : Nat) : Firing := { fire with wdcount := n }
    ((∀ y ∈ free.insts, y.clus = 0 → y.st = .eligible → noGroup free 0 (instWidth free y) = false) ∧
      (oldestInst (free.insts.filter fun y => readyInst free 0 y && inputsQuiet free y && (bindLead free y).isSome)) = some x ∧
      bindLead free x = some 0) ∧
    (x ∈ broken.insts ∧ noGroup broken 0 (instWidth broken x) = true ∧ broken.cfg.fenced.contains 0 = false) ∧
    (oldestInst ((at' [x]).insts.filter (readyInst (at' [x]) 0)) = some x ∧ x.since + 4096 ≤ (at' [x]).clk ∧
      (at' [x]).closed = [] ∧ (leadsOf (at' [x]) x).find? (groupSound (at' [x]) x) = some 0) ∧
    (let f := { fire with ending := true }
     firingOf (demo f) 1 = some f ∧ expired f = false ∧ commitQuiet (demo f) f = true ∧ sendsFit (demo f) f = true) ∧
    (firingOf (demo (late 65536)) 1 = some (late 65536) ∧ fire.issued = true ∧ (late 65536).wdlimit ≤ (late 65536).wdcount ∧
      expired (late 65535) = false) ∧
    (∃ k ∈ fire.cores, k.idx = 0) ∧ ¬may (noteError (demo fire) 0 0) fire ∧ may (noteError rst 0 0) { fire with attempt := 2 } ∧
    ¬may (noteError rst 0 0) { fire with attempt := 3 } ∧
    away (noteError rst 0 0) { home with group := none } = true ∧ away (noteError rst 0 0) home = false ∧
    inService (noteError rst 0 0) 0 0 = true ∧ inService (noteError spoilt 0 0) 0 0 = false := by
  refine ⟨⟨?_, ?_, ?_⟩, ⟨.head _, ?_, ?_⟩, ⟨?_, ?_, rfl, ?_⟩, ⟨rfl, ?_, ?_, ?_⟩, ⟨rfl, rfl, ?_, ?_⟩, ⟨{}, .head _, rfl⟩, ?_, ?_,
    ?_, ?_, ?_, ?_, ?_⟩ <;> decide +kernel
theorem witness_RecordsAndMessagesMove :
    let r : Record := { rtype := 2, firing := 9 }
    let t : Tenant := { ready with trbase := 0x40000, trlog := 4, trhead := 15 }
    let s : State := { mapped (demo fire) t with records := [{ r with tenant := 1 }, r] }
    let behind : State := { s with records := [{ r with clus := 1 }, r], saved := [{ c := 1 }] }
    let lost : State := { mapped (demo fire) { t with trbase := 0x40000000 } with records := [r] }
    let f : Firing := one { busy := .resolve 7 }
    let m : Msg := { launch := 1, addr := 0xF000, words := [7] }
    let l : Launch := { id := 1, held := false, levels := [{ dom := 5, count := 1, max := 1 }], counts := [1], part := 1,
                        taken := [[0]], graph := { actors := [{ ins := [(0, 1)] }] } }
    let x : Inst := { id := 4, launch := 1, path := [0] }
    let sent (m : Msg) : State := { demo fire with launches := [l], insts := [x], transit := [m] }
    let boxed : State := { demo fire with
      launches := [l], insts := [x], inbox := [(0, { m with addr := 0 })], chans := [{ launch := 1, free := [0] }] }
    (s.records[1]? = some r ∧ (∀ q ∈ s.records.take 1, ¬(q.die = 0 ∧ q.tenant = r.tenant)) ∧ storesDone s 9 = true ∧
      isSaved s r.tenant r.clus = false ∧ t.trhead - t.trtail ≠ 1#64 <<< t.trlog.toNat ∧
      (partWrite { s with records := [] } 0 (t.trbase + BitVec.ofNat 64 (64 * 15)) (recordBytes r 16)).toOption.isSome = true) ∧
    (behind.records[1]? = some r ∧ (∀ q ∈ behind.records.take 1, isSaved behind q.tenant q.clus = true) ∧
      isSaved behind r.tenant r.clus = false) ∧
    (lost.records[0]? = some r ∧ storesDone lost 9 = true ∧
      (partWrite { lost with records := [] } 0 (0x40000000 + BitVec.ofNat 64 (64 * 15)) (recordBytes r 16)).toOption.isSome = false) ∧
    (firingAt (demo f) 0 0 = some f ∧ (f.cores.find? fun k => k.idx == 0) = some { busy := .resolve 7 } ∧
      storesOf (demo f) 0 0 = [] ∧ (∀ u ∈ actingCores f 0, u.idx = 0)) ∧
    (heldBack ((sent m).transit.take 0) m = false ∧ isSaved (sent m) 0 (maClus m.addr) = false ∧
      targetOf (sent { m with addr := 1 <<< 18 }) { m with addr := 1 <<< 18 } = .none ∧ targetOf (sent m) m = .inst x (l.graph.actors.headD {}) ∧
      portTakes (sent m) x (l.graph.actors.headD {}) m = true ∧
      portTakes (sent m) x (l.graph.actors.headD {}) { m with addr := 0x1000 } = false ∧ (sent m).inbox.length < 256) ∧
    boxed.inbox[0]? = some (0, { m with addr := 0 }) ∧ (actorOf boxed 1 0).ins[0]? = some (0, 1) ∧
      chanAt boxed 0 1 0 = some { launch := 1, free := [0] } ∧ isSaved boxed 0 0 = false := by
  refine ⟨⟨rfl, ?_, ?_, ?_, ?_, ?_⟩, ⟨rfl, ?_, ?_⟩, ⟨rfl, ?_, ?_⟩, ⟨rfl, rfl, rfl, ?_⟩, ⟨rfl, rfl, ?_, ?_, ?_, ?_, ?_⟩, rfl, rfl,
    rfl, rfl⟩ <;> decide +kernel

/-! ### Witnesses: start-up, tenants, registers, translation answers -/

theorem witness_PartAndFunctionsStart :
    let on : State := { State.reset with cfg := { powered := true } }
    let trained : State := { on with cfg := { on.cfg with ready := true } }
    let s := mapped trained ready
    State.reset.cfg.powered = false ∧ (on.cfg.powered = true ∧ on.cfg.ready = false) ∧
    (1 ≤ 1 ∧ 15 < 16 ∧ (tenantOf trained 1).enabled = false ∧ (tenantOf trained 15).enabled = false ∧ trained.cfg.ready = true) ∧
    (tenantOf s 0).vstate ≠ 1 ∧ (tenantOf (mapped trained { ready with vstate := 1 }) 0).vstate = 1 ∧ (tenantOf s 0).enabled = true ∧
    0 < windowSize (mapped trained { ready with windows := [1, 0, 0, 0] }) 0 0 := by
  refine ⟨rfl, ?_⟩
  decide +kernel
theorem witness_ResourcesAreGranted :
    let s := mapped State.reset ready
    let zeroing : State := { s with cfg := { s.cfg with groups := s.cfg.groups.set 1 { assigned := true } } }
    let own : Word := 0x100
    let good : BitVec 256 := 1 + 1#256 <<< 80 + 3#256 <<< 192
    let idle : BitVec 256 := 3#256 <<< 192
    let leaver := mapped State.reset { ready with leaving := [1] }
    let stopping := mapped State.reset { ready with preempt := [0, 1] }
    (own.getLsbD 8 = true ∧ (groupAt s 0).assigned = true ∧ (groupAt s 0).owner = own.toNat % 2 ^ 4 ∧
      (groupAt s 47).assigned = false ∧ (0x102#64).getLsbD 8 = true ∧ (groupAt s 0).owner ≠ (0x102#64).toNat % 2 ^ 4 ∧
      (0#64).getLsbD 8 = false ∧ (groupAt zeroing 1).assigned = true ∧ (groupAt zeroing 1).ready = false) ∧
    (replaceWord (replaceWord (replaceWord 0 1 0x10000) 3 3) 0 1 = good ∧ fregClean good = true ∧ fregOk s good = true) ∧
    (replaceWord 0 3 3 = idle ∧ fregClean idle = true ∧ fregOk s idle = true ∧
      fregOk s (replaceWord idle 3 20) = false) ∧
    fregClean (replaceWord (vget s.cfg.fregs 15 0) 0 2) = false ∧
    ((tenantOf s 0).preempt = [] ∧ (20#64).toNat % 2 ^ 32 % 32 = 20 ∧ (30#64).toNat % 2 ^ 32 % 32 = 30 ∧
      (19#64).toNat % 2 ^ 32 % 32 < 20 ∧ 30 < (31#64).toNat % 2 ^ 32 % 32 ∧ (0x78 < 0x80 ∧ 0x78 % 8 = 0)) ∧
    ((tenantOf stopping 0).preempt ≠ [] ∧ (0x3F8 < 0x400 ∧ 0x3F8 % 8 = 0 ∧ 0x3F8 ≠ 0xB0) ∧
      (tenantOf stopping 0).preempt.filter (fun k => k != 1) ≠ [] ∧ (tenantOf stopping 0).resume.contains 1 = false) ∧
    ((tenantOf leaver 0).leaving.contains 1 = true ∧ leaver.insts = [] ∧ leaver.launches = [] ∧
      (tenantOf leaver 0).preempt.contains 1 = false) := by
  refine ⟨?_, ?_, ?_, ?_, ?_, ?_, ?_, rfl, rfl, ?_⟩ <;> decide +kernel
theorem witness_TenantsArePreempted :
    let sliced (t : Tenant) : State := mapped State.reset { t with slice := true }
    let saved : State := { sliced { ready with resume := [0] } with saved := [{}] }
    (tenantOf (mapped State.reset ready) 0).slice = false ∧ (tenantOf (sliced ready) 0).slice = true ∧
    ((1#32).toNat % 2 ^ 8 = 1 ∧ (2#32).toNat % 2 ^ 8 = 2 ∧ (3#32).toNat % 2 ^ 8 = 3) ∧
    (tenantOf (sliced { ready with preempt := [0] }) 0).preempt ≠ [] ∧ (tenantOf (sliced ready) 0).preempt = [] ∧
    ((tenantOf (sliced { ready with preempt := [0] }) 0).preempt.contains 0 = true ∧
      atBoundary (sliced { ready with preempt := [0] }) 0 0 = true ∧
      atBoundary (discardOn (sliced { ready with preempt := [0], urgent := [0] }) 0 0) 0 0 = true ∧
      (let s2 := saveCluster (sliced { ready with preempt := [0, 1] }) 0 0
       ((tenantOf s2 0).preempt.filter fun k => k != 0) ≠ [] ∧ (tenantOf s2 0).resume.contains 0 = false) ∧
      let s2 := saveCluster (sliced { ready with preempt := [0] }) 0 0
      (tenantOf s2 0).preempt.contains 0 = true ∧ ((tenantOf s2 0).preempt.filter fun k => k != 0) = [] ∧ s2.cfg.held = []) ∧
    ((saved.saved.find? fun y => y.v == 0 && y.c == 0) = some {} ∧ (tenantOf saved 0).resume.contains 0 = true ∧
      othersOn saved 0 0 = false ∧ (restoreChip saved 0 (dieOf 0)).isSome = true) := by
  refine ⟨?_, ?_, ?_, ?_, ?_, ⟨?_, ?_, ?_, ?_, ?_⟩, rfl, ?_, ?_, ?_⟩ <;> decide +kernel
theorem witness_RegistersAreWritten :
    let s := mapped State.reset ready
    (tenantOf s 0).enabled = true ∧ (tenantOf s 1).enabled = false ∧ pageAccess 4 8 = false ∧ pageAccess 0x1000 8 = true ∧ pageAccess 0xFFF8 8 = true ∧
    (tenantOf s 0).scount.toNat ≤ 0x4000 / 4096 ∧ 0x3FF8 / 4096 < (tenantOf s 0).scount.toNat ∧
    pageAccess 0x020 8 = true ∧ pageAccess 0x010 8 = true ∧ pageAccess 0x048 8 = true ∧ pageAccess 0x00C 4 = true ∧
    (tenantOf (mapped State.reset { ready with vstate := 1 }) 0).vstate = 1 ∧ (tenantOf s 0).vstate ≠ 1 := by decide +kernel
theorem witness_FabricAndClocksMove :
    let s := mapped State.reset ready
    let linked : State := { s with cfg := { s.cfg with links := 0x20000 } }
    let id : ClockId := ⟨0, none⟩
    let cast : State := { s with l2 := { clks := [{}], casts := [(1, id, 4), (0, id, 5)] } }
    (tenantOf s 0).enabled = true ∧ 1 ≤ 8 ∧ 0x400000000 % 8 + 8 ≤ 8 ∧ aperturePa s 0 0x400000000 = none ∧
    aperturePa s 0 0x3FFFFFFF8 = some 0x3FFFFFFF8 ∧ served s .sys (memKey .device 0x3FFFFFFF8) 8 = true ∧ 63 < 64 ∧
    linked.cfg.links.getLsbD 17 = true ∧
    (cast.l2.casts[1]? = some (0, id, 5) ∧ ∀ e ∈ cast.l2.casts.take 1, ¬(e.1 = 0 ∧ e.2.1 = id)) ∧
    65536 ≤ (tenantOf (mapped State.reset { ready with promises := 65536 }) 0).promises := by decide +kernel
theorem witness_TranslationEventsAct :
    let q (n since : Nat) : PageReq := { id := 5, phase := n, since := since }
    let v : Inval := { id := 0 }
    let w : Inval := { core := some (0, 0, 9) }
    let s : State := { State.reset with
      xlat := { invals := [v, w], reqs := [q 0 0, q 1 0, q 2 0, q 4 0, q 1 1, q 3 0] }, clk := 2 ^ 27 }
    s.xlat.invals[0]? = some v ∧ drained s v = true ∧ s.xlat.invals[1]? = some w ∧ drained s w = true ∧
    s.xlat.reqs[0]? = some (q 0 0) ∧ s.xlat.reqs[1]? = some (q 1 0) ∧ s.xlat.reqs[2]? = some (q 2 0) ∧
    s.xlat.reqs[3]? = some (q 4 0) ∧ s.xlat.reqs[4]? = some (q 1 1) ∧ s.xlat.reqs[5]? = some (q 3 0) ∧
    (hostEntry (q 0 0) 0x1000 (2 ^ 12) true true false).pa % max (2 ^ 12) 4096 = 0 ∧
    (q 1 0).since + 2 ^ ((tenantOf s 0).prlim.toNat % 32) ≤ s.clk ∧ ¬(q 1 1).since + 2 ^ ((tenantOf s 0).prlim.toNat % 32) ≤ s.clk := by
  decide +kernel

/-! ### Witnesses: slots, pages and steps -/

theorem witness_SlotCommandsAct :
    let at' (k : Slot) (t : Tenant) : State := { mapped State.reset t with slots := [k] }
    let able := { ready with faccept := 2 }
    let fit : Slot := { prog := 0x1000, psize := 16, entry := 8, amem := 0x20000 }
    let seated : State := { at' { st := .running } ready with ctx := { steps := [{ seats := [{}] }] } }
    slotTenant (at' {} ready) 0 = some 0 ∧ slotTenant (at' {} ready) 3 = some 0 ∧
    ((slotAt (at' {} ready) 0).st = .idle ∧ accepted (at' {} ready) 0 1 = false) ∧
    (accepted (at' {} able) 0 1 = true ∧ startOk (at' {} able) {} = false) ∧
    ((slotAt (at' { fit with st := .halted } able) 0).st = .halted ∧ startOk (at' { fit with st := .halted } able) fit = true) ∧
    ((slotAt seated 0).st = .running ∧ isSeated seated 0 = true) ∧
    (isSeated (at' { st := .running } ready) 0 = false ∧ midRound { st := .running } = false ∧
      midRound { st := .running, long := some { o := {}, prog := { op := 0x64 }, chains := [[0]] } } = true) ∧
    (slotAt (at' { st := .stopped } ready) 0).st = .stopped ∧ (slotAt (at' { st := .trapped } ready) 0).st = .trapped ∧
    (slotOf (at' {} ready) 0).isSome = true := by decide +kernel
/-- A page in frame 0, one in twilight and one that is promoted, all of one context; the backing store is host memory that
sector 0's cache translates. -/
def paged (l : List Page) : State :=
  let c : Ctx := { context with blocks := l.map fun p => [p.num], first := l.map fun _ => 99, homeSet := [0, 1] }
  { mapped State.reset { ready with poolfr := 64, backing := 1#64 <<< 60, backsz := 0x40000000 } with
    ctx := { ctxs := [c], models := [{ homeSet := [0, 1] }], pages := l }
    xlat := { entries := [{ sector := true, host := true, size := 2 ^ 30, r := true, w := true }] } }
theorem next_differs (t : Word) : t ≠ t + 1 := by bv_omega
/-- Whether a place of the backing store was located. -/
def isPlace (r : State × Except Bool (List (Nat × Nat × Nat))) : Bool := match r.2 with
  | .ok _ => true
  | .error _ => false
theorem witness_PagesMove :
    let p : Page := { num := 0, frame := some 0 }
    let dim : Page := { num := 1, st := .twilight, frame := some 1, place := some 0, pa := 2 ^ 21 }
    let rising : Page := { num := 2, st := .promoting, frame := some 2, place := some 1 }
    let gone : Page := { num := 3, st := .absent, place := some 0 }
    let asked : State := { paged [gone] with ctx := { (paged [gone]).ctx with faults := [(0, 3)] } }
    let broken : State := { paged [rising] with xlat := { (paged [rising]).xlat with hostError := true } }
    let used : State := { paged [p] with launches := [plain] }
    (comingFrames (paged [p]) 0 < 64 ∧ chooseEviction (paged [p]) 0 = some p ∧ canEvict (paged [p]) p = true) ∧
    (choosePromotion (takeFaults asked) 0 = some 3 ∧ lowestFrame (takeFaults asked) 0 = some 0 ∧
      framePa (takeFaults asked) 0 0 = some 0x40000000) ∧
    (pageAt (paged [dim]) 0 1 = some dim ∧ dim.st = .twilight ∧ pageBusy (paged [dim]) dim = false ∧
      isPlace (placeSpan (paged [dim]) 0 0 .wr) = true) ∧
    (pageAt (paged [rising]) 0 2 = some rising ∧ rising.st = .promoting ∧ rising.failed = false ∧
      isPlace (placeSpan (paged [rising]) 0 1 .rd) = true) ∧
    (∀ cells : Mem, tagOf cells ≠ tagOf cells + 1) ∧ spaceOf (tenantOf broken 0).backing = 1 ∧
    (pageAt (paged [{ p with failed := true }]) 0 0 = some { p with failed := true } ∧
      stepOn (paged [{ p with failed := true }]) 0 0 = false) ∧
    ((blocksAt used 0 1 0)[0]? = some ([0, 1], 99, [0]) ∧ pageAt used 0 0 = some p ∧
      pageBusy used p = false ∧ p.home ≠ homeOf [0, 1] 99 0 ∧ used.launches ≠ []) := by
  refine ⟨⟨?_, ?_, ?_⟩, ⟨?_, ?_, ?_⟩, ⟨rfl, rfl, ?_, ?_⟩, ⟨rfl, rfl, rfl, ?_⟩, fun cells => next_differs _, ?_, ⟨rfl, rfl⟩, ?_, ?_,
    ?_, ?_, ?_⟩ <;> decide +kernel
theorem witness_StepsFillAndCommit :
    let k : Slot := { st := .running, long := some { o := { y := 1 }, prog := { op := 0x61, limit := 4 } } }
    let m : Model := { homeSet := [0, 1] }
    let s : State := { mapped State.reset { ready with poolfr := 64 } with
      slots := [k], ctx := { ctxs := [context], models := [m] } }
    let t : Step := { seats := [{}] }
    let stepping : State := { s with ctx := { s.ctx with steps := [t] } }
    (modelOf s 0 0 = some m ∧ pinHolds s 0 0 = false ∧ s.ctx.steps = [] ∧ ((fillStep (takeFaults s) m).seated.length = 1)) ∧
    modelOf stepping 0 0 = some m ∧ (stepping.ctx.steps.find? fun t => t.tenant == 0 && t.inst == 0) = some t ∧ t.launches = [] := by
  refine ⟨⟨rfl, ?_, rfl, ?_⟩, rfl, rfl, rfl⟩ <;> decide +kernel
/-! ### Witnesses: the whole machine -/

theorem witness_TrapsHoldTheInstance :
    ((demo fire).records.filter fun q => q.die == dieOf fire.clus).length < 256 ∧
    (List.replicate 255 ({} : Record)).length < 256 ∧ isHandler (demo fire) fire = false ∧ isHandler (super fire) fire = true ∧
    (instOf (demo fire) fire.inst).isSome = true := by decide +kernel
theorem witness_RegisterFilesHold : (0 < 32 ∧ 31 < 32) ∧ (0 < 8 ∧ 7 < 8) ∧ (0#5).toNat < 30 ∧ (29#5).toNat < 30 := by decide
theorem witness_RegisterWordsKeepTheRest :
    (demo fire).cur = .core 0 0 ∧ firingAt (demo fire) 0 0 = some fire ∧ (∃ t, exec (.aluAdd { d := 3 }) (demo fire) = .next t) ∧
    (∃ t, exec (.cmpEq { d := 1 }) (demo fire) = .next t) ∧ ∃ t, exec (.vmovMov { d := 5 }) (demo fire) = .next t :=
  ⟨rfl, rfl, ⟨_, rfl⟩, ⟨_, rfl⟩, _, rfl⟩
theorem witness_StoresKeepOtherBytes :
    (∃ t, exec (.ldB { o := { a := 1, d := 3 } }) (windowed mover) = .next t) ∧
    (∃ t, exec (.stD { o := { a := 1 } }) (windowed mover) = .next t) ∧
    let a := { acc .store 5 with bytes := 0xFF, key := memKey .cluster 0 }
    accAt (ordered [a]) 0 0 9 = some a ∧ a.lanes = false ∧ coherent a = false ∧ clear (ordered [a]) 0 0 a = true ∧
      Memory.wf (ordered [a]).mem = true :=
  ⟨⟨_, rfl⟩, ⟨_, rfl⟩, rfl, rfl, rfl, rfl, rfl⟩
/-- A part whose plan is this move, with the word `alu.add x3, x4, x5` at 0x200, and `a.add a3, a4, a5` at 0x1000. -/
def planned (m : Move) (l : List Firing) (k : Slot) : State :=
  let s := mapped { demo fire with plan := [m], firings := l, slots := [k] } ready
  { s with mem := (0x40000200, 0x82) :: (0x40000201, 0x41) :: (0x40000202, 0x0A) ::
                  (0x40001000, 0x03) :: (0x40001001, 0x43) :: (0x40001002, 0x05) :: s.mem }
theorem witness_StepsRunTheDecodedInstruction :
    let run (s : State) (p : Party) : State := setCur (setPlan s []) p
    let core (f : Firing) : State := run (planned (.run (.core 0 0)) [f] {}) (.core 0 0)
    let words (f : Firing) : Option (W32 × W32) := match (fetchAt (core f) f (pcOf (actingCores f 0))).2 with
      | .words w0 w1 => some (w0, w1)
      | .failed _ _ _ => none
    let at' (pc : Word) : Firing := one { pc := pc }
    let slot (pc : W32) : Slot := { st := .running, rprog := 0x1000, rpsize := 16, pc := pc }
    let ag (pc : W32) : Option Word :=
      (agentFetch (run (planned (.run (.agent 0)) [] (slot pc)) (.agent 0)) (slot pc)).map fun r => r.2
    (firingAt (run (planned (.run (.core 0 0)) [] {}) (.core 0 0)) 0 0 = none ∧
      waits { fire with ending := true } (actingCores fire 0) = true ∧ waits fire (actingCores fire 0) = false) ∧
    words (at' 0x200) = some (0x000A4182, 0) ∧ words (at' 0x204) = some (0, 0) ∧ words (at' 0x40000000) = none ∧
    ag 0 = some 0x54303 ∧ ag 8 = some 0 ∧ ag 16 = none ∧ isEvent .powerOn = true ∧ wellFormed .powerOn = true := by
  decide +kernel
theorem witness_EncodingsDecodeBack : wellFormed (.aluAdd { d := 31, a := 31, b := 31, k := 1, pr := 7 }) = true := by decide
theorem witness_MemoryStaysCanonical :
    Memory.wf (planned (.run (.core 0 0)) [one { pc := 0x200 }] {}).mem = true ∧
    ∃ t, step (planned (.run (.core 0 0)) [one { pc := 0x200 }] {}) = .next t := by
  refine ⟨by decide +kernel, ?_⟩
  have h : (match step (planned (.run (.core 0 0)) [one { pc := 0x200 }] {}) with | .next _ => true | _ => false) = true := by
    decide +kernel
  split at h
  · exact ⟨_, ‹_›⟩
  · cases h

end Sys2Proof.Tests
end

section
/-! SUPPORT. From the text of an instruction's meaning to the statement of it: one rule for each shape in which the cores'
instructions are written. -/

namespace Sys2Proof.Proofs.Rules

open Sys2Proof.Machine Sys2Proof.Laws.Shapes

/-- An instruction written as `fileInstr`, with a body that neither traps nor stalls, runs as the function of its body. -/
theorem runsAs_of_fileInstr {Op : Type} {i : Op → Instr} {uni : Op → Bool} {pr : Op → BitVec 3} {len : Word}
    {g : Op → RFile → RFile} {body : Op → State → Firing → RFile → Res RFile}
    (hexec : ∀ o s, exec (i o) s = fileInstr (siteOf (i o)) (uni o) (pr o) (body o) s)
    (hlen : ∀ o, siteLen (siteOf (i o)) = len) (hbody : ∀ o s f r, body o s f r = .ok (g o r)) : RunsAs i uni pr len g := by
  intro s f units o h
  rw [hexec, fileInstr_next h _ _ (hbody o _ f), hlen]

/-- An instruction written as a function of the file runs as that function. -/
theorem runsAs_of_function {Op : Type} {i : Op → Instr} {uni : Op → Bool} {pr : Op → BitVec 3} {len : Word}
    {g : Op → RFile → RFile}
    (hexec : ∀ o s, exec (i o) s = fileInstr (siteOf (i o)) (uni o) (pr o) (fun _ _ r => .ok (g o r)) s)
    (hlen : ∀ o, siteLen (siteOf (i o)) = len) : RunsAs i uni pr len g :=
  runsAs_of_fileInstr hexec hlen fun _ _ _ _ => rfl

/-- Raising no flag leaves a file as it was. -/
@[simp] theorem raise_zero (r : RFile) : raise r 0 = r := by simp [raise]

/-- A flagless operation at a width is `byWidth` of its two forms, and raises nothing (R119). -/
theorem plainWidth_eq (q : BitVec 3) (f : (n : Nat) → BitVec n → BitVec n → BitVec n) (a b : Word) :
    plainWidth q f a b = (byWidth q (f 32) (f 64) a b, 0) := by
  simp only [plainWidth, atWidth, byWidth, beq_iff_eq]
  split <;> rfl

/-- The format-A shape of a flagless result from A and B (R119). -/
theorem runsA_of_scalarAB {i : OpA → Instr} (f : (n : Nat) → BitVec n → BitVec n → BitVec n)
    (hexec : ∀ o s, exec (i o) s = scalarAB (i o) o (plainWidth o.q f) s) (hlen : ∀ o, siteLen (siteOf (i o)) = 4) :
    RunsA i fun o => setAB o (byWidth o.q (f 32) (f 64)) :=
  runsAs_of_fileInstr hexec hlen fun o _ _ r => by simp only [plainWidth_eq, raise_zero, setAB]

/-- The format-X shape of a flagless result from A and a sign-extended imm32 (R123). -/
theorem runsX_of_plainWidth {i : OpX → Instr} (f : (n : Nat) → BitVec n → BitVec n → BitVec n)
    (hexec : ∀ o s, exec (i o) s = fileInstr (siteOf (i o)) (k1 o.o) o.o.pr (fun _ _ r =>
      .ok (setS r o.o.d.toNat (plainWidth o.o.q f (getS r o.o.a.toNat) (o.imm.signExtend 64)).1)) s)
    (hlen : ∀ o, siteLen (siteOf (i o)) = 8) :
    RunsX i fun o r => setS r o.o.d.toNat (byWidth o.o.q (f 32) (f 64) (getS r o.o.a.toNat) (o.imm.signExtend 64)) :=
  runsAs_of_fileInstr hexec hlen fun o _ _ r => by rw [plainWidth_eq]

/-- An operation on A and a shift amount takes the amount from a zero-extended imm32 as from imm32 itself (R123). -/
theorem byWidth_shift_imm (q : BitVec 3) (g32 : W32 → Nat → W32) (g64 : Word → Nat → Word) (a : Word) (imm : W32) :
    byWidth q (fun a b => g32 a (shAmt 32 b)) (fun a b => g64 a (shAmt 64 b)) a (imm.setWidth 64) =
      byWidth q (fun a _ => g32 a (imm.toNat % 32)) (fun a _ => g64 a (imm.toNat % 64)) a 0 := by
  have h64 : (imm.setWidth 64).toNat = imm.toNat := by
    rw [BitVec.toNat_setWidth]; exact Nat.mod_eq_of_lt (by omega)
  by_cases hq : q = 1
  · simp [byWidth, shAmt, hq]
  · simp only [byWidth, shAmt, hq, if_false, h64]

/-- The format-X shape of a shift of A by imm32 (R123). -/
theorem runsX_of_shift {i : OpX → Instr} (f : (n : Nat) → BitVec n → Nat → BitVec n)
    (hexec : ∀ o s, exec (i o) s = fileInstr (siteOf (i o)) (k1 o.o) o.o.pr (fun _ _ r =>
      .ok (setS r o.o.d.toNat
        (plainWidth o.o.q (fun n a b => f n a (shAmt n b)) (getS r o.o.a.toNat) (o.imm.setWidth 64)).1)) s)
    (hlen : ∀ o, siteLen (siteOf (i o)) = 8) :
    RunsX i fun o r => setS r o.o.d.toNat (byWidth o.o.q (fun a _ => f 32 a (o.imm.toNat % 32))
      (fun a _ => f 64 a (o.imm.toNat % 64)) (getS r o.o.a.toNat) 0) :=
  runsAs_of_fileInstr hexec hlen fun o _ _ r => by rw [plainWidth_eq, byWidth_shift_imm]

/-- The format-A shape of a predicate from a condition on A and B (R127, R128). -/
theorem runsA_of_condAB {i : OpA → Instr} {f : (n : Nat) → BitVec n → BitVec n → Bool}
    (g : (n : Nat) → BitVec n → BitVec n → Bool)
    (hexec : ∀ o s, exec (i o) s = condAB (i o) o (condWidth o.q f) s) (hlen : ∀ o, siteLen (siteOf (i o)) = 4)
    (hg : ∀ n a b, f n a b = g n a b) :
    RunsA i fun o => setIf o fun a b => if o.q = 1 then g 32 (a.setWidth 32) (b.setWidth 32) else g 64 a b :=
  runsAs_of_fileInstr hexec hlen fun o _ _ r => by simp only [setCond, setIf, condWidth, beq_iff_eq, hg]

/-- The format-I shape of a predicate from a condition on x_a and imm12 (R129). -/
theorem runsI_of_setCond {i : OpI → Instr} {f : Word → Word → Bool} (g : Word → Word → Bool)
    (hexec : ∀ o s, exec (i o) s = fileInstr (siteOf (i o)) false o.pr (fun _ _ r =>
      .ok (setCond r o.d.toNat (f (getS r o.a.toNat) (o.imm.signExtend 64)))) s)
    (hlen : ∀ o, siteLen (siteOf (i o)) = 4) (hg : ∀ a b, f a b = g a b) :
    RunsI i fun o r => setP r o.d.toNat (if g (getS r o.a.toNat) (o.imm.signExtend 64) then 0xFFFF else 0) :=
  runsAs_of_fileInstr hexec hlen fun o _ _ r => by simp only [setCond, hg]

/-- Cores that all answer alike agree on their answer. -/
theorem agreed_of_unanimous {α : Type} [DecidableEq α] {votes : List α} {v : α} (h : Unanimous votes v) :
    agreed votes = some v := by
  obtain ⟨hne, hall⟩ := h
  cases votes with
  | nil => exact absurd rfl hne
  | cons a as =>
    obtain ⟨rfl, has⟩ := List.forall_mem_cons.mp hall
    have hsame : (as.all fun b => b == a) = true := List.all_eq_true.mpr fun b hb => beq_iff_eq.mpr (has b hb)
    simp only [agreed, hsame, if_true]

/-- Cores of which two answer differently agree on nothing. -/
theorem agreed_of_divided {α : Type} [DecidableEq α] {votes : List α} (h : Divided votes) : agreed votes = none := by
  obtain ⟨x, hx, y, hy, hxy⟩ := h
  cases votes with
  | nil => cases hx
  | cons a as =>
    have hsplit : (as.all fun b => b == a) = false := by
      by_contra hsame
      have hall : ∀ b ∈ a :: as, b = a := by simpa using hsame
      exact hxy ((hall x hx).trans (hall y hy).symm)
    simp only [agreed, hsplit, Bool.false_eq_true, if_false]

/-- A uniform file is selected where its governing `gp` is 1 (R65, R66). -/
theorem takes_fileOf_uniform (f : Firing) (units : List Core) (c : Core) (pr : BitVec 3) :
    takes (fileOf f units true c) pr = getGp (uniformOf f units) pr.toNat := by
  cases h : getGp (uniformOf f units) pr.toNat <;> simp [takes, fileOf, getP, h]

end Sys2Proof.Proofs.Rules
end

section
/-! SUPPORT. ALU, ALUI, MOVI and ALUL (R119 to R123). -/

namespace Sys2Proof.Proofs.Alu

open Sys2Proof.Machine Sys2Proof.Proofs.Rules

/-- Settles O1, by the shape of each word: a result from A and B at a width, a function of the file, or a result from A and
imm32 at a width, where a shift takes its amount from imm32 itself. -/
theorem aluAndImmediatesCompute : Obligations.AluAndImmediatesCompute := by
  refine ⟨⟨?add, ?sub, ?and, ?or, ?xor, ?shl, ?shr, ?sra⟩, ?alui, ?lo, ?hi, ?z, ?ladd, ?land, ?lor, ?lxor, ?lshl, ?lshr, ?lsra⟩
  case add => exact runsA_of_scalarAB (fun _ a b => a + b) (fun _ _ => rfl) fun _ => rfl
  case sub => exact runsA_of_scalarAB (fun _ a b => a - b) (fun _ _ => rfl) fun _ => rfl
  case and => exact runsA_of_scalarAB (fun _ a b => a &&& b) (fun _ _ => rfl) fun _ => rfl
  case or => exact runsA_of_scalarAB (fun _ a b => a ||| b) (fun _ _ => rfl) fun _ => rfl
  case xor => exact runsA_of_scalarAB (fun _ a b => a ^^^ b) (fun _ _ => rfl) fun _ => rfl
  case shl => exact runsA_of_scalarAB opShl (fun _ _ => rfl) fun _ => rfl
  case shr => exact runsA_of_scalarAB opShr (fun _ _ => rfl) fun _ => rfl
  case sra => exact runsA_of_scalarAB opSra (fun _ _ => rfl) fun _ => rfl
  case alui => exact runsAs_of_function (fun _ _ => rfl) fun _ => rfl
  case lo => exact runsAs_of_function (fun _ _ => rfl) fun _ => rfl
  case hi => exact runsAs_of_function (fun _ _ => rfl) fun _ => rfl
  case z => exact runsAs_of_function (fun _ _ => rfl) fun _ => rfl
  case ladd => exact runsX_of_plainWidth (fun _ a b => a + b) (fun _ _ => rfl) fun _ => rfl
  case land => exact runsX_of_plainWidth (fun _ a b => a &&& b) (fun _ _ => rfl) fun _ => rfl
  case lor => exact runsX_of_plainWidth (fun _ a b => a ||| b) (fun _ _ => rfl) fun _ => rfl
  case lxor => exact runsX_of_plainWidth (fun _ a b => a ^^^ b) (fun _ _ => rfl) fun _ => rfl
  case lshl => exact runsX_of_shift (fun _ a n => a <<< n) (fun _ _ => rfl) fun _ => rfl
  case lshr => exact runsX_of_shift (fun _ a n => a >>> n) (fun _ _ => rfl) fun _ => rfl
  case lsra => exact runsX_of_shift (fun _ a n => a.sshiftRight n) (fun _ _ => rfl) fun _ => rfl

end Sys2Proof.Proofs.Alu
end

section
/-! SUPPORT. CMP, CMPI and PLOG (R127 to R130). -/

namespace Sys2Proof.Proofs.Predicates

open Sys2Proof.Machine Sys2Proof.Proofs.Rules

/-- The order of two's complement words, as the machine tests it for `ge`. -/
theorem not_slt_eq {n : Nat} (a b : BitVec n) : (!a.slt b) = decide (b.toInt ≤ a.toInt) := by
  simp only [BitVec.slt, ← decide_not, not_lt]

/-- The order of unsigned words, as the machine tests it for `geu`. -/
theorem not_ult_eq {n : Nat} (a b : BitVec n) : (!a.ult b) = decide (b.toNat ≤ a.toNat) := by
  simp only [BitVec.ult, ← decide_not, not_lt]

/-- Settles O3, by the shape of each word: a condition on two words, or a function of the file; `setx` and `getx` choose
their file by k. -/
theorem predicatesCompute : Obligations.PredicatesCompute := by
  refine ⟨⟨?eq, ?ne, ?lt, ?ge, ?ltu, ?geu, ?tst, ?ieq, ?ine, ?ilt, ?iltu⟩, ?and, ?or, ?xor, ?andn, ?not, ?setx, ?getx⟩
  case eq => exact runsA_of_condAB (fun _ a b => a == b) (fun _ _ => rfl) (fun _ => rfl) fun _ _ _ => rfl
  case ne => exact runsA_of_condAB (fun _ a b => a != b) (fun _ _ => rfl) (fun _ => rfl) fun _ _ _ => rfl
  case lt => exact runsA_of_condAB (fun _ a b => decide (a.toInt < b.toInt)) (fun _ _ => rfl) (fun _ => rfl) fun _ _ _ => rfl
  case ge => exact runsA_of_condAB (fun _ a b => decide (b.toInt ≤ a.toInt)) (fun _ _ => rfl) (fun _ => rfl) fun _ => not_slt_eq
  case ltu => exact runsA_of_condAB (fun _ a b => decide (a.toNat < b.toNat)) (fun _ _ => rfl) (fun _ => rfl) fun _ _ _ => rfl
  case geu => exact runsA_of_condAB (fun _ a b => decide (b.toNat ≤ a.toNat)) (fun _ _ => rfl) (fun _ => rfl) fun _ => not_ult_eq
  case tst => exact runsA_of_condAB (fun _ a b => a &&& b != 0) (fun _ _ => rfl) (fun _ => rfl) fun _ _ _ => rfl
  case ieq => exact runsI_of_setCond (· == ·) (fun _ _ => rfl) (fun _ => rfl) fun _ _ => rfl
  case ine => exact runsI_of_setCond (· != ·) (fun _ _ => rfl) (fun _ => rfl) fun _ _ => rfl
  case ilt => exact runsI_of_setCond (fun a c => decide (a.toInt < c.toInt)) (fun _ _ => rfl) (fun _ => rfl) fun _ _ => rfl
  case iltu => exact runsI_of_setCond (fun a c => decide (a.toNat < c.toNat)) (fun _ _ => rfl) (fun _ => rfl) fun _ _ => rfl
  case and => exact runsAs_of_function (fun _ _ => rfl) fun _ => rfl
  case or => exact runsAs_of_function (fun _ _ => rfl) fun _ => rfl
  case xor => exact runsAs_of_function (fun _ _ => rfl) fun _ => rfl
  case andn => exact runsAs_of_function (fun _ _ => rfl) fun _ => rfl
  case not => exact runsAs_of_function (fun _ _ => rfl) fun _ => rfl
  case setx =>
    refine runsAs_of_fileInstr (body := fun o _ _ r => .ok (if r.uni then setCond r o.d.toNat (getS r o.a.toNat != 0)
      else setP r o.d.toNat ((getS r o.a.toNat).setWidth 16))) (fun _ _ => rfl) (fun _ => rfl) fun o _ _ r => ?_
    simp only [setCond, bne_iff_ne]
  case getx =>
    refine runsAs_of_fileInstr (body := fun o _ _ r => .ok (setS r o.d.toNat (if r.uni then
      (getP r o.a.toNat &&& 1).setWidth 64 else (getP r o.a.toNat).setWidth 64))) (fun _ _ => rfl) (fun _ => rfl)
      fun o _ _ r => ?_
    cases hu : r.uni with
    | false => simp only [getP, hu, Bool.false_eq_true, if_false]
    | true => cases hb : getGp r.u o.a.toNat <;> simp [getP, hu, hb]

end Sys2Proof.Proofs.Predicates
end

section
/-! SUPPORT. BR, JAL and JR (R113, R133 to R135). -/

namespace Sys2Proof.Proofs.Control

open Sys2Proof.Machine Sys2Proof.Laws.Shapes Sys2Proof.Proofs.Rules

/-! ### The meanings of the three words -/

theorem exec_br (o : OpB) (s : State) : exec (.br o) s = execBr o s := rfl
theorem exec_jal (o : OpB) (s : State) : exec (.jal o) s = execJal o s := rfl
theorem exec_jr (o : OpA) (s : State) : exec (.jr o) s = execJr o s := rfl

/-! ### Where they go -/

section
variable {s : State} {f : Firing} {units : List Core}

/-- The votes of a branch: the uniform file's one, or each acting core's, negated with n (R69, R133). -/
def brVotes (f : Firing) (units : List Core) (o : OpB) : List Bool :=
  if o.lo.getLsbD 4 then [getGp (uniformOf f units) (o.lo.toNat % 8) != o.lo.getLsbD 3]
  else units.map fun c => (getPr c (o.lo.toNat % 8)).getLsbD 0 != o.lo.getLsbD 3

/-- Where a branch goes on the answer of its votes: its target, the next word, or DIVERGE (R113, R133). -/
def branchOn (s : State) (f : Firing) (units : List Core) (o : OpB) : Option Bool → State
  | some true => afterJump s f f units (targetB (pcOf units) o)
  | some false => afterWord s f f units 4
  | none => afterTrap s f { core := lowest units, cause := 0x0E } (siteOf (.br o))

/-- A branch that issues goes where its votes agree, if they do. -/
theorem br_goes_by_votes {o : OpB} {answer : Option Bool} (h : Issues s (siteOf (.br o)) f units)
    (hv : agreed (brVotes f units o) = answer) : exec (.br o) s = .next (branchOn s f units o answer) := by
  rw [brVotes] at hv
  simp only [exec_br, execBr, withFiring_issues h, hv]
  rcases answer with _ | _ | _ <;> rfl

/-- A JAL that issues links each acting core and jumps (R134). -/
theorem jal_links_and_jumps {o : OpB} (h : Issues s (siteOf (.jal o)) f units) : exec (.jal o) s =
    .next (afterJump s f (putCores f (units.map fun c => setX c o.lo.toNat (c.pc + 4))) units (targetB (pcOf units) o)) := by
  rw [exec_jal, execJal, withFiring_issues h]
  rfl

/-- The votes of a JR without k: each acting core's target where its predicate holds, none where it does not (R135). -/
def jrVotes (units : List Core) (o : OpA) : List (Option Word) :=
  units.map fun c => if (getPr c o.pr.toNat).getLsbD 0 then some (getX c o.a.toNat) else none

/-- Where a JR without k goes on the answer of its votes: the target, linked; the next word; or DIVERGE (R113, R135). -/
def jumpOn (s : State) (f : Firing) (units : List Core) (o : OpA) : Option (Option Word) → State
  | some (some target) =>
    afterJump s f (putCores f (units.map fun c => setX c o.d.toNat (pcOf units + 4))) units target
  | some none => afterWord s f f units 4
  | none => afterTrap s f { core := lowest units, cause := 0x0E } (siteOf (.jr o))

/-- A JR without k that issues goes where its votes agree, if they do. -/
theorem jr_goes_by_votes {o : OpA} {answer : Option (Option Word)} (h : Issues s (siteOf (.jr o)) f units) (hk : o.k = 0)
    (hv : agreed (jrVotes units o) = answer) : exec (.jr o) s = .next (jumpOn s f units o answer) := by
  have hk1 : k1 o = false := by rw [k1, hk]; rfl
  rw [jrVotes] at hv
  simp only [exec_jr, execJr, withFiring_issues h, hk1, Bool.false_eq_true, if_false, hv]
  rcases answer with _ | _ | _ <;> rfl

/-- A JR with k goes by the uniform file: to its register, linked, or on (R112, R135). -/
theorem jr_goes_by_uniform {o : OpA} (h : Issues s (siteOf (.jr o)) f units) (hk : o.k = 1) : exec (.jr o) s =
    .next (if getGp (uniformOf f units) o.pr.toNat then
      afterJump s f (putUniform f units (setG (uniformOf f units) o.d.toNat (pcOf units + 4))) units
        (getG (uniformOf f units) o.a.toNat)
    else afterWord s f f units 4) := by
  have hk1 : k1 o = true := by rw [k1, hk]; rfl
  simp only [exec_jr, execJr, withFiring_issues h, hk1, if_true, takes_fileOf_uniform]
  split <;> rfl

end

/-- Settles O5: each word goes where its votes, or the uniform file, say. -/
theorem controlTransfers : Obligations.ControlTransfers := by
  refine ⟨fun s f units o h => ?br, fun s f units o h => jal_links_and_jumps h, fun s f units o h => ?jr⟩
  case br =>
    refine ⟨fun hv => ?_, fun hv => ?_, fun hv => ?_⟩
    · exact br_goes_by_votes h (agreed_of_unanimous hv)
    · exact br_goes_by_votes h (agreed_of_unanimous hv)
    · exact br_goes_by_votes h (agreed_of_divided hv)
  case jr =>
    refine ⟨fun hk hp => ?_, fun hk hp => ?_, fun target hk hv => ?_, fun hk hv => ?_, fun hk hv => ?_⟩
    · rw [jr_goes_by_uniform h hk, if_pos hp]
    · rw [jr_goes_by_uniform h hk, if_neg (Bool.eq_false_iff.mp hp)]
    · exact jr_goes_by_votes h hk (agreed_of_unanimous hv)
    · exact jr_goes_by_votes h hk (agreed_of_unanimous hv)
    · exact jr_goes_by_votes h hk (agreed_of_divided hv)

end Sys2Proof.Proofs.Control
end

section
/-! SUPPORT. REGION and GANG (R114 to R116, R137, R138). -/

namespace Sys2Proof.Proofs.Gangs

open Sys2Proof.Machine Sys2Proof.Laws.Shapes Sys2Proof.Proofs.Rules

/-! ### The meanings of the four words that are no plain function of the files -/

theorem exec_regionOpen (o : OpA) (s : State) : exec (.regionOpen o) s = execRegionOpen o s := rfl
theorem exec_gangSplit (o : OpB) (s : State) : exec (.gangSplit o) s = execGangSplit o s := rfl
theorem exec_gangFuse (o : OpB) (s : State) : exec (.gangFuse o) s = execGangFuse o s := rfl
theorem exec_gangAlign (o : OpB) (s : State) : exec (.gangAlign o) s = execGangAlign o s := rfl

/-! ### The targets of a gang that fuses -/

/-- The target at which a core waits in `gang.fuse`, if it waits there. -/
def fuseTarget (c : Core) : Option Word :=
  match c.busy with
  | .fuse t _ => some t
  | _ => none

theorem fuseTarget_eq_some {c : Core} {t : Word} : fuseTarget c = some t ↔ ∃ w, c.busy = .fuse t w := by
  cases hb : c.busy <;> simp [fuseTarget, hb]

theorem fuseTarget_eq_none {c : Core} : fuseTarget c = none ↔ ∀ t w, c.busy ≠ .fuse t w := by
  cases hb : c.busy <;> simp [fuseTarget, hb]

theorem fuseTargets_eq_mapM (f : Firing) : fuseTargets f = f.cores.mapM fuseTarget := rfl

/-- A list of which each element has a value has the list of their values. -/
theorem mapM_eq_some_map {α β : Type} {g : α → Option β} {v : α → β} {l : List α} (h : ∀ a ∈ l, g a = some (v a)) :
    l.mapM g = some (l.map v) := by
  induction l with
  | nil => rfl
  | cons a l ih =>
    obtain ⟨ha, hl⟩ := List.forall_mem_cons.mp h
    simp [List.mapM_cons, ha, ih hl]

/-- A list of which some element has no value has none. -/
theorem mapM_eq_none {α β : Type} {g : α → Option β} {l : List α} (h : ∃ a ∈ l, g a = none) : l.mapM g = none := by
  induction l with
  | nil => simp at h
  | cons a l ih =>
    obtain ⟨b, hb, hnone⟩ := h
    rcases List.mem_cons.mp hb with rfl | hl
    · simp [List.mapM_cons, hnone]
    · simp [List.mapM_cons, ih ⟨b, hl, hnone⟩]

/-- While some core waits at no `gang.fuse`, the gang has no targets. -/
theorem fuseTargets_of_waiting_core {f : Firing} (h : ∃ c ∈ f.cores, ∀ t w, c.busy ≠ .fuse t w) : fuseTargets f = none := by
  obtain ⟨c, hc, hne⟩ := h
  exact mapM_eq_none ⟨c, hc, fuseTarget_eq_none.mpr hne⟩

/-- A gang whose cores all wait with one target is unanimous on it. -/
theorem fuseTargets_of_common {f : Firing} {target : Word} (hne : f.cores ≠ [])
    (h : ∀ c ∈ f.cores, ∃ w, c.busy = .fuse target w) : ∃ ts, fuseTargets f = some ts ∧ Unanimous ts target :=
  ⟨_, mapM_eq_some_map (v := fun _ => target) fun c hc => fuseTarget_eq_some.mpr (h c hc),
    by simpa using hne, by simp⟩

/-- A gang whose cores all wait, two of them with different targets, is divided. -/
theorem fuseTargets_of_differing {f : Firing} (h : ∀ c ∈ f.cores, ∃ target w, c.busy = .fuse target w)
    (hd : ∃ c ∈ f.cores, ∃ d ∈ f.cores, ∃ a b v w, c.busy = .fuse a v ∧ d.busy = .fuse b w ∧ a ≠ b) :
    ∃ ts, fuseTargets f = some ts ∧ Divided ts := by
  obtain ⟨c, hc, d, hd, a, b, v, w, hca, hdb, hab⟩ := hd
  have hvalue : ∀ e ∈ f.cores, fuseTarget e = some ((fuseTarget e).getD 0) := fun e he => by
    obtain ⟨t, u, heq⟩ := h e he
    rw [fuseTarget_eq_some.mpr ⟨u, heq⟩, Option.getD_some]
  refine ⟨_, mapM_eq_some_map hvalue, a, List.mem_map.mpr ⟨c, hc, ?_⟩, b, List.mem_map.mpr ⟨d, hd, ?_⟩, hab⟩
  · rw [fuseTarget_eq_some.mpr ⟨v, hca⟩, Option.getD_some]
  · rw [fuseTarget_eq_some.mpr ⟨w, hdb⟩, Option.getD_some]

/-- The core that leads a firing's gang; the reset core where it names none. -/
def leader (f : Firing) : Core := (f.cores.find? fun c => c.idx == f.lead).getD {}

/-- The word that a trap of `gang.fuse` names is the one at which the leader waits (R272). -/
theorem fuseWord_of_leader {f : Firing} {target : Word} {w : W32} (h : (leader f).busy = .fuse target w) :
    fuseWord f = w := by
  cases hfind : f.cores.find? fun c => c.idx == f.lead with
  | none => simp [leader, hfind] at h
  | some c =>
    have hc : c.busy = .fuse target w := by simpa [leader, hfind] using h
    simp [fuseWord, hfind, hc]

/-! ### What the words do -/

section
variable {s : State} {f : Firing} {units : List Core}

/-- `region.open` on some active core, with no load outstanding (R137). -/
theorem regionOpen_captures {o : OpA} (h : Issues s (siteOf (.regionOpen o)) f units)
    (hp : anyPending (putFiring s f) f units = false) (hact : activeCores units o.pr ≠ []) :
    exec (.regionOpen o) s = .next (afterWord s f
      { putCores f ((activeCores units o.pr).map fun c =>
          { c with rgentry := c.pc + 4, rgmask := getX c o.a.toNat,
                   capture := some (capture c (uniformOf f units) (c.pc + 4) (getX c o.a.toNat), c.nflags) }) with
        mark := (f.staged.length, f.popped) } units 4) := by
  have hne : (activeCores units o.pr).isEmpty = false := List.isEmpty_eq_false_iff.mpr hact
  rw [activeCores] at hne
  simp only [exec_regionOpen, execRegionOpen, withFiring_issues h, hp, hne, Bool.false_eq_true, if_false]
  rfl

/-- `gang.align` is a word without effect (R116). -/
theorem gangAlign_goes_on {o : OpB} (h : Issues s (siteOf (.gangAlign o)) f units) :
    exec (.gangAlign o) s = .next (afterWord s f f units 4) := by
  rw [exec_gangAlign, execGangAlign, withFiring_issues h]
  rfl

/-- `gang.split` of a split gang (R114). -/
theorem gangSplit_traps {o : OpB} (h : Issues s (siteOf (.gangSplit o)) f units) (hs : f.split = true) :
    exec (.gangSplit o) s =
      .next (afterTrap s f { core := lowest units, cause := 0x0F } (siteOf (.gangSplit o))) := by
  simp only [exec_gangSplit, execGangSplit, withFiring_issues h, hs, if_true]
  rfl

/-- `gang.split` of a fused gang, with no load outstanding (R114). -/
theorem gangSplit_splits {o : OpB} (h : Issues s (siteOf (.gangSplit o)) f units) (hs : f.split = false)
    (hp : anyPending (putFiring s f) f units = false) :
    exec (.gangSplit o) s = .next (putFiring (putFiring s f)
      { advance f units 4 with split := true, cores := (advance f units 4).cores.map fun c => { c with u := f.u } }) := by
  simp only [exec_gangSplit, execGangSplit, withFiring_issues h, hs, hp, Bool.false_eq_true, if_false]

/-- `gang.fuse` of a fused gang (R115). -/
theorem gangFuse_traps {o : OpB} (h : Issues s (siteOf (.gangFuse o)) f units) (hs : f.split = false) :
    exec (.gangFuse o) s = .next (afterTrap s f { core := lowest units, cause := 0x0F } (siteOf (.gangFuse o))) := by
  simp only [exec_gangFuse, execGangFuse, withFiring_issues h, hs, Bool.not_false, if_true]
  rfl

/-- A firing whose acting cores have come to this `gang.fuse`. -/
def atFuse (f : Firing) (units : List Core) (o : OpB) : Firing :=
  putCores f (units.map fun c =>
    { c with busy := .fuse (targetB c.pc o) ((siteOf (.gangFuse o)).words.head?.getD 0) })

/-- A gang fused at a target, on its leader's uniform file (R115). -/
def fusedAt (f : Firing) (target : Word) : Firing :=
  { f with split := false, u := (leader f).u,
           cores := f.cores.map fun c => { c with busy := .none, pc := target, u := {} } }

/-- What `gang.fuse` makes of the targets at which the gang waits: it waits on while a core is missing, traps GANG where
they differ, and fuses at the one target (R115). -/
def fuseOn (s : State) (f : Firing) : Option (List Word) → State
  | none => putFiring s f
  | some ts => match agreed ts with
    | none => trapFiring (putFiring s f) f { core := f.lead, cause := 0x0F } (fuseWord f) 0
    | some target => putFiring s (fusedAt f target)

theorem fuseOn_unanimous {ts : List Word} {target : Word} (h : Unanimous ts target) :
    fuseOn s f (some ts) = putFiring s (fusedAt f target) := by
  simp only [fuseOn, agreed_of_unanimous h]

theorem fuseOn_divided {ts : List Word} (h : Divided ts) :
    fuseOn s f (some ts) = trapFiring (putFiring s f) f { core := f.lead, cause := 0x0F } (fuseWord f) 0 := by
  simp only [fuseOn, agreed_of_divided h]

/-- `gang.fuse` of a split gang, with no load outstanding, goes by the targets at which its cores then wait (R115). -/
theorem gangFuse_goes_by_targets {o : OpB} {targets : Option (List Word)} (h : Issues s (siteOf (.gangFuse o)) f units)
    (hs : f.split = true) (hp : anyPending (putFiring s f) f units = false)
    (ht : fuseTargets (atFuse f units o) = targets) :
    exec (.gangFuse o) s = .next (fuseOn (putFiring s f) (atFuse f units o) targets) := by
  simp only [exec_gangFuse, execGangFuse, withFiring_issues h, hs, hp, Bool.not_true, Bool.false_eq_true, if_false]
  rw [atFuse] at ht
  simp only [ht]
  cases targets with
  | none => rfl
  | some ts =>
    simp only [fuseOn]
    cases agreed ts <;> rfl

end

/-- Settles O7: the words of REGION and GANG one by one; `gang.fuse` by the targets at which the gang's cores wait. -/
theorem regionsAndGangs : Obligations.RegionsAndGangs := by
  refine ⟨?close, fun s f units o h hp hact => regionOpen_captures h hp hact, fun s f units o =>
    ⟨gangAlign_goes_on, gangSplit_traps, gangSplit_splits, gangFuse_traps, fun h hs hp => ?fuse⟩⟩
  case close => exact runsAs_of_function (fun _ _ => rfl) fun _ => rfl
  case fuse =>
    refine ⟨fun target hne hall => ?_, fun hmissing => ?_, fun hall hdiff target w hlead => ?_⟩
    · obtain ⟨ts, hts, hv⟩ := fuseTargets_of_common hne hall
      exact (gangFuse_goes_by_targets h hs hp hts).trans (congrArg _ (fuseOn_unanimous hv))
    · exact gangFuse_goes_by_targets h hs hp (fuseTargets_of_waiting_core hmissing)
    · obtain ⟨ts, hts, hv⟩ := fuseTargets_of_differing hall hdiff
      have hw : fuseWord (atFuse f units o) = w := fuseWord_of_leader hlead
      rw [gangFuse_goes_by_targets h hs hp hts, fuseOn_divided hv, hw]
      rfl

end Sys2Proof.Proofs.Gangs
end

section
/-! SUPPORT. Encodings decode back (R63 to R73, R79). -/

namespace Sys2Proof.Proofs.Encodings

open Sys2Proof.Laws

/-- Settles O58, by the constructors of an instruction: an event has no words, and a word's fields are found where its format
packs them. -/
theorem encodingsDecodeBack : Obligations.EncodingsDecodeBack := by
  intro i
  cases i with
  | powerOn => exact Encoding.powerOn
  | partReady x0 => exact Encoding.partReady x0
  | registerWrite x0 x1 x2 x3 x4 => exact Encoding.registerWrite x0 x1 x2 x3 x4
  | partStatusErrorClear => exact Encoding.partStatusErrorClear
  | groupAssign x0 x1 => exact Encoding.groupAssign x0 x1
  | groupZeroingDone x0 => exact Encoding.groupZeroingDone x0
  | groupRemove x0 x1 => exact Encoding.groupRemove x0 x1
  | formatRangeWrite x0 x1 x2 => exact Encoding.formatRangeWrite x0 x1 x2
  | tenantBlockWrite x0 x1 x2 => exact Encoding.tenantBlockWrite x0 x1 x2
  | clusterLeavePartition x0 x1 => exact Encoding.clusterLeavePartition x0 x1
  | pcmdPreempt x0 x1 => exact Encoding.pcmdPreempt x0 x1
  | pcmdPreemptUrgent x0 x1 => exact Encoding.pcmdPreemptUrgent x0 x1
  | pcmdResume x0 x1 => exact Encoding.pcmdResume x0 x1
  | contextSave x0 x1 => exact Encoding.contextSave x0 x1
  | contextRestore x0 x1 => exact Encoding.contextRestore x0 x1
  | vcmdReady x0 => exact Encoding.vcmdReady x0
  | vcmdReset x0 => exact Encoding.vcmdReset x0
  | functionLevelReset x0 => exact Encoding.functionLevelReset x0
  | suplWrite x0 x1 => exact Encoding.suplWrite x0 x1
  | lqDoorbell x0 x1 => exact Encoding.lqDoorbell x0 x1
  | launchAccept x0 x1 => exact Encoding.launchAccept x0 x1
  | launchProceed x0 => exact Encoding.launchProceed x0
  | levelTakeContext x0 x1 => exact Encoding.levelTakeContext x0 x1
  | repeatInstanceFinish x0 x1 => exact Encoding.repeatInstanceFinish x0 x1
  | firingBind x0 => exact Encoding.firingBind x0
  | starvationClose x0 => exact Encoding.starvationClose x0
  | commitTakeEffect x0 => exact Encoding.commitTakeEffect x0
  | watchdogExpiry x0 => exact Encoding.watchdogExpiry x0
  | recordWrite x0 x1 => exact Encoding.recordWrite x0 x1
  | messageDeliver x0 => exact Encoding.messageDeliver x0
  | messageFillSlot x0 x1 => exact Encoding.messageFillSlot x0 x1
  | launchComplete x0 => exact Encoding.launchComplete x0
  | hardwareError x0 x1 x2 => exact Encoding.hardwareError x0 x1 x2
  | explicitStorePerform x0 x1 x2 => exact Encoding.explicitStorePerform x0 x1 x2
  | explicitLoadPerform x0 x1 x2 => exact Encoding.explicitLoadPerform x0 x1 x2
  | loadDataReturn x0 x1 x2 x3 => exact Encoding.loadDataReturn x0 x1 x2 x3
  | feWaiterServe x0 => exact Encoding.feWaiterServe x0
  | clockBroadcast x0 x1 => exact Encoding.clockBroadcast x0 x1
  | credibilityWindowClose x0 => exact Encoding.credibilityWindowClose x0
  | invWrite x0 x1 => exact Encoding.invWrite x0 x1
  | invalidationComplete x0 => exact Encoding.invalidationComplete x0
  | priRestart x0 x1 => exact Encoding.priRestart x0 x1
  | frerrRead x0 => exact Encoding.frerrRead x0
  | apertureAccess x0 x1 x2 x3 x4 => exact Encoding.apertureAccess x0 x1 x2 x3 x4
  | slotStart x0 => exact Encoding.slotStart x0
  | slotStop x0 => exact Encoding.slotStop x0
  | slotResume x0 => exact Encoding.slotResume x0
  | slotReset x0 => exact Encoding.slotReset x0
  | sigWrite x0 x1 => exact Encoding.sigWrite x0 x1
  | membershipWrite x0 x1 => exact Encoding.membershipWrite x0 x1
  | atsInvalidateRequest x0 x1 x2 x3 => exact Encoding.atsInvalidateRequest x0 x1 x2 x3
  | translationCompletion x0 x1 x2 x3 x4 x5 => exact Encoding.translationCompletion x0 x1 x2 x3 x4 x5
  | prgResponse x0 x1 => exact Encoding.prgResponse x0 x1
  | pageRequestTimeout x0 => exact Encoding.pageRequestTimeout x0
  | hostCompletionError x0 x1 x2 => exact Encoding.hostCompletionError x0 x1 x2
  | flitCrcError x0 => exact Encoding.flitCrcError x0
  | linkDown x0 => exact Encoding.linkDown x0
  | remotePacketPerform x0 => exact Encoding.remotePacketPerform x0
  | remoteReply x0 x1 x2 x3 x4 => exact Encoding.remoteReply x0 x1 x2 x3 x4
  | remotePostedFault x0 x1 x2 => exact Encoding.remotePostedFault x0 x1 x2
  | flushMarkerArrive x0 => exact Encoding.flushMarkerArrive x0
  | flushAnswerArrive x0 => exact Encoding.flushAnswerArrive x0
  | engineCommandStart x0 => exact Encoding.engineCommandStart x0
  | enginePark x0 => exact Encoding.enginePark x0
  | engineCommandComplete x0 => exact Encoding.engineCommandComplete x0
  | engineCommandFault x0 x1 => exact Encoding.engineCommandFault x0 x1
  | enginePreemptStop x0 => exact Encoding.enginePreemptStop x0
  | nbmvPublish x0 => exact Encoding.nbmvPublish x0
  | taskAccept x0 => exact Encoding.taskAccept x0
  | taskIssue x0 => exact Encoding.taskIssue x0
  | taskPublish x0 => exact Encoding.taskPublish x0
  | taskRefire x0 => exact Encoding.taskRefire x0
  | taskRetire x0 => exact Encoding.taskRetire x0
  | taskFault x0 x1 => exact Encoding.taskFault x0 x1
  | engineHwRerun x0 => exact Encoding.engineHwRerun x0
  | taskPreemptStop x0 => exact Encoding.taskPreemptStop x0
  | stepFill x0 x1 => exact Encoding.stepFill x0 x1
  | stepCommit x0 x1 => exact Encoding.stepCommit x0 x1
  | evictionStart x0 => exact Encoding.evictionStart x0
  | evictionCommit x0 x1 => exact Encoding.evictionCommit x0 x1
  | promotionStart x0 => exact Encoding.promotionStart x0
  | promotionComplete x0 x1 x2 => exact Encoding.promotionComplete x0 x1 x2
  | integrityFailure x0 x1 => exact Encoding.integrityFailure x0 x1
  | blockRehome x0 x1 x2 => exact Encoding.blockRehome x0 x1 x2
  | aluAdd o => exact Encoding.aluAdd o
  | aluSub o => exact Encoding.aluSub o
  | aluAnd o => exact Encoding.aluAnd o
  | aluOr o => exact Encoding.aluOr o
  | aluXor o => exact Encoding.aluXor o
  | aluShl o => exact Encoding.aluShl o
  | aluShr o => exact Encoding.aluShr o
  | aluSra o => exact Encoding.aluSra o
  | alui o => exact Encoding.alui o
  | muldivMul o => exact Encoding.muldivMul o
  | muldivMulh o => exact Encoding.muldivMulh o
  | muldivMulhu o => exact Encoding.muldivMulhu o
  | muldivDiv o => exact Encoding.muldivDiv o
  | muldivDivu o => exact Encoding.muldivDivu o
  | muldivRem o => exact Encoding.muldivRem o
  | muldivRemu o => exact Encoding.muldivRemu o
  | bitsClz o => exact Encoding.bitsClz o
  | bitsCtz o => exact Encoding.bitsCtz o
  | bitsPopc o => exact Encoding.bitsPopc o
  | bitsBrev o => exact Encoding.bitsBrev o
  | bitsBswap o => exact Encoding.bitsBswap o
  | bitsExtu o => exact Encoding.bitsExtu o
  | bitsExts o => exact Encoding.bitsExts o
  | bitsRotr o => exact Encoding.bitsRotr o
  | minmaxMin o => exact Encoding.minmaxMin o
  | minmaxMax o => exact Encoding.minmaxMax o
  | minmaxMinu o => exact Encoding.minmaxMinu o
  | minmaxMaxu o => exact Encoding.minmaxMaxu o
  | minmaxAbs o => exact Encoding.minmaxAbs o
  | minmaxAdds o => exact Encoding.minmaxAdds o
  | minmaxSubs o => exact Encoding.minmaxSubs o
  | cmpEq o => exact Encoding.cmpEq o
  | cmpNe o => exact Encoding.cmpNe o
  | cmpLt o => exact Encoding.cmpLt o
  | cmpGe o => exact Encoding.cmpGe o
  | cmpLtu o => exact Encoding.cmpLtu o
  | cmpGeu o => exact Encoding.cmpGeu o
  | cmpTst o => exact Encoding.cmpTst o
  | cmpiEq o => exact Encoding.cmpiEq o
  | cmpiNe o => exact Encoding.cmpiNe o
  | cmpiLt o => exact Encoding.cmpiLt o
  | cmpiLtu o => exact Encoding.cmpiLtu o
  | plogAnd o => exact Encoding.plogAnd o
  | plogOr o => exact Encoding.plogOr o
  | plogXor o => exact Encoding.plogXor o
  | plogAndn o => exact Encoding.plogAndn o
  | plogNot o => exact Encoding.plogNot o
  | plogSetx o => exact Encoding.plogSetx o
  | plogGetx o => exact Encoding.plogGetx o
  | gmovGet o => exact Encoding.gmovGet o
  | gmovAgree o => exact Encoding.gmovAgree o
  | gmovPut o => exact Encoding.gmovPut o
  | gmovAny o => exact Encoding.gmovAny o
  | gmovAll o => exact Encoding.gmovAll o
  | gmovCount o => exact Encoding.gmovCount o
  | idLvl o => exact Encoding.idLvl o
  | idCore o => exact Encoding.idCore o
  | idGpos o => exact Encoding.idGpos o
  | idGwid o => exact Encoding.idGwid o
  | idClus o => exact Encoding.idClus o
  | idCnt o => exact Encoding.idCnt o
  | idLane o => exact Encoding.idLane o
  | idPkg o => exact Encoding.idPkg o
  | br o => exact Encoding.br o
  | jal o => exact Encoding.jal o
  | jr o => exact Encoding.jr o
  | endCommit o => exact Encoding.endCommit o
  | endRetry o => exact Encoding.endRetry o
  | endFail o => exact Encoding.endFail o
  | regionOpen o => exact Encoding.regionOpen o
  | regionClose o => exact Encoding.regionClose o
  | gangSplit o => exact Encoding.gangSplit o
  | gangFuse o => exact Encoding.gangFuse o
  | gangAlign o => exact Encoding.gangAlign o
  | moviLo o => exact Encoding.moviLo o
  | moviHi o => exact Encoding.moviHi o
  | moviZ o => exact Encoding.moviZ o
  | alulAdd o => exact Encoding.alulAdd o
  | alulAnd o => exact Encoding.alulAnd o
  | alulOr o => exact Encoding.alulOr o
  | alulXor o => exact Encoding.alulXor o
  | alulShl o => exact Encoding.alulShl o
  | alulShr o => exact Encoding.alulShr o
  | alulSra o => exact Encoding.alulSra o
  | varithAdd o => exact Encoding.varithAdd o
  | varithSub o => exact Encoding.varithSub o
  | varithMul o => exact Encoding.varithMul o
  | varithMin o => exact Encoding.varithMin o
  | varithMax o => exact Encoding.varithMax o
  | varithAdds o => exact Encoding.varithAdds o
  | varithSubs o => exact Encoding.varithSubs o
  | varithAbs o => exact Encoding.varithAbs o
  | vfmaFma o => exact Encoding.vfmaFma o
  | vfmaFms o => exact Encoding.vfmaFms o
  | vfmaFnma o => exact Encoding.vfmaFnma o
  | vfmaFnms o => exact Encoding.vfmaFnms o
  | vdotBf16 o => exact Encoding.vdotBf16 o
  | vdotFp16 o => exact Encoding.vdotFp16 o
  | vdotE4m3 o => exact Encoding.vdotE4m3 o
  | vdotE5m2 o => exact Encoding.vdotE5m2 o
  | vdotI8 o => exact Encoding.vdotI8 o
  | vdotU8 o => exact Encoding.vdotU8 o
  | vdotI8u8 o => exact Encoding.vdotI8u8 o
  | vredAdd o => exact Encoding.vredAdd o
  | vredMin o => exact Encoding.vredMin o
  | vredMax o => exact Encoding.vredMax o
  | vredAddw o => exact Encoding.vredAddw o
  | vredAnd o => exact Encoding.vredAnd o
  | vredOr o => exact Encoding.vredOr o
  | vredXor o => exact Encoding.vredXor o
  | vredImax o => exact Encoding.vredImax o
  | vlogicAnd o => exact Encoding.vlogicAnd o
  | vlogicOr o => exact Encoding.vlogicOr o
  | vlogicXor o => exact Encoding.vlogicXor o
  | vlogicAndn o => exact Encoding.vlogicAndn o
  | vlogicNot o => exact Encoding.vlogicNot o
  | vlogicShl o => exact Encoding.vlogicShl o
  | vlogicShr o => exact Encoding.vlogicShr o
  | vlogicSra o => exact Encoding.vlogicSra o
  | vcmpEq o => exact Encoding.vcmpEq o
  | vcmpNe o => exact Encoding.vcmpNe o
  | vcmpLt o => exact Encoding.vcmpLt o
  | vcmpLe o => exact Encoding.vcmpLe o
  | vcmpLtu o => exact Encoding.vcmpLtu o
  | vcmpLeu o => exact Encoding.vcmpLeu o
  | vcmpUn o => exact Encoding.vcmpUn o
  | vselSel o => exact Encoding.vselSel o
  | vselZero o => exact Encoding.vselZero o
  | vselCmpr o => exact Encoding.vselCmpr o
  | vselExpd o => exact Encoding.vselExpd o
  | vcvtRne o => exact Encoding.vcvtRne o
  | vcvtRtz o => exact Encoding.vcvtRtz o
  | vcvtRup o => exact Encoding.vcvtRup o
  | vcvtRdn o => exact Encoding.vcvtRdn o
  | vcvtSto o => exact Encoding.vcvtSto o
  | vcvtWide o => exact Encoding.vcvtWide o
  | vscaleLdexp o => exact Encoding.vscaleLdexp o
  | vscaleMx o => exact Encoding.vscaleMx o
  | vscaleSb4 o => exact Encoding.vscaleSb4 o
  | vscaleCb o => exact Encoding.vscaleCb o
  | vcbDec o => exact Encoding.vcbDec o
  | vsfuExp2 o => exact Encoding.vsfuExp2 o
  | vsfuLog2 o => exact Encoding.vsfuLog2 o
  | vsfuRcp o => exact Encoding.vsfuRcp o
  | vsfuRsqrt o => exact Encoding.vsfuRsqrt o
  | vsfuSqrt o => exact Encoding.vsfuSqrt o
  | vsfuSin o => exact Encoding.vsfuSin o
  | vsfuCos o => exact Encoding.vsfuCos o
  | vsfuTanh o => exact Encoding.vsfuTanh o
  | vsfu2Sigm o => exact Encoding.vsfu2Sigm o
  | vsfu2Gelut o => exact Encoding.vsfu2Gelut o
  | vsfu2Gelue o => exact Encoding.vsfu2Gelue o
  | vsfu2Silu o => exact Encoding.vsfu2Silu o
  | vsfu2Erf o => exact Encoding.vsfu2Erf o
  | vsfu2Softp o => exact Encoding.vsfu2Softp o
  | vmovMov o => exact Encoding.vmovMov o
  | vmovBcast o => exact Encoding.vmovBcast o
  | vmovIns o => exact Encoding.vmovIns o
  | vmovExt o => exact Encoding.vmovExt o
  | vpermPerm o => exact Encoding.vpermPerm o
  | vpermZiplo o => exact Encoding.vpermZiplo o
  | vpermZiphi o => exact Encoding.vpermZiphi o
  | vpermUzpe o => exact Encoding.vpermUzpe o
  | vpermUzpo o => exact Encoding.vpermUzpo o
  | vpermSplat o => exact Encoding.vpermSplat o
  | vpermRev o => exact Encoding.vpermRev o
  | vlinkPop o => exact Encoding.vlinkPop o
  | vlinkPeek o => exact Encoding.vlinkPeek o
  | vlinkSkip o => exact Encoding.vlinkSkip o
  | sendX o => exact Encoding.sendX o
  | sendV o => exact Encoding.sendV o
  | sendNz o => exact Encoding.sendNz o
  | recvW o => exact Encoding.recvW o
  | recvTry o => exact Encoding.recvTry o
  | recvHdr o => exact Encoding.recvHdr o
  | recvDrop o => exact Encoding.recvDrop o
  | chanSlot o => exact Encoding.chanSlot o
  | chanHdr o => exact Encoding.chanHdr o
  | chanCnt o => exact Encoding.chanCnt o
  | barInit o => exact Encoding.barInit o
  | barArrive o => exact Encoding.barArrive o
  | barWait o => exact Encoding.barWait o
  | barSync o => exact Encoding.barSync o
  | barQuery o => exact Encoding.barQuery o
  | ldB o => exact Encoding.ldB o
  | ldH o => exact Encoding.ldH o
  | ldW o => exact Encoding.ldW o
  | ldD o => exact Encoding.ldD o
  | ldBs o => exact Encoding.ldBs o
  | ldHs o => exact Encoding.ldHs o
  | ldWs o => exact Encoding.ldWs o
  | stB o => exact Encoding.stB o
  | stH o => exact Encoding.stH o
  | stW o => exact Encoding.stW o
  | stD o => exact Encoding.stD o
  | vldV o => exact Encoding.vldV o
  | vldBc o => exact Encoding.vldBc o
  | vstV o => exact Encoding.vstV o
  | vstE o => exact Encoding.vstE o
  | ldfKeep o => exact Encoding.ldfKeep o
  | ldfTake o => exact Encoding.ldfTake o
  | steFill o => exact Encoding.steFill o
  | steKeep o => exact Encoding.steKeep o
  | feTest o => exact Encoding.feTest o
  | feSet o => exact Encoding.feSet o
  | feClr o => exact Encoding.feClr o
  | feTas o => exact Encoding.feTas o
  | feSetr o => exact Encoding.feSetr o
  | feClrr o => exact Encoding.feClrr o
  | waitLe o => exact Encoding.waitLe o
  | waitLex o => exact Encoding.waitLex o
  | cachePf o => exact Encoding.cachePf o
  | cachePfl1 o => exact Encoding.cachePfl1 o
  | cacheNu o => exact Encoding.cacheNu o
  | cacheWb o => exact Encoding.cacheWb o
  | cacheWbinv o => exact Encoding.cacheWbinv o
  | rclkRead o => exact Encoding.rclkRead o
  | rclkAdv o => exact Encoding.rclkAdv o
  | rclkDflt o => exact Encoding.rclkDflt o
  | pinWin o => exact Encoding.pinWin o
  | pinSize o => exact Encoding.pinSize o
  | amoAdd o => exact Encoding.amoAdd o
  | amoAddb o => exact Encoding.amoAddb o
  | amoMin o => exact Encoding.amoMin o
  | amoMax o => exact Encoding.amoMax o
  | amoAnd o => exact Encoding.amoAnd o
  | amoOr o => exact Encoding.amoOr o
  | amoXor o => exact Encoding.amoXor o
  | amoSwap o => exact Encoding.amoSwap o
  | cas o => exact Encoding.cas o
  | redAdd o => exact Encoding.redAdd o
  | redMin o => exact Encoding.redMin o
  | redMax o => exact Encoding.redMax o
  | redAnd o => exact Encoding.redAnd o
  | redOr o => exact Encoding.redOr o
  | redXor o => exact Encoding.redXor o
  | redFmin o => exact Encoding.redFmin o
  | redFmax o => exact Encoding.redFmax o
  | xlatProbe o => exact Encoding.xlatProbe o
  | xlatTouch o => exact Encoding.xlatTouch o
  | xlatInv o => exact Encoding.xlatInv o
  | fenceOrd o => exact Encoding.fenceOrd o
  | trap o => exact Encoding.trap o
  | sysR o => exact Encoding.sysR o
  | sysW o => exact Encoding.sysW o
  | tresolveWrite x0 x1 => exact Encoding.tresolveWrite x0 x1
  | taskMma o => exact Encoding.taskMma o
  | taskMmav o => exact Encoding.taskMmav o
  | taskEw o => exact Encoding.taskEw o
  | taskRed o => exact Encoding.taskRed o
  | taskCvt o => exact Encoding.taskCvt o
  | taskTr o => exact Encoding.taskTr o
  | vstopCur o => exact Encoding.vstopCur o
  | vwaitVer o => exact Encoding.vwaitVer o
  | vwaitFin o => exact Encoding.vwaitFin o
  | vwaitSet o => exact Encoding.vwaitSet o
  | vwaitSets o => exact Encoding.vwaitSets o
  | vwaitPoll o => exact Encoding.vwaitPoll o
  | cbldMe o => exact Encoding.cbldMe o
  | cbldNb o => exact Encoding.cbldNb o
  | copyCp o => exact Encoding.copyCp o
  | copyFill o => exact Encoding.copyFill o
  | copyChan o => exact Encoding.copyChan o
  | copyStat o => exact Encoding.copyStat o
  | copyRsm o => exact Encoding.copyRsm o
  | copyAbrt o => exact Encoding.copyAbrt o
  | gatherG o => exact Encoding.gatherG o
  | gatherS o => exact Encoding.gatherS o
  | twalkLd o => exact Encoding.twalkLd o
  | twalkWb o => exact Encoding.twalkWb o
  | nbmvMv o => exact Encoding.nbmvMv o
  | attnBlk o => exact Encoding.attnBlk o
  | attnMrg o => exact Encoding.attnMrg o
  | sampleHist o => exact Encoding.sampleHist o
  | sampleThr o => exact Encoding.sampleThr o
  | sampleMass o => exact Encoding.sampleMass o
  | sampleDraw o => exact Encoding.sampleDraw o
  | textNorm o => exact Encoding.textNorm o
  | textTbl o => exact Encoding.textTbl o
  | aMoviLo o => exact Encoding.aMoviLo o
  | aMoviHi o => exact Encoding.aMoviHi o
  | aMoviZ o => exact Encoding.aMoviZ o
  | aMov o => exact Encoding.aMov o
  | aAdd o => exact Encoding.aAdd o
  | aSub o => exact Encoding.aSub o
  | aAnd o => exact Encoding.aAnd o
  | aOr o => exact Encoding.aOr o
  | aXor o => exact Encoding.aXor o
  | aShl o => exact Encoding.aShl o
  | aShr o => exact Encoding.aShr o
  | aMul o => exact Encoding.aMul o
  | aCmp o => exact Encoding.aCmp o
  | aBr o => exact Encoding.aBr o
  | aJmp o => exact Encoding.aJmp o
  | aCall o => exact Encoding.aCall o
  | aRet o => exact Encoding.aRet o
  | aLd o => exact Encoding.aLd o
  | aSt o => exact Encoding.aSt o
  | aWaitPend o => exact Encoding.aWaitPend o
  | aWaitSig o => exact Encoding.aWaitSig o
  | aWaitAll o => exact Encoding.aWaitAll o
  | aSigSlot o => exact Encoding.aSigSlot o
  | aSigHost o => exact Encoding.aSigHost o
  | aYield o => exact Encoding.aYield o
  | aHalt o => exact Encoding.aHalt o
  | aKlaunch o => exact Encoding.aKlaunch o
  | aFence o => exact Encoding.aFence o
  | cNew o => exact Encoding.cNew o
  | cFork o => exact Encoding.cFork o
  | cDrop o => exact Encoding.cDrop o
  | cTrim o => exact Encoding.cTrim o
  | cLen o => exact Encoding.cLen o
  | cRead o => exact Encoding.cRead o
  | cHint o => exact Encoding.cHint o
  | cPin o => exact Encoding.cPin o
  | cUnpin o => exact Encoding.cUnpin o
  | cProg o => exact Encoding.cProg o
  | cBind o => exact Encoding.cBind o
  | cGram o => exact Encoding.cGram o
  | cSamp o => exact Encoding.cSamp o
  | cApp o => exact Encoding.cApp o
  | cGen o => exact Encoding.cGen o
  | cScore o => exact Encoding.cScore o
  | cChoose o => exact Encoding.cChoose o
  | cSpec o => exact Encoding.cSpec o
  | vfEnable x0 => exact Encoding.vfEnable x0
  | illegalEncoding x0 x1 => exact Encoding.illegalEncoding x0 x1
  | instructionFetchFault x0 x1 x2 => exact Encoding.instructionFetchFault x0 x1 x2
  | agentIllegalWord x0 => exact Encoding.agentIllegalWord x0
  | agentFetchFault => exact Encoding.agentFetchFault
  | windowUncorrectableError x0 x1 x2 => exact Encoding.windowUncorrectableError x0 x1 x2
  | clusterUnitFailure x0 => exact Encoding.clusterUnitFailure x0
  | coherentStorePerform x0 x1 x2 => exact Encoding.coherentStorePerform x0 x1 x2

end Sys2Proof.Proofs.Encodings
end

section
/-! SUPPORT. What the operations on firings, the L2, translation and the order of accesses leave of memory: most leave it as it was, and
the others keep its canonical form. -/

namespace Sys2Proof.Proofs.Canonical

open Sys2Proof.Machine Sys2Proof.Laws.State Sys2Proof.Laws.Memory

@[simp] theorem ite_mem (c : Prop) [Decidable c] (a b : State) : (if c then a else b).mem = if c then a.mem else b.mem :=
  apply_ite State.mem c a b

theorem foldl_mem {α : Type} {g : State → α → State} (h : ∀ s a, (g s a).mem = s.mem) (l : List α) (s : State) :
    (l.foldl g s).mem = s.mem := by
  induction l generalizing s with
  | nil => rfl
  | cons a l ih => rw [List.foldl_cons, ih, h]

theorem foldr_mem {α : Type} {g : α → State → State} (h : ∀ a s, (g a s).mem = s.mem) (l : List α) (s : State) :
    (l.foldr g s).mem = s.mem := by
  induction l with
  | nil => rfl
  | cons a l ih => rw [List.foldr_cons, h, ih]


@[simp] theorem wf_ite (c : Prop) [Decidable c] (a b : Mem) :
    Memory.wf (if c then a else b) = if c then Memory.wf a else Memory.wf b :=
  apply_ite Memory.wf c a b

theorem foldl_wf {α : Type} {g : State → α → State} (h : ∀ s a, Memory.wf s.mem = true → Memory.wf (g s a).mem = true) :
    ∀ (l : List α) {s : State}, Memory.wf s.mem = true → Memory.wf (l.foldl g s).mem = true
  | [], _, hw => hw
  | a :: l, s, hw => foldl_wf h l (h s a hw)

theorem foldl_fst_wf {α β : Type} {g : State × β → α → State × β}
    (h : ∀ p a, Memory.wf p.1.mem = true → Memory.wf (g p a).1.mem = true) :
    ∀ (l : List α) {p : State × β}, Memory.wf p.1.mem = true → Memory.wf (l.foldl g p).1.mem = true
  | [], _, hw => hw
  | a :: l, p, hw => foldl_fst_wf h l (h p a hw)

@[simp] theorem putTenant_mem (s : State) (v : ℕ) (x3 : Tenant) : (putTenant s v x3).mem = s.mem := rfl
@[simp] theorem putFiring_mem (s : State) (f : Firing) : (putFiring s f).mem = s.mem := rfl
@[simp] theorem putLaunch_mem (s : State) (l : Launch) : (putLaunch s l).mem = s.mem := rfl
@[simp] theorem updInst_mem (s : State) (id : ℕ) (f : Inst → Inst) : (updInst s id f).mem = s.mem := rfl
@[simp] theorem putPcore_mem (s : State) (p : PCore) : (putPcore s p).mem = s.mem := rfl

@[simp] theorem updChan_mem (s : State) (c : ℕ) (launch : ℕ) (ch : ℕ) (f : Chan → Chan) :
    (updChan s c launch ch f).mem = s.mem := rfl
@[simp] theorem newId_mem (s : State) : (newId s).2.mem = s.mem := rfl
@[simp] theorem failLaunch_mem (s : State) (id : ℕ) : (failLaunch s id).mem = s.mem := rfl

theorem foldlM_mem {α β : Type} {g : State × β → α → Option (State × β)}
    (h : ∀ p a q, g p a = some q → q.1.mem = p.1.mem) :
    ∀ (l : List α) (p q : State × β), l.foldlM g p = some q → q.1.mem = p.1.mem
  | [], p, q, e => by cases e; rfl
  | a :: l, p, q, e => by
    rw [List.foldlM_cons] at e
    obtain ⟨r, hr, hq⟩ := Option.bind_eq_some_iff.mp e
    rw [foldlM_mem h l r q hq, h p a r hr]

theorem reserve_mem {s : State} {c launch : ℕ} {a : Actor} {t : State × List Resv} (h : reserve s c launch a = some t) :
    t.1.mem = s.mem := by
  have take (input : Bool) (rates : List (ℕ × ℕ)) (p q : State × List Resv) := foldlM_mem (g := fun (p : State × List Resv) (e : ℕ × ℕ) =>
      match chanAt p.1 c launch e.1 with
      | none => none
      | some x =>
        let src := if input then x.filled else x.free
        if src.length < e.2 then none
        else
          let s := updChan p.1 c launch e.1 fun x =>
            if input then { x with filled := x.filled.drop e.2, fr := x.fr + e.2 }
            else { x with free := x.free.drop e.2, er := x.er + e.2 }
          some (s, p.2 ++ [{ chan := e.1, input := input, slots := src.take e.2 }]))
    (fun p e q hq => by
      dsimp only at hq
      split at hq
      · cases hq
      · generalize (if input = true then _ else _ : List ℕ) = src at hq
        split at hq <;> cases hq
        rfl) rates p q
  obtain ⟨r, hr, ht⟩ := Option.bind_eq_some_iff.mp h
  exact (take false a.outs r t ht).trans (take true a.ins (s, []) r hr)

@[simp] theorem makeEligible_mem (s : State) (id : ℕ) (change : Inst → Inst) :
    (makeEligible s id change).mem = s.mem := rfl

@[simp] theorem settle_mem (s : State) (c : ℕ) : (settle s c).mem = s.mem := by
  unfold settle
  refine foldl_mem (fun s x => ?_) _ _
  split
  · split
    · rfl
    · rename_i h
      rw [makeEligible_mem, reserve_mem h]
  · rfl

@[simp] theorem setPopped_mem (s : State) (x : Inst) (total : ℕ) : (setPopped s x total).mem = s.mem := rfl
@[simp] theorem dropPopped_mem (s : State) (x : Inst) : (dropPopped s x).mem = s.mem := rfl

@[simp] theorem returnResv_mem (s : State) (c launch : ℕ) (rs : List Resv) : (returnResv s c launch rs).mem = s.mem := by
  unfold returnResv
  exact foldr_mem (fun _ _ => by rfl) _ _

@[simp] theorem commitResv_mem (s : State) (c : ℕ) (launch : ℕ) (actor : ℕ) (covers : List ℕ) (ts : ℕ) (rs : List Resv) :
    (commitResv s c launch actor covers ts rs).mem = s.mem := by
  unfold commitResv; exact foldl_mem (fun _ _ => by simp) _ _

@[simp] theorem ackAll_mem (s : State) (acks : List (ℕ × ℕ)) : (ackAll s acks).mem = s.mem := by
  simp [ackAll]

@[simp] theorem ackNotices_mem (s : State) (f : Firing) : (ackNotices s f).mem = s.mem := by
  simp [ackNotices]

@[simp] theorem updAccs_mem (s : State) (f : Firing) (g : List Machine.Acc → List Machine.Acc) :
    (updAccs s f g).mem = s.mem := rfl
@[simp] theorem releaseCores_mem (s : State) (f : Firing) : (releaseCores s f).mem = s.mem := rfl

@[simp] theorem returnPopped_mem (s : State) (f : Firing) : (returnPopped s f).mem = s.mem := by
  unfold returnPopped; split <;> simp

@[simp] theorem abortFiring_mem (s : State) (f : Firing) (g : List Machine.Acc → List Machine.Acc) :
    (abortFiring s f g).mem = s.mem := by
  simp [abortFiring]

@[simp] theorem failInst_mem (s : State) (id : ℕ) (launch : ℕ) : (failInst s id launch).mem = s.mem := by
  unfold failInst; split <;> simp

@[simp] theorem retryInst_mem (s : State) (id : ℕ) (c : ℕ) : (retryInst s id c).mem = s.mem := by
  simp [retryInst]

@[simp] theorem resolveInst_mem (s : State) (x : Inst) (act : ℕ) : (resolveInst s x act).mem = s.mem := by
  simp [resolveInst]

@[simp] theorem loseRecord_mem (s : State) (r : Record) : (loseRecord s r).mem = s.mem := by
  unfold loseRecord; dsimp only; repeat' split
  all_goals simp

@[simp] theorem queueRecord_mem (s : State) (r : Record) : (queueRecord s r).mem = s.mem := by
  simp [queueRecord]

@[simp] theorem dropHeld_mem (s : State) (f : Firing) : (dropHeld s f).mem = s.mem := rfl

@[simp] theorem trapFiring_mem (s : State) (f : Firing) (x3 : TrapInfo) (w0 : W32) (w1 : W32) :
    (trapFiring s f x3 w0 w1).mem = s.mem := by
  simp [trapFiring]

@[simp] theorem resolveAs_mem (s : State) (x : Inst) (act : ℕ) (ts : ℕ) (pend : List ℕ) :
    (resolveAs s x act ts pend).mem = s.mem := by
  simp [resolveAs]

@[simp] theorem resolveWrite_mem (s : State) (v : ℕ) (w : Word) (ts : ℕ) (pend : List ℕ) :
    (resolveWrite s v w ts pend).mem = s.mem := by
  unfold resolveWrite; dsimp only; repeat' split
  all_goals simp

@[simp] theorem fillLeaf_mem (s : State) (c : ℕ) (v : ℕ) (l : Leaf) : (fillLeaf s c v l).mem = s.mem := rfl

@[simp] theorem deviceLeaf_mem (s : State) (c v va : ℕ) (fill : Bool) : (deviceLeaf s c v va fill).1.mem = s.mem := by
  unfold deviceLeaf
  repeat' split
  all_goals simp

@[simp] theorem translateDev_mem (s : State) (c v va : ℕ) (want : Want) : (translateDev s c v va want).1.mem = s.mem := by
  have h := deviceLeaf_mem s c v va true
  unfold translateDev
  split <;> rename_i e <;> rw [e] at h <;> exact h

@[simp] theorem updReq_mem (s : State) (id : ℕ) (f : PageReq → PageReq) : (updReq s id f).mem = s.mem := rfl

@[simp] theorem askPage_mem (s : State) (v : ℕ) (sec : ℕ) (page : ℕ) (want : Want) (cached : Bool) (who : List Party)
    (cmd : List ℕ) :
    (askPage s v sec page want cached who cmd).2.mem = s.mem := by
  unfold askPage; split <;> simp

@[simp] theorem clearFailed_mem (s : State) (p : Party) : (clearFailed s p).mem = s.mem := rfl
@[simp] theorem endReq_mem (s : State) (r : PageReq) (fail : Want → Bool) : (endReq s r fail).mem = s.mem := rfl

@[simp] theorem nextPri_mem (s : State) (v : ℕ) : (nextPri s v).mem = s.mem := by
  unfold nextPri; split <;> simp

@[simp] theorem tickClock_mem (s : State) (k : ClockId) (n : W32) : (tickClock s k n).mem = s.mem := by
  unfold tickClock; split <;> simp

@[simp] theorem orphanLines_mem (s : State) (slice : ℕ) (idx : ℕ) : (orphanLines s slice idx).mem = s.mem := rfl

@[simp] theorem clkEntry_mem (s : State) (slice : ℕ) (k : ClockId) : (clkEntry s slice k).1.mem = s.mem := by
  unfold clkEntry; dsimp only; repeat' split
  all_goals simp

@[simp] theorem retireClocks_mem (s : State) (launch : ℕ) : (retireClocks s launch).mem = s.mem := by
  unfold retireClocks; exact foldl_mem (fun _ _ => by simp) _ _

@[simp] theorem forgetLost_mem (s : State) (slice : ℕ) (way : ℕ) : (forgetLost s slice way).mem = s.mem := rfl

@[simp] theorem putHome_wf (s : State) (key : ℕ) (mask : ℕ) (bytes : List Byte) (hw : Memory.wf s.mem = true) :
    Memory.wf (putHome s key mask bytes).mem = true := by
  simp [putHome, hw, wf_memWriteMasked]

@[simp] theorem setStamp_mem (s : State) (line : ℕ) (wts : ℕ) (rts : ℕ) : (setStamp s line wts rts).mem = s.mem := rfl
@[simp] theorem bumpStamp_mem (s : State) (line : ℕ) (floor : ℕ) : (bumpStamp s line floor).mem = s.mem := rfl

@[simp] theorem applyUpdate_wf (s : State) (u : Update) (hw : Memory.wf s.mem = true) :
    Memory.wf (applyUpdate s u).mem = true := by
  simp [applyUpdate, hw]

@[simp] theorem recallWhere_wf (s : State) (p : ℕ → ℕ → Update → Bool) (hw : Memory.wf s.mem = true) :
    Memory.wf (recallWhere s p).mem = true := by
  unfold recallWhere; exact foldl_wf (fun _ _ h => by simp [h]) _ hw

@[simp] theorem recallLine_wf (s : State) (line : ℕ) (hw : Memory.wf s.mem = true) :
    Memory.wf (recallLine s line).mem = true := by
  simp [recallLine, hw]

@[simp] theorem decodeSectors_wf (s : State) (line : ℕ) (secs : BitVec 4) (hw : Memory.wf s.mem = true) :
    Memory.wf (decodeSectors s line secs).mem = true := by
  unfold decodeSectors
  split
  · refine foldl_wf (fun s j h => ?_) _ hw
    split
    · rw [setMem_mem]
      exact wf_memWriteBytes _ _ h
    · exact h
  · exact hw

theorem foldl_mem_wf {α : Type} {g : Mem → α → Mem} (h : ∀ m a, Memory.wf m = true → Memory.wf (g m a) = true) :
    ∀ (l : List α) {m : Mem}, Memory.wf m = true → Memory.wf (l.foldl g m) = true
  | [], _, hw => hw
  | a :: l, m, hw => foldl_mem_wf h l (h m a hw)

@[simp] theorem writeBack_wf (s : State) (line : ℕ) (hw : Memory.wf s.mem = true) :
    Memory.wf (writeBack s line).mem = true := by
  have h := recallLine_wf s line hw
  unfold writeBack
  dsimp only
  split
  · exact h
  · rw [setL2_mem, setMem_mem]
    split
    · refine foldl_mem_wf (fun m j hm => ?_) _ h
      split
      · exact wf_memCopy hm _ _ _
      · exact hm
    · exact h

@[simp] theorem dropLine_wf (s : State) (line : ℕ) (hw : Memory.wf s.mem = true) :
    Memory.wf (dropLine s line).mem = true := by
  simp [dropLine, hw, wf_memClear]

@[simp] theorem dropLines_wf (s : State) (p : Line → Bool) (hw : Memory.wf s.mem = true) :
    Memory.wf (dropLines s p).mem = true := by
  unfold dropLines; exact foldl_wf (fun _ _ h => by simp [h]) _ hw

@[simp] theorem countPromise_mem (s : State) (v : ℕ) (nu : ℕ) : (countPromise s v nu).mem = s.mem := by
  simp [countPromise]

@[simp] theorem l2Access_wf (s : State) (r : L2Req) (hw : Memory.wf s.mem = true) :
    Memory.wf (l2Access s r).1.mem = true := by
  unfold l2Access; dsimp only; repeat' split
  all_goals simp [hw]

@[simp] theorem l2Nu_mem (s : State) (r : L2Req) : (l2Nu s r).mem = s.mem := by
  unfold l2Nu; split <;> simp

@[simp] theorem getHome_wf (s : State) (key : ℕ) (n : ℕ) (hw : Memory.wf s.mem = true) :
    Memory.wf (getHome s key n).1.mem = true := by
  unfold getHome; split <;> simp [hw]

@[simp] theorem freeBytes_mem (s : State) (n : ℕ) : (freeBytes s n).1.mem = s.mem := rfl

@[simp] theorem healLine_wf (s : State) (key : ℕ) (hw : Memory.wf s.mem = true) :
    Memory.wf (healLine s key).mem = true := by
  simp [healLine, hw, wf_memWriteBytes]

@[simp] theorem broadcast_mem (s : State) (slice : ℕ) (clk : ClockId) (n : ℕ) :
    (broadcast s slice clk n).mem = s.mem := by
  unfold broadcast
  split
  · rfl
  · exact (foldl_mem (fun _ _ => by rfl) _ _).trans (newId_mem s)

@[simp] theorem pageAfterRead_mem (s : State) (v : ℕ) (off : ℕ) : (pageAfterRead s v off).mem = s.mem := by
  simp [pageAfterRead]

@[simp] theorem setPts_mem (s : State) (c : ℕ) (i : ℕ) (a : Machine.Acc) (n : ℕ) : (setPts s c i a n).mem = s.mem := by
  unfold setPts; exact foldl_mem (fun _ _ => by simp) _ _

@[simp] theorem raisePts_mem (s : State) (c : ℕ) (cores : List ℕ) (ts : ℕ) : (raisePts s c cores ts).mem = s.mem := by
  unfold raisePts; exact foldl_mem (fun _ _ => by simp) _ _

@[simp] theorem noteTs_mem (s : State) (key : ℕ) (n : ℕ) (ts : ℕ) : (noteTs s key n ts).mem = s.mem := by
  simp [noteTs]

@[simp] theorem overwrite_mem (s : State) (key : ℕ) (n : ℕ) : (overwrite s key n).mem = s.mem := rfl
@[simp] theorem outsideWrite_mem (s : State) (line : ℕ) : (outsideWrite s line).mem = s.mem := rfl

@[simp] theorem outsideRead_mem (s : State) (key : ℕ) (n : ℕ) : (outsideRead s key n).mem = s.mem := by
  simp [outsideRead]

@[simp] theorem acquire_mem (s : State) (c : ℕ) (cores ids : List ℕ) (ts : ℕ) :
    (acquire s c cores ids ts).mem = s.mem := by
  unfold acquire
  dsimp only
  split
  · simp
  · exact (foldl_mem (fun _ _ => by rfl) _ _).trans (raisePts_mem _ _ _ _)

@[simp] theorem acquireRead_mem (s : State) (c : ℕ) (i : ℕ) (a : Machine.Acc) : (acquireRead s c i a).mem = s.mem := by
  simp [acquireRead]

@[simp] theorem noteSeen_mem (s : State) (c : ℕ) (i : ℕ) (a : Machine.Acc) (l : List Machine.Rel) (acq : List Carry) :
    (noteSeen s c i a l acq).mem = s.mem := by
  unfold noteSeen; exact foldl_mem (fun _ _ => by simp) _ _

@[simp] theorem recordRelease_mem (s : State) (c : ℕ) (i : ℕ) (a : Machine.Acc) (key : ℕ) (u : ℕ × ℕ × ℕ) :
    (recordRelease s c i a key u).mem = s.mem := by
  simp [recordRelease]

@[simp] theorem afterWrite_mem (s : State) (c : ℕ) (i : ℕ) (a : Machine.Acc) (key : ℕ) (rel : Option (ℕ × ℕ × ℕ)) :
    (afterWrite s c i a key rel).mem = s.mem := by
  unfold afterWrite; dsimp only; repeat' split
  all_goals simp

@[simp] theorem noteWrite_mem (s : State) (a : Machine.Acc) (ts : ℕ) : (noteWrite s a ts).mem = s.mem := by
  unfold noteWrite; dsimp only; simp [foldl_mem]

@[simp] theorem completeFence_mem (s : State) (c : ℕ) (i : ℕ) (e : Machine.Acc) :
    (completeFence s c i e).mem = s.mem := by
  simp [completeFence]

@[simp] theorem completeFences_mem (s : State) : (completeFences s).mem = s.mem := by
  unfold completeFences; exact foldl_mem (fun _ _ => by simp) _ _

@[simp] theorem pushPath_mem (s : State) (pkg : ℕ) (path : ℕ) (k : Packet) : (pushPath s pkg path k).mem = s.mem := rfl
@[simp] theorem popPath_mem (s : State) (k : Packet) : (popPath s k).mem = s.mem := rfl

@[simp] theorem gatherMarker_mem (s : State) (m : Marker) : (gatherMarker s m).mem = s.mem := by
  simp [gatherMarker]

@[simp] theorem launchMarker_mem (s : State) (m : Marker) : (launchMarker s m).mem = s.mem := by
  unfold launchMarker
  dsimp only
  split
  · rw [gatherMarker_mem]
    exact foldl_mem (fun _ _ => by simp) _ _
  · exact foldl_mem (fun _ _ => by simp) _ _

@[simp] theorem sweep_mem (s : State) : (sweep s).mem = s.mem := by
  unfold sweep; dsimp only; simp [foldl_mem]

@[simp] theorem writeTrtail_mem (s : State) (v : ℕ) (w : Word) : (writeTrtail s v w).mem = s.mem := by
  simp [writeTrtail]

@[simp] theorem locate_mem (s : State) (f : Firing) (i : ℕ) (ea : Word) (size : ℕ) (want : Want) :
    (locate s f i ea size want).1.mem = s.mem := by
  have h := translateDev_mem s f.clus f.tenant (vaOf ea) want
  unfold locate
  dsimp only
  split
  · split <;> rename_i e <;> rw [e] at h <;> exact h
  · split <;> rfl
  · split <;> rfl
  all_goals rfl

@[simp] theorem locateFor_mem (s : State) (f : Firing) (i : ℕ) (ea : Word) (size : ℕ) (want : Want) :
    (locateFor s f i ea size want).1.mem = s.mem := by
  unfold locateFor; split <;> simp

@[simp] theorem checkAccess_mem (s : State) (f : Firing) (c : Core) (g : Form) (want : Want) (span : ℕ) (a : Acc) :
    (checkAccess s f c g want span a).1.mem = s.mem := by
  have h := locateFor_mem s f c.idx a.ea span want
  unfold checkAccess
  dsimp only
  split
  · rfl
  split
  · rfl
  split
  · rfl
  split
  · rfl
  generalize (if a.lanes = true then 4 else a.size) = n
  split
  · rfl
  split <;> rename_i e <;> rw [e] at h
  · exact h
  · exact h
  · generalize (if a.lanes = true then _ else _ : List (ℕ × ℕ)) = pieces
    split
    · exact h
    · split <;> exact h

@[simp] theorem updAcc_mem (s : State) (c : ℕ) (i : ℕ) (id : ℕ) (g : Machine.Acc → Machine.Acc) :
    (updAcc s c i id g).mem = s.mem := rfl
@[simp] theorem dropAcc_mem (s : State) (c : ℕ) (i : ℕ) (id : ℕ) : (dropAcc s c i id).mem = s.mem := rfl

@[simp] theorem placeL2_wf (s : State) (a : Machine.Acc) (write : Bool) (hw : Memory.wf s.mem = true) :
    Memory.wf (placeL2 s a write).mem = true := by
  simp [placeL2, hw]

@[simp] theorem readBytes_wf (s : State) (a : Machine.Acc) (hw : Memory.wf s.mem = true) :
    Memory.wf (readBytes s a).1.mem = true := by
  unfold readBytes; dsimp only; repeat' split
  all_goals simp [hw]

@[simp] theorem writeBytes_wf (s : State) (a : Acc) (mask : ℕ) (bytes : List Byte) (hw : Memory.wf s.mem = true) :
    Memory.wf (writeBytes s a mask bytes).mem = true := by
  unfold writeBytes
  split
  · exact foldl_mem_wf (fun m j hm => wf_memWriteMasked _ _ _ hm) _ hw
  · split
    · simp [hw]
    · split
      · simp [hw]
      · exact wf_memWriteMasked _ _ _ (by split <;> simp [hw])

@[simp] theorem atomicAct_wf (s : State) (a : Acc) (hw : Memory.wf s.mem = true) :
    Memory.wf (atomicAct s a).1.mem = true := by
  have h := readBytes_wf _ a (placeL2_wf s a true hw)
  unfold atomicAct
  dsimp only
  split
  · exact writeBytes_wf _ _ _ _ h
  · exact h

@[simp] theorem stampExplicit_mem (s : State) (c i : ℕ) (a : Acc) (line floor : ℕ) :
    (stampExplicit s c i a line floor).mem = s.mem := by
  unfold stampExplicit
  exact (noteWrite_mem _ _ _).trans ((foldl_mem (fun _ _ => by rfl) _ _).trans (bumpStamp_mem _ _ _))

@[simp] theorem redAct_wf (s : State) (c i : ℕ) (a : Acc) (hw : Memory.wf s.mem = true) :
    Memory.wf (redAct s c i a).mem = true := by
  have h := readBytes_wf _ a (placeL2_wf s a true hw)
  unfold redAct
  dsimp only
  split <;> simp [h]

@[simp] theorem redEnter_wf (s : State) (c : ℕ) (i : ℕ) (a : Machine.Acc) (hw : Memory.wf s.mem = true) :
    Memory.wf (redEnter s c i a).mem = true := by
  simp [redEnter, hw]

theorem deliver_mem {s : State} {c i : ℕ} {a : Acc} {t : State} (h : deliver s c i a = some t) : t.mem = s.mem := by
  unfold deliver at h
  split at h
  · cases h; simp
  · obtain ⟨f, -, rfl⟩ := Option.map_eq_some_iff.mp h
    simp

theorem checkAll_mem : ∀ (l : List (Core × (State → State × Chk))) (s : State),
    (∀ e ∈ l, ∀ s, (e.2 s).1.mem = s.mem) → (checkAll s l).1.mem = s.mem
  | [], _, _ => rfl
  | (c, g) :: rest, s, h => by
    simp only [checkAll]
    rw [checkAll_mem rest _ fun e he => h e (List.mem_cons_of_mem _ he)]
    exact h (c, g) List.mem_cons_self s

@[simp] theorem waitPages_mem : ∀ (s : State) (f : Firing) (units : List Core) (uni : Bool) (l : List (Core × Chk)),
    (waitPages s f units uni l).mem = s.mem
  | _, _, _, _, [] => rfl
  | s, f, units, uni, (c, .page p cached want) :: rest => by simp [waitPages, waitPages_mem _ _ units uni rest]
  | s, f, units, uni, (_, .ok _) :: rest => waitPages_mem s f units uni rest
  | s, f, units, uni, (_, .trap _) :: rest => waitPages_mem s f units uni rest

@[simp] theorem stampAcc_mem (s : State) (f : Firing) (units : List Core) (uni : Bool) (c : Core) (a : Machine.Acc) :
    (stampAcc s f units uni c a).1.mem = s.mem := by
  simp [stampAcc]

@[simp] theorem pushAcc_mem (s : State) (c : ℕ) (i : ℕ) (a : Machine.Acc) : (pushAcc s c i a).mem = s.mem := rfl

@[simp] theorem issueAll_mem : ∀ (l : List (Core × Acc)) (s : State) (f : Firing) (units : List Core) (uni : Bool),
    (issueAll s f units uni l).1.mem = s.mem
  | [], _, _, _, _ => rfl
  | (c, a) :: rest, s, f, units, uni => by simp [issueAll, issueAll_mem rest]

@[simp] theorem tickIdle_mem (s : State) (f : Firing) (n : ℕ) : (tickIdle s f n).mem = s.mem := by
  simp [tickIdle]

@[simp] theorem serveAtomic_wf (s : State) (c : ℕ) (i : ℕ) (a : Machine.Acc) (hw : Memory.wf s.mem = true) :
    Memory.wf (serveAtomic s c i a).1.mem = true := by
  simp [serveAtomic, hw]

@[simp] theorem bankAtomic_wf (s : State) (f : Firing) (units : List Core) (uni : Bool) (c : Core) (a : Machine.Acc)
    (hw : Memory.wf s.mem = true) :
    Memory.wf (bankAtomic s f units uni c a).1.mem = true := by
  simp [bankAtomic, hw]

@[simp] theorem startInval_mem (s : State) (v : ℕ) (host : Bool) (va : ℕ) (size : ℕ) (driver : Bool) (core : Option
    (ℕ × ℕ × ℕ)) :
    (startInval s v host va size driver core).mem = s.mem := rfl

theorem xlatCheck_mem {s : State} {g : State → State × Chk} (h : ∀ s, (g s).1.mem = s.mem) (f : Firing) (c : Core) (a : Word) :
    (xlatCheck s f c a g).1.mem = s.mem := by
  unfold xlatCheck
  dsimp only
  repeat' split
  all_goals simp [h]

@[simp] theorem askProbe_mem (s : State) (f : Firing) (c : Core) (page : ℕ) : (askProbe s f c page).1.mem = s.mem := rfl

theorem foldl_fst_mem {α β : Type} {g : State × β → α → State × β} (h : ∀ p a, (g p a).1.mem = p.1.mem) (l : List α)
    (p : State × β) : (l.foldl g p).1.mem = p.1.mem := by
  induction l generalizing p with
  | nil => rfl
  | cons a l ih => rw [List.foldl_cons, ih, h]

@[simp] theorem waitProbes_mem (s : State) (f : Firing) (l : List (Core × Acc)) : (waitProbes s f l).mem = s.mem := by
  unfold waitProbes
  rw [putFiring_mem]
  refine foldl_fst_mem (fun p e => ?_) l (s, f)
  dsimp only
  split <;> simp

@[simp] theorem cacheCheck_mem (s : State) (f : Firing) (c : Core) (a : Acc) : (cacheCheck s f c a).1.mem = s.mem := by
  refine xlatCheck_mem (fun s => ?_) f c a.ea
  have h := locate_mem s f c.idx a.ea 1 .rd
  split <;> rename_i e <;> rw [e] at h <;> exact h

@[simp] theorem fillL1_wf (s : State) (c : ℕ) (i : ℕ) (a : Machine.Acc) (hw : Memory.wf s.mem = true) :
    Memory.wf (fillL1 s c i a).mem = true := by
  simp [fillL1, hw]

@[simp] theorem freeWindowWays_wf (s : State) (v die lo hi : ℕ) (hw : Memory.wf s.mem = true) :
    Memory.wf (freeWindowWays s v die lo hi).mem = true :=
  foldl_wf (fun s slice h => foldl_wf (fun s way h => by
    rw [setMem_mem]
    exact wf_memWriteBytes _ _ (by simp [h])) _ h) _ hw

@[simp] theorem resizeWindow_wf (s : State) (v : ℕ) (die : ℕ) (new : ℕ) (hw : Memory.wf s.mem = true) :
    Memory.wf (resizeWindow s v die new).mem = true := by
  simp [resizeWindow, hw]

@[simp] theorem pinCheck_mem (s : State) (c : Core) (ea : Word) : (pinCheck s c ea).1.mem = s.mem := by
  unfold pinCheck; split <;> simp

@[simp] theorem putBit_mem (s : State) (key : ℕ) (full : Bool) : (putBit s key full).mem = s.mem := rfl

@[simp] theorem bankMove_wf (s : State) (c : ℕ) (i : ℕ) (a : Machine.Acc) (hw : Memory.wf s.mem = true) :
    Memory.wf (bankMove s c i a).1.mem = true := by
  unfold bankMove; dsimp only; repeat' split
  all_goals simp [hw, wf_memWriteN]

@[simp] theorem sendMarkers_mem (s : State) (c : ℕ) (i : ℕ) (l : List Machine.Acc) :
    (sendMarkers s c i l).mem = s.mem := by
  unfold sendMarkers; exact foldl_mem (fun _ _ => by simp) _ _

@[simp] theorem sendPacket_mem (s : State) (c i : ℕ) (a : Acc) (path : ℕ) : (sendPacket s c i a path).mem = s.mem := by
  unfold sendPacket
  rw [sweep_mem, pushPath_mem]
  exact (foldl_mem (fun _ _ => by rfl) _ _).trans (updAcc_mem _ _ _ _ _)

@[simp] theorem sendGroup_mem (s : State) (c : ℕ) (i : ℕ) (a : Machine.Acc) (path : ℕ) :
    (sendGroup s c i a path).mem = s.mem := by
  unfold sendGroup; exact foldl_mem (fun _ _ => by simp) _ _

@[simp] theorem performExplicit_wf (s : State) (c : ℕ) (i : ℕ) (a : Machine.Acc) (hw : Memory.wf s.mem = true) :
    Memory.wf (performExplicit s c i a).mem = true := by
  unfold performExplicit; split <;> simp [hw]

@[simp] theorem performCoherent_wf (s : State) (c : ℕ) (i : ℕ) (a : Machine.Acc) (hw : Memory.wf s.mem = true) :
    Memory.wf (performCoherent s c i a).mem = true := by
  simp [performCoherent, hw]

@[simp] theorem coherentLoad_wf (s : State) (c : ℕ) (core : ℕ) (lease : ℕ) (a : Machine.Acc)
    (hw : Memory.wf s.mem = true) :
    Memory.wf (coherentLoad s c core lease a).1.mem = true := by
  unfold coherentLoad; split <;> simp [hw]

@[simp] theorem remoteHome_mem (s : State) (c : ℕ) (a : Acc) : (remoteHome s c a).1.mem = s.mem := by
  have h := translateDev_mem s c a.tenant (a.ea.toNat % 2 ^ 48) (remoteWant a.kind)
  unfold remoteHome
  split <;> rename_i e <;> rw [e] at h
  · exact h
  · dsimp only
    split <;> exact h

theorem remoteAct_wf (s : State) (a : Acc) {stamp : State → State}
    (hs : ∀ s, Memory.wf s.mem = true → Memory.wf (stamp s).mem = true) (hw : Memory.wf s.mem = true) :
    Memory.wf (remoteAct s a stamp).1.mem = true := by
  unfold remoteAct
  split
  · simp [hw]
  · exact hs _ (by simp [hw])
  · exact hs _ (writeBytes_wf _ _ _ _ (by simp [hw]))
  · exact hs _ (by simp [hw])

@[simp] theorem performIncoming_wf (s : State) (a : Acc) (hw : Memory.wf s.mem = true) :
    Memory.wf (performIncoming s a).mem = true := by
  unfold performIncoming
  have h := remoteAct_wf (if accReads a then outsideRead s a.key a.size else s) a
    (stamp := fun s => outsideWrite s (lineOf a.key)) (fun s h => by simp [h]) (by simp [hw])
  dsimp only
  split <;> simp [h]

@[simp] theorem performOwn_wf (s : State) (c i : ℕ) (a b : Acc) (hw : Memory.wf s.mem = true) :
    Memory.wf (performOwn s c i a b).mem = true := by
  unfold performOwn
  have h := remoteAct_wf (if accReads b then noteSeen s c i b s.dir s.acq else s) b
    (stamp := fun s => stampExplicit s c i b (lineOf b.key) 0) (fun s h => by simp [h]) (by simp [hw])
  dsimp only
  split <;> simp [h]

@[simp] theorem serveOwn_wf (s : State) (c i : ℕ) (a : Acc) (hw : Memory.wf s.mem = true) :
    Memory.wf (serveOwn s c i a).mem = true := by
  have h : (remoteHome (popPath s (.acc c i a.id)) c a).1.mem = s.mem := by simp
  unfold serveOwn
  dsimp only
  split <;> rename_i e <;> rw [e] at h <;> simp only at h
  · simp [h, hw]
  · exact performOwn_wf _ _ _ _ _ (h ▸ hw)

@[simp] theorem settlePacket_mem (m : Marker) (s : State) (k : Packet) : (settlePacket m s k).mem = s.mem := by
  unfold settlePacket; split <;> simp

@[simp] theorem fetchWord_wf (s : State) (f : Firing) (pc : Word) (hw : Memory.wf s.mem = true) :
    Memory.wf (fetchWord s f pc).1.mem = true := by
  have h := translateDev_mem s f.clus f.tenant (vaOf pc) .ex
  unfold fetchWord
  split
  · exact hw
  · split <;> rename_i e <;> rw [e] at h <;> simp only at h
    · exact h ▸ hw
    · dsimp only
      split
      · exact h ▸ hw
      · split
        · exact h ▸ hw
        · simp [h, hw]

@[simp] theorem fetchAt_wf (s : State) (f : Firing) (pc : Word) (hw : Memory.wf s.mem = true) :
    Memory.wf (fetchAt s f pc).1.mem = true := by
  have h := fetchWord_wf s f pc hw
  unfold fetchAt
  split <;> rename_i e <;> rw [e] at h <;> simp only at h
  · exact h
  · split
    · have h2 := fetchWord_wf _ f (pc + 4) h
      split <;> rename_i e <;> rw [e] at h2 <;> exact h2
    · exact h

@[simp] theorem putBar_mem (s : State) (f : Firing) (n : ℕ) (b : Bar) : (putBar s f n b).mem = s.mem := rfl

@[simp] theorem barAcquire_mem (o : OpA) (s : State) (f : Firing) (units : List Core) (act : List Core) (b : Bar) :
    (barAcquire o s f units act b).mem = s.mem := by
  unfold barAcquire; exact foldl_mem (fun _ _ => by simp) _ _

theorem partReadFrom_wf {v : ℕ} : ∀ (fuel : ℕ) {s : State} {ea : Word} {n : ℕ} {t : State × List Byte},
    partReadFrom s v ea fuel n = .ok t → Memory.wf s.mem = true → Memory.wf t.1.mem = true
  | 0, _, _, _, _, h, hw => by cases h; exact hw
  | fuel + 1, s, ea, n, t, h, hw => by
    unfold partReadFrom at h
    dsimp only at h
    split at h
    · cases h; exact hw
    · split at h
      · cases h
      · split at h
        · cases h
        · rename_i hr
          have h1 := partReadFrom_wf fuel hr (by simp [hw])
          cases h
          exact h1

theorem partRead_wf {s : State} {v : ℕ} {ea : Word} {n : ℕ} {t : State × List Byte} (h : partRead s v ea n = .ok t)
    (hw : Memory.wf s.mem = true) : Memory.wf t.1.mem = true := partReadFrom_wf _ h hw

@[simp] theorem partPutAt_wf (s : State) (k : ℕ) (n : ℕ) (bs : List Byte) (hw : Memory.wf s.mem = true) :
    Memory.wf (partPutAt s k n bs).mem = true := by
  simp [partPutAt, hw]

theorem partWriteFrom_wf {v : ℕ} : ∀ (fuel : ℕ) {s : State} {ea : Word} {bs : List Byte} {t : State},
    partWriteFrom s v ea fuel bs = .ok t → Memory.wf s.mem = true → Memory.wf t.mem = true
  | 0, _, _, _, _, h, hw => by cases h; exact hw
  | fuel + 1, s, ea, bs, t, h, hw => by
    unfold partWriteFrom at h
    dsimp only at h
    split at h
    · cases h; exact hw
    · split at h
      · cases h
      · exact partWriteFrom_wf fuel h (by simp [hw])

theorem partWrite_wf {s : State} {v : ℕ} {ea : Word} {bs : List Byte} {t : State} (h : partWrite s v ea bs = .ok t)
    (hw : Memory.wf s.mem = true) : Memory.wf t.mem = true := partWriteFrom_wf _ h hw

@[simp] theorem partLocate_mem (s : State) (v : ℕ) (ea : Word) (want : Want) :
    (partLocate s v ea want).1.mem = s.mem := by
  unfold partLocate; dsimp only; repeat' split
  all_goals simp

@[simp] theorem partWord_wf (s : State) (key : ℕ) (n : ℕ) (launch : ℕ) (hw : Memory.wf s.mem = true) :
    Memory.wf (partWord s key n launch).1.mem = true := by
  unfold partWord; split <;> simp [hw]

@[simp] theorem partPut_wf (s : State) (key : ℕ) (n : ℕ) (v : ℕ) (wts : ℕ) (hw : Memory.wf s.mem = true) :
    Memory.wf (partPut s key n v wts).mem = true := by
  simp [partPut, hw]

@[simp] theorem sendMsix_mem (s : State) (v : ℕ) (vec : ℕ) : (sendMsix s v vec).mem = s.mem := rfl

theorem readActors_wf {v : ℕ} {va : Word} : ∀ {es : List (List Byte)} {s t : State} {g : Graph} {c : Bool},
    readActors s v va es = .ok t g c → Memory.wf s.mem = true → Memory.wf t.mem = true
  | [], _, _, _, _, h, hw => by cases h; exact hw
  | e :: es, s, t, g, c, h, hw => by
    unfold readActors at h
    dsimp only at h
    split at h
    · cases h
    · split at h
      · cases h
      · split at h
        · cases h
        · rename_i hr
          have h1 := partRead_wf hr hw
          split at h
          · rename_i hes
            cases h
            exact readActors_wf (es := es) hes h1
          · exact readActors_wf (es := es) h h1

theorem readGraph_wf {s t : State} {v : ℕ} {va : Word} {g : Graph} {c : Bool} (h : readGraph s v va = .ok t g c)
    (hw : Memory.wf s.mem = true) : Memory.wf t.mem = true := by
  have hhead {r : State × List Byte} (e : (if partServed s v va 16 then partRead s v va 16 else .ok (s, [])) = .ok r) :
      Memory.wf r.1.mem = true := by
    split at e
    · exact partRead_wf e hw
    · cases e; exact hw
  unfold readGraph at h
  split at h
  · cases h
  · cases h
  · rename_i he
    have h1 := hhead he
    dsimp only at h
    split at h
    · cases h
    · split at h
      · cases h
      · split at h
        · cases h
        · rename_i hr
          have h2 := partRead_wf hr h1
          split at h
          · rename_i ha
            cases h
            exact readActors_wf ha h2
          · exact readActors_wf h h2

@[simp] theorem launchRecord_mem (s : State) (v : ℕ) (va : Word) (step : Bool) (cause : ℕ) (tc : ℕ) :
    (launchRecord s v va step cause tc).mem = s.mem := by
  simp [launchRecord]

@[simp] theorem writeStatus_wf (s : State) (l : Launch) (code : ℕ) (hw : Memory.wf s.mem = true) :
    Memory.wf (writeStatus s l code).1.mem = true := by
  have h := partLocate_mem s l.tenant l.done .wr
  unfold writeStatus
  split
  · exact hw
  · split <;> rename_i e <;> rw [e] at h <;> simp only at h
    · exact h ▸ hw
    · simp [h, hw]
    · dsimp only
      split <;> simp [h, hw]

@[simp] theorem stepEnded_mem (s : State) (id : ℕ) (bad : Bool) : (stepEnded s id bad).mem = s.mem := rfl

@[simp] theorem forgetLaunch_mem (s : State) (id : ℕ) : (forgetLaunch s id).mem = s.mem := by
  simp [forgetLaunch]

@[simp] theorem freeSupl_mem (s : State) (v : ℕ) (id : ℕ) : (freeSupl s v id).mem = s.mem := by
  simp [freeSupl]

@[simp] theorem tookSupl_mem (s : State) (v : ℕ) (id : Option ℕ) : (tookSupl s v id).mem = s.mem := by
  unfold tookSupl; split <;> simp

@[simp] theorem endLaunch_wf (s : State) (l : Launch) (code : ℕ) (hw : Memory.wf s.mem = true) :
    Memory.wf (endLaunch s l code).mem = true := by
  have h := writeStatus_wf s l code hw
  unfold endLaunch
  split <;> rename_i e <;> rw [e] at h <;> simp only at h <;> simp [h]

@[simp] theorem acceptBytes_wf (s : State) (v : ℕ) (va : Word) (o : Origin) (bs : List Byte) (hw : Memory.wf s.mem = true) :
    Memory.wf (acceptBytes s v va o bs).1.mem = true := by
  have hcheck : (if isStep o then (s, Loc.ok {}) else partLocate s v (readRecord bs).done .wr).1.mem = s.mem := by
    split <;> simp
  have hreject (s : State) (l : Launch) (hw : Memory.wf s.mem = true) :
      Memory.wf (match writeStatus s l 2 with
        | (s, true) => (s, Accept.rejected)
        | (s, false) => (s, .asking)).1.mem = true := by
    have h := writeStatus_wf s l 2 hw
    split <;> rename_i e <;> rw [e] at h <;> exact h
  unfold acceptBytes
  dsimp only
  split
  · simp [hw]
  · split <;> rename_i e <;> rw [e] at hcheck <;> simp only at hcheck
    · exact hcheck ▸ hw
    · simp [hcheck, hw]
    · have hid (t : State) : Memory.wf (setNextId t (t.nextId + 1)).mem = Memory.wf t.mem := rfl
      split
      · exact hreject _ _ (hcheck ▸ hw)
      · split
        · exact hcheck ▸ hw
        · exact hreject _ _ (hcheck ▸ hw)
        · exact hreject _ _ (by simp [hcheck, hw])
        · rename_i hg
          have h2 := readGraph_wf hg (hcheck ▸ hw)
          split
          · exact hreject _ _ h2
          · exact h2

@[simp] theorem acceptRecord_wf (s : State) (v : ℕ) (va : Word) (o : Origin) (hw : Memory.wf s.mem = true) :
    Memory.wf (acceptRecord s v va o).1.mem = true := by
  unfold acceptRecord
  split
  · exact hw
  · split
    · simp [hw]
    · rename_i h
      exact acceptBytes_wf _ _ _ _ _ (partRead_wf h hw)

@[simp] theorem putSlot_mem (s : State) (x2 : Slot) : (putSlot s x2).mem = s.mem := rfl

theorem readCounts_wf {v launch : ℕ} : ∀ {ls : List Level} {s : State} {t : State × Option (List ℕ)},
    readCounts s v launch ls = .ok t → Memory.wf s.mem = true → Memory.wf t.1.mem = true
  | [], _, _, h, hw => by cases h; exact hw
  | l :: ls, s, t, h, hw => by
    unfold readCounts at h
    split at h
    · split at h
      · cases h
      · split at h
        · cases h; exact hw
        · dsimp only at h
          split at h
          · rename_i hr
            have h1 := readCounts_wf (ls := ls) hr (by simp [hw])
            cases h
            exact h1
          · exact readCounts_wf (ls := ls) h (by simp [hw])
    · split at h
      · rename_i hr
        have h1 := readCounts_wf (ls := ls) hr hw
        cases h
        exact h1
      · exact readCounts_wf (ls := ls) h hw

theorem allotWindow_mem {space place size cap id : ℕ} {s t : State} (h : allotWindow space place size cap id s = some t) :
    t.mem = s.mem := by
  unfold allotWindow at h
  split at h
  · cases h
  · split at h
    · cases h; rfl
    · obtain ⟨b, -, rfl⟩ := Option.map_eq_some_iff.mp h
      rfl

theorem allotBars_mem {c id : ℕ} {s t : State} (h : allotBars c id s = some t) : t.mem = s.mem := by
  unfold allotBars at h
  split at h
  · cases h; rfl
  · obtain ⟨b, -, rfl⟩ := Option.map_eq_some_iff.mp h
    rfl

theorem makeChans_mem {c : ℕ} {l : Launch} {actors : List ℕ} {s : State} {t : State}
    (h : makeChans c l actors s = some t) :
    t.mem = s.mem := by
  unfold makeChans at h; dsimp only at h; split at h <;> cases h <;> simp

theorem placeInsts_mem {c : ℕ} {group : Option (ℕ × ℕ)} {l : Launch} {path actors : List ℕ} {s t : State}
    (h : placeInsts c group l path actors s = some t) : t.mem = s.mem := by
  unfold placeInsts at h
  dsimp only at h
  split at h
  · cases h
  · cases h
    exact foldl_mem (fun _ _ => by rfl) _ _

theorem takeOn_mem {c : ℕ} {u : HwUnit} {l : Launch} {path actors : List ℕ} {s t : State}
    (h : takeOn c u l path actors s = some t) : t.mem = s.mem := by
  simp only [takeOn, Option.bind_eq_bind, Option.bind_eq_some_iff, Option.pure_def, Option.some.injEq] at h
  obtain ⟨s1, h1, s2, h2, s3, h3, s4, h4, s5, h5, s6, h6, rfl⟩ := h
  rw [settle_mem, placeInsts_mem h6, makeChans_mem h5, allotBars_mem h4, allotWindow_mem h3, allotWindow_mem h2, allotWindow_mem h1]

@[simp] theorem turnLanes_wf (s : State) (v : ℕ) (c : ℕ) (hw : Memory.wf s.mem = true) :
    Memory.wf (turnLanes s v c).mem = true := by
  unfold turnLanes; dsimp only; repeat' split
  all_goals simp [hw, wf_memClear]

@[simp] theorem bindInst_wf (s : State) (x : Inst) (lead : ℕ) (hw : Memory.wf s.mem = true) :
    Memory.wf (bindInst s x lead).mem = true := by
  simp [bindInst, hw]

@[simp] theorem hwFail_mem (s : State) (f : Firing) (core : ℕ) : (hwFail s f core).mem = s.mem := by
  simp [hwFail]

@[simp] theorem fenceCluster_mem (s : State) (c : ℕ) : (fenceCluster s c).mem = s.mem := by
  unfold fenceCluster; dsimp only; simp [foldl_mem]

@[simp] theorem sendStaged_mem (s : State) (f : Firing) (covers : List ℕ) (ts : ℕ) :
    (sendStaged s f covers ts).mem = s.mem := by
  unfold sendStaged; exact foldl_mem (fun _ _ => by simp) _ _

@[simp] theorem commitFiring_mem (s : State) (f : Firing) : (commitFiring s f).mem = s.mem := by
  unfold commitFiring; dsimp only; split <;> simp

@[simp] theorem noteError_mem (s : State) (c : ℕ) (i : ℕ) : (noteError s c i).mem = s.mem := rfl

@[simp] theorem restartFiring_mem (s : State) (f : Firing) (core : ℕ) (avoid : Bool) :
    (restartFiring s f core avoid).mem = s.mem := by
  simp [restartFiring]

@[simp] theorem announce_mem (s : State) (r : Record) (index : ℕ) : (announce s r index).mem = s.mem := by
  unfold announce; split <;> simp

@[simp] theorem holdInst_mem (s : State) (r : Record) (seq : ℕ) : (holdInst s r seq).mem = s.mem := by
  unfold holdInst; split <;> simp

@[simp] theorem writeRecord_wf (s : State) (r : Record) (hw : Memory.wf s.mem = true) :
    Memory.wf (writeRecord s r).mem = true := by
  unfold writeRecord
  dsimp only
  split
  · simp [hw]
  · rename_i h
    simp [partWrite_wf h hw]

@[simp] theorem forgetNote_mem (s : State) (m : Msg) : (forgetNote s m).mem = s.mem := by
  unfold forgetNote; split <;> simp

@[simp] theorem dropMessage_mem (s : State) (m : Msg) : (dropMessage s m).mem = s.mem := by
  simp [dropMessage]

@[simp] theorem fillSlot_wf (s : State) (c : ℕ) (ch : Chan) (j : ℕ) (m : Msg) (hw : Memory.wf s.mem = true) :
    Memory.wf (fillSlot s c ch j m).mem = true := by
  simp [fillSlot, hw, wf_memWriteBytes]

@[simp] theorem dropHostLines_wf (s : State) (v : ℕ) (va : ℕ) (size : ℕ) (hw : Memory.wf s.mem = true) :
    Memory.wf (dropHostLines s v va size).mem = true := by
  simp [dropHostLines, hw]

@[simp] theorem fillHost_mem (s : State) (e : TEntry) : (fillHost s e).mem = s.mem := rfl

@[simp] theorem failReq_mem (s : State) (q : PageReq) : (failReq s q).mem = s.mem := by
  simp [failReq]

/-- A work's result or question leaves a canonical memory. -/
def WorkWf {α : Type} : Work α → Prop
  | .ok s _ => Memory.wf s.mem = true
  | .ask s _ _ _ => Memory.wf s.mem = true
  | _ => True

theorem bindOk_wf {α β : Type} {w : Work α} {f : State → α → Work β} (hw : WorkWf w)
    (hf : ∀ s a, Memory.wf s.mem = true → WorkWf (f s a)) : WorkWf (w.bindOk f) := by
  cases w with
  | ok s a => exact hf s a hw
  | ask s p c w => exact hw
  | wait => trivial
  | fault c => trivial
  | reject n => trivial

theorem workOk_wf {α : Type} {w : Work α} {s : State} {a : α} (hw : WorkWf w) (h : w = .ok s a) :
    Memory.wf s.mem = true := by
  rw [h] at hw
  exact hw

theorem eachWork_wf {α β : Type} {g : State → β → α → Work β}
    (hg : ∀ s b x, Memory.wf s.mem = true → WorkWf (g s b x)) :
    ∀ (l : List α) {s : State} (b : β), Memory.wf s.mem = true → WorkWf (eachWork g l s b)
  | [], _, _, hw => hw
  | x :: xs, s, b, hw => bindOk_wf (hg s b x hw) fun _ b h => eachWork_wf hg xs b h

theorem unitPlace_wf (m : Master) (nu : BitVec 5) (j : ℕ) {s : State} (ea : Word) (n : ℕ) (wr : Bool)
    (hw : Memory.wf s.mem = true) : WorkWf (unitPlace m nu j s ea n wr) := by
  unfold unitPlace
  dsimp only
  split
  · trivial
  · split
    · split
      · generalize hr : remoteHome s m.f.clus _ = r
        have h : r.1.mem = s.mem := by rw [← hr]; simp
        obtain ⟨s', _ | b⟩ := r
        · trivial
        · exact (congrArg (Memory.wf · = true) h).mpr hw
      · split
        · exact hw
        · trivial
    · split
      · trivial
      · generalize hr : locate s m.f m.core ea n _ = r
        have h : r.1.mem = s.mem := by rw [← hr]; simp
        obtain ⟨s', _ | _ | _⟩ := r
        · exact (congrArg (Memory.wf · = true) h).mpr hw
        · trivial
        · exact (congrArg (Memory.wf · = true) h).mpr hw

@[simp] theorem hostFails_mem (m : Master) (s : State) (a : Machine.Acc) : (hostFails m s a).1.mem = s.mem := by
  simp [hostFails]

end Sys2Proof.Proofs.Canonical
end

section
/-! SUPPORT. What engines, tasks, contexts, steps and tenants leave of memory. -/

namespace Sys2Proof.Proofs.Canonical

open Sys2Proof.Machine Sys2Proof.Laws.State Sys2Proof.Laws.Memory

theorem unitReadFrom_wf (m : Master) (nu : BitVec 5) (j : ℕ) : ∀ (fuel : ℕ) {s : State} (ea : Word) (n : ℕ),
    Memory.wf s.mem = true → WorkWf (unitReadFrom m nu j fuel s ea n)
  | 0, _, _, _, hw => hw
  | fuel + 1, s, ea, n, hw => by
    unfold unitReadFrom
    dsimp only
    split
    · exact hw
    · split
      · exact bindOk_wf (unitReadFrom_wf m nu j fuel _ _ hw) fun _ _ h => h
      · refine bindOk_wf (unitPlace_wf m nu j _ _ _ hw) fun s a h => ?_
        split
        · split
          · trivial
          · exact bindOk_wf (unitReadFrom_wf m nu j fuel _ _ (by simp [h])) fun _ _ h => h
        · split
          · trivial
          · split
            · trivial
            · refine bindOk_wf (unitReadFrom_wf m nu j fuel _ _ ?_) fun _ _ h => h
              split <;> simp [h]

theorem unitRead_wf (m : Master) (nu : BitVec 5) (j : ℕ) {s : State} (ea : Word) (n : ℕ) (hw : Memory.wf s.mem = true) :
    WorkWf (unitRead m nu j s ea n) := unitReadFrom_wf m nu j _ ea n hw

@[simp] theorem unitPut_wf (m : Master) (s : State) (a : Machine.Acc) (mask : ℕ) (bs : List Byte) (ts : ℕ)
    (hw : Memory.wf s.mem = true) :
    Memory.wf (unitPut m s a mask bs ts).1.mem = true := by
  unfold unitPut; dsimp only; repeat' split
  all_goals simp [hw]

@[simp] theorem sendWrite_mem (s : State) (id : ℕ) (ea : Word) : (sendWrite s id ea).mem = s.mem := rfl

theorem unitWriteFrom_wf (m : Master) (nu : BitVec 5) (j : ℕ) :
    ∀ (fuel : ℕ) {s : State} (ea : Word) (bs : List Byte) (ts : ℕ),
    Memory.wf s.mem = true → WorkWf (unitWriteFrom m nu j fuel s ea bs ts)
  | 0, _, _, _, _, hw => hw
  | fuel + 1, s, ea, bs, ts, hw => by
    unfold unitWriteFrom
    dsimp only
    split
    · exact hw
    · refine bindOk_wf (unitPlace_wf m nu j _ _ _ hw) fun s a h => ?_
      split
      · split
        · trivial
        · exact unitWriteFrom_wf m nu j fuel _ _ _ (by simp [h])
      · split
        · trivial
        · exact unitWriteFrom_wf m nu j fuel _ _ _ (unitPut_wf _ _ _ _ _ _ (by simp [h]))

theorem unitWrite_wf (m : Master) (nu : BitVec 5) (j : ℕ) {s : State} (ea : Word) (bs : List Byte) (ts : ℕ)
    (hw : Memory.wf s.mem = true) : WorkWf (unitWrite m nu j s ea bs ts) := unitWriteFrom_wf m nu j _ ea bs ts hw

theorem postFrom_wf (nu : BitVec 5) (j : ℕ) : ∀ (fuel : ℕ) {s : State} (m : Cmd) (ea : Word) (bs : List Byte),
    Memory.wf s.mem = true → WorkWf (postFrom nu j fuel s m ea bs)
  | 0, _, _, _, _, hw => hw
  | fuel + 1, s, m, ea, bs, hw => by
    unfold postFrom
    dsimp only
    split
    · exact hw
    · refine bindOk_wf (unitPlace_wf _ nu j _ _ _ hw) fun s a h => ?_
      split
      · split
        · trivial
        · exact postFrom_wf nu j fuel _ _ _ (by simp [h])
      · split
        · trivial
        · exact postFrom_wf nu j fuel _ _ _ (by simp [h])

theorem cmdWrite_wf (nu : BitVec 5) (j : ℕ) {s : State} (m : Cmd) (ea : Word) (bs : List Byte) (hw : Memory.wf s.mem = true) :
    WorkWf (cmdWrite nu j s m ea bs) := postFrom_wf nu j _ m ea bs hw

@[simp] theorem drainPart_wf (s : State) (m : Cmd) (o : Posted) (mask : ℕ) (hw : Memory.wf s.mem = true) :
    Memory.wf (drainPart s m o mask).1.mem = true := by
  unfold drainPart; dsimp only; repeat' split
  all_goals simp [hw]

@[simp] theorem drainCmd_wf (s : State) (m : Cmd) (hw : Memory.wf s.mem = true) :
    Memory.wf (drainCmd s m).1.mem = true := by
  unfold drainCmd
  exact foldl_fst_wf (fun p o h => drainPart_wf p.1 p.2 o _ h) m.outs (p := (s, { m with outs := [] })) hw

theorem writeCmdStatus_wf {s : State} (m : Cmd) (w : Word) (hw : Memory.wf s.mem = true) :
    WorkWf (writeCmdStatus s m w) := by
  unfold writeCmdStatus
  split
  · exact hw
  · exact unitWrite_wf _ _ _ _ _ _ hw

@[simp] theorem tryCmdStatus_wf (s : State) (m : Cmd) (w : Word) (hw : Memory.wf s.mem = true) :
    Memory.wf (tryCmdStatus s m w).mem = true := by
  unfold tryCmdStatus
  split
  · rename_i h
    exact workOk_wf (writeCmdStatus_wf m w hw) h
  · exact hw

@[simp] theorem putCmd_mem (s : State) (m : Cmd) : (putCmd s m).mem = s.mem := rfl
@[simp] theorem dropCmd_mem (s : State) (id : ℕ) : (dropCmd s id).mem = s.mem := rfl

@[simp] theorem engineRecord_mem (s : State) (m : Cmd) (info : ℕ) : (engineRecord s m info).mem = s.mem := by
  simp [engineRecord]

@[simp] theorem acceptCmd_mem (s : State) (m : Cmd) : (acceptCmd s m).1.mem = s.mem := by
  simp [acceptCmd]

@[simp] theorem noteReject_mem (s : State) (m : Cmd) (check : ℕ) : (noteReject s m check).mem = s.mem := rfl
-- FAIL 12399

@[simp] theorem rejectCmd_wf (s : State) (m : Cmd) (check : ℕ) (hw : Memory.wf s.mem = true) :
    Memory.wf (rejectCmd s m check).mem = true := by
  unfold rejectCmd
  dsimp only
  split <;> simp [hw]

theorem copyRow_wf (m : Cmd) (r : ℕ) {s : State} (hw : Memory.wf s.mem = true) : WorkWf (copyRow m r s) := by
  unfold copyRow
  dsimp only
  split
  · exact hw
  · refine bindOk_wf (unitRead_wf _ _ _ _ _ hw) fun s row h => ?_
    split
    · exact h
    · exact bindOk_wf (unitRead_wf _ _ _ _ _ h) fun _ _ h => h

theorem fillChan_wf {s : State} {m : Cmd} {x : Chan} {bs : List Byte} {t : State} (h : fillChan s m x bs = some t)
    (hw : Memory.wf s.mem = true) : Memory.wf t.mem = true := by
  unfold fillChan at h
  split at h
  · cases h
  · cases h
    simp [hw, wf_memWriteBytes]

theorem copyGranule_wf {s : State} (m : Cmd) (r : ℕ) (hw : Memory.wf s.mem = true) : WorkWf (copyGranule s m r) := by
  refine bindOk_wf (copyRow_wf m r hw) fun s out h => ?_
  dsimp only
  split
  · split
    · trivial
    · rename_i hf
      obtain ⟨ch, -, hc⟩ := Option.bind_eq_some_iff.mp hf
      obtain ⟨x, -, hx⟩ := Option.bind_eq_some_iff.mp hc
      exact fillChan_wf hx h
  · exact cmdWrite_wf _ _ _ _ _ h

theorem gatherGranule_wf {s : State} (m : Cmd) (i : ℕ) (hw : Memory.wf s.mem = true) : WorkWf (gatherGranule s m i) := by
  refine bindOk_wf (unitRead_wf _ _ _ _ _ hw) fun s ib h => ?_
  dsimp only
  split
  · split
    · exact cmdWrite_wf _ _ _ _ _ h
    · exact bindOk_wf (unitRead_wf _ _ _ _ _ h) fun _ _ h => cmdWrite_wf _ _ _ _ _ h
  · split
    · exact h
    · exact bindOk_wf (unitRead_wf _ _ _ _ _ h) fun _ _ h => cmdWrite_wf _ _ _ _ _ h

theorem fillAll_wf {m : Cmd} {bs : List Byte} : ∀ {xs : List Chan} {s t : State}, fillAll m bs xs s = some t →
    Memory.wf s.mem = true → Memory.wf t.mem = true
  | [], _, _, h, hw => by cases h; exact hw
  | x :: xs, s, t, h, hw => by
    obtain ⟨s1, h1, h2⟩ := Option.bind_eq_some_iff.mp h
    obtain ⟨y, -, hy⟩ := Option.bind_eq_some_iff.mp h1
    exact fillAll_wf h2 (fillChan_wf hy hw)

theorem walkGranule_wf {s : State} (m : Cmd) (t : ℕ) (hw : Memory.wf s.mem = true) : WorkWf (walkGranule s m t) := by
  unfold walkGranule
  dsimp only
  split
  · trivial
  · split
    · split
      · trivial
      · refine bindOk_wf (eachWork_wf (fun s bs r h => ?_) _ _ hw) fun s bs h => ?_
        · exact bindOk_wf (unitRead_wf _ _ _ _ _ h) fun _ _ h => h
        split
        · trivial
        · rename_i hf
          exact fillAll_wf hf h
    · split
      · trivial
      · exact bindOk_wf (eachWork_wf (fun s m r h => cmdWrite_wf _ _ _ _ _ h) _ _ hw) fun _ _ h => h

@[simp] theorem freeTile_mem (s : State) (m : Cmd) (j : ℕ) : (freeTile s m j).mem = s.mem := by
  unfold freeTile; split <;> simp

@[simp] theorem freeTiles_mem (s : State) (m : Cmd) : (freeTiles s m).1.mem = s.mem := by
  unfold freeTiles; exact foldl_mem (fun _ _ => by simp) _ _

@[simp] theorem giveTiles_mem (s : State) (m : Cmd) : (giveTiles s m).mem = s.mem := by
  unfold giveTiles; split <;> simp

theorem nbVectors_wf {s : State} (m : Cmd) (hw : Memory.wf s.mem = true) : WorkWf (nbVectors s m) := by
  refine eachWork_wf (fun s l v h => ?_) _ _ hw
  exact bindOk_wf (unitRead_wf _ _ _ _ _ h) fun _ _ h => h

theorem nbFetch_wf {s : State} (m : Cmd) (f : BitVec 256) (hw : Memory.wf s.mem = true) : WorkWf (nbFetch s m f) := by
  unfold nbFetch
  dsimp only
  split
  · trivial
  · split
    · trivial
    · exact recallWhere_wf _ _ hw

theorem nbWrite_wf {s : State} (m : Cmd) (acc : List W32) (fl : FlagBits) (hw : Memory.wf s.mem = true) :
    WorkWf (nbWrite s m acc fl) := eachWork_wf (fun _ _ _ h => cmdWrite_wf _ _ _ _ _ h) _ _ hw

theorem nbFirstPass_wf {s : State} (m : Cmd) (hw : Memory.wf s.mem = true) : WorkWf (nbFirstPass s m) :=
  bindOk_wf (nbVectors_wf m hw) fun _ _ h => bindOk_wf (nbFetch_wf m _ h) fun _ _ h => nbWrite_wf m _ _ h

theorem nbSecondPass_wf {s : State} (m : Cmd) (hw : Memory.wf s.mem = true) : WorkWf (nbSecondPass s m) := by
  unfold nbSecondPass
  split
  · trivial
  · refine bindOk_wf (nbVectors_wf m hw) fun s xs h => bindOk_wf (nbFetch_wf m _ h) fun s _ h => nbWrite_wf m _ _ ?_
    dsimp only
    split <;> exact h

@[simp] theorem nbNotice_mem (s : State) (m : Cmd) (w : Word) : (nbNotice s m w).mem = s.mem := by
  simp [nbNotice]

theorem attnBlock_wf {s : State} (m : Cmd) (hw : Memory.wf s.mem = true) : WorkWf (attnBlock s m) := by
  refine bindOk_wf ?_ fun s mb h => bindOk_wf (unitRead_wf _ _ _ _ _ h) fun s qb h =>
    bindOk_wf (eachWork_wf (fun s l i h => ?_) _ _ h) fun _ _ h => cmdWrite_wf _ _ _ _ _ h
  · split
    · exact hw
    · exact unitRead_wf _ _ _ _ _ hw
  · exact bindOk_wf (unitRead_wf _ _ _ _ _ h) fun _ _ h => bindOk_wf (unitRead_wf _ _ _ _ _ h) fun _ _ h => h

theorem attnMerge_wf {s : State} (m : Cmd) (hw : Memory.wf s.mem = true) : WorkWf (attnMerge s m) := by
  refine bindOk_wf (eachWork_wf (fun s l i h => bindOk_wf (unitRead_wf _ _ _ _ _ h) fun s bs h => ?_) _ _ hw)
    fun _ _ h => cmdWrite_wf _ _ _ _ _ h
  dsimp only
  split
  · exact h
  · trivial

theorem sampleRun_wf {s : State} (m : Cmd) (hw : Memory.wf s.mem = true) : WorkWf (sampleRun s m) := by
  refine bindOk_wf ?_ fun s mb h => bindOk_wf (unitRead_wf _ _ _ _ _ h) fun s zb h => cmdWrite_wf _ _ _ _ _ h
  split
  · exact hw
  · exact unitRead_wf _ _ _ _ _ hw

theorem textNorm_wf {s : State} (m : Cmd) (hw : Memory.wf s.mem = true) : WorkWf (textNorm s m) :=
  bindOk_wf (unitRead_wf _ _ _ _ _ hw) fun _ _ h =>
    bindOk_wf (cmdWrite_wf _ _ _ _ _ h) fun _ _ h => cmdWrite_wf _ _ _ _ _ h

theorem textTable_wf {s : State} (m : Cmd) (hw : Memory.wf s.mem = true) : WorkWf (textTable s m) := by
  refine bindOk_wf (unitRead_wf _ _ _ _ _ hw) fun s bs h => ?_
  split
  · trivial
  · exact h

theorem runGranule_wf {s : State} (m : Cmd) (g : ℕ) (hw : Memory.wf s.mem = true) : WorkWf (runGranule s m g) := by
  unfold runGranule
  split
  · exact copyGranule_wf m g hw
  · exact gatherGranule_wf m g hw
  · exact walkGranule_wf m g hw
  · split
    · exact nbFirstPass_wf m hw
    · exact nbSecondPass_wf m hw
  · exact attnBlock_wf m hw
  · exact attnMerge_wf m hw
  · exact sampleRun_wf m hw
  · exact textNorm_wf m hw
  · exact textTable_wf m hw

theorem performGranule_wf {s : State} (m : Cmd) (g : ℕ) (hw : Memory.wf s.mem = true) : WorkWf (performGranule s m g) :=
  bindOk_wf (runGranule_wf _ g hw) fun s m h => by simp [WorkWf, h]

theorem readGuard_wf {s : State} (m : Cmd) (hw : Memory.wf s.mem = true) : WorkWf (readGuard s m) := by
  unfold readGuard
  dsimp only
  split
  · exact hw
  · exact bindOk_wf (unitRead_wf _ _ _ _ _ hw) fun _ _ h => h

@[simp] theorem askFor_mem (s : State) (m : Cmd) (page : ℕ) (cached : Bool) (wr : Bool) :
    (askFor s m page cached wr).mem = s.mem := by
  simp [askFor]

@[simp] theorem spoilRange_wf (s : State) (m : Cmd) (ea : Word) (n : ℕ) (hw : Memory.wf s.mem = true) :
    Memory.wf (spoilRange s m ea n).mem = true := by
  unfold spoilRange
  dsimp only
  split
  · rename_i h
    exact workOk_wf (unitWrite_wf _ _ _ _ _ _ (by simp [hw])) h
  · exact hw

@[simp] theorem spoilCmd_wf (s : State) (m : Cmd) (hw : Memory.wf s.mem = true) :
    Memory.wf (spoilCmd s m).mem = true := by
  unfold spoilCmd
  split
  · exact hw
  · exact foldl_wf (fun s r h => by simp [h]) _ hw

@[simp] theorem observeCmd_mem (s : State) (m : Cmd) : (observeCmd s m).mem = s.mem := by
  simp [observeCmd]

@[simp] theorem endCmd_mem (s : State) (m : Cmd) : (endCmd s m).mem = s.mem := by
  simp [endCmd]
-- FAIL 13515

@[simp] theorem faultCmd_wf (s : State) (m : Cmd) (cause : ℕ) (hw : Memory.wf s.mem = true) :
    Memory.wf (faultCmd s m cause).mem = true := by
  unfold faultCmd
  rw [failLaunch_mem, endCmd_mem]
  exact tryCmdStatus_wf _ _ _ (by simp [hw])
-- FAIL 13519

@[simp] theorem parkCmd_wf (s : State) (m : Cmd) (cause : ℕ) (hw : Memory.wf s.mem = true) :
    Memory.wf (parkCmd s m cause).mem = true := by
  unfold parkCmd
  extract_lets p s1 m1 x s2 s3 s4
  have h4 : Memory.wf s4.mem = true :=
    (congrArg (Memory.wf · = true) (engineRecord_mem s3 m1 _)).mpr (tryCmdStatus_wf s2 m1 _ (by simp [s2, s1, hw]))
  split
  · exact faultCmd_wf _ _ _ h4
  · exact h4
-- FAIL 13531

@[simp] theorem lateReject_wf (s : State) (m : Cmd) (check : ℕ) (hw : Memory.wf s.mem = true) :
    Memory.wf (lateReject s m check).mem = true := by
  simp [lateReject, hw]

theorem performRest_wf {s : State} (m : Cmd) (hw : Memory.wf s.mem = true) : WorkWf (performRest s m) :=
  bindOk_wf (eachWork_wf (fun _ m g h => performGranule_wf m g h) _ _ hw) fun s m h => by simp [WorkWf, h]

theorem finishCmd_wf {s : State} (m : Cmd) (hw : Memory.wf s.mem = true) : WorkWf (finishCmd s m) := by
  refine bindOk_wf (performRest_wf m hw) fun s m h => ?_
  dsimp only
  split
  · trivial
  · exact bindOk_wf (writeCmdStatus_wf _ _ h) fun _ _ h => h

theorem nextFault_wf {s : State} {m : Cmd} {t : ℕ × State × Cmd} (h : nextFault s m = some t) (hw : Memory.wf s.mem = true) :
    Memory.wf t.2.1.mem = true := by
  have hcause {α : Type} {s : State} {m : Cmd} {w : Work α} {t : ℕ × State × Cmd} (hw : Memory.wf s.mem = true)
      (h : (match w with
        | .fault c => some (c, s, m)
        | _ => none) = some t) : Memory.wf t.2.1.mem = true := by
    split at h <;> cases h
    exact hw
  unfold nextFault at h
  dsimp only at h
  split at h
  · exact hcause hw h
  · split at h
    · rename_i hr
      cases h
      obtain ⟨g, -, hg⟩ := List.exists_of_findSome?_eq_some hr
      exact hcause hw hg
    · split at h
      · cases h
      · split at h
        · rename_i hp
          split at h
          · exact hcause (workOk_wf (performRest_wf m hw) hp) h
          · cases h
        · cases h

theorem firstVersion_wf {s : State} (m : Cmd) (hw : Memory.wf s.mem = true) : WorkWf (firstVersion s m) :=
  bindOk_wf (performRest_wf m hw) fun _ _ h => h

@[simp] theorem rejectedStatus_mem (s : State) (v : ℕ) (h : Word) : (rejectedStatus s v h).1.mem = s.mem := by
  unfold rejectedStatus; dsimp only; repeat' split
  all_goals simp

@[simp] theorem handleStatus_mem (s : State) (v : ℕ) (w : Word) : (handleStatus s v w).1.mem = s.mem := by
  unfold handleStatus
  repeat' split
  all_goals simp

@[simp] theorem putTask_mem (s : State) (x2 : Machine.Task) : (putTask s x2).mem = s.mem := rfl

theorem submitTask_mem {s : State} {f : Firing} {units : List Core} {uni : Bool} {o : OpE} {fn : ℕ} {blk : ℕ}
    {cbld : Bool} {c : Core} {t : State × _} (h : submitTask s f units uni o fn blk cbld c = some t) :
    t.1.mem = s.mem := by
  unfold submitTask at h; dsimp only at h; repeat' split at h
  all_goals (cases h <;> simp)

@[simp] theorem taskRecord_mem (s : State) (x2 : Machine.Task) (handle : Word) (info : ℕ) :
    (taskRecord s x2 handle info).mem = s.mem := by
  simp [taskRecord]

@[simp] theorem answerTask_mem (s : State) (f : Firing) (u : TaskSub) (h : Word) : (answerTask s f u h).mem = s.mem := rfl

theorem readRows_wf {s : State} (t : Task) (hw : Memory.wf s.mem = true) : WorkWf (readRows s t) := by
  unfold readRows
  split
  · exact hw
  · split
    · exact hw
    · exact bindOk_wf (unitRead_wf _ _ _ _ _ hw) fun _ _ h => h

theorem captureRows_wf (t : Task) (m : ℕ) {s : State} (inp : Mem) (rj : Rows × ℕ) (hw : Memory.wf s.mem = true) :
    WorkWf (captureRows t m s inp rj) := by
  refine eachWork_wf (fun s inp i h => ?_) _ _ hw
  dsimp only
  split
  · simp [WorkWf, h]
  · exact bindOk_wf (unitRead_wf _ _ _ _ _ h) fun _ _ h => h

theorem fireTask_wf {s : State} (t : Task) (cl : ℕ) (hw : Memory.wf s.mem = true) : WorkWf (fireTask s t cl) := by
  refine bindOk_wf (readRows_wf t hw) fun s m h => ?_
  dsimp only
  split
  · exact h
  · exact bindOk_wf (eachWork_wf (fun _ inp rj h => captureRows_wf t m inp rj h) _ _ h) fun _ _ h => h

@[simp] theorem sendNotice_mem (s : State) (x2 : Machine.Task) (key : ℕ) (ts : ℕ) :
    (sendNotice s x2 key ts).1.mem = s.mem := by
  unfold sendNotice; split <;> simp

@[simp] theorem spreadFinal_mem (s : State) : (spreadFinal s).mem = s.mem := by
  refine foldl_mem (fun s id => ?_) _ _
  split
  · rfl
  · split <;> rfl

@[simp] theorem endTask_mem (s : State) (x2 : Machine.Task) : (endTask s x2).mem = s.mem := by
  simp [endTask]

theorem writeRows_wf {s : State} (t : Task) (rows : List (Word × List Byte)) (hw : Memory.wf s.mem = true) :
    WorkWf (writeRows s t rows) := eachWork_wf (fun _ _ _ h => unitWrite_wf _ _ _ _ _ _ h) _ _ hw

@[simp] theorem forgetAhead_mem (s : State) : (forgetAhead s).mem = s.mem := rfl

@[simp] theorem published_mem (s : State) (x2 : Machine.Task) (v : ℕ) (last : Bool) (ts : ℕ) :
    (published s x2 v last ts).mem = s.mem := by
  simp [published]

/-- A work that answers a state leaves it canonical too. -/
def StateWorkWf : Work State → Prop
  | .ok s t => Memory.wf s.mem = true ∧ Memory.wf t.mem = true
  | .ask s _ _ _ => Memory.wf s.mem = true
  | _ => True

theorem bindOk_stateWf {α : Type} {w : Work α} {f : State → α → Work State} (hw : WorkWf w)
    (hf : ∀ s a, Memory.wf s.mem = true → StateWorkWf (f s a)) : StateWorkWf (w.bindOk f) := by
  cases w with
  | ok s a => exact hf s a hw
  | ask s p c w => exact hw
  | wait => trivial
  | fault c => trivial
  | reject n => trivial

theorem publishRows_wf {s : State} (t : Task) (v : ℕ) (last : Bool) (rows : List (Word × List Byte))
    (hw : Memory.wf s.mem = true) : StateWorkWf (publishRows s t v last rows) :=
  bindOk_stateWf (writeRows_wf t rows hw) fun s ts h => ⟨h, by simp [h]⟩

theorem resultStep_wf {s : State} (t : Task) (hw : Memory.wf s.mem = true) : StateWorkWf (resultStep s t) := by
  unfold resultStep
  split
  · trivial
  · exact publishRows_wf _ _ _ _ hw
  · dsimp only
    split
    · exact ⟨hw, by simp [hw]⟩
    · exact publishRows_wf _ _ _ _ hw

theorem loadTable_wf {s : State} (t : Task) (hw : Memory.wf s.mem = true) : StateWorkWf (loadTable s t) := by
  refine bindOk_stateWf (unitRead_wf _ _ _ _ _ hw) fun s bs h => ?_
  have hset (k : (Nat × Nat)) (x : List ((Nat × Nat) × List W32)) : True := trivial
  dsimp only
  split <;> exact ⟨h, by simp [h]⟩

theorem issueStep_wf {s : State} (t : Task) (again : Bool) (hw : Memory.wf s.mem = true) :
    StateWorkWf (issueStep s t again) := by
  unfold issueStep
  split
  · trivial
  · split
    · split
      · exact loadTable_wf t hw
      · trivial
    · split
      · trivial
      · split
        · exact ⟨hw, by simp [hw]⟩
        · split
          · refine bindOk_stateWf (fireTask_wf t _ hw) fun s t h => ?_
            split
            · trivial
            · split
              · exact ⟨h, by simp [h]⟩
              · exact ⟨h, by simp [h]⟩
          · trivial

@[simp] theorem faultTask_mem (s : State) (x2 : Machine.Task) (cause : ℕ) : (faultTask s x2 cause).mem = s.mem := by
  simp [faultTask]

@[simp] theorem spoilRows_wf (s : State) (t : Task) (rows : List (Word × List Byte)) (hw : Memory.wf s.mem = true) :
    Memory.wf (spoilRows s t rows).mem = true := by
  refine foldl_wf (fun s r h => ?_) _ hw
  dsimp only
  split
  · rename_i hu
    exact workOk_wf (unitWrite_wf _ _ _ _ _ _ (by simp [h])) hu
  · exact h
-- FAIL 14461

theorem faultAt_wf {s t : State} {x : Machine.Task} {cause : ℕ} (h : faultAt s x cause = some t)
    (hw : Memory.wf s.mem = true) : Memory.wf t.mem = true := by
  have hrows (rows : List (Word × List Byte)) (h : (match writeRows s x rows with
      | .fault c => if c == cause then some (spoilRows s x rows) else none
      | _ => none) = some t) : Memory.wf t.mem = true := by
    split at h
    · split at h <;> cases h
      exact spoilRows_wf _ _ _ hw
    · cases h
  unfold faultAt at h
  dsimp only at h
  split at h
  · split at h <;> cases h
    exact hw
  · split at h
    · cases h
    · exact hrows _ h
    · split at h
      · cases h
      · exact hrows _ h

@[simp] theorem shapeStatus_mem (s : State) (v : ℕ) (sec : ℕ) : (shapeStatus s v sec).1.mem = s.mem := by
  unfold shapeStatus; split <;> simp

@[simp] theorem stopNb_mem (s : State) (m : Cmd) : (stopNb s m).1.mem = s.mem := by
  unfold stopNb; dsimp only; repeat' split
  all_goals simp

@[simp] theorem stopTask_mem (s : State) (x2 : Machine.Task) : (stopTask s x2).1.mem = s.mem := by
  unfold stopTask; dsimp only; repeat' split
  all_goals simp

@[simp] theorem stopHandle_mem (s : State) (v : ℕ) (w : Word) : (stopHandle s v w).1.mem = s.mem := by
  unfold stopHandle
  repeat' split
  all_goals simp

theorem waitHandle_mem {s : State} {v : ℕ} {h : Word} {ok : ℕ → Bool → Bool} {t : State × _}
    (h : waitHandle s v h ok = some t) :
    t.1.mem = s.mem := by
  unfold waitHandle at h; dsimp only at h; repeat' split at h
  all_goals (cases h <;> simp)

theorem waitSettled_mem {s : State} {launch : ℕ} {sec : ℕ} {id : ℕ} {t : State × _}
    (h : waitSettled s launch sec id = some t) :
    t.1.mem = s.mem := by
  unfold waitSettled at h; dsimp only at h; split at h <;> cases h <;> simp

@[simp] theorem putCtx_mem (s : State) (c : Ctx) : (putCtx s c).mem = s.mem := rfl
@[simp] theorem sweepPages_mem (s : State) (v : ℕ) : (sweepPages s v).mem = s.mem := rfl

@[simp] theorem dropCtxs_mem (s : State) (slot : ℕ) (v : ℕ) (which : ℕ → Bool) :
    (dropCtxs s slot v which).mem = s.mem := rfl
@[simp] theorem agentTrap_mem (s : State) (k : Slot) (code : W32) : (agentTrap s k code).mem = s.mem := rfl

theorem agentFetch_wf {s : State} {k : Slot} {t : State × Word} (h : agentFetch s k = some t) (hw : Memory.wf s.mem = true) :
    Memory.wf t.1.mem = true := by
  unfold agentFetch at h
  split at h
  · cases h
  · split at h
    · cases h
    · rename_i hr
      cases h
      exact partRead_wf hr hw

theorem amRead_wf {s : State} {k : Slot} {off : Word} {n : ℕ} {t : State × List Byte} (h : amRead s k off n = some t)
    (hw : Memory.wf s.mem = true) : Memory.wf t.1.mem = true := by
  unfold amRead at h
  split at h
  · cases h
  · rename_i hr
    cases h
    exact partRead_wf hr hw

theorem amWrite_wf {s : State} {k : Slot} {off : Word} {bs : List Byte} {t : State} (h : amWrite s k off bs = some t)
    (hw : Memory.wf s.mem = true) : Memory.wf t.mem = true := by
  unfold amWrite at h
  split at h
  · cases h
  · rename_i hr
    cases h
    exact partWrite_wf hr hw

@[simp] theorem startSlot_mem (s : State) (n : ℕ) : (startSlot s n).mem = s.mem := by
  simp [startSlot]

@[simp] theorem stopSlot_mem (s : State) (n : ℕ) : (stopSlot s n).mem = s.mem := by
  simp [stopSlot]

@[simp] theorem resumeSlot_mem (s : State) (n : ℕ) : (resumeSlot s n).mem = s.mem := by
  simp [resumeSlot]

@[simp] theorem finishReset_mem (s : State) (n : ℕ) : (finishReset s n).mem = s.mem := rfl

@[simp] theorem resetSlot_mem (s : State) (n : ℕ) : (resetSlot s n).mem = s.mem := by
  simp [resetSlot]

@[simp] theorem signalSlot_mem (s : State) (n : ℕ) (val : Word) : (signalSlot s n val).mem = s.mem := rfl

@[simp] theorem putRangeFrom_wf (fuel : ℕ) (s : State) (key : ℕ) (bs : List Byte) (hw : Memory.wf s.mem = true) :
    Memory.wf (putRangeFrom s fuel key bs).mem = true := by
  induction fuel generalizing s key bs with
  | zero => exact hw
  | succ fuel ih =>
    unfold putRangeFrom
    split
    · exact hw
    · exact ih _ _ _ (by simp [hw])

@[simp] theorem putRange_wf (s : State) (key : ℕ) (bs : List Byte) (hw : Memory.wf s.mem = true) :
    Memory.wf (putRange s key bs).mem = true := by
  simp [putRange, hw]

@[simp] theorem quietRange_wf (s : State) (key : ℕ) (n : ℕ) (hw : Memory.wf s.mem = true) :
    Memory.wf (quietRange s key n).mem = true := by
  simp [quietRange, hw]

@[simp] theorem fillRange_wf (s : State) (key n : ℕ) (cells : Mem) (hw : Memory.wf s.mem = true) :
    Memory.wf (fillRange s key n cells).mem = true := by
  have h : Memory.wf (memWriteCells (memClear (memClear (quietRange s key n).mem key (key + n)) (hbmKey key) (hbmKey key + n))
      (cells.map fun c => (key + c.1, c.2))) = true :=
    wf_memWriteCells _ (wf_memClear (wf_memClear (by simp [hw]) _ _) _ _)
  unfold fillRange
  refine foldl_wf (fun s l h => by simp [h]) _ ?_
  rw [setMem_mem]
  split
  · exact wf_memWriteCells _ h
  · exact h

@[simp] theorem updPage_mem (s : State) (v : ℕ) (num : ℕ) (f : Page → Page) : (updPage s v num f).mem = s.mem := rfl

@[simp] theorem frameCells_wf (s : State) (pa : ℕ) (hw : Memory.wf s.mem = true) :
    Memory.wf (frameCells s pa).1.mem = true := by
  simp [frameCells, hw]

@[simp] theorem fillFrame_wf (s : State) (pa : ℕ) (cells : Mem) (hw : Memory.wf s.mem = true) :
    Memory.wf (fillFrame s pa cells).mem = true := by
  simp [fillFrame, hw]

theorem makePage_wf {s : State} {v home : ℕ} {cells : Mem} {t : State × ℕ} (h : makePage s v home cells = some t)
    (hw : Memory.wf s.mem = true) : Memory.wf t.1.mem = true := by
  unfold makePage at h
  split at h
  · obtain ⟨pa, -, rfl⟩ := Option.map_eq_some_iff.mp h
    simp [hw]
  · cases h

@[simp] theorem backLocate_mem (s : State) (v : ℕ) (ea : Word) (want : Want) :
    (backLocate s v ea want).1.mem = s.mem := by
  unfold backLocate; dsimp only; repeat' split
  all_goals simp

@[simp] theorem backSpan_mem (s : State) (v : ℕ) (want : Want) (ea : Word) (off fuel n : ℕ) :
    (backSpan s v want ea off fuel n).1.mem = s.mem := by
  induction fuel generalizing s ea off n with
  | zero => rfl
  | succ fuel ih =>
    unfold backSpan
    split
    · rfl
    · have h := backLocate_mem s v ea want
      dsimp only
      split <;> rename_i e <;> rw [e] at h
      · exact h
      · exact h
      · have h' := fun s ea => ih s ea (off + min n (4096 - ea.toNat % 4096)) (n - min n (4096 - ea.toNat % 4096))
        split
        · rename_i e2
          exact (congrArg (fun r => r.1.mem) e2).symm.trans ((ih _ _ _ _).trans h)
        · exact (ih _ _ _ _).trans h

@[simp] theorem placeSpan_mem (s : State) (v : ℕ) (place : ℕ) (want : Want) :
    (placeSpan s v place want).1.mem = s.mem := by
  simp [placeSpan]

@[simp] theorem writePlace_wf (s : State) (l : List (ℕ × ℕ × ℕ)) (cells : Mem) (tag : Word)
    (hw : Memory.wf s.mem = true) :
    Memory.wf (writePlace s l cells tag).mem = true := by
  unfold writePlace; exact foldl_wf (fun _ _ h => by simp [h]) _ hw

@[simp] theorem readPlace_wf (s : State) (l : List (ℕ × ℕ × ℕ)) (hw : Memory.wf s.mem = true) :
    Memory.wf (readPlace s l).1.mem = true := by
  unfold readPlace
  exact foldl_fst_wf (fun p e h => by simp [h]) l (p := (s, [])) hw

@[simp] theorem cancelTwilight_mem (s : State) (v : ℕ) (num : ℕ) : (cancelTwilight s v num).mem = s.mem := rfl

theorem writeNodes_wf {s t : State} {k : Slot} {off : ℕ} {l : List GNode} (h : writeNodes s k off l = some t)
    (hw : Memory.wf s.mem = true) : Memory.wf t.mem = true := by
  unfold writeNodes at h
  induction l generalizing s with
  | nil => cases h; exact hw
  | cons n l ih =>
    rw [List.foldlM_cons] at h
    obtain ⟨r, hr, hq⟩ := Option.bind_eq_some_iff.mp h
    exact ih hq (amWrite_wf hr hw)

theorem writeNodes_getD_wf (s : State) (k : Slot) (off : ℕ) (l : List GNode) (hw : Memory.wf s.mem = true) :
    Memory.wf ((writeNodes s k off l).getD s).mem = true := by
  cases h : writeNodes s k off l with
  | none => exact hw
  | some t => exact writeNodes_wf h hw

@[simp] theorem noteProg_mem (s : State) (n : ℕ) (l : Long) (p : Prog) : (noteProg s n l p).mem = s.mem := rfl
@[simp] theorem putLong_mem (s : State) (n : ℕ) (l : Long) : (putLong s n l).mem = s.mem := rfl

@[simp] theorem endLong_wf (s : State) (n : ℕ) (l : Long) (status : ℕ) (hw : Memory.wf s.mem = true) :
    Memory.wf (endLong s n l status).mem = true := by
  unfold endLong
  dsimp only
  generalize (if ((status == 0 || status == lgPosition) && !(slotAt s n).rst) = true then longResults l else []) = bs
  have h : Memory.wf (if bs.isEmpty then (s, false) else match amWrite s (slotAt s n) (l.o.imm.setWidth 64) bs with
      | none => (s, true)
      | some s => (s, false)).1.mem = true := by
    split
    · exact hw
    · split
      · exact hw
      · rename_i h
        exact amWrite_wf h hw
  simp only [sweepPages_mem, putSlot_mem, noteProg_mem]
  exact h

@[simp] theorem attachFrom_mem (m : Model) (fuel : ℕ) (s : State) (c : Ctx) (l : Long) :
    (attachFrom s m fuel c l).1.mem = s.mem := by
  induction fuel generalizing s c l with
  | zero => rfl
  | succ fuel ih =>
    unfold attachFrom
    dsimp only
    split
    · rfl
    · split
      · rfl
      · rw [ih, foldl_mem fun _ _ => cancelTwilight_mem _ _ _]

@[simp] theorem settleAppend_wf (s : State) (n : ℕ) (hw : Memory.wf s.mem = true) :
    Memory.wf (settleAppend s n).mem = true := by
  unfold settleAppend; dsimp only; repeat' split
  all_goals simp [hw]

theorem amBytes_wf {s : State} {k : Slot} {off : Word} {n : ℕ} {t : State × List Byte} (h : amBytes s k off n = .ok t)
    (hw : Memory.wf s.mem = true) : Memory.wf t.1.mem = true := by
  unfold amBytes at h
  split at h
  · cases h
  · split at h
    · cases h
    · rename_i hr
      cases h
      exact amRead_wf hr hw

theorem readAlts_wf {k : Slot} : ∀ {l : List (ℕ × ℕ)} {s : State} {t : State × Option (List (List Byte))},
    readAlts k l s = .ok t → Memory.wf s.mem = true → Memory.wf t.1.mem = true
  | [], _, _, h, hw => by cases h; exact hw
  | (off, n) :: rest, s, t, h, hw => by
    unfold readAlts at h
    split at h
    · cases h; exact hw
    · split at h
      · cases h
      · cases hb : amBytes s k (BitVec.ofNat 64 off) n with
        | error e => simp [hb, bind, Except.bind] at h
        | ok r =>
          cases hr : readAlts k rest r.1 with
          | error e => simp [hb, hr, bind, Except.bind] at h
          | ok q =>
            simp only [hb, hr, bind, Except.bind, pure, Except.pure, Except.ok.injEq] at h
            have h1 := readAlts_wf hr (amBytes_wf hb hw)
            subst h
            exact h1

@[simp] theorem makePages_wf {v : ℕ} : ∀ (es : List PageNeed) (s : State) (l : Long), Memory.wf s.mem = true →
    Memory.wf (makePages s v l es).1.mem = true
  | [], _, _, hw => hw
  | e :: es, s, l, hw => by
    have h : Memory.wf (match e.src.bind (pageAt s v) with
        | none => (s, [])
        | some p => frameCells s p.pa).1.mem = true := by
      split <;> simp [hw]
    unfold makePages
    dsimp only
    split
    · exact hw
    · rename_i hp
      exact makePages_wf es _ _ (makePage_wf hp h)

@[simp] theorem faultOn_mem (s : State) (k : Slot) (l : Long) (want : List ℕ) : (faultOn s k l want).mem = s.mem := rfl

@[simp] theorem boundaryOn_wf (s : State) (n : ℕ) (hw : Memory.wf s.mem = true) :
    Memory.wf (boundaryOn s n).mem = true := by
  unfold boundaryOn; dsimp only; repeat' split
  all_goals simp [hw]

@[simp] theorem takeFaults_wf (s : State) (hw : Memory.wf s.mem = true) : Memory.wf (takeFaults s).mem = true := by
  unfold takeFaults; exact foldl_wf (fun _ _ h => by simp [h]) _ hw

@[simp] theorem beginTwilight_wf (s : State) (p : Page) (forPin : Bool) (hw : Memory.wf s.mem = true) :
    Memory.wf (beginTwilight s p forPin).mem = true := by
  simp [beginTwilight, hw]

@[simp] theorem evictIndexOnly_mem (s : State) (v : ℕ) (page : ℕ) : (evictIndexOnly s v page).mem = s.mem := by
  simp [evictIndexOnly]

@[simp] theorem pinEvictions_wf (s : State) (v fuel : ℕ) (hw : Memory.wf s.mem = true) :
    Memory.wf (pinEvictions s v fuel).mem = true := by
  induction fuel generalizing s with
  | zero => exact hw
  | succ fuel ih =>
    unfold pinEvictions
    split
    · exact hw
    · split
      · exact hw
      · split
        · exact ih _ (by simp [hw])
        · exact hw

@[simp] theorem setDest_mem (s : State) (w : PinWait) (st : Word) : (setDest s w st).mem = s.mem := rfl

@[simp] theorem settlePins_mem (s : State) : (settlePins s).mem = s.mem := by
  unfold settlePins; exact foldl_mem (fun _ _ => by dsimp only; split <;> simp) _ _

@[simp] theorem settleAppends_wf (s : State) (hw : Memory.wf s.mem = true) : Memory.wf (settleAppends s).mem = true := by
  refine foldl_wf (fun s k h => ?_) _ hw
  split
  · exact h
  · split <;> simp [h]

@[simp] theorem integrityAct_wf (s : State) (v page : ℕ) (hw : Memory.wf s.mem = true) :
    Memory.wf (integrityAct s v page).mem = true := by
  unfold integrityAct
  dsimp only
  rw [sweepPages_mem]
  refine foldl_wf (fun s k h => ?_) _ ?_
  · split
    · exact h
    · split <;> simp [h]
  · exact foldl_wf (fun s w h => by simp [h]) _ hw

@[simp] theorem failPage_wf (s : State) (v : ℕ) (page : ℕ) (hw : Memory.wf s.mem = true) :
    Memory.wf (failPage s v page).mem = true := by
  simp [failPage, hw]

@[simp] theorem integrityActs_wf (s : State) (v : ℕ) (hw : Memory.wf s.mem = true) :
    Memory.wf (integrityActs s v).mem = true := by
  unfold integrityActs; exact foldl_wf (fun _ _ h => by simp [h]) _ hw

@[simp] theorem leaveHomes_mem (s : State) (v : ℕ) (c : ℕ) : (leaveHomes s v c).mem = s.mem := rfl
@[simp] theorem forwardCmds_mem (s : State) (b : Stub) : (forwardCmds s b).mem = s.mem := rfl

@[simp] theorem seatAgent_wf (m : Model) (st : State × List Seat) (r : ReadyAgent) (hw : Memory.wf st.1.mem = true) :
    Memory.wf (seatAgent m st r).1.mem = true := by
  have h (l : List ℕ) (s : State) : (l.foldl (fun s n => cancelTwilight s r.tenant n) s).mem = s.mem :=
    foldl_mem (fun s n => by simp) l s
  unfold seatAgent
  dsimp only
  split <;> simp [h, hw]

@[simp] theorem freeTree_wf (s : State) (key : ℕ) (hw : Memory.wf s.mem = true) :
    Memory.wf (freeTree s key).mem = true := by
  simp [freeTree, hw]

@[simp] theorem writeSeat_wf (s : State) (v : ℕ) (m : Model) (j : ℕ) (e : Seat) (hw : Memory.wf s.mem = true) :
    Memory.wf (writeSeat s v m j e).mem = true := by
  unfold writeSeat
  dsimp only
  split
  · exact freeTree_wf _ _ (fillRange_wf _ _ _ _ (putRange_wf _ _ _ (putRange_wf _ _ _ (putRange_wf _ _ _ hw))))
  · exact fillRange_wf _ _ _ _ (putRange_wf _ _ _ (putRange_wf _ _ _ (putRange_wf _ _ _ hw)))

/-- What submits a launch of a step leaves a canonical memory. -/
def SubmitsWf (submit : ℕ → ℕ → State × List ℕ × Bool → List Word × ℕ → State × List ℕ × Bool) : Prop :=
  ∀ v inst st e, Memory.wf st.1.mem = true → Memory.wf (submit v inst st e).1.mem = true

/-- The acceptance is a variable here: the kernel is not to evaluate an acceptance of the template's bytes. -/
theorem submitStep_wf : SubmitsWf submitStep := by
  obtain ⟨accept, ha⟩ : ∃ a, a = acceptBytes := ⟨_, rfl⟩
  have h : ∀ s v va o bs, Memory.wf s.mem = true → Memory.wf (accept s v va o bs).1.mem = true := ha ▸ acceptBytes_wf
  delta submitStep
  rw [← ha]
  intro v inst st e hw
  have h := h (putRange st.1 (ownKey v (seatVa inst 0 + recOff + 0x1000 + 256 * e.2)) (templateBytes inst e.1)) v
    (BitVec.ofNat 64 (seatVa inst 0 + recOff + 0x1000 + 256 * e.2)) (.step v inst) (templateBytes inst e.1) (putRange_wf _ _ _ hw)
  dsimp only
  split <;> rename_i e <;> rw [e] at h <;> exact h

@[simp] theorem beginStep_wf (s : State) (v inst : ℕ) (m : Model) (f : Filling) (waiting : List ReadyAgent)
    (hw : Memory.wf s.mem = true) : Memory.wf (beginStep s v inst m f waiting).mem = true := by
  have hseats : Memory.wf (f.seated.foldl (seatAgent m) (s, [])).1.mem = true :=
    foldl_fst_wf (fun p r h => seatAgent_wf m p r h) _ (p := (s, [])) hw
  unfold beginStep
  dsimp only
  generalize hb : partWrite _ v m.area _ = r
  cases r with
  | error e =>
    refine foldl_wf (fun s e h => writeSeat_wf _ _ _ _ _ h) _ ?_
    exact foldl_wf (fun s r h => by simp [h]) _ (foldl_wf (fun s r h => by simp [h]) _ hseats)
  | ok t =>
    refine foldl_fst_wf (fun p e h => submitStep_wf v inst p e h) _ (p := (t, ([], false))) (partWrite_wf hb ?_)
    refine foldl_wf (fun s e h => writeSeat_wf _ _ _ _ _ h) _ ?_
    exact foldl_wf (fun s r h => by simp [h]) _ (foldl_wf (fun s r h => by simp [h]) _ hseats)

@[simp] theorem addIndex_mem (s : State) (m : Model) (c : Ctx) (old : ℕ) : (addIndex s m c old).mem = s.mem := by
  unfold addIndex; exact foldl_mem (fun _ _ => by simp) _ _

@[simp] theorem commitCtx_mem (s : State) (m : Model) (c : Ctx) (old : ℕ) : (commitCtx s m c old).mem = s.mem := by
  simp [commitCtx]

@[simp] theorem maskBits_wf (s : State) (key : ℕ) (hw : Memory.wf s.mem = true) :
    Memory.wf (maskBits s key).1.mem = true := by
  simp [maskBits, hw]

@[simp] theorem writeMask_wf (s : State) (key : ℕ) (bits : List ℕ) (hw : Memory.wf s.mem = true) :
    Memory.wf (writeMask s key bits).mem = true := by
  simp [writeMask, hw]

@[simp] theorem completeChoice_wf (s : State) (k : Slot) (m : Model) (g : Gram) (made : Made) (j : ℕ) (samp : Samp)
    (key : W32) (pos : ℕ) (e0 : ℕ) (hw : Memory.wf s.mem = true) :
    Memory.wf (completeChoice s k m g made j samp key pos e0).1.mem = true := by
  simp [completeChoice, hw]

@[simp] theorem pickEmission_wf (s : State) (k : Slot) (m : Model) (gram : Option Gram) (made : Made) (j : ℕ)
    (samp : Samp) (key : W32) (pos : ℕ) (e0 : ℕ) (hw : Memory.wf s.mem = true) :
    Memory.wf (pickEmission s k m gram made j samp key pos e0).1.mem = true := by
  unfold pickEmission; split <;> simp [hw]

@[simp] theorem commitGen_wf (s : State) (m : Model) (n : ℕ) (l : Long) (j : ℕ) (e : Seat) (r : ℕ) (made : Made)
    (hw : Memory.wf s.mem = true) : Memory.wf (commitGen s m n l j e r made).1.mem = true := by
  unfold commitGen
  dsimp only
  split
  · exact hw
  · rename_i c hc
    split
    · simp [hw]
    · split
      · simp [hw]
      · have h := pickEmission_wf s (slotAt s n) m c.gram made j l.prog.samp c.key e.pos (r % 2 ^ 20) hw
        split <;> rename_i he <;> rw [he] at h
        · simp [h]
        · split
          · simp [h]
          · rename_i w _
            have h2 := writeNodes_getD_wf _ (slotAt s n) ((c.gram.map (·.off)).getD 0) ((w.map (·.new)).getD []) h
            split <;> simp [h2]

@[simp] theorem commitApp_wf (s : State) (m : Model) (n : ℕ) (l : Long) (e : Seat) (r : ℕ) (hw : Memory.wf s.mem = true) :
    Memory.wf (commitApp s m n l e r).mem = true := by
  unfold commitApp; split <;> simp [hw]

@[simp] theorem commitScore_wf (s : State) (n : ℕ) (l : Long) (hw : Memory.wf s.mem = true) :
    Memory.wf (commitScore s n l).mem = true := by
  simp [commitScore, hw]

theorem ite_fst_wf {β : Type} (c : Prop) [Decidable c] {p q : State × β} (hp : Memory.wf p.1.mem = true)
    (hq : Memory.wf q.1.mem = true) : Memory.wf (if c then p else q).1.mem = true := by
  split <;> assumption

@[simp] theorem commitRound_wf (s : State) (m : Model) (n : ℕ) (l : Long) (j : ℕ) (e : Seat) (r : ℕ) (made : Made)
    (hw : Memory.wf s.mem = true) : Memory.wf (commitRound s m n l j e r made).1.mem = true := by
  unfold commitRound
  dsimp only
  split
  · rename_i c d hc hd
    generalize winChain s m _ _ _ l = wc
    split
    · simp [hw]
    · generalize hp : @ite _ _ (_) (s, none) (pickEmission s _ m _ _ _ _ _ _ _) = p
      have h : Memory.wf p.1.mem = true := hp ▸ ite_fst_wf _ hw (pickEmission_wf _ _ _ _ _ _ _ _ _ _ hw)
      repeat' split
      all_goals simp [writeNodes_getD_wf, h]
  · exact hw

@[simp] theorem commitDraft_wf (s : State) (m : Model) (n : ℕ) (l : Long) (es : List (Seat × ℕ)) (made : Made)
    (hw : Memory.wf s.mem = true) : Memory.wf (commitDraft s m n l es made).mem = true := by
  unfold commitDraft
  dsimp only
  split
  · simp [hw]
  · split
    · simp [hw]
    · rw [putLong_mem]
      split
      · exact hw
      · exact foldl_fst_wf (fun p x h => writeNodes_getD_wf _ _ _ _ h) es (p := (s, l)) hw

@[simp] theorem settleSlot_mem (s : State) (n : ℕ) : (settleSlot s n).mem = s.mem := by
  unfold settleSlot; dsimp only; repeat' split
  all_goals simp

@[simp] theorem refuseWrite_mem (s : State) : (refuseWrite s).mem = s.mem := by
  simp [refuseWrite]

@[simp] theorem setPstat_mem (s : State) (v : ℕ) (n : ℕ) : (setPstat s v n).mem = s.mem := by
  simp [setPstat]

@[simp] theorem setVstate_mem (s : State) (v : ℕ) (n : ℕ) : (setVstate s v n).mem = s.mem := by
  simp [setVstate]

@[simp] theorem discardFiring_mem (s : State) (f : Firing) : (discardFiring s f).mem = s.mem := by
  unfold discardFiring; split <;> simp

@[simp] theorem discardOn_mem (s : State) (v : ℕ) (c : ℕ) : (discardOn s v c).mem = s.mem := by
  unfold discardOn; exact foldl_mem (fun _ _ => by simp) _ _

@[simp] theorem preemptTenant_mem (s : State) (v : ℕ) (val : W32) (urgent : Bool) :
    (preemptTenant s v val urgent).mem = s.mem := by
  unfold preemptTenant; dsimp only; simp [foldl_mem]

@[simp] theorem resumeTenant_mem (s : State) (v : ℕ) (val : W32) : (resumeTenant s v val).mem = s.mem := by
  simp [resumeTenant]

@[simp] theorem saveRanges_mem (s : State) (v : ℕ) (c : ℕ) : (saveRanges s v c).mem = s.mem := rfl

@[simp] theorem restoreRanges_wf (s : State) (x : Saved) (hw : Memory.wf s.mem = true) :
    Memory.wf (restoreRanges s x).mem = true :=
  wf_memWriteCells _ (foldl_mem_wf (fun _ _ h => wf_memClear h _ _) _ hw)

@[simp] theorem saveChip_mem (s : State) (v : ℕ) (d : ℕ) : (saveChip s v d).mem = s.mem := by
  simp [saveChip]

@[simp] theorem moveWindow_mem (s : State) (x : Saved) (id : ℕ) (w : Window) (base : ℕ) :
    (moveWindow s x id w base).1.mem = s.mem := rfl

theorem restoreChip_wf {s t : State} {v d : ℕ} (h : restoreChip s v d = some t) (hw : Memory.wf s.mem = true) :
    Memory.wf t.mem = true := by
  unfold restoreChip at h
  split at h
  · cases h; exact hw
  · obtain ⟨l, -, rfl⟩ := Option.map_eq_some_iff.mp h
    exact restoreRanges_wf _ _ (foldl_fst_wf (fun p e h => by simp [h]) l (p := (s, _)) hw)

@[simp] theorem resolveSaved_mem (s : State) (v c : ℕ) : (resolveSaved s v c).mem = s.mem := by
  refine foldl_mem (fun s x => ?_) _ _
  split <;> simp

@[simp] theorem quietL1_wf (s : State) (c : ℕ) (hw : Memory.wf s.mem = true) : Memory.wf (quietL1 s c).mem = true := by
  simp [quietL1, hw]

@[simp] theorem spoilSave_wf (s : State) (v : ℕ) (hw : Memory.wf s.mem = true) :
    Memory.wf (spoilSave s v).mem = true := by
  unfold spoilSave
  dsimp only
  split
  · exact hw
  · rename_i h
    simp [partWrite_wf h hw]

@[simp] theorem saveCluster_wf (s : State) (v : ℕ) (c : ℕ) (hw : Memory.wf s.mem = true) :
    Memory.wf (saveCluster s v c).mem = true := by
  simp [saveCluster, hw]

@[simp] theorem clearError_mem (s : State) : (clearError s).mem = s.mem := by
  simp [clearError]

@[simp] theorem putGroup_mem (s : State) (g : ℕ) (e : Machine.Group) : (putGroup s g e).mem = s.mem := rfl

@[simp] theorem forgetGroup_mem (s : State) (v : ℕ) (g : ℕ) : (forgetGroup s v g).mem = s.mem := by
  unfold forgetGroup; exact foldl_mem (fun _ _ => by simp) _ _

@[simp] theorem agreeMask_mem (s : State) (v : ℕ) : (agreeMask s v).mem = s.mem := rfl

@[simp] theorem writeGroup_mem (s : State) (g : ℕ) (val : Word) : (writeGroup s g val).mem = s.mem := by
  simp [writeGroup]

@[simp] theorem readyTenant_mem (s : State) (v : ℕ) : (readyTenant s v).mem = s.mem := by
  simp [readyTenant]

@[simp] theorem joinWindow_wf (s : State) (v c : ℕ) (hw : Memory.wf s.mem = true) :
    Memory.wf (joinWindow s v c).mem = true :=
  foldl_wf (fun s w h => by
    rw [setMem_mem]
    exact wf_memWriteBytes _ _ (by simp [h])) _ (by simp [hw])

@[simp] theorem writeClmask_wf (s : State) (v word : ℕ) (val : Word) (hw : Memory.wf s.mem = true) :
    Memory.wf (writeClmask s v word val).mem = true := by
  unfold writeClmask
  dsimp only
  split
  · simp [hw]
  · exact foldl_wf (fun s c h => by split <;> simp [h]) _ hw

@[simp] theorem writeSlots_mem (s : State) (v : ℕ) (val : Word) : (writeSlots s v val).mem = s.mem := by
  simp [writeSlots]

@[simp] theorem demoteProtected_mem (s : State) (v : ℕ) : (demoteProtected s v).mem = s.mem := rfl

@[simp] theorem writeL2q_wf (s : State) (v : ℕ) (val : Word) (hw : Memory.wf s.mem = true) :
    Memory.wf (writeL2q s v val).mem = true := by
  unfold writeL2q
  dsimp only
  split
  · simp [hw]
  · rw [demoteProtected_mem, putTenant_mem]
    refine foldl_wf (fun s d h => ?_) _ hw
    split <;> simp [h]

@[simp] theorem writeSlice_mem (s : State) (v : ℕ) (n : ℕ) : (writeSlice s v n).mem = s.mem := by
  unfold writeSlice; split <;> simp

@[simp] theorem writePcmd_mem (s : State) (v : ℕ) (val : W32) : (writePcmd s v val).mem = s.mem := by
  unfold writePcmd; split <;> simp

@[simp] theorem writeBlock_wf (s : State) (v : ℕ) (off : ℕ) (val : Word) (hw : Memory.wf s.mem = true) :
    Memory.wf (writeBlock s v off val).mem = true := by
  unfold writeBlock; dsimp only; repeat' split
  all_goals simp [hw]

@[simp] theorem takeBlock_wf (s : State) (v : ℕ) (off : ℕ) (val : Word) (hw : Memory.wf s.mem = true) :
    Memory.wf (takeBlock s v off val).mem = true := by
  simp [takeBlock, hw]

@[simp] theorem takeHeld_wf (s : State) (v : ℕ) (hw : Memory.wf s.mem = true) : Memory.wf (takeHeld s v).mem = true := by
  unfold takeHeld; exact foldl_wf (fun _ _ h => by simp [h]) _ hw

@[simp] theorem leavePcmd_wf (s : State) (v : ℕ) (c : ℕ) (hw : Memory.wf s.mem = true) :
    Memory.wf (leavePcmd s v c).mem = true := by
  simp [leavePcmd, hw]

@[simp] theorem stopFirings_mem (s : State) (v : ℕ) : (stopFirings s v).mem = s.mem := by
  unfold stopFirings; exact foldl_mem (fun _ _ => by simp) _ _
-- FAIL 17468

@[simp] theorem abandonWork_wf (s : State) (v : ℕ) (hw : Memory.wf s.mem = true) :
    Memory.wf (abandonWork s v).mem = true := by
  unfold abandonWork
  exact foldl_wf (fun s m h => by simp [h]) _ hw

@[simp] theorem dropWindows_wf (s : State) (v : ℕ) (hw : Memory.wf s.mem = true) :
    Memory.wf (dropWindows s v).mem = true := by
  unfold dropWindows; exact foldl_wf (fun _ _ h => by simp [h]) _ hw

@[simp] theorem dropContexts_mem (s : State) (v : ℕ) : (dropContexts s v).mem = s.mem := by
  unfold dropContexts; exact foldl_mem (fun _ _ => by simp) _ _

@[simp] theorem dropXlat_mem (s : State) (v : ℕ) : (dropXlat s v).mem = s.mem := rfl

@[simp] theorem resetTenant_wf (s : State) (v : ℕ) (hw : Memory.wf s.mem = true) :
    Memory.wf (resetTenant s v).mem = true := by
  have h : ∀ (l : List Launch) (s : State), (l.foldl (fun s k => forgetLaunch s k.id) s).mem = s.mem :=
    foldl_mem fun s k => by simp
  unfold resetTenant
  rw [sweep_mem]
  refine takeHeld_wf _ _ ?_
  simp only [setVstate_mem, setPstat_mem, putTenant_mem, setSaved_mem, dropXlat_mem]
  refine dropWindows_wf _ _ (dropLines_wf _ _ ?_)
  rw [setRecords_mem, h]
  simp [hw]
-- FAIL 17541

@[simp] theorem writeVcmd_wf (s : State) (v : ℕ) (n : ℕ) (hw : Memory.wf s.mem = true) :
    Memory.wf (writeVcmd s v n).mem = true := by
  unfold writeVcmd; repeat' split
  all_goals simp [hw]
-- FAIL 17544

@[simp] theorem writePerm_mem (s : State) (c : ℕ) (word : ℕ) (val : Word) : (writePerm s c word val).mem = s.mem := rfl

@[simp] theorem writeHomeMask_mem (s : State) (die : ℕ) (j : ℕ) (word : ℕ) (val : Word) :
    (writeHomeMask s die j word val).mem = s.mem := rfl

@[simp] theorem trapLost_mem (s : State) (e : ℕ × ℕ × Machine.Acc) : (trapLost s e).mem = s.mem := by
  unfold trapLost; dsimp only; split <;> simp

@[simp] theorem dropLost_mem (s : State) (l : List (ℕ × ℕ × Acc)) : (dropLost s l).1.mem = s.mem := by
  refine foldl_fst_mem (fun p e => ?_) _ (s, [])
  dsimp only
  split <;> simp

@[simp] theorem dropWrites_mem (s : State) (told : List ℕ) (l : List (Cmd × Word)) :
    (dropWrites s told l).mem = s.mem := by
  refine foldl_fst_mem (fun p e => ?_) _ (s, told)
  dsimp only
  split <;> simp

@[simp] theorem clearLost_mem (s : State) (lost : ℕ → Bool) : (clearLost s lost).mem = s.mem := by
  unfold clearLost; exact foldl_mem (fun _ _ => by simp) _ _

@[simp] theorem losePackages_mem (s : State) (lost : ℕ → Bool) : (losePackages s lost).mem = s.mem := by
  unfold losePackages; dsimp only; simp [foldl_mem]

@[simp] theorem writeMembers_mem (s : State) (word : ℕ) (val : Word) : (writeMembers s word val).mem = s.mem := by
  simp [writeMembers]
-- FAIL 17670

@[simp] theorem slotCommand_mem (s : State) (n : ℕ) (cmd : ℕ) : (slotCommand s n cmd).mem = s.mem := by
  unfold slotCommand; split <;> simp

@[simp] theorem writeSlotPage_mem (s : State) (n : ℕ) (off : ℕ) (size : ℕ) (val : Word) :
    (writeSlotPage s n off size val).mem = s.mem := by
  simp [writeSlotPage]

@[simp] theorem passTime_mem (n : ℕ) (s : State) : (passTime n s).mem = s.mem := rfl

@[simp] theorem hostWrites_wf (addr : ℕ) (data : List Byte) (s : State) (hw : Memory.wf s.mem = true) :
    Memory.wf (hostWrites addr data s).mem = true := by
  simp [hostWrites, hw, wf_memWriteBytes]

@[simp] theorem dropsFetched_mem (c : ℕ) (key : ℕ) (s : State) : (dropsFetched c key s).mem = s.mem := rfl
-- FAIL 18685

end Sys2Proof.Proofs.Canonical
end

section
/-! SUPPORT. Outcomes that keep memory canonical: one lemma per shape of an instruction. -/

namespace Sys2Proof.Proofs.Canonical

open Sys2Proof.Machine Sys2Proof.Laws.State Sys2Proof.Laws.Memory

/-- An outcome's next state has a canonical memory. -/
def OutWf : Out → Prop
  | .next t => Memory.wf t.mem = true
  | _ => True

@[simp] theorem outWf_next (t : State) : OutWf (.next t) ↔ Memory.wf t.mem = true := Iff.rfl

@[simp] theorem outWf_fault (r : Fault) : OutWf (.fault r) := trivial

@[simp] theorem outWf_refused (r : Refusal) : OutWf (.refused r) := trivial

theorem outWf_ite (c : Prop) [Decidable c] {a b : Out} (ha : OutWf a) (hb : OutWf b) : OutWf (if c then a else b) := by
  split <;> assumption

@[simp] theorem trapAt_wf (s : State) (f : Firing) (t : TrapInfo) (w : Site) (hw : Memory.wf s.mem = true) :
    OutWf (trapAt s f t w) := by simp [trapAt, hw]

theorem withFiring_wf {t : Site} {s : State} {body : State → Firing → List Core → Out} (hw : Memory.wf s.mem = true)
    (hb : ∀ s f units, Memory.wf s.mem = true → OutWf (body s f units)) : OutWf (withFiring t s body) := by
  unfold withFiring
  split
  · split
    · trivial
    · dsimp only
      split
      · simp [hw]
      · exact hb _ _ _ (by simp [hw])
  · trivial

@[simp] theorem fileInstr_wf (w : Site) (uni : Bool) (pr : BitVec 3) (g : State → Firing → RFile → Res RFile) (s : State)
    (hw : Memory.wf s.mem = true) : OutWf (fileInstr w uni pr g s) := by
  refine withFiring_wf hw fun s f units h => ?_
  split <;> simp [h]

theorem endFiring_wf {fin : State → Firing → State} (w : Site) (o : OpA) {s : State} (hw : Memory.wf s.mem = true)
    (hf : ∀ s f, Memory.wf s.mem = true → Memory.wf (fin s f).mem = true) : OutWf (endFiring w o fin s) := by
  refine withFiring_wf hw fun s f units h => ?_
  dsimp only
  split
  · simp [h]
  · simp [h]
  · split
    · simp [h]
    · exact hf s f h

theorem memShape_wf {w : Site} {uni : Bool} {cnt : Option Bool} {sel : Firing → List Core → List Core}
    {chk : Firing → List Core → Core → Option (State → State × Chk)}
    {act : State → Firing → List Core → ℕ → List (Core × Acc) → Out} {s : State} (hw : Memory.wf s.mem = true)
    (hchk : ∀ f units c g, chk f units c = some g → ∀ s, (g s).1.mem = s.mem)
    (hact : ∀ s f units n l, Memory.wf s.mem = true → OutWf (act s f units n l)) : OutWf (memShape w uni cnt sel chk act s) := by
  refine withFiring_wf hw fun s f units h => ?_
  dsimp only
  have hall : (checkAll s ((sel f units).filterMap fun c => (chk f units c).map fun g => (c, g))).1.mem = s.mem := by
    refine checkAll_mem _ _ fun e he => ?_
    obtain ⟨c, -, hc⟩ := List.mem_filterMap.mp he
    obtain ⟨g, hg, rfl⟩ := Option.map_eq_some_iff.mp hc
    exact hchk f units c g hg
  refine outWf_ite _ h ?_
  split
  · exact trapAt_wf _ _ _ _ (hall ▸ h)
  · exact outWf_ite _ (by simp [hall, h]) (hact _ _ _ _ _ (hall ▸ h))

theorem memInstr_wf {w : Site} {uni : Bool} {g : Form} {want : Want} {sel : Firing → List Core → List Core}
    {mk : Firing → List Core → Core → Option (ℕ × Acc)}
    {act : State → Firing → List Core → ℕ → List (Core × Acc) → Out} {s : State} (hw : Memory.wf s.mem = true)
    (hact : ∀ s f units n l, Memory.wf s.mem = true → OutWf (act s f units n l)) :
    OutWf (memInstr w uni g want sel mk act s) := by
  refine memShape_wf hw (fun f units c r hr s => ?_) hact
  obtain ⟨a, -, rfl⟩ := Option.map_eq_some_iff.mp hr
  simp

theorem cacheInstr_wf {i : Instr} {o : OpM} {fn : ℕ} {eff : State → Firing → Core → Acc → State} {s : State}
    (hw : Memory.wf s.mem = true)
    (he : ∀ s f c a, Memory.wf s.mem = true → Memory.wf (eff s f c a).mem = true) : OutWf (cacheInstr i o fn eff s) := by
  unfold cacheInstr
  dsimp only
  refine memShape_wf hw (fun f units c g hg s => ?_) fun s f units n l h => ?_
  · cases hg
    simp
  · refine outWf_ite _ h ?_
    · simp only [outWf_next, putFiring_mem, tickIdle_mem]
      refine foldl_wf (fun s e h => ?_) l h
      split
      · simp [h]
      · exact he _ _ _ _ (by simp [h])

theorem pinInstr_wf {i : Instr} {o : OpM} {cnt : Option Bool} {eff : State → Firing → RFile → ℕ → State × Word} {s : State}
    (hw : Memory.wf s.mem = true)
    (he : ∀ s f r d, Memory.wf s.mem = true → Memory.wf (eff s f r d).1.mem = true) : OutWf (pinInstr i o cnt eff s) := by
  unfold pinInstr
  dsimp only
  refine memShape_wf hw (fun f units c g hg s => ?_) fun s f units n l h => ?_
  · cases hg
    simp
  · simp only [outWf_next, putFiring_mem, tickIdle_mem]
    exact foldl_fst_wf (β := Firing) (fun p e h => he _ _ _ _ h) l (p := (s, f)) h

theorem barInstr_wf {i : Instr} {o : OpA} {g : State → Firing → List Core → List Core → Bar → Out} {s : State}
    (hw : Memory.wf s.mem = true)
    (hg : ∀ s f units act b, Memory.wf s.mem = true → OutWf (g s f units act b)) : OutWf (barInstr i o g s) := by
  refine withFiring_wf hw fun s f units h => ?_
  dsimp only
  split
  · simp [h]
  · split
    · trivial
    · exact hg _ _ _ _ _ h

@[simp] theorem chanInstr_wf (i : Instr) (o : OpA) (g : State → Firing → Chan → Resv → Word → Option Word) (s : State)
    (hw : Memory.wf s.mem = true) : OutWf (chanInstr i o g s) := fileInstr_wf _ _ _ _ _ hw

@[simp] theorem xlatFinish_wf (uni : Bool) (o : OpM) (val : State → Firing → Core → Word → Word) (s : State) (f : Firing)
    (units : List Core) (idle : ℕ) (l : List (Core × Acc)) (hw : Memory.wf s.mem = true) :
    OutWf (xlatFinish uni o val s f units idle l) := by simp [xlatFinish, hw]

theorem workOut_wf {row : String} {m : Cmd} {w : Work Cmd} {done : State → Cmd → Out} {reject : ℕ → Out} (hw : WorkWf w)
    (hd : ∀ s m, Memory.wf s.mem = true → OutWf (done s m)) (hr : ∀ n, OutWf (reject n)) :
    OutWf (workOut row m w done reject) := by
  cases w with
  | ok s m => exact hd s m hw
  | ask s p c w =>
    have h : Memory.wf s.mem = true := hw
    simp [workOut, h]
  | reject n => exact hr n
  | wait => trivial
  | fault c => trivial

theorem copyControl_wf {o : OpE} {fn : ℕ} {act : State → Firing → Word → State × Word} {s : State}
    (hw : Memory.wf s.mem = true)
    (ha : ∀ s f w, Memory.wf s.mem = true → Memory.wf (act s f w).1.mem = true) : OutWf (copyControl o fn act s) := by
  unfold copyControl
  dsimp only
  refine withFiring_wf hw fun s f units h => ?_
  split
  · simp [h]
  · simp only [outWf_next, putFiring_mem]
    exact foldl_fst_wf (β := Firing) (fun p c h => ha _ _ _ h) _ (p := (s, f)) h

theorem submitEach_mem {sub : State → Firing → Core → Option (State × ℕ)}
    (hs : ∀ s f c r, sub s f c = some r → r.1.mem = s.mem) :
    ∀ (cs : List Core) (s : State) (f : Firing), (submitEach sub cs s f).1.mem = s.mem
  | [], _, _ => rfl
  | c :: cs, s, f => by
    unfold submitEach
    split
    · exact submitEach_mem hs cs s f
    · rename_i h
      exact (submitEach_mem hs cs _ _).trans (hs s f c _ h)

theorem waitAll_mem {g : State → Core → WaitRes} (hg : ∀ s c r, g s c = some r → r.1.mem = s.mem) :
    ∀ (cs : List Core) {s : State} {r : State × List (Core × Word × ℕ)}, waitAll g cs s = some r → r.1.mem = s.mem
  | [], _, _, e => by cases e; rfl
  | c :: cs, s, r, e => by
    obtain ⟨q, hq, e⟩ := Option.bind_eq_some_iff.mp e
    obtain ⟨p, hp, rfl⟩ := Option.map_eq_some_iff.mp e
    exact (waitAll_mem hg cs hp).trans (hg s c q hq)

theorem vwaitInstr_wf {fn : BitVec 3} {a : Fld} {o : OpX} {g : State → Firing → Word → WaitRes} {s : State}
    (hw : Memory.wf s.mem = true) (hg : ∀ s f w r, g s f w = some r → r.1.mem = s.mem) : OutWf (vwaitInstr fn a o g s) := by
  unfold vwaitInstr
  refine withFiring_wf hw fun s f units h => ?_
  split
  · exact h
  · rename_i s' l e
    have hm : s'.mem = s.mem := waitAll_mem (fun s c r => hg s f _ r) _ e
    simp only [outWf_next, putFiring_mem, sweep_mem]
    exact foldl_fst_wf (fun p c h => by simp [h]) l (p := (s', f)) (hm ▸ h)

theorem agentWord_wf {rd wr cs : List (BitVec 4)} {s : State} {eff : State → Slot → Out} (hw : Memory.wf s.mem = true)
    (he : ∀ k, OutWf (eff s k)) : OutWf (agentWord rd wr cs s eff) := by
  unfold agentWord
  split
  · trivial
  · split
    · simp [hw]
    · split
      · exact hw
      · exact he _

theorem slotEvent_wf {row : String} {n : ℕ} {s : State} {f : State → ℕ → State} (hw : Memory.wf (f s n).mem = true) :
    OutWf (slotEvent row n s f) := by
  unfold slotEvent
  split
  · trivial
  · exact hw

theorem onCtx_wf {s : State} {k : Slot} {r : BitVec 4} {g : Ctx → Out} (hw : Memory.wf s.mem = true) (hg : ∀ c, OutWf (g c)) :
    OutWf (onCtx s k r g) := by
  unfold onCtx
  split
  · simp [hw]
  · exact hg _

/-- What a long instruction does at issue leaves a canonical memory. -/
def LongWf : LongIssue → Prop
  | .status s _ => Memory.wf s.mem = true
  | .go s _ => Memory.wf s.mem = true
  | _ => True

theorem longWord_wf {o : OpC} {op : ℕ} {rd cs : List (BitVec 4)} {s : State} {f : State → Slot → Ctx → Long → LongIssue}
    (hw : Memory.wf s.mem = true) (hf : ∀ k c l, LongWf (f s k c l)) : OutWf (longWord o op rd cs s f) := by
  refine agentWord_wf hw fun k => ?_
  dsimp only
  split
  · exact hw
  · refine onCtx_wf hw fun c => ?_
    have h := hf k c (freshLong o op k c)
    split <;> rename_i e <;> rw [e] at h
    · exact hw
    · simp [hw]
    · have h : Memory.wf _ = true := h
      simp [h]
    · have h : Memory.wf _ = true := h
      simp [h]

/-- What an engine command does at issue leaves a canonical memory. -/
def IssueWf : Issue → Prop
  | .done s _ => Memory.wf s.mem = true
  | _ => True

theorem issueCmd_wf {imageOk : List Byte → Bool} {s : State} {f : Firing} {m : Cmd} (hw : Memory.wf s.mem = true) :
    IssueWf (issueCmd imageOk s f m) := by
  unfold issueCmd
  dsimp only
  split
  · trivial
  · split
    · simp [IssueWf, hw]
    · split
      · simp [IssueWf, hw]
      · simp [IssueWf, hw]
      · split
        · simp [IssueWf, hw]
        · trivial
      · simp [IssueWf, hw]

theorem issueEach_wf {issue : State → Firing → Core → Issue} {uni : Bool} {d : ℕ}
    (hi : ∀ s f c, Memory.wf s.mem = true → IssueWf (issue s f c)) :
    ∀ (cs : List Core) {s : State} (f : Firing), Memory.wf s.mem = true → Memory.wf (issueEach issue uni d cs s f).1.mem = true
  | [], _, _, hw => hw
  | c :: cs, s, f, hw => by
    have h := hi s f c hw
    unfold issueEach
    split <;> rename_i e <;> rw [e] at h
    · exact hw
    · simp [hw]
    · have h : Memory.wf _ = true := h
      exact issueEach_wf hi cs _ (by simp [h])

theorem scalarAB_wf (i : Instr) (o : OpA) (g : Word → Word → Word × FlagBits) (s : State) (hw : Memory.wf s.mem = true) :
    OutWf (scalarAB i o g s) := fileInstr_wf _ _ _ _ _ hw

theorem condAB_wf (i : Instr) (o : OpA) (g : Word → Word → Bool) (s : State) (hw : Memory.wf s.mem = true) :
    OutWf (condAB i o g s) := fileInstr_wf _ _ _ _ _ hw

theorem gmov_wf (w : Site) (o : OpA) (g : Firing → List Core → List Core → UFile → Res Firing) (s : State)
    (hw : Memory.wf s.mem = true) :
    OutWf (gmov w o g s) := by
  refine withFiring_wf hw fun s f units h => ?_
  dsimp only
  repeat' split
  all_goals simp [h]

theorem idValue_wf (w : Site) (o : OpA) (n : ℕ) (s : State) (hw : Memory.wf s.mem = true) :
    OutWf (idValue w o n s) := fileInstr_wf _ _ _ _ _ hw

theorem execBr_wf (o : OpB) (s : State) (hw : Memory.wf s.mem = true) : OutWf (execBr o s) := by
  refine withFiring_wf hw fun s f units h => ?_
  dsimp only
  repeat' split
  all_goals simp [h]

theorem execJal_wf (o : OpB) (s : State) (hw : Memory.wf s.mem = true) : OutWf (execJal o s) := by
  refine withFiring_wf hw fun s f units h => ?_
  simp [h]

theorem execJr_wf (o : OpA) (s : State) (hw : Memory.wf s.mem = true) : OutWf (execJr o s) := by
  refine withFiring_wf hw fun s f units h => ?_
  dsimp only
  repeat' split
  all_goals simp [h]

theorem execRegionOpen_wf (o : OpA) (s : State) (hw : Memory.wf s.mem = true) : OutWf (execRegionOpen o s) := by
  refine withFiring_wf hw fun s f units h => ?_
  split <;> simp [h]

theorem execGangSplit_wf (o : OpB) (s : State) (hw : Memory.wf s.mem = true) : OutWf (execGangSplit o s) := by
  refine withFiring_wf hw fun s f units h => ?_
  dsimp only
  repeat' split
  all_goals simp [h]

theorem execGangFuse_wf (o : OpB) (s : State) (hw : Memory.wf s.mem = true) : OutWf (execGangFuse o s) := by
  refine withFiring_wf hw fun s f units h => ?_
  dsimp only
  repeat' split
  all_goals simp [h]

theorem execGangAlign_wf (o : OpB) (s : State) (hw : Memory.wf s.mem = true) : OutWf (execGangAlign o s) := by
  refine withFiring_wf hw fun s f units h => ?_
  simp [h]

theorem execSysR_wf (o : OpI) (s : State) (hw : Memory.wf s.mem = true) : OutWf (execSysR o s) := by
  refine withFiring_wf hw fun s f units h => ?_
  split <;> simp [h]

theorem vecInstr_wf (w : Site) (srcs : List (BitVec 5)) (dst : Option (BitVec 5)) (on : Core → Bool)
    (g : VIn → Res VOut) (s : State) (hw : Memory.wf s.mem = true) :
    OutWf (vecInstr w srcs dst on g s) := by
  refine withFiring_wf hw fun s f units h => ?_
  dsimp only
  repeat' split
  all_goals simp [h]

theorem elementA_wf (w : Site) (o : OpA) (g : ℕ → ℕ × FlagBits) (s : State) (hw : Memory.wf s.mem = true) :
    OutWf (elementA w o g s) := vecInstr_wf _ _ _ _ _ _ hw

theorem elementAB_wf (w : Site) (o : OpA) (g : ℕ → ℕ → ℕ × FlagBits) (s : State) (hw : Memory.wf s.mem = true) :
    OutWf (elementAB w o g s) := vecInstr_wf _ _ _ _ _ _ hw

theorem elementABD_wf (w : Site) (o : OpA) (g : ℕ → ℕ → ℕ → ℕ × FlagBits) (s : State) (hw : Memory.wf s.mem = true) :
    OutWf (elementABD w o g s) := vecInstr_wf _ _ _ _ _ _ hw

theorem vdot_wf (w : Site) (o : OpA) (fa : Fmt) (fb : Fmt) (lane : List Val → ℕ → ℕ × FlagBits) (s : State)
    (hw : Memory.wf s.mem = true) :
    OutWf (vdot w o fa fb lane s) := vecInstr_wf _ _ _ _ _ _ hw

theorem vred_wf (w : Site) (o : OpA) (g : Reduction) (s : State) (hw : Memory.wf s.mem = true) :
    OutWf (vred w o g s) := vecInstr_wf _ _ _ _ _ _ hw

theorem vcmp_wf (w : Site) (o : OpA) (g : ℕ → ℕ → Bool × FlagBits) (s : State) (hw : Memory.wf s.mem = true) :
    OutWf (vcmp w o g s) := vecInstr_wf _ _ _ _ _ _ hw

theorem permute_wf (w : Site) (o : OpA) (g : VIn → ℕ → ℕ → ℕ) (srcs : List (BitVec 5)) (s : State)
    (hw : Memory.wf s.mem = true) :
    OutWf (permute w o g srcs s) := vecInstr_wf _ _ _ _ _ _ hw

theorem issueOn_wf (uni : Bool) (len : Word) (s : State) (f : Firing) (units : List Core) (idle : ℕ) (l : List
    (Core × Machine.Acc)) (hw : Memory.wf s.mem = true) :
    OutWf (issueOn uni len s f units idle l) := by
  simp [issueOn, hw]

theorem wordAct_wf (uni : Bool) (s : State) (f : Firing) (units : List Core) (l : List (Core × Machine.Acc))
    (hw : Memory.wf s.mem = true) :
    OutWf (wordAct uni s f units l) := by
  unfold wordAct; dsimp only; repeat' split
  all_goals simp [hw]

theorem lateTrap_wf (s : State) (c : ℕ) (i : ℕ) (a : Machine.Acc) (cause : ℕ) (sub : ℕ) (hw : Memory.wf s.mem = true) :
    OutWf (lateTrap s c i a cause sub) := by
  unfold lateTrap; dsimp only; repeat' split
  all_goals simp [hw]

theorem sendInstr_wf (i : Instr) (o : OpA) (uni : Bool) (kind : ℕ) (q : ℕ) (lw : Bool) (le : Bool)
    (pay : Firing → List Core → Core → Payloads) (s : State) (hw : Memory.wf s.mem = true) :
    OutWf (sendInstr i o uni kind q lw le pay s) := by
  refine withFiring_wf hw fun s f units h => ?_
  dsimp only
  repeat' split
  all_goals simp [h]

theorem recvInstr_wf (i : Instr) (o : OpA) (g : List Msg → ℕ → Core → Option (ℕ × Core)) (s : State)
    (hw : Memory.wf s.mem = true) :
    OutWf (recvInstr i o g s) := by
  refine withFiring_wf hw fun s f units h => ?_
  dsimp only
  repeat' split
  all_goals simp [h]

theorem execLqDoorbell_wf (v : ℕ) (tail : W32) (s : State) (hw : Memory.wf s.mem = true) :
    OutWf (execLqDoorbell v tail s) := by
  unfold execLqDoorbell; dsimp only; repeat' split
  all_goals simp [hw]

theorem execSuplWrite_wf (v : ℕ) (val : Word) (s : State) (hw : Memory.wf s.mem = true) :
    OutWf (execSuplWrite v val s) := by
  unfold execSuplWrite; dsimp only; repeat' split
  all_goals simp [hw]

theorem execInvWrite_wf (v : ℕ) (va : Word) (s : State) (hw : Memory.wf s.mem = true) : OutWf (execInvWrite v va s) := by
  simp [execInvWrite, hw]

theorem execAtsInvalidateRequest_wf (v : ℕ) (addr : Word) (size : ℕ) (all : Bool) (s : State)
    (hw : Memory.wf s.mem = true) :
    OutWf (execAtsInvalidateRequest v addr size all s) := by
  simp [execAtsInvalidateRequest, hw]

theorem execPriRestart_wf (v : ℕ) (val : W32) (s : State) (hw : Memory.wf s.mem = true) :
    OutWf (execPriRestart v val s) := by
  unfold execPriRestart; split <;> simp [hw]

theorem settleIssued_wf (s : State) (f : Firing) (units : List Core) (act : List Core) (len : Word)
    (hw : Memory.wf s.mem = true) :
    OutWf (settleIssued s f units act len) := by
  unfold settleIssued; dsimp only; repeat' split
  all_goals simp [hw]

theorem agentSet_wf (o : OpC) (rd : List (BitVec 4)) (s : State) (f : Slot → Word) (hw : Memory.wf s.mem = true) :
    OutWf (agentSet o rd s f) := agentWord_wf hw fun k => by
  simp [hw]

theorem agentOp_wf (o : OpC) (op : Word → Word → Word) (s : State) (hw : Memory.wf s.mem = true) :
    OutWf (agentOp o op s) := agentSet_wf _ _ _ _ hw

theorem execABr_wf (o : OpC) (s : State) (hw : Memory.wf s.mem = true) :
    OutWf (execABr o s) := agentWord_wf hw fun k => by
  repeat' split
  all_goals simp [hw]

theorem execAJmp_wf (o : OpC) (s : State) (hw : Memory.wf s.mem = true) :
    OutWf (execAJmp o s) := agentWord_wf hw fun k => by
  simp [hw]

theorem execACall_wf (o : OpC) (s : State) (hw : Memory.wf s.mem = true) :
    OutWf (execACall o s) := agentWord_wf hw fun k => by
  simp [hw]

theorem execAWaitPend_wf (o : OpC) (s : State) (hw : Memory.wf s.mem = true) :
    OutWf (execAWaitPend o s) := agentWord_wf hw fun k => by
  simp [hw]

theorem execAWaitAll_wf (x1 : OpC) (s : State) (hw : Memory.wf s.mem = true) :
    OutWf (execAWaitAll x1 s) := agentWord_wf hw fun k => by
  repeat' split
  all_goals simp [hw]

theorem execASigHost_wf (o : OpC) (s : State) (hw : Memory.wf s.mem = true) :
    OutWf (execASigHost o s) := agentWord_wf hw fun k => by
  simp [hw]

theorem execAYield_wf (x1 : OpC) (s : State) (hw : Memory.wf s.mem = true) :
    OutWf (execAYield x1 s) := agentWord_wf hw fun k => by
  simp [hw]

theorem execAHalt_wf (o : OpC) (s : State) (hw : Memory.wf s.mem = true) :
    OutWf (execAHalt o s) := agentWord_wf hw fun k => by
  repeat' split
  all_goals simp [hw]

theorem execAFence_wf (x1 : OpC) (s : State) (hw : Memory.wf s.mem = true) :
    OutWf (execAFence x1 s) := agentWord_wf hw fun k => by
  repeat' split
  all_goals simp [hw]

theorem answer_wf (s : State) (n : ℕ) (x : BitVec 4) (w : Word) (hw : Memory.wf s.mem = true) :
    OutWf (answer s n x w) := by
  simp [answer, hw]

theorem execCNew_wf (o : OpC) (s : State) (hw : Memory.wf s.mem = true) :
    OutWf (execCNew o s) := agentWord_wf hw fun k => by
  repeat' split
  all_goals simp [hw]

theorem execCFork_wf (o : OpC) (s : State) (hw : Memory.wf s.mem = true) :
    OutWf (execCFork o s) := agentWord_wf hw fun k => onCtx_wf hw fun c => by
  repeat' split
  all_goals simp [hw]

theorem execCDrop_wf (o : OpC) (s : State) (hw : Memory.wf s.mem = true) :
    OutWf (execCDrop o s) := agentWord_wf hw fun k => by
  simp [hw]

theorem execCHint_wf (o : OpC) (s : State) (hw : Memory.wf s.mem = true) :
    OutWf (execCHint o s) := agentWord_wf hw fun k => onCtx_wf hw fun c => by
  simp [hw]

theorem execCUnpin_wf (o : OpC) (s : State) (hw : Memory.wf s.mem = true) :
    OutWf (execCUnpin o s) := agentWord_wf hw fun k => by
  repeat' split
  all_goals simp [hw]

theorem execPartStatusErrorClear_wf (s : State) (hw : Memory.wf s.mem = true) : OutWf (execPartStatusErrorClear s) := by
  simp [execPartStatusErrorClear, hw]

theorem execFrerrRead_wf (v : ℕ) (s : State) (hw : Memory.wf s.mem = true) : OutWf (execFrerrRead v s) := by
  simp [execFrerrRead, hw]

theorem execVcmdReady_wf (v : ℕ) (s : State) (hw : Memory.wf s.mem = true) : OutWf (execVcmdReady v s) := by
  simp [execVcmdReady, hw]

end Sys2Proof.Proofs.Canonical
end

section
/-! SUPPORT. The instructions and events that perform accesses, serve the fabric or manage launches, tasks and contexts. -/

namespace Sys2Proof.Proofs.Canonical

open Sys2Proof.Machine Sys2Proof.Laws.State Sys2Proof.Laws.Memory

theorem execEndCommit_wf (o : OpA) {s : State} (hw : Memory.wf s.mem = true) : OutWf (execEndCommit o s) :=
  endFiring_wf _ _ hw fun s f h => by simp [h]

theorem execEndRetry_wf (o : OpA) {s : State} (hw : Memory.wf s.mem = true) : OutWf (execEndRetry o s) :=
  endFiring_wf _ _ hw fun s f h => by simp [h]

theorem execEndFail_wf (o : OpA) {s : State} (hw : Memory.wf s.mem = true) : OutWf (execEndFail o s) :=
  endFiring_wf _ _ hw fun s f h => by simp [h]

theorem execSysW_wf (o : OpI) {s : State} (hw : Memory.wf s.mem = true) : OutWf (execSysW o s) := by
  have hm (f : Firing) (l : List Core) (s : State) : (l.foldl (fun s c => writeTrtail s f.tenant (getX c o.a.toNat)) s).mem = s.mem :=
    foldl_mem (fun s c => by simp) l s
  refine withFiring_wf hw fun s f units h => ?_
  dsimp only
  repeat' split
  all_goals simp [hm, h]

theorem atomicOn_wf (uni : Bool) {s : State} (f : Firing) (units : List Core) (l : List (Core × Acc))
    (hw : Memory.wf s.mem = true) : OutWf (atomicOn uni s f units l) := by
  unfold atomicOn
  refine outWf_ite _ hw ?_
  simp only [outWf_next, putFiring_mem]
  refine foldl_fst_wf (β := Firing) (fun p e h => ?_) _ (p := (s, f)) hw
  split <;> simp [h]

theorem atomicInstr_wf (i : Instr) (o : OpM) (kind : AccKind) (fn : ℕ) {s : State} (hw : Memory.wf s.mem = true) :
    OutWf (atomicInstr i o kind fn s) := by
  unfold atomicInstr
  exact memInstr_wf hw fun s f units _ l h => atomicOn_wf _ _ _ _ h

theorem redInstr_wf (i : Instr) (o : OpM) (fn : ℕ) {s : State} (hw : Memory.wf s.mem = true) :
    OutWf (redInstr i o fn s) := by
  unfold redInstr
  exact memInstr_wf hw fun s f units _ l h => issueOn_wf _ _ _ _ _ _ _ h

theorem execXlatProbe_wf (o : OpM) {s : State} (hw : Memory.wf s.mem = true) : OutWf (execXlatProbe o s) := by
  unfold execXlatProbe
  refine memShape_wf hw (fun f units c g hg s => ?_) fun s f units n l h => ?_
  · cases hg
    exact xlatCheck_mem (fun _ => rfl) _ _ _
  · exact outWf_ite _ (by simp [h]) (xlatFinish_wf _ _ _ _ _ _ _ _ h)

theorem execXlatTouch_wf (o : OpM) {s : State} (hw : Memory.wf s.mem = true) : OutWf (execXlatTouch o s) := by
  unfold execXlatTouch
  refine memShape_wf hw (fun f units c g hg s => ?_) fun s f units n l h => xlatFinish_wf _ _ _ _ _ _ _ _ h
  cases hg
  refine xlatCheck_mem (fun s => ?_) _ _ _
  dsimp only
  split
  · rfl
  · have h := locateFor_mem s f c.idx (eaPlain (fileOf f units (k1 o.o) c) o) 1 (wantOfQ o.o.q.toNat)
    split <;> rename_i e <;> rw [e] at h <;> exact h

theorem execXlatInv_wf (o : OpM) {s : State} (hw : Memory.wf s.mem = true) : OutWf (execXlatInv o s) := by
  unfold execXlatInv
  refine memShape_wf hw (fun f units c g hg s => ?_) fun s f units n l h => ?_
  · cases hg
    refine xlatCheck_mem (fun s => ?_) _ _ _
    split <;> rfl
  · simp only [outWf_next, putFiring_mem, tickIdle_mem]
    exact foldl_wf (fun s e h => by simp [h]) l h

theorem execCachePf_wf (o : OpM) {s : State} (hw : Memory.wf s.mem = true) : OutWf (execCachePf o s) :=
  cacheInstr_wf hw fun s f c a h => by simp [h]

theorem execCachePfl1_wf (o : OpM) {s : State} (hw : Memory.wf s.mem = true) : OutWf (execCachePfl1 o s) :=
  cacheInstr_wf hw fun s f c a h => by
    dsimp only
    split <;> simp [h]

theorem execCacheNu_wf (o : OpM) {s : State} (hw : Memory.wf s.mem = true) : OutWf (execCacheNu o s) :=
  cacheInstr_wf hw fun s f c a h => by simp [h]

theorem execCacheWb_wf (o : OpM) {s : State} (hw : Memory.wf s.mem = true) : OutWf (execCacheWb o s) :=
  cacheInstr_wf hw fun s f c a h => by simp [h]

theorem execCacheWbinv_wf (o : OpM) {s : State} (hw : Memory.wf s.mem = true) : OutWf (execCacheWbinv o s) :=
  cacheInstr_wf hw fun s f c a h => by simp [h]

theorem execRclkAdv_wf (o : OpX) {s : State} (hw : Memory.wf s.mem = true) : OutWf (execRclkAdv o s) := by
  refine withFiring_wf hw fun s f units h => ?_
  simp only [outWf_next, putFiring_mem]
  exact foldl_wf (fun s _ h => by simp [h]) _ h

theorem execPinWin_wf (o : OpM) {s : State} (hw : Memory.wf s.mem = true) : OutWf (execPinWin o s) :=
  pinInstr_wf hw fun s f r d h => by simp [h]

theorem execPinSize_wf (o : OpM) {s : State} (hw : Memory.wf s.mem = true) : OutWf (execPinSize o s) :=
  pinInstr_wf hw fun _ _ _ _ h => h

theorem loadScalar_wf (i : Instr) (o : OpM) (size : ℕ) (sext : Bool) {s : State} (hw : Memory.wf s.mem = true) :
    OutWf (loadScalar i o size sext s) := by
  unfold loadScalar
  exact memInstr_wf hw fun s f units n l h => issueOn_wf _ _ _ _ _ _ _ h

theorem storeScalar_wf (i : Instr) (o : OpM) (size : ℕ) {s : State} (hw : Memory.wf s.mem = true) :
    OutWf (storeScalar i o size s) := by
  unfold storeScalar
  exact memInstr_wf hw fun s f units n l h => issueOn_wf _ _ _ _ _ _ _ h

theorem issueVld_wf (o : OpM) {s : State} (f : Firing) (units : List Core) (idle : ℕ) (l : List (Core × Acc))
    (hw : Memory.wf s.mem = true) : OutWf (issueVld o s f units idle l) := by
  unfold issueVld
  split
  · exact hw
  · exact issueOn_wf _ _ _ _ _ _ _ hw

theorem execVldV_wf (o : OpM) {s : State} (hw : Memory.wf s.mem = true) : OutWf (execVldV o s) :=
  memInstr_wf hw fun _ _ _ _ _ h => issueVld_wf _ _ _ _ _ h

theorem execVldBc_wf (o : OpM) {s : State} (hw : Memory.wf s.mem = true) : OutWf (execVldBc o s) := by
  unfold execVldBc
  exact memInstr_wf hw fun s f units n l h => issueVld_wf _ _ _ _ _ h

theorem storeVec_wf (i : Instr) (o : OpM) (size : ℕ) (mask : Core → BitVec 16) {s : State} (hw : Memory.wf s.mem = true) :
    OutWf (storeVec i o size mask s) := by
  unfold storeVec
  exact memInstr_wf hw fun s f units n l h => outWf_ite _ h (issueOn_wf _ _ _ _ _ _ _ h)

theorem wordInstr_wf (i : Instr) (o : OpM) (kind : AccKind) (fn : ℕ) {s : State} (hw : Memory.wf s.mem = true) :
    OutWf (wordInstr i o kind fn s) := by
  unfold wordInstr
  refine withFiring_wf hw fun s f units h => ?_
  split
  · exact outWf_ite _ (by simp [h]) (memInstr_wf h fun s f units _ l h => wordAct_wf _ _ _ _ _ h)
  · simp [h]

@[simp] theorem feAct_mem (units : List Core) (uni pred : Bool) (change : Option Bool) (st : State × Firing) (e : Core × Acc) :
    (feAct units uni pred change st e).1.mem = st.1.mem := by
  unfold feAct
  dsimp only
  repeat' split
  all_goals simp

theorem feInstr_wf (i : Instr) (o : OpA) (fn : ℕ) (pred : Bool) (change : Option Bool) {s : State}
    (hw : Memory.wf s.mem = true) : OutWf (feInstr i o fn pred change s) := by
  unfold feInstr
  refine memInstr_wf hw fun s f units _ l h => outWf_ite _ h ?_
  simp only [outWf_next, putFiring_mem]
  exact foldl_fst_wf (fun p e h => by simp [h]) _ (p := (s, f)) h

theorem feRange_wf (o : OpA) (fn : ℕ) (b : Bool) {s : State} (f : Firing) (units : List Core) (hw : Memory.wf s.mem = true) :
    OutWf (feRange o fn b s f units) := by
  unfold feRange
  dsimp only
  split
  · simp [hw]
  · exact outWf_ite _ hw (by simp [hw])

theorem feSpan_wf (i : Instr) (o : OpA) (fn : ℕ) (b : Bool) {s : State} (hw : Memory.wf s.mem = true) :
    OutWf (feSpan i o fn b s) := by
  unfold feSpan
  exact withFiring_wf hw fun s f units h =>
    outWf_ite _ (feRange_wf _ _ _ _ _ h) (memInstr_wf h fun s f units _ l h => feRange_wf _ _ _ _ _ h)

theorem execFenceOrd_wf (o : OpA) {s : State} (hw : Memory.wf s.mem = true) : OutWf (execFenceOrd o s) := by
  unfold execFenceOrd
  refine withFiring_wf hw fun s f units h => ?_
  simp only [outWf_next, putFiring_mem]
  split
  · exact h
  · rw [sweep_mem]
    refine foldl_wf (fun s c h => ?_) _ h
    split <;> simp [h]

theorem routeAcc_wf (c i id path : ℕ) {s : State} (hw : Memory.wf s.mem = true) : OutWf (routeAcc c i id path s) := by
  unfold routeAcc
  split
  · trivial
  · exact outWf_ite _ (by simp [hw]) trivial

@[simp] theorem notEnabled_wf (row : String) : OutWf (notEnabled row) := trivial

theorem execExplicitStorePerform_wf (c core acc : ℕ) {s : State} (hw : Memory.wf s.mem = true) :
    OutWf (execExplicitStorePerform c core acc s) := by
  unfold execExplicitStorePerform
  split
  · trivial
  · refine outWf_ite _ trivial (outWf_ite _ (outWf_ite _ ?_ (outWf_ite _ trivial ?_)) (outWf_ite _ trivial ?_))
    · split <;> simp [hw]
    · simp [hw]
    · simp only [outWf_next, sweep_mem]
      exact foldl_wf (fun s e h => by simp [h]) _ hw

theorem execCoherentStorePerform_wf (c core acc : ℕ) {s : State} (hw : Memory.wf s.mem = true) :
    OutWf (execCoherentStorePerform c core acc s) := by
  unfold execCoherentStorePerform
  split
  · trivial
  · refine outWf_ite _ trivial (outWf_ite _ (lateTrap_wf _ _ _ _ _ _ hw) ?_)
    simp only [outWf_next, sweep_mem]
    exact foldl_wf (fun s e h => by simp [h]) _ hw

theorem execExplicitLoadPerform_wf (c core acc : ℕ) {s : State} (hw : Memory.wf s.mem = true) :
    OutWf (execExplicitLoadPerform c core acc s) := by
  unfold execExplicitLoadPerform
  split
  · trivial
  · refine outWf_ite _ trivial ?_
    dsimp only
    split
    · exact outWf_ite _ (lateTrap_wf _ _ _ _ _ _ hw) (by simp [hw])
    · split <;> simp [hw]

theorem deliver_wf {row : String} {s : State} {c i : ℕ} {a : Machine.Acc} (hw : Memory.wf s.mem = true) :
    OutWf (match deliver s c i a with
      | some s => .next (sweep s)
      | none => notEnabled row) := by
  split
  · rename_i h
    simp [deliver_mem h, hw]
  · trivial

theorem execLoadDataReturn_wf (c core acc lease : ℕ) {s : State} (hw : Memory.wf s.mem = true) :
    OutWf (execLoadDataReturn c core acc lease s) := by
  unfold execLoadDataReturn
  split
  · trivial
  · refine outWf_ite _ trivial (outWf_ite _ (deliver_wf hw) (outWf_ite _ ?_ (outWf_ite _ ?_ trivial)))
    · exact outWf_ite _ trivial (outWf_ite _ (lateTrap_wf _ _ _ _ _ _ hw) (deliver_wf (coherentLoad_wf _ _ _ _ _ hw)))
    · refine outWf_ite _ trivial (outWf_ite _ (lateTrap_wf _ _ _ _ _ _ hw) ?_)
      dsimp only
      split
      · trivial
      · exact deliver_wf (foldl_wf (fun s e h => by simp [h]) _ hw)

theorem execFeWaiterServe_wf (idx : ℕ) {s : State} (hw : Memory.wf s.mem = true) : OutWf (execFeWaiterServe idx s) := by
  unfold execFeWaiterServe
  split
  · trivial
  · split
    · trivial
    · exact outWf_ite _ trivial (deliver_wf (bankMove_wf _ _ _ _ hw))

theorem execHostCompletionError_wf (c core acc : ℕ) {s : State} (hw : Memory.wf s.mem = true) :
    OutWf (execHostCompletionError c core acc s) := by
  unfold execHostCompletionError
  split
  · trivial
  · refine outWf_ite _ trivial ?_
    dsimp only
    split
    · rename_i h
      simp [deliver_mem h, hw]
    · trivial

theorem execRemotePacketPerform_wf (pkt : PktRef) {s : State} (hw : Memory.wf s.mem = true) :
    OutWf (execRemotePacketPerform pkt s) := by
  unfold execRemotePacketPerform
  split
  · rename_i vf va size op data data2
    have h : Memory.wf (remoteHome s 0 (packetAcc vf va size op data data2)).1.mem = true := by simp [hw]
    split <;> rename_i e <;> rw [e] at h
    · exact h
    · refine outWf_ite _ trivial ?_
      rw [outWf_next, sweep_mem]
      exact performIncoming_wf _ _ h
  · split
    · trivial
    · refine outWf_ite _ trivial ?_
      simp only [outWf_next, sweep_mem]
      exact foldl_wf (fun s e h => by simp [h]) _ hw

theorem execRemoteReply_wf (c core acc cause : ℕ) (val : Vec) {s : State} (hw : Memory.wf s.mem = true) :
    OutWf (execRemoteReply c core acc cause val s) := by
  unfold execRemoteReply
  split
  · trivial
  · exact outWf_ite _ trivial (outWf_ite _ (deliver_wf (by simp [hw])) (lateTrap_wf _ _ _ _ _ _ (by simp [hw])))

theorem execRemotePostedFault_wf (c core acc : ℕ) {s : State} (hw : Memory.wf s.mem = true) :
    OutWf (execRemotePostedFault c core acc s) := by
  unfold execRemotePostedFault
  split
  · trivial
  · exact outWf_ite _ trivial (by simp [hw])

theorem execFlushMarkerArrive_wf (idx : ℕ) {s : State} (hw : Memory.wf s.mem = true) :
    OutWf (execFlushMarkerArrive idx s) := by
  unfold execFlushMarkerArrive
  split
  · trivial
  · refine outWf_ite _ trivial ?_
    simp only [outWf_next, sweep_mem]
    exact foldl_wf (fun s e h => by simp [h]) _ hw

theorem execFlushAnswerArrive_wf (idx : ℕ) {s : State} (hw : Memory.wf s.mem = true) :
    OutWf (execFlushAnswerArrive idx s) := by
  unfold execFlushAnswerArrive
  split
  · trivial
  · refine outWf_ite _ trivial ?_
    dsimp only
    split <;> simp [hw]

theorem fetchTrap_wf (row : String) (g : Fetched → Option (ℕ × ℕ × Word × W32 × W32)) {s : State} (hw : Memory.wf s.mem = true) :
    OutWf (fetchTrap row g s) := by
  unfold fetchTrap
  split
  · split
    · trivial
    · dsimp only
      split <;> simp [hw]
  · trivial

theorem execBarInit_wf (o : OpA) {s : State} (hw : Memory.wf s.mem = true) : OutWf (execBarInit o s) :=
  barInstr_wf hw fun s f units act b h => by
    dsimp only
    split <;> simp [h]

theorem execBarArrive_wf (o : OpA) {s : State} (hw : Memory.wf s.mem = true) : OutWf (execBarArrive o s) :=
  barInstr_wf hw fun s f units act b h => by
    split <;> simp [h]

theorem execBarWait_wf (o : OpA) {s : State} (hw : Memory.wf s.mem = true) : OutWf (execBarWait o s) :=
  barInstr_wf hw fun s f units act b h => outWf_ite _ (by simp [h]) h

theorem execBarSync_wf (o : OpA) {s : State} (hw : Memory.wf s.mem = true) : OutWf (execBarSync o s) := by
  unfold execBarSync
  refine barInstr_wf hw fun s f units act b h => ?_
  dsimp only
  split
  · exact outWf_ite _ (by simp [h]) (by simp [h])
  · split
    · exact h
    · exact outWf_ite _ (by simp [h]) (by simp [h])

theorem execBarQuery_wf (o : OpA) {s : State} (hw : Memory.wf s.mem = true) : OutWf (execBarQuery o s) :=
  barInstr_wf hw fun s f units act b h => by simp [h]

theorem acceptQueue_wf {s : State} (v : ℕ) (hw : Memory.wf s.mem = true) : OutWf (acceptQueue s v) := by
  unfold acceptQueue
  refine outWf_ite _ hw ?_
  split
  · simp [hw]
  · rename_i bs hr
    have h := partRead_wf hr hw
    refine outWf_ite _ h ?_
    have h2 := acceptRecord_wf _ v (BitVec.ofNat 64 (ofBytes bs)) .queue h
    split <;> rename_i e <;> rw [e] at h2 <;> simpa using h2

theorem execLaunchAccept_wf (v : ℕ) (src : LaunchSrc) {s : State} (hw : Memory.wf s.mem = true) :
    OutWf (execLaunchAccept v src s) := by
  unfold execLaunchAccept
  refine outWf_ite _ trivial ?_
  split
  · exact outWf_ite _ trivial (acceptQueue_wf _ hw)
  · split
    · trivial
    · rename_i va _
      have h := acceptRecord_wf s v va .supl hw
      split <;> rename_i e <;> rw [e] at h <;> simpa using h
  · split
    · trivial
    · split
      · trivial
      · refine outWf_ite _ trivial ?_
        rename_i n _ _ _ _ dest va _
        have h := acceptRecord_wf s v va (.klaunch n dest) hw
        split <;> rename_i e <;> rw [e] at h
        · exact h
        · dsimp only
          split <;> simpa using h
        · dsimp only
          split <;> simpa using h

theorem execLaunchProceed_wf (l : ℕ) {s : State} (hw : Memory.wf s.mem = true) : OutWf (execLaunchProceed l s) := by
  unfold execLaunchProceed
  split
  · trivial
  · rename_i k _
    have hreject (s : State) (cause tc : ℕ) (hw : Memory.wf s.mem = true) : OutWf (match partLocate s k.tenant k.done .wr with
        | (s, .ask _ _) => .next s
        | (s, _) => .next (endLaunch (launchRecord s k.tenant k.recVa (isStep k.origin) cause tc) k 2)) := by
      have h : Memory.wf (partLocate s k.tenant k.done .wr).1.mem = true := by simp [hw]
      split <;> rename_i e <;> rw [e] at h
      · exact h
      · exact endLaunch_wf _ _ _ ((congrArg (Memory.wf · = true) (launchRecord_mem _ _ _ _ _ _)).mpr h)
    have hcounts (s : State) (hw : Memory.wf s.mem = true) : OutWf (match readCounts s k.tenant l k.levels with
        | .error e => match partLocate s k.tenant k.done .wr with
          | (s, .ask _ _) => .next s
          | (s, _) => .next (endLaunch (launchRecord s k.tenant k.recVa (isStep k.origin) 5 e) k 2)
        | .ok (_, none) => notEnabled "LAUNCH_PROCEED"
        | .ok (s, some cs) => .next (putLaunch s { proceeding s l k with held := false, counts := cs, ts := s.hts })) := by
      split
      · exact hreject _ _ _ hw
      · trivial
      · rename_i h
        exact readCounts_wf h hw
    refine outWf_ite _ trivial (outWf_ite _ (hcounts _ hw) ?_)
    have h : Memory.wf (partLocate s k.tenant k.after .rd).1.mem = true := by simp [hw]
    split <;> rename_i e <;> rw [e] at h
    · exact h
    · exact hreject _ _ _ h
    · exact outWf_ite _ trivial (hcounts _ (partWord_wf _ _ _ _ h))

theorem execLevelTakeContext_wf (l : ℕ) (path : List ℕ) {s : State} (hw : Memory.wf s.mem = true) :
    OutWf (execLevelTakeContext l path s) := by
  unfold execLevelTakeContext
  split
  · trivial
  · refine outWf_ite _ trivial ?_
    split
    · trivial
    · refine outWf_ite _ trivial ?_
      split
      · trivial
      · rename_i h
        simp [takeOn_mem h, hw]

theorem execRepeatInstanceFinish_wf (l : ℕ) (path : List ℕ) {s : State} (hw : Memory.wf s.mem = true) :
    OutWf (execRepeatInstanceFinish l path s) := by
  unfold execRepeatInstanceFinish
  split
  · trivial
  · exact outWf_ite _ trivial (by simp [hw])

theorem execLaunchComplete_wf (l : ℕ) {s : State} (hw : Memory.wf s.mem = true) : OutWf (execLaunchComplete l s) := by
  unfold execLaunchComplete
  split
  · trivial
  · refine outWf_ite _ trivial (outWf_ite _ (by simp [hw]) (outWf_ite _ trivial ?_))
    simp only [outWf_next, sweep_mem]
    exact foldl_wf (fun s e h => by simp [h]) _ hw

theorem execFiringBind_wf (c : ℕ) {s : State} (hw : Memory.wf s.mem = true) : OutWf (execFiringBind c s) := by
  unfold execFiringBind
  refine outWf_ite _ (by simp [hw]) ?_
  dsimp only
  split
  · trivial
  · split <;> simp [hw]

theorem execStarvationClose_wf (c : ℕ) {s : State} (hw : Memory.wf s.mem = true) : OutWf (execStarvationClose c s) := by
  unfold execStarvationClose
  split
  · trivial
  · refine outWf_ite _ trivial ?_
    split <;> simp [hw]

theorem execCommitTakeEffect_wf (f : ℕ) {s : State} (hw : Memory.wf s.mem = true) : OutWf (execCommitTakeEffect f s) := by
  unfold execCommitTakeEffect
  split
  · trivial
  · refine outWf_ite _ trivial (outWf_ite _ (by simp [hw]) (outWf_ite _ (outWf_ite _ trivial ?_) trivial))
    simp only [outWf_next, sweep_mem]
    exact foldl_wf (fun s e h => by simp [h]) _ hw

theorem execWatchdogExpiry_wf (f : ℕ) {s : State} (hw : Memory.wf s.mem = true) : OutWf (execWatchdogExpiry f s) := by
  unfold execWatchdogExpiry
  split
  · trivial
  · exact outWf_ite _ trivial (by simp [hw])

theorem execHardwareError_wf (f core : ℕ) (passes : Bool) {s : State} (hw : Memory.wf s.mem = true) :
    OutWf (execHardwareError f core passes s) := by
  unfold execHardwareError
  split
  · trivial
  · refine outWf_ite _ trivial (outWf_ite _ (by simp [hw]) ?_)
    split
    · trivial
    · exact outWf_ite _ (by simp [hw]) (outWf_ite _ (by simp [hw]) (by simp [hw]))

theorem execClusterUnitFailure_wf (c : ℕ) {s : State} (hw : Memory.wf s.mem = true) :
    OutWf (execClusterUnitFailure c s) :=
  outWf_ite _ trivial (by simp [hw])

theorem execRecordWrite_wf (die idx : ℕ) {s : State} (hw : Memory.wf s.mem = true) :
    OutWf (execRecordWrite die idx s) := by
  unfold execRecordWrite
  split
  · trivial
  · exact outWf_ite _ trivial (by simp [hw])

theorem execTresolveWrite_wf (c core : ℕ) {s : State} (hw : Memory.wf s.mem = true) :
    OutWf (execTresolveWrite c core s) := by
  unfold execTresolveWrite
  split
  · trivial
  · dsimp only
    split
    · exact outWf_ite _ trivial (by simp [hw])
    · trivial

theorem execMessageDeliver_wf (idx : ℕ) {s : State} (hw : Memory.wf s.mem = true) : OutWf (execMessageDeliver idx s) := by
  unfold execMessageDeliver
  split
  · trivial
  · refine outWf_ite _ trivial ?_
    split
    · trivial
    · simp [hw]
    · exact outWf_ite _ (by simp [hw]) (outWf_ite _ (by simp [hw]) trivial)

theorem execMessageFillSlot_wf (c idx : ℕ) {s : State} (hw : Memory.wf s.mem = true) :
    OutWf (execMessageFillSlot c idx s) := by
  unfold execMessageFillSlot
  split
  · trivial
  · dsimp only
    split
    · trivial
    · split
      · trivial
      · split
        · trivial
        · exact outWf_ite _ trivial (by simp [hw])

theorem execInvalidationComplete_wf (idx : ℕ) {s : State} (hw : Memory.wf s.mem = true) :
    OutWf (execInvalidationComplete idx s) := by
  unfold execInvalidationComplete
  split
  · trivial
  · refine outWf_ite _ trivial ?_
    dsimp only
    repeat' split
    all_goals simp [hw]

theorem execTranslationCompletion_wf (idx : ℕ) (ta : Word) (size : ℕ) (r w u : Bool) {s : State} (hw : Memory.wf s.mem = true) :
    OutWf (execTranslationCompletion idx ta size r w u s) := by
  unfold execTranslationCompletion
  split
  · trivial
  · refine outWf_ite _ trivial ?_
    dsimp only
    split <;> simp [hw]

theorem execPrgResponse_wf (idx code : ℕ) {s : State} (hw : Memory.wf s.mem = true) :
    OutWf (execPrgResponse idx code s) := by
  unfold execPrgResponse
  split
  · trivial
  · refine outWf_ite _ trivial ?_
    split
    · simp [hw]
    · simp [hw]
    · exact foldl_wf (fun s r h => by simp [h]) _ (by simp [hw])
    · trivial

theorem execPageRequestTimeout_wf (idx : ℕ) {s : State} (hw : Memory.wf s.mem = true) :
    OutWf (execPageRequestTimeout idx s) := by
  unfold execPageRequestTimeout
  split
  · trivial
  · exact outWf_ite _ (by simp [hw]) trivial

theorem execClockBroadcast_wf (clk : ClockId) (slice : ℕ) {s : State} (hw : Memory.wf s.mem = true) :
    OutWf (execClockBroadcast clk slice s) := by
  unfold execClockBroadcast
  split <;> simp [hw]

theorem execCredibilityWindowClose_wf (v : ℕ) {s : State} (hw : Memory.wf s.mem = true) :
    OutWf (execCredibilityWindowClose v s) :=
  outWf_ite _ trivial (by simp [hw])

theorem engineIssue_wf (imageOk : List Byte → Bool) (o : OpE) (maj fn blk : ℕ) {s : State} (hw : Memory.wf s.mem = true) :
    OutWf (engineIssue imageOk o maj fn blk s) := by
  unfold engineIssue
  refine withFiring_wf hw fun s f units h => ?_
  dsimp only
  exact settleIssued_wf _ _ _ _ _ (issueEach_wf (fun s f c h => issueCmd_wf h) _ f h)

theorem engineInstr_wf (o : OpE) (maj fn blk : ℕ) {s : State} (hw : Memory.wf s.mem = true) :
    OutWf (engineInstr o maj fn blk s) :=
  engineIssue_wf _ _ _ _ _ hw

theorem execEngineCommandStart_wf (id : ℕ) {s : State} (hw : Memory.wf s.mem = true) :
    OutWf (execEngineCommandStart id s) := by
  unfold execEngineCommandStart
  split
  · trivial
  · exact outWf_ite _ trivial (workOut_wf (readGuard_wf _ hw) (fun s m h => by simp [h]) fun _ => trivial)

theorem moveGranule_wf (id g : ℕ) {s : State} (hw : Memory.wf s.mem = true) : OutWf (moveGranule id g s) := by
  unfold moveGranule
  split
  · trivial
  · exact outWf_ite _ trivial (workOut_wf (performGranule_wf _ _ hw) (fun s m h => by simp [h]) fun _ => trivial)

theorem drainEarly_wf {s : State} (m : Cmd) (w : ℕ) (hw : Memory.wf s.mem = true) : OutWf (drainEarly s m w) := by
  unfold drainEarly
  dsimp only
  split
  · trivial
  · refine outWf_ite _ trivial (workOut_wf (bindOk_wf (bindOk_wf ?_ fun s _ h => cmdWrite_wf _ _ _ _ _ h) fun s n h => ?_)
      (fun s m h => by simp [h]) fun _ => trivial)
    · split
      · exact nbFetch_wf _ _ hw
      · exact hw
    · exact drainCmd_wf _ _ h

theorem moveDrain_wf (id : ℕ) (ea : Word) {s : State} (hw : Memory.wf s.mem = true) : OutWf (moveDrain id ea s) := by
  unfold moveDrain
  split
  · trivial
  · refine outWf_ite _ trivial ?_
    split
    · exact drainEarly_wf _ _ hw
    · simp [hw]

theorem weightAhead_wf {s : State} (m : Cmd) (a : ℕ) (hw : Memory.wf s.mem = true) : OutWf (weightAhead s m a) := by
  unfold weightAhead
  dsimp only
  split
  · trivial
  · exact workOut_wf (bindOk_wf (nbFetch_wf _ _ hw) fun _ _ h => h) (fun s m h => by simp [h]) fun _ => trivial

theorem moveReadAhead_wf (id : ℕ) (ea : Word) {s : State} (hw : Memory.wf s.mem = true) :
    OutWf (moveReadAhead id ea s) := by
  unfold moveReadAhead
  split
  · trivial
  · exact outWf_ite _ trivial (outWf_ite _ (weightAhead_wf _ _ hw) (outWf_ite _ trivial
      (workOut_wf (bindOk_wf (unitRead_wf _ _ _ _ _ hw) fun _ _ h => h) (fun s m h => by simp [h]) fun _ => trivial)))

theorem moveFlush_wf (id : ℕ) {s : State} (hw : Memory.wf s.mem = true) : OutWf (moveFlush id s) := by
  unfold moveFlush
  split
  · trivial
  · refine outWf_ite _ trivial (foldl_wf (fun s p h => ?_) _ hw)
    exact foldl_wf (fun s j h => by simp [h]) _ (by simp [h])

theorem execEngineCommandComplete_wf (id : ℕ) {s : State} (hw : Memory.wf s.mem = true) :
    OutWf (execEngineCommandComplete id s) := by
  unfold execEngineCommandComplete
  split
  · trivial
  · refine outWf_ite _ trivial (workOut_wf (finishCmd_wf _ hw) (fun s m h => ?_) fun n => by simp [hw])
    dsimp only
    split <;> simp [h]

theorem execEnginePark_wf (id : ℕ) {s : State} (hw : Memory.wf s.mem = true) : OutWf (execEnginePark id s) := by
  unfold execEnginePark
  split
  · trivial
  · split
    · rename_i e
      split at e
      · exact outWf_ite _ (by simp [nextFault_wf e hw]) trivial
      · cases e
    · trivial

theorem execEngineCommandFault_wf (id cause : ℕ) {s : State} (hw : Memory.wf s.mem = true) :
    OutWf (execEngineCommandFault id cause s) := by
  unfold execEngineCommandFault
  split
  · trivial
  · exact outWf_ite _ trivial (outWf_ite _ (by simp [hw]) (outWf_ite _ (by simp [hw]) trivial))

theorem execEnginePreemptStop_wf (id : ℕ) {s : State} (hw : Memory.wf s.mem = true) :
    OutWf (execEnginePreemptStop id s) := by
  unfold execEnginePreemptStop
  split
  · trivial
  · exact outWf_ite _ trivial (by simp [hw])

theorem execNbmvPublish_wf (id : ℕ) {s : State} (hw : Memory.wf s.mem = true) : OutWf (execNbmvPublish id s) := by
  unfold execNbmvPublish
  split
  · trivial
  · exact outWf_ite _ trivial (workOut_wf (firstVersion_wf _ hw) (fun s m h => by simp [h]) fun _ => trivial)

theorem execCopyStat_wf (o : OpE) {s : State} (hw : Memory.wf s.mem = true) : OutWf (execCopyStat o s) :=
  copyControl_wf hw fun s f w h => by simp [h]

theorem execCopyRsm_wf (o : OpE) {s : State} (hw : Memory.wf s.mem = true) : OutWf (execCopyRsm o s) :=
  copyControl_wf hw fun s f w h => by
    split <;> simp [h]

theorem execCopyAbrt_wf (o : OpE) {s : State} (hw : Memory.wf s.mem = true) : OutWf (execCopyAbrt o s) :=
  copyControl_wf hw fun s f w h => by
    split <;> simp [h]

theorem taskInstr_wf (o : OpE) (maj : BitVec 7) (fn blk : ℕ) (cbld : Bool) {s : State} (hw : Memory.wf s.mem = true) :
    OutWf (taskInstr o maj fn blk cbld s) := by
  unfold taskInstr
  refine withFiring_wf hw fun s f units h => outWf_ite _ (trapAt_wf _ _ _ _ h) (settleIssued_wf _ _ _ _ _ ?_)
  exact (congrArg (Memory.wf · = true) (submitEach_mem (fun s f c r hr => submitTask_mem hr) _ s f)).mpr h

theorem execTaskAccept_wf (idx : ℕ) {s : State} (hw : Memory.wf s.mem = true) : OutWf (execTaskAccept idx s) := by
  unfold execTaskAccept
  split
  · trivial
  · dsimp only
    split
    · simp [hw]
    · split
      · trivial
      · exact outWf_ite _ trivial (by simp [hw])

theorem execTaskPublish_wf (id : ℕ) {s : State} (hw : Memory.wf s.mem = true) : OutWf (execTaskPublish id s) := by
  unfold execTaskPublish
  split
  · trivial
  · split
    · rename_i e
      split at e
      · cases e
      · rename_i t _ _ _ _ _
        have h := resultStep_wf t hw
        rw [e] at h
        exact h.2
    · trivial

theorem drainTask_wf {s : State} (t : Machine.Task) (ea : Word) (hw : Memory.wf s.mem = true) :
    OutWf (drainTask s t ea) := by
  unfold drainTask
  dsimp only
  split
  · trivial
  · refine outWf_ite _ trivial ?_
    split
    · rename_i e
      have h := workOk_wf (unitWrite_wf _ _ _ _ _ _ hw) e
      exact h
    · trivial

theorem issued_wf {row : String} {w : Work State} : StateWorkWf w → OutWf (match w with
    | .ok _ s => .next s
    | _ => notEnabled row) := by
  intro h
  split
  · exact h.2
  · trivial

theorem execTaskIssue_wf (id : ℕ) {s : State} (hw : Memory.wf s.mem = true) : OutWf (execTaskIssue id s) := by
  unfold execTaskIssue
  split
  · trivial
  · exact issued_wf (issueStep_wf _ _ hw)

theorem execTaskRefire_wf (id : ℕ) {s : State} (hw : Memory.wf s.mem = true) : OutWf (execTaskRefire id s) := by
  unfold execTaskRefire
  split
  · trivial
  · exact issued_wf (issueStep_wf _ _ hw)

theorem execTaskRetire_wf (id : ℕ) {s : State} (hw : Memory.wf s.mem = true) : OutWf (execTaskRetire id s) := by
  unfold execTaskRetire
  split
  · trivial
  · exact outWf_ite _ trivial (by simp [hw])

theorem execTaskFault_wf (id cause : ℕ) {s : State} (hw : Memory.wf s.mem = true) : OutWf (execTaskFault id cause s) := by
  unfold execTaskFault
  split
  · trivial
  · refine outWf_ite _ (outWf_ite _ (by simp [hw]) trivial) ?_
    split
    · rename_i e
      simp [faultAt_wf e hw]
    · trivial

theorem execEngineHwRerun_wf (id : ℕ) {s : State} (hw : Memory.wf s.mem = true) : OutWf (execEngineHwRerun id s) := by
  unfold execEngineHwRerun
  split
  · trivial
  · split
    · trivial
    · exact outWf_ite _ (by simp [hw]) (by simp [hw])

theorem execTaskPreemptStop_wf (id : ℕ) {s : State} (hw : Memory.wf s.mem = true) : OutWf (execTaskPreemptStop id s) := by
  unfold execTaskPreemptStop
  split
  · trivial
  · split
    · trivial
    · exact outWf_ite _ trivial (by simp [hw])

theorem readAheadTask_wf {s : State} (t : Machine.Task) (ea : Word) (hw : Memory.wf s.mem = true) :
    OutWf (readAheadTask s t ea) := by
  unfold readAheadTask
  dsimp only
  split
  · trivial
  · refine outWf_ite _ trivial ?_
    split
    · rename_i e
      have h := workOk_wf (unitRead_wf _ _ _ _ _ hw) e
      exact h
    · trivial

theorem execVstopCur_wf (o : OpX) {s : State} (hw : Memory.wf s.mem = true) : OutWf (execVstopCur o s) := by
  unfold execVstopCur
  refine withFiring_wf hw fun s f units h => outWf_ite _ h ?_
  simp only [outWf_next, putFiring_mem]
  exact foldl_fst_wf (β := Firing) (fun p c h => by simp [h]) _ (p := (s, f)) h

theorem execVwaitVer_wf (o : OpX) {s : State} (hw : Memory.wf s.mem = true) : OutWf (execVwaitVer o s) :=
  vwaitInstr_wf hw fun _ _ _ _ => waitHandle_mem

theorem execVwaitFin_wf (o : OpX) {s : State} (hw : Memory.wf s.mem = true) : OutWf (execVwaitFin o s) :=
  vwaitInstr_wf hw fun _ _ _ _ => waitHandle_mem

theorem execVwaitSet_wf (o : OpX) {s : State} (hw : Memory.wf s.mem = true) : OutWf (execVwaitSet o s) :=
  vwaitInstr_wf hw fun _ _ _ _ => waitSettled_mem

theorem execVwaitSets_wf (o : OpX) {s : State} (hw : Memory.wf s.mem = true) : OutWf (execVwaitSets o s) :=
  vwaitInstr_wf hw fun _ _ _ _ => waitSettled_mem

theorem execVwaitPoll_wf (o : OpX) {s : State} (hw : Memory.wf s.mem = true) : OutWf (execVwaitPoll o s) :=
  vwaitInstr_wf hw fun _ _ _ _ => waitHandle_mem

theorem execAgentIllegalWord_wf (w : Word) {s : State} (hw : Memory.wf s.mem = true) :
    OutWf (execAgentIllegalWord w s) := by
  unfold execAgentIllegalWord
  split
  · trivial
  · split
    · trivial
    · exact outWf_ite _ trivial (by simp [hw])

theorem execAgentFetchFault_wf {s : State} (hw : Memory.wf s.mem = true) : OutWf (execAgentFetchFault s) := by
  unfold execAgentFetchFault
  split
  · trivial
  · split
    · trivial
    · simp [hw]

theorem execARet_wf (o : OpC) {s : State} (hw : Memory.wf s.mem = true) : OutWf (execARet o s) :=
  agentWord_wf hw fun k => outWf_ite _ (by simp [hw]) (by simp [hw])

theorem execALd_wf (o : OpC) {s : State} (hw : Memory.wf s.mem = true) : OutWf (execALd o s) :=
  agentWord_wf hw fun k => by
    refine outWf_ite _ (by simp [hw]) ?_
    split
    · simp [hw]
    · exact outWf_ite _ hw (by simp [hw])

theorem execASt_wf (o : OpC) {s : State} (hw : Memory.wf s.mem = true) : OutWf (execASt o s) :=
  agentWord_wf hw fun k => by
    refine outWf_ite _ (by simp [hw]) ?_
    split <;> simp [hw]

theorem execAWaitSig_wf (o : OpC) {s : State} (hw : Memory.wf s.mem = true) : OutWf (execAWaitSig o s) :=
  agentWord_wf hw fun k => outWf_ite _ hw (by simp [hw])

theorem execASigSlot_wf (o : OpC) {s : State} (hw : Memory.wf s.mem = true) : OutWf (execASigSlot o s) :=
  agentWord_wf hw fun k => outWf_ite _ (by simp [hw]) (by simp [hw])

theorem execAKlaunch_wf (o : OpC) {s : State} (hw : Memory.wf s.mem = true) : OutWf (execAKlaunch o s) :=
  agentWord_wf hw fun k => outWf_ite _ (by simp [hw]) (by simp [hw])

theorem execCTrim_wf (o : OpC) {s : State} (hw : Memory.wf s.mem = true) : OutWf (execCTrim o s) :=
  agentWord_wf hw fun k => onCtx_wf hw fun c => answer_wf _ _ _ _ (by simp [hw])

theorem execCLen_wf (o : OpC) {s : State} (hw : Memory.wf s.mem = true) : OutWf (execCLen o s) :=
  agentWord_wf hw fun _ => onCtx_wf hw fun _ => answer_wf _ _ _ _ hw

theorem execCRead_wf (o : OpC) {s : State} (hw : Memory.wf s.mem = true) : OutWf (execCRead o s) :=
  agentWord_wf hw fun k => onCtx_wf hw fun c => by
    refine outWf_ite _ (by simp [hw]) ?_
    split
    · simp [hw]
    · rename_i e
      exact answer_wf _ _ _ _ (amWrite_wf e hw)

theorem execCPin_wf (o : OpC) {s : State} (hw : Memory.wf s.mem = true) : OutWf (execCPin o s) :=
  agentWord_wf hw fun k => onCtx_wf hw fun c => by
    have hm (l : List ℕ) (s : State) : (l.foldl (fun s n => cancelTwilight s k.tenant n) s).mem = s.mem :=
      foldl_mem (fun s n => by simp) l s
    refine outWf_ite _ (answer_wf _ _ _ _ hw) (outWf_ite _ (answer_wf _ _ _ _ (by simp [hw])) (outWf_ite _ (answer_wf _ _ _ _ hw)
      (outWf_ite _ (answer_wf _ _ _ _ hw) (outWf_ite _ (answer_wf _ _ _ _ ?_) ?_)))) <;> simp [hm, hw]

theorem execCProg_wf (o : OpC) {s : State} (hw : Memory.wf s.mem = true) : OutWf (execCProg o s) :=
  agentWord_wf hw fun k => onCtx_wf hw fun c => by
    refine outWf_ite _ (by simp [hw]) ?_
    split
    · simp [hw]
    · rename_i e
      exact answer_wf _ _ _ _ (amWrite_wf e hw)

theorem execCBind_wf (o : OpC) {s : State} (hw : Memory.wf s.mem = true) : OutWf (execCBind o s) :=
  agentWord_wf hw fun k => onCtx_wf hw fun c => by
    refine outWf_ite _ (answer_wf _ _ _ _ hw) ?_
    split
    · exact answer_wf _ _ _ _ hw
    · exact outWf_ite _ (answer_wf _ _ _ _ hw) (answer_wf _ _ _ _ (by simp [hw]))

theorem execCGram_wf (o : OpC) {s : State} (hw : Memory.wf s.mem = true) : OutWf (execCGram o s) :=
  agentWord_wf hw fun k => onCtx_wf hw fun c => by
    refine outWf_ite _ (by simp [hw]) (outWf_ite _ (by simp [hw]) (outWf_ite _ (answer_wf _ _ _ _ hw) ?_))
    split
    · exact answer_wf _ _ _ _ hw
    · exact outWf_ite _ (answer_wf _ _ _ _ (by simp [hw]))
        (outWf_ite _ (answer_wf _ _ _ _ hw) (answer_wf _ _ _ _ (by simp [hw])))

theorem execCSamp_wf (o : OpC) {s : State} (hw : Memory.wf s.mem = true) : OutWf (execCSamp o s) :=
  agentWord_wf hw fun k => by
    refine outWf_ite _ (by simp [hw]) (outWf_ite _ hw ?_)
    split
    · simp [hw]
    · rename_i e
      have h := amRead_wf e hw
      exact outWf_ite _ (answer_wf _ _ _ _ (by simpa using h)) (answer_wf _ _ _ _ h)

theorem longWf_ite (c : Prop) [Decidable c] {a b : LongIssue} (ha : LongWf a) (hb : LongWf b) :
    LongWf (if c then a else b) := by
  split <;> assumption

theorem amBytes_error {s : State} {k : Slot} {off : Word} {n : ℕ} {r : LongIssue} (h : amBytes s k off n = .error r) :
    LongWf r := by
  unfold amBytes at h
  repeat' split at h
  all_goals cases h
  all_goals trivial

theorem amOperand_wf {s : State} {k : Slot} {off : Word} {n limit align : ℕ} {f : State → List Byte → LongIssue}
    (hw : Memory.wf s.mem = true) (hf : ∀ s bs, Memory.wf s.mem = true → LongWf (f s bs)) :
    LongWf (amOperand s k off n limit align f) := by
  unfold amOperand
  refine longWf_ite _ (hf _ _ hw) (longWf_ite _ trivial ?_)
  split
  · rename_i e
    exact amBytes_error e
  · rename_i e
    exact hf _ _ (amBytes_wf e hw)

theorem stopOperand_wf {s : State} {k : Slot} {o : OpC} {want : Bool} {f : State → Option (List (List Byte)) → LongIssue}
    (hw : Memory.wf s.mem = true) (hf : ∀ s l, Memory.wf s.mem = true → LongWf (f s l)) :
    LongWf (stopOperand s k o want f) := by
  unfold stopOperand
  refine longWf_ite _ (hf _ _ hw) (longWf_ite _ trivial ?_)
  split
  · rename_i e
    exact amBytes_error e
  · rename_i e
    have h := amBytes_wf e hw
    refine longWf_ite _ (hf _ _ h) ?_
    split
    · exact hf _ _ h
    · exact longWf_ite _ trivial (hf _ _ h)

theorem needBound_wf {s : State} {c : Ctx} {f : Model → LongIssue} (hw : Memory.wf s.mem = true) (hf : ∀ m, LongWf (f m)) :
    LongWf (needBound s c f) := by
  unfold needBound
  refine longWf_ite _ hw ?_
  split
  · exact hw
  · exact hf _

theorem readAlts_error {k : Slot} : ∀ {l : List (ℕ × ℕ)} {s : State} {r : LongIssue}, readAlts k l s = .error r → LongWf r
  | [], _, _, h => by cases h
  | (off, n) :: rest, s, r, h => by
    unfold readAlts at h
    split at h
    · cases h
    · split at h
      · cases h
        trivial
      · simp only [bind, Except.bind] at h
        split at h
        · rename_i e
          cases h
          exact amBytes_error e
        · split at h
          · rename_i e
            cases h
            exact readAlts_error e
          · cases h

theorem execCApp_wf (o : OpC) {s : State} (hw : Memory.wf s.mem = true) : OutWf (execCApp o s) :=
  longWord_wf hw fun _ _ _ => amOperand_wf hw fun _ _ h => needBound_wf h fun _ => longWf_ite _ h h

theorem execCGen_wf (o : OpC) {s : State} (hw : Memory.wf s.mem = true) : OutWf (execCGen o s) :=
  longWord_wf hw fun k c l => stopOperand_wf hw fun s st h => needBound_wf h fun _ => by
    split
    · exact h
    · exact longWf_ite _ h (longWf_ite _ h h)

theorem execCScore_wf (o : OpC) {s : State} (hw : Memory.wf s.mem = true) : OutWf (execCScore o s) :=
  longWord_wf hw fun _ _ _ => amOperand_wf hw fun _ _ h =>
    longWf_ite _ trivial (needBound_wf h fun _ => longWf_ite _ h (longWf_ite _ h h))

theorem execCChoose_wf (o : OpC) {s : State} (hw : Memory.wf s.mem = true) : OutWf (execCChoose o s) :=
  longWord_wf hw fun k c l => amOperand_wf hw fun s bs h => by
    dsimp only
    split
    · rename_i e
      exact readAlts_error e
    · rename_i e
      have h2 := readAlts_wf e h
      refine longWf_ite _ trivial (needBound_wf h2 fun _ => ?_)
      split
      · exact h2
      · exact longWf_ite _ h2 (longWf_ite _ h2 h2)

theorem execCSpec_wf (o : OpC) {s : State} (hw : Memory.wf s.mem = true) : OutWf (execCSpec o s) :=
  longWord_wf hw fun k c l => by
    dsimp only
    split
    · trivial
    · refine stopOperand_wf hw fun s st h => needBound_wf h fun _ => ?_
      split
      · exact h
      · exact longWf_ite _ h (longWf_ite _ h h)

theorem execEvictionStart_wf (v : ℕ) {s : State} (hw : Memory.wf s.mem = true) : OutWf (execEvictionStart v s) := by
  unfold execEvictionStart
  refine outWf_ite _ trivial ?_
  split
  · trivial
  · exact outWf_ite _ (by simp [hw]) trivial

/-- A function that a proof works on under a name of its own: the kernel is not to evaluate it where a `match` on its
result is compared with itself. -/
theorem exists_named {α : Sort*} (a : α) : ∃ b, b = a := ⟨a, rfl⟩

theorem execEvictionCommit_wf (v page : ℕ) {s : State} (hw : Memory.wf s.mem = true) :
    OutWf (execEvictionCommit v page s) := by
  obtain ⟨span, hspan⟩ := exists_named placeSpan
  obtain ⟨frame, hframe⟩ := exists_named frameCells
  have hs : ∀ s v place want, (span s v place want).1.mem = s.mem := hspan ▸ placeSpan_mem
  have hf : ∀ s pa, Memory.wf s.mem = true → Memory.wf (frame s pa).1.mem = true := hframe ▸ frameCells_wf
  unfold execEvictionCommit
  rw [← hspan, ← hframe]
  split
  · trivial
  · split
    · rename_i p _ _ _ pl _ _
      have hf := hf s p.pa hw
      have h := hs (frame s p.pa).1 v pl .wr
      refine outWf_ite _ trivial ?_
      dsimp only
      split <;> rename_i e <;> rw [e] at h
      · exact (congrArg (Memory.wf · = true) h).mpr hf
      · trivial
      · exact takeFaults_wf _ (by
          rw [evictIndexOnly_mem, updPage_mem]
          exact writePlace_wf _ _ _ _ ((congrArg (Memory.wf · = true) h).mpr hf))
    · trivial

theorem execPromotionStart_wf (v : ℕ) {s : State} (hw : Memory.wf s.mem = true) : OutWf (execPromotionStart v s) := by
  unfold execPromotionStart
  dsimp only
  split
  · simp [hw]
  · trivial

theorem execPromotionComplete_wf (v page : ℕ) (lost : List Host.Cell) {s : State} (hw : Memory.wf s.mem = true) :
    OutWf (execPromotionComplete v page lost s) := by
  obtain ⟨span, hspan⟩ := exists_named placeSpan
  obtain ⟨read, hread⟩ := exists_named readPlace
  have hs : ∀ s v place want, (span s v place want).1.mem = s.mem := hspan ▸ placeSpan_mem
  have hr : ∀ s l, Memory.wf s.mem = true → Memory.wf (read s l).1.mem = true := hread ▸ readPlace_wf
  unfold execPromotionComplete
  rw [← hspan, ← hread]
  split
  · trivial
  · split
    · rename_i p _ _ _ pl _ _
      have h : Memory.wf (span s v pl .rd).1.mem = true := by rw [hs, hw]
      refine outWf_ite _ trivial ?_
      split <;> rename_i e <;> rw [e] at h
      · exact h
      · trivial
      · rename_i s1 l
        have h2 := hr s1 l h
        split
        rename_i s2 kept tag e2
        rw [e2] at h2
        dsimp only
        refine outWf_ite _ ?_ ?_
        · exact failPage_wf _ _ _ ((congrArg (Memory.wf · = true) (queueRecord_mem ..)).mpr h2)
        · generalize tagOf _ = w
          split
          · exact failPage_wf _ _ _ h2
          · rw [outWf_next]
            refine takeFaults_wf _ (settleAppends_wf _ ?_)
            rw [settlePins_mem, updPage_mem]
            exact fillFrame_wf _ _ _ h2
    · trivial

@[simp] theorem commitAgent_wf (bad : Bool) (m : Model) (st : State × Made) (es : List (Seat × ℕ)) (hw : Memory.wf st.1.mem = true) :
    Memory.wf (commitAgent bad m st es).1.mem = true := by
  unfold commitAgent
  dsimp only
  split
  · exact hw
  · split
    · exact hw
    · split
      · simp [hw]
      · split <;> simp [hw]

theorem execIntegrityFailure_wf (v page : ℕ) {s : State} (hw : Memory.wf s.mem = true) :
    OutWf (execIntegrityFailure v page s) := by
  unfold execIntegrityFailure
  split
  · trivial
  · exact outWf_ite _ trivial (by simp [hw])

theorem execBlockRehome_wf (v ctx block : ℕ) {s : State} (hw : Memory.wf s.mem = true) :
    OutWf (execBlockRehome v ctx block s) := by
  unfold execBlockRehome
  split
  · trivial
  · rename_i new pages _
    have h : Memory.wf (pages.foldl (init := s) fun s n => updPage s v n fun p => { p with home := new }).mem = true :=
      foldl_wf (fun s n h => by simp [h]) pages hw
    dsimp only
    split <;> simp [h]

theorem execStepFill_wf (v inst : ℕ) {s : State} (hw : Memory.wf s.mem = true) : OutWf (execStepFill v inst s) := by
  unfold execStepFill
  split
  · trivial
  · exact outWf_ite _ trivial (outWf_ite _ trivial (beginStep_wf _ _ _ _ _ _ (by simp [hw])))

theorem execStepCommit_wf (v inst : ℕ) {s : State} (hw : Memory.wf s.mem = true) : OutWf (execStepCommit v inst s) := by
  unfold execStepCommit
  split
  · refine outWf_ite _ trivial ?_
    refine takeFaults_wf _ (integrityActs_wf _ _ (pinEvictions_wf _ _ _ (foldl_wf (fun s n h => by simp [h]) _ ?_)))
    rw [sweepPages_mem, setCtx_mem]
    exact foldl_fst_wf (fun p es h => by simp [h]) _ (p := (s, [])) hw
  · trivial

theorem execContextRestore_wf (v c : ℕ) {s : State} (hw : Memory.wf s.mem = true) : OutWf (execContextRestore v c s) := by
  unfold execContextRestore
  dsimp only
  split
  · trivial
  · split
    · trivial
    · rename_i e
      split at e
      · have h := restoreChip_wf e hw
        split <;> simp [h]
      · cases e

theorem execGroupZeroingDone_wf (g : ℕ) {s : State} (hw : Memory.wf s.mem = true) : OutWf (execGroupZeroingDone g s) :=
  outWf_ite _ trivial (by simp [hw])

theorem execFormatRangeWrite_wf (reg word : ℕ) (val : Word) {s : State} (hw : Memory.wf s.mem = true) :
    OutWf (execFormatRangeWrite reg word val s) :=
  outWf_ite _ trivial (outWf_ite _ (by simp [hw]) (by simp [hw]))

theorem execContextSave_wf (v c : ℕ) {s : State} (hw : Memory.wf s.mem = true) : OutWf (execContextSave v c s) := by
  unfold execContextSave
  refine outWf_ite _ trivial (takeFaults_wf _ (leavePcmd_wf _ _ _ (saveCluster_wf _ _ _ ?_)))
  split <;> simp [hw]

theorem execTenantBlockWrite_wf (v off : ℕ) (val : Word) {s : State} (hw : Memory.wf s.mem = true) :
    OutWf (execTenantBlockWrite v off val s) := outWf_ite _ trivial (takeBlock_wf _ _ _ _ hw)

theorem execClusterLeavePartition_wf (v c : ℕ) {s : State} (hw : Memory.wf s.mem = true) :
    OutWf (execClusterLeavePartition v c s) := by
  have hm (l : List (ℕ × ℕ)) (s : State) : (l.foldl (fun s w => forgetLost s w.1 w.2) s).mem = s.mem :=
    foldl_mem (fun s n => by simp) l s
  exact outWf_ite _ trivial (by simp [hm, hw])

theorem outState_wf {s : State} {o : Out} (ho : OutWf o) (hw : Memory.wf s.mem = true) :
    Memory.wf (outState s o).mem = true := by
  cases o with
  | next t => exact ho
  | fault r => exact hw
  | refused r => exact hw

@[simp] theorem writePage_wf (s : State) (v off size : ℕ) (val : Word) (hw : Memory.wf s.mem = true) :
    Memory.wf (writePage s v off size val).mem = true := by
  have hc (u : Tenant) : Memory.wf (if (tenantOf s v).vstate == 1 then putTenant s v u else s).mem = true := by
    split <;> simp [hw]
  unfold writePage
  dsimp only
  split
  case h_2 => split <;> simp [hw]
  case h_14 => split <;> simp [hw, outState_wf, execLqDoorbell_wf]
  case h_15 => exact outState_wf (execInvWrite_wf _ _ _ hw) hw
  case h_16 => split <;> simp [hw, outState_wf, execPriRestart_wf]
  case h_18 => exact outState_wf (execSuplWrite_wf _ _ _ hw) hw
  all_goals simp [hw]

@[simp] theorem writePf_wf (s : State) (off : ℕ) (val : Word) (hw : Memory.wf s.mem = true) :
    Memory.wf (writePf s off val).mem = true := by
  unfold writePf
  repeat' split
  all_goals simp [hw, outState_wf, execTenantBlockWrite_wf, execFormatRangeWrite_wf]

theorem execRegisterWrite_wf (fn bar off size : ℕ) (val : Word) {s : State} (hw : Memory.wf s.mem = true) :
    OutWf (execRegisterWrite fn bar off size val s) := by
  refine outWf_ite _ trivial (outWf_ite _ hw (outWf_ite _ ?_ (outWf_ite _ (by simp [hw]) ?_)))
  · rw [outWf_next]
    split <;> simp [hw]
  · rw [outWf_next]
    split <;> simp [hw]

theorem readRegister_wf (fn bar off size : ℕ) {s : State} (hw : Memory.wf s.mem = true) :
    OutWf (readRegister fn bar off size s) := by
  refine outWf_ite _ trivial (outWf_ite _ (outWf_ite _ trivial (by simp [hw])) (outWf_ite _ ?_ (outWf_ite _ (by simp [hw]) trivial)))
  dsimp only
  split <;> simp [hw]

theorem execApertureAccess_wf (v off size : ℕ) (wr : Bool) (val : Word) {s : State} (hw : Memory.wf s.mem = true) :
    OutWf (execApertureAccess v off size wr val s) := by
  unfold execApertureAccess
  refine outWf_ite _ trivial ?_
  split
  · rw [outWf_next]
    split <;> simp [hw]
  · exact outWf_ite _ (by simp [hw]) (outWf_ite _ trivial (by simp [hw]))

theorem loadsModel_wf (m : Model) {s : State} (hw : Memory.wf s.mem = true) : OutWf (loadsModel m s) :=
  outWf_ite _ trivial (by simp [hw])

theorem unloadsModel_wf (v num : ℕ) {s : State} (hw : Memory.wf s.mem = true) : OutWf (unloadsModel v num s) :=
  outWf_ite _ trivial (by simp [hw])

theorem fetchesAhead_wf (c key : ℕ) {s : State} (hw : Memory.wf s.mem = true) : OutWf (fetchesAhead c key s) :=
  outWf_ite _ trivial (by simp [hw])

theorem readsAhead_wf (cmd : ℕ) (ea : Word) {s : State} (hw : Memory.wf s.mem = true) : OutWf (readsAhead cmd ea s) := by
  unfold readsAhead
  split
  · exact readAheadTask_wf _ _ hw
  · exact moveReadAhead_wf _ _ hw

theorem drains_wf (cmd : ℕ) (ea : Word) {s : State} (hw : Memory.wf s.mem = true) : OutWf (drains cmd ea s) := by
  unfold drains
  split
  · exact drainTask_wf _ _ hw
  · exact moveDrain_wf _ _ hw

theorem poisonSector_wf (slice set way sector : ℕ) {s : State} (hw : Memory.wf s.mem = true) :
    OutWf (poisonSector slice set way sector s) := by
  unfold poisonSector
  split
  · trivial
  · exact outWf_ite _ trivial (by simp [hw])

end Sys2Proof.Proofs.Canonical
end

section
/-! SUPPORT. Every instruction, move and step keeps memory canonical (O59). -/

namespace Sys2Proof.Proofs.Canonical

open Sys2Proof.Machine Sys2Proof.Laws.State Sys2Proof.Laws.Memory

theorem linkTrained_wf (link : ℕ) {s : State} (hw : Memory.wf s.mem = true) : OutWf (linkTrained link s) :=
  outWf_ite _ trivial (by simp [hw])

/-- Every instruction and event leaves a canonical memory canonical. -/
theorem exec_wf (i : Instr) {s : State} (hw : Memory.wf s.mem = true) : OutWf (exec i s) := by
  cases i with
  | aluAdd o => exact show OutWf (execAluAdd o s) from scalarAB_wf _ _ _ _ hw
  | aluSub o => exact show OutWf (execAluSub o s) from scalarAB_wf _ _ _ _ hw
  | aluAnd o => exact show OutWf (execAluAnd o s) from scalarAB_wf _ _ _ _ hw
  | aluOr o => exact show OutWf (execAluOr o s) from scalarAB_wf _ _ _ _ hw
  | aluXor o => exact show OutWf (execAluXor o s) from scalarAB_wf _ _ _ _ hw
  | aluShl o => exact show OutWf (execAluShl o s) from scalarAB_wf _ _ _ _ hw
  | aluShr o => exact show OutWf (execAluShr o s) from scalarAB_wf _ _ _ _ hw
  | aluSra o => exact show OutWf (execAluSra o s) from scalarAB_wf _ _ _ _ hw
  | alui o => exact show OutWf (execAlui o s) from fileInstr_wf _ _ _ _ _ hw
  | muldivMul o => exact show OutWf (execMuldivMul o s) from scalarAB_wf _ _ _ _ hw
  | muldivMulh o => exact show OutWf (execMuldivMulh o s) from scalarAB_wf _ _ _ _ hw
  | muldivMulhu o => exact show OutWf (execMuldivMulhu o s) from scalarAB_wf _ _ _ _ hw
  | muldivDiv o => exact show OutWf (execMuldivDiv o s) from scalarAB_wf _ _ _ _ hw
  | muldivDivu o => exact show OutWf (execMuldivDivu o s) from scalarAB_wf _ _ _ _ hw
  | muldivRem o => exact show OutWf (execMuldivRem o s) from scalarAB_wf _ _ _ _ hw
  | muldivRemu o => exact show OutWf (execMuldivRemu o s) from scalarAB_wf _ _ _ _ hw
  | bitsClz o => exact show OutWf (execBitsClz o s) from scalarAB_wf _ _ _ _ hw
  | bitsCtz o => exact show OutWf (execBitsCtz o s) from scalarAB_wf _ _ _ _ hw
  | bitsPopc o => exact show OutWf (execBitsPopc o s) from scalarAB_wf _ _ _ _ hw
  | bitsBrev o => exact show OutWf (execBitsBrev o s) from scalarAB_wf _ _ _ _ hw
  | bitsBswap o => exact show OutWf (execBitsBswap o s) from scalarAB_wf _ _ _ _ hw
  | bitsExtu o => exact show OutWf (execBitsExtu o s) from scalarAB_wf _ _ _ _ hw
  | bitsExts o => exact show OutWf (execBitsExts o s) from scalarAB_wf _ _ _ _ hw
  | bitsRotr o => exact show OutWf (execBitsRotr o s) from scalarAB_wf _ _ _ _ hw
  | minmaxMin o => exact show OutWf (execMinmaxMin o s) from scalarAB_wf _ _ _ _ hw
  | minmaxMax o => exact show OutWf (execMinmaxMax o s) from scalarAB_wf _ _ _ _ hw
  | minmaxMinu o => exact show OutWf (execMinmaxMinu o s) from scalarAB_wf _ _ _ _ hw
  | minmaxMaxu o => exact show OutWf (execMinmaxMaxu o s) from scalarAB_wf _ _ _ _ hw
  | minmaxAbs o => exact show OutWf (execMinmaxAbs o s) from scalarAB_wf _ _ _ _ hw
  | minmaxAdds o => exact show OutWf (execMinmaxAdds o s) from scalarAB_wf _ _ _ _ hw
  | minmaxSubs o => exact show OutWf (execMinmaxSubs o s) from scalarAB_wf _ _ _ _ hw
  | cmpEq o => exact show OutWf (execCmpEq o s) from condAB_wf _ _ _ _ hw
  | cmpNe o => exact show OutWf (execCmpNe o s) from condAB_wf _ _ _ _ hw
  | cmpLt o => exact show OutWf (execCmpLt o s) from condAB_wf _ _ _ _ hw
  | cmpGe o => exact show OutWf (execCmpGe o s) from condAB_wf _ _ _ _ hw
  | cmpLtu o => exact show OutWf (execCmpLtu o s) from condAB_wf _ _ _ _ hw
  | cmpGeu o => exact show OutWf (execCmpGeu o s) from condAB_wf _ _ _ _ hw
  | cmpTst o => exact show OutWf (execCmpTst o s) from condAB_wf _ _ _ _ hw
  | cmpiEq o => exact show OutWf (execCmpiEq o s) from fileInstr_wf _ _ _ _ _ hw
  | cmpiNe o => exact show OutWf (execCmpiNe o s) from fileInstr_wf _ _ _ _ _ hw
  | cmpiLt o => exact show OutWf (execCmpiLt o s) from fileInstr_wf _ _ _ _ _ hw
  | cmpiLtu o => exact show OutWf (execCmpiLtu o s) from fileInstr_wf _ _ _ _ _ hw
  | plogAnd o => exact show OutWf (execPlogAnd o s) from fileInstr_wf _ _ _ _ _ hw
  | plogOr o => exact show OutWf (execPlogOr o s) from fileInstr_wf _ _ _ _ _ hw
  | plogXor o => exact show OutWf (execPlogXor o s) from fileInstr_wf _ _ _ _ _ hw
  | plogAndn o => exact show OutWf (execPlogAndn o s) from fileInstr_wf _ _ _ _ _ hw
  | plogNot o => exact show OutWf (execPlogNot o s) from fileInstr_wf _ _ _ _ _ hw
  | plogSetx o => exact show OutWf (execPlogSetx o s) from fileInstr_wf _ _ _ _ _ hw
  | plogGetx o => exact show OutWf (execPlogGetx o s) from fileInstr_wf _ _ _ _ _ hw
  | gmovGet o => exact show OutWf (execGmovGet o s) from gmov_wf _ _ _ _ hw
  | gmovAgree o => exact show OutWf (execGmovAgree o s) from gmov_wf _ _ _ _ hw
  | gmovPut o => exact show OutWf (execGmovPut o s) from gmov_wf _ _ _ _ hw
  | gmovAny o => exact show OutWf (execGmovAny o s) from gmov_wf _ _ _ _ hw
  | gmovAll o => exact show OutWf (execGmovAll o s) from gmov_wf _ _ _ _ hw
  | gmovCount o => exact show OutWf (execGmovCount o s) from gmov_wf _ _ _ _ hw
  | idLvl o => exact show OutWf (execIdLvl o s) from idValue_wf _ _ _ _ hw
  | idCore o => exact show OutWf (execIdCore o s) from idValue_wf _ _ _ _ hw
  | idGpos o => exact show OutWf (execIdGpos o s) from idValue_wf _ _ _ _ hw
  | idGwid o => exact show OutWf (execIdGwid o s) from idValue_wf _ _ _ _ hw
  | idClus o => exact show OutWf (execIdClus o s) from idValue_wf _ _ _ _ hw
  | idCnt o => exact show OutWf (execIdCnt o s) from idValue_wf _ _ _ _ hw
  | idLane o => exact show OutWf (execIdLane o s) from vecInstr_wf _ _ _ _ _ _ hw
  | idPkg o => exact show OutWf (execIdPkg o s) from idValue_wf _ _ _ _ hw
  | br _ => exact execBr_wf _ _ hw
  | jal _ => exact execJal_wf _ _ hw
  | jr _ => exact execJr_wf _ _ hw
  | endCommit _ => exact execEndCommit_wf _ hw
  | endRetry _ => exact execEndRetry_wf _ hw
  | endFail _ => exact execEndFail_wf _ hw
  | regionOpen _ => exact execRegionOpen_wf _ _ hw
  | regionClose o => exact show OutWf (execRegionClose o s) from fileInstr_wf _ _ _ _ _ hw
  | gangSplit _ => exact execGangSplit_wf _ _ hw
  | gangFuse _ => exact execGangFuse_wf _ _ hw
  | gangAlign _ => exact execGangAlign_wf _ _ hw
  | moviLo o => exact show OutWf (execMoviLo o s) from fileInstr_wf _ _ _ _ _ hw
  | moviHi o => exact show OutWf (execMoviHi o s) from fileInstr_wf _ _ _ _ _ hw
  | moviZ o => exact show OutWf (execMoviZ o s) from fileInstr_wf _ _ _ _ _ hw
  | alulAdd o => exact show OutWf (execAlulAdd o s) from fileInstr_wf _ _ _ _ _ hw
  | alulAnd o => exact show OutWf (execAlulAnd o s) from fileInstr_wf _ _ _ _ _ hw
  | alulOr o => exact show OutWf (execAlulOr o s) from fileInstr_wf _ _ _ _ _ hw
  | alulXor o => exact show OutWf (execAlulXor o s) from fileInstr_wf _ _ _ _ _ hw
  | alulShl o => exact show OutWf (execAlulShl o s) from fileInstr_wf _ _ _ _ _ hw
  | alulShr o => exact show OutWf (execAlulShr o s) from fileInstr_wf _ _ _ _ _ hw
  | alulSra o => exact show OutWf (execAlulSra o s) from fileInstr_wf _ _ _ _ _ hw
  | varithAdd o => exact show OutWf (execVarithAdd o s) from elementAB_wf _ _ _ _ hw
  | varithSub o => exact show OutWf (execVarithSub o s) from elementAB_wf _ _ _ _ hw
  | varithMul o => exact show OutWf (execVarithMul o s) from elementAB_wf _ _ _ _ hw
  | varithMin o => exact show OutWf (execVarithMin o s) from elementAB_wf _ _ _ _ hw
  | varithMax o => exact show OutWf (execVarithMax o s) from elementAB_wf _ _ _ _ hw
  | varithAdds o => exact show OutWf (execVarithAdds o s) from elementAB_wf _ _ _ _ hw
  | varithSubs o => exact show OutWf (execVarithSubs o s) from elementAB_wf _ _ _ _ hw
  | varithAbs o => exact show OutWf (execVarithAbs o s) from elementA_wf _ _ _ _ hw
  | vfmaFma o => exact show OutWf (execVfmaFma o s) from elementABD_wf _ _ _ _ hw
  | vfmaFms o => exact show OutWf (execVfmaFms o s) from elementABD_wf _ _ _ _ hw
  | vfmaFnma o => exact show OutWf (execVfmaFnma o s) from elementABD_wf _ _ _ _ hw
  | vfmaFnms o => exact show OutWf (execVfmaFnms o s) from elementABD_wf _ _ _ _ hw
  | vdotBf16 o => exact show OutWf (execVdotBf16 o s) from vdot_wf _ _ _ _ _ _ hw
  | vdotFp16 o => exact show OutWf (execVdotFp16 o s) from vdot_wf _ _ _ _ _ _ hw
  | vdotE4m3 o => exact show OutWf (execVdotE4m3 o s) from vdot_wf _ _ _ _ _ _ hw
  | vdotE5m2 o => exact show OutWf (execVdotE5m2 o s) from vdot_wf _ _ _ _ _ _ hw
  | vdotI8 o => exact show OutWf (execVdotI8 o s) from vdot_wf _ _ _ _ _ _ hw
  | vdotU8 o => exact show OutWf (execVdotU8 o s) from vdot_wf _ _ _ _ _ _ hw
  | vdotI8u8 o => exact show OutWf (execVdotI8u8 o s) from vdot_wf _ _ _ _ _ _ hw
  | vredAdd o => exact show OutWf (execVredAdd o s) from vred_wf _ _ _ _ hw
  | vredMin o => exact show OutWf (execVredMin o s) from vred_wf _ _ _ _ hw
  | vredMax o => exact show OutWf (execVredMax o s) from vred_wf _ _ _ _ hw
  | vredAddw o => exact show OutWf (execVredAddw o s) from vred_wf _ _ _ _ hw
  | vredAnd o => exact show OutWf (execVredAnd o s) from vred_wf _ _ _ _ hw
  | vredOr o => exact show OutWf (execVredOr o s) from vred_wf _ _ _ _ hw
  | vredXor o => exact show OutWf (execVredXor o s) from vred_wf _ _ _ _ hw
  | vredImax o => exact show OutWf (execVredImax o s) from vred_wf _ _ _ _ hw
  | vlogicAnd o => exact show OutWf (execVlogicAnd o s) from elementAB_wf _ _ _ _ hw
  | vlogicOr o => exact show OutWf (execVlogicOr o s) from elementAB_wf _ _ _ _ hw
  | vlogicXor o => exact show OutWf (execVlogicXor o s) from elementAB_wf _ _ _ _ hw
  | vlogicAndn o => exact show OutWf (execVlogicAndn o s) from elementAB_wf _ _ _ _ hw
  | vlogicNot o => exact show OutWf (execVlogicNot o s) from elementA_wf _ _ _ _ hw
  | vlogicShl o => exact show OutWf (execVlogicShl o s) from elementAB_wf _ _ _ _ hw
  | vlogicShr o => exact show OutWf (execVlogicShr o s) from elementAB_wf _ _ _ _ hw
  | vlogicSra o => exact show OutWf (execVlogicSra o s) from elementAB_wf _ _ _ _ hw
  | vcmpEq o => exact show OutWf (execVcmpEq o s) from vcmp_wf _ _ _ _ hw
  | vcmpNe o => exact show OutWf (execVcmpNe o s) from vcmp_wf _ _ _ _ hw
  | vcmpLt o => exact show OutWf (execVcmpLt o s) from vcmp_wf _ _ _ _ hw
  | vcmpLe o => exact show OutWf (execVcmpLe o s) from vcmp_wf _ _ _ _ hw
  | vcmpLtu o => exact show OutWf (execVcmpLtu o s) from vcmp_wf _ _ _ _ hw
  | vcmpLeu o => exact show OutWf (execVcmpLeu o s) from vcmp_wf _ _ _ _ hw
  | vcmpUn o => exact show OutWf (execVcmpUn o s) from vcmp_wf _ _ _ _ hw
  | vselSel o => exact show OutWf (execVselSel o s) from vecInstr_wf _ _ _ _ _ _ hw
  | vselZero o => exact show OutWf (execVselZero o s) from vecInstr_wf _ _ _ _ _ _ hw
  | vselCmpr o => exact show OutWf (execVselCmpr o s) from vecInstr_wf _ _ _ _ _ _ hw
  | vselExpd o => exact show OutWf (execVselExpd o s) from vecInstr_wf _ _ _ _ _ _ hw
  | vcvtRne o => exact show OutWf (execVcvtRne o s) from vecInstr_wf _ _ _ _ _ _ hw
  | vcvtRtz o => exact show OutWf (execVcvtRtz o s) from vecInstr_wf _ _ _ _ _ _ hw
  | vcvtRup o => exact show OutWf (execVcvtRup o s) from vecInstr_wf _ _ _ _ _ _ hw
  | vcvtRdn o => exact show OutWf (execVcvtRdn o s) from vecInstr_wf _ _ _ _ _ _ hw
  | vcvtSto o => exact show OutWf (execVcvtSto o s) from vecInstr_wf _ _ _ _ _ _ hw
  | vcvtWide o => exact show OutWf (execVcvtWide o s) from vecInstr_wf _ _ _ _ _ _ hw
  | vscaleLdexp o => exact show OutWf (execVscaleLdexp o s) from vecInstr_wf _ _ _ _ _ _ hw
  | vscaleMx o => exact show OutWf (execVscaleMx o s) from vecInstr_wf _ _ _ _ _ _ hw
  | vscaleSb4 o => exact show OutWf (execVscaleSb4 o s) from vecInstr_wf _ _ _ _ _ _ hw
  | vscaleCb o => exact show OutWf (execVscaleCb o s) from vecInstr_wf _ _ _ _ _ _ hw
  | vcbDec o => exact show OutWf (execVcbDec o s) from vecInstr_wf _ _ _ _ _ _ hw
  | vsfuExp2 o => exact show OutWf (execVsfuExp2 o s) from elementA_wf _ _ _ _ hw
  | vsfuLog2 o => exact show OutWf (execVsfuLog2 o s) from elementA_wf _ _ _ _ hw
  | vsfuRcp o => exact show OutWf (execVsfuRcp o s) from elementA_wf _ _ _ _ hw
  | vsfuRsqrt o => exact show OutWf (execVsfuRsqrt o s) from elementA_wf _ _ _ _ hw
  | vsfuSqrt o => exact show OutWf (execVsfuSqrt o s) from elementA_wf _ _ _ _ hw
  | vsfuSin o => exact show OutWf (execVsfuSin o s) from elementA_wf _ _ _ _ hw
  | vsfuCos o => exact show OutWf (execVsfuCos o s) from elementA_wf _ _ _ _ hw
  | vsfuTanh o => exact show OutWf (execVsfuTanh o s) from elementA_wf _ _ _ _ hw
  | vsfu2Sigm o => exact show OutWf (execVsfu2Sigm o s) from elementA_wf _ _ _ _ hw
  | vsfu2Gelut o => exact show OutWf (execVsfu2Gelut o s) from elementA_wf _ _ _ _ hw
  | vsfu2Gelue o => exact show OutWf (execVsfu2Gelue o s) from elementA_wf _ _ _ _ hw
  | vsfu2Silu o => exact show OutWf (execVsfu2Silu o s) from elementA_wf _ _ _ _ hw
  | vsfu2Erf o => exact show OutWf (execVsfu2Erf o s) from elementA_wf _ _ _ _ hw
  | vsfu2Softp o => exact show OutWf (execVsfu2Softp o s) from elementA_wf _ _ _ _ hw
  | vmovMov o => exact show OutWf (execVmovMov o s) from elementA_wf _ _ _ _ hw
  | vmovBcast o => exact show OutWf (execVmovBcast o s) from vecInstr_wf _ _ _ _ _ _ hw
  | vmovIns o => exact show OutWf (execVmovIns o s) from vecInstr_wf _ _ _ _ _ _ hw
  | vmovExt o => exact show OutWf (execVmovExt o s) from vecInstr_wf _ _ _ _ _ _ hw
  | vpermPerm o => exact show OutWf (execVpermPerm o s) from permute_wf _ _ _ _ _ hw
  | vpermZiplo o => exact show OutWf (execVpermZiplo o s) from permute_wf _ _ _ _ _ hw
  | vpermZiphi o => exact show OutWf (execVpermZiphi o s) from permute_wf _ _ _ _ _ hw
  | vpermUzpe o => exact show OutWf (execVpermUzpe o s) from permute_wf _ _ _ _ _ hw
  | vpermUzpo o => exact show OutWf (execVpermUzpo o s) from permute_wf _ _ _ _ _ hw
  | vpermSplat o => exact show OutWf (execVpermSplat o s) from permute_wf _ _ _ _ _ hw
  | vpermRev o => exact show OutWf (execVpermRev o s) from permute_wf _ _ _ _ _ hw
  | vlinkPop o => exact show OutWf (execVlinkPop o s) from vecInstr_wf _ _ _ _ _ _ hw
  | vlinkPeek o => exact show OutWf (execVlinkPeek o s) from vecInstr_wf _ _ _ _ _ _ hw
  | vlinkSkip o => exact show OutWf (execVlinkSkip o s) from vecInstr_wf _ _ _ _ _ _ hw
  | sendX o => exact show OutWf (execSendX o s) from sendInstr_wf _ _ _ _ _ _ _ _ _ hw
  | sendV o => exact show OutWf (execSendV o s) from sendInstr_wf _ _ _ _ _ _ _ _ _ hw
  | sendNz o => exact show OutWf (execSendNz o s) from sendInstr_wf _ _ _ _ _ _ _ _ _ hw
  | recvW o => exact show OutWf (execRecvW o s) from recvInstr_wf _ _ _ _ hw
  | recvTry o => exact show OutWf (execRecvTry o s) from recvInstr_wf _ _ _ _ hw
  | recvHdr o => exact show OutWf (execRecvHdr o s) from recvInstr_wf _ _ _ _ hw
  | recvDrop o => exact show OutWf (execRecvDrop o s) from recvInstr_wf _ _ _ _ hw
  | chanSlot o => exact show OutWf (execChanSlot o s) from chanInstr_wf _ _ _ _ hw
  | chanHdr o => exact show OutWf (execChanHdr o s) from chanInstr_wf _ _ _ _ hw
  | chanCnt o => exact show OutWf (execChanCnt o s) from chanInstr_wf _ _ _ _ hw
  | barInit _ => exact execBarInit_wf _ hw
  | barArrive _ => exact execBarArrive_wf _ hw
  | barWait _ => exact execBarWait_wf _ hw
  | barSync _ => exact execBarSync_wf _ hw
  | barQuery _ => exact execBarQuery_wf _ hw
  | ldB o => exact show OutWf (execLdB o s) from loadScalar_wf _ _ _ _ hw
  | ldH o => exact show OutWf (execLdH o s) from loadScalar_wf _ _ _ _ hw
  | ldW o => exact show OutWf (execLdW o s) from loadScalar_wf _ _ _ _ hw
  | ldD o => exact show OutWf (execLdD o s) from loadScalar_wf _ _ _ _ hw
  | ldBs o => exact show OutWf (execLdBs o s) from loadScalar_wf _ _ _ _ hw
  | ldHs o => exact show OutWf (execLdHs o s) from loadScalar_wf _ _ _ _ hw
  | ldWs o => exact show OutWf (execLdWs o s) from loadScalar_wf _ _ _ _ hw
  | stB o => exact show OutWf (execStB o s) from storeScalar_wf _ _ _ hw
  | stH o => exact show OutWf (execStH o s) from storeScalar_wf _ _ _ hw
  | stW o => exact show OutWf (execStW o s) from storeScalar_wf _ _ _ hw
  | stD o => exact show OutWf (execStD o s) from storeScalar_wf _ _ _ hw
  | vldV _ => exact execVldV_wf _ hw
  | vldBc _ => exact execVldBc_wf _ hw
  | vstV o => exact show OutWf (execVstV o s) from storeVec_wf _ _ _ _ hw
  | vstE o => exact show OutWf (execVstE o s) from storeVec_wf _ _ _ _ hw
  | ldfKeep o => exact show OutWf (execLdfKeep o s) from wordInstr_wf _ _ _ _ hw
  | ldfTake o => exact show OutWf (execLdfTake o s) from wordInstr_wf _ _ _ _ hw
  | steFill o => exact show OutWf (execSteFill o s) from wordInstr_wf _ _ _ _ hw
  | steKeep o => exact show OutWf (execSteKeep o s) from wordInstr_wf _ _ _ _ hw
  | feTest o => exact show OutWf (execFeTest o s) from feInstr_wf _ _ _ _ _ hw
  | feSet o => exact show OutWf (execFeSet o s) from feInstr_wf _ _ _ _ _ hw
  | feClr o => exact show OutWf (execFeClr o s) from feInstr_wf _ _ _ _ _ hw
  | feTas o => exact show OutWf (execFeTas o s) from feInstr_wf _ _ _ _ _ hw
  | feSetr o => exact show OutWf (execFeSetr o s) from feSpan_wf _ _ _ _ hw
  | feClrr o => exact show OutWf (execFeClrr o s) from feSpan_wf _ _ _ _ hw
  | waitLe o => exact show OutWf (execWaitLe o s) from fileInstr_wf _ _ _ _ _ hw
  | waitLex o => exact show OutWf (execWaitLex o s) from fileInstr_wf _ _ _ _ _ hw
  | cachePf _ => exact execCachePf_wf _ hw
  | cachePfl1 _ => exact execCachePfl1_wf _ hw
  | cacheNu _ => exact execCacheNu_wf _ hw
  | cacheWb _ => exact execCacheWb_wf _ hw
  | cacheWbinv _ => exact execCacheWbinv_wf _ hw
  | rclkRead o => exact show OutWf (execRclkRead o s) from fileInstr_wf _ _ _ _ _ hw
  | rclkAdv _ => exact execRclkAdv_wf _ hw
  | rclkDflt o => exact show OutWf (execRclkDflt o s) from fileInstr_wf _ _ _ _ _ hw
  | pinWin _ => exact execPinWin_wf _ hw
  | pinSize _ => exact execPinSize_wf _ hw
  | amoAdd o => exact show OutWf (execAmoAdd o s) from atomicInstr_wf _ _ _ _ hw
  | amoAddb o => exact show OutWf (execAmoAddb o s) from atomicInstr_wf _ _ _ _ hw
  | amoMin o => exact show OutWf (execAmoMin o s) from atomicInstr_wf _ _ _ _ hw
  | amoMax o => exact show OutWf (execAmoMax o s) from atomicInstr_wf _ _ _ _ hw
  | amoAnd o => exact show OutWf (execAmoAnd o s) from atomicInstr_wf _ _ _ _ hw
  | amoOr o => exact show OutWf (execAmoOr o s) from atomicInstr_wf _ _ _ _ hw
  | amoXor o => exact show OutWf (execAmoXor o s) from atomicInstr_wf _ _ _ _ hw
  | amoSwap o => exact show OutWf (execAmoSwap o s) from atomicInstr_wf _ _ _ _ hw
  | cas o => exact show OutWf (execCas o s) from atomicInstr_wf _ _ _ _ hw
  | redAdd o => exact show OutWf (execRedAdd o s) from redInstr_wf _ _ _ hw
  | redMin o => exact show OutWf (execRedMin o s) from redInstr_wf _ _ _ hw
  | redMax o => exact show OutWf (execRedMax o s) from redInstr_wf _ _ _ hw
  | redAnd o => exact show OutWf (execRedAnd o s) from redInstr_wf _ _ _ hw
  | redOr o => exact show OutWf (execRedOr o s) from redInstr_wf _ _ _ hw
  | redXor o => exact show OutWf (execRedXor o s) from redInstr_wf _ _ _ hw
  | redFmin o => exact show OutWf (execRedFmin o s) from redInstr_wf _ _ _ hw
  | redFmax o => exact show OutWf (execRedFmax o s) from redInstr_wf _ _ _ hw
  | xlatProbe _ => exact execXlatProbe_wf _ hw
  | xlatTouch _ => exact execXlatTouch_wf _ hw
  | xlatInv _ => exact execXlatInv_wf _ hw
  | trap o => exact show OutWf (execTrap o s) from fileInstr_wf _ _ _ _ _ hw
  | sysR _ => exact execSysR_wf _ _ hw
  | sysW _ => exact execSysW_wf _ hw
  | vstopCur _ => exact execVstopCur_wf _ hw
  | vwaitVer _ => exact execVwaitVer_wf _ hw
  | vwaitFin _ => exact execVwaitFin_wf _ hw
  | vwaitSet _ => exact execVwaitSet_wf _ hw
  | vwaitSets _ => exact execVwaitSets_wf _ hw
  | vwaitPoll _ => exact execVwaitPoll_wf _ hw
  | illegalEncoding w0 w1 => exact show OutWf (execIllegalEncoding w0 w1 s) from fetchTrap_wf _ _ hw
  | instructionFetchFault addr sub w0 => exact show OutWf (execInstructionFetchFault addr sub w0 s) from fetchTrap_wf _ _ hw
  | agentIllegalWord _ => exact execAgentIllegalWord_wf _ hw
  | agentFetchFault => exact execAgentFetchFault_wf hw
  | fenceOrd _ => exact execFenceOrd_wf _ hw
  | taskMma o => exact show OutWf (execTaskMma o s) from taskInstr_wf _ _ _ _ _ hw
  | taskMmav o => exact show OutWf (execTaskMmav o s) from taskInstr_wf _ _ _ _ _ hw
  | taskEw o => exact show OutWf (execTaskEw o s) from taskInstr_wf _ _ _ _ _ hw
  | taskRed o => exact show OutWf (execTaskRed o s) from taskInstr_wf _ _ _ _ _ hw
  | taskCvt o => exact show OutWf (execTaskCvt o s) from taskInstr_wf _ _ _ _ _ hw
  | taskTr o => exact show OutWf (execTaskTr o s) from taskInstr_wf _ _ _ _ _ hw
  | cbldMe o => exact show OutWf (execCbldMe o s) from taskInstr_wf _ _ _ _ _ hw
  | cbldNb o => exact show OutWf (execCbldNb o s) from taskInstr_wf _ _ _ _ _ hw
  | copyCp o => exact show OutWf (execCopyCp o s) from engineInstr_wf _ _ _ _ hw
  | copyFill o => exact show OutWf (execCopyFill o s) from engineInstr_wf _ _ _ _ hw
  | copyChan o => exact show OutWf (execCopyChan o s) from engineInstr_wf _ _ _ _ hw
  | copyStat _ => exact execCopyStat_wf _ hw
  | copyRsm _ => exact execCopyRsm_wf _ hw
  | copyAbrt _ => exact execCopyAbrt_wf _ hw
  | gatherG o => exact show OutWf (execGatherG o s) from engineInstr_wf _ _ _ _ hw
  | gatherS o => exact show OutWf (execGatherS o s) from engineInstr_wf _ _ _ _ hw
  | twalkLd o => exact show OutWf (execTwalkLd o s) from engineInstr_wf _ _ _ _ hw
  | twalkWb o => exact show OutWf (execTwalkWb o s) from engineInstr_wf _ _ _ _ hw
  | nbmvMv o => exact show OutWf (execNbmvMv o s) from engineInstr_wf _ _ _ _ hw
  | attnBlk o => exact show OutWf (execAttnBlk o s) from engineInstr_wf _ _ _ _ hw
  | attnMrg o => exact show OutWf (execAttnMrg o s) from engineInstr_wf _ _ _ _ hw
  | sampleHist o => exact show OutWf (execSampleHist o s) from engineInstr_wf _ _ _ _ hw
  | sampleThr o => exact show OutWf (execSampleThr o s) from engineInstr_wf _ _ _ _ hw
  | sampleMass o => exact show OutWf (execSampleMass o s) from engineInstr_wf _ _ _ _ hw
  | sampleDraw o => exact show OutWf (execSampleDraw o s) from engineInstr_wf _ _ _ _ hw
  | textNorm o => exact show OutWf (execTextNorm o s) from engineInstr_wf _ _ _ _ hw
  | textTbl o => exact show OutWf (execTextTbl o s) from engineIssue_wf _ _ _ _ _ hw
  | aMoviLo o => exact show OutWf (execAMoviLo o s) from agentSet_wf _ _ _ _ hw
  | aMoviHi o => exact show OutWf (execAMoviHi o s) from agentSet_wf _ _ _ _ hw
  | aMoviZ o => exact show OutWf (execAMoviZ o s) from agentSet_wf _ _ _ _ hw
  | aMov o => exact show OutWf (execAMov o s) from agentSet_wf _ _ _ _ hw
  | aAdd o => exact show OutWf (execAAdd o s) from agentOp_wf _ _ _ hw
  | aSub o => exact show OutWf (execASub o s) from agentOp_wf _ _ _ hw
  | aAnd o => exact show OutWf (execAAnd o s) from agentOp_wf _ _ _ hw
  | aOr o => exact show OutWf (execAOr o s) from agentOp_wf _ _ _ hw
  | aXor o => exact show OutWf (execAXor o s) from agentOp_wf _ _ _ hw
  | aShl o => exact show OutWf (execAShl o s) from agentOp_wf _ _ _ hw
  | aShr o => exact show OutWf (execAShr o s) from agentOp_wf _ _ _ hw
  | aMul o => exact show OutWf (execAMul o s) from agentOp_wf _ _ _ hw
  | aCmp o => exact show OutWf (execACmp o s) from agentOp_wf _ _ _ hw
  | aBr _ => exact execABr_wf _ _ hw
  | aJmp _ => exact execAJmp_wf _ _ hw
  | aCall _ => exact execACall_wf _ _ hw
  | aRet _ => exact execARet_wf _ hw
  | aLd _ => exact execALd_wf _ hw
  | aSt _ => exact execASt_wf _ hw
  | aWaitPend _ => exact execAWaitPend_wf _ _ hw
  | aWaitSig _ => exact execAWaitSig_wf _ hw
  | aWaitAll o => exact show OutWf (execAWaitAll o s) from execAWaitAll_wf _ _ hw
  | aSigSlot _ => exact execASigSlot_wf _ hw
  | aSigHost _ => exact execASigHost_wf _ _ hw
  | aYield o => exact show OutWf (execAYield o s) from execAYield_wf _ _ hw
  | aHalt _ => exact execAHalt_wf _ _ hw
  | aKlaunch _ => exact execAKlaunch_wf _ hw
  | aFence o => exact show OutWf (execAFence o s) from execAFence_wf _ _ hw
  | cNew _ => exact execCNew_wf _ _ hw
  | cFork _ => exact execCFork_wf _ _ hw
  | cDrop _ => exact execCDrop_wf _ _ hw
  | cTrim _ => exact execCTrim_wf _ hw
  | cLen _ => exact execCLen_wf _ hw
  | cRead _ => exact execCRead_wf _ hw
  | cHint _ => exact execCHint_wf _ _ hw
  | cPin _ => exact execCPin_wf _ hw
  | cUnpin _ => exact execCUnpin_wf _ _ hw
  | cProg _ => exact execCProg_wf _ hw
  | cBind _ => exact execCBind_wf _ hw
  | cGram _ => exact execCGram_wf _ hw
  | cSamp _ => exact execCSamp_wf _ hw
  | cApp _ => exact execCApp_wf _ hw
  | cGen _ => exact execCGen_wf _ hw
  | cScore _ => exact execCScore_wf _ hw
  | cChoose _ => exact execCChoose_wf _ hw
  | cSpec _ => exact execCSpec_wf _ hw
  | powerOn => exact show OutWf (execPowerOn s) from outWf_ite _ trivial (by simp [hw])
  | partReady links => exact show OutWf (execPartReady links s) from outWf_ite _ trivial (by simp [hw])
  | registerWrite _ _ _ _ _ => exact execRegisterWrite_wf _ _ _ _ _ hw
  | partStatusErrorClear => exact execPartStatusErrorClear_wf _ hw
  | groupAssign g val => exact show OutWf (execGroupAssign g val s) from outWf_ite _ trivial (by simp [hw])
  | groupZeroingDone _ => exact execGroupZeroingDone_wf _ hw
  | groupRemove g val => exact show OutWf (execGroupRemove g val s) from outWf_ite _ trivial (by simp [hw])
  | formatRangeWrite _ _ _ => exact execFormatRangeWrite_wf _ _ _ hw
  | tenantBlockWrite _ _ _ => exact execTenantBlockWrite_wf _ _ _ hw
  | clusterLeavePartition _ _ => exact execClusterLeavePartition_wf _ _ hw
  | pcmdPreempt v val => exact show OutWf (execPcmdPreempt v val s) from outWf_ite _ trivial (by simp [hw])
  | pcmdPreemptUrgent v val => exact show OutWf (execPcmdPreemptUrgent v val s) from outWf_ite _ trivial (by simp [hw])
  | pcmdResume v val => exact show OutWf (execPcmdResume v val s) from outWf_ite _ trivial (by simp [hw])
  | contextSave _ _ => exact execContextSave_wf _ _ hw
  | contextRestore _ _ => exact execContextRestore_wf _ _ hw
  | vcmdReady _ => exact execVcmdReady_wf _ _ hw
  | vcmdReset v => exact show OutWf (execVcmdReset v s) from outWf_ite _ (by simp [hw]) trivial
  | functionLevelReset v => exact show OutWf (execFunctionLevelReset v s) from outWf_ite _ (by simp [hw]) trivial
  | suplWrite _ _ => exact execSuplWrite_wf _ _ _ hw
  | lqDoorbell _ _ => exact execLqDoorbell_wf _ _ _ hw
  | launchAccept _ _ => exact execLaunchAccept_wf _ _ hw
  | launchProceed _ => exact execLaunchProceed_wf _ hw
  | levelTakeContext _ _ => exact execLevelTakeContext_wf _ _ hw
  | repeatInstanceFinish _ _ => exact execRepeatInstanceFinish_wf _ _ hw
  | firingBind _ => exact execFiringBind_wf _ hw
  | starvationClose _ => exact execStarvationClose_wf _ hw
  | commitTakeEffect _ => exact execCommitTakeEffect_wf _ hw
  | watchdogExpiry _ => exact execWatchdogExpiry_wf _ hw
  | recordWrite _ _ => exact execRecordWrite_wf _ _ hw
  | messageDeliver _ => exact execMessageDeliver_wf _ hw
  | messageFillSlot _ _ => exact execMessageFillSlot_wf _ _ hw
  | launchComplete _ => exact execLaunchComplete_wf _ hw
  | hardwareError _ _ _ => exact execHardwareError_wf _ _ _ hw
  | explicitStorePerform _ _ _ => exact execExplicitStorePerform_wf _ _ _ hw
  | explicitLoadPerform _ _ _ => exact execExplicitLoadPerform_wf _ _ _ hw
  | loadDataReturn _ _ _ _ => exact execLoadDataReturn_wf _ _ _ _ hw
  | feWaiterServe _ => exact execFeWaiterServe_wf _ hw
  | clockBroadcast _ _ => exact execClockBroadcast_wf _ _ hw
  | credibilityWindowClose _ => exact execCredibilityWindowClose_wf _ hw
  | invWrite _ _ => exact execInvWrite_wf _ _ _ hw
  | invalidationComplete _ => exact execInvalidationComplete_wf _ hw
  | priRestart _ _ => exact execPriRestart_wf _ _ _ hw
  | frerrRead _ => exact execFrerrRead_wf _ _ hw
  | apertureAccess _ _ _ _ _ => exact execApertureAccess_wf _ _ _ _ _ hw
  | slotStart slot => exact show OutWf (execSlotStart slot s) from slotEvent_wf (by simp [hw])
  | slotStop slot => exact show OutWf (execSlotStop slot s) from slotEvent_wf (by simp [hw])
  | slotResume slot => exact show OutWf (execSlotResume slot s) from slotEvent_wf (by simp [hw])
  | slotReset slot => exact show OutWf (execSlotReset slot s) from slotEvent_wf (by simp [hw])
  | sigWrite slot val => exact show OutWf (execSigWrite slot val s) from slotEvent_wf hw
  | membershipWrite word val => exact show OutWf (execMembershipWrite word val s) from outWf_ite _ trivial (by simp [hw])
  | atsInvalidateRequest _ _ _ _ => exact execAtsInvalidateRequest_wf _ _ _ _ _ hw
  | translationCompletion _ _ _ _ _ _ => exact execTranslationCompletion_wf _ _ _ _ _ _ hw
  | prgResponse _ _ => exact execPrgResponse_wf _ _ hw
  | pageRequestTimeout _ => exact execPageRequestTimeout_wf _ hw
  | hostCompletionError _ _ _ => exact execHostCompletionError_wf _ _ _ hw
  | flitCrcError link => exact show OutWf (execFlitCrcError link s) from outWf_ite _ (by simp [hw]) trivial
  | linkDown link => exact show OutWf (execLinkDown link s) from outWf_ite _ (by simp [hw]) trivial
  | remotePacketPerform _ => exact execRemotePacketPerform_wf _ hw
  | remoteReply _ _ _ _ _ => exact execRemoteReply_wf _ _ _ _ _ hw
  | remotePostedFault _ _ _ => exact execRemotePostedFault_wf _ _ _ hw
  | flushMarkerArrive _ => exact execFlushMarkerArrive_wf _ hw
  | flushAnswerArrive _ => exact execFlushAnswerArrive_wf _ hw
  | engineCommandStart _ => exact execEngineCommandStart_wf _ hw
  | enginePark _ => exact execEnginePark_wf _ hw
  | engineCommandComplete _ => exact execEngineCommandComplete_wf _ hw
  | engineCommandFault _ _ => exact execEngineCommandFault_wf _ _ hw
  | enginePreemptStop _ => exact execEnginePreemptStop_wf _ hw
  | nbmvPublish _ => exact execNbmvPublish_wf _ hw
  | taskAccept _ => exact execTaskAccept_wf _ hw
  | taskIssue _ => exact execTaskIssue_wf _ hw
  | taskPublish _ => exact execTaskPublish_wf _ hw
  | taskRefire _ => exact execTaskRefire_wf _ hw
  | taskRetire _ => exact execTaskRetire_wf _ hw
  | taskFault _ _ => exact execTaskFault_wf _ _ hw
  | engineHwRerun _ => exact execEngineHwRerun_wf _ hw
  | taskPreemptStop _ => exact execTaskPreemptStop_wf _ hw
  | stepFill _ _ => exact execStepFill_wf _ _ hw
  | stepCommit _ _ => exact execStepCommit_wf _ _ hw
  | evictionStart _ => exact execEvictionStart_wf _ hw
  | evictionCommit _ _ => exact execEvictionCommit_wf _ _ hw
  | promotionStart _ => exact execPromotionStart_wf _ hw
  | promotionComplete _ _ _ => exact execPromotionComplete_wf _ _ _ hw
  | integrityFailure _ _ => exact execIntegrityFailure_wf _ _ hw
  | blockRehome _ _ _ => exact execBlockRehome_wf _ _ _ hw
  | tresolveWrite _ _ => exact execTresolveWrite_wf _ _ hw
  | vfEnable v => exact show OutWf (execVfEnable v s) from outWf_ite _ trivial (by simp [hw])
  | windowUncorrectableError v die off => exact show OutWf (execWindowUncorrectableError v die off s) from outWf_ite _ trivial (by simp [hw])
  | clusterUnitFailure _ => exact execClusterUnitFailure_wf _ hw
  | coherentStorePerform _ _ _ => exact execCoherentStorePerform_wf _ _ _ hw

theorem runWords_wf (w0 w1 : W32) {s : State} (hw : Memory.wf s.mem = true) : OutWf (runWords s w0 w1) := by
  unfold runWords
  split <;> exact exec_wf _ hw

theorem runCore_wf (c i : ℕ) {s : State} (hw : Memory.wf s.mem = true) : OutWf (runCore s c i) := by
  unfold runCore
  split
  · exact hw
  · rename_i f _
    have h := fetchAt_wf s f (pcOf (actingCores f i)) hw
    refine outWf_ite _ hw ?_
    split <;> rename_i e <;> rw [e] at h
    · exact runWords_wf _ _ h
    · exact exec_wf _ h

theorem runAgent_wf {s : State} (hw : Memory.wf s.mem = true) : OutWf (runAgent s) := by
  unfold runAgent
  split
  · exact hw
  · refine outWf_ite _ (by simp [hw]) (outWf_ite _ hw ?_)
    split
    · exact exec_wf _ hw
    · rename_i e
      have h := agentFetch_wf e hw
      split <;> exact exec_wf _ h

theorem runParty_wf (p : Party) {s : State} (hw : Memory.wf s.mem = true) : OutWf (runParty p s) := by
  cases p with
  | none => exact hw
  | core c i => exact runCore_wf _ _ hw
  | agent n => exact runAgent_wf hw

theorem runMove_wf (m : Move) {s : State} (hw : Memory.wf s.mem = true) : OutWf (runMove m s) := by
  cases m with
  | run p => exact runParty_wf _ hw
  | event i => exact outWf_ite _ (exec_wf i hw) trivial
  | tick n => exact hw
  | hostWrite addr data => exact hostWrites_wf _ _ _ hw
  | granule cmd g => exact moveGranule_wf _ _ hw
  | loadModel m => exact loadsModel_wf _ hw
  | unloadModel v num => exact unloadsModel_wf _ _ hw
  | registerRead fn bar off size => exact readRegister_wf _ _ _ _ hw
  | poisonLine slice set way sector => exact poisonSector_wf _ _ _ _ hw
  | route c i acc path => exact routeAcc_wf _ _ _ _ hw
  | readAhead cmd ea => exact readsAhead_wf _ _ hw
  | drain cmd ea => exact drains_wf _ _ hw
  | flush cmd => exact moveFlush_wf _ hw
  | dropFetched c key => exact hw
  | fetchAhead c key => exact fetchesAhead_wf _ _ hw
  | hostError => exact hw
  | linkUp link => exact linkTrained_wf _ hw

theorem firstNext_wf {s t : State} : ∀ {fs : List (State → Out)}, (∀ f ∈ fs, OutWf (f s)) → firstNext s fs = some t →
    Memory.wf t.mem = true
  | [], _, h => by cases h
  | f :: fs, hf, h => by
    unfold firstNext at h
    split at h
    · rename_i e
      cases h
      have h := hf f (List.mem_cons_self ..)
      rw [e] at h
      exact h
    · exact firstNext_wf (fun g hg => hf g (List.mem_cons_of_mem _ hg)) h

theorem accMoves_wf (c i id : ℕ) {s : State} (hw : Memory.wf s.mem = true) : ∀ f ∈ accMoves c i id, OutWf (f s) := by
  simp only [accMoves, List.forall_mem_cons, List.not_mem_nil, false_implies, implies_true, and_true]
  exact ⟨execExplicitLoadPerform_wf _ _ _ hw, execLoadDataReturn_wf _ _ _ _ hw, execExplicitStorePerform_wf _ _ _ hw,
    execCoherentStorePerform_wf _ _ _ hw, execRemotePacketPerform_wf _ hw⟩

theorem nextAccess_wf {c i : ℕ} {s t : State} (hw : Memory.wf s.mem = true) : ∀ {as : List Machine.Acc},
    nextAccess s c i as = some t → Memory.wf t.mem = true
  | [], h => by cases h
  | a :: as, h => by
    unfold nextAccess at h
    split at h
    · rename_i e
      cases h
      exact firstNext_wf (accMoves_wf c i a.id hw) e
    · exact nextAccess_wf hw h

theorem step_wf {s : State} (hw : Memory.wf s.mem = true) : OutWf (step s) := by
  unfold step
  split
  · exact runMove_wf _ hw
  · unfold runAlone
    split
    · split
      · rename_i e
        exact nextAccess_wf hw e
      · exact runParty_wf _ hw
    · exact runParty_wf _ hw

/-- Settles O59: every move of the plan, and every instruction, event and party's turn that it runs, keeps the canonical
form (`runMove_wf`, `exec_wf`). -/
theorem memoryStaysCanonical : Obligations.MemoryStaysCanonical := by
  intro s t hw h
  have hs := step_wf hw
  rw [h] at hs
  exact hs

end Sys2Proof.Proofs.Canonical
end

section
/-! SUPPORT. MULDIV, BITS and MINMAX (R124 to R126). -/

namespace Sys2Proof.Proofs.IntegerWords

open Sys2Proof.Machine Sys2Proof.Proofs.Rules

/-- The format-A shape of a result from A and B that raises nothing. -/
theorem runsA_of_scalarAB_plain {i : OpA → Instr} {v : OpA → Word → Word → Word × FlagBits} {g : OpA → Word → Word → Word}
    (hexec : ∀ o s, exec (i o) s = scalarAB (i o) o (v o) s) (hlen : ∀ o, siteLen (siteOf (i o)) = 4)
    (hv : ∀ o a b, v o a b = (g o a b, 0)) : RunsA i fun o => setAB o (g o) :=
  runsAs_of_fileInstr hexec hlen fun o _ _ r => by simp only [hv, raise_zero, setAB]

/-- The format-A shape of a result from A and B that raises a flag under a test of them. -/
theorem runsA_of_scalarAB_flag {i : OpA → Instr} {v : OpA → Word → Word → Word × FlagBits} {g : OpA → Word → Word → Word}
    {fl : FlagBits} {test : OpA → Word → Word → Prop} [∀ o a b, Decidable (test o a b)]
    (hexec : ∀ o s, exec (i o) s = scalarAB (i o) o (v o) s) (hlen : ∀ o, siteLen (siteOf (i o)) = 4)
    (hv : ∀ o a b, v o a b = (g o a b, if test o a b then fl else 0)) :
    RunsA i fun o => setABFlag o (g o) fl (test o) :=
  runsAs_of_fileInstr hexec hlen fun o _ _ r => by
    simp only [hv, setABFlag, setAB]
    split
    · rfl
    · rw [raise_zero]

/-- An operation at a width with a flag under a test at that width. -/
theorem atWidth_flag (q : BitVec 3) {f : (n : Nat) → BitVec n → BitVec n → BitVec n × FlagBits}
    {g : (n : Nat) → BitVec n → BitVec n → BitVec n} {fl : FlagBits} {test : (n : Nat) → BitVec n → BitVec n → Prop}
    [∀ n a b, Decidable (test n a b)] (hf : ∀ n a b, f n a b = (g n a b, if test n a b then fl else 0)) (a b : Word) :
    atWidth q f a b = (byWidth q (g 32) (g 64) a b,
      if (if q = 1 then test 32 (a.setWidth 32) (b.setWidth 32) else test 64 a b) then fl else 0) := by
  by_cases hq : q = 1 <;> simp only [atWidth, byWidth, hf, beq_iff_eq, hq, if_true, if_false]

theorem neg_one_eq_allOnes (n : Nat) : (-1 : BitVec n) = BitVec.allOnes n := BitVec.neg_one_eq_allOnes

/-- A quotient or remainder, and DZ where the divisor is 0 (R124). -/
theorem opDiv_eq (n : Nat) (a b : BitVec n) :
    opDiv n a b = (if b = 0 then -1 else BitVec.ofInt n (a.toInt.tdiv b.toInt), if b = 0 then fDZ else 0) := by
  simp only [opDiv, beq_iff_eq, neg_one_eq_allOnes]
  split <;> rfl

theorem opDivu_eq (n : Nat) (a b : BitVec n) :
    opDivu n a b = (if b = 0 then -1 else a / b, if b = 0 then fDZ else 0) := by
  have hdiv : BitVec.ofNat n (a.toNat / b.toNat) = a / b := by
    apply BitVec.eq_of_toNat_eq
    rw [BitVec.toNat_ofNat, BitVec.toNat_udiv]
    exact Nat.mod_eq_of_lt ((Nat.div_le_self _ _).trans_lt a.isLt)
  simp only [opDivu, beq_iff_eq, neg_one_eq_allOnes, hdiv]
  split <;> rfl

theorem opRem_eq (n : Nat) (a b : BitVec n) :
    opRem n a b = (if b = 0 then a else BitVec.ofInt n (a.toInt.tmod b.toInt), if b = 0 then fDZ else 0) := by
  simp only [opRem, beq_iff_eq]
  split <;> rfl

theorem opRemu_eq (n : Nat) (a b : BitVec n) :
    opRemu n a b = (if b = 0 then a else a % b, if b = 0 then fDZ else 0) := by
  have hmod : BitVec.ofNat n (a.toNat % b.toNat) = a % b := by
    apply BitVec.eq_of_toNat_eq
    rw [BitVec.toNat_ofNat, BitVec.toNat_umod]
    exact Nat.mod_eq_of_lt ((Nat.mod_le _ _).trans_lt a.isLt)
  simp only [opRemu, beq_iff_eq, hmod]
  split <;> rfl

/-- The nearest signed n-bit value. -/
def nearest (n : Nat) (i : Int) : Int := max (-2 ^ (n - 1)) (min (2 ^ (n - 1) - 1) i)

/-- A clamp gives the nearest signed value, and SAT where that is another one (R126). -/
theorem clampSigned_eq (n : Nat) (i : Int) :
    clampSigned n i = (BitVec.ofInt n (nearest n i), if nearest n i ≠ i then fSAT else 0) := by
  have hlo : -((2 : Int) ^ (n - 1) - 1 + 1) = -2 ^ (n - 1) := by omega
  simp only [clampSigned, hlo, nearest, flagIf, bne_iff_ne]
  rfl

/-- The signed value of a field's bits is the balanced remainder at its width (R125). -/
theorem signedOfBits_eq_bmod {w : Nat} (hw : w ≠ 0) (v : Nat) : signExt64.signedOfBits w v = Int.bmod v (2 ^ w) := by
  obtain ⟨k, rfl⟩ := Nat.exists_eq_succ_of_ne_zero hw
  have hpow : 2 ^ (k + 1) = 2 * 2 ^ k := by rw [pow_succ, mul_comm]
  have hint : (2 : Int) ^ (k + 1) = ((2 * 2 ^ k : Nat) : Int) := by push_cast; ring
  simp only [signExt64.signedOfBits, Int.bmod, Nat.succ_eq_add_one, Nat.add_sub_cancel, hpow, hint]
  generalize 2 ^ k = m
  split <;> split <;> omega

/-- The shape of a quotient or remainder at a width (R124). -/
theorem runsA_of_division {i : OpA → Instr} {f : (n : Nat) → BitVec n → BitVec n → BitVec n × FlagBits}
    (g : (n : Nat) → BitVec n → BitVec n → BitVec n)
    (hexec : ∀ o s, exec (i o) s = scalarAB (i o) o (atWidth o.q f) s) (hlen : ∀ o, siteLen (siteOf (i o)) = 4)
    (hf : ∀ n a b, f n a b = (g n a b, if b = 0 then fDZ else 0)) :
    RunsA i fun o => setABFlag o (byWidth o.q (g 32) (g 64)) fDZ fun _ b => if o.q = 1 then b.setWidth 32 = 0#32 else b = 0 :=
  runsA_of_scalarAB_flag hexec hlen fun o => atWidth_flag (test := fun _ _ b => b = 0) o.q hf

/-- The shape of a clamped result at a width (R126). -/
theorem runsA_of_clamp {i : OpA → Instr} (g : Int → Int → Int)
    (hexec : ∀ o s, exec (i o) s = scalarAB (i o) o (atWidth o.q fun n a b => clampSigned n (g a.toInt b.toInt)) s)
    (hlen : ∀ o, siteLen (siteOf (i o)) = 4) :
    RunsA i fun o => setABFlag o (byWidth o.q (fun a b => BitVec.ofInt 32 (nearest 32 (g a.toInt b.toInt)))
      (fun a b => BitVec.ofInt 64 (nearest 64 (g a.toInt b.toInt)))) fSAT fun a b => if o.q = 1
        then nearest 32 (g (a.setWidth 32).toInt (b.setWidth 32).toInt) ≠ g (a.setWidth 32).toInt (b.setWidth 32).toInt
        else nearest 64 (g a.toInt b.toInt) ≠ g a.toInt b.toInt :=
  runsA_of_scalarAB_flag hexec hlen fun o =>
    atWidth_flag (g := fun n a b => BitVec.ofInt n (nearest n (g a.toInt b.toInt)))
      (test := fun n a b => nearest n (g a.toInt b.toInt) ≠ g a.toInt b.toInt) o.q fun n _ _ => clampSigned_eq n _

/-- The field that B names in A, and its width (R125). -/
theorem bitField_eq (a b : Word) :
    bitField a b = (a.toNat / 2 ^ (b.toNat % 64) %
        2 ^ (min (b.toNat % 64 + min (b.toNat / 2 ^ 8 % 2 ^ 7) 64) 64 - b.toNat % 64),
      min (b.toNat % 64 + min (b.toNat / 2 ^ 8 % 2 ^ 7) 64) 64 - b.toNat % 64) := by
  have h64 : (2 : Nat) ^ 6 = 64 := rfl
  simp only [bitField, fieldOf, pow_zero, Nat.div_one, h64]

/-- A field sign-extended, and 0 for one of no width (R125). -/
theorem signExt64_field (v w : Nat) :
    (if w == 0 then 0 else signExt64 w v) = if w = 0 then (0 : Word) else BitVec.ofInt 64 (Int.bmod v (2 ^ w)) := by
  by_cases hw : w = 0 <;> simp only [beq_iff_eq, hw, if_true, if_false, signExt64]
  rw [signedOfBits_eq_bmod hw]

/-- Settles O2: each word's result and flag at either width, by what its operation gives at a width. -/
theorem integerWordsCompute : Obligations.IntegerWordsCompute := by
  refine ⟨⟨?mul, ?mulh, ?mulhu, ?div, ?divu, ?rem, ?remu⟩, ⟨?clz, ?ctz, ?popc, ?brev, ?bswap, ?extu, ?exts, ?rotr⟩,
    ?min, ?max, ?minu, ?maxu, ?abs, ?adds, ?subs⟩
  case mul => exact runsA_of_scalarAB (fun _ a b => a * b) (fun _ _ => rfl) fun _ => rfl
  case mulh => exact runsA_of_scalarAB (fun n a b => BitVec.ofInt n (a.toInt * b.toInt / 2 ^ n)) (fun _ _ => rfl) fun _ => rfl
  case mulhu => exact runsA_of_scalarAB (fun n a b => BitVec.ofNat n (a.toNat * b.toNat / 2 ^ n)) (fun _ _ => rfl) fun _ => rfl
  case div => exact runsA_of_division (fun n a b => if b = 0 then -1 else BitVec.ofInt n (a.toInt.tdiv b.toInt)) (fun _ _ => rfl) (fun _ => rfl) opDiv_eq
  case divu => exact runsA_of_division (fun _ a b => if b = 0 then -1 else a / b) (fun _ _ => rfl) (fun _ => rfl) opDivu_eq
  case rem => exact runsA_of_division (fun n a b => if b = 0 then a else BitVec.ofInt n (a.toInt.tmod b.toInt)) (fun _ _ => rfl) (fun _ => rfl) opRem_eq
  case remu => exact runsA_of_division (fun _ a b => if b = 0 then a else a % b) (fun _ _ => rfl) (fun _ => rfl) opRemu_eq
  case clz =>
    refine runsA_of_scalarAB_plain (v := fun o a _ => (BitVec.ofNat 64 (if o.q == 1 then opClz 32 (a.setWidth 32) else opClz 64 a), 0)) (fun _ _ => rfl) (fun _ => rfl) fun o a b => ?_
    simp only [opClz, beq_iff_eq]
  case ctz =>
    refine runsA_of_scalarAB_plain (v := fun o a _ => (BitVec.ofNat 64 (if o.q == 1 then opCtz 32 (a.setWidth 32) else opCtz 64 a), 0)) (fun _ _ => rfl) (fun _ => rfl) fun o a b => ?_
    simp only [opCtz, beq_iff_eq]
  case popc =>
    refine runsA_of_scalarAB_plain (v := fun o a _ => (BitVec.ofNat 64 (if o.q == 1 then opPopc 32 (a.setWidth 32) else opPopc 64 a), 0)) (fun _ _ => rfl) (fun _ => rfl) fun o a b => ?_
    simp only [opPopc, beq_iff_eq]
  case brev => exact runsA_of_scalarAB (fun _ a _ => a.reverse) (fun _ _ => rfl) fun _ => rfl
  case bswap => exact runsA_of_scalarAB (fun n a _ => opBswap n a) (fun _ _ => rfl) fun _ => rfl
  case extu =>
    refine runsA_of_scalarAB_plain (v := fun _ a b => (BitVec.ofNat 64 (bitField a b).1, 0)) (fun _ _ => rfl) (fun _ => rfl) fun o a b => ?_
    rw [bitField_eq]
  case exts =>
    refine runsA_of_scalarAB_plain (v := fun _ a b => (if (bitField a b).2 == 0 then 0 else signExt64 (bitField a b).2 (bitField a b).1, 0)) (fun _ _ => rfl) (fun _ => rfl) fun o a b => ?_
    rw [signExt64_field, bitField_eq]
  case rotr => exact runsA_of_scalarAB (fun n a b => a.rotateRight (shAmt n b)) (fun _ _ => rfl) fun _ => rfl
  case min =>
    refine runsA_of_scalarAB_plain (v := fun o => plainWidth o.q fun _ a b => if a.slt b then a else b) (fun _ _ => rfl) (fun _ => rfl) fun o a b => ?_
    simp only [plainWidth_eq, BitVec.slt_iff_toInt_lt]
  case max =>
    refine runsA_of_scalarAB_plain (v := fun o => plainWidth o.q fun _ a b => if a.slt b then b else a) (fun _ _ => rfl) (fun _ => rfl) fun o a b => ?_
    simp only [plainWidth_eq, BitVec.slt_iff_toInt_lt]
  case minu => exact runsA_of_scalarAB (fun _ a b => if a < b then a else b) (fun _ _ => rfl) fun _ => rfl
  case maxu => exact runsA_of_scalarAB (fun _ a b => if a < b then b else a) (fun _ _ => rfl) fun _ => rfl
  case abs => exact runsA_of_clamp (fun a _ => a.natAbs) (fun _ _ => rfl) fun _ => rfl
  case adds => exact runsA_of_clamp (· + ·) (fun _ _ => rfl) fun _ => rfl
  case subs => exact runsA_of_clamp (· - ·) (fun _ _ => rfl) fun _ => rfl

end Sys2Proof.Proofs.IntegerWords
end

section
/-! SUPPORT. END (R27, R113, R136). -/

namespace Sys2Proof.Proofs.Ends

open Sys2Proof.Machine Sys2Proof.Laws.Shapes Sys2Proof.Proofs.Rules

/-- The votes of an END: the uniform file's one with k = 1, else each acting core's (R113). -/
def endVotes (f : Firing) (units : List Core) (o : OpA) : List Bool :=
  if o.k = 1 then [getGp (uniformOf f units) o.pr.toNat] else units.map fun c => (getPr c o.pr.toNat).getLsbD 0

/-- What an END makes of the answer of its votes: its effect, or GANG while split; the next word; or DIVERGE (R113, R136). -/
def endOn (s : State) (f : Firing) (units : List Core) (w : Site) (fin : State → Firing → State) : Option Bool → State
  | some true => if f.split then afterTrap s f { core := lowest units, cause := 0x0F } w else fin (putFiring s f) f
  | some false => afterWord s f f units 4
  | none => afterTrap s f { core := lowest units, cause := 0x0E } w

/-- An END that issues does as its votes agree, if they do. -/
theorem endFiring_goes_by_votes {s : State} {f : Firing} {units : List Core} {w : Site} {o : OpA}
    {fin : State → Firing → State} {answer : Option Bool} (h : Issues s w f units)
    (hv : agreed (endVotes f units o) = answer) : endFiring w o fin s = .next (endOn s f units w fin answer) := by
  rw [endVotes] at hv
  simp only [endFiring, withFiring_issues h, k1, beq_iff_eq, hv]
  rcases answer with _ | _ | _
  · rfl
  · rfl
  · simp only [endOn]
    split <;> rfl

/-- The four fates of an END whose effect is `fin`. -/
theorem endFiring_fates {s : State} {f : Firing} {units : List Core} {w : Site} {o : OpA} {fin : State → Firing → State}
    (h : Issues s w f units) :
    (Unanimous (endVotes f units o) true → f.split = false → endFiring w o fin s = .next (fin (putFiring s f) f)) ∧
    (Unanimous (endVotes f units o) true → f.split = true →
      endFiring w o fin s = .next (afterTrap s f { core := lowest units, cause := 0x0F } w)) ∧
    (Unanimous (endVotes f units o) false → endFiring w o fin s = .next (afterWord s f f units 4)) ∧
    (Divided (endVotes f units o) →
      endFiring w o fin s = .next (afterTrap s f { core := lowest units, cause := 0x0E } w)) := by
  refine ⟨fun hv hs => ?_, fun hv hs => ?_, fun hv => ?_, fun hv => ?_⟩
  · rw [endFiring_goes_by_votes h (agreed_of_unanimous hv), endOn, hs, if_neg Bool.false_ne_true]
  · rw [endFiring_goes_by_votes h (agreed_of_unanimous hv), endOn, hs, if_pos rfl]
  · exact endFiring_goes_by_votes h (agreed_of_unanimous hv)
  · exact endFiring_goes_by_votes h (agreed_of_divided hv)

theorem exec_endCommit (o : OpA) (s : State) : exec (.endCommit o) s = execEndCommit o s := rfl
theorem exec_endRetry (o : OpA) (s : State) : exec (.endRetry o) s = execEndRetry o s := rfl
theorem exec_endFail (o : OpA) (s : State) : exec (.endFail o) s = execEndFail o s := rfl

/-- Settles O6: each word is an END with its own effect. -/
theorem endsEnd : Obligations.EndsEnd := by
  refine fun s f units o => ⟨fun h => ?commit, fun h => ?retry, fun h => ?fail⟩
  case commit =>
    simp only [exec_endCommit, execEndCommit]
    exact endFiring_fates h
  case retry =>
    simp only [exec_endRetry, execEndRetry]
    exact endFiring_fates h
  case fail =>
    simp only [exec_endFail, execEndFail]
    exact endFiring_fates h

end Sys2Proof.Proofs.Ends
end

section
/-! SUPPORT. GMOV and the identity words of ID (R131, R132). -/

namespace Sys2Proof.Proofs.GangMoves

open Sys2Proof.Machine Sys2Proof.Laws.Shapes Sys2Proof.Proofs.Rules

/-- An instruction written as `fileInstr` whose body gives a file from the firing and the state runs as that. -/
theorem runsIn_of_fileInstr {Op : Type} {i : Op → Instr} {uni : Op → Bool} {pr : Op → BitVec 3} {len : Word}
    {g body : Op → State → Firing → RFile → RFile}
    (hexec : ∀ o s, exec (i o) s = fileInstr (siteOf (i o)) (uni o) (pr o) (fun s f r => .ok (body o s f r)) s)
    (hlen : ∀ o, siteLen (siteOf (i o)) = len) (hbody : ∀ o s f r, body o s f r = g o s f r) :
    RunsIn i uni pr len g := by
  intro s f units o h
  rw [hexec, fileInstr_next (k := g o (putFiring s f) f) h _ _ fun r => by rw [hbody], hlen]

/-! ### The system registers that hold identity values -/

theorem sysRead_level (s : State) (f : Firing) (c : Core) {n : Nat} (hn : n < 8) :
    sysRead s f c n = BitVec.ofNat 64 (levelIndex s f n) := by
  unfold sysRead
  rw [if_pos hn]

theorem sysRead_count (s : State) (f : Firing) (c : Core) {n : Nat} (hn : n < 8) :
    sysRead s f c (8 + n) = BitVec.ofNat 64 (levelCount s f n) := by
  unfold sysRead
  rw [if_neg (by omega), if_pos (by omega), Nat.add_sub_cancel_left]

/-- ID writes the value of a system register (R132). -/
theorem id_runs {i : OpA → Instr} (reg : OpA → Nat) (v : OpA → State → Firing → Core → Nat)
    (hexec : ∀ o s, exec (i o) s = idValue (siteOf (i o)) o (reg o) s) (hlen : ∀ o, siteLen (siteOf (i o)) = 4)
    (hreg : ∀ o s f c, sysRead s f c (reg o) = BitVec.ofNat 64 (v o s f c)) :
    RunsIn i (fun o => o.k == 1) (fun o => o.pr) 4 fun o s f r => setS r o.d.toNat (BitVec.ofNat 64 (v o s f r.core)) :=
  runsIn_of_fileInstr hexec hlen fun o s f r => by rw [hreg]

/-! ### GMOV -/

section
variable {s : State} {f : Firing} {units : List Core} {w : Site} {o : OpA}

/-- A GMOV whose function gives a firing goes on with it. -/
theorem gmov_moves {g : Firing → List Core → List Core → UFile → Res Firing} {f' : Firing} (h : Issues s w f units)
    (hg : g f units (activeCores units o.pr) (uniformOf f units) = .ok f') :
    gmov w o g s = .next (afterWord s f f' units 4) := by
  rw [activeCores] at hg
  rw [gmov, withFiring_issues h]
  simp only [hg]
  rfl

/-- A GMOV whose function traps takes that trap. -/
theorem gmov_traps {g : Firing → List Core → List Core → UFile → Res Firing} {t : TrapInfo} (h : Issues s w f units)
    (hg : g f units (activeCores units o.pr) (uniformOf f units) = .trap t) :
    gmov w o g s = .next (afterTrap s f t w) := by
  rw [activeCores] at hg
  rw [gmov, withFiring_issues h]
  simp only [hg]
  rfl

end

/-! ### The meanings of the moves -/

theorem exec_gmovGet (o : OpA) (s : State) : exec (.gmovGet o) s = execGmovGet o s := rfl
theorem exec_gmovPut (o : OpA) (s : State) : exec (.gmovPut o) s = execGmovPut o s := rfl
theorem exec_gmovAny (o : OpA) (s : State) : exec (.gmovAny o) s = execGmovAny o s := rfl
theorem exec_gmovAll (o : OpA) (s : State) : exec (.gmovAll o) s = execGmovAll o s := rfl
theorem exec_gmovCount (o : OpA) (s : State) : exec (.gmovCount o) s = execGmovCount o s := rfl
theorem exec_gmovAgree (o : OpA) (s : State) : exec (.gmovAgree o) s = execGmovAgree o s := rfl

/-- Settles O4: the identity words by the registers that they read, the moves by what they make of the active cores. -/
theorem gangAndIdentityMove : Obligations.GangAndIdentityMove := by
  refine ⟨⟨?lvl, ?cnt, ?core, ?gpos, ?gwid, ?clus, ?pkg⟩, fun s f units o => ⟨fun h => ?get, fun h => ?put, fun h => ?any,
    fun h => ?all, fun h => ?count, fun hact h => ?idle, fun c rest hact => ⟨fun hsame h => ?agree, fun hdiff h => ?differ⟩⟩⟩
  case lvl =>
    exact id_runs (fun o => o.q.toNat) (fun o s f _ => levelIndex s f o.q.toNat) (fun _ _ => rfl) (fun _ => rfl) fun o s f c => sysRead_level s f c o.q.isLt
  case cnt =>
    exact id_runs (fun o => 8 + o.q.toNat) (fun o s f _ => levelCount s f o.q.toNat) (fun _ _ => rfl) (fun _ => rfl) fun o s f c => sysRead_count s f c o.q.isLt
  case core =>
    exact id_runs (fun _ => 0x010) (fun _ _ _ c => c.idx) (fun _ _ => rfl) (fun _ => rfl) fun _ _ _ _ => rfl
  case gpos =>
    exact id_runs (fun _ => 0x011) (fun _ _ f c => c.idx - f.lead) (fun _ _ => rfl) (fun _ => rfl) fun _ _ _ _ => rfl
  case gwid =>
    exact id_runs (fun _ => 0x012) (fun _ _ f _ => f.cores.length) (fun _ _ => rfl) (fun _ => rfl) fun _ _ _ _ => rfl
  case clus =>
    exact id_runs (fun _ => 0x013) (fun _ _ f _ => f.clus) (fun _ _ => rfl) (fun _ => rfl) fun _ _ _ _ => rfl
  case pkg =>
    exact id_runs (fun _ => 0x014) (fun _ s _ _ => s.cfg.pkgid.toNat) (fun _ _ => rfl) (fun _ => rfl) fun _ _ _ _ => rfl
  case get =>
    rw [exec_gmovGet]
    refine gmov_moves h ?_
    cases activeCores units o.pr <;> rfl
  case put =>
    rw [exec_gmovPut]
    exact gmov_moves h rfl
  case any =>
    rw [exec_gmovAny]
    exact gmov_moves h rfl
  case all =>
    rw [exec_gmovAll]
    exact gmov_moves h rfl
  case count =>
    rw [exec_gmovCount]
    exact gmov_moves h rfl
  case idle =>
    rw [exec_gmovAgree]
    exact gmov_moves h (by simp only [hact])
  case agree =>
    have hall : (rest.all fun k => getX k o.a.toNat == getX c o.a.toNat) = true :=
      List.all_eq_true.mpr fun k hk => beq_iff_eq.mpr (hsame k hk)
    rw [exec_gmovAgree]
    exact gmov_moves h (by simp only [hact, hall, if_true])
  case differ =>
    obtain ⟨k, hk, hne⟩ := hdiff
    have hall : (rest.all fun k => getX k o.a.toNat == getX c o.a.toNat) = false :=
      List.all_eq_false.mpr ⟨k, hk, by simpa using hne⟩
    rw [exec_gmovAgree]
    exact gmov_traps h (by simp only [hact, hall, Bool.false_eq_true, if_false])

end Sys2Proof.Proofs.GangMoves
end

section
/-! SUPPORT. WAIT, TRAP and SYS (R118, R200, R276, R284, R285). -/

namespace Sys2Proof.Proofs.WaitsAndSystem

open Sys2Proof.Machine Sys2Proof.Laws.Shapes Sys2Proof.Proofs.Rules Sys2Proof.Proofs.GangMoves

/-! ### Issuing again in the state with the first issue noted -/

/-- Replacing again what was replaced changes nothing. -/
theorem updWhere_updWhere {α : Type} {p : α → Bool} {b : α} (l : List α) :
    updWhere p (fun _ => b) (updWhere p (fun _ => b) l) = updWhere p (fun _ => b) l := by
  simp only [updWhere, List.map_map]
  refine List.map_congr_left fun a _ => ?_
  by_cases ha : p a = true
  · simp only [Function.comp, ha, if_true, ite_self]
  · simp only [Function.comp, ha, if_false, Bool.false_eq_true]

/-- What a search finds in a list whose found element was replaced is the replacement, where the search would take it. -/
theorem find?_updWhere {α : Type} {p q : α → Bool} {a b : α} {l : List α} (hf : l.find? p = some a) (hq : q a = true)
    (hp : p b = true) : (updWhere q (fun _ => b) l).find? p = some b := by
  induction l with
  | nil => cases hf
  | cons c l ih =>
    rw [updWhere, List.map_cons, ← updWhere]
    by_cases hc : p c = true
    · rw [List.find?_cons_of_pos hc, Option.some.injEq] at hf
      rw [hf, if_pos hq, List.find?_cons_of_pos hp]
    · rw [List.find?_cons_of_neg hc] at hf
      by_cases hqc : q c = true
      · rw [if_pos hqc, List.find?_cons_of_pos hp]
      · rw [if_neg hqc, List.find?_cons_of_neg hc, ih hf]

/-- A firing put twice is put once. -/
theorem putFiring_putFiring (s : State) (f : Firing) : putFiring (putFiring s f) f = putFiring s f := by
  simp only [putFiring, setFirings, updWhere_updWhere]

/-- The firing of a core, changed where neither its cluster, its cores nor its number change, is what was put. -/
theorem firingAt_putFiring {s : State} {c i : Nat} {f0 f : Firing} (hf : firingAt s c i = some f0) (hid : f.id = f0.id)
    (hclus : f.clus = f0.clus) (hcores : f.cores.any (fun k => k.idx == i) = f0.cores.any fun k => k.idx == i) :
    firingAt (putFiring s f) c i = some f := by
  have hsel := List.find?_some hf
  exact find?_updWhere hf (beq_iff_eq.mpr hid.symm) (by rw [hclus, hcores]; exact hsel)

/-- An instruction that issues also issues once its first issue is noted. -/
theorem issues_putFiring {s : State} {w : Site} {f : Firing} {units : List Core} (h : Issues s w f units) :
    Issues (putFiring s f) w f units := by
  obtain ⟨c, i, f0, hc, hf, rfl, hu, he, hx, hb, hi⟩ := h
  exact ⟨c, i, _, hc, firingAt_putFiring hf rfl rfl rfl, rfl, hu, he, hx, hb, hi⟩

/-! ### A body that the selected cores decide -/

/-- What selects a core's file is bit 0 of its governing predicate. -/
theorem takes_fileOf_core (f : Firing) (units : List Core) (c : Core) (pr : BitVec 3) :
    takes (fileOf f units false c) pr = (getPr c pr.toNat).getLsbD 0 := by
  simp [takes, fileOf, getP]

/-- A register instruction that goes on wherever its predicate selects gives its function there. -/
theorem fileInstr_next_of_selected {s : State} {w : Site} {f : Firing} {units : List Core} (h : Issues s w f units)
    (pr : BitVec 3) {g : State → Firing → RFile → Res RFile} {k : RFile → RFile}
    (hg : ∀ c ∈ activeCores units pr, g (putFiring s f) f (fileOf f units false c) = .ok (k (fileOf f units false c))) :
    fileInstr w false pr g s = .next (afterWord s f (fileResult f units false pr k) units (siteLen w)) := by
  have hgo : (units.map fun c => if takes (fileOf f units false c) pr = true then
      g (putFiring s f) f (fileOf f units false c) else .ok (fileOf f units false c)) =
      units.map fun c => Res.ok (if takes (fileOf f units false c) pr = true then k (fileOf f units false c)
        else fileOf f units false c) := by
    refine List.map_congr_left fun c hc => ?_
    split
    · rename_i ht
      rw [takes_fileOf_core] at ht
      exact hg c (List.mem_filter.mpr ⟨hc, ht⟩)
    · rfl
  simp only [fileInstr, withFiring_issues h, runFile, Bool.false_eq_true, if_false, hgo, collect_ok, Res.bindOk]
  rw [List.map_map]
  rfl

/-- The trap of a core's result, if it traps. -/
def trapOf {α : Type} : Res α → Option TrapInfo
  | .trap t => some t
  | _ => none

/-- Cores of which the first to trap traps with `t` are collected to that trap (R112). -/
theorem collect_trap {α : Type} {l : List (Res α)} {t : TrapInfo} (h : l.findSome? trapOf = some t) : collect l = .trap t := by
  unfold collect
  split
  · rename_i t' ht
    rw [Option.some.inj (ht.symm.trans h)]
  · rename_i hn
    cases hn.symm.trans h

/-- Of cores whose selected ones trap and whose others go on, the first selected one's trap is taken (R112). -/
theorem collect_first_trap {α β : Type} {l rest : List α} {sel : α → Bool} {a : α} (t : α → TrapInfo) (k : α → β)
    (h : l.filter sel = a :: rest) :
    collect (l.map fun c => if sel c = true then Res.trap (t c) else .ok (k c)) = .trap (t a) := by
  refine collect_trap ?_
  induction l with
  | nil => cases h
  | cons c l ih =>
    rw [List.map_cons]
    by_cases hc : sel c = true
    · rw [List.filter_cons_of_pos hc, List.cons.injEq] at h
      rw [if_pos hc, h.1]
      rfl
    · rw [List.filter_cons_of_neg hc] at h
      rw [if_neg hc]
      exact ih h

theorem fileOf_core (f : Firing) (units : List Core) (uni : Bool) (c : Core) : (fileOf f units uni c).core = c := rfl
theorem getS_fileOf_core (f : Firing) (units : List Core) (c : Core) (n : Nat) :
    getS (fileOf f units false c) n = getX c n := rfl

/-! ### The meanings of the words -/

theorem exec_waitLe (o : OpA) (s : State) : exec (.waitLe o) s = execWaitLe o s := rfl
theorem exec_waitLex (o : OpA) (s : State) : exec (.waitLex o) s = execWaitLex o s := rfl
theorem exec_trap (o : OpI) (s : State) : exec (.trap o) s = execTrap o s := rfl
theorem exec_sysR (o : OpI) (s : State) : exec (.sysR o) s = execSysR o s := rfl
theorem exec_sysW (o : OpI) (s : State) : exec (.sysW o) s = execSysW o s := rfl

section
variable {s : State} {f : Firing} {units : List Core}

/-- TRAP traps at its lowest active core (R284). -/
theorem trap_traps {o : OpI} {c : Core} {rest : List Core} (h : Issues s (siteOf (.trap o)) f units)
    (hact : activeCores units o.pr = c :: rest) : exec (.trap o) s = .next (afterTrap s f
      { core := c.idx, cause := 0x17, val := getX c o.a.toNat, info := o.imm.setWidth 64 } (siteOf (.trap o))) := by
  rw [activeCores] at hact
  simp only [exec_trap, execTrap, fileInstr, withFiring_issues h, runFile, Bool.false_eq_true, if_false,
    takes_fileOf_core, fileOf_core, getS_fileOf_core]
  rw [collect_first_trap (fun c => { core := c.idx, cause := 0x17, val := getX c o.a.toNat, info := o.imm.setWidth 64 })
    (fileOf f units false) hact]
  rfl

/-- A system register of the supervisor block outside the handler traps PRIV (R276). -/
theorem sysR_denied {o : OpI} (h : Issues s (siteOf (.sysR o)) f units) (hn : 0x100 ≤ o.imm.toNat)
    (hh : isHandler (putFiring s f) f = false) :
    exec (.sysR o) s = .next (afterTrap s f { core := lowest units, cause := 0x03 } (siteOf (.sysR o))) := by
  simp only [exec_sysR, execSysR, withFiring_issues h, hn, hh, decide_true, Bool.not_false, Bool.and_self, if_true]
  rfl

/-- Another `sys.r` writes the register's value into x_d (R118, R276). -/
theorem sysR_reads {o : OpI} (h : Issues s (siteOf (.sysR o)) f units)
    (hn : o.imm.toNat < 0x100 ∨ isHandler (putFiring s f) f = true) :
    exec (.sysR o) s = .next (afterWord s f (fileResult f units false o.pr fun r =>
      setS r o.d.toNat (sysRead (putFiring s f) f r.core o.imm.toNat)) units 4) := by
  have hpass : (decide (0x100 ≤ o.imm.toNat) && !isHandler (putFiring s f) f) = false := by
    rcases hn with hn | hn
    · rw [decide_eq_false (by omega), Bool.false_and]
    · rw [hn, Bool.not_true, Bool.and_false]
  simp only [exec_sysR, execSysR, withFiring_issues h, hpass, Bool.false_eq_true, if_false]
  rw [fileInstr_next (issues_putFiring h) _ _ fun r => rfl]
  simp only [afterWord, putFiring_putFiring]
  rfl

/-- `sys.w` of the supervisor block outside the handler (R276). -/
theorem sysW_denied {o : OpI} (h : Issues s (siteOf (.sysW o)) f units) (hn : 0x100 ≤ o.imm.toNat)
    (hh : isHandler (putFiring s f) f = false) :
    exec (.sysW o) s = .next (afterTrap s f { core := lowest units, cause := 0x03 } (siteOf (.sysW o))) := by
  simp only [exec_sysW, execSysW, withFiring_issues h, hn, hh, decide_true, Bool.not_false, Bool.and_self, if_true]
  rfl

/-- `sys.w` of `trtail` in the handler: each active core's value between `trtail` and `trhead` is taken (R276). -/
theorem sysW_consumes {o : OpI} (h : Issues s (siteOf (.sysW o)) f units) (hn : o.imm.toNat = 0x103)
    (hh : isHandler (putFiring s f) f = true) : exec (.sysW o) s = .next (putFiring
      ((activeCores units o.pr).foldl (fun s c => writeTrtail s f.tenant (getX c o.a.toNat)) (putFiring s f))
      (advance f units 4)) := by
  simp only [exec_sysW, execSysW, withFiring_issues h, hn, hh, Bool.not_true, Bool.and_false, Bool.false_eq_true, if_false]
  rfl

/-- `sys.w` of `nflags` (R118). -/
theorem sysW_sets_nflags {o : OpI} (h : Issues s (siteOf (.sysW o)) f units) (hn : o.imm.toNat = 0x040) :
    exec (.sysW o) s = .next (afterWord s f (putCores f ((activeCores units o.pr).map fun c =>
      { c with nflags := (getX c o.a.toNat).setWidth 7 })) units 4) := by
  have hlow : decide (0x100 ≤ (0x040 : Nat)) = false := rfl
  simp only [exec_sysW, execSysW, withFiring_issues h, hn, hlow, Bool.false_and, Bool.false_eq_true, if_false]
  rfl

/-- `sys.w` of `tresolve` in the handler makes the active cores wait for the resolution (R285). -/
theorem sysW_resolves {o : OpI} (h : Issues s (siteOf (.sysW o)) f units) (hn : o.imm.toNat = 0x104)
    (hact : activeCores units o.pr ≠ []) (hh : isHandler (putFiring s f) f = true) :
    exec (.sysW o) s = .next (putFiring (putFiring s f)
      (putCores f ((activeCores units o.pr).map fun c => { c with busy := .resolve (getX c o.a.toNat) }))) := by
  have hne : (activeCores units o.pr).isEmpty = false := List.isEmpty_eq_false_iff.mpr hact
  rw [activeCores] at hne
  simp only [exec_sysW, execSysW, withFiring_issues h, hn, hh, Bool.not_true, Bool.and_false, Bool.false_eq_true, if_false,
    hne]
  rfl

end

/-- A taken `trtail` lies between the two ends of the ring (R276). -/
theorem writeTrtail_eq (s : State) (v : Nat) (w : Word) : writeTrtail s v w =
    if (tenantOf s v).trtail.toNat ≤ w.toNat ∧ w.toNat ≤ (tenantOf s v).trhead.toNat
      then putTenant s v { tenantOf s v with trtail := w } else s := by
  simp only [writeTrtail, Bool.and_eq_true, decide_eq_true_eq]

/-- Settles O8: each word by what it reads, writes or waits for. -/
theorem waitsAndSystem : Obligations.WaitsAndSystem := by
  refine ⟨fun s f units o h hall => ?le, fun s f units o h hall => ?lex, fun s f units o h c rest hact => trap_traps h hact,
    fun s f units o h => ⟨fun hn hh => sysR_denied h hn hh, fun hn => sysR_reads h hn⟩, fun s f c => ?regs,
    fun s f units o h => ⟨fun hn hh => ?consume, fun hn hh => sysW_denied h hn hh, fun hn => sysW_sets_nflags h hn,
      fun hn hact hh => sysW_resolves h hn hact hh⟩⟩
  case le =>
    rw [exec_waitLe, execWaitLe]
    exact fileInstr_next_of_selected (k := fun r => r) h _ fun c hc => if_pos (hall c hc)
  case lex =>
    rw [exec_waitLex, execWaitLex]
    exact fileInstr_next_of_selected (k := fun r => r) h _ fun c hc => if_pos (hall c hc)
  case regs =>
    exact ⟨fun n hn => ⟨sysRead_level s f c hn, sysRead_count s f c hn⟩, rfl, rfl, rfl, rfl, rfl, rfl,
      BitVec.ofNat_toNat 64 c.nflags, rfl, rfl, rfl, rfl, rfl, rfl, rfl, rfl, rfl, rfl, rfl, rfl, rfl, rfl, rfl, rfl, rfl,
      BitVec.ofNat_toNat 64 _, rfl⟩
  case consume =>
    rw [sysW_consumes h hn hh]
    simp only [writeTrtail_eq]

end Sys2Proof.Proofs.WaitsAndSystem
end

section
/-! SUPPORT. From the text of a vector instruction's meaning to the statement of it (R60, R143, R146). -/

namespace Sys2Proof.Proofs.Vectors

open Sys2Proof.Machine Sys2Proof.Laws.Shapes Sys2Proof.Proofs.Rules

/-! ### The shapes in which vector instructions are written -/

/-- An instruction written as `vecInstr`, with a body that neither traps nor stalls, runs as the function of its body. -/
theorem runsV_of_vecInstr {i : OpA → Instr} {srcs : OpA → List (BitVec 5)} {dst : OpA → Option (BitVec 5)}
    {on : OpA → Core → Bool} {g : OpA → VIn → VOut} (body : OpA → VIn → Res VOut)
    (hexec : ∀ o s, exec (i o) s = vecInstr (siteOf (i o)) (srcs o) (dst o) (on o) (body o) s)
    (hlen : ∀ o, siteLen (siteOf (i o)) = 4) (hbody : ∀ o v, body o v = .ok (g o v)) : RunsV i srcs dst on g := by
  intro s f units o h
  have hcollect : ∀ l : List Core, collect (l.map fun c => body o
      { core := popCore ((srcs o).contains 30) ((srcs o).contains 31) c, lw := c.lw.head?.getD 0, le := c.le.head?.getD 0 }) = .ok (l.map fun c => g o (vecView (srcs o) c)) := fun l => by
    simp only [hbody]
    exact collect_ok l fun c => g o (vecView (srcs o) c)
  simp only [hexec, vecInstr, withFiring_issues h, hcollect, hlen]
  refine ⟨fun ⟨c, hc, hno⟩ => ?_, fun hall => ⟨fun hnone => ?_, fun f' hsome => ?_⟩⟩
  · have hready : ((units.filter (on o)).all (popReady ((srcs o).contains 30) ((srcs o).contains 31))) = false :=
      List.all_eq_false.mpr ⟨c, hc, Bool.eq_false_iff.mp hno⟩
    simp only [hready, Bool.not_false, if_true]
  all_goals
    have hready : ((units.filter (on o)).all (popReady ((srcs o).contains 30) ((srcs o).contains 31))) = true :=
      List.all_eq_true.mpr hall
    simp only [hready, Bool.not_true, Bool.false_eq_true, if_false]
  · rw [hnone]
  · rw [hsome]
    rfl

section
variable {s : State} {f : Firing} {units : List Core} {w : Site} {srcs : List (BitVec 5)} {dst : Option (BitVec 5)}
  {on : Core → Bool} {g : VIn → Res VOut}

/-- A vector instruction of which a core stalls does nothing but note its first issue. -/
theorem vecInstr_stalls (h : Issues s w f units)
    (hready : (units.filter on).all (popReady (srcs.contains 30) (srcs.contains 31)) = true)
    (hcollect : collect ((units.filter on).map fun c => g (vecView srcs c)) = .stall) :
    vecInstr w srcs dst on g s = .next (putFiring s f) := by
  simp only [vecView] at hcollect
  simp only [vecInstr, withFiring_issues h, hready, hcollect, Bool.not_true, Bool.false_eq_true, if_false]

/-- A vector instruction whose cores all have results applies them and goes on. -/
theorem vecInstr_applies {outs : List VOut} {f' : Firing} (h : Issues s w f units)
    (hready : (units.filter on).all (popReady (srcs.contains 30) (srcs.contains 31)) = true)
    (hcollect : collect ((units.filter on).map fun c => g (vecView srcs c)) = .ok outs)
    (happly : applyVec f dst outs = some f') :
    vecInstr w srcs dst on g s = .next (afterWord s f f' units (siteLen w)) := by
  simp only [vecView] at hcollect
  simp only [vecInstr, withFiring_issues h, hready, hcollect, happly, Bool.not_true, Bool.false_eq_true, if_false]
  rfl

end

/-- A code of an element is below 2^width. -/
theorem elemAt_lt (w : Nat) (v : Vec) (e : Nat) : elemAt w v e < 2 ^ w := Nat.mod_lt _ (Nat.two_pow_pos w)

/-- The shape of a result by element of a. -/
theorem runsV1_of_elementA {i : OpA → Instr} (f : OpA → Nat → Nat × FlagBits) {g : OpA → Nat → Nat × FlagBits}
    (hexec : ∀ o s, exec (i o) s = elementA (siteOf (i o)) o (f o) s) (hlen : ∀ o, siteLen (siteOf (i o)) = 4)
    (hf : ∀ o a, f o a = g o a) : RunsV1 i g :=
  runsV_of_vecInstr (fun o v => .ok (elementOut v (maskOf v o.pr) (qWidth o.q) fun e =>
    f o (elemAt (qWidth o.q) (srcV v o.a) e))) hexec hlen fun o v => by simp only [hf, byElement, elA]

/-- The shape of a result by element of a and b. -/
theorem runsV2_of_elementAB {i : OpA → Instr} (f : OpA → Nat → Nat → Nat × FlagBits) {g : OpA → Nat → Nat → Nat × FlagBits}
    (hexec : ∀ o s, exec (i o) s = elementAB (siteOf (i o)) o (f o) s) (hlen : ∀ o, siteLen (siteOf (i o)) = 4)
    (hf : ∀ o a b, a < 2 ^ qWidth o.q → b < 2 ^ qWidth o.q → f o a b = g o a b) : RunsV2 i g :=
  runsV_of_vecInstr (fun o v => .ok (elementOut v (maskOf v o.pr) (qWidth o.q) fun e =>
    f o (elemAt (qWidth o.q) (srcV v o.a) e) (elemAt (qWidth o.q) (srcV v o.b) e))) hexec hlen fun o v => by
      simp only [hf o _ _ (elemAt_lt _ _ _) (elemAt_lt _ _ _), byElement, elA, elB]

/-- The shape of a result by element of a, b and d. -/
theorem runsV3_of_elementABD {i : OpA → Instr} (f : OpA → Nat → Nat → Nat → Nat × FlagBits)
    {g : OpA → Nat → Nat → Nat → Nat × FlagBits}
    (hexec : ∀ o s, exec (i o) s = elementABD (siteOf (i o)) o (f o) s) (hlen : ∀ o, siteLen (siteOf (i o)) = 4)
    (hf : ∀ o a b d, f o a b d = g o a b d) : RunsV3 i g :=
  runsV_of_vecInstr (fun o v => .ok (elementOut v (maskOf v o.pr) (qWidth o.q) fun e =>
    f o (elemAt (qWidth o.q) (srcV v o.a) e) (elemAt (qWidth o.q) (srcV v o.b) e) (elemAt (qWidth o.q) (srcV v o.d) e)))
    hexec hlen fun o v => by simp only [hf, byElement, elA, elB, elD]

/-! ### Codes and the signed values that they stand for -/

/-- A code and the signed value that it stands for agree modulo 2^width. -/
theorem signedOf_modEq (w c : Nat) : signedOf w c ≡ c [ZMOD 2 ^ w] := by
  unfold signedOf
  split
  · exact Int.ModEq.refl _
  · exact (Int.modEq_sub_modulus_iff.mpr (Int.ModEq.refl _)).symm

/-- The code of an integer is that of any number that agrees with it modulo 2^width. -/
theorem toNat_emod_of_modEq {w n : Nat} {i : Int} (h : i ≡ n [ZMOD 2 ^ w]) : (i % 2 ^ w).toNat = n % 2 ^ w := by
  have hcast : ((n : Int) % 2 ^ w) = ((n % 2 ^ w : Nat) : Int) := by push_cast; rfl
  rw [h.eq, hcast, Int.toNat_natCast]

/-- Codes that stand for one signed value are one code. -/
theorem eq_of_signedOf_eq {w a b : Nat} (ha : a < 2 ^ w) (hb : b < 2 ^ w) (h : signedOf w a = signedOf w b) : a = b := by
  have hmod : (a : Int) ≡ b [ZMOD ((2 ^ w : Nat) : Int)] := by
    push_cast
    exact (signedOf_modEq w a).symm.trans (h ▸ signedOf_modEq w b)
  exact Nat.ModEq.eq_of_lt_of_lt (Int.natCast_modEq_iff.mp hmod) ha hb

end Sys2Proof.Proofs.Vectors
end

section
/-! SUPPORT. VARITH and VFMA (R147, R148). -/

namespace Sys2Proof.Proofs.VectorArithmetic

open Sys2Proof.Machine Sys2Proof.Proofs.Vectors

/-- A clamp to a width, with SAT where it gives another value (R147). -/
theorem satCode_eq (w : Nat) (i : Int) : satCode w i =
    (((max (-(2 ^ (w - 1) - 1) - 1) (min (2 ^ (w - 1) - 1) i)) % 2 ^ w).toNat,
      if max (-(2 ^ (w - 1) - 1) - 1) (min (2 ^ (w - 1) - 1) i) = i then 0 else fSAT) := by
  have hlo : -((2 : Int) ^ (w - 1) - 1 + 1) = -(2 ^ (w - 1) - 1) - 1 := by omega
  simp only [satCode, hlo, flagIf, bne_iff_ne, ite_not]

/-- An operation on codes whose float form is rounded once and whose integer form wraps is `byKind` of its two forms. -/
theorem arith_eq_byKind {op : VOp} {fl : Val → Val → Val} {int : (w : Nat) → Int → Int → Int} {code : Nat → Nat → Nat → Nat}
    (hfl : ∀ q a b, qFloat q = true →
      arith q op a b = rne (qFmt q) (fl (decodeFmt (qFmt q) a) (decodeFmt (qFmt q) b)))
    (hint : ∀ q a b, qFloat q = false → arith q op a b = (code (qWidth q) a b % 2 ^ qWidth q, 0))
    (hcode : ∀ w a b, a < 2 ^ w → b < 2 ^ w → int w (signedOf w a) (signedOf w b) ≡ code w a b [ZMOD 2 ^ w])
    (o : OpA) (a b : Nat) (ha : a < 2 ^ qWidth o.q) (hb : b < 2 ^ qWidth o.q) :
    arith o.q op a b = byKind o fl int a b := by
  cases hq : qFloat o.q with
  | true => rw [hfl _ _ _ hq, byKind, hq, if_pos rfl]
  | false =>
    rw [hint _ _ _ hq, byKind, hq, if_neg Bool.false_ne_true, toNat_emod_of_modEq (hcode _ a b ha hb)]

theorem sub_code_modEq {w a b : Nat} (hb : b < 2 ^ w) :
    signedOf w a - signedOf w b ≡ (a + (2 ^ w - b) : Nat) [ZMOD 2 ^ w] := by
  have hcast : ((a + (2 ^ w - b) : Nat) : Int) = (a : Int) - b + 2 ^ w := by
    rw [Nat.cast_add, Nat.cast_sub hb.le, Nat.cast_pow, Nat.cast_ofNat]; ring
  rw [hcast]
  exact ((signedOf_modEq w a).sub (signedOf_modEq w b)).trans (Int.modEq_add_modulus_iff.mpr (Int.ModEq.refl _))

/-- The lesser and greater of two elements (R147). -/
theorem arith_min_eq (q : BitVec 3) (a b : Nat) : arith q .min a b =
    if qFloat q then floatPick (qFmt q) false a b
    else (if signedOf (qWidth q) a < signedOf (qWidth q) b then a else b, 0) := rfl

theorem arith_max_eq {q : BitVec 3} {a b : Nat} (ha : a < 2 ^ qWidth q) (hb : b < 2 ^ qWidth q) : arith q .max a b =
    if qFloat q then floatPick (qFmt q) true a b
    else (if signedOf (qWidth q) b < signedOf (qWidth q) a then a else b, 0) := by
  have hpick : (if signedOf (qWidth q) a < signedOf (qWidth q) b then b else a) =
      if signedOf (qWidth q) b < signedOf (qWidth q) a then a else b := by
    rcases lt_trichotomy (signedOf (qWidth q) a) (signedOf (qWidth q) b) with h | h | h
    · rw [if_pos h, if_neg h.not_gt]
    · rw [if_neg h.not_lt, if_neg h.not_gt, eq_of_signedOf_eq ha hb h]
    · rw [if_neg h.not_gt, if_pos h]
  rw [← hpick]
  rfl

/-- A clamped sum or difference of elements (R147). -/
theorem arith_adds_eq (q : BitVec 3) (a b : Nat) : arith q .adds a b =
    if qFloat q then (0, 0) else satCode (qWidth q) (signedOf (qWidth q) a + signedOf (qWidth q) b) := rfl
theorem arith_subs_eq (q : BitVec 3) (a b : Nat) : arith q .subs a b =
    if qFloat q then (0, 0) else satCode (qWidth q) (signedOf (qWidth q) a - signedOf (qWidth q) b) := rfl

/-- |A| of an integer element clamps (R147). -/
theorem arithAbs_eq (q : BitVec 3) (a : Nat) : arithAbs q a =
    if qFloat q then arithAbs q a else satCode (qWidth q) (signedOf (qWidth q) a).natAbs := by
  cases hq : qFloat q
  · simp only [arithAbs, hq, Bool.false_eq_true, if_false]
  · rw [if_pos rfl]

/-- ±A × B ± D is one value whether its integer form is taken of codes or of what they stand for (R148). -/
theorem fusedMul_eq (q : BitVec 3) (negP negD : Bool) (a b d : Nat) : fusedMul q negP negD a b d =
    if qFloat q then
      rne (qFmt q) (valAdd
        (if negP then valNegate (valMul (decodeFmt (qFmt q) a) (decodeFmt (qFmt q) b))
          else valMul (decodeFmt (qFmt q) a) (decodeFmt (qFmt q) b))
        (if negD then valNegate (decodeFmt (qFmt q) d) else decodeFmt (qFmt q) d))
    else
      ((((if negP then -(signedOf (qWidth q) a * signedOf (qWidth q) b)
          else signedOf (qWidth q) a * signedOf (qWidth q) b) +
        if negD then -signedOf (qWidth q) d else signedOf (qWidth q) d) % 2 ^ qWidth q).toNat, 0) := by
  cases hq : qFloat q with
  | true => simp only [fusedMul, hq, if_true]
  | false =>
    simp only [fusedMul, hq, Bool.false_eq_true, if_false]
    have hp := (signedOf_modEq (qWidth q) a).mul (signedOf_modEq (qWidth q) b)
    have hd := signedOf_modEq (qWidth q) d
    have hsum : ((if negP then -(signedOf (qWidth q) a * signedOf (qWidth q) b)
          else signedOf (qWidth q) a * signedOf (qWidth q) b) +
        if negD then -signedOf (qWidth q) d else signedOf (qWidth q) d) ≡
        ((if negP then -((a : Int) * b) else (a : Int) * b) + if negD then -(d : Int) else d) [ZMOD 2 ^ qWidth q] := by
      refine Int.ModEq.add ?_ ?_
      · cases negP
        · exact hp
        · exact hp.neg
      · cases negD
        · exact hd
        · exact hd.neg
    rw [hsum.eq]

/-- Settles O9: every word is by element, and its function on codes is the one of the values that they stand for. -/
theorem vectorArithmeticComputes : Obligations.VectorArithmeticComputes := by
  refine ⟨?add, ?sub, ?mul, ?min, ?max, ?adds, ?subs, ?abs, ?fma, ?fms, ?fnma, ?fnms⟩
  case add =>
    exact runsV2_of_elementAB (fun o => arith o.q .add) (fun _ _ => rfl) (fun _ => rfl) <| arith_eq_byKind
      (code := fun _ a b => a + b) (fun q a b hq => by simp only [arith, hq, if_true])
      (fun q a b hq => by simp only [arith, hq, Bool.false_eq_true, if_false]) fun w a b _ _ => by
        push_cast; exact (signedOf_modEq w a).add (signedOf_modEq w b)
  case sub =>
    exact runsV2_of_elementAB (fun o => arith o.q .sub) (fun _ _ => rfl) (fun _ => rfl) <| arith_eq_byKind
      (code := fun w a b => a + (2 ^ w - b)) (fun q a b hq => by simp only [arith, hq, if_true])
      (fun q a b hq => by simp only [arith, hq, Bool.false_eq_true, if_false]) fun w a b _ hb => sub_code_modEq hb
  case mul =>
    exact runsV2_of_elementAB (fun o => arith o.q .mul) (fun _ _ => rfl) (fun _ => rfl) <| arith_eq_byKind
      (code := fun _ a b => a * b) (fun q a b hq => by simp only [arith, hq, if_true])
      (fun q a b hq => by simp only [arith, hq, Bool.false_eq_true, if_false]) fun w a b _ _ => by
        push_cast; exact (signedOf_modEq w a).mul (signedOf_modEq w b)
  case min =>
    exact runsV2_of_elementAB (fun o => arith o.q .min) (fun _ _ => rfl) (fun _ => rfl) fun o a b _ _ => arith_min_eq o.q a b
  case max =>
    exact runsV2_of_elementAB (fun o => arith o.q .max) (fun _ _ => rfl) (fun _ => rfl) fun o a b ha hb => arith_max_eq ha hb
  case adds =>
    exact runsV2_of_elementAB (fun o => arith o.q .adds) (fun _ _ => rfl) (fun _ => rfl) fun o a b _ _ => by
      rw [arith_adds_eq, satCode_eq]
  case subs =>
    exact runsV2_of_elementAB (fun o => arith o.q .subs) (fun _ _ => rfl) (fun _ => rfl) fun o a b _ _ => by
      rw [arith_subs_eq, satCode_eq]
  case abs =>
    exact runsV1_of_elementA (fun o => arithAbs o.q) (fun _ _ => rfl) (fun _ => rfl) fun o a =>
      (arithAbs_eq o.q a).trans (by rw [satCode_eq])
  case fma =>
    exact runsV3_of_elementABD (fun o => fusedMul o.q false false) (fun _ _ => rfl) (fun _ => rfl) fun o => fusedMul_eq o.q _ _
  case fms =>
    exact runsV3_of_elementABD (fun o => fusedMul o.q false true) (fun _ _ => rfl) (fun _ => rfl) fun o => fusedMul_eq o.q _ _
  case fnma =>
    exact runsV3_of_elementABD (fun o => fusedMul o.q true false) (fun _ _ => rfl) (fun _ => rfl) fun o => fusedMul_eq o.q _ _
  case fnms =>
    exact runsV3_of_elementABD (fun o => fusedMul o.q true true) (fun _ _ => rfl) (fun _ => rfl) fun o => fusedMul_eq o.q _ _

end Sys2Proof.Proofs.VectorArithmetic
end

section
/-! SUPPORT. VDOT and VRED (R53, R149, R150). -/

namespace Sys2Proof.Proofs.Dots

open Sys2Proof.Machine Sys2Proof.Proofs.Vectors

/-- The lane products of VDOT (R149). -/
def laneProducts (fa fb : Fmt) (o : OpA) (v : VIn) (e : Nat) : List Val :=
  (rangeFrom (32 / fmtWidth fa * e) (32 / fmtWidth fa)).map fun i =>
    valMul (decodeFmt fa (elemAt (fmtWidth fa) (srcV v o.a) i)) (decodeFmt fb (elemAt (fmtWidth fa) (srcV v o.b) i))

/-- The shape of a VDOT. -/
theorem dot_runs {i : OpA → Instr} (fa fb : Fmt) (lane lane' : List Val → Nat → Nat × FlagBits)
    (hexec : ∀ o s, exec (i o) s = vdot (siteOf (i o)) o fa fb lane s) (hlen : ∀ o, siteLen (siteOf (i o)) = 4)
    (hlane : ∀ ps d, lane ps d = lane' ps d) :
    RunsV i (fun o => [o.a, o.b, o.d]) (fun o => some o.d) (fun _ _ => true) fun o v =>
      elementOut v (maskOf v o.pr) 32 fun e => lane' (laneProducts fa fb o v e) (elemAt 32 (srcV v o.d) e) :=
  runsV_of_vecInstr (fun o v => .ok (elementOut v (maskOf v o.pr) 32 fun e =>
    lane (laneProducts fa fb o v e) (elemAt 32 (srcV v o.d) e))) hexec hlen fun o v => by simp only [hlane]

/-- An integer lane: D and the products summed and clamped to INT32, with IOV where that gives another value (R149). -/
def wholeLane (ps : List Val) (d : Nat) : Nat × FlagBits :=
  let x := (ps.map valToInt).sum + signedOf 32 d
  let c := max (-2 ^ 31) (min (2 ^ 31 - 1) x)
  ((c % 2 ^ 32).toNat, if c = x then 0 else fIOV)

theorem dotInt_eq (ps : List Val) (d : Nat) : dotInt ps d = wholeLane ps d := by
  have hlo : -(2 : Int) ^ 31 = -2147483648 := by norm_num
  have hhi : (2 : Int) ^ 31 - 1 = 2147483647 := by norm_num
  simp only [dotInt, wholeLane, clamp32, flagIf, bne_iff_ne, ite_not, hlo, hhi]

/-- The shape of a VRED. -/
theorem red_runs {i : OpA → Instr} (f g : OpA → Reduction)
    (hexec : ∀ o s, exec (i o) s = vred (siteOf (i o)) o (f o) s) (hlen : ∀ o, siteLen (siteOf (i o)) = 4)
    (hf : ∀ o m a, f o m a = g o m a) : RunsVW i (fun o => [o.a]) fun o v => g o (maskOf v o.pr) (srcV v o.a) :=
  runsV_of_vecInstr (fun o v => .ok (wholeOut v (f o (maskOf v o.pr) (srcV v o.a)).1 (f o (maskOf v o.pr) (srcV v o.a)).2))
    hexec hlen fun o v => by simp only [hf, wholeOut]

/-- A fold of the active elements in order (R150). -/
def foldActive (q : BitVec 3) (g : Nat → Nat → Nat) (id : Nat → Nat) : Reduction := fun m a =>
  (BitVec.ofNat 128 ((((List.range (128 / qWidth q)).filter (active m (qWidth q))).map
      (elemAt (qWidth q) a)).foldl g (id (qWidth q))), 0)

/-- A bitwise reduction folds the active elements in order (R150). -/
theorem redLogic_eq (q : BitVec 3) (g : Nat → Nat → Nat) (id : Nat → Nat) (m : BitVec 16) (a : Vec) :
    redLogic q g id m a = foldActive q g id m a := by
  rw [foldActive, List.foldl_map, List.foldl_filter]
  rfl

/-- Settles O10: each dot product by its lane, each reduction by its function of the mask and a. -/
theorem dotsAndReductionsCompute : Obligations.DotsAndReductionsCompute := by
  refine ⟨?bf16, ?fp16, ?e4m3, ?e5m2, ?i8, ?u8, ?i8u8, ?add, ?min, ?max, ?addw, ?and, ?or, ?xor, ?imax⟩
  case bf16 => exact dot_runs .bf16 .bf16 dotFloat dotFloat (fun _ _ => rfl) (fun _ => rfl) fun _ _ => rfl
  case fp16 => exact dot_runs .fp16 .fp16 dotFloat dotFloat (fun _ _ => rfl) (fun _ => rfl) fun _ _ => rfl
  case e4m3 => exact dot_runs .e4m3 .e4m3 dotFloat dotFloat (fun _ _ => rfl) (fun _ => rfl) fun _ _ => rfl
  case e5m2 => exact dot_runs .e5m2 .e5m2 dotFloat dotFloat (fun _ _ => rfl) (fun _ => rfl) fun _ _ => rfl
  case i8 => exact dot_runs .i8 .i8 dotInt wholeLane (fun _ _ => rfl) (fun _ => rfl) dotInt_eq
  case u8 => exact dot_runs .u8 .u8 dotInt wholeLane (fun _ _ => rfl) (fun _ => rfl) dotInt_eq
  case i8u8 => exact dot_runs .i8 .u8 dotInt wholeLane (fun _ _ => rfl) (fun _ => rfl) dotInt_eq
  case add => exact red_runs (fun o => redTree o.q .add) (fun o => redTree o.q .add) (fun _ _ => rfl) (fun _ => rfl) fun _ _ _ => rfl
  case min => exact red_runs (fun o => redTree o.q .min) (fun o => redTree o.q .min) (fun _ _ => rfl) (fun _ => rfl) fun _ _ _ => rfl
  case max => exact red_runs (fun o => redTree o.q .max) (fun o => redTree o.q .max) (fun _ _ => rfl) (fun _ => rfl) fun _ _ _ => rfl
  case addw => exact red_runs (fun o => redWide o.q) (fun o => redWide o.q) (fun _ _ => rfl) (fun _ => rfl) fun _ _ _ => rfl
  case and =>
    exact red_runs (fun o => redLogic o.q (· &&& ·) fun w => 2 ^ w - 1) (fun o => foldActive o.q (· &&& ·) fun w => 2 ^ w - 1) (fun _ _ => rfl)
      (fun _ => rfl) fun o => redLogic_eq o.q _ _
  case or =>
    exact red_runs (fun o => redLogic o.q (· ||| ·) fun _ => 0) (fun o => foldActive o.q (· ||| ·) fun _ => 0) (fun _ _ => rfl)
      (fun _ => rfl) fun o => redLogic_eq o.q _ _
  case xor =>
    exact red_runs (fun o => redLogic o.q (· ^^^ ·) fun _ => 0) (fun o => foldActive o.q (· ^^^ ·) fun _ => 0) (fun _ _ => rfl)
      (fun _ => rfl) fun o => redLogic_eq o.q _ _
  case imax => exact red_runs (fun o => redImax o.q) (fun o => redImax o.q) (fun _ _ => rfl) (fun _ => rfl) fun _ _ _ => rfl

end Sys2Proof.Proofs.Dots
end

section
/-! SUPPORT. VLOGIC and VCMP (R151, R152). -/

namespace Sys2Proof.Proofs.VectorLogic

open Sys2Proof.Machine Sys2Proof.Proofs.Vectors

/-- The bits of a VCMP: of each element that the mask selects, whether its condition holds, and its flags (R152). -/
def conditions (o : OpA) (at' : Nat → Bool × FlagBits) (v : VIn) : List (Bool × FlagBits) :=
  (List.range (128 / qWidth o.q)).map fun e => if active (maskOf v o.pr) (qWidth o.q) e then at' e else (false, 0)

/-- Whether an element is a NaN, and whether it is a signalling one. -/
def isNan (o : OpA) (a : Nat) : Bool := valIsNan (decodeFmt (qFmt o.q) a)
def signals (o : OpA) (a : Nat) : Bool :=
  match decodeFmt (qFmt o.q) a with
  | .nan nv => nv
  | _ => false

/-- The order of two elements, where neither is a NaN, and the flags that a quiet and another comparison raise (R152). -/
def order (o : OpA) (a b : Nat) : Int := valCmp (decodeFmt (qFmt o.q) a) (decodeFmt (qFmt o.q) b)
def ordered (o : OpA) (a b : Nat) : Bool := !(isNan o a || isNan o b)
def quiet (o : OpA) (a b : Nat) : FlagBits := if signals o a || signals o b then fNV else 0
def loud (o : OpA) (a b : Nat) : FlagBits := if ordered o a b then 0 else fNV

/-- A condition of a float and of an integer type. -/
def condOf (fl : OpA → Nat → Nat → Bool × FlagBits) (int : OpA → Nat → Nat → Bool) (o : OpA) (a b : Nat) : Bool × FlagBits :=
  if qFloat o.q then fl o a b else (int o a b, 0)

theorem loud_eq (o : OpA) (a b : Nat) : loud o a b = flagIf (isNan o a || isNan o b) fNV := by
  cases h : (isNan o a || isNan o b) <;> simp [loud, ordered, h, flagIf]

/-- The shape of a VCMP. -/
theorem cond_runs {i : OpA → Instr} (k : VCond) (fl : OpA → Nat → Nat → Bool × FlagBits)
    (int : OpA → Nat → Nat → Bool)
    (hexec : ∀ o s, exec (i o) s = vcmp (siteOf (i o)) o (compare o.q k) s) (hlen : ∀ o, siteLen (siteOf (i o)) = 4)
    (hg : ∀ o a b, compare o.q k a b = condOf fl int o a b) :
    RunsV i (fun o => [o.a, o.b]) (fun _ => none) (fun _ _ => true) fun o v =>
      { core := setPr v.core o.d.toNat (BitVec.ofNat 16 (packNat 1 ((List.range 16).map fun j =>
          if ((conditions o (fun e => condOf fl int o (elA o v e) (elB o v e)) v)[8 * j / qWidth o.q]?.getD (false, 0)).1 then 1 else 0))),
        fl := (conditions o (fun e => condOf fl int o (elA o v e) (elB o v e)) v).foldl (fun f r => f ||| r.2) 0 } :=
  runsV_of_vecInstr (fun o v => .ok
      { core := setPr v.core o.d.toNat (BitVec.ofNat 16 (packNat 1 ((List.range 16).map fun j =>
          if ((conditions o (fun e => compare o.q k (elA o v e) (elB o v e)) v)[8 * j / qWidth o.q]?.getD (false, 0)).1
            then 1 else 0))),
        fl := (conditions o (fun e => compare o.q k (elA o v e) (elB o v e)) v).foldl (fun f r => f ||| r.2) 0 })
    hexec hlen fun o v => by simp only [hg]

/-- Settles O11: the words of VLOGIC by element, those of VCMP by the condition that each is. -/
theorem vectorLogicAndComparesDecide : Obligations.VectorLogicAndComparesDecide := by
  refine ⟨?and, ?or, ?xor, ?andn, ?not, ?shl, ?shr, ?sra, ?eq, ?ne, ?lt, ?le, ?ltu, ?leu, ?un⟩
  case and => exact runsV2_of_elementAB (fun o => logic o.q fun _ a b => a &&& b) (fun _ _ => rfl) (fun _ => rfl) fun _ _ _ _ _ => rfl
  case or => exact runsV2_of_elementAB (fun o => logic o.q fun _ a b => a ||| b) (fun _ _ => rfl) (fun _ => rfl) fun _ _ _ _ _ => rfl
  case xor => exact runsV2_of_elementAB (fun o => logic o.q fun _ a b => a ^^^ b) (fun _ _ => rfl) (fun _ => rfl) fun _ _ _ _ _ => rfl
  case andn =>
    exact runsV2_of_elementAB (fun o => logic o.q fun w a b => a &&& (2 ^ w - 1 - b)) (fun _ _ => rfl) (fun _ => rfl)
      fun _ _ _ _ _ => rfl
  case not => exact runsV1_of_elementA (fun o a => (2 ^ qWidth o.q - 1 - a, 0)) (fun _ _ => rfl) (fun _ => rfl) fun _ _ => rfl
  case shl =>
    exact runsV2_of_elementAB (fun o => logic o.q fun w a b => a * 2 ^ (b % w) % 2 ^ w) (fun _ _ => rfl) (fun _ => rfl)
      fun _ _ _ _ _ => rfl
  case shr =>
    exact runsV2_of_elementAB (fun o => logic o.q fun w a b => a / 2 ^ (b % w)) (fun _ _ => rfl) (fun _ => rfl)
      fun _ _ _ _ _ => rfl
  case sra =>
    exact runsV2_of_elementAB (fun o => logic o.q fun w a b => ((signedOf w a / 2 ^ (b % w)) % 2 ^ w).toNat)
      (fun _ _ => rfl) (fun _ => rfl) fun _ _ _ _ _ => rfl
  case eq =>
    exact cond_runs .eq (fun o a b => (ordered o a b && order o a b == 0, quiet o a b)) (fun _ a b => a == b)
      (fun _ _ => rfl) (fun _ => rfl) fun _ _ _ => rfl
  case ne =>
    exact cond_runs .ne (fun o a b => (!(ordered o a b && order o a b == 0), quiet o a b)) (fun _ a b => a != b)
      (fun _ _ => rfl) (fun _ => rfl) fun _ _ _ => rfl
  case lt =>
    exact cond_runs .lt (fun o a b => (ordered o a b && decide (order o a b < 0), loud o a b))
      (fun o a b => signedOf (qWidth o.q) a < signedOf (qWidth o.q) b) (fun _ _ => rfl) (fun _ => rfl) fun o a b => by
        simp only [condOf, loud_eq]; rfl
  case le =>
    exact cond_runs .le (fun o a b => (ordered o a b && decide (order o a b ≤ 0), loud o a b))
      (fun o a b => signedOf (qWidth o.q) a ≤ signedOf (qWidth o.q) b) (fun _ _ => rfl) (fun _ => rfl) fun o a b => by
        simp only [condOf, loud_eq]; rfl
  case ltu =>
    exact cond_runs .ltu (fun _ _ _ => (false, 0)) (fun _ a b => a < b) (fun _ _ => rfl) (fun _ => rfl) fun _ _ _ => rfl
  case leu =>
    exact cond_runs .leu (fun _ _ _ => (false, 0)) (fun _ a b => a ≤ b) (fun _ _ => rfl) (fun _ => rfl) fun _ _ _ => rfl
  case un =>
    exact cond_runs .un (fun o a b => (!ordered o a b, quiet o a b)) (fun _ _ _ => false) (fun _ _ => rfl) (fun _ => rfl)
      fun o a b => by simp only [condOf, ordered, Bool.not_not]; rfl

end Sys2Proof.Proofs.VectorLogic
end

section
/-! SUPPORT. VSEL, VMOV and VPERM (R153, R160, R161). -/

namespace Sys2Proof.Proofs.VectorMoves

open Sys2Proof.Machine Sys2Proof.Proofs.Vectors

/-- The number of elements, the number that x_b names among them, and the element bits of x_a. -/
def count (o : OpA) : Nat := 128 / qWidth o.q
def indexB (o : OpA) (v : VIn) : Nat := (getX v.core o.b.toNat).toNat % count o
def bitsA (o : OpA) (v : VIn) : Nat := (getX v.core o.a.toNat).toNat % 2 ^ qWidth o.q

/-- The shape of a result that writes every byte of d and raises nothing. -/
theorem whole_runs {i : OpA → Instr} (srcs : OpA → List (BitVec 5)) (f g : OpA → VIn → Vec)
    (hexec : ∀ o s, exec (i o) s = vecInstr (siteOf (i o)) (srcs o) (some o.d) (fun _ => true)
      (fun v => .ok (wholeOut v (f o v) 0)) s)
    (hlen : ∀ o, siteLen (siteOf (i o)) = 4) (hf : ∀ o v, f o v = g o v) : RunsVW i srcs fun o v => (g o v, 0) :=
  runsV_of_vecInstr (fun o v => .ok (wholeOut v (f o v) 0)) hexec hlen fun o v => by rw [hf]; rfl

/-- The shape of an element by element rearrangement. -/
theorem perm_runs {i : OpA → Instr} (srcs : OpA → List (BitVec 5)) (f g : OpA → VIn → Nat → Nat)
    (hexec : ∀ o s, exec (i o) s = vecInstr (siteOf (i o)) (srcs o) (some o.d) (fun _ => true)
      (fun v => .ok (elementOut v (maskOf v o.pr) (qWidth o.q) fun e => (f o v e, 0))) s)
    (hlen : ∀ o, siteLen (siteOf (i o)) = 4) (hf : ∀ o v e, f o v e = g o v e) :
    RunsV i srcs (fun o => some o.d) (fun _ _ => true) fun o => byElement o fun v e => (g o v e, 0) :=
  runsV_of_vecInstr (fun o v => .ok (elementOut v (maskOf v o.pr) (qWidth o.q) fun e => (f o v e, 0))) hexec hlen
    fun o v => by simp only [hf]; rfl

/-- The selected elements of a source, in order (R153). -/
theorem compress_elems (m : BitVec 16) (w : Nat) (a : Vec) :
    compress m w (elems w a) = ((List.range (128 / w)).filter (active m w)).map (elemAt w a) := by
  refine List.map_congr_left fun e he => ?_
  have hlt : e < 128 / w := List.mem_range.mp (List.mem_of_mem_filter he)
  simp [elems, hlt]

/-- An element of one of two sources, chosen by a test (R161). -/
theorem elemAt_srcV_ite (o : OpA) (v : VIn) (e i : Nat) :
    elemAt (qWidth o.q) (srcV v (if e % 2 == 0 then o.a else o.b)) i = if e % 2 = 0 then elA o v i else elB o v i := by
  by_cases he : e % 2 = 0 <;> simp only [beq_iff_eq, he, if_true, if_false] <;> rfl

/-- Settles O12: each word by the value of an element, or of the whole of d, that it takes from its sources. -/
theorem vectorMovesRearrange : Obligations.VectorMovesRearrange := by
  refine ⟨?sel, ?zero, ?cmpr, ?expd, ?mov, ?bcast, ?ins, ?ext, ?perm, ?ziplo, ?ziphi, ?uzpe, ?uzpo, ?splat, ?rev⟩
  case sel =>
    exact whole_runs (fun o => [o.a, o.b]) (fun o v => selBytes (maskOf v o.pr) (srcV v o.a) (srcV v o.b)) _
      (fun _ _ => rfl) (fun _ => rfl) fun _ _ => rfl
  case zero =>
    exact whole_runs (fun o => [o.a]) (fun o v => selBytes (maskOf v o.pr) (srcV v o.a) 0) _
      (fun _ _ => rfl) (fun _ => rfl) fun _ _ => rfl
  case cmpr =>
    exact whole_runs (fun o => [o.a])
      (fun o v => packElems (qWidth o.q) (compress (maskOf v o.pr) (qWidth o.q) (elems (qWidth o.q) (srcV v o.a))))
      (fun o v => packElems (qWidth o.q) (((List.range (128 / qWidth o.q)).filter (active (maskOf v o.pr) (qWidth o.q))).map
        (elA o v))) (fun _ _ => rfl) (fun _ => rfl) fun o v => by rw [compress_elems]; rfl
  case expd =>
    exact whole_runs (fun o => [o.a])
      (fun o v => packElems (qWidth o.q) (expand (maskOf v o.pr) (qWidth o.q) 0 (elems (qWidth o.q) (srcV v o.a)) (count o)))
      _ (fun _ _ => rfl) (fun _ => rfl) fun _ _ => rfl
  case mov => exact runsV1_of_elementA (fun _ a => (a, 0)) (fun _ _ => rfl) (fun _ => rfl) fun _ _ => rfl
  case bcast =>
    exact perm_runs (fun _ => []) (fun o v _ => bitsA o v) (fun o v _ => bitsA o v) (fun _ _ => rfl) (fun _ => rfl)
      fun _ _ _ => rfl
  case ins =>
    refine runsV_of_vecInstr (fun o v => .ok
      { elementOut v (maskOf v o.pr) (qWidth o.q) (fun e => if e == indexB o v then (bitsA o v, 0) else (0, 0)) with
        mask := (elementOut v (maskOf v o.pr) (qWidth o.q) (fun e =>
          if e == indexB o v then (bitsA o v, 0) else (0, 0))).mask &&&
            activeBytes (BitVec.ofNat 16 (2 ^ (qWidth o.q * indexB o v / 8))) (qWidth o.q) })
      (fun _ _ => rfl) (fun _ => rfl) fun o v => ?_
    have hpair : ∀ e, (if e == indexB o v then (bitsA o v, (0 : FlagBits)) else (0, 0)) =
        (if e = indexB o v then bitsA o v else 0, 0) := fun e => by
      by_cases he : e = indexB o v <;> simp only [beq_iff_eq, he, if_true, if_false]
    simp only [hpair]
    rfl
  case ext =>
    exact runsV_of_vecInstr (fun o v => .ok
      { core := setX v.core o.d.toNat (BitVec.ofNat 64 (elemAt (qWidth o.q) (srcV v o.a) (indexB o v))) })
      (fun _ _ => rfl) (fun _ => rfl) fun _ _ => rfl
  case perm =>
    exact perm_runs (fun o => [o.a, o.b]) (fun o v j =>
      if 128 ≤ elemAt 8 (srcV v o.b) j then 0
      else if elemAt 8 (srcV v o.b) j % 32 < 16 then elemAt 8 (srcV v o.a) (elemAt 8 (srcV v o.b) j % 32)
      else elemAt 8 (srcV v o.d) (elemAt 8 (srcV v o.b) j % 32 - 16)) _ (fun _ _ => rfl) (fun _ => rfl) fun _ _ _ => rfl
  case ziplo =>
    exact perm_runs (fun o => [o.a, o.b])
      (fun o v e => elemAt (qWidth o.q) (srcV v (if e % 2 == 0 then o.a else o.b)) (e / 2))
      (fun o v e => if e % 2 = 0 then elA o v (e / 2) else elB o v (e / 2))
      (fun _ _ => rfl) (fun _ => rfl) fun o v e => elemAt_srcV_ite o v e _
  case ziphi =>
    exact perm_runs (fun o => [o.a, o.b])
      (fun o v e => elemAt (qWidth o.q) (srcV v (if e % 2 == 0 then o.a else o.b)) (e / 2 + count o / 2))
      (fun o v e => if e % 2 = 0 then elA o v (e / 2 + count o / 2) else elB o v (e / 2 + count o / 2))
      (fun _ _ => rfl) (fun _ => rfl) fun o v e => elemAt_srcV_ite o v e _
  case uzpe =>
    exact perm_runs (fun o => [o.a, o.b])
      (fun o v e => if e < count o / 2 then elA o v (2 * e) else elB o v (2 * (e - count o / 2))) _
      (fun _ _ => rfl) (fun _ => rfl) fun _ _ _ => rfl
  case uzpo =>
    exact perm_runs (fun o => [o.a, o.b])
      (fun o v e => if e < count o / 2 then elA o v (2 * e + 1) else elB o v (2 * (e - count o / 2) + 1)) _
      (fun _ _ => rfl) (fun _ => rfl) fun _ _ _ => rfl
  case splat =>
    exact perm_runs (fun o => [o.a]) (fun o v _ => elA o v (indexB o v)) (fun o v _ => elA o v (indexB o v))
      (fun _ _ => rfl) (fun _ => rfl) fun _ _ _ => rfl
  case rev =>
    exact perm_runs (fun o => [o.a]) (fun o v e => elA o v (count o - 1 - e)) _ (fun _ _ => rfl) (fun _ => rfl)
      fun _ _ _ => rfl

end Sys2Proof.Proofs.VectorMoves
end

section
/-! SUPPORT. VCVT, VSCALE and VCB (R154 to R158). -/

namespace Sys2Proof.Proofs.VectorConversions

open Sys2Proof.Machine Sys2Proof.Proofs.Vectors

/-- The elements that a conversion makes, and how many there are: what fits of the source and of the target (R154). -/
def convertCount (o : OpA) : Nat := min (128 / qWidth o.q) (128 / fmtWidth (cvtFmt (o.b.toNat % 16)))
def convertElems (o : OpA) (mode : Nat) (v : VIn) : List (Nat × FlagBits) :=
  (List.range (convertCount o)).map fun e => if active (maskOf v o.pr) (fmtWidth (cvtFmt (o.b.toNat % 16))) e
    then roundTo (cvtFmt (o.b.toNat % 16)) mode (o.b.getLsbD 4) (stoWord (stoKey v.core) e) (decodeFmt (qFmt o.q) (elA o v e))
    else (0, 0)

/-- The bytes that a conversion writes: those of active elements, and those above all of them whatever the mask (R154). -/
def convertMask (o : OpA) (v : VIn) : BitVec 16 :=
  let wt := fmtWidth (cvtFmt (o.b.toNat % 16))
  BitVec.ofNat 16 (packNat 1 ((List.range 16).map fun j =>
    if wt * convertCount o ≤ 8 * j || active (maskOf v o.pr) wt (8 * j / wt) then 1 else 0))

/-- What a conversion under a rounding mode does. -/
def converted (o : OpA) (mode : Nat) (v : VIn) : VOut :=
  { core := v.core, val := packElems (fmtWidth (cvtFmt (o.b.toNat % 16))) ((convertElems o mode v).map fun r => r.1),
    mask := convertMask o v, fl := (convertElems o mode v).foldl (fun f r => f ||| r.2) 0 }

theorem convert_eq (o : OpA) (mode : Nat) (v : VIn) : convert o mode v = .ok (converted o mode v) := by
  have hbyte : ∀ wt n j, (if wt * n ≤ 8 * j then 1 else if active (maskOf v o.pr) wt (8 * j / wt) then 1 else 0) =
      if wt * n ≤ 8 * j || active (maskOf v o.pr) wt (8 * j / wt) then 1 else 0 := fun wt n j => by
    by_cases h : wt * n ≤ 8 * j <;> simp [h]
  simp only [convert, hbyte]
  rfl

/-- The shape of a conversion. -/
theorem cvt_runs {i : OpA → Instr} (mode : Nat)
    (hexec : ∀ o s, exec (i o) s = vecInstr (siteOf (i o)) [o.a] (some o.d) (fun _ => true) (convert o mode) s)
    (hlen : ∀ o, siteLen (siteOf (i o)) = 4) :
    RunsV i (fun o => [o.a]) (fun o => some o.d) (fun _ _ => true) fun o => converted o mode :=
  runsV_of_vecInstr (fun o => convert o mode) hexec hlen fun o v => convert_eq o mode v

/-- The shape of a scaling. -/
theorem scale_runs {i : OpA → Instr} (g : OpA → Vec → Nat → Val → Val)
    (hexec : ∀ o s, exec (i o) s = vecInstr (siteOf (i o)) [o.a, o.b] (some o.d) (fun _ => true) (scaleVec o g) s)
    (hlen : ∀ o, siteLen (siteOf (i o)) = 4) :
    RunsV i (fun o => [o.a, o.b]) (fun o => some o.d) (fun _ _ => true) fun o => byElement o fun v e =>
      rne (qFmt o.q) (g o (srcV v o.b) e (decodeFmt (qFmt o.q) (elA o v e))) :=
  runsV_of_vecInstr (fun o => scaleVec o g) hexec hlen fun _ _ => rfl

/-- The two fields of a codebook index and its scale (R158). -/
theorem cbDec_eq (o : OpA) (v : VIn) : cbDec o v = .ok (elementOut v (maskOf v o.pr) 16 fun j =>
    rne (qFmt o.q) (cbWeight ((srcV v o.a).toNat % 2 ^ 32) ((srcV v o.a).toNat / 2 ^ 32 % 2 ^ 16) j)) := by
  simp only [cbDec, fieldOf, pow_zero, Nat.div_one]

/-- Settles O13: the conversions by their mode, the scalings by their scale, and the codebook's weights by its fields. -/
theorem vectorConversionsRound : Obligations.VectorConversionsRound := by
  refine ⟨?rne, ?rtz, ?rup, ?rdn, ?sto, ?wide, ?ldexp, ?mx, ?sb4, ?cb, ?dec⟩
  case rne => exact cvt_runs 0 (fun _ _ => rfl) fun _ => rfl
  case rtz => exact cvt_runs 1 (fun _ _ => rfl) fun _ => rfl
  case rup => exact cvt_runs 2 (fun _ _ => rfl) fun _ => rfl
  case rdn => exact cvt_runs 3 (fun _ _ => rfl) fun _ => rfl
  case sto => exact cvt_runs 4 (fun _ _ => rfl) fun _ => rfl
  case wide => exact runsV_of_vecInstr widen (fun _ _ => rfl) (fun _ => rfl) fun _ _ => rfl
  case ldexp => exact scale_runs scaleLdexp (fun _ _ => rfl) fun _ => rfl
  case mx => exact scale_runs (scaleByte fun c => scaleE8M0 c) (fun _ _ => rfl) fun _ => rfl
  case sb4 => exact scale_runs (scaleByte fun c => scaleE5M3 c) (fun _ _ => rfl) fun _ => rfl
  case cb => exact scale_runs scaleCb (fun _ _ => rfl) fun _ => rfl
  case dec => exact runsV_of_vecInstr cbDec (fun _ _ => rfl) (fun _ => rfl) cbDec_eq

end Sys2Proof.Proofs.VectorConversions
end

section
/-! SUPPORT. VLINK and ID `lane` (R132, R145, R162). -/

namespace Sys2Proof.Proofs.NeighbourLinks

open Sys2Proof.Machine Sys2Proof.Laws.Shapes Sys2Proof.Proofs.Vectors Sys2Proof.Proofs.WaitsAndSystem

/-- A result that sends the word of link a on through the opposite link, with `fwd` (R162). -/
def forwarding (o : OpA) (r : VOut) (v : VIn) : VOut :=
  { r with push := if o.q == 1 then [(opposite o.a, srcV v o.a)] else [] }

theorem forwarding_eq (o : OpA) (r : VOut) (v : VIn) : forwarding o r v =
    { r with push := if o.q = 1 then [(if o.a = 30 then 31 else 30, srcV v o.a)] else [] } := by
  simp only [forwarding, opposite, beq_iff_eq]

/-! ### `peek` -/

theorem exec_vlinkPeek (o : OpA) (s : State) : exec (.vlinkPeek o) s = execVlinkPeek o s := rfl

/-- The queue of the link that a names. -/
def linkQueue (o : OpA) (c : Core) : List Vec := if o.a = 30 then c.lw else c.le

/-- What `peek` does on a core whose queue holds a word (R162). -/
def peeked (o : OpA) (c : Core) : VOut :=
  { core := c, val := (linkQueue o c).headD 0, mask := getPr c o.pr.toNat }

/-- The meaning of `peek` on what it sees of a core. -/
def peekBody (o : OpA) (v : VIn) : Res VOut :=
  if (if o.a == 30 then v.core.lw else v.core.le).isEmpty then .stall
  else .ok { core := v.core, val := srcV v o.a, mask := maskOf v o.pr }

theorem peekBody_of_empty {o : OpA} {c : Core} (h : linkQueue o c = []) : peekBody o (vecView [] c) = .stall := by
  have hq : (if o.a == 30 then c.lw else c.le).isEmpty = true := by
    simp only [beq_iff_eq]
    exact List.isEmpty_iff.mpr h
  exact if_pos hq

theorem peekBody_of_word {o : OpA} {c : Core} (ha : o.a = 30 ∨ o.a = 31) (h : linkQueue o c ≠ []) :
    peekBody o (vecView [] c) = .ok (peeked o c) := by
  have hq : (if o.a == 30 then c.lw else c.le).isEmpty = false := by
    simp only [beq_iff_eq]
    exact List.isEmpty_eq_false_iff.mpr h
  have hval : srcV (vecView [] c) o.a = (linkQueue o c).headD 0 := by
    rcases ha with ha | ha <;> simp [srcV, vecView, linkQueue, ha, List.headD_eq_head?_getD]
  refine (if_neg (Bool.eq_false_iff.mp hq)).trans ?_
  rw [hval]
  rfl

/-- Cores of which none traps and some stalls stall together (R112). -/
theorem collect_stall {α : Type} {l : List (Res α)} (hno : ∀ r ∈ l, trapOf r = none) (hs : Res.stall ∈ l) :
    collect l = .stall := by
  unfold collect
  split
  · rename_i t ht
    obtain ⟨r, hr, hrt⟩ := List.exists_of_findSome?_eq_some ht
    cases (hno r hr).symm.trans hrt
  · clear * - hno hs
    induction l with
    | nil => cases hs
    | cons r l ih =>
      have htail := fun hmem => ih (fun x hx => hno x (List.mem_cons_of_mem _ hx)) hmem
      have hhead := hno r List.mem_cons_self
      rw [List.foldr_cons]
      cases r with
      | trap t => cases hhead
      | stall => rfl
      | ok a =>
        rw [htail ((List.mem_cons.mp hs).resolve_left nofun)]

/-- A result that only writes a vector register below the links. -/
theorem applyVec_registers {f : Firing} {d : BitVec 5} {outs : List VOut} (hd : d.toNat < 30)
    (hpush : ∀ r ∈ outs, r.push = []) : applyVec f (some d) outs = some (putCores f (outs.map fun r =>
      setV { r.core with nflags := r.core.nflags ||| r.fl } d.toNat r.mask r.val)) := by
  have hfold : ∀ g, outs.foldlM (init := g) (fun f r =>
      ([] ++ r.push).foldlM (init := f)
        fun f p => pushLink f r.core.idx p.1 p.2) = some g := by
    intro g
    induction outs with
    | nil => rfl
    | cons r outs ih =>
      obtain ⟨hr, houts⟩ := List.forall_mem_cons.mp hpush
      rw [List.foldlM_cons, hr]
      exact ih houts
  simp only [applyVec, hd, if_true]
  exact hfold _

theorem filter_all {α : Type} (l : List α) : (l.filter fun _ => true) = l := List.filter_eq_self.mpr fun _ _ => rfl

section
variable {s : State} {f : Firing} {units : List Core} {o : OpA}

/-- `peek` stalls while a core's queue is empty (R162). -/
theorem vlinkPeek_stalls (h : Issues s (siteOf (.vlinkPeek o)) f units) (ha : o.a = 30 ∨ o.a = 31)
    (hempty : ∃ c ∈ units, linkQueue o c = []) : exec (.vlinkPeek o) s = .next (putFiring s f) := by
  obtain ⟨c, hc, hq⟩ := hempty
  have hcollect : collect (units.map fun c => peekBody o (vecView [] c)) = .stall := by
    refine collect_stall (fun r hr => ?_) (List.mem_map.mpr ⟨c, hc, peekBody_of_empty hq⟩)
    obtain ⟨k, -, rfl⟩ := List.mem_map.mp hr
    by_cases hk : linkQueue o k = []
    · rw [peekBody_of_empty hk]; rfl
    · rw [peekBody_of_word ha hk]; rfl
  rw [exec_vlinkPeek, execVlinkPeek]
  exact vecInstr_stalls h (List.all_eq_true.mpr fun _ _ => rfl) (by rw [filter_all]; exact hcollect)

/-- `peek` copies the active bytes of the head words where every core's queue holds one (R162). -/
theorem vlinkPeek_peeks (h : Issues s (siteOf (.vlinkPeek o)) f units) (ha : o.a = 30 ∨ o.a = 31)
    (hwords : ∀ c ∈ units, linkQueue o c ≠ []) (hd : o.d.toNat < 30) : exec (.vlinkPeek o) s = .next (afterWord s f
      (putCores f (units.map fun c =>
        setV c o.d.toNat (getPr c o.pr.toNat) ((linkQueue o c).headD 0))) units 4) := by
  have hmap : (units.map fun c => peekBody o (vecView [] c)) = units.map fun c => .ok (peeked o c) :=
    List.map_congr_left fun c hc => peekBody_of_word ha (hwords c hc)
  have hcollect : collect (units.map fun c => peekBody o (vecView [] c)) = .ok (units.map (peeked o)) := by
    rw [hmap]
    exact collect_ok units (peeked o)
  have happly := applyVec_registers (f := f) hd (outs := units.map (peeked o)) fun r hr => by
    obtain ⟨c, -, rfl⟩ := List.mem_map.mp hr
    rfl
  rw [exec_vlinkPeek, execVlinkPeek]
  refine (vecInstr_applies h (List.all_eq_true.mpr fun _ _ => rfl) (by rw [filter_all]; exact hcollect) happly).trans ?_
  rw [List.map_map]
  have hflags : ∀ c : Core, c.nflags ||| 0 = c.nflags := fun c => BitVec.or_zero
  simp only [Function.comp_def, peeked, hflags]
  rfl


end

/-- Settles O15: the words by what they take from the links and send on; `peek` by whether the queues hold a word. -/
theorem neighbourLinksMove : Obligations.NeighbourLinksMove := by
  refine ⟨?pop, ?skip, ?lane, fun s f units o h => fun ha => ⟨vlinkPeek_stalls h ha, vlinkPeek_peeks h ha⟩⟩
  case pop =>
    exact runsV_of_vecInstr (fun o v => .ok (forwarding o { core := v.core, val := srcV v o.a, mask := maskOf v o.pr } v))
      (fun _ _ => rfl) (fun _ => rfl) fun o v => by
        rw [forwarding_eq]
  case skip =>
    exact runsV_of_vecInstr (fun o v => .ok (forwarding o { core := v.core } v)) (fun _ _ => rfl) (fun _ => rfl) fun o v => by
        rw [forwarding_eq]
  case lane =>
    exact runsV_of_vecInstr (fun o v => .ok (wholeOut v (packElems (laneWidth o.q) (List.range (128 / laneWidth o.q))) 0))
      (fun _ _ => rfl) (fun _ => rfl) fun _ _ => rfl

end Sys2Proof.Proofs.NeighbourLinks
end

section
/-! SUPPORT. VSFU and VSFU2 (R57, R159). -/

namespace Sys2Proof.Proofs.SpecialFunctions

open Sys2Proof.Machine Sys2Proof.Proofs.Vectors

/-- A special function of a NaN is the canonical NaN (R57). -/
theorem sfu_of_nan {x : Fmt} {nan c : Nat} {nv : Bool} (f : Sfu) (hnan : ∀ nv, (rne x (.nan nv)).1 = nan)
    (h : decodeFmt x c = .nan nv) : (sfu f x c).1 = nan := by
  rw [← hnan nv]
  simp only [sfu, h]

/-- A logarithm or root below 0 is invalid (R57). -/
theorem sfu_below_zero {x : Fmt} {nan c n d : Nat} {e : Int} {f : Sfu} (hf : f ∈ [Sfu.log2, .rsqrt, .sqrt])
    (hnan : rne x (.nan true) = (nan, fNV)) (h : decodeFmt x c = .num true n d e) (hn : n ≠ 0) :
    sfu f x c = (nan, fNV) := by
  have hform : sfuForm f true n e = .exact (.nan true) 0 := by
    simp only [List.mem_cons, List.not_mem_nil, or_false] at hf
    rcases hf with rfl | rfl | rfl <;> rfl
  simp only [sfu, h, beq_iff_eq, hn, if_false, hform, hnan]
  rfl

theorem sfu_of_negInf {x : Fmt} {nan c : Nat} {f : Sfu} (hf : f ∈ [Sfu.log2, .rsqrt, .sqrt])
    (hnan : rne x (.nan true) = (nan, fNV)) (h : decodeFmt x c = .inf true) : sfu f x c = (nan, fNV) := by
  simp only [List.mem_cons, List.not_mem_nil, or_false] at hf
  rcases hf with rfl | rfl | rfl <;> simpa only [sfu, h, if_true] using hnan

/-- The shape of a special function's word. -/
theorem sfu_runs {i : OpA → Instr} (g : Sfu)
    (hexec : ∀ o s, exec (i o) s = elementA (siteOf (i o)) o (sfu g (qFmt o.q)) s)
    (hlen : ∀ o, siteLen (siteOf (i o)) = 4) : RunsV1 i fun o => sfu g (qFmt o.q) :=
  runsV1_of_elementA (fun o => sfu g (qFmt o.q)) hexec hlen fun _ _ => rfl

/-- Settles O14: the words by element; the table by evaluation at its arguments, but for NaNs and what lies below 0. -/
theorem specialFunctionsApply : Obligations.SpecialFunctionsApply := by
  refine ⟨⟨?exp2, ?log2, ?rcp, ?rsqrt, ?sqrt, ?sin, ?cos, ?tanh, ?sigm, ?gelut, ?gelue, ?silu, ?erf, ?softp⟩,
    ⟨fun f c nv => sfu_of_nan f ?nan32, fun f hf => ⟨sfu_of_negInf hf ?nv32 ?inf32, fun c n d e => sfu_below_zero hf ?nv32⟩, ?rest32⟩,
    ⟨fun f c nv => sfu_of_nan f ?nanB, fun f hf => ⟨sfu_of_negInf hf ?nvB ?infB, fun c n d e => sfu_below_zero hf ?nvB⟩, ?restB⟩,
    ⟨fun f c nv => sfu_of_nan f ?nan16, fun f hf => ⟨sfu_of_negInf hf ?nv16 ?inf16, fun c n d e => sfu_below_zero hf ?nv16⟩, ?rest16⟩⟩
  case exp2 => exact sfu_runs .exp2 (fun _ _ => rfl) fun _ => rfl
  case log2 => exact sfu_runs .log2 (fun _ _ => rfl) fun _ => rfl
  case rcp => exact sfu_runs .rcp (fun _ _ => rfl) fun _ => rfl
  case rsqrt => exact sfu_runs .rsqrt (fun _ _ => rfl) fun _ => rfl
  case sqrt => exact sfu_runs .sqrt (fun _ _ => rfl) fun _ => rfl
  case sin => exact sfu_runs .sin (fun _ _ => rfl) fun _ => rfl
  case cos => exact sfu_runs .cos (fun _ _ => rfl) fun _ => rfl
  case tanh => exact sfu_runs .tanh (fun _ _ => rfl) fun _ => rfl
  case sigm => exact sfu_runs .sigm (fun _ _ => rfl) fun _ => rfl
  case gelut => exact sfu_runs .gelut (fun _ _ => rfl) fun _ => rfl
  case gelue => exact sfu_runs .gelue (fun _ _ => rfl) fun _ => rfl
  case silu => exact sfu_runs .silu (fun _ _ => rfl) fun _ => rfl
  case erf => exact sfu_runs .erf (fun _ _ => rfl) fun _ => rfl
  case softp => exact sfu_runs .softp (fun _ _ => rfl) fun _ => rfl
  case nan32 => decide
  case nanB => decide
  case nan16 => decide
  case nv32 => decide
  case nvB => decide
  case nv16 => decide
  case inf32 => decide
  case infB => decide
  case inf16 => decide
  case rest32 => decide
  case restB => decide
  case rest16 => decide

end Sys2Proof.Proofs.SpecialFunctions
end

section
/-! SUPPORT. From the text of a memory instruction's meaning to the statement of it: its checks, then what it does (R112, R192). -/

namespace Sys2Proof.Proofs.MemoryShapes

open Sys2Proof.Machine Sys2Proof.Laws.Shapes Sys2Proof.Proofs.Rules

/-! ### Accesses that all pass their checks -/

theorem firstTrap_ok (l : List (Core × Acc)) : firstTrap (l.map fun e => (e.1, .ok e.2)) = none := by
  induction l with
  | nil => rfl
  | cons e l ih => exact ih

theorem passed_ok (l : List (Core × Acc)) : passed (l.map fun e => (e.1, .ok e.2)) = l := by
  induction l with
  | nil => rfl
  | cons e l ih => exact congrArg (e :: ·) ih

/-! ### The shape of a memory instruction -/

section
variable {s : State} {f : Firing} {units : List Core} {w : Site} {uni : Bool} {cnt : Option Bool}
  {sel : Firing → List Core → List Core} {chk : Firing → List Core → Core → Option (State → State × Chk)}
  {act : State → Firing → List Core → Nat → List (Core × Acc) → Out}

/-- The checks that a memory instruction asks for. -/
def asksOf (sel : Firing → List Core → List Core) (chk : Firing → List Core → Core → Option (State → State × Chk))
    (f : Firing) (units : List Core) : List (Core × (State → State × Chk)) :=
  (sel f units).filterMap fun c => (chk f units c).map fun g => (c, g)

/-- Whether the counter that a memory instruction would raise is full (R61). -/
def fullFor (s : State) (f : Firing) (units : List Core) (uni : Bool) (cnt : Option Bool)
    (asks : List (Core × (State → State × Chk))) : Bool :=
  countersFull (putFiring s f) f (if uni then units else asks.map (·.1)) cnt

/-- A memory instruction waits while a counter that its accesses would raise is full (R61). -/
theorem memShape_waits (h : Issues s w f units) (hne : asksOf sel chk f units ≠ [])
    (hfull : fullFor s f units uni cnt (asksOf sel chk f units) = true) :
    memShape w uni cnt sel chk act s = .next (putFiring s f) := by
  have hask : (asksOf sel chk f units).isEmpty = false := List.isEmpty_eq_false_iff.mpr hne
  rw [asksOf] at hask hfull
  rw [fullFor] at hfull
  simp only [memShape, withFiring_issues h, hask, hfull, Bool.not_false, Bool.and_self, if_true]

/-- With room in the counters, the lowest core's trap is taken, and else the instruction goes by its accesses. -/
theorem memShape_checks (h : Issues s w f units)
    (hroom : asksOf sel chk f units = [] ∨ fullFor s f units uni cnt (asksOf sel chk f units) = false) :
    memShape w uni cnt sel chk act s = match checkAll (putFiring s f) (asksOf sel chk f units) with
      | (s', rs) => match firstTrap rs with
        | some t => trapAt s' f t w
        | none => if (passed rs).length < rs.length then .next (waitPages s' f units uni rs)
                  else act s' f units ((sel f units).length - (asksOf sel chk f units).length)
                    ((passed rs).map fun e => (e.1, { e.2 with words := w.words })) := by
  have hpass : (!(asksOf sel chk f units).isEmpty && fullFor s f units uni cnt (asksOf sel chk f units)) = false := by
    rcases hroom with hnil | hno
    · rw [hnil]; rfl
    · rw [hno, Bool.and_false]
  rw [asksOf, fullFor] at hpass
  simp only [memShape, withFiring_issues h, hpass, Bool.false_eq_true, if_false]
  rfl

theorem memShape_traps {s' : State} {rs : List (Core × Chk)} {t : TrapInfo} (h : Issues s w f units)
    (hroom : asksOf sel chk f units = [] ∨ fullFor s f units uni cnt (asksOf sel chk f units) = false)
    (hchk : checkAll (putFiring s f) (asksOf sel chk f units) = (s', rs)) (ht : firstTrap rs = some t) :
    memShape w uni cnt sel chk act s = .next (trapFiring s' f t (w.words.head?.getD 0) (w.words[1]?.getD 0)) := by
  simp only [memShape_checks h hroom, hchk, ht, trapAt]

theorem memShape_acts {s' : State} {l : List (Core × Acc)} (h : Issues s w f units)
    (hroom : asksOf sel chk f units = [] ∨ fullFor s f units uni cnt (asksOf sel chk f units) = false)
    (hchk : checkAll (putFiring s f) (asksOf sel chk f units) = (s', l.map fun e => (e.1, .ok e.2))) :
    memShape w uni cnt sel chk act s = act s' f units ((sel f units).length - (asksOf sel chk f units).length)
      (l.map fun e => (e.1, { e.2 with words := w.words })) := by
  simp only [memShape_checks h hroom, hchk, firstTrap_ok, passed_ok, List.length_map, lt_irrefl, if_false]

end

/-- An instruction written as `memShape` is checked core by core, and does as its last part says. -/
theorem checkedIf_of_memShape {Op : Type} {i : Op → Instr} {uni : Op → Bool} {cnt : Op → Option Bool}
    {sel : Op → Firing → List Core → List Core} {chk : Op → Firing → List Core → Core → Option (State → State × Chk)}
    {ready : Op → State → Firing → List Core → List (Core × Acc) → Bool}
    {after : Op → State → Firing → List Core → Nat → List (Core × Acc) → State}
    (act : Op → State → Firing → List Core → Nat → List (Core × Acc) → Out)
    (hexec : ∀ o s, exec (i o) s = memShape (siteOf (i o)) (uni o) (cnt o) (sel o) (chk o) (act o) s)
    (hact : ∀ o s f units idle l, act o s f units idle l =
      .next (if ready o s f units l then after o s f units idle l else s)) : CheckedIf i uni cnt sel chk ready after := by
  intro s f units o h
  refine ⟨fun ⟨hne, hfull⟩ => ?_, fun hroom => ⟨fun s' rs t hchk ht => ?_, fun s' l hchk => ⟨fun hr => ?_, fun hr => ?_⟩⟩⟩
  · rw [hexec]
    exact memShape_waits h hne hfull
  · rw [hexec]
    exact memShape_traps h hroom hchk ht
  · rw [hexec, memShape_acts h hroom hchk, hact, if_pos hr]
    rfl
  · rw [hexec, memShape_acts h hroom hchk, hact, if_neg (Bool.eq_false_iff.mp hr)]

/-- An instruction written as `memShape` whose last part never waits. -/
theorem checked_of_memShape {Op : Type} {i : Op → Instr} {uni : Op → Bool} {cnt : Op → Option Bool}
    {sel : Op → Firing → List Core → List Core} {chk : Op → Firing → List Core → Core → Option (State → State × Chk)}
    {after : Op → State → Firing → List Core → Nat → List (Core × Acc) → State}
    (act : Op → State → Firing → List Core → Nat → List (Core × Acc) → Out)
    (hexec : ∀ o s, exec (i o) s = memShape (siteOf (i o)) (uni o) (cnt o) (sel o) (chk o) (act o) s)
    (hact : ∀ o s f units idle l, act o s f units idle l = .next (after o s f units idle l)) :
    Checked i uni cnt sel chk after :=
  checkedIf_of_memShape act hexec hact

/-- An instruction written as `memInstr`, whose accesses pass the checks of R192, and may then have to wait. -/
theorem runsMIf_of_memInstr {Op : Type} {i : Op → Instr} {uni : Op → Bool} {form : Form} {want : Want}
    {sel : Op → Firing → List Core → List Core} {acc : Op → Firing → List Core → Core → Option (Nat × Acc)}
    {ready : Op → State → Firing → List Core → List (Core × Acc) → Bool}
    {after : Op → State → Firing → List Core → Nat → List (Core × Acc) → State}
    (act : Op → State → Firing → List Core → Nat → List (Core × Acc) → Out)
    (hexec : ∀ o s, exec (i o) s = memInstr (siteOf (i o)) (uni o) form want (sel o) (acc o) (act o) s)
    (hact : ∀ o s f units idle l, act o s f units idle l =
      .next (if ready o s f units l then after o s f units idle l else s)) : RunsMIf i uni form want sel acc ready after :=
  checkedIf_of_memShape act hexec hact

/-- An instruction written as `memInstr` whose accesses go on at once. -/
theorem runsM_of_memInstr {Op : Type} {i : Op → Instr} {uni : Op → Bool} {form : Form} {want : Want}
    {sel : Op → Firing → List Core → List Core} {acc : Op → Firing → List Core → Core → Option (Nat × Acc)}
    {after : Op → State → Firing → List Core → Nat → List (Core × Acc) → State}
    (act : Op → State → Firing → List Core → Nat → List (Core × Acc) → Out)
    (hexec : ∀ o s, exec (i o) s = memInstr (siteOf (i o)) (uni o) form want (sel o) (acc o) (act o) s)
    (hact : ∀ o s f units idle l, act o s f units idle l = .next (after o s f units idle l)) :
    RunsM i uni form want sel acc after :=
  runsMIf_of_memInstr act hexec hact

/-! ### The parts of format M -/

theorem memUnits_eq_selM (o : OpM) (f : Firing) (units : List Core) : memUnits f units (k1 o.o) o.o.pr = selM o f units := by
  simp only [memUnits, selM, k1, beq_iff_eq]

theorem eaIndexed_eq (o : OpM) (r : RFile) : eaIndexed r o = addrIndexed o r := rfl
theorem eaPlain_eq (o : OpM) (r : RFile) : eaPlain r o = addrPlain o r := rfl

theorem destOf_eq_destM (o : OpM) : destOf (k1 o.o) o.o.d = destM o := by
  simp only [destOf, destM, k1, beq_iff_eq]

theorem issueOn_eq_issued (uni : Bool) (s : State) (f : Firing) (units : List Core) (idle : Nat) (l : List (Core × Acc)) :
    issueOn uni 8 s f units idle l = .next (issued uni s f units idle l) := rfl

end Sys2Proof.Proofs.MemoryShapes
end

section
/-! SUPPORT. LD and ST (R70, R192, R197). -/

namespace Sys2Proof.Proofs.ScalarAccesses

open Sys2Proof.Machine Sys2Proof.Proofs.MemoryShapes

/-- The access of a scalar load on a core, and of a scalar store. -/
def loadAcc (size : Nat) (sext : Bool) (o : OpM) (f : Firing) (units : List Core) (c : Core) : Acc :=
  { kind := .load, ea := addrIndexed o (fileM o f units c), size := size, sext := sext, sets := 1, dest := destM o,
    nu := o.nu, pol := o.pol }
def storeAcc (size : Nat) (o : OpM) (f : Firing) (units : List Core) (c : Core) : Acc :=
  { kind := .store, ea := addrIndexed o (fileM o f units c), size := size, sets := 2,
    data := (getS (fileM o f units c) o.o.d.toNat).setWidth 128, bytes := BitVec.ofNat 16 (2 ^ size - 1),
    nu := o.nu, pol := o.pol }

/-- The shape of a scalar load. -/
theorem load_runs {i : OpM → Instr} (size : Nat) (sext : Bool)
    (hexec : ∀ o s, exec (i o) s = loadScalar (i o) o size sext s) :
    RunsM i (fun o => o.o.k == 1) .scalar .rd selM (fun o f units c => some (size, loadAcc size sext o f units c))
      fun o => issued (o.o.k == 1) :=
  runsM_of_memInstr (fun o => issueOn (k1 o.o) 8) (fun o s => by
    simp only [hexec, loadScalar, memUnits_eq_selM, destOf_eq_destM]
    rfl) fun o => issueOn_eq_issued (k1 o.o)

/-- The shape of a scalar store. -/
theorem store_runs {i : OpM → Instr} (size : Nat) (hexec : ∀ o s, exec (i o) s = storeScalar (i o) o size s) :
    RunsM i (fun o => o.o.k == 1) .scalar .wr selM (fun o f units c => some (size, storeAcc size o f units c))
      fun o => issued (o.o.k == 1) :=
  runsM_of_memInstr (fun o => issueOn (k1 o.o) 8) (fun o s => by
    simp only [hexec, storeScalar, memUnits_eq_selM]
    rfl) fun o => issueOn_eq_issued (k1 o.o)

/-- Settles O16: each word is a scalar load or store of its size. -/
theorem scalarLoadsAndStoresIssue : Obligations.ScalarLoadsAndStoresIssue := by
  refine ⟨?b, ?h, ?w, ?d, ?bs, ?hs, ?ws, ?stb, ?sth, ?stw, ?std⟩
  case b => exact load_runs 1 false fun _ _ => rfl
  case h => exact load_runs 2 false fun _ _ => rfl
  case w => exact load_runs 4 false fun _ _ => rfl
  case d => exact load_runs 8 false fun _ _ => rfl
  case bs => exact load_runs 1 true fun _ _ => rfl
  case hs => exact load_runs 2 true fun _ _ => rfl
  case ws => exact load_runs 4 true fun _ _ => rfl
  case stb => exact store_runs 1 fun _ _ => rfl
  case sth => exact store_runs 2 fun _ _ => rfl
  case stw => exact store_runs 4 fun _ _ => rfl
  case std => exact store_runs 8 fun _ _ => rfl

end Sys2Proof.Proofs.ScalarAccesses
end

section
/-! SUPPORT. VLD and VST (R60, R143, R198). -/

namespace Sys2Proof.Proofs.VectorAccesses

open Sys2Proof.Machine Sys2Proof.Proofs.MemoryShapes

/-- The address of a vector access on a core, and the size of an element in bytes. -/
def vecAddr (o : OpM) (f : Firing) (units : List Core) (c : Core) : Word := addrIndexed o (fileOf f units false c)
def elemSize (o : OpM) : Nat := qWidth o.o.q / 8

/-- What a VST stores on a core: a register, or the word at the head of a link. -/
def storedVec (o : OpM) (c : Core) : Vec :=
  if o.o.d = 30 then c.lw.headD 0 else if o.o.d = 31 then c.le.headD 0 else vget c.v o.o.d.toNat 0

/-- The access of a VLD on a core that loads `n` bytes, broadcast or by lane. -/
def vldAcc (n : Nat) (bc lanes : Bool) (o : OpM) (f : Firing) (units : List Core) (c : Core) : Acc :=
  { kind := .load, ea := vecAddr o f units c, size := n, lanes := lanes, sets := 1,
    dest := .vec o.o.d.toNat n bc (vecMask o c), nu := o.nu, pol := o.pol }
/-- The access of a VST on a core that stores the bytes `m` of `n`. -/
def vstAcc (n : Nat) (m : BitVec 16) (o : OpM) (f : Firing) (units : List Core) (c : Core) : Acc :=
  { kind := .store, ea := vecAddr o f units c, size := n, lanes := n == 16 && spaceOf (vecAddr o f units c) == 7, sets := 2,
    data := storedVec o c, bytes := m, nu := o.nu, pol := o.pol }

theorem vstSource_eq (o : OpM) (c : Core) : vstSource o c = storedVec o c := by
  simp only [vstSource, storedVec, beq_iff_eq, List.headD_eq_head?_getD]

/-- A VLD issues its accesses once what idle cores push to a link finds room. -/
theorem issueVld_eq (o : OpM) (s : State) (f : Firing) (units : List Core) (idle : Nat) (l : List (Core × Acc)) :
    issueVld o s f units idle l = .next (if (pushIdle o s f units).isSome
      then issued false s ((pushIdle o s f units).getD f) units idle l else s) := by
  cases h : pushIdle o s f units with
  | none => simp only [issueVld, h, Option.isSome_none, Bool.false_eq_true, if_false]
  | some g =>
    simp only [issueVld, h, Option.isSome_some, if_true, Option.getD_some]
    exact issueOn_eq_issued false s g units idle l

/-- The last part of a VST: it pops a link that it stores, once that holds a word. -/
def issueVst (o : OpM) (s : State) (f : Firing) (units : List Core) (idle : Nat) (l : List (Core × Acc)) : Out :=
  if !(units.all (popReady (o.o.d == 30) (o.o.d == 31))) then .next s
  else issueOn false 8 s (putCores f (units.map (popCore (o.o.d == 30) (o.o.d == 31)))) units idle l

theorem issueVst_eq (o : OpM) (s : State) (f : Firing) (units : List Core) (idle : Nat) (l : List (Core × Acc)) :
    issueVst o s f units idle l = .next (if units.all (popReady (o.o.d == 30) (o.o.d == 31))
      then issued false s (putCores f (units.map (popCore (o.o.d == 30) (o.o.d == 31)))) units idle l else s) := by
  cases h : units.all (popReady (o.o.d == 30) (o.o.d == 31)) with
  | false => simp only [issueVst, h, Bool.not_false, Bool.false_eq_true, if_true, if_false]
  | true =>
    simp only [issueVst, h, Bool.not_true, Bool.false_eq_true, if_true, if_false]
    exact issueOn_eq_issued false s _ units idle l

/-- The shape of a VLD. -/
theorem vld_runs {i : OpM → Instr} (n : OpM → Nat) (bc : Bool) (lanes : Word → Bool)
    (hexec : ∀ o s, exec (i o) s = memInstr (siteOf (i o)) false .vec .rd (fun _ units => units) (fun f units c =>
      if vecMask o c == 0 then none
      else some (n o, vldAcc (n o) bc (lanes (vecAddr o f units c)) o f units c)) (issueVld o) s) :
    RunsMIf i (fun _ => false) .vec .rd (fun _ _ units => units) (fun o f units c =>
      if vecMask o c = 0 then none else some (n o, vldAcc (n o) bc (lanes (vecAddr o f units c)) o f units c))
      (fun o s f units _ => (pushIdle o s f units).isSome)
      fun o s f units => issued false s ((pushIdle o s f units).getD f) units :=
  runsMIf_of_memInstr issueVld (fun o s => by simp only [hexec, beq_iff_eq]) issueVld_eq

/-- The shape of a VST. -/
theorem vst_runs {i : OpM → Instr} (n : OpM → Nat) (m : OpM → Core → BitVec 16)
    (hexec : ∀ o s, exec (i o) s = storeVec (i o) o (n o) (m o) s) :
    RunsMIf i (fun _ => false) .vec .wr (fun _ _ units => units) (fun o f units c =>
      if m o c = 0 then none else some (n o, vstAcc (n o) (m o c) o f units c))
      (fun o _ _ units _ => units.all (popReady (o.o.d == 30) (o.o.d == 31)))
      fun o s f units => issued false s (putCores f (units.map (popCore (o.o.d == 30) (o.o.d == 31)))) units :=
  runsMIf_of_memInstr issueVst (fun o s => by
    simp only [hexec, storeVec, vstSource_eq, beq_iff_eq]
    rfl) issueVst_eq

/-- An element's bytes, and the bits that they are. -/
theorem elemSize_bits (o : OpM) : 8 * elemSize o = qWidth o.o.q := by
  simp only [elemSize, qWidth, qFmt]
  split <;> rfl

/-- Settles O17: each word is a VLD or VST of 16 bytes or of one element. -/
theorem vectorLoadsAndStoresIssue : Obligations.VectorLoadsAndStoresIssue := by
  refine ⟨?v, ?bc, ?stv, ?ste⟩
  case v => exact vld_runs (fun _ => 16) false laneForm fun _ _ => rfl
  case bc => exact vld_runs elemSize true (fun _ => false) fun _ _ => rfl
  case stv => exact vst_runs (fun _ => 16) vecMask fun _ _ => rfl
  case ste =>
    exact vst_runs elemSize
      (fun o c => if active (getPr c o.o.pr.toNat) (qWidth o.o.q) 0 then BitVec.ofNat 16 (2 ^ elemSize o - 1) else 0)
      fun o _ => by simp only [← elemSize_bits]; rfl

end Sys2Proof.Proofs.VectorAccesses
end

section
/-! SUPPORT. The checks of a memory access (R192). -/

namespace Sys2Proof.Proofs.AccessChecks

open Sys2Proof.Machine

section
variable {s : State} {f : Firing} {c : Core} {form : Form} {want : Want} {span : Nat} {a : Acc}

/-- The trap of a check on an access of a core. -/
def checkTrap (c : Core) (a : Acc) (cause : Nat) : Chk := .trap { core := c.idx, cause := cause, addr := a.ea }

theorem checkAccess_space (h : spaceOk s f.tenant form (spaceOf a.ea) = false ∨ pointerClean a.ea = false) :
    checkAccess s f c form want span a = (s, checkTrap c a 0x04) := by
  have hbad : (!spaceOk s f.tenant form (spaceOf a.ea) || !pointerClean a.ea) = true := by
    rcases h with h | h <;> simp [h]
  simp only [checkAccess, hbad, if_true, checkTrap]

/-- Past SPACE, an access by address outside the system block is checked for ALIGN, then where it lies. -/
theorem checkAccess_past_space (hl : a.lanes = false) (hs : spaceOk s f.tenant form (spaceOf a.ea) = true)
    (hp : pointerClean a.ea = true) (h14 : spaceOf a.ea ≠ 14) :
    checkAccess s f c form want span a =
      if a.ea.toNat % a.size != 0 then (s, checkTrap c a 0x05)
      else match locateFor s f c.idx a.ea span want with
        | (s', .cause k) => (s', checkTrap c a k)
        | (s', .ask p cached) => (s', .page p cached want)
        | (s', .ok p) =>
          if locked s' f.clus a.ea.toNat span (accWrites a) then (s', checkTrap c a 0x07)
          else if a.kind != .store && a.kind != .ste && a.kind != .red &&
              (spaceOf a.ea == 0 || spaceOf a.ea == 1 || spaceOf a.ea == 8) && poisoned s' p.key a.size
            then (s', checkTrap c a 0x0D)
          else (s', .ok { a with space := spaceOf a.ea, key := p.key, home := p.home, page := p.page }) := by
  have h14' : (spaceOf a.ea == 14) = false := beq_false_of_ne h14
  simp only [checkAccess, hl, hs, hp, h14', Bool.not_true, Bool.or_self, Bool.false_eq_true, if_false, Bool.and_false,
    Bool.false_and, List.any_cons, List.any_nil, Bool.or_false]
  rfl

end

/-- Settles O20: what each check answers, in their order. -/
theorem accessChecksTrap : Obligations.AccessChecksTrap := by
  refine fun s f c form want span a hl => ⟨fun h => checkAccess_space h, fun hs hp h14 => ⟨fun halign => ?align,
    fun halign s' k hloc => ?cause, fun halign s' p hloc hlock => ?lock⟩⟩
  case align => rw [checkAccess_past_space hl hs hp h14, if_pos (bne_iff_ne.mpr halign), checkTrap]
  case cause =>
    rw [checkAccess_past_space hl hs hp h14, if_neg (by simpa using halign), hloc]
    rfl
  case lock =>
    rw [checkAccess_past_space hl hs hp h14, if_neg (by simpa using halign), hloc]
    exact if_pos hlock

end Sys2Proof.Proofs.AccessChecks
end

section
/-! SUPPORT. CACHE (R220, R221). -/

namespace Sys2Proof.Proofs.CacheInstructions

open Sys2Proof.Machine Sys2Proof.Proofs.MemoryShapes

/-- The check of a CACHE on a core, which answers for the line of its address. -/
def lineCheck (fn : Nat) (o : OpM) (f : Firing) (units : List Core) (c : Core) (s : State) : State × Chk :=
  cacheCheck s f c { kind := .cache, fn := fn, ea := addrPlain o (fileM o f units c), size := 256, nu := o.nu }

/-- Whether a fetch of a line has to wait, since its set holds only window ways (R220). -/
def fetchWaits (fn : Nat) (s : State) (e : Core × Acc) : Bool :=
  decide (fn < 2) && !e.2.performed && setBlocked s (lineReq e.2)

/-- What a CACHE does with the lines of its cores: it takes each in ascending order, and ticks the clock for each (R220, R205). -/
def acted (act : State → Firing → Core → Acc → State) (o : OpM) (s : State) (f : Firing) (units : List Core) (idle : Nat)
    (l : List (Core × Acc)) : State :=
  let go (s : State) (e : Core × Acc) : State :=
    let p := stampAcc s f units (o.o.k == 1) e.1 e.2
    if p.2.performed then p.1 else act p.1 f e.1 p.2
  putFiring (tickIdle (l.foldl go s) f idle) (advance f units 8)

/-- The last part of a CACHE. -/
def actOn (fn : Nat) (act : State → Firing → Core → Acc → State) (o : OpM) (s : State) (f : Firing) (units : List Core)
    (idle : Nat) (l : List (Core × Acc)) : Out :=
  if l.any (fetchWaits fn s) then .next s else .next (acted act o s f units idle l)

theorem actOn_eq (fn : Nat) (act : State → Firing → Core → Acc → State) (o : OpM) (s : State) (f : Firing)
    (units : List Core) (idle : Nat) (l : List (Core × Acc)) : actOn fn act o s f units idle l =
      .next (if l.all (fun e => !(fetchWaits fn s e)) then acted act o s f units idle l else s) := by
  have hnone : l.all (fun e => !(fetchWaits fn s e)) = !l.any (fetchWaits fn s) := by
    rw [List.any_eq_not_all_not, Bool.not_not]
  rw [actOn, hnone]
  cases l.any (fetchWaits fn s) <;> rfl

/-- The shape of a CACHE. -/
theorem cache_runs {i : OpM → Instr} (fn : Nat) (act : State → Firing → Core → Acc → State)
    (hexec : ∀ o s, exec (i o) s = cacheInstr (i o) o fn act s) :
    CheckedIf i (fun o => o.o.k == 1) (fun _ => if 3 ≤ fn then some false else none) selM
      (fun o f units c => some (lineCheck fn o f units c)) (fun _ s _ _ l => l.all fun e => !(fetchWaits fn s e))
      (acted act) :=
  checkedIf_of_memShape (actOn fn act) (fun o s => by
    simp only [hexec, cacheInstr, memUnits_eq_selM]
    rfl) (actOn_eq fn act)

/-- What `pfl1` does with a line: it fetches it, and fills the L1 but for host lines and reduction aliases (R220). -/
theorem pfl1_eq (s : State) (f : Firing) (c : Core) (a : Acc) :
    (if a.space == 0 && !(isAlias a.key) then fillL1 (l2Access s (lineReq a)).1 f.clus c.idx a
      else (l2Access s (lineReq a)).1) =
    if a.space = 0 ∧ isAlias a.key = false then fillL1 (l2Access s (lineReq a)).1 f.clus c.idx a
      else (l2Access s (lineReq a)).1 := by
  simp only [Bool.and_eq_true, beq_iff_eq, Bool.not_eq_true']

/-- Settles O21: each word by what it does with a line. -/
theorem cacheInstructionsAct : Obligations.CacheInstructionsAct := by
  refine ⟨?pf, ?pfl1, ?nu, ?wb, ?wbinv⟩
  case pf => exact cache_runs 0 (fun s _ _ a => (l2Access s (lineReq a)).1) fun _ _ => rfl
  case pfl1 =>
    exact cache_runs 1 (fun s f c a => if a.space = 0 ∧ isAlias a.key = false
      then fillL1 (l2Access s (lineReq a)).1 f.clus c.idx a else (l2Access s (lineReq a)).1) fun o s => by
        simp only [← pfl1_eq]
        rfl
  case nu => exact cache_runs 2 (fun s _ _ a => l2Nu s (lineReq a)) fun _ _ => rfl
  case wb => exact cache_runs 3 (fun s f c a => pushAcc s f.clus c.idx a) fun _ _ => rfl
  case wbinv => exact cache_runs 4 (fun s f c a => pushAcc s f.clus c.idx a) fun _ _ => rfl

end Sys2Proof.Proofs.CacheInstructions
end

section
/-! SUPPORT. RCLK and PIN (R222, R223). -/

namespace Sys2Proof.Proofs.ClocksAndPins

open Sys2Proof.Machine Sys2Proof.Laws.Shapes Sys2Proof.Proofs.Rules Sys2Proof.Proofs.GangMoves
  Sys2Proof.Proofs.MemoryShapes

/-! ### RCLK -/

theorem exec_rclkAdv (o : OpX) (s : State) : exec (.rclkAdv o) s = execRclkAdv o s := rfl

/-- `rclk.adv` advances the clock once for each core that it selects. -/
theorem rclkAdv_advances {s : State} {f : Firing} {units : List Core} {o : OpX} (h : Issues s (siteOf (.rclkAdv o)) f units) :
    exec (.rclkAdv o) s = .next (putFiring ((List.range ((if o.o.k = 1 then units.take 1 else units).filter fun c =>
      takes (fileOf f units (o.o.k == 1) c) o.o.pr).length).foldl (fun s _ => tickClock s (clockOf s f) o.imm)
        (putFiring s f)) (advance f units 8)) := by
  have hsel : memUnits f units (k1 o.o) o.o.pr = (if o.o.k = 1 then units.take 1 else units).filter fun c =>
      takes (fileOf f units (o.o.k == 1) c) o.o.pr := by simp only [memUnits, k1, beq_iff_eq]
  simp only [exec_rclkAdv, execRclkAdv, withFiring_issues h, hsel]

/-- The space whose default class `rclk.dflt` sets (R222). -/
theorem dflt_eq (o : OpX) (r : RFile) :
    (if fieldOf o.imm.toNat 8 4 == 1 then { r with core := { r.core with dfl1 := o.imm.setWidth 5 } }
      else { r with core := { r.core with dfl0 := o.imm.setWidth 5 } }) =
    if o.imm.toNat / 2 ^ 8 % 2 ^ 4 = 1 then { r with core := { r.core with dfl1 := o.imm.setWidth 5 } }
      else { r with core := { r.core with dfl0 := o.imm.setWidth 5 } } := by
  simp only [fieldOf, beq_iff_eq]

/-! ### PIN -/

theorem pinCheck_eq (s : State) (c : Core) (a : Word) : pinCheck s c a =
    if spaceOf a = 8 ∧ pointerClean a = true ∧ a.toNat % 2 ^ 26 = 0 then (s, .ok { kind := .pin, ea := a })
    else (s, .trap { core := c.idx, cause := 0x04, addr := a }) := by
  simp only [pinCheck, fieldOf, pow_zero, Nat.div_one, Bool.and_eq_true, beq_iff_eq, and_assoc]

theorem k1_eq_true (o : OpA) : (k1 o = true) = (o.k = 1) := by rw [k1, beq_iff_eq]

/-- What PIN does on its cores in ascending order: an effect with a value for d, and a tick of the clock for each (R205, R223). -/
def pinned (eff : OpM → State → Firing → RFile → Nat → State × Word) (o : OpM) (s : State) (f : Firing) (units : List Core)
    (idle : Nat) (l : List (Core × Acc)) : State :=
  let go (st : State × Firing) (e : Core × Acc) : State × Firing :=
    let r := eff o st.1 f (fileM o f units e.1) (e.2.ea.toNat / 2 ^ 26 % 2 ^ 2)
    (r.1, if o.o.k = 1 then putUniOf st.2 e.1.idx fun u => setG u o.o.d.toNat r.2
      else updCore st.2 e.1.idx fun c => setX c o.o.d.toNat r.2)
  let r := l.foldl go (s, f)
  putFiring (tickIdle r.1 f (idle + l.length)) (advance r.2 units 8)

/-- The shape of a PIN. -/
theorem pin_runs {i : OpM → Instr} (cnt : Option Bool) (eff : OpM → State → Firing → RFile → Nat → State × Word)
    (hexec : ∀ o s, exec (i o) s = pinInstr (i o) o cnt (eff o) s) :
    Checked i (fun o => o.o.k == 1) (fun _ => cnt) selM (fun o f units c => some fun s =>
      if spaceOf (addrPlain o (fileM o f units c)) = 8 ∧ pointerClean (addrPlain o (fileM o f units c)) = true ∧
          (addrPlain o (fileM o f units c)).toNat % 2 ^ 26 = 0
        then (s, .ok { kind := .pin, ea := addrPlain o (fileM o f units c) })
        else (s, .trap { core := c.idx, cause := 0x04, addr := addrPlain o (fileM o f units c) })) (pinned eff) :=
  checked_of_memShape (fun o s f units idle l => .next (pinned eff o s f units idle l)) (fun o s => by
    simp only [hexec, pinInstr, memUnits_eq_selM, pinCheck_eq, eaPlain_eq, k1_eq_true]
    rfl) fun _ _ _ _ _ _ => rfl

/-- What `pin.win` grants: the least of the request, the window quota and the share; nothing on a die without a cluster of the
tenant (R223). -/
def granted (t : Tenant) (die want : Nat) : Nat :=
  if dieClusters t die = [] then 0 else min want (min (qWindow t) (qShare t))

/-- Settles O22: RCLK by its clock and its files, PIN by its effect on a core. -/
theorem clocksMoveAndPinsGrant : Obligations.ClocksMoveAndPinsGrant := by
  refine ⟨⟨?read, ?dflt, fun s f units o h => rclkAdv_advances h⟩, ?win, ?size⟩
  case read =>
    exact runsIn_of_fileInstr (body := fun o s f r => setS r o.o.d.toNat ((clockVal s (clockOf s f)).setWidth 64)) (fun _ _ => rfl) (fun _ => rfl) fun _ _ _ _ => rfl
  case dflt =>
    exact runsAs_of_fileInstr (body := fun o _ _ r => .ok (if fieldOf o.imm.toNat 8 4 == 1
      then { r with core := { r.core with dfl1 := o.imm.setWidth 5 } }
      else { r with core := { r.core with dfl0 := o.imm.setWidth 5 } })) (fun _ _ => rfl) (fun _ => rfl)
      fun o _ _ r => by rw [dflt_eq]
  case win =>
    exact pin_runs (some false) (fun o s f r die =>
      (resizeWindow s f.tenant die (granted (tenantOf s f.tenant) die (getS r o.o.b.toNat).toNat),
        BitVec.ofNat 64 (granted (tenantOf s f.tenant) die (getS r o.o.b.toNat).toNat))) fun o s => by
      simp only [granted, ← List.isEmpty_iff]
      rfl
  case size =>
    exact pin_runs none (fun _ s f _ die => (s, BitVec.ofNat 64 (windowWays (tenantOf s f.tenant) die))) fun _ _ => rfl

end Sys2Proof.Proofs.ClocksAndPins
end

section
/-! SUPPORT. FENCE (R255, R264, R265). -/

namespace Sys2Proof.Proofs.Fences

open Sys2Proof.Machine Sys2Proof.Laws.Shapes

/-- A word that issues also does so with fewer registers named. -/
theorem issues_without_regs {s : State} {w : Site} {f : Firing} {units : List Core} (h : Issues s w f units) :
    Issues s { words := w.words } f units := by
  obtain ⟨c, i, f0, hc, hf, hfe, hu, he, hx, hb, -⟩ := h
  refine ⟨c, i, f0, hc, hf, hfe, hu, he, hx, hb, ?_⟩
  simp [interlocked]

/-- A FENCE's entry in the order of a core. -/
def fenceEntry (o : OpA) (f : Firing) (s : State) (n : Nat) : Acc :=
  { id := n, firing := f.id, launch := f.launch, tenant := f.tenant, kind := .fence, pset := o.a, sset := o.b,
    scope := o.q.toNat, home := f.clus * 8 + f.lead, width := f.cores.length, senders := sendersOf s f, fn := f.staged.length }

/-- A FENCE on a core: the entry, and the flush markers of scopes 6 and 7. -/
def fenceOn (o : OpA) (f : Firing) (s : State) (c : Core) : State :=
  let n := newId s
  let e := fenceEntry o f n.2 n.1
  let s := pushAcc n.2 f.clus c.idx e
  if 6 ≤ o.q.toNat then
    sendMarkers s f.clus c.idx (((before s f.clus c.idx e).map fun b => b.2).filter fun a => a.sets &&& o.a != 0)
  else s

/-- A FENCE that issues enters an entry in the order of each active core, unless a set is empty. -/
theorem fence_enters {s : State} {f : Firing} {units : List Core} {o : OpA}
    (h : Issues s { words := [packA o 0 0x64] } f units) :
    execFenceOrd o s = .next (putFiring (if o.a = 0 ∨ o.b = 0 then putFiring s f
      else sweep ((activeCores units o.pr).foldl (fenceOn o f) (putFiring s f))) (advance f units 4)) := by
  simp only [execFenceOrd, withFiring_issues h, Bool.or_eq_true, beq_iff_eq]
  rfl

/-- Settles O24. -/
theorem fencesEnterTheOrder : Obligations.FencesEnterTheOrder := fun _ _ _ _ h =>
  fence_enters (issues_without_regs h)

end Sys2Proof.Proofs.Fences
end

section
/-! SUPPORT. XLAT (R244). -/

namespace Sys2Proof.Proofs.Translations

open Sys2Proof.Machine Sys2Proof.Proofs.MemoryShapes

/-- The address of an XLAT on a core. -/
def xlatAddr (o : OpM) (f : Firing) (units : List Core) (c : Core) : Word := addrPlain o (fileM o f units c)

/-- The state that XLAT leaves once each core has its answer. -/
def finished (o : OpM) (s : State) (f : Firing) (units : List Core) (idle : Nat) (l : List (Core × Acc)) : State :=
  match xlatFinish (o.o.k == 1) o (xlatValue o.o.q.toNat) s f units idle l with
  | .next t => t
  | _ => s

theorem xlatFinish_eq (o : OpM) (s : State) (f : Firing) (units : List Core) (idle : Nat) (l : List (Core × Acc)) :
    xlatFinish (o.o.k == 1) o (xlatValue o.o.q.toNat) s f units idle l = .next (finished o s f units idle l) := rfl

/-- What `probe` does: it waits for the host pages that are not cached, and else answers. -/
def probed (o : OpM) (s : State) (f : Firing) (units : List Core) (idle : Nat) (l : List (Core × Acc)) : State :=
  if l.any fun e => spaceOf e.2.ea == 1 && (probeLeaf s f e.1 (vaOf e.2.ea)).isNone then waitProbes s f l
  else finished o s f units idle l

/-- The last part of `probe`. -/
def probeOn (o : OpM) (s : State) (f : Firing) (units : List Core) (idle : Nat) (l : List (Core × Acc)) : Out :=
  if l.any fun e => spaceOf e.2.ea == 1 && (probeLeaf s f e.1 (vaOf e.2.ea)).isNone then .next (waitProbes s f l)
  else xlatFinish (o.o.k == 1) o (xlatValue o.o.q.toNat) s f units idle l

theorem probeOn_eq (o : OpM) (s : State) (f : Firing) (units : List Core) (idle : Nat) (l : List (Core × Acc)) :
    probeOn o s f units idle l = .next (probed o s f units idle l) := by
  rw [probeOn, probed, xlatFinish_eq]
  split <;> rfl

/-- The check of `touch` on a core, past SPACE: an execute of a cached host page traps, and else the address is located. -/
def touchCheck (f : Firing) (c : Core) (a : Word) (want : Want) (s : State) : State × Chk :=
  if spaceOf a = 1 ∧ want = .ex ∧ (hostLeaf s (sectorOf f.clus) f.tenant (vaOf a)).isSome = true
    then (s, .trap { core := c.idx, cause := 0x0A, addr := a })
  else match locateFor s f c.idx a 1 want with
    | (s, .cause k) => (s, .trap { core := c.idx, cause := k, addr := a })
    | (s, .ask p cached) => (s, .page p cached want)
    | (s, .ok _) => (s, .ok { ea := a })

/-- What `inv` does for its cores: each starts an invalidation of its page that its access awaits. -/
def invalidated (o : OpM) (s : State) (f : Firing) (units : List Core) (idle : Nat) (l : List (Core × Acc)) : State :=
  let go (s : State) (e : Core × Acc) : State :=
    let p := stampAcc s f units (o.o.k == 1) e.1 e.2
    startInval (pushAcc p.1 f.clus e.1.idx p.2) f.tenant (spaceOf p.2.ea == 1) (vaOf p.2.ea) 1 false
      (some (f.clus, e.1.idx, p.2.id))
  putFiring (tickIdle (l.foldl go s) f idle) (advance f units 8)

/-- Settles O23: each word by its check on a core and by its last part. -/
theorem translationsAnswer : Obligations.TranslationsAnswer := by
  refine ⟨?probe, ?touch, ?inv⟩
  case probe =>
    refine checked_of_memShape probeOn (fun o s => ?_) probeOn_eq
    show execXlatProbe o s = _
    simp only [execXlatProbe, memUnits_eq_selM]
    rfl
  case touch =>
    refine checked_of_memShape (fun o => xlatFinish (o.o.k == 1) o (xlatValue o.o.q.toNat)) (fun o s => ?_) xlatFinish_eq
    show execXlatTouch o s = _
    simp only [execXlatTouch, memUnits_eq_selM, Bool.and_eq_true, beq_iff_eq, and_assoc]
    rfl
  case inv =>
    refine checked_of_memShape (fun o s f units idle l => .next (invalidated o s f units idle l)) (fun o s => ?_)
      fun _ _ _ _ _ _ => rfl
    show execXlatInv o s = _
    simp only [execXlatInv, memUnits_eq_selM]
    rfl

end Sys2Proof.Proofs.Translations
end

section
/-! SUPPORT. AMO, CAS and RED (R240 to R243, R287). -/

namespace Sys2Proof.Proofs.Atomics

open Sys2Proof.Machine Sys2Proof.Proofs.Canonical Sys2Proof.Proofs.MemoryShapes

/-! ### What an atomic computes -/

/-- The order of two values of a type (R241). -/
def less (w q x y : Nat) : Bool := if q = 2 ∨ q = 3 then decide (x < y) else decide (signedOf w x < signedOf w y)

/-- The functions of R241 and R243 on two values of a width. -/
def value (w fn q old b : Nat) : Nat :=
  match fn with
  | 0 => (old + b) % 2 ^ w
  | 1 => if less w q b old then b else old
  | 2 => if less w q old b then b else old
  | 3 => old &&& b
  | 4 => old ||| b
  | 5 => old ^^^ b
  | 6 => (floatPick .fp32 false old b).1
  | _ => (floatPick .fp32 true old b).1

theorem combine_eq_value (fn q size old b : Nat) :
    combine fn q size old b = value (8 * size) fn q (old % 2 ^ (8 * size)) (b % 2 ^ (8 * size)) := by
  have hless : ∀ x y, (if q == 2 || q == 3 then decide (x < y) else decide (signedOf (8 * size) x < signedOf (8 * size) y)) =
      less (8 * size) q x y := fun x y => by simp only [less, Bool.or_eq_true, beq_iff_eq]
  simp only [combine, hless]
  rfl

section
variable {a : Acc} {old : Nat}

theorem atomicNew_cas (hk : a.kind = .cas) : atomicNew a old =
    (if old = a.data2.toNat % 2 ^ 64 % 2 ^ (8 * a.size) then some (a.data.toNat % 2 ^ 64 % 2 ^ (8 * a.size)) else none, false) := by
  simp only [atomicNew, hk, beq_self_eq_true, if_true, beq_iff_eq]

theorem atomicNew_add (hk : a.kind = .amo) (hf : a.fn = 0) (hold : old < 2 ^ (8 * a.size)) :
    atomicNew a old = (some ((old + a.data.toNat % 2 ^ 64) % 2 ^ (8 * a.size)), false) := by
  have hkind : (a.kind == AccKind.cas) = false := by rw [hk]; rfl
  have hadd : ∀ b, combine 0 a.q a.size old b = (old + b) % 2 ^ (8 * a.size) := fun b => by
    rw [combine_eq_value, Nat.mod_eq_of_lt hold, value, Nat.add_mod_mod]
  simp only [atomicNew, hkind, hf, hadd, Bool.false_eq_true, if_false, if_true, beq_iff_eq, Nat.zero_ne_one]

theorem atomicNew_combines (hk : a.kind = .amo) (h2 : 2 ≤ a.fn) (h6 : a.fn ≤ 6) (hold : old < 2 ^ (8 * a.size)) :
    atomicNew a old = (some (value (8 * a.size) (a.fn - 1) a.q old (a.data.toNat % 2 ^ 64 % 2 ^ (8 * a.size))), false) := by
  have hkind : (a.kind == AccKind.cas) = false := by rw [hk]; rfl
  have h1 : a.fn ≠ 1 := by omega
  have h0 : a.fn ≠ 0 := by omega
  have h7 : a.fn ≠ 7 := by omega
  simp only [atomicNew, hkind, Bool.false_eq_true, if_false, beq_iff_eq, h1, h0, h7, combine_eq_value, Nat.mod_eq_of_lt hold]

theorem atomicNew_swap (hk : a.kind = .amo) (hf : a.fn = 7) :
    atomicNew a old = (some (a.data.toNat % 2 ^ 64 % 2 ^ (8 * a.size)), false) := by
  have hkind : (a.kind == AccKind.cas) = false := by rw [hk]; rfl
  have h1 : (7 : Nat) ≠ 1 := by decide
  have h0 : (7 : Nat) ≠ 0 := by decide
  simp only [atomicNew, hkind, hf, Bool.false_eq_true, if_false, if_true, beq_iff_eq, h1, h0]

/-- `addb` adds where the sum is at most B and fits, and is refused where not (R241). -/
theorem atomicNew_addb (hk : a.kind = .amo) (hf : a.fn = 1) : atomicNew a old =
    if signedOf 64 old + signedOf 64 (a.data2.toNat % 2 ^ 64) ≤ signedOf 64 (a.data.toNat % 2 ^ 64) ∧
        -2 ^ 63 ≤ signedOf 64 old + signedOf 64 (a.data2.toNat % 2 ^ 64)
      then (some ((signedOf 64 old + signedOf 64 (a.data2.toNat % 2 ^ 64)) % 2 ^ 64).toNat, false) else (none, true) := by
  have hkind : (a.kind == AccKind.cas) = false := by rw [hk]; rfl
  simp only [atomicNew, hkind, hf, Bool.false_eq_true, if_false, beq_self_eq_true, if_true, Bool.and_eq_true,
    decide_eq_true_eq]

end

/-! ### An atomic at a bank -/

theorem ofBytes_lt (l : List Byte) : ofBytes l < 2 ^ (8 * l.length) := by
  induction l with
  | nil => exact Nat.one_pos
  | cons b l ih =>
    have hb : b.toNat < 2 ^ 8 := b.isLt
    have hpow : 2 ^ (8 * (b :: l).length) = 256 * 2 ^ (8 * l.length) := by
      rw [List.length_cons, Nat.mul_succ, Nat.add_comm, pow_add]; rfl
    rw [ofBytes, hpow]
    omega

theorem memReadBytes_length (m : Mem) (k n : Nat) : (memReadBytes m k n).length = n := by
  induction n generalizing k with
  | zero => rfl
  | succ n ih => rw [memReadBytes, List.length_cons, ih]

/-- A vector of at most 16 bytes is their number. -/
theorem vecOf_toNat {l : List Byte} (h : l.length ≤ 16) : (vecOf l).toNat = ofBytes l := by
  refine (BitVec.toNat_ofNat _ _).trans (Nat.mod_eq_of_lt ((ofBytes_lt l).trans_le ?_))
  exact Nat.pow_le_pow_right (by decide) (by omega)

section
variable {s : State} {a : Acc}

/-- An access of the banks' spaces by address. -/
def AtBank (a : Acc) : Prop := a.lanes = false ∧ (a.space = 4 ∨ a.space = 5 ∨ a.space = 6)

theorem placeL2_atBank (h : AtBank a) (write : Bool) : placeL2 s a write = s := by
  obtain ⟨-, h | h | h⟩ := h <;> simp [placeL2, h]

theorem readBytes_atBank (h : AtBank a) : readBytes s a = (s, memReadBytes s.mem a.key a.size) := by
  obtain ⟨hl, h | h | h⟩ := h <;> simp [readBytes, h, hl]

theorem writeBytes_atBank (h : AtBank a) (mask : Nat) (bytes : List Byte) :
    writeBytes s a mask bytes = setMem s (memWriteMasked s.mem a.key mask bytes) := by
  obtain ⟨hl, h | h | h⟩ := h <;> simp [writeBytes, h, hl]

/-- The bytes that an atomic at a bank reads, and what it makes of them. -/
def bankOld (s : State) (a : Acc) : Vec := vecOf (memReadBytes s.mem a.key a.size)
def bankNew (s : State) (a : Acc) : Option Nat × Bool := atomicNew a (bankOld s a).toNat

theorem atomicAct_atBank (h : AtBank a) (hsize : a.size ≤ 16) : atomicAct s a =
    ((match (bankNew s a).1 with
      | some v => setMem s (memWriteMasked s.mem a.key (2 ^ a.size - 1) (toBytes a.size v))
      | none => s), bankOld s a, (bankNew s a).2) := by
  have hold : (bankOld s a).toNat = ofBytes (memReadBytes s.mem a.key a.size) :=
    vecOf_toNat (by rw [memReadBytes_length]; exact hsize)
  simp only [atomicAct, placeL2_atBank h, readBytes_atBank h, writeBytes_atBank h, bankNew, hold]
  rfl

/-- The memory after an atomic at a bank. -/
def bankMem (s : State) (a : Acc) : Mem :=
  match (bankNew s a).1 with
  | some v => memWriteMasked s.mem a.key (2 ^ a.size - 1) (toBytes a.size v)
  | none => s.mem

theorem bankOld_congr {s t : State} (h : t.mem = s.mem) : bankOld t a = bankOld s a := by rw [bankOld, h, bankOld]
theorem bankNew_congr {s t : State} (h : t.mem = s.mem) : bankNew t a = bankNew s a := by
  rw [bankNew, bankOld_congr h, bankNew]
theorem bankMem_congr {s t : State} (h : t.mem = s.mem) : bankMem t a = bankMem s a := by
  rw [bankMem, bankNew_congr h, h, bankMem]

/-- Serving an atomic at a bank gives the access its value and refusal, and writes where its function writes. -/
theorem serveAtomic_atBank (h : AtBank a) (hsize : a.size ≤ 16) (c i : Nat) :
    (serveAtomic s c i a).2 = { a with val := bankOld s a, flag := (bankNew s a).2, performed := true } ∧
    (serveAtomic s c i a).1.mem = bankMem s a := by
  have hseen := noteSeen_mem s c i a s.dir s.acq
  rw [← bankOld_congr hseen, ← bankNew_congr hseen, ← bankMem_congr hseen]
  simp only [serveAtomic, atomicAct_atBank h hsize]
  refine ⟨trivial, ?_⟩
  generalize noteSeen s c i a s.dir s.acq = t
  have hwritten : (match (bankNew t a).1 with
      | some v => setMem t (memWriteMasked t.mem a.key (2 ^ a.size - 1) (toBytes a.size v))
      | none => t).mem = bankMem t a := by
    rw [bankMem]
    cases (bankNew t a).1 <;> rfl
  rw [← hwritten]
  split
  · exact afterWrite_mem _ _ _ _ _ _
  · rfl

end

theorem stampAcc_atBank {s : State} {f : Firing} {units : List Core} {uni : Bool} {c : Core} {a : Acc} (h : AtBank a) :
    AtBank (stampAcc s f units uni c a).2 := h

/-- An atomic at a bank writes its results into the firing, and its value into memory where it has one (R241). -/
theorem bankAtomic_atBank {s : State} {f : Firing} {units : List Core} {uni : Bool} {c : Core} {a : Acc} (h : AtBank a)
    (hsize : a.size ≤ 16) :
    (bankAtomic s f units uni c a).2 = (writeDest f c.idx { (stampAcc s f units uni c a).2 with
      val := bankOld s a, flag := (bankNew s (stampAcc s f units uni c a).2).2, performed := true }).getD f ∧
    (bankAtomic s f units uni c a).1.mem = bankMem s (stampAcc s f units uni c a).2 := by
  obtain ⟨hacc, hmem⟩ := serveAtomic_atBank (s := (stampAcc s f units uni c a).1) (stampAcc_atBank h) hsize f.clus c.idx
  have hstamp := stampAcc_mem s f units uni c a
  rw [bankOld_congr hstamp, bankNew_congr hstamp] at hacc
  rw [bankMem_congr hstamp] at hmem
  exact ⟨congrArg (fun b => (writeDest f c.idx b).getD f) hacc, hmem⟩

/-! ### The shapes of the words -/

theorem toNat_beq_one (q : BitVec 3) : (q.toNat == 1) = (q == 1) := by revert q; decide
theorem toNat_beq_three (q : BitVec 3) : (q.toNat == 3) = (q == 3) := by revert q; decide

/-- What a fused gang's cores make with k = 0 is one group (R287). -/
def grouped (o : OpM) (s : State) (f : Firing) (l : List (Core × Acc)) : List (Core × Acc) :=
  if o.o.k = 1 ∨ f.split = true then l else l.map fun e => (e.1, { e.2 with grp := s.nextId })

theorem markGroup_eq (o : OpM) (s : State) (f : Firing) (l : List (Core × Acc)) :
    markGroup s f (o.o.k == 1) l = grouped o s f l := by
  simp only [markGroup, grouped, Bool.or_eq_true, beq_iff_eq]

/-- Whether what holds the atomics at banks lets them perform, and what AMO and CAS do then. -/
def banksReady (o : OpM) (s : State) (f : Firing) (units : List Core) (l : List (Core × Acc)) : Bool :=
  ((grouped o s f l).filter fun e => bankSpace e.2).all (bankReady s f units (o.o.k == 1))
def performed (o : OpM) (s : State) (f : Firing) (units : List Core) (_ : Nat) (l : List (Core × Acc)) : State :=
  let act (st : State × Firing) (e : Core × Acc) : State × Firing :=
    if bankSpace e.2 then bankAtomic st.1 st.2 units (o.o.k == 1) e.1 e.2
    else issueAll st.1 st.2 units (o.o.k == 1) [e]
  let r := (grouped o s f l).foldl act (s, f)
  putFiring r.1 (if l.any fun e => holdsIssue e.2 then r.2 else advance r.2 units 8)

theorem any_holdsIssue_grouped (o : OpM) (s : State) (f : Firing) (l : List (Core × Acc)) :
    ((grouped o s f l).any fun e => holdsIssue e.2) = l.any fun e => holdsIssue e.2 := by
  rw [grouped]
  split
  · rfl
  · rw [List.any_map]
    rfl

theorem atomicOn_eq (o : OpM) (s : State) (f : Firing) (units : List Core) (idle : Nat) (l : List (Core × Acc)) :
    atomicOn (o.o.k == 1) s f units l =
      .next (if banksReady o s f units l then performed o s f units idle l else s) := by
  have hready : ((grouped o s f l).filter fun e => bankSpace e.2).all (bankReady s f units (o.o.k == 1)) =
      banksReady o s f units l := rfl
  simp only [atomicOn, markGroup_eq, hready, any_holdsIssue_grouped]
  cases banksReady o s f units l <;> rfl

/-- The access of an AMO or CAS on a core, and of a RED. -/
def atomicSize (addb : Bool) (o : OpM) : Nat := if !addb && (o.o.q == 1 || o.o.q == 3) then 4 else 8
def atomicAcc (kind : AccKind) (fn : Nat) (addb : Bool) (o : OpM) (f : Firing) (units : List Core) (c : Core) : Acc :=
  { kind := kind, fn := fn, q := if addb then 0 else o.o.q.toNat, ea := addrPlain o (fileM o f units c),
    size := atomicSize addb o, sext := !addb && o.o.q == 1, sets := 16,
    data := (getS (fileM o f units c) o.o.b.toNat).setWidth 128, data2 := (getS (fileM o f units c) o.o.d.toNat).setWidth 128,
    dest := destM o, pred := if addb then o.o.q.toNat else 0, predGp := o.o.k == 1, nu := o.nu }
def redSize (fn : Nat) (o : OpM) : Nat := if fn = 6 ∨ fn = 7 ∨ o.o.q = 1 ∨ o.o.q = 3 then 4 else 8
def redAcc (fn : Nat) (o : OpM) (f : Firing) (units : List Core) (c : Core) : Acc :=
  { kind := .red, fn := fn, q := o.o.q.toNat, ea := addrPlain o (fileM o f units c), size := redSize fn o, sets := 16,
    data := (getS (fileM o f units c) o.o.b.toNat).setWidth 128, nu := o.nu, pol := o.pol }

/-- The shape of an AMO or CAS. -/
theorem atomic_runs {i : OpM → Instr} (form : Form) (kind : AccKind) (fn : Nat) (addb : Bool)
    (hexec : ∀ o s, exec (i o) s = atomicInstr (i o) o kind fn s)
    (hform : (if kind == .cas then Form.cas else .amo fn) = form) (haddb : (kind == .amo && fn == 1) = addb) :
    RunsMIf i (fun o => o.o.k == 1) form .rmw selM
      (fun o f units c => some (atomicSize addb o, atomicAcc kind fn addb o f units c))
      (fun o s f units l => banksReady o s f units l) performed :=
  runsMIf_of_memInstr (fun o s f units _ l => atomicOn (o.o.k == 1) s f units l) (fun o s => by
    simp only [hexec, atomicInstr, hform, haddb, memUnits_eq_selM, destOf_eq_destM, toNat_beq_one, toNat_beq_three]
    rfl) atomicOn_eq

/-- The shape of a RED. -/
theorem red_runs {i : OpM → Instr} (fn : Nat) (hexec : ∀ o s, exec (i o) s = redInstr (i o) o fn s) :
    RunsM i (fun o => o.o.k == 1) (.red fn) .rmw selM (fun o f units c => some (redSize fn o, redAcc fn o f units c))
      fun o s f units idle l => issued (o.o.k == 1) s f units idle (grouped o s f l) :=
  runsM_of_memInstr (fun o s f units idle l => issueOn (o.o.k == 1) 8 s f units idle (grouped o s f l)) (fun o s => by
    have hsize : (if fn == 6 || fn == 7 || o.o.q == 1 || o.o.q == 3 then 4 else 8) = redSize fn o := by
      simp only [redSize, Bool.or_eq_true, beq_iff_eq, or_assoc]
    simp only [hexec, redInstr, memUnits_eq_selM, toNat_beq_one, toNat_beq_three, hsize, ← markGroup_eq]
    rfl) fun o s f units idle l => issueOn_eq_issued _ _ _ _ _ _

/-- Settles O19: the functions, the atomics at a bank, and the shape of each word. -/
theorem atomicsIssueAndCompute : Obligations.AtomicsIssueAndCompute := by
  refine ⟨⟨?combine, fun a old hold => fun hsize => ⟨atomicNew_cas, fun hk => ⟨fun hf => atomicNew_add hk hf hold,
    fun h2 h6 => atomicNew_combines hk h2 h6 hold, atomicNew_swap hk, fun hf => ⟨fun hle hfit => ?added, fun hno => ?refused⟩⟩⟩,
    fun s f units uni c a _ hl hsize hspace => bankAtomic_atBank ⟨hl, hspace⟩ ?small⟩, ?add, ?addb, ?min, ?max, ?and, ?or,
    ?xor, ?swap, ?cas, ?radd, ?rmin, ?rmax, ?rand, ?ror, ?rxor, ?rfmin, ?rfmax⟩
  case combine =>
    intro fn q size old b hold hb
    rw [combine_eq_value, Nat.mod_eq_of_lt hold, Nat.mod_eq_of_lt hb]
    rfl
  case added => rw [atomicNew_addb hk hf, if_pos ⟨hle, hfit⟩]
  case refused => rw [atomicNew_addb hk hf, if_neg (by omega)]
  case small => omega
  case add => exact atomic_runs (.amo 0) .amo 0 false (fun _ _ => rfl) rfl rfl
  case addb => exact atomic_runs (.amo 1) .amo 1 true (fun _ _ => rfl) rfl rfl
  case min => exact atomic_runs (.amo 2) .amo 2 false (fun _ _ => rfl) rfl rfl
  case max => exact atomic_runs (.amo 3) .amo 3 false (fun _ _ => rfl) rfl rfl
  case and => exact atomic_runs (.amo 4) .amo 4 false (fun _ _ => rfl) rfl rfl
  case or => exact atomic_runs (.amo 5) .amo 5 false (fun _ _ => rfl) rfl rfl
  case xor => exact atomic_runs (.amo 6) .amo 6 false (fun _ _ => rfl) rfl rfl
  case swap => exact atomic_runs (.amo 7) .amo 7 false (fun _ _ => rfl) rfl rfl
  case cas => exact atomic_runs .cas .cas 0 false (fun _ _ => rfl) rfl rfl
  case radd => exact red_runs 0 fun _ _ => rfl
  case rmin => exact red_runs 1 fun _ _ => rfl
  case rmax => exact red_runs 2 fun _ _ => rfl
  case rand => exact red_runs 3 fun _ _ => rfl
  case ror => exact red_runs 4 fun _ _ => rfl
  case rxor => exact red_runs 5 fun _ _ => rfl
  case rfmin => exact red_runs 6 fun _ _ => rfl
  case rfmax => exact red_runs 7 fun _ _ => rfl

end Sys2Proof.Proofs.Atomics
end

section
/-! SUPPORT. LDF, STE and FE (R194 to R196). -/

namespace Sys2Proof.Proofs.FullEmpty

open Sys2Proof.Machine Sys2Proof.Laws.Shapes Sys2Proof.Proofs.WaitsAndSystem Sys2Proof.Proofs.MemoryShapes

/-! ### What passes a check -/

/-- An access that passes its checks has learned where it lies, and is otherwise the one that was asked for. -/
theorem checkAccess_ok {s s' : State} {f : Firing} {c : Core} {form : Form} {want : Want} {span : Nat} {a b : Acc}
    (h : checkAccess s f c form want span a = (s', .ok b)) :
    ∃ space key home page, b = { a with space := space, key := key, home := home, page := page } := by
  simp only [checkAccess] at h
  repeat' split at h
  all_goals cases h
  all_goals exact ⟨_, _, _, _, rfl⟩

/-- The checks of one core's access alone. -/
theorem checkAll_singleton {s s' : State} {c : Core} {g : State → State × Chk} {r : Chk} (h : g s = (s', r)) :
    checkAll s [(c, g)] = (s', [(c, r)]) := by
  simp only [checkAll, h]

/-! ### LDF and STE -/

section
variable {s : State} {f : Firing} {units : List Core} {o : OpM} {i : OpM → Instr} {load : Bool} {fn : Nat}

/-- The kind of the operation, and what it asks of its word. -/
def wordKind (load : Bool) : AccKind := if load then .ldf else .ste
def wordAcc (load : Bool) (fn : Nat) (o : OpM) (f : Firing) (units : List Core) (c : Core) : Acc :=
  { kind := if load then .ldf else .ste, fn := fn, ea := addrIndexed o (fileM o f units c), size := 8,
    sets := if load then 1 else 2, dest := if load then destM o else .none,
    data := if load then 0 else (getS (fileM o f units c) o.o.d.toNat).setWidth 128 }

theorem wordKind_beq (load : Bool) : (wordKind load == .ldf) = load := by cases load <;> rfl

/-- The memory instruction that LDF and STE are where they do not trap GANG. -/
def wordMemory (i : OpM → Instr) (load : Bool) (fn : Nat) (o : OpM) : State → Out :=
  memInstr (siteOf (i o)) (o.o.k == 1) .word (if load then .rd else .wr) (selM o)
    (fun f units c => some (8, wordAcc load fn o f units c)) fun s f units _ l => wordAct (o.o.k == 1) s f units l

theorem wordInstr_eq (s : State) : wordInstr (i o) o (wordKind load) fn s = withFiring (siteOf (i o)) s fun s f units =>
    match selM o f units with
    | c :: _ =>
      if !(o.o.k == 1) && 1 < units.length then
        trapAt s f { core := c.idx, cause := 0x0F, addr := (wordAcc load fn o f units c).ea } (siteOf (i o))
      else wordMemory i load fn o s
    | [] => .next (putFiring s (advance f units 8)) := by
  simp only [wordInstr, wordKind_beq, memUnits_eq_selM, destOf_eq_destM]
  rfl

theorem word_idle (hexec : ∀ o s, exec (i o) s = wordInstr (i o) o (wordKind load) fn s)
    (h : Issues s (siteOf (i o)) f units) (hsel : selM o f units = []) : exec (i o) s = .next (afterWord s f f units 8) := by
  rw [hexec, wordInstr_eq, withFiring_issues h]
  simp only [hsel]
  rfl

theorem word_traps {c : Core} {rest : List Core} (hexec : ∀ o s, exec (i o) s = wordInstr (i o) o (wordKind load) fn s)
    (h : Issues s (siteOf (i o)) f units) (hsel : selM o f units = c :: rest) (hk : o.o.k = 0) (hw : 1 < units.length) :
    exec (i o) s = .next (afterTrap s f { core := c.idx, cause := 0x0F, addr := (wordAcc load fn o f units c).ea }
      (siteOf (i o))) := by
  have hgang : (!(o.o.k == 1) && decide (1 < units.length)) = true := by
    rw [hk, decide_eq_true hw]; rfl
  rw [hexec, wordInstr_eq, withFiring_issues h]
  simp only [hsel, hgang, if_true]
  rfl

/-- LDF or STE of one core, whose access passes its checks, goes by what its bank then makes of it. -/
theorem word_acts {c : Core} {s1 : State} {a1 : Acc} (hexec : ∀ o s, exec (i o) s = wordInstr (i o) o (wordKind load) fn s)
    (h : Issues s (siteOf (i o)) f units) (hsel : selM o f units = [c]) (hg : o.o.k = 1 ∨ units.length ≤ 1)
    (hroom : countersFull (putFiring s f) f (if o.o.k = 1 then units else [c]) (some load) = false)
    (hchk : checkAccess (putFiring s f) f c .word (if load then .rd else .wr) 8 (wordAcc load fn o f units c) = (s1, .ok a1)) :
    exec (i o) s = wordAct (o.o.k == 1) s1 f units [(c, { a1 with words := (siteOf (i o)).words })] := by
  have hgang : (!(o.o.k == 1) && decide (1 < units.length)) = false := by
    rcases hg with hk | hw
    · rw [hk]; rfl
    · rw [decide_eq_false hw.not_gt, Bool.and_false]
  have hraise : raisesLoad .word (if load then .rd else .wr) = load := by cases load <;> rfl
  have hasks : asksOf (selM o) (fun f units c => (some (8, wordAcc load fn o f units c)).map fun r => fun s =>
      checkAccess s f c .word (if load then .rd else .wr) r.1 r.2) f units =
      [(c, fun s => checkAccess s f c .word (if load then .rd else .wr) 8 (wordAcc load fn o f units c))] := by
    simp only [asksOf, hsel]
    rfl
  rw [hexec, wordInstr_eq, withFiring_issues h]
  simp only [hsel, hgang, Bool.false_eq_true, if_false]
  unfold wordMemory memInstr
  refine (memShape_acts (l := [(c, a1)]) (issues_putFiring h) (.inr ?_) ?_).trans rfl
  · rw [hasks, fullFor, putFiring_putFiring, hraise]
    simpa only [beq_iff_eq, List.map_cons, List.map_nil] using hroom
  · rw [hasks, putFiring_putFiring]
    exact checkAll_singleton hchk

theorem destM_cases (o : OpM) : (∃ r, destM o = .g r) ∨ destM o = .none ∨ ∃ r, destM o = .x r := by
  by_cases hk : o.o.k = 1
  · exact .inl ⟨_, by rw [destM, if_pos hk]⟩
  · by_cases hd : o.o.d = 0
    · exact .inr (.inl (by rw [destM, if_neg hk, if_pos hd]))
    · exact .inr (.inr ⟨_, by rw [destM, if_neg hk, if_neg hd]⟩)

/-- A word's load or store writes its destination, if any, at once: it never pushes to a link. -/
theorem writeDest_word {a : Acc} {fl : Firing} {j : Nat} (hd : a.dest = if load then destM o else .none)
    (hp : a.pred = 0) : (writeDest fl j a).isSome = true ∧ (load = false → writeDest fl j a = some fl) := by
  cases load with
  | false => simp [writeDest, hp, hd]
  | true => rcases destM_cases o with ⟨r, h⟩ | h | ⟨r, h⟩ <;> simp [writeDest, hp, hd, h]

/-- What is left after LDF or STE has moved its word (R195). -/
def wordMoved (load bit : Bool) (s : State) (f : Firing) (c : Core) (a : Acc) : State :=
  let moved := if load
    then acquireRead s f.clus c.idx { a with val := vecOf (memReadBytes s.mem a.key 8), performed := true }
    else afterWrite (setMem s (memWriteN s.mem a.key 8 (a.data.toNat % 2 ^ 64))) f.clus c.idx a a.key
      (releaseUnit s f.clus c.idx a)
  let s' := if bit then putBit moved a.key (!load) else moved
  let f' := if load
    then (writeDest f c.idx { a with val := vecOf (memReadBytes s.mem a.key 8), performed := true }).getD f
    else f
  putFiring s' (advance f' units 8)

/-- The access with which LDF or STE reaches its bank. -/
def IsWord (load : Bool) (fn : Nat) (o : OpM) (a : Acc) : Prop :=
  a.kind = (if load then .ldf else .ste) ∧ a.fn = fn ∧ a.dest = (if load then destM o else .none) ∧ a.pred = 0

theorem isWord_of_checked {s1 s2 : State} {c : Core} {a1 a2 : Acc} {form : Form} {want : Want} {span : Nat} {uni : Bool}
    {words : List W32} (hchk : checkAccess s f c form want span (wordAcc load fn o f units c) = (s1, .ok a1))
    (hstamp : stampAcc s1 f units uni c { a1 with words := words } = (s2, a2)) : IsWord load fn o a2 := by
  obtain ⟨space, key, home, page, rfl⟩ := checkAccess_ok hchk
  rw [← show (stampAcc _ _ _ _ _ _).2 = a2 from congrArg Prod.snd hstamp]
  exact ⟨rfl, rfl, rfl, rfl⟩

theorem wordAct_moves {s1 s2 : State} {c : Core} {a a2 : Acc} {uni bit : Bool} (hw : IsWord load fn o a2)
    (hbit : bit = if load then fn == 1 else fn == 0) (hstamp : stampAcc s1 f units uni c a = (s2, a2))
    (hmay : mayPerform s2 f.clus c.idx a2 = true) (hclash : clashes s2 f.clus c.idx a2 = [])
    (hcov : coversDone s2 f.clus c.idx a2 = true) (hfull : s2.full.contains a2.key = load)
    (hqueue : queuedOn s2.waiters s2 a2 = false) :
    wordAct uni s1 f units [(c, a)] = .next (wordMoved (units := units) load bit s2 f c a2) := by
  obtain ⟨hkind, rfl, hdest, hpred⟩ := hw
  have hready : bitReady s2 a2 = true := by
    rw [bitReady, isFull, hfull, hkind]
    cases load <;> rfl
  simp only [wordAct, hstamp, hmay, hclash, hcov, hready, hqueue, List.isEmpty_nil, Bool.not_true, Bool.not_false,
    Bool.or_self, Bool.and_self, Bool.false_eq_true, if_false, if_true]
  cases load with
  | true =>
    have hldf : (a2.kind == AccKind.ldf) = true := by rw [hkind]; rfl
    have hsome := (writeDest_word (load := true) (fl := f) (j := c.idx)
      (a := { a2 with val := vecOf (memReadBytes s2.mem a2.key 8), performed := true }) hdest hpred).1
    obtain ⟨f', hf'⟩ := Option.isSome_iff_exists.mp hsome
    simp only [bankMove, hldf, if_true, hf', wordMoved, hbit, Option.getD_some, Bool.not_true]
  | false =>
    have hldf : (a2.kind == AccKind.ldf) = false := by rw [hkind]; rfl
    have hf' := (writeDest_word (load := false) (fl := f) (j := c.idx) (a := { a2 with performed := true }) hdest hpred).2 rfl
    simp only [bankMove, hldf, Bool.false_eq_true, if_false, hf', wordMoved, hbit, Bool.not_false]

theorem wordAct_waits {s1 s2 : State} {c : Core} {a a2 : Acc} {uni : Bool} (hw : IsWord load fn o a2)
    (hstamp : stampAcc s1 f units uni c a = (s2, a2))
    (hmay : mayPerform s2 f.clus c.idx a2 = true) (hclash : clashes s2 f.clus c.idx a2 = [])
    (hcov : coversDone s2 f.clus c.idx a2 = true)
    (hno : s2.full.contains a2.key = !load ∨ queuedOn s2.waiters s2 a2 = true) :
    wordAct uni s1 f units [(c, a)] = .next (putFiring
      (setWaiters (pushAcc s2 f.clus c.idx a2) (s2.waiters ++ [{ c := f.clus, i := c.idx, acc := a2.id }]))
      (putCores f (units.map fun k => { k with busy := .reply a2.id }))) := by
  obtain ⟨hkind, -, -, -⟩ := hw
  have hready : (bitReady s2 a2 && !queuedOn s2.waiters s2 a2) = false := by
    rcases hno with hfull | hqueue
    · rw [bitReady, isFull, hfull, hkind]
      cases load <;> rfl
    · rw [hqueue, Bool.not_true, Bool.and_false]
  simp only [wordAct, hstamp, hmay, hclash, hcov, hready, List.isEmpty_nil, Bool.not_true, Bool.or_self,
    Bool.false_eq_true, if_false]
  rfl

end

/-! ### FE on one word -/

section
variable {o : OpA} {units : List Core}

/-- The act of FE on one word, at a cluster. -/
def feActAt (clus : Nat) (uni pred : Bool) (new : Option Bool) (units : List Core) (st : State × Firing) (e : Core × Acc) :
    State × Firing :=
  let p := stampAcc st.1 st.2 units uni e.1 e.2
  let a := { p.2 with flag := p.1.full.contains p.2.key }
  let s := if pred = false then p.1 else if a.flag then acquireRead p.1 clus e.1.idx a
    else noteSeen p.1 clus e.1.idx a p.1.dir p.1.acq
  let s := match new with
    | some b => afterWrite (putBit s a.key b) clus e.1.idx a a.key (releaseUnit s clus e.1.idx a)
    | none => s
  (s, (writeDest st.2 e.1.idx a).getD st.2)

theorem feAct_eq (uni pred : Bool) (new : Option Bool) (st : State × Firing) (e : Core × Acc) :
    feAct units uni pred new st e = feActAt st.2.clus uni pred new units st e := by
  simp only [feAct, feActAt, Bool.not_eq_true']
  rfl

theorem updCore_clus (f : Firing) (i : Nat) (g : Core → Core) : (updCore f i g).clus = f.clus := rfl
theorem putCores_clus (f : Firing) (cs : List Core) : (putCores f cs).clus = f.clus := rfl
theorem putUniOf_clus (f : Firing) (i : Nat) (g : UFile → UFile) : (putUniOf f i g).clus = f.clus := by
  unfold putUniOf; split <;> rfl
theorem pushLink_clus {f f' : Firing} {i link : Nat} {w : Vec} (h : pushLink f i link w = some f') : f'.clus = f.clus := by
  unfold pushLink at h
  repeat' split at h
  all_goals cases h
  all_goals rfl

/-- What returns to a firing leaves its cluster. -/
theorem writeDest_clus {f f' : Firing} {i : Nat} {a : Acc} (h : writeDest f i a = some f') : f'.clus = f.clus := by
  have hpred : (if a.pred == 0 then f
      else if a.predGp then putUniOf f i fun u => setGp u a.pred a.flag
      else updCore f i fun c => setPr c a.pred (if a.flag then 0xFFFF else 0)).clus = f.clus := by
    split
    · rfl
    · split
      · exact putUniOf_clus _ _ _
      · rfl
  unfold writeDest at h
  rw [← hpred]
  revert h
  generalize (if a.pred == 0 then f
      else if a.predGp then putUniOf f i fun u => setGp u a.pred a.flag
      else updCore f i fun c => setPr c a.pred (if a.flag then 0xFFFF else 0)) = g
  intro h
  dsimp only at h
  split at h
  · cases h; rfl
  · cases h; rfl
  · cases h; exact putUniOf_clus _ _ _
  · split at h
    · cases h; rfl
    · exact pushLink_clus h

theorem feActAt_clus (clus : Nat) (uni pred : Bool) (new : Option Bool) (st : State × Firing) (e : Core × Acc) :
    (feActAt clus uni pred new units st e).2.clus = st.2.clus := by
  simp only [feActAt]
  generalize hw : writeDest _ _ _ = r
  cases r with
  | none => rfl
  | some f' => exact writeDest_clus hw

theorem foldl_feAct {uni pred : Bool} {new : Option Bool} (clus : Nat) (l : List (Core × Acc)) (st : State × Firing)
    (h : st.2.clus = clus) : l.foldl (feAct units uni pred new) st = l.foldl (feActAt clus uni pred new units) st := by
  induction l generalizing st with
  | nil => rfl
  | cons e l ih =>
    rw [List.foldl_cons, List.foldl_cons, feAct_eq, h]
    exact ih _ ((feActAt_clus _ _ _ _ _ _).trans h)

/-- The cores that FE selects, and the access of each. -/
def feSel (o : OpA) (f : Firing) (units : List Core) : List Core :=
  (if o.k = 1 then units.take 1 else units).filter fun c => takes (fileOf f units (o.k == 1) c) o.pr

theorem memUnits_eq_feSel (o : OpA) (f : Firing) (units : List Core) : memUnits f units (k1 o) o.pr = feSel o f units := by
  simp only [memUnits, feSel, k1, beq_iff_eq]

def feAccess (fn : Nat) (pred : Bool) (sets : BitVec 5) (o : OpA) (f : Firing) (units : List Core) (c : Core) : Acc :=
  { kind := .fe, fn := fn, ea := getS (fileOf f units (o.k == 1) c) o.a.toNat, size := 8, sets := sets,
    pred := if pred then o.d.toNat else 0, predGp := o.k == 1 }

/-- What FE leaves once each of its words may change. -/
def feDone (pred : Bool) (new : Option Bool) (o : OpA) (s : State) (f : Firing) (units : List Core) (_ : Nat)
    (l : List (Core × Acc)) : State :=
  putFiring (l.foldl (feActAt f.clus (o.k == 1) pred new units) (s, f)).1
    (advance (l.foldl (feActAt f.clus (o.k == 1) pred new units) (s, f)).2 units 4)

/-- The last part of FE on one word. -/
def feOn (pred : Bool) (new : Option Bool) (o : OpA) (s : State) (f : Firing) (units : List Core) (_ : Nat)
    (l : List (Core × Acc)) : Out :=
  if !(l.all (feReady s f units (o.k == 1))) then .next s
  else .next (putFiring (l.foldl (feAct units (o.k == 1) pred new) (s, f)).1
    (advance (l.foldl (feAct units (o.k == 1) pred new) (s, f)).2 units 4))

theorem feOn_eq (pred : Bool) (new : Option Bool) (o : OpA) (s : State) (f : Firing) (units : List Core) (idle : Nat)
    (l : List (Core × Acc)) : feOn pred new o s f units idle l =
      .next (if l.all (feReady s f units (o.k == 1)) then feDone pred new o s f units idle l else s) := by
  rw [feOn, foldl_feAct f.clus l (s, f) rfl]
  cases l.all (feReady s f units (o.k == 1)) <;> rfl

/-- The shape of FE on one word. -/
theorem fe_runs {i : OpA → Instr} (fn : Nat) (pred : Bool) (new : Option Bool) (sets : BitVec 5)
    (hexec : ∀ o s, exec (i o) s = feInstr (i o) o fn pred new s)
    (hsets : (if fn == 0 then 1 else if fn == 3 then 3 else 2 : BitVec 5) = sets) :
    RunsMIf i (fun o => o.k == 1) .word .wr feSel (fun o f units c => some (8, feAccess fn pred sets o f units c))
      (fun o s f units l => l.all (feReady s f units (o.k == 1))) (feDone pred new) :=
  runsMIf_of_memInstr (feOn pred new) (fun o s => by
    simp only [hexec, feInstr, feAcc, hsets, memUnits_eq_feSel]
    rfl) (feOn_eq pred new)

/-! ### FE on a range of words -/

/-- Whether a core is in a range, and whether it has words of it left (R196). -/
def inRange (k : Core) : Bool :=
  match k.busy with
  | .words _ _ _ => true
  | _ => false
def wordsLeft (k : Core) : Bool :=
  match k.busy with
  | .words _ done n => done < n
  | _ => false

theorem inRange_iff {k : Core} : inRange k = true ↔ ∃ key done n, k.busy = .words key done n := by
  cases hb : k.busy <;> simp [inRange, hb]

theorem nextFeWord_isSome (k : Core) : (nextFeWord k).isSome = wordsLeft k := by
  cases hb : k.busy <;> simp only [nextFeWord, wordsLeft, hb, Option.isSome_none]
  rename_i key done n
  by_cases h : done < n <;> simp [h]

theorem nextFeWord_eq_none {k : Core} (h : wordsLeft k = false) : nextFeWord k = none := by
  rw [← Option.not_isSome_iff_eq_none, nextFeWord_isSome, h]
  exact Bool.false_ne_true

theorem nextFeWord_of_busy {k : Core} {key done n : Nat} (hb : k.busy = .words key done n) (h : wordsLeft k = true) :
    nextFeWord k = some (key + 8 * done) := by
  have hlt : done < n := by simpa [wordsLeft, hb] using h
  simp [nextFeWord, hb, hlt]

/-- The core whose word is next is the first with words left. -/
theorem findSome?_nextFeWord (l : List Core) : (l.findSome? fun k => (nextFeWord k).map fun w => (k, w)) =
    (l.find? wordsLeft).bind fun k => (nextFeWord k).map fun w => (k, w) := by
  induction l with
  | nil => rfl
  | cons k l ih =>
    cases hk : wordsLeft k with
    | false =>
      rw [List.findSome?_cons, nextFeWord_eq_none hk, List.find?_cons_of_neg (Bool.eq_false_iff.mp hk)]
      exact ih
    | true =>
      obtain ⟨w, hw⟩ := Option.isSome_iff_exists.mp ((nextFeWord_isSome k).trans hk)
      rw [List.findSome?_cons, List.find?_cons_of_pos hk, Option.bind_some, hw]
      rfl

/-- The access of a range on a core. -/
def rangeAcc (fn : Nat) (o : OpA) (f : Firing) (units : List Core) (c : Core) : Acc :=
  { kind := .fe, fn := fn, ea := getS (fileOf f units (o.k == 1) c) o.a.toNat, size := 8, sets := 2, predGp := o.k == 1 }

theorem feAcc_range {fn : Nat} (hfn : fn = 4 ∨ fn = 5) (o : OpA) (f : Firing) (units : List Core) (c : Core) :
    feAcc fn (k1 o) o false (getS (fileOf f units (k1 o) c) o.a.toNat) = rangeAcc fn o f units c := by
  rcases hfn with rfl | rfl <;> rfl

/-- The acting cores of a firing, and the firing past a range. -/
def mineOf (f : Firing) (units : List Core) : List Core := f.cores.filter fun k => units.any fun u => u.idx == k.idx
def pastRange (f : Firing) (units : List Core) : Firing :=
  advance (putCores f ((mineOf f units).map fun k => { k with busy := .none })) units 4

/-- One word further in a range. -/
def stepWord (c : Core) : Core :=
  match c.busy with
  | .words key done n => { c with busy := .words key (done + 1) n }
  | _ => c

section
variable {fn : Nat} {b : Bool} {s : State} {f : Firing}

theorem ite_eq_false_swap {α : Type} (r : Bool) (x y : α) : (if r = false then x else y) = if r = true then y else x := by
  cases r <;> rfl

/-- A range without words left is over. -/
theorem feRange_over (h : (mineOf f units).find? wordsLeft = none) :
    feRange o fn b s f units = .next (putFiring s (pastRange f units)) := by
  have hnone : (mineOf f units).findSome? (fun k => (nextFeWord k).map fun w => (k, w)) = none := by
    rw [findSome?_nextFeWord, h]; rfl
  rw [mineOf] at hnone
  simp only [feRange, hnone]
  rfl

/-- A range with words left acts on the next word of the first core that has one, once what orders it lets it. -/
theorem feRange_acts {k : Core} {key done n : Nat} (hfn : fn = 4 ∨ fn = 5)
    (h : (mineOf f units).find? wordsLeft = some k) (hb : k.busy = .words key done n) :
    feRange o fn b s f units =
      if feReady s f units (o.k == 1) (k, { rangeAcc fn o f units k with
          space := spaceOf (rangeAcc fn o f units k).ea, key := key + 8 * done }) then
        let r := feActAt f.clus (o.k == 1) false (some b) units (s, f) (k, { rangeAcc fn o f units k with
          space := spaceOf (rangeAcc fn o f units k).ea, key := key + 8 * done })
        let f' := updCore r.2 k.idx stepWord
        .next (putFiring r.1 (if (mineOf f' units).any wordsLeft then f' else pastRange f' units))
      else .next s := by
  have hnext : (mineOf f units).findSome? (fun k => (nextFeWord k).map fun w => (k, w)) = some (k, key + 8 * done) := by
    rw [findSome?_nextFeWord, h, Option.bind_some, nextFeWord_of_busy hb (List.find?_some h)]
    rfl
  have hleft : ∀ g : Firing, (g.cores.any fun c => (units.any fun u => u.idx == c.idx) && (nextFeWord c).isSome) =
      (mineOf g units).any wordsLeft := fun g => by
    rw [mineOf, List.any_filter]
    simp only [nextFeWord_isSome]
  rw [mineOf] at hnext
  simp only [feRange, hnext, feAct_eq, hleft, Bool.not_eq_true']
  rcases hfn with rfl | rfl <;> exact ite_eq_false_swap _ _ _

end

/-- The number of words that a range names on a core. -/
def rangeCount (o : OpA) (f : Firing) (units : List Core) (c : Core) : Nat :=
  (getS (fileOf f units (o.k == 1) c) o.b.toNat).toNat

/-- The cores of a range whose accesses have passed their checks begin it, with the counts of firing `f`. -/
def beginRange (o : OpA) (f : Firing) (units : List Core) (g : Firing) (e : Core × Acc) : Firing :=
  updCore g e.1.idx fun c => { c with busy := .words e.2.key 0 (rangeCount o f units e.1) }

/-- A core that begins its range leaves the counts of the others as they were. -/
theorem foldl_beginRange (o : OpA) (f : Firing) (units : List Core) (l : List (Core × Acc)) (g : Firing)
    (h : rangeCount o g units = rangeCount o f units) :
    l.foldl (fun g e => beginRange o g units g e) g = l.foldl (beginRange o f units) g := by
  induction l generalizing g with
  | nil => rfl
  | cons e l ih =>
    have hstep : beginRange o g units g e = beginRange o f units g e := by rw [beginRange, h, beginRange]
    rw [List.foldl_cons, List.foldl_cons, hstep]
    exact ih _ h

/-- The bytes that the check of a range covers. -/
def rangeSpan (n : Nat) : Nat := if 4096 < n then 2 ^ 40 else 8 * max n 1


/-- The check of the whole of a range on a core. -/
def rangeCheck (fn : Nat) (o : OpA) (f : Firing) (units : List Core) (c : Core) (s : State) : State × Chk :=
  checkAccess s f c .word .wr (rangeSpan (rangeCount o f units c)) (rangeAcc fn o f units c)

/-- The memory instruction that begins a range. -/
def rangeMemory (i : OpA → Instr) (fn : Nat) (b : Bool) (o : OpA) : State → Out :=
  memShape (siteOf (i o)) (o.k == 1) (some false) (feSel o) (fun f units c => some (rangeCheck fn o f units c))
    fun s f units _ l => feRange o fn b s (l.foldl (fun g e => beginRange o g units g e) f) units

theorem feSpan_eq {i : OpA → Instr} {fn : Nat} (b : Bool) (hfn : fn = 4 ∨ fn = 5) (s : State) : feSpan (i o) o fn b s =
    withFiring (siteOf (i o)) s fun s f units =>
      if units.any inRange then feRange o fn b s f units else rangeMemory i fn b o s := by
  simp only [feSpan, memUnits_eq_feSel, feAcc_range hfn]
  rfl

section
variable {i : OpA → Instr} {fn : Nat} {b : Bool} {s : State} {f : Firing}

theorem asksOf_rangeMemory (o : OpA) (f : Firing) (units : List Core) :
    asksOf (feSel o) (fun f units c => some (rangeCheck fn o f units c)) f units =
      (feSel o f units).map fun c => (c, rangeCheck fn o f units c) :=
  congrFun (List.filterMap_eq_map (f := fun c => (c, rangeCheck fn o f units c))) (feSel o f units)

theorem range_goes_on (hexec : ∀ o s, exec (i o) s = feSpan (i o) o fn b s) (hfn : fn = 4 ∨ fn = 5)
    (h : Issues s (siteOf (i o)) f units) (hgoes : ∃ c ∈ units, ∃ key done n, c.busy = .words key done n) :
    exec (i o) s = feRange o fn b (putFiring s f) f units := by
  obtain ⟨c, hc, hbusy⟩ := hgoes
  rw [hexec, feSpan_eq b hfn, withFiring_issues h, if_pos (List.any_eq_true.mpr ⟨c, hc, inRange_iff.mpr hbusy⟩)]

/-- A range that is not begun is the memory instruction that begins it. -/
theorem range_begins (hexec : ∀ o s, exec (i o) s = feSpan (i o) o fn b s) (hfn : fn = 4 ∨ fn = 5)
    (h : Issues s (siteOf (i o)) f units) (hgoes : ¬∃ c ∈ units, ∃ key done n, c.busy = .words key done n) :
    exec (i o) s = rangeMemory i fn b o (putFiring s f) := by
  have hno : ¬units.any inRange = true := fun hany => by
    obtain ⟨c, hc, hin⟩ := List.any_eq_true.mp hany
    exact hgoes ⟨c, hc, inRange_iff.mp hin⟩
  rw [hexec, feSpan_eq b hfn, withFiring_issues h, if_neg hno]

theorem rangeMemory_room (hroom : countersFull (putFiring s f) f (if o.k = 1 then units else feSel o f units) (some false) = false) :
    fullFor (putFiring s f) f units (o.k == 1) (some false)
      (asksOf (feSel o) (fun f units c => some (rangeCheck fn o f units c)) f units) = false := by
  have hcores : ((feSel o f units).map fun c => (c, rangeCheck fn o f units c)).map (·.1) = feSel o f units := by
    rw [List.map_map]
    exact List.map_id' _
  rw [asksOf_rangeMemory, fullFor, putFiring_putFiring, hcores]
  simpa only [beq_iff_eq] using hroom

theorem rangeMemory_traps {s' : State} {rs : List (Core × Chk)} {t : TrapInfo} (h : Issues s (siteOf (i o)) f units)
    (hroom : countersFull (putFiring s f) f (if o.k = 1 then units else feSel o f units) (some false) = false)
    (hchk : checkAll (putFiring s f) ((feSel o f units).map fun c => (c, rangeCheck fn o f units c)) = (s', rs))
    (ht : firstTrap rs = some t) : rangeMemory i fn b o (putFiring s f) =
      .next (trapFiring s' f t ((siteOf (i o)).words.head?.getD 0) ((siteOf (i o)).words[1]?.getD 0)) := by
  refine memShape_traps (issues_putFiring h) (.inr (rangeMemory_room hroom)) ?_ ht
  rw [asksOf_rangeMemory, putFiring_putFiring, hchk]

theorem rangeMemory_acts {s' : State} {l : List (Core × Acc)} (h : Issues s (siteOf (i o)) f units)
    (hroom : countersFull (putFiring s f) f (if o.k = 1 then units else feSel o f units) (some false) = false)
    (hchk : checkAll (putFiring s f) ((feSel o f units).map fun c => (c, rangeCheck fn o f units c)) =
      (s', l.map fun e => (e.1, .ok e.2))) :
    rangeMemory i fn b o (putFiring s f) = feRange o fn b s' (l.foldl (beginRange o f units) f) units := by
  refine (memShape_acts (issues_putFiring h) (.inr (rangeMemory_room hroom)) (s' := s') (l := l) ?_).trans ?_
  · rw [asksOf_rangeMemory, putFiring_putFiring, hchk]
  · rw [List.foldl_map, ← foldl_beginRange o f units l f rfl]
    rfl

end

end

/-- The fates of LDF and STE. -/
theorem word_runs {i : OpM → Instr} (load : Bool) (fn : Nat) (bit : Bool)
    (hexec : ∀ o s, exec (i o) s = wordInstr (i o) o (wordKind load) fn s)
    (hbit : bit = if load then fn == 1 else fn == 0) (s : State) (f : Firing) (units : List Core) (o : OpM)
    (h : Issues s (siteOf (i o)) f units) :
    (selM o f units = [] → exec (i o) s = .next (afterWord s f f units 8)) ∧
    ∀ c rest, selM o f units = c :: rest →
      (o.o.k = 0 → 1 < units.length → exec (i o) s = .next (afterTrap s f
        { core := c.idx, cause := 0x0F, addr := (wordAcc load fn o f units c).ea } (siteOf (i o)))) ∧
      ((o.o.k = 1 ∨ units.length ≤ 1) → rest = [] →
        countersFull (putFiring s f) f (if o.o.k = 1 then units else [c]) (some load) = false →
        ∀ s1 a1 s2 a2,
          checkAccess (putFiring s f) f c .word (if load then .rd else .wr) 8 (wordAcc load fn o f units c) = (s1, .ok a1) →
          stampAcc s1 f units (o.o.k == 1) c { a1 with words := (siteOf (i o)).words } = (s2, a2) →
          mayPerform s2 f.clus c.idx a2 = true → clashes s2 f.clus c.idx a2 = [] → coversDone s2 f.clus c.idx a2 = true →
          (s2.full.contains a2.key = load → queuedOn s2.waiters s2 a2 = false →
            exec (i o) s = .next (wordMoved (units := units) load bit s2 f c a2)) ∧
          ((s2.full.contains a2.key = !load ∨ queuedOn s2.waiters s2 a2 = true) → exec (i o) s = .next (putFiring
            (setWaiters (pushAcc s2 f.clus c.idx a2) (s2.waiters ++ [{ c := f.clus, i := c.idx, acc := a2.id }]))
            (putCores f (units.map fun k => { k with busy := .reply a2.id }))))) := by
  refine ⟨word_idle hexec h, fun c rest hsel => ⟨word_traps hexec h hsel, ?_⟩⟩
  intro hg hrest hroom s1 a1 s2 a2 hchk hstamp hmay hclash hcov
  subst hrest
  have hw := isWord_of_checked hchk hstamp
  rw [word_acts hexec h hsel hg hroom hchk]
  exact ⟨wordAct_moves hw hbit hstamp hmay hclash hcov, wordAct_waits hw hstamp hmay hclash hcov⟩

/-- How a range goes on or begins. -/
theorem range_runs {i : OpA → Instr} {fn : Nat} {b : Bool} (hfn : fn = 4 ∨ fn = 5)
    (hexec : ∀ o s, exec (i o) s = feSpan (i o) o fn b s) (s : State) (f : Firing) (units : List Core) (o : OpA)
    (h : Issues s (siteOf (i o)) f units) :
    ((∃ c ∈ units, ∃ key done n, c.busy = .words key done n) → exec (i o) s = feRange o fn b (putFiring s f) f units) ∧
    ((¬∃ c ∈ units, ∃ key done n, c.busy = .words key done n) →
      countersFull (putFiring s f) f (if o.k = 1 then units else feSel o f units) (some false) = false →
      (∀ s' rs t, checkAll (putFiring s f) ((feSel o f units).map fun c => (c, rangeCheck fn o f units c)) = (s', rs) →
        firstTrap rs = some t → exec (i o) s =
          .next (trapFiring s' f t ((siteOf (i o)).words.head?.getD 0) ((siteOf (i o)).words[1]?.getD 0))) ∧
      ∀ s' (l : List (Core × Acc)),
        checkAll (putFiring s f) ((feSel o f units).map fun c => (c, rangeCheck fn o f units c)) =
          (s', l.map fun e => (e.1, .ok e.2)) →
        exec (i o) s = feRange o fn b s' (l.foldl (beginRange o f units) f) units) :=
  ⟨range_goes_on hexec hfn h, fun hno hroom =>
    ⟨fun _ _ _ hchk ht => (range_begins hexec hfn h hno).trans (rangeMemory_traps h hroom hchk ht),
     fun _ _ hchk => (range_begins hexec hfn h hno).trans (rangeMemory_acts h hroom hchk)⟩⟩

/-- Whether the next word of a range may change (R196), and what is then left of the state and the firing. -/
def nextWord (fn : Nat) (o : OpA) (f : Firing) (units : List Core) (k : Core) (key done : Nat) : Core × Acc :=
  (k, { rangeAcc fn o f units k with space := spaceOf (rangeAcc fn o f units k).ea, key := key + 8 * done })

theorem feReady_iff {s : State} {f : Firing} {units : List Core} {uni : Bool} {e : Core × Acc} :
    feReady s f units uni e = true ↔
      mayPerform (stampAcc s f units uni e.1 e.2).1 f.clus e.1.idx (stampAcc s f units uni e.1 e.2).2 = true ∧
      clashes (stampAcc s f units uni e.1 e.2).1 f.clus e.1.idx (stampAcc s f units uni e.1 e.2).2 = [] ∧
      coversDone (stampAcc s f units uni e.1 e.2).1 f.clus e.1.idx (stampAcc s f units uni e.1 e.2).2 = true := by
  simp only [feReady, Bool.and_eq_true, List.isEmpty_iff, and_assoc]

/-- One act of a range, by whether its next word may change. -/
theorem feRange_next {fn : Nat} {b : Bool} {o : OpA} {s : State} {f : Firing} {units : List Core} {k : Core}
    {key done n : Nat} (hfn : fn = 4 ∨ fn = 5) (h : (mineOf f units).find? wordsLeft = some k)
    (hb : k.busy = .words key done n) {ready : Prop}
    (hready : feReady s f units (o.k == 1) (nextWord fn o f units k key done) = true ↔ ready) :
    (¬ready → feRange o fn b s f units = .next s) ∧
    (ready → feRange o fn b s f units =
      let r := feActAt f.clus (o.k == 1) false (some b) units (s, f) (nextWord fn o f units k key done)
      let f' := updCore r.2 k.idx stepWord
      .next (putFiring r.1 (if (mineOf f' units).any wordsLeft then f' else pastRange f' units))) := by
  have hacts := feRange_acts (o := o) (s := s) (b := b) hfn h hb
  refine ⟨fun hno => hacts.trans (if_neg fun hr => hno (hready.mp hr)), fun hr => hacts.trans (if_pos (hready.mpr hr))⟩

/-- Settles O18: LDF and STE by what their bank makes of the word, FE by its words, a range by its next one. -/
theorem fullEmptyWordsMove : Obligations.FullEmptyWordsMove := by
  refine ⟨⟨?ldfKeep, ?ldfTake, ?steFill, ?steKeep⟩, ⟨?test, ?set, ?clr, ?tas⟩, ⟨?begin4, ?go4⟩, ?begin5, ?go5⟩
  case ldfKeep => exact word_runs true 0 false (fun _ _ => rfl) rfl
  case ldfTake => exact word_runs true 1 true (fun _ _ => rfl) rfl
  case steFill => exact word_runs false 0 true (fun _ _ => rfl) rfl
  case steKeep => exact word_runs false 1 false (fun _ _ => rfl) rfl
  case test => exact fe_runs 0 true none 1 (fun _ _ => rfl) rfl
  case set => exact fe_runs 1 false (some true) 2 (fun _ _ => rfl) rfl
  case clr => exact fe_runs 2 false (some false) 2 (fun _ _ => rfl) rfl
  case tas => exact fe_runs 3 true (some true) 3 (fun _ _ => rfl) rfl
  case begin4 => exact range_runs (i := .feSetr) (b := true) (.inl rfl) fun _ _ => rfl
  case go4 =>
    exact fun o s f units => ⟨feRange_over, fun k key done n hk hb => feRange_next (.inl rfl) hk hb feReady_iff⟩
  case begin5 => exact range_runs (i := .feClrr) (b := false) (.inr rfl) fun _ _ => rfl
  case go5 =>
    exact fun o s f units => ⟨feRange_over, fun k key done n hk hb => feRange_next (.inr rfl) hk hb feReady_iff⟩

end Sys2Proof.Proofs.FullEmpty
end

section
/-! SUPPORT. SEND (R60, R175 to R178). -/

namespace Sys2Proof.Proofs.Sends

open Sys2Proof.Machine Sys2Proof.Laws.Shapes

section
variable {i : OpA → Instr} {uni : OpA → Bool} {kind : Nat} {q : OpA → Nat} {lw le : OpA → Bool}
  {pay : OpA → Firing → List Core → Core → Payloads}

/-- The cores of a SEND that its predicate selects. -/
def sendSel (uni : Bool) (o : OpA) (f : Firing) (units : List Core) : List Core :=
  (if uni then units.take 1 else units).filter fun c => takes (fileOf f units uni c) o.pr

/-- The firing with the messages of the selected cores staged, or the trap of the first that may not send (R176, R177). -/
def staged (uni : Bool) (kind q : Nat) (pay : Firing → List Core → Core → Payloads) (o : OpA) (s : State) (f : Firing)
    (units : List Core) : Except TrapInfo Firing :=
  stageAll (putFiring s f) kind q (fun c => if uni then units.map fun k => k.idx else [c.idx])
    (fun c => getS (fileOf f units uni c) o.a.toNat) (pay f units) f (sendSel uni o f units)

/-- The shape of a SEND. -/
theorem send_runs (hexec : ∀ o s, exec (i o) s = sendInstr (i o) o (uni o) kind (q o) (lw o) (le o) (pay o) s)
    (hlen : ∀ o, siteLen (siteOf (i o)) = 4) (s : State) (f : Firing) (units : List Core) (o : OpA)
    (h : Issues s (siteOf (i o)) f units) :
    ((∃ c ∈ sendSel (uni o) o f units, popReady (lw o) (le o) c = false) → exec (i o) s = .next (putFiring s f)) ∧
    ((∀ c ∈ sendSel (uni o) o f units, popReady (lw o) (le o) c = true) →
      (∀ t, staged (uni o) kind (q o) (pay o) o s f units = .error t →
        exec (i o) s = .next (afterTrap s f t (siteOf (i o)))) ∧
      ∀ f', staged (uni o) kind (q o) (pay o) o s f units = .ok f' → exec (i o) s = .next (afterWord s f
        (putCores f' ((sendSel (uni o) o f units).map fun c =>
          popCore (lw o) (le o) { c with nflags := c.nflags ||| (pay o f units c).2 })) units 4)) := by
  have hsel : memUnits f units (uni o) o.pr = sendSel (uni o) o f units := rfl
  simp only [hexec, sendInstr, withFiring_issues h, hsel]
  refine ⟨fun ⟨c, hc, hno⟩ => ?_, fun hall => ⟨fun t ht => ?_, fun f' hf' => ?_⟩⟩
  · have hready : (sendSel (uni o) o f units).all (popReady (lw o) (le o)) = false :=
      List.all_eq_false.mpr ⟨c, hc, Bool.eq_false_iff.mp hno⟩
    simp only [hready, Bool.not_false, if_true]
  all_goals
    have hready : (sendSel (uni o) o f units).all (popReady (lw o) (le o)) = true := List.all_eq_true.mpr hall
    simp only [hready, Bool.not_true, Bool.false_eq_true, if_false]
  · rw [staged] at ht
    simp only [ht]
    rfl
  · rw [staged] at hf'
    simp only [hf']
    rfl

end

/-- The vector that a SEND takes on a core: a register, or the word at the head of a link. -/
theorem sendSource_eq (o : OpA) (c : Core) : sendSource o c =
    if o.b = 30 then c.lw.headD 0 else if o.b = 31 then c.le.headD 0 else vget c.v o.b.toNat 0 := by
  simp only [sendSource, beq_iff_eq, List.headD_eq_head?_getD]

/-- Settles O28: the words by their payloads, and the three traps of staging in their order. -/
theorem sendsStage : Obligations.SendsStage := by
  refine ⟨?x, ?v, ?nz, fun s f c cores kind q addr p => ⟨fun hok => ?addr, fun hok hmay => ?perm, fun hok hmay hlen => ?room⟩⟩
  case x =>
    exact send_runs (i := .sendX) (uni := fun o => o.k == 1) (kind := 1) (q := fun _ => 0) (lw := fun _ => false)
      (le := fun _ => false) (pay := fun o f units c => ([[getS (fileOf f units (o.k == 1) c) o.b.toNat]], 0))
      (fun _ _ => rfl) fun _ => rfl
  case v =>
    simp only [← sendSource_eq]
    exact send_runs (i := .sendV) (uni := fun _ => false) (kind := 2) (q := fun o => o.q.toNat) (lw := fun o => o.b == 30)
      (le := fun o => o.b == 31) (pay := fun o _ _ c => sendVec o.q.toNat (sendSource o c)) (fun _ _ => rfl) fun _ => rfl
  case nz =>
    simp only [← sendSource_eq]
    exact send_runs (i := .sendNz) (uni := fun _ => false) (kind := 3) (q := fun o => o.q.toNat) (lw := fun o => o.b == 30)
      (le := fun o => o.b == 31) (pay := fun o _ _ c => sendNonzero o.q.toNat (getX c o.d.toNat) (sendSource o c))
      (fun _ _ => rfl) fun _ => rfl
  case addr => simp only [stage, hok, Bool.not_false, if_true]
  case perm => simp only [stage, hok, hmay, Bool.not_true, Bool.not_false, Bool.false_eq_true, if_false, if_true]
  case room => simp only [stage, hok, hmay, hlen, Bool.not_true, Bool.false_eq_true, if_false, if_true]

end Sys2Proof.Proofs.Sends
end

section
/-! SUPPORT. RECV and CHAN (R166, R170, R179 to R181). -/

namespace Sys2Proof.Proofs.Receives

open Sys2Proof.Machine Sys2Proof.Laws.Shapes Sys2Proof.Proofs.Rules Sys2Proof.Proofs.WaitsAndSystem

/-! ### RECV -/

section
variable {i : OpA → Instr} {g : OpA → List Msg → Nat → Core → Option (Nat × Core)}

/-- What a RECV makes of its selected cores, in ascending order: the words popped after it, and the cores. -/
def received (g : List Msg → Nat → Core → Option (Nat × Core)) (o : OpA) (s : State) (f : Firing) (units : List Core)
    (x : Inst) : Option (Nat × List Core) :=
  (units.filter fun c => takes (fileOf f units false c) o.pr).foldlM (init := (poppedOf (putFiring s f) x, ([] : List Core)))
    fun st c => (g (directQueue (putFiring s f) x) st.1 c).map fun r => (r.1, st.2 ++ [r.2])

/-- The shape of a RECV. -/
theorem recv_runs (hexec : ∀ o s, exec (i o) s = recvInstr (i o) o (g o) s) (s : State) (f : Firing) (units : List Core)
    (o : OpA) (x : Inst) (h : Issues s (siteOf (i o)) f units) (hx : instOf (putFiring s f) f.inst = some x) :
    (received (g o) o s f units x = none → exec (i o) s = .next (putFiring s f)) ∧
    ∀ n cs, received (g o) o s f units x = some (n, cs) → exec (i o) s = .next (putFiring (setPopped (putFiring s f) x n)
      (advance (putCores { f with popped := f.popped + (n - poppedOf (putFiring s f) x) } cs) units 4)) := by
  have hsel : memUnits f units false o.pr = units.filter fun c => takes (fileOf f units false c) o.pr := rfl
  simp only [hexec, recvInstr, withFiring_issues h, hx, hsel]
  refine ⟨fun hnone => ?_, fun n cs hsome => ?_⟩
  · rw [received] at hnone
    simp only [hnone]
  · rw [received] at hsome
    simp only [hsome]

end

/-! ### CHAN -/

section
variable {i : OpA → Instr} {g : State → Firing → Chan → Resv → Word → Option Word}

/-- The value that CHAN has for an index: none outside the reservation (R181). -/
def portVal (g : State → Firing → Chan → Resv → Word → Option Word) (o : OpA) (s : State) (f : Firing) (b : Word) :
    Option Word :=
  (portResv s f o.a.toNat).bind fun v => (chanAt s f.clus f.launch v.chan).bind fun x => g s f x v b

/-- What CHAN does with a file. -/
def portFile (g : State → Firing → Chan → Resv → Word → Option Word) (o : OpA) (s : State) (f : Firing) (r : RFile) :
    Res RFile :=
  match portVal g o s f (getS r o.b.toNat) with
  | some w => .ok (setS r o.d.toNat w)
  | none => .trap { core := r.core.idx, cause := 0x15 }

theorem chanInstr_eq (o : OpA) (s : State) : chanInstr (i o) o g s = fileInstr (siteOf (i o)) (k1 o) o.pr (portFile g o) s :=
  rfl

theorem portFile_of_some {o : OpA} {s : State} {f : Firing} {r : RFile} {w : Word}
    (h : portVal g o s f (getS r o.b.toNat) = some w) : portFile g o s f r = .ok (setS r o.d.toNat w) := by
  simp only [portFile, h]

theorem portFile_of_none {o : OpA} {s : State} {f : Firing} {r : RFile} (h : portVal g o s f (getS r o.b.toNat) = none) :
    portFile g o s f r = .trap { core := r.core.idx, cause := 0x15 } := by
  simp only [portFile, h]

theorem head_idx (units : List Core) : (units.head?.getD {}).idx = lowest units := by
  cases units <;> rfl

/-- CHAN for the gang goes by the uniform file. -/
theorem chan_gang (hexec : ∀ o s, exec (i o) s = chanInstr (i o) o g s) (hlen : ∀ o, siteLen (siteOf (i o)) = 4)
    (s : State) (f : Firing) (units : List Core) (o : OpA) (h : Issues s (siteOf (i o)) f units) (hk : o.k = 1) :
    (getGp (uniformOf f units) o.pr.toNat = false → exec (i o) s = .next (afterWord s f f units 4)) ∧
    (getGp (uniformOf f units) o.pr.toNat = true →
      (∀ w, portVal g o (putFiring s f) f (getG (uniformOf f units) o.b.toNat) = some w → exec (i o) s =
        .next (afterWord s f (fileResult f units true o.pr fun r => setS r o.d.toNat w) units 4)) ∧
      (portVal g o (putFiring s f) f (getG (uniformOf f units) o.b.toNat) = none →
        exec (i o) s = .next (afterTrap s f { core := lowest units, cause := 0x15 } (siteOf (i o))))) := by
  have hk1 : k1 o = true := by rw [k1, hk]; rfl
  have htakes : takes (fileOf f units true (units.head?.getD {})) o.pr = getGp (uniformOf f units) o.pr.toNat :=
    takes_fileOf_uniform f units _ o.pr
  simp only [hexec, chanInstr_eq, hk1, fileInstr, withFiring_issues h, runFile, if_true, htakes]
  refine ⟨fun hp => ?_, fun hp => ⟨fun w hw => ?_, fun hw => ?_⟩⟩
  · simp only [hp, Bool.false_eq_true, if_false, hlen]
    rfl
  · have hfile := portFile_of_some (r := fileOf f units true (units.head?.getD {})) hw
    simp only [hp, if_true, hfile, Res.bindOk, hlen, fileResult, htakes]
    rfl
  · have hfile := portFile_of_none (r := fileOf f units true (units.head?.getD {})) hw
    simp only [hp, if_true, hfile, Res.bindOk, fileOf_core, head_idx]
    rfl

/-- CHAN on the cores: the first that acts outside the reservation traps, and where none does each takes its value. -/
theorem chan_cores (hexec : ∀ o s, exec (i o) s = chanInstr (i o) o g s) (hlen : ∀ o, siteLen (siteOf (i o)) = 4)
    (s : State) (f : Firing) (units : List Core) (o : OpA) (w : Core → Word) (h : Issues s (siteOf (i o)) f units)
    (hk : o.k = 0) :
    (∀ pre c rest, units = pre ++ c :: rest → (getPr c o.pr.toNat).getLsbD 0 = true →
      portVal g o (putFiring s f) f (getX c o.b.toNat) = none →
      (∀ d ∈ pre, (getPr d o.pr.toNat).getLsbD 0 = false ∨ portVal g o (putFiring s f) f (getX d o.b.toNat) ≠ none) →
      exec (i o) s = .next (afterTrap s f { core := c.idx, cause := 0x15 } (siteOf (i o)))) ∧
    ((∀ c ∈ units, (getPr c o.pr.toNat).getLsbD 0 = true → portVal g o (putFiring s f) f (getX c o.b.toNat) = some (w c)) →
      exec (i o) s = .next (afterWord s f (fileResult f units false o.pr fun r => setS r o.d.toNat (w r.core)) units 4)) := by
  have hk1 : k1 o = false := by rw [k1, hk]; rfl
  rw [hexec, chanInstr_eq, hk1]
  refine ⟨fun pre c rest hunits hact hval hpre => ?_, fun hall => ?_⟩
  · have hcollect : collect (units.map fun c => if takes (fileOf f units false c) o.pr = true
        then portFile g o (putFiring s f) f (fileOf f units false c) else .ok (fileOf f units false c)) =
        .trap { core := c.idx, cause := 0x15 } := by
      rw [hunits, List.map_append, List.map_cons]
      refine collect_trap (List.findSome?_eq_some_iff.mpr ⟨_, _, _, rfl, ?_, fun r hr => ?_⟩)
      · rw [takes_fileOf_core, if_pos hact, portFile_of_none (r := fileOf f _ false c) hval]
        rfl
      · obtain ⟨d, hd, rfl⟩ := List.mem_map.mp hr
        rw [takes_fileOf_core]
        rcases hpre d hd with hoff | hsome
        · rw [if_neg (Bool.eq_false_iff.mp hoff)]
          rfl
        · obtain ⟨v, hv⟩ := Option.ne_none_iff_exists'.mp hsome
          rw [portFile_of_some (r := fileOf f _ false d) hv]
          split <;> rfl
    simp only [fileInstr, withFiring_issues h, runFile, Bool.false_eq_true, if_false, hcollect, Res.bindOk]
    rfl
  · rw [← hlen o]
    refine fileInstr_next_of_selected (k := fun r => setS r o.d.toNat (w r.core)) h _ fun c hc => ?_
    obtain ⟨hmem, hact⟩ := List.mem_filter.mp hc
    exact portFile_of_some (hall c hmem hact)

end

/-- What `recv.try` does on a core: the next word with a predicate that says so, or neither (R179). -/
def tryWord (o : OpA) (q : List Msg) (n : Nat) (c : Core) : Option (Nat × Core) :=
  match nextWord q n with
  | some w => some (n + 1, setPr (setX c o.d.toNat w) o.b.toNat 0xFFFF)
  | none => some (n, setPr (setX c o.d.toNat 0) o.b.toNat 0)

/-- What `recv.hdr` does on a core: it reads the header of the oldest message (R170, R179). -/
def readHeader (o : OpA) (q : List Msg) (n : Nat) (c : Core) : Option (Nat × Core) :=
  (oldestMsg q n).map fun r => (n, setX c o.d.toNat (msgHeader r.1))

/-- What `recv.drop` does on a core: it pops the rest of the oldest message, if there is one (R179). -/
def dropMsg (q : List Msg) (n : Nat) (c : Core) : Option (Nat × Core) :=
  match oldestMsg q n with
  | some r => some (n + (msgLen r.1 - r.2), c)
  | none => some (n, c)

/-- What `chan.slot`, `chan.hdr` and `chan.cnt` read (R181). -/
def slotPointer (s : State) (f : Firing) (x : Chan) (v : Resv) (b : Word) : Option Word :=
  (v.slots[b.toNat]?).map fun j => BitVec.ofNat 64 (5 * 2 ^ 60 + (x.base + j * x.bytes - clusterBase s f.launch f.clus))
def slotHeader (_ : State) (_ : Firing) (x : Chan) (v : Resv) (b : Word) : Option Word :=
  (v.slots[b.toNat]?).map fun j => x.hdrs.getD j 0
def chanCounts (_ : State) (_ : Firing) (x : Chan) (_ : Resv) (_ : Word) : Option Word :=
  some (BitVec.ofNat 64 ((x.filled.length + x.fr) * 2 ^ 32 + (x.free.length + x.er)))

/-- Settles O29: each RECV by what it makes of a core, each CHAN by what it reads. -/
theorem receivesAndChannelsRead : Obligations.ReceivesAndChannelsRead := by
  refine ⟨?w, ?tryW, ?hdr, ?drop, ⟨?slotG, ?slotC⟩, ⟨?hdrG, ?hdrC⟩, ?cntG, ?cntC⟩
  case w => exact recv_runs (i := .recvW) (g := fun o q n c => (nextWord q n).map fun w => (n + 1, setX c o.d.toNat w)) fun _ _ => rfl
  case tryW => exact recv_runs (i := .recvTry) (g := tryWord) fun _ _ => rfl
  case hdr => exact recv_runs (i := .recvHdr) (g := readHeader) fun _ _ => rfl
  case drop => exact recv_runs (i := .recvDrop) (g := fun _ => dropMsg) fun _ _ => rfl
  case slotG => exact chan_gang (i := .chanSlot) (g := slotPointer) (fun _ _ => rfl) fun _ => rfl
  case slotC => exact chan_cores (i := .chanSlot) (g := slotPointer) (fun _ _ => rfl) fun _ => rfl
  case hdrG => exact chan_gang (i := .chanHdr) (g := slotHeader) (fun _ _ => rfl) fun _ => rfl
  case hdrC => exact chan_cores (i := .chanHdr) (g := slotHeader) (fun _ _ => rfl) fun _ => rfl
  case cntG => exact chan_gang (i := .chanCnt) (g := chanCounts) (fun _ _ => rfl) fun _ => rfl
  case cntC => exact chan_cores (i := .chanCnt) (g := chanCounts) (fun _ _ => rfl) fun _ => rfl

end Sys2Proof.Proofs.Receives
end

section
/-! SUPPORT. BAR (R182 to R185). -/

namespace Sys2Proof.Proofs.Barriers

open Sys2Proof.Machine Sys2Proof.Laws.Shapes

/-! ### Phases and arrivals -/

/-- The barrier in its next phase (R183). -/
def nextPhase (b : Bar) : Bar :=
  { b with phase := b.phase + 1, counts := (b.counts.2.1, b.counts.2.2, 0), lead := b.lead.map fun l => l - 1,
           done := b.done + 1 }

/-- Whether the count of a barrier's phase has reached N. -/
def PhaseMet (b : Bar) : Prop := b.n ≠ 0 ∧ b.n ≤ b.counts.1

theorem completePhases_of_met {b : Bar} (k : Nat) (h : PhaseMet b) :
    completePhases (k + 1) b = completePhases k (nextPhase b) := by
  have hmet : (b.n != 0 && decide (b.n ≤ b.counts.1)) = true := by
    simpa only [Bool.and_eq_true, bne_iff_ne, decide_eq_true_eq, PhaseMet] using h
  simp only [completePhases, hmet, if_true]
  rfl

theorem completePhases_of_not_met {b : Bar} (k : Nat) (h : ¬PhaseMet b) : completePhases k b = b := by
  cases k with
  | zero => rfl
  | succ k =>
    have hmet : ¬(b.n != 0 && decide (b.n ≤ b.counts.1)) = true := by
      simpa only [Bool.and_eq_true, bne_iff_ne, decide_eq_true_eq, PhaseMet] using h
    simp only [completePhases, hmet, if_false, Bool.false_eq_true]

theorem not_phaseMet_iff {b : Bar} : ¬PhaseMet b ↔ b.n = 0 ∨ b.counts.1 < b.n := by
  rw [PhaseMet, not_and_or, not_not, not_le]

/-- Completing phases changes neither N nor raises a lead counter. -/
theorem completePhases_n (k : Nat) (b : Bar) : (completePhases k b).n = b.n := by
  induction k generalizing b with
  | zero => rfl
  | succ k ih =>
    by_cases h : PhaseMet b
    · rw [completePhases_of_met k h, ih]; rfl
    · rw [completePhases_of_not_met _ h]

theorem completePhases_lead_le (k : Nat) (b : Bar) (j : Nat) : (completePhases k b).lead.getD j 0 ≤ b.lead.getD j 0 := by
  induction k generalizing b with
  | zero => exact le_rfl
  | succ k ih =>
    by_cases h : PhaseMet b
    · rw [completePhases_of_met k h]
      refine (ih _).trans ?_
      simp only [nextPhase, List.getD_eq_getElem?_getD, List.getElem?_map]
      cases b.lead[j]? <;> simp
    · rw [completePhases_of_not_met _ h]

/-- Three shifts of the counts leave none: four completions at most are due (R183). -/
theorem completePhases_settles (b : Bar) : ¬PhaseMet (completePhases 4 b) := by
  have hzero : ∀ c : Bar, c.counts = (0, 0, 0) → ¬PhaseMet c := fun c hc h => h.1 (by
    have := h.2
    rw [hc] at this
    exact Nat.le_zero.mp this)
  by_cases h0 : PhaseMet b
  · rw [completePhases_of_met _ h0]
    by_cases h1 : PhaseMet (nextPhase b)
    · rw [completePhases_of_met _ h1]
      by_cases h2 : PhaseMet (nextPhase (nextPhase b))
      · rw [completePhases_of_met _ h2, completePhases_of_not_met _ (hzero _ rfl)]
        exact hzero _ rfl
      · rwa [completePhases_of_not_met _ h2]
    · rwa [completePhases_of_not_met _ h1]
  · rwa [completePhases_of_not_met _ h0]

/-- The barrier with one more arrival counted by a core's lead counter, before phases complete (R183). -/
def counted (b : Bar) (i : Nat) : Bar :=
  let l := b.lead.getD i 0
  { b with lead := b.lead.set i (l + 1)
           counts := (b.counts.1 + if l = 0 then 1 else 0, b.counts.2.1 + if l = 1 then 1 else 0,
             b.counts.2.2 + if l = 2 then 1 else 0) }

theorem arriveBar_of_full {b : Bar} {i : Nat} (h : 3 ≤ b.lead.getD i 0) : arriveBar b i = none := by
  simp only [arriveBar, leadOf, h, if_true]

theorem arriveBar_of_room {b : Bar} {i : Nat} (h : b.lead.getD i 0 < 3) :
    arriveBar b i = some (completePhases 4 (counted b i), b.phase + BitVec.ofNat 2 (b.lead.getD i 0)) := by
  have hl : b.lead.getD i 0 = 0 ∨ b.lead.getD i 0 = 1 ∨ b.lead.getD i 0 = 2 := by omega
  rcases hl with hl | hl | hl <;> · simp only [arriveBar, leadOf, hl, counted]; rfl

/-- An arrival raises the lead counter of no other core (R183). -/
theorem arriveBar_lead_le {b b' : Bar} {i j : Nat} {p : BitVec 2} (h : arriveBar b i = some (b', p)) (hij : i ≠ j) :
    b'.lead.getD j 0 ≤ b.lead.getD j 0 := by
  by_cases hroom : b.lead.getD i 0 < 3
  · rw [arriveBar_of_room hroom, Option.some.injEq, Prod.mk.injEq] at h
    rw [← h.1]
    refine (completePhases_lead_le 4 _ j).trans (le_of_eq ?_)
    simp only [counted, List.getD_eq_getElem?_getD, List.getElem?_set_ne hij]
  · rw [arriveBar_of_full (by omega)] at h
    cases h

/-- A barrier with a core's release filed under the phase in which it arrives (R185). -/
def filed (rel : Core → BarRel) (b : Bar) (c : Core) : Bar :=
  { b with rels := addRel b.rels { rel c with no := b.done + leadOf b c.idx } }

theorem arriveAll_cons (rel : Core → BarRel) (b : Bar) (c : Core) (cs : List Core) : arriveAll rel b (c :: cs) =
    (arriveBar (filed rel b c) c.idx).bind fun r => (arriveAll rel r.1 cs).map fun q => (q.1, r.2 :: q.2) := rfl

/-- Distinct cores whose lead counters have room all arrive. -/
theorem arriveAll_of_room (rel : Core → BarRel) {b : Bar} {cs : List Core} (hroom : ∀ c ∈ cs, b.lead.getD c.idx 0 < 3)
    (hnodup : (cs.map fun c => c.idx).Nodup) : ∃ r, arriveAll rel b cs = some r := by
  induction cs generalizing b with
  | nil => exact ⟨_, rfl⟩
  | cons c cs ih =>
    obtain ⟨hc, hcs⟩ := List.forall_mem_cons.mp hroom
    rw [List.map_cons, List.nodup_cons] at hnodup
    obtain ⟨hnot, hrest⟩ := hnodup
    have harr := arriveBar_of_room (b := filed rel b c) (i := c.idx) hc
    have hlead : ∀ d ∈ cs, (completePhases 4 (counted (filed rel b c) c.idx)).lead.getD d.idx 0 < 3 := fun d hd =>
      lt_of_le_of_lt (arriveBar_lead_le harr fun heq => hnot (heq ▸ List.mem_map_of_mem hd)) (hcs d hd)
    obtain ⟨r, hr⟩ := ih hlead hrest
    refine ⟨(r.1, ((filed rel b c).phase + BitVec.ofNat 2 ((filed rel b c).lead.getD c.idx 0)) :: r.2), ?_⟩
    rw [arriveAll_cons, harr, Option.bind_some, hr, Option.map_some]

/-! ### The instructions -/

section
variable {s : State} {f : Firing} {units : List Core} {o : OpA} {w : Instr}
  {g : State → Firing → List Core → List Core → Bar → Out}

/-- The cores that act on a barrier. -/
def barSel (o : OpA) (f : Firing) (units : List Core) : List Core :=
  (if o.k = 1 then units.take 1 else units).filter fun c => takes (fileOf f units (o.k == 1) c) o.pr

theorem barUnits_eq (o : OpA) (f : Firing) (units : List Core) : barUnits o f units = barSel o f units := by
  simp only [barUnits, memUnits, barSel, k1, beq_iff_eq]

/-- With no active core a BAR does nothing. -/
theorem bar_idle (h : Issues s (siteOf w) f units) (hact : barSel o f units = []) :
    barInstr w o g s = .next (afterWord s f f units 4) := by
  simp only [barInstr, withFiring_issues h, barUnits_eq, hact, List.isEmpty_nil, if_true]
  rfl

/-- With some active core a BAR does as its function says with the barrier that it names. -/
theorem bar_acts {b : Bar} (h : Issues s (siteOf w) f units) (hact : barSel o f units ≠ [])
    (hb : barOf (putFiring s f) f (o.a.toNat % 4) = some b) :
    barInstr w o g s = g (putFiring s f) f units (barSel o f units) b := by
  have hne : (barSel o f units).isEmpty = false := List.isEmpty_eq_false_iff.mpr hact
  simp only [barInstr, withFiring_issues h, barUnits_eq, hne, hb, Bool.false_eq_true, if_false]

/-! #### `init` -/

/-- The count that `init` sets on a core. -/
def initCount (o : OpA) (f : Firing) (units : List Core) (c : Core) : Nat :=
  (getS (fileOf f units (o.k == 1) c) o.b.toNat).toNat

/-- A barrier with the count that a core sets, where it may (R184). -/
def setCount (o : OpA) (f : Firing) (units : List Core) (b : Bar) (c : Core) : Option Bar :=
  if 1 ≤ initCount o f units c ∧ initCount o f units c ≤ 8 ∧ (b.n = 0 ∨ b.counts = (0, 0, 0))
    then some (completePhases 4 { b with n := initCount o f units c }) else none

/-- The step of `init` on a core, as the machine folds it. -/
def initStep (o : OpA) (f : Firing) (units : List Core) (st : Except TrapInfo Bar) (c : Core) : Except TrapInfo Bar :=
  st.bind fun b => match setCount o f units b c with
    | some b' => .ok b'
    | none => .error { core := c.idx, cause := 0x16 }

theorem foldl_initStep_error (t : TrapInfo) (l : List Core) : l.foldl (initStep o f units) (.error t) = .error t := by
  induction l with
  | nil => rfl
  | cons c l ih => exact ih

theorem foldl_initStep_ok {b b' : Bar} {l : List Core} (h : l.foldlM (setCount o f units) b = some b') :
    l.foldl (initStep o f units) (.ok b) = .ok b' := by
  induction l generalizing b with
  | nil => exact congrArg _ (Option.some.inj h)
  | cons c l ih =>
    rw [List.foldlM_cons] at h
    obtain ⟨b1, hset, hrest⟩ := Option.bind_eq_some_iff.mp h
    have hstep : initStep o f units (.ok b) c = .ok b1 := by
      simp only [initStep, Except.bind, hset]
    rw [List.foldl_cons, hstep, ih hrest]

theorem foldl_initStep_trap {b b' : Bar} {pre rest : List Core} {c : Core}
    (hpre : pre.foldlM (setCount o f units) b = some b') (hset : setCount o f units b' c = none) :
    (pre ++ c :: rest).foldl (initStep o f units) (.ok b) = .error { core := c.idx, cause := 0x16 } := by
  have hstep : initStep o f units (.ok b') c = .error { core := c.idx, cause := 0x16 } := by
    simp only [initStep, Except.bind, hset]
  rw [List.foldl_append, foldl_initStep_ok hpre, List.foldl_cons, hstep, foldl_initStep_error]

/-- The last part of `init`. -/
def initOn (o : OpA) (s : State) (f : Firing) (units act : List Core) (b : Bar) : Out :=
  match act.foldl (initStep o f units) (.ok b) with
  | .error t => trapAt s f t (siteOf (.barInit o))
  | .ok b => .next (putFiring (putBar s f (o.a.toNat % 4) b) (advance f units 4))

theorem exec_barInit (o : OpA) (s : State) : exec (.barInit o) s = barInstr (.barInit o) o (initOn o) s := by
  have hstep : ∀ (f : Firing) (units : List Core) (b : Bar) (c : Core),
      (if initCount o f units c == 0 || decide (8 < initCount o f units c) || (b.n != 0 && b.counts != (0, 0, 0))
        then .error { core := c.idx, cause := 0x16 }
        else .ok (completePhases 4 { b with n := initCount o f units c }) : Except TrapInfo Bar) =
      match setCount o f units b c with
      | some b' => .ok b'
      | none => .error { core := c.idx, cause := 0x16 } := fun f units b c => by
    rw [setCount]
    generalize initCount o f units c = n
    by_cases hok : 1 ≤ n ∧ n ≤ 8 ∧ (b.n = 0 ∨ b.counts = (0, 0, 0))
    · have hno : (n == 0 || decide (8 < n) || (b.n != 0 && b.counts != (0, 0, 0))) = false := by
        obtain ⟨h1, h8, hb⟩ := hok
        have h0 : (n == 0) = false := beq_false_of_ne (by omega)
        have h9 : decide (8 < n) = false := decide_eq_false (by omega)
        rcases hb with hb | hb <;> simp [h0, h9, hb]
      rw [if_pos hok, hno]
      rfl
    · have hyes : (n == 0 || decide (8 < n) || (b.n != 0 && b.counts != (0, 0, 0))) = true := by
        by_contra hno
        simp only [Bool.or_eq_true, beq_iff_eq, decide_eq_true_eq, Bool.and_eq_true, bne_iff_ne, not_or, not_and_or,
          not_not] at hno
        obtain ⟨⟨h0, h8⟩, hb⟩ := hno
        exact hok ⟨by omega, by omega, hb⟩
      rw [if_neg hok, hyes]
      rfl
  show execBarInit o s = _
  unfold execBarInit
  congr 1
  funext s f units act b
  unfold initOn
  have hfun : (fun (st : Except TrapInfo Bar) (c : Core) => st.bind fun b =>
      if initCount o f units c == 0 || decide (8 < initCount o f units c) || (b.n != 0 && b.counts != (0, 0, 0))
        then .error { core := c.idx, cause := 0x16 }
        else .ok (completePhases 4 { b with n := initCount o f units c }) : Except TrapInfo Bar → Core → Except TrapInfo Bar) =
      initStep o f units := by
    funext st c
    simp only [hstep]
    rfl
  rw [← hfun]
  rfl

/-! #### `arrive` -/

/-- The cores whose accesses an arrival releases: the gang with k = 1, else those given. -/
def gangOr (o : OpA) (units l : List Core) : List Core := if o.k = 1 then units else l

/-- The release of a core's arrival. -/
def arrivalRel (s : State) (o : OpA) (f : Firing) (units : List Core) (c : Core) : BarRel :=
  { cores := [c.idx], ts := maxPts s f.clus ((gangOr o units [c]).map (·.idx))
    pend := (arrivalCovers s f (gangOr o units [c])).map (·.id) ++ owedTo s f.clus ((gangOr o units [c]).map (·.idx)) }

/-- The cores that arrive, each with the phase that it arrives in. -/
def phaseWords (act : List Core) (ps : List (BitVec 2)) : List (Core × Word) :=
  act.zip (ps.map fun p => BitVec.ofNat 64 p.toNat)

theorem arrivals_of_busy {b : Bar} {act : List Core} (h : ¬coversQuiet f (arrivalCovers s f (gangOr o units act)) = true) :
    arrivals s o f units act b = none := by
  have hq : coversQuiet f (arrivalCovers s f (if k1 o then units else act)) = false := by
    simpa only [gangOr, k1, beq_iff_eq, Bool.not_eq_true] using h
  simp only [arrivals, hq, Bool.not_false, if_true]

theorem arrivals_of_quiet {b : Bar} {act : List Core} (h : coversQuiet f (arrivalCovers s f (gangOr o units act)) = true) :
    arrivals s o f units act b = (arriveAll (arrivalRel s o f units) b act).map fun r => (r.1, phaseWords act r.2) := by
  have hq : coversQuiet f (arrivalCovers s f (if k1 o then units else act)) = true := by
    simpa only [gangOr, k1, beq_iff_eq] using h
  have hrel : arrivalRel s o f units = fun c =>
      { cores := [c.idx], ts := maxPts s f.clus ((if k1 o then units else [c]).map (·.idx))
        pend := (arrivalCovers s f (if k1 o then units else [c])).map (·.id) ++
          owedTo s f.clus ((if k1 o then units else [c]).map (·.idx)) } := by
    funext c
    simp only [arrivalRel, gangOr, k1, beq_iff_eq]
  simp only [arrivals, hq, Bool.not_true, Bool.false_eq_true, if_false, hrel]
  rfl

/-- Distinct cores whose lead counters have room arrive once what they release is Done (R184, R185). -/
theorem arrivals_of_room {b : Bar} {act : List Core} (hquiet : coversQuiet f (arrivalCovers s f (gangOr o units act)) = true)
    (hroom : ∀ c ∈ act, b.lead.getD c.idx 0 < 3) (hnodup : (act.map fun c => c.idx).Nodup) :
    ∃ b' l, arrivals s o f units act b = some (b', l) := by
  obtain ⟨r, hr⟩ := arriveAll_of_room (arrivalRel s o f units) hroom hnodup
  exact ⟨r.1, phaseWords act r.2, by rw [arrivals_of_quiet hquiet, hr, Option.map_some]⟩

/-- A core that arrives alone gets the phase that its lead counter names (R183). -/
theorem arrivals_singleton {b b' : Bar} {c : Core} {l : List (Core × Word)}
    (h : arrivals s o f units [c] b = some (b', l)) :
    l = [(c, (b.phase + BitVec.ofNat 2 (b.lead.getD c.idx 0)).setWidth 64)] := by
  by_cases hquiet : coversQuiet f (arrivalCovers s f (gangOr o units [c])) = true
  · by_cases hroom : b.lead.getD c.idx 0 < 3
    · rw [arrivals_of_quiet hquiet, arriveAll_cons,
        arriveBar_of_room (b := filed (arrivalRel s o f units) b c) (i := c.idx) hroom] at h
      refine (Prod.mk.inj (Option.some.inj h)).2.symm.trans ?_
      simp only [phaseWords, List.map_cons, List.map_nil, List.zip_cons_cons, List.zip_nil_right, BitVec.ofNat_toNat]
      rfl
    · rw [arrivals_of_quiet hquiet, arriveAll_cons,
        arriveBar_of_full (b := filed (arrivalRel s o f units) b c) (i := c.idx) (Nat.not_lt.mp hroom)] at h
      cases h
  · rw [arrivals_of_busy hquiet] at h
    cases h

/-- `arrive` on the barrier that it names. -/
def arriveOn (o : OpA) (s : State) (f : Firing) (units act : List Core) (b : Bar) : Out :=
  match arrivals s o f units act b with
  | none => .next s
  | some (b, l) => .next (putFiring (putBar s f (o.a.toNat % 4) b) (advance (barWrite o f l) units 4))

theorem exec_barArrive (o : OpA) (s : State) : exec (.barArrive o) s = barInstr (.barArrive o) o (arriveOn o) s := rfl

theorem barArrive_arrives {b b' : Bar} {l : List (Core × Word)} (h : Issues s (siteOf (.barArrive o)) f units)
    (hact : barSel o f units ≠ []) (hb : barOf (putFiring s f) f (o.a.toNat % 4) = some b)
    (harr : arrivals (putFiring s f) o f units (barSel o f units) b = some (b', l)) :
    exec (.barArrive o) s = .next (putFiring (putBar (putFiring s f) f (o.a.toNat % 4) b') (advance (barWrite o f l) units 4)) := by
  rw [exec_barArrive, bar_acts h hact hb]
  simp only [arriveOn, harr]

theorem barArrive_stalls {b : Bar} (h : Issues s (siteOf (.barArrive o)) f units)
    (hact : barSel o f units ≠ []) (hb : barOf (putFiring s f) f (o.a.toNat % 4) = some b)
    (harr : arrivals (putFiring s f) o f units (barSel o f units) b = none) :
    exec (.barArrive o) s = .next (putFiring s f) := by
  rw [exec_barArrive, bar_acts h hact hb]
  simp only [arriveOn, harr]

/-! #### `wait` -/

theorem barOpen_iff {act : List Core} {b : Bar} : barOpen act b = true ↔ ∀ c ∈ act, b.lead.getD c.idx 0 = 0 := by
  simp only [barOpen, leadOf, List.all_eq_true, beq_iff_eq]

theorem barOpen_eq_false {act : List Core} {b : Bar} (h : ∃ c ∈ act, b.lead.getD c.idx 0 ≠ 0) : barOpen act b = false := by
  obtain ⟨c, hc, hlead⟩ := h
  exact Bool.eq_false_iff.mpr fun hopen => hlead (barOpen_iff.mp hopen c hc)

/-- What a wait acquires, core by core (R185). -/
def acquiredBy (o : OpA) (f : Firing) (units act : List Core) (s : State) (b : Bar) : State :=
  act.foldl (init := s) fun s c =>
    let l := b.rels.filter fun r => decide (r.no < b.done) && r.cores.contains c.idx
    acquire s f.clus ((gangOr o units [c]).map fun k => k.idx) (l.flatMap fun r => r.pend)
      (l.foldl (fun m r => max m r.ts) 0)

theorem barAcquire_eq (o : OpA) (s : State) (f : Firing) (units act : List Core) (b : Bar) :
    barAcquire o s f units act b = acquiredBy o f units act s b := by
  have hgang : ∀ c : Core, (if k1 o then units.map (·.idx) else [c.idx]) = (gangOr o units [c]).map (·.idx) := fun c => by
    simp only [gangOr, k1, beq_iff_eq]
    split <;> rfl
  simp only [barAcquire, hgang]
  rfl

/-- `wait` on the barrier that it names. -/
def waitOn (o : OpA) (s : State) (f : Firing) (units act : List Core) (b : Bar) : Out :=
  if barOpen act b then .next (putFiring (barAcquire o s f units act b) (advance f units 4)) else .next s

theorem exec_barWait (o : OpA) (s : State) : exec (.barWait o) s = barInstr (.barWait o) o (waitOn o) s := rfl

theorem barWait_opens {b : Bar} (h : Issues s (siteOf (.barWait o)) f units) (hact : barSel o f units ≠ [])
    (hb : barOf (putFiring s f) f (o.a.toNat % 4) = some b) (hopen : ∀ c ∈ barSel o f units, b.lead.getD c.idx 0 = 0) :
    exec (.barWait o) s = .next (putFiring (acquiredBy o f units (barSel o f units) (putFiring s f) b) (advance f units 4)) := by
  rw [exec_barWait, bar_acts h hact hb, waitOn, if_pos (barOpen_iff.mpr hopen), barAcquire_eq]

theorem barWait_stalls {b : Bar} (h : Issues s (siteOf (.barWait o)) f units) (hact : barSel o f units ≠ [])
    (hb : barOf (putFiring s f) f (o.a.toNat % 4) = some b) (hshut : ∃ c ∈ barSel o f units, b.lead.getD c.idx 0 ≠ 0) :
    exec (.barWait o) s = .next (putFiring s f) := by
  rw [exec_barWait, bar_acts h hact hb, waitOn, barOpen_eq_false hshut]
  rfl

/-! #### `sync` -/

/-- The phase of a core that has arrived and waits. -/
def arrivedIn (f : Firing) (c : Core) : Option (Core × Word) :=
  match (f.cores.find? fun k => k.idx == c.idx).map (·.busy) with
  | some (Busy.arrived p) => some (c, BitVec.ofNat 64 p.toNat)
  | _ => none

theorem arrivedIn_eq_none (hnew : ∀ c ∈ f.cores, ∀ p, c.busy ≠ .arrived p) (c : Core) : arrivedIn f c = none := by
  unfold arrivedIn
  cases hfind : f.cores.find? fun k => k.idx == c.idx with
  | none => rfl
  | some k =>
    have hk := hnew k (List.mem_of_find?_eq_some hfind)
    rw [Option.map_some]
    cases hbusy : k.busy with
    | arrived p => exact absurd hbusy (hk p)
    | _ => rfl

theorem mapM_arrivedIn_eq_none {act : List Core} (hnew : ∀ c ∈ f.cores, ∀ p, c.busy ≠ .arrived p) (hact : act ≠ []) :
    act.mapM (arrivedIn f) = none := by
  obtain ⟨c, cs, rfl⟩ := List.exists_cons_of_ne_nil hact
  rw [List.mapM_cons, arrivedIn_eq_none hnew]
  rfl

/-- The firing whose cores stand arrived in their phases. -/
def standing (f : Firing) (l : List (Core × Word)) : Firing :=
  l.foldl (fun f e => updCore f e.1.idx fun c => { c with busy := .arrived (e.2.setWidth 2) }) f

theorem standing_clus (f : Firing) (l : List (Core × Word)) : (standing f l).clus = f.clus := by
  induction l generalizing f with
  | nil => rfl
  | cons e l ih => exact ih _

theorem standing_launch (f : Firing) (l : List (Core × Word)) : (standing f l).launch = f.launch := by
  induction l generalizing f with
  | nil => rfl
  | cons e l ih => exact ih _

theorem putBar_standing (s : State) (f : Firing) (l : List (Core × Word)) (n : Nat) (b : Bar) :
    putBar s (standing f l) n b = putBar s f n b := by
  simp only [putBar, standing_clus, standing_launch]

/-- The firing whose cores that act stand arrived no longer. -/
def leaving (f : Firing) (act : List Core) : Firing :=
  { f with cores := f.cores.map fun c => if act.any (fun k => k.idx == c.idx) then { c with busy := .none } else c }

/-- The second part of `sync`: the wait. -/
def syncLeave (o : OpA) (s : State) (f : Firing) (units act : List Core) (b : Bar) (l : List (Core × Word)) : Out :=
  if barOpen act b then
    .next (putFiring (barAcquire o s (leaving f act) units act b) (advance (barWrite o (leaving f act) l) units 4))
  else .next (putFiring s f)

/-- `sync` on the barrier that it names. -/
def syncOn (o : OpA) (s : State) (f : Firing) (units act : List Core) (b : Bar) : Out :=
  match act.mapM (arrivedIn f) with
  | some l => syncLeave o s f units act b l
  | none =>
    match arrivals s o f units act b with
    | none => .next s
    | some (b, l) => syncLeave o (putBar s f (o.a.toNat % 4) b) (standing f l) units act b l

theorem exec_barSync (o : OpA) (s : State) : exec (.barSync o) s = barInstr (.barSync o) o (syncOn o) s := by
  show execBarSync o s = _
  unfold execBarSync
  extract_lets phases leave
  congr 1
  funext s f units act b
  have hphases : phases f act = act.mapM (arrivedIn f) := rfl
  have hleave : leave = syncLeave o := rfl
  rw [syncOn, hphases, hleave]
  cases act.mapM (arrivedIn f) with
  | some l => rfl
  | none =>
    cases arrivals s o f units act b with
    | none => rfl
    | some r => exact congrArg (fun t => syncLeave o t (standing f r.2) units act r.1 r.2) (putBar_standing s f r.2 _ r.1)

/-- A `sync` that arrives goes on to its wait. -/
theorem barSync_arrives {b b' : Bar} {l : List (Core × Word)} (h : Issues s (siteOf (.barSync o)) f units)
    (hact : barSel o f units ≠ []) (hb : barOf (putFiring s f) f (o.a.toNat % 4) = some b)
    (hnew : ∀ c ∈ f.cores, ∀ p, c.busy ≠ .arrived p)
    (harr : arrivals (putFiring s f) o f units (barSel o f units) b = some (b', l)) :
    exec (.barSync o) s = syncLeave o (putBar (putFiring s f) f (o.a.toNat % 4) b') (standing f l) units
      (barSel o f units) b' l := by
  rw [exec_barSync, bar_acts h hact hb]
  simp only [syncOn, mapM_arrivedIn_eq_none hnew hact, harr]

theorem syncLeave_shut {act : List Core} {b : Bar} {l : List (Core × Word)} (h : ∃ c ∈ act, b.lead.getD c.idx 0 ≠ 0) :
    syncLeave o s f units act b l = .next (putFiring s f) := by
  rw [syncLeave, barOpen_eq_false h]
  rfl

theorem syncLeave_open {act : List Core} {b : Bar} {l : List (Core × Word)} (h : ∀ c ∈ act, b.lead.getD c.idx 0 = 0) :
    syncLeave o s f units act b l = .next (putFiring (acquiredBy o f units act s b)
      (advance (barWrite o (leaving f act) l) units 4)) := by
  rw [syncLeave, if_pos (barOpen_iff.mpr h), barAcquire_eq]
  rfl

theorem acquiredBy_congr {f f' : Firing} (h : f'.clus = f.clus) : acquiredBy o f' units = acquiredBy o f units := by
  funext act s b
  rw [acquiredBy, acquiredBy, h]

/-! #### `query` -/

/-- The word of a barrier that `query` reads on a core. -/
def queryWord (b : Bar) (c : Core) : Word :=
  BitVec.ofNat 64 (b.lead.getD c.idx 0 * 2 ^ 40 + b.n * 2 ^ 32 + b.phase.toNat * 2 ^ 24 + b.counts.2.2 * 2 ^ 16 +
    b.counts.2.1 * 2 ^ 8 + b.counts.1)

/-- `query` of the barrier that it names. -/
def queryOn (o : OpA) (s : State) (f : Firing) (units act : List Core) (b : Bar) : Out :=
  .next (putFiring s (advance (barWrite o f (act.map fun c => (c, queryWord b c))) units 4))

theorem exec_barQuery (o : OpA) (s : State) : exec (.barQuery o) s = barInstr (.barQuery o) o (queryOn o) s := rfl

theorem barQuery_reads {b : Bar} (h : Issues s (siteOf (.barQuery o)) f units) (hact : barSel o f units ≠ [])
    (hb : barOf (putFiring s f) f (o.a.toNat % 4) = some b) :
    exec (.barQuery o) s = .next (putFiring (putFiring s f)
      (advance (barWrite o f ((barSel o f units).map fun c => (c, queryWord b c))) units 4)) := by
  rw [exec_barQuery, bar_acts h hact hb]
  rfl

theorem barInit_sets {b b' : Bar} (h : Issues s (siteOf (.barInit o)) f units) (hact : barSel o f units ≠ [])
    (hb : barOf (putFiring s f) f (o.a.toNat % 4) = some b)
    (hset : (barSel o f units).foldlM (setCount o f units) b = some b') :
    exec (.barInit o) s = .next (putFiring (putBar (putFiring s f) f (o.a.toNat % 4) b') (advance f units 4)) := by
  rw [exec_barInit, bar_acts h hact hb, initOn, foldl_initStep_ok hset]

theorem barInit_traps {b b' : Bar} {pre rest : List Core} {c : Core} (h : Issues s (siteOf (.barInit o)) f units)
    (hact : barSel o f units ≠ []) (hb : barOf (putFiring s f) f (o.a.toNat % 4) = some b)
    (hsel : barSel o f units = pre ++ c :: rest) (hpre : pre.foldlM (setCount o f units) b = some b')
    (hset : setCount o f units b' c = none) :
    exec (.barInit o) s = .next (afterTrap s f { core := c.idx, cause := 0x16 } (siteOf (.barInit o))) := by
  rw [exec_barInit, bar_acts h hact hb, initOn, hsel, foldl_initStep_trap hpre hset]
  rfl

/-- The five words on a gang of which no core acts (R182). -/
theorem exec_bar_idle (hact : barSel o f units = []) : ∀ i ∈ [Instr.barInit, .barArrive, .barWait, .barSync, .barQuery],
    Issues s (siteOf (i o)) f units → exec (i o) s = .next (afterWord s f f units 4) := by
  intro i hi h
  rcases hi with _ | ⟨_, _ | ⟨_, _ | ⟨_, _ | ⟨_, _ | ⟨_, ⟨⟩⟩⟩⟩⟩⟩
  · exact (exec_barInit o s).trans (bar_idle h hact)
  · exact (exec_barArrive o s).trans (bar_idle h hact)
  · exact (exec_barWait o s).trans (bar_idle h hact)
  · exact (exec_barSync o s).trans (bar_idle h hact)
  · exact (exec_barQuery o s).trans (bar_idle h hact)

end

/-- Settles O30: an arrival's two outcomes are those of the lead counter, and each word follows from what BAR does with the
barrier that it names. -/
theorem barriersCount : Obligations.BarriersCount := by
  refine ⟨fun b => ⟨⟨completePhases_n 4 b, ?_⟩, fun h => completePhases_of_not_met 4 (not_phaseMet_iff.mpr h),
    fun hn hle => completePhases_of_met 3 ⟨hn, hle⟩⟩, fun b i => ⟨arriveBar_of_full, arriveBar_of_room⟩, ?_⟩
  · exact not_phaseMet_iff.mp (completePhases_settles b)
  intro s f units o s' act put n gang
  refine ⟨exec_bar_idle, fun b hact hb => ⟨fun h => ⟨fun b' => barInit_sets h hact hb,
    fun pre c rest b' => barInit_traps h hact hb⟩, fun h => ⟨fun hquiet hroom hnodup => ?_,
    fun b' l harr => ⟨barArrive_arrives h hact hb harr, fun c hc => arrivals_singleton (hc ▸ harr)⟩,
    barArrive_stalls h hact hb⟩, fun h => ⟨barWait_opens h hact hb, barWait_stalls h hact hb⟩,
    fun h hnew b' l harr => ⟨fun hshut => ?_, fun hopen => ?_⟩, fun h => barQuery_reads h hact hb⟩⟩
  · obtain ⟨b', l, harr⟩ := arrivals_of_room hquiet hroom hnodup
    exact ⟨b', l, harr, barArrive_arrives h hact hb harr⟩
  · exact (barSync_arrives h hact hb hnew harr).trans (syncLeave_shut hshut)
  · refine (barSync_arrives h hact hb hnew harr).trans ((syncLeave_open hopen).trans ?_)
    rw [acquiredBy_congr (standing_clus f l)]
    rfl

end Sys2Proof.Proofs.Barriers
end

section
/-! SUPPORT. The engine instructions: issue, rejection and acceptance of commands (R260, R261, R316 to R320). -/

namespace Sys2Proof.Proofs.EngineIssue

open Sys2Proof.Machine Sys2Proof.Laws.Shapes

/-! ### Going on once every core has done its part -/

/-- Whether a core that acts has still to do its part. -/
def awaits (act : List Core) (k : Core) : Bool := act.any (fun c => c.idx == k.idx) && k.busy != .issued

/-- The firing whose cores forget that they have done their part. -/
def released (f : Firing) : Firing :=
  { f with cores := f.cores.map fun k => if k.busy = .issued then { k with busy := .none } else k }

theorem settleIssued_holds {f : Firing} {act : List Core} (s : State) (units : List Core) (len : Word)
    (h : ∃ k ∈ f.cores, awaits act k = true) : settleIssued s f units act len = .next (putFiring s f) :=
  if_pos (List.any_eq_true.mpr h)

theorem settleIssued_goes {f : Firing} {act : List Core} (s : State) (units : List Core) (len : Word)
    (h : ∀ k ∈ f.cores, awaits act k = false) :
    settleIssued s f units act len = .next (putFiring s (advance (released f) units len)) := by
  have hno : ¬f.cores.any (awaits act) = true := by
    rw [List.any_eq_true]
    rintro ⟨k, hk, hw⟩
    exact absurd hw (by rw [h k hk]; exact Bool.false_ne_true)
  have hrel : ({ f with cores := f.cores.map fun k => if k.busy == .issued then { k with busy := .none } else k } : Firing) =
      released f := by
    simp only [released, beq_iff_eq]
  exact (if_neg hno).trans (congrArg (fun g => Host.Outcome.next (putFiring s (advance g units len))) hrel)

/-- A firing of which no core is busy. -/
def Idle (f : Firing) : Prop := ∀ k ∈ f.cores, k.busy = .none

theorem released_of_idle {f : Firing} (h : Idle f) : released f = f := by
  have hcores : (f.cores.map fun k => if k.busy = .issued then { k with busy := .none } else k) = f.cores :=
    (List.map_congr_left fun k hk => by rw [h k hk]; rfl).trans (List.map_id _)
  rw [released, hcores]

/-- A firing whose core at an index has just done its part, and of which no other core is busy, forgets it. -/
theorem released_markIssued {f : Firing} (h : Idle f) (i : Nat) : released (markIssued f i) = f := by
  have hcores : (markIssued f i).cores.map (fun k => if k.busy = .issued then { k with busy := .none } else k) = f.cores := by
    rw [markIssued, updCore, List.map_map]
    refine (List.map_congr_left fun k hk => ?_).trans (List.map_id _)
    have hbusy := h k hk
    by_cases hi : k.idx = i
    · simp only [Function.comp_apply, hi, beq_self_eq_true, if_true, id_eq]
      rw [← hbusy, ← hi]
    · simp only [Function.comp_apply, beq_iff_eq, hi, if_false, hbusy, id_eq]
      rfl
  rw [released, hcores]
  rfl

theorem idle_writeD {f : Firing} (h : Idle f) (uni : Bool) (i d : Nat) (w : Word) : Idle (writeD f uni i d w) := by
  have hupd : ∀ g : Core → Core, (∀ c, (g c).busy = c.busy) → Idle (updCore f i g) := fun g hg k hk => by
    obtain ⟨c, hc, rfl⟩ := List.mem_map.mp hk
    split
    · rw [hg, h c hc]
    · exact h c hc
  unfold writeD putUniOf
  split
  · split
    · exact hupd (fun c => { c with u := setG c.u d w }) fun _ => rfl
    · exact h
  · exact hupd _ fun c => by unfold setX; split <;> rfl

/-! ### One command for each selected core -/

section
variable {s : State} {f : Firing} {units : List Core} {o : OpE} {w : Instr} {image : List Byte → Bool} {maj fn blk : Nat}

/-- The cores that an engine instruction selects. -/
def engSel (o : OpE) (f : Firing) (units : List Core) : List Core :=
  (if (o.o.k == 1) = true then units.take 1 else units).filter fun c => takes (fileOf f units (o.o.k == 1) c) o.o.pr

/-- The issue of a core's command. -/
def issueOf (image : List Byte → Bool) (maj fn blk : Nat) (o : OpE) (units : List Core) (s : State) (f : Firing)
    (c : Core) : Issue :=
  issueCmd image s f (mkCmd s f units (o.o.k == 1) c o maj fn blk)

/-- The issues of the cores that have still to issue. -/
def issuesOf (image : List Byte → Bool) (maj fn blk : Nat) (o : OpE) (s : State) (f : Firing) (units : List Core) :
    State × Firing :=
  issueEach (issueOf image maj fn blk o units) (o.o.k == 1) o.o.d.toNat
    ((engSel o f units).filter fun c => c.busy != .issued) (putFiring s f) f

/-- An instruction that issues the commands of a unit. -/
def IssuesCommands (i : OpE → Instr) (image : List Byte → Bool) (maj fn blk : Nat) : Prop :=
  ∀ s f units o, Issues s (siteOf (i o)) f units → exec (i o) s =
    settleIssued (issuesOf image maj fn blk o s f units).1 (issuesOf image maj fn blk o s f units).2 units
      (engSel o f units) 8

theorem issuesCommands_of_engineIssue {i : OpE → Instr} (hexec : ∀ o s, exec (i o) s = engineIssue image o maj fn blk s)
    (hsite : ∀ o, siteE o (BitVec.ofNat 3 fn) (BitVec.ofNat 7 maj) blk = siteOf (i o)) :
    IssuesCommands i image maj fn blk := by
  intro s f units o h
  rw [hexec, engineIssue, hsite, withFiring_issues h]
  rfl

/-- The issues of a gang of which no core acts. -/
theorem issuesOf_of_idle (hact : engSel o f units = []) : issuesOf image maj fn blk o s f units = (putFiring s f, f) := by
  rw [issuesOf, hact]
  rfl

/-- The issue of the one core that acts. -/
theorem issuesOf_of_done {c : Core} {s2 : State} {h : Word} (hact : engSel o f units = [c]) (hbusy : c.busy = .none)
    (hdone : issueOf image maj fn blk o units (putFiring s f) f c = .done s2 h) :
    issuesOf image maj fn blk o s f units = (clearFailed s2 (.core f.clus c.idx),
      markIssued (writeD f (o.o.k == 1) c.idx o.o.d.toNat h) c.idx) := by
  have hleft : (engSel o f units).filter (fun c => c.busy != .issued) = [c] := by
    rw [hact]
    simp [hbusy]
  rw [issuesOf, hleft]
  simp only [issueEach, hdone]

theorem not_awaits_markIssued {c : Core} (g : Firing) : ∀ k ∈ (markIssued g c.idx).cores, awaits [c] k = false := by
  intro k hk
  obtain ⟨e, -, rfl⟩ := List.mem_map.mp hk
  by_cases hi : e.idx = c.idx
  · simp [awaits, hi]
  · simp [awaits, hi, Ne.symm hi]

/-- Where one core acts and its command is done, the gang goes on with its handle. -/
theorem exec_of_done {i : OpE → Instr} (hi : IssuesCommands i image maj fn blk) (h : Issues s (siteOf (i o)) f units)
    {c : Core} {s2 : State} {r : Word} (hact : engSel o f units = [c]) (hidle : Idle f)
    (hdone : issueOf image maj fn blk o units (putFiring s f) f c = .done s2 r) :
    exec (i o) s = .next (putFiring (clearFailed s2 (.core f.clus c.idx))
      (advance (writeD f (o.o.k == 1) c.idx o.o.d.toNat r) units 8)) := by
  have hc : c.busy = .none := by
    obtain ⟨cc, ix, f0, -, -, -, hunits, -⟩ := h
    have hmem : c ∈ units := by
      have hsel : c ∈ engSel o f units := hact ▸ List.mem_singleton_self c
      have hfilter := List.mem_of_mem_filter hsel
      split at hfilter
      · exact List.mem_of_mem_take hfilter
      · exact hfilter
    rw [hunits, actingCores] at hmem
    split at hmem
    · exact hidle c (List.mem_of_mem_filter hmem)
    · exact hidle c hmem
  rw [hi s f units o h, issuesOf_of_done hact hc hdone, hact, settleIssued_goes _ _ _ (not_awaits_markIssued _),
    released_markIssued (idle_writeD hidle _ _ _ _)]

theorem exec_of_no_core {i : OpE → Instr} (hi : IssuesCommands i image maj fn blk) (h : Issues s (siteOf (i o)) f units)
    (hact : engSel o f units = []) (hidle : Idle f) : exec (i o) s = .next (afterWord s f f units 8) := by
  rw [hi s f units o h, issuesOf_of_idle hact, hact, settleIssued_goes _ _ _ fun _ _ => rfl, released_of_idle hidle]
  rfl

end

/-! ### One command -/

section
variable {s : State} {f : Firing} {m : Cmd} {image : List Byte → Bool}

/-- Whether a command may issue: its unit's inbox has room, `occp` stands below 255, and nothing that it must wait for is
left (R316). -/
def CmdRoom (s : State) (f : Firing) (m : Cmd) : Prop :=
  (s.eng.cmds.countP fun k => k.unit == m.unit && k.uidx == m.uidx && !(resting s k)) < (unitOf m.maj).2 ∧
    (∀ i ∈ m.cores, occp s f { idx := i } < 255) ∧ mustWait s m = false

theorem cmdRoom_iff : CmdRoom s f m ↔
    (decide ((unitOf m.maj).2 ≤ s.eng.cmds.countP fun k => k.unit == m.unit && k.uidx == m.uidx && !(resting s k)) ||
      (m.cores.any fun i => 255 ≤ occp s f { idx := i }) || mustWait s m) = false := by
  simp only [CmdRoom, Bool.or_eq_false_iff, decide_eq_false_iff_not, not_le, List.any_eq_false, decide_eq_true_eq, and_assoc]

theorem issueCmd_of_no_room (h : ¬CmdRoom s f m) : issueCmd image s f m = .waits := by
  rw [cmdRoom_iff, Bool.not_eq_false] at h
  rw [issueCmd, if_pos h]

theorem issueCmd_of_failed (h : CmdRoom s f m) {n : Nat} (hn : cmdCheck s m = some n) :
    issueCmd image s f m = .done (rejectCmd s m n) (handleOf 0 m.unit m.c) := by
  rw [cmdRoom_iff] at h
  simp only [issueCmd, h, hn, Bool.false_eq_true, if_false]

theorem issueCmd_of_failed_late (h : CmdRoom s f m) (hn : cmdCheck s m = none) {s' : State}
    (hlate : lateCheck image s m = .ok s' false) :
    issueCmd image s f m = .done (rejectCmd s m 8) (handleOf 0 m.unit m.c) := by
  rw [cmdRoom_iff] at h
  simp only [issueCmd, h, hn, hlate, Bool.false_eq_true, if_false]

theorem issueCmd_of_passed (h : CmdRoom s f m) (hn : cmdCheck s m = none) {s' : State}
    (hlate : lateCheck image s m = .ok s' true) :
    issueCmd image s f m = .done (acceptCmd s m).1 (acceptCmd s m).2 := by
  rw [cmdRoom_iff] at h
  simp only [issueCmd, h, hn, hlate, Bool.false_eq_true, if_false]

@[simp] theorem tickClock_eng (s : State) (k : ClockId) (n : W32) : (tickClock s k n).eng = s.eng := by
  unfold tickClock
  split
  · rfl
  · rfl
  · dsimp only
    split <;> rfl

/-- What is put under a key is found under it. -/
theorem find?_putWhere {α : Type} {p : α → Bool} {v : α} (hv : p v = true) (l : List α) :
    (putWhere p v l).find? p = some v := by
  rw [putWhere]
  split
  next hany =>
    rw [List.find?_map]
    obtain ⟨x, hx⟩ := Option.isSome_iff_exists.mp (List.find?_isSome.mpr (List.any_eq_true.mp hany))
    have hfun : (p ∘ fun x => if p x = true then v else x) = p := by
      funext y
      by_cases hy : p y = true <;> simp [hy, hv]
    have hpx : p x = true := List.find?_some hx
    rw [hfun, hx, Option.map_some, if_pos hpx]
  next hany =>
    have hnone : l.find? p = none := List.find?_eq_none.mpr fun x hx hp => hany (List.any_eq_true.mpr ⟨x, hx, hp⟩)
    rw [List.find?_append, hnone, List.find?_cons, hv]
    rfl

/-- The serial that a cluster's next command takes (R317). -/
def nextSerial (s : State) (c : Nat) : Nat := (lastSerial s c + 1) % 2 ^ 32

theorem acceptCmd_handle (s : State) (m : Cmd) : (acceptCmd s m).2 = handleOf (nextSerial s m.c) m.unit m.c := rfl

/-- The engines after a command is accepted. -/
theorem acceptCmd_eng (s : State) (m : Cmd) : (acceptCmd s m).1.eng =
    { s.eng with cmds := s.eng.cmds ++ [{ m with id := s.nextId, serial := nextSerial s m.c }]
                 serials := putWhere (fun e => e.1 == m.c) (m.c, nextSerial s m.c) s.eng.serials
                 locks := s.eng.locks ++ (declared m).map fun x =>
                   { c := m.c, lo := x.ea.toNat, hi := x.ea.toNat + x.n, dst := x.dst, cmd := s.nextId } } := by
  simp only [acceptCmd, setEng, tickClock_eng]
  rfl

theorem lastSerial_acceptCmd (s : State) (m : Cmd) : lastSerial (acceptCmd s m).1 m.c = nextSerial s m.c := by
  have hfind := find?_putWhere (p := fun e : Nat × Nat => e.1 == m.c) (v := (m.c, nextSerial s m.c))
    (beq_self_eq_true m.c) s.eng.serials
  rw [lastSerial, acceptCmd_eng]
  exact congrArg (fun e => (e.map fun e : Nat × Nat => e.2).getD 0) hfind

end

/-- Settles O31: each instruction settles what its cores' issues come to, and an issue follows R316's order of waits and
checks. -/
theorem engineCommandsIssue : Obligations.EngineCommandsIssue := by
  unfold Obligations.EngineCommandsIssue
  intro eng any
  have hunit : ∀ {i : OpE → Instr} {image : List Byte → Bool} {maj fn blk : Nat},
      (∀ o s, exec (i o) s = engineIssue image o maj fn blk s) →
      (∀ o, siteE o (BitVec.ofNat 3 fn) (BitVec.ofNat 7 maj) blk = siteOf (i o)) → eng i image maj fn blk :=
    fun hexec hsite s f units o h => have hi := issuesCommands_of_engineIssue hexec hsite
      ⟨fun hw => (hi s f units o h).trans (settleIssued_holds _ _ _ hw),
        fun hw => (hi s f units o h).trans (settleIssued_goes _ _ _ hw), exec_of_no_core hi h,
        fun c s2 r hact hidle hdone => exec_of_done hi h hact hidle hdone⟩
  refine ⟨hunit (fun _ _ => rfl) fun _ => rfl, hunit (fun _ _ => rfl) fun _ => rfl,
    hunit (fun _ _ => rfl) fun _ => rfl, hunit (fun _ _ => rfl) fun _ => rfl,
    hunit (fun _ _ => rfl) fun _ => rfl, hunit (fun _ _ => rfl) fun _ => rfl,
    hunit (fun _ _ => rfl) fun _ => rfl, hunit (fun _ _ => rfl) fun _ => rfl,
    hunit (fun _ _ => rfl) fun _ => rfl, hunit (fun _ _ => rfl) fun _ => rfl,
    hunit (fun _ _ => rfl) fun _ => rfl, hunit (fun _ _ => rfl) fun _ => rfl,
    hunit (fun _ _ => rfl) fun _ => rfl, hunit (fun _ _ => rfl) fun _ => rfl,
    hunit (fun _ _ => rfl) fun _ => rfl, hunit (fun _ _ => rfl) fun _ => rfl,
    fun image s f m => ⟨issueCmd_of_no_room,
      fun hroom n => issueCmd_of_failed hroom, fun hroom hn s' => issueCmd_of_failed_late hroom hn,
      fun hroom hn s' hlate => ⟨(acceptCmd s m).1, issueCmd_of_passed hroom hn hlate, ?_, lastSerial_acceptCmd s m, ?_⟩⟩⟩
  · rw [acceptCmd_eng]
    rfl
  · rw [acceptCmd_eng]

end Sys2Proof.Proofs.EngineIssue
end

section
/-! SUPPORT. Tasks: their submission and their acceptance (R289 to R291, R294, R313). -/

namespace Sys2Proof.Proofs.TaskSubmission

open Sys2Proof.Machine Sys2Proof.Laws.Shapes Sys2Proof.Proofs.EngineIssue

/-! ### Submission -/

section
variable {s : State} {f : Firing} {units : List Core} {o : OpE} {fn blk : Nat} {cbld : Bool}

/-- The submissions of the cores that have still to submit. -/
def submissionsOf (fn blk : Nat) (cbld : Bool) (o : OpE) (s : State) (f : Firing) (units : List Core) : State × Firing :=
  submitEach (fun s f c => submitTask s f units (o.o.k == 1) o fn blk cbld c)
    ((engSel o f units).filter fun c => c.busy != .issued) (putFiring s f) f

/-- An instruction that submits tasks. -/
def SubmitsTasks (i : OpE → Instr) (fn blk : Nat) (cbld : Bool) : Prop :=
  ∀ s f units o, Issues s (siteOf (i o)) f units →
    (codebookBarred s f.tenant o cbld = true →
      exec (i o) s = trapAt (putFiring s f) f { core := lowest units, cause := 0x01 } (siteOf (i o))) ∧
    (codebookBarred s f.tenant o cbld = false → exec (i o) s = settleIssued (submissionsOf fn blk cbld o s f units).1
      (submissionsOf fn blk cbld o s f units).2 units (engSel o f units) 8)

theorem submitsTasks_of_taskInstr {i : OpE → Instr} {maj : BitVec 7}
    (hexec : ∀ o s, exec (i o) s = taskInstr o maj fn blk cbld s) (hsite : ∀ o, siteE o (BitVec.ofNat 3 fn) maj blk = siteOf (i o)) :
    SubmitsTasks i fn blk cbld := by
  intro s f units o h
  have hput : codebookBarred (putFiring s f) f.tenant o cbld = codebookBarred s f.tenant o cbld := rfl
  rw [hexec, taskInstr, hsite, withFiring_issues h, hput]
  exact ⟨fun hbar => if_pos hbar, fun hbar => if_neg (by rw [hbar]; exact Bool.false_ne_true)⟩

end

/-! ### Acceptance -/

section
variable {s : State} {k : Nat} {u : TaskSub} {f : Firing}

/-- The submission and the firing that an acceptance answers. -/
theorem bind_firing (hu : s.tasks.subs[k]? = some u) (hf : firingOf s u.firing = some f) :
    (s.tasks.subs[k]?.bind fun u => (firingOf s u.firing).map fun f => (u, f)) = some (u, f) := by
  rw [hu, Option.bind_some, hf, Option.map_some]

theorem taskAccept_rejects (hu : s.tasks.subs[k]? = some u) (hf : firingOf s u.firing = some f) {n : Nat}
    (hcheck : taskCheck s (taskFrom s f u) = some n) :
    exec (.taskAccept k) s = .next (answerTask (failLaunch (taskRecord (setTasks s { s.tasks with
        rejects := putWhere (fun e => e.1 == (f.tenant, u.sec)) ((f.tenant, u.sec), n) s.tasks.rejects })
      (taskFrom s f u) (taskHandle 0 u.sec 0) n) f.launch) f u (taskHandle 0 u.sec 0)) := by
  show execTaskAccept k s = _
  simp only [execTaskAccept, bind_firing hu hf, hcheck]
  rfl

theorem taskAccept_accepts (hu : s.tasks.subs[k]? = some u) (hf : firingOf s u.firing = some f) {e : Nat}
    (hcheck : taskCheck s (taskFrom s f u) = none) (hentry : freeEntry s (taskFrom s f u).sec = some e)
    (hroom : roomFor s (taskFrom s f u) = true) :
    exec (.taskAccept k) s =
      let t := taskFrom s f u
      let t' := { t with entry := e, renamed := needsTile s t }
      let s' := tickClock s t.clk (BitVec.ofNat 32 (taskReads t ++ taskWrites t).length)
      let serials := putWhere (fun k => k.1 == t.sec) (t.sec, taskSerial s u.sec + 1) s'.tasks.serials
      .next (answerTask (setTasks s' { s'.tasks with tasks := s'.tasks.tasks ++ [t'], serials := serials }) f u
        (taskHandle (taskSerial s u.sec + 1) t.sec e)) := by
  show execTaskAccept k s = _
  simp only [execTaskAccept, bind_firing hu hf, hcheck, hentry, hroom, Bool.not_true, Bool.false_eq_true, if_false]
  rfl

end

/-- Settles O34: each word settles what its cores' submissions come to, and an acceptance follows R291's checks. -/
theorem tasksSubmit : Obligations.TasksSubmit := by
  unfold Obligations.TasksSubmit
  intro task
  have htask : ∀ {i : OpE → Instr} {maj : BitVec 7} {fn blk : Nat} {cbld : Bool},
      (∀ o s, exec (i o) s = taskInstr o maj fn blk cbld s) → (∀ o, siteE o (BitVec.ofNat 3 fn) maj blk = siteOf (i o)) →
      task i fn blk cbld := fun hexec hsite s f units o h =>
    have hi := submitsTasks_of_taskInstr hexec hsite s f units o h
    ⟨hi.1, fun hbar => ⟨fun hw => (hi.2 hbar).trans (settleIssued_holds _ _ _ hw),
      fun hw => (hi.2 hbar).trans (settleIssued_goes _ _ _ hw)⟩⟩
  exact ⟨htask (fun _ _ => rfl) fun _ => rfl, htask (fun _ _ => rfl) fun _ => rfl, htask (fun _ _ => rfl) fun _ => rfl,
    htask (fun _ _ => rfl) fun _ => rfl, htask (fun _ _ => rfl) fun _ => rfl, htask (fun _ _ => rfl) fun _ => rfl,
    htask (fun _ _ => rfl) fun _ => rfl, htask (fun _ _ => rfl) fun _ => rfl,
    fun s k u f hu hf => ⟨fun n => taskAccept_rejects hu hf, fun e => taskAccept_accepts hu hf⟩⟩

end Sys2Proof.Proofs.TaskSubmission
end

section
/-! SUPPORT. The words that act on the command or the task that a handle names (R312, R315, R318, R323, R325). -/

namespace Sys2Proof.Proofs.Handles

open Sys2Proof.Machine Sys2Proof.Laws.Shapes

/-- The cores that a word with a predicate selects, or the leader with k = 1. -/
def handleSel (o : OpA) (f : Firing) (units : List Core) : List Core :=
  (if (o.k == 1) = true then units.take 1 else units).filter fun c => takes (fileOf f units (o.k == 1) c) o.pr

/-- The handle that a core names. -/
def handleAt (o : OpA) (f : Firing) (units : List Core) (c : Core) : Word := getS (fileOf f units (o.k == 1) c) o.a.toNat

/-- A word's act on each core in turn: `act` gives the state and the word for d. -/
def actEach (o : OpA) (act : State → Word → State × Word) (f : Firing) (units : List Core) (l : List Core)
    (st : State × Firing) : State × Firing :=
  l.foldl (init := st) fun st c =>
    let r := act st.1 (handleAt o f units c)
    (r.1, writeD st.2 (o.k == 1) c.idx o.d.toNat r.2)

/-! ### COPY control -/

/-- The status word that a handle shows (R318), as the statement says it. -/
def statusOf (s : State) (f : Firing) (h : Word) : State × Word :=
  match cmdNamed s f.tenant h with
  | some m => (s, liveStatus m)
  | none => if h.toNat / 2 ^ 16 % 2 ^ 32 = 0 ∧ h.getLsbD 63 = false then rejectedStatus s f.tenant h else (s, retiredStatus)

theorem handleStatus_eq (s : State) (f : Firing) (h : Word) : handleStatus s f.tenant h = statusOf s f h := by
  unfold handleStatus statusOf
  cases cmdNamed s f.tenant h with
  | some m => rfl
  | none =>
    simp only [fieldOf, Bool.and_eq_true, beq_iff_eq, Bool.not_eq_true']

/-- What `copy.rsm` does with a handle. -/
def resumeNamed (s : State) (f : Firing) (h : Word) : State × Word :=
  match parkedNamed s f.tenant h with
  | none => statusOf s f h
  | some m => (putCmd s { m with code := if m.begun then 1 else 0, cause := 0 },
      liveStatus { m with code := if m.begun then 1 else 0, cause := 0 })

/-- What `copy.abrt` does with a handle. -/
def abortNamed (s : State) (f : Firing) (h : Word) : State × Word :=
  match parkedNamed s f.tenant h with
  | none => statusOf s f h
  | some m => (faultCmd s m m.cause, endStatus m 5 m.cause)

theorem exec_copyStat (o : OpE) (s : State) : exec (.copyStat o) s = copyControl o 5 statusOf s := by
  have hact : (fun (s : State) (f : Firing) (h : Word) => handleStatus s f.tenant h) = statusOf := by
    funext s f h
    exact handleStatus_eq s f h
  show execCopyStat o s = _
  rw [execCopyStat, hact]

theorem exec_copyRsm (o : OpE) (s : State) : exec (.copyRsm o) s = copyControl o 6 resumeNamed s := by
  show execCopyRsm o s = _
  simp only [execCopyRsm, handleStatus_eq]
  rfl

theorem exec_copyAbrt (o : OpE) (s : State) : exec (.copyAbrt o) s = copyControl o 7 abortNamed s := by
  show execCopyAbrt o s = _
  simp only [execCopyAbrt, handleStatus_eq]
  rfl

section
variable {s : State} {f : Firing} {units : List Core} {o : OpE} {i : OpE → Instr} {fn : Nat}
  {act : State → Firing → Word → State × Word}

/-- The control of commands, for the handler alone where its function says so. -/
theorem copyControl_issues (hexec : ∀ o s, exec (i o) s = copyControl o fn act s)
    (hsite : ∀ o, siteE o (BitVec.ofNat 3 fn) 0x41 1 = siteOf (i o)) (h : Issues s (siteOf (i o)) f units) :
    exec (i o) s =
      if (fn != 5 && !(handleSel o.o f units).isEmpty && !(isHandler (putFiring s f) f)) = true
      then .next (afterTrap s f { core := lowest (handleSel o.o f units), cause := 0x03 } (siteOf (i o)))
      else
        let r := actEach o.o (fun s h => act s f h) f units (handleSel o.o f units) (putFiring s f, f)
        .next (putFiring r.1 (advance r.2 units 8)) := by
  rw [hexec, copyControl, hsite, withFiring_issues h]
  rfl

theorem copyControl_bars (hexec : ∀ o s, exec (i o) s = copyControl o fn act s)
    (hsite : ∀ o, siteE o (BitVec.ofNat 3 fn) 0x41 1 = siteOf (i o)) (hfn : fn ≠ 5) (h : Issues s (siteOf (i o)) f units)
    (hsel : handleSel o.o f units ≠ []) (hhandler : isHandler (putFiring s f) f = false) :
    exec (i o) s = .next (afterTrap s f { core := lowest (handleSel o.o f units), cause := 0x03 } (siteOf (i o))) := by
  rw [copyControl_issues hexec hsite h, if_pos]
  simp [hfn, hsel, hhandler]

theorem copyControl_acts (hexec : ∀ o s, exec (i o) s = copyControl o fn act s)
    (hsite : ∀ o, siteE o (BitVec.ofNat 3 fn) 0x41 1 = siteOf (i o)) (h : Issues s (siteOf (i o)) f units)
    (hmay : fn = 5 ∨ isHandler (putFiring s f) f = true ∨ handleSel o.o f units = []) :
    exec (i o) s =
      let r := actEach o.o (fun s h => act s f h) f units (handleSel o.o f units) (putFiring s f, f)
      .next (putFiring r.1 (advance r.2 units 8)) := by
  rw [copyControl_issues hexec hsite h, if_neg]
  rcases hmay with hmay | hmay | hmay <;> simp [hmay]

end

/-! ### VSTOP -/

section
variable {s : State} {f : Firing} {units : List Core} {o : OpX}

/-- VSTOP while no publication of a task that it stops is under way, and else. -/
theorem vstopCur_issues (h : Issues s (siteOf (.vstopCur o)) f units) :
    exec (.vstopCur o) s =
      if (handleSel o.o f units).any (fun c => publishing (putFiring s f) f.tenant (handleAt o.o f units c)) = true
      then .next (putFiring s f)
      else
        let r := actEach o.o (fun s h => stopHandle s f.tenant h) f units (handleSel o.o f units) (putFiring s f, f)
        .next (putFiring r.1 (advance r.2 units 8)) := by
  have hsite : siteX o 0 0x33 .x = siteOf (.vstopCur o) := rfl
  show execVstopCur o s = _
  rw [execVstopCur, hsite, withFiring_issues h]
  rfl

theorem vstopCur_waits (h : Issues s (siteOf (.vstopCur o)) f units)
    (hpub : ∃ c ∈ handleSel o.o f units, publishing (putFiring s f) f.tenant (handleAt o.o f units c) = true) :
    exec (.vstopCur o) s = .next (putFiring s f) := by
  rw [vstopCur_issues h, if_pos (List.any_eq_true.mpr hpub)]

theorem vstopCur_stops (h : Issues s (siteOf (.vstopCur o)) f units)
    (hpub : ∀ c ∈ handleSel o.o f units, publishing (putFiring s f) f.tenant (handleAt o.o f units c) = false) :
    exec (.vstopCur o) s =
      let r := actEach o.o (fun s h => stopHandle s f.tenant h) f units (handleSel o.o f units) (putFiring s f, f)
      .next (putFiring r.1 (advance r.2 units 8)) := by
  rw [vstopCur_issues h, if_neg]
  rw [List.any_eq_true]
  rintro ⟨c, hc, hyes⟩
  exact absurd hyes (by rw [hpub c hc]; exact Bool.false_ne_true)

/-! ### VWAIT -/

/-- What the cores that wait are answered. -/
def answersOf (g : State → Word → WaitRes) (o : OpX) (s : State) (f : Firing) (units : List Core) :
    Option (State × List (Core × Word × Nat)) :=
  waitAll (fun s c => g s (handleAt o.o f units c)) (handleSel o.o f units) (putFiring s f)

/-- The returns of the cores' waits, each of which acquires. -/
def returnEach (o : OpX) (f : Firing) (units : List Core) (l : List (Core × Word × Nat)) (st : State × Firing) :
    State × Firing :=
  l.foldl (init := st) fun st e =>
    (raisePts st.1 f.clus (if (o.o.k == 1) = true then units.map fun k => k.idx else [e.1.idx]) e.2.2,
      writeD st.2 (o.o.k == 1) e.1.idx o.o.d.toNat e.2.1)

variable {i : OpX → Instr} {fn : BitVec 3} {a : Fld} {g : OpX → State → Firing → Word → WaitRes}

/-- A wait stalls while one of its cores does, and else returns on all of them. -/
theorem vwait_issues (hexec : ∀ o s, exec (i o) s = vwaitInstr fn a o (g o) s)
    (hsite : ∀ o, siteX o fn 0x35 a = siteOf (i o)) (h : Issues s (siteOf (i o)) f units) :
    (answersOf (fun s => g o s f) o s f units = none → exec (i o) s = .next (putFiring s f)) ∧
    ∀ s' l, answersOf (fun s => g o s f) o s f units = some (s', l) →
      exec (i o) s = .next (putFiring (sweep (returnEach o f units l (s', f)).1)
        (advance (returnEach o f units l (s', f)).2 units 8)) := by
  have hrun : exec (i o) s = match answersOf (fun s => g o s f) o s f units with
      | none => .next (putFiring s f)
      | some (s', l) => .next (putFiring (sweep (returnEach o f units l (s', f)).1)
          (advance (returnEach o f units l (s', f)).2 units 8)) := by
    rw [hexec, vwaitInstr, hsite, withFiring_issues h]
    rfl
  rw [hrun]
  exact ⟨fun hnone => by rw [hnone], fun s' l hsome => by rw [hsome]⟩

end

/-- Settles O32: the control of commands acts core by core, and a wait's outcome is what its cores are answered. -/
theorem handlesAnswer : Obligations.HandlesAnswer := by
  unfold Obligations.HandlesAnswer
  intro copy wait status
  have hcopy : ∀ {i : OpE → Instr} {fn : Nat} {act : State → Firing → Word → State × Word},
      (∀ o s, exec (i o) s = copyControl o fn act s) → (∀ o, siteE o (BitVec.ofNat 3 fn) 0x41 1 = siteOf (i o)) →
      copy i (fn != 5) act := fun hexec hsite s f units o h =>
    ⟨fun hpriv => copyControl_bars hexec hsite (bne_iff_ne.mp hpriv) h, fun hmay =>
      copyControl_acts hexec hsite h (hmay.imp_left fun hpriv => by simpa using hpriv)⟩
  have hwait : ∀ (i : OpX → Instr) (fn : BitVec 3) (a : Fld) (g : OpX → State → Firing → Word → WaitRes),
      (∀ o s, exec (i o) s = vwaitInstr fn a o (g o) s) → (∀ o, siteX o fn 0x35 a = siteOf (i o)) → wait i g :=
    fun i fn a g hexec hsite s f units o h => vwait_issues hexec hsite h
  exact ⟨hcopy exec_copyStat fun _ => rfl, hcopy exec_copyRsm fun _ => rfl, hcopy exec_copyAbrt fun _ => rfl,
    fun s f units o h => ⟨vstopCur_waits h, vstopCur_stops h⟩,
    hwait .vwaitVer 0 .x (fun o s f h => waitHandle s f.tenant h fun ver fin => fin || decide (o.imm.toNat % 16 ≤ ver))
      (fun _ _ => rfl) fun _ => rfl,
    hwait .vwaitFin 1 .x (fun _ s f h => waitHandle s f.tenant h fun _ fin => fin) (fun _ _ => rfl) fun _ => rfl,
    hwait .vwaitSet 2 .no (fun o s f _ => waitSettled s f.launch (sectorOf f.clus) (o.imm.toNat % 4096))
      (fun _ _ => rfl) fun _ => rfl,
    hwait .vwaitSets 3 .x (fun o s f h => waitSettled s f.launch (h.toNat % 64) (o.imm.toNat % 4096))
      (fun _ _ => rfl) fun _ => rfl,
    hwait .vwaitPoll 4 .x (fun _ s f h => waitHandle s f.tenant h fun _ _ => true) (fun _ _ => rfl) fun _ => rfl⟩

end Sys2Proof.Proofs.Handles
end

section
/-! SUPPORT. The scalar and control words of the context level (R375, R376). -/

namespace Sys2Proof.Proofs.AgentWords

open Sys2Proof.Machine

/-! ### How an agent's word runs -/

/-- A word that issues has its effect on the agent's slot. -/
theorem agentWord_issues {s : State} {k : Slot} {rd wr cs : List (BitVec 4)} (h : AgentIssues s k rd wr cs)
    (eff : State → Slot → Out) : agentWord rd wr cs s eff = eff s k := by
  obtain ⟨n, hcur, hslot, hrun, howed, hlaunch, hboard⟩ := h
  have hacting : actingSlot s = some k := by
    simp only [actingSlot, hcur, hslot, Option.filter_some, hrun, beq_self_eq_true, if_true]
  simp only [agentWord, hacting, howed, hlaunch, hboard, Option.isSome_none, Bool.or_self, Bool.false_eq_true, if_false]

section
variable {i : OpC → Instr} {rd wr cs : OpC → List (BitVec 4)} {t : OpC → State → Slot → State}
  {eff : OpC → State → Slot → Out}

theorem runsWord_of_agentWord (hexec : ∀ o s, exec (i o) s = agentWord (rd o) (wr o) (cs o) s (eff o))
    (heff : ∀ o s k, eff o s k = .next (t o s k)) : RunsWord i rd wr cs t := by
  intro s k o h
  rw [hexec, agentWord_issues h, heff]

end

/-! ### Scalar words -/

theorem setsA_of_agentSet {i : OpC → Instr} {rd : OpC → List (BitVec 4)} {g : OpC → Slot → Word}
    (hexec : ∀ o s, exec (i o) s = agentSet o (rd o) s (g o)) : SetsA i rd g :=
  runsWord_of_agentWord hexec fun _ _ _ => rfl

theorem operatesA_of_agentOp {i : OpC → Instr} {g : OpC → Word → Word → Word}
    (hexec : ∀ o s, exec (i o) s = agentOp o (g o) s) : OperatesA i g :=
  setsA_of_agentSet hexec

/-- The conditions of `a.cmp` by their numbers, as the statement says them. -/
def condOf (n : Nat) (a b : Word) : Bool :=
  if n = 0 then a == b else if n = 1 then a != b else if n = 2 then decide (a.toInt < b.toInt)
  else if n = 3 then decide (b.toInt ≤ a.toInt) else if n = 4 then decide (a.toNat < b.toNat)
  else decide (b.toNat ≤ a.toNat)

theorem agentCond_eq (n : Nat) (a b : Word) : agentCond n a b = condOf n a b := by
  have hslt : (!(a.slt b)) = decide (b.toInt ≤ a.toInt) := by
    rw [BitVec.slt_eq_decide, ← decide_not]
    exact decide_eq_decide.mpr not_lt
  have hult : (!(a.ult b)) = decide (b.toNat ≤ a.toNat) := by
    rw [BitVec.ult_eq_decide, ← decide_not]
    exact decide_eq_decide.mpr not_lt
  match n with
  | 0 | 1 | 2 | 4 => rfl
  | 3 => exact hslt
  | n + 5 => exact hult

theorem exec_aCmp (o : OpC) (s : State) : exec (.aCmp o) s =
    agentOp o (fun a b => if condOf (o.m.toNat / 2) a b then 1 else 0) s := by
  show execACmp o s = _
  simp only [execACmp, agentCond_eq]

/-! ### Control words -/

theorem next_of_iff {c p : Prop} [Decidable c] [Decidable p] {a b : State} (h : c ↔ p) :
    (if c then .next a else .next b : Out) = .next (if p then a else b) := by
  by_cases hp : p
  · rw [if_pos hp, if_pos (h.mpr hp)]
  · rw [if_neg hp, if_neg (hp ∘ h.mp)]

theorem next_of_iff_not {c p : Prop} [Decidable c] [Decidable p] {a b : State} (h : c ↔ ¬p) :
    (if c then .next b else .next a : Out) = .next (if p then a else b) := by
  by_cases hp : p
  · rw [if_pos hp, if_neg fun hc => h.mp hc hp]
  · rw [if_neg hp, if_pos (h.mpr hp)]

/-- When `a.br` is taken. -/
theorem br_iff (w : Word) (z : Bool) : ((w == 0) == z) = true ↔ (if z = true then w = 0 else w ≠ 0) := by
  cases z <;> simp

theorem amRange_iff {off : Word} {n align : Nat} :
    amRange off n align = true ↔ off.toNat + n ≤ 65536 ∧ off.toNat % align = 0 := by
  simp only [amRange, Bool.and_eq_true, decide_eq_true_eq, beq_iff_eq]

theorem not_amRange_iff {off : Word} {n align : Nat} :
    (!(amRange off n align)) = true ↔ ¬(off.toNat + n ≤ 65536 ∧ off.toNat % align = 0) := by
  rw [Bool.not_eq_true', ← Bool.not_eq_true, amRange_iff]

/-- When `a.klaunch` takes AMEM. -/
theorem klaunch_iff {off : Word} {r : Option (State × List Byte)} : (!(amRange off 160 32) || r.isNone) = true ↔
    ¬(off.toNat + 160 ≤ 65536 ∧ off.toNat % 32 = 0 ∧ r ≠ none) := by
  simp only [Bool.or_eq_true, not_amRange_iff, Option.isNone_iff_eq_none, ne_eq, not_and_or, not_not, or_assoc]

/-! ### Loads and stores -/

section
variable {s : State} {k : Slot} {o : OpC}

/-- Where a load or store of an agent acts, as the statement says it. -/
def offOf (k : Slot) (o : OpC) : Word := k.a[o.y.toNat] + o.imm.signExtend 64

/-- Whether a load or store lies inside agent memory and is aligned. -/
def Inside (k : Slot) (o : OpC) : Prop := (offOf k o).toNat + 2 ^ o.m.toNat ≤ 65536 ∧ (offOf k o).toNat % 2 ^ o.m.toNat = 0

/-- A load's effect. -/
def loadEff (o : OpC) (s : State) (k : Slot) : Out :=
  if (!(amRange (offOf k o) (2 ^ o.m.toNat) (2 ^ o.m.toNat))) = true then .next (agentTrap s k 4)
  else
    match partKey s k.tenant (k.ramem + offOf k o) .rd with
    | .error _ => .next (agentTrap s k 4)
    | .ok key =>
      if !(served s .sys key (2 ^ o.m.toNat)) then .next s
      else .next (putSlot (partWord s key (2 ^ o.m.toNat) 0).1
        { k with a := k.a.set o.x.toNat (BitVec.ofNat 64 (partWord s key (2 ^ o.m.toNat) 0).2), pc := k.pc + 8 })

/-- A store's effect. -/
def storeEff (o : OpC) (s : State) (k : Slot) : Out :=
  if (!(amRange (offOf k o) (2 ^ o.m.toNat) (2 ^ o.m.toNat))) = true then .next (agentTrap s k 4)
  else
    match partKey s k.tenant (k.ramem + offOf k o) .wr with
    | .error _ => .next (agentTrap s k 4)
    | .ok key => .next (putSlot (partPut s key (2 ^ o.m.toNat) ((k.a[o.x.toNat]).toNat % 2 ^ (8 * 2 ^ o.m.toNat)) 0)
        { k with pc := k.pc + 8 })

theorem exec_aLd (o : OpC) (s : State) : exec (.aLd o) s = agentWord [o.y] [o.x] [] s (loadEff o) := rfl
theorem exec_aSt (o : OpC) (s : State) : exec (.aSt o) s = agentWord [o.x, o.y] [] [] s (storeEff o) := rfl

theorem loadEff_outside (h : ¬Inside k o) : loadEff o s k = .next (agentTrap s k 4) := if_pos (not_amRange_iff.mpr h)

theorem loadEff_untranslated (h : Inside k o) {e : Nat} (hkey : partKey s k.tenant (k.ramem + offOf k o) .rd = .error e) :
    loadEff o s k = .next (agentTrap s k 4) := by
  rw [loadEff, if_neg (not_amRange_iff.not.mpr (not_not.mpr h)), hkey]

theorem loadEff_served (h : Inside k o) {key : Nat} (hkey : partKey s k.tenant (k.ramem + offOf k o) .rd = .ok key)
    (hserved : served s .sys key (2 ^ o.m.toNat) = true) :
    loadEff o s k = .next (putSlot (partWord s key (2 ^ o.m.toNat) 0).1
      { k with a := k.a.set o.x.toNat (BitVec.ofNat 64 (partWord s key (2 ^ o.m.toNat) 0).2), pc := k.pc + 8 }) := by
  rw [loadEff, if_neg (not_amRange_iff.not.mpr (not_not.mpr h)), hkey]
  simp only [hserved, Bool.not_true, Bool.false_eq_true, if_false]

theorem storeEff_outside (h : ¬Inside k o) : storeEff o s k = .next (agentTrap s k 4) := if_pos (not_amRange_iff.mpr h)

theorem storeEff_untranslated (h : Inside k o) {e : Nat} (hkey : partKey s k.tenant (k.ramem + offOf k o) .wr = .error e) :
    storeEff o s k = .next (agentTrap s k 4) := by
  rw [storeEff, if_neg (not_amRange_iff.not.mpr (not_not.mpr h)), hkey]

theorem storeEff_translated (h : Inside k o) {key : Nat} (hkey : partKey s k.tenant (k.ramem + offOf k o) .wr = .ok key) :
    storeEff o s k = .next (putSlot (partPut s key (2 ^ o.m.toNat) ((k.a[o.x.toNat]).toNat % 2 ^ (8 * 2 ^ o.m.toNat)) 0)
      { k with pc := k.pc + 8 }) := by
  rw [storeEff, if_neg (not_amRange_iff.not.mpr (not_not.mpr h)), hkey]

end

/-- Settles O37: each word's effect on the agent's slot is the one that the statement names. -/
theorem agentWordsAct : Obligations.AgentWordsAct := by
  refine ⟨⟨setsA_of_agentSet fun _ _ => rfl, setsA_of_agentSet fun _ _ => rfl, setsA_of_agentSet fun _ _ => rfl,
    setsA_of_agentSet fun _ _ => rfl, operatesA_of_agentOp fun _ _ => rfl, operatesA_of_agentOp fun _ _ => rfl,
    operatesA_of_agentOp fun _ _ => rfl, operatesA_of_agentOp fun _ _ => rfl, operatesA_of_agentOp fun _ _ => rfl,
    operatesA_of_agentOp fun _ _ => rfl, operatesA_of_agentOp fun _ _ => rfl, operatesA_of_agentOp fun _ _ => rfl,
    operatesA_of_agentOp exec_aCmp⟩,
    runsWord_of_agentWord (fun _ _ => rfl) fun o s k => next_of_iff (br_iff _ _),
    runsWord_of_agentWord (fun _ _ => rfl) fun _ _ _ => rfl,
    runsWord_of_agentWord (fun _ _ => rfl) fun _ _ _ => rfl,
    runsWord_of_agentWord (fun _ _ => rfl) fun o s k => next_of_iff_not bne_iff_ne,
    runsWord_of_agentWord (fun _ _ => rfl) fun _ _ _ => rfl,
    runsWord_of_agentWord (fun _ _ => rfl) fun o s k => next_of_iff Iff.rfl,
    runsWord_of_agentWord (fun _ _ => rfl) fun _ _ _ => rfl,
    runsWord_of_agentWord (fun _ _ => rfl) fun o s k => next_of_iff_not bne_iff_ne,
    runsWord_of_agentWord (fun _ _ => rfl) fun o s k => next_of_iff beq_iff_eq,
    runsWord_of_agentWord (fun _ _ => rfl) fun o s k => next_of_iff_not bne_iff_ne,
    runsWord_of_agentWord (fun _ _ => rfl) fun _ _ _ => rfl,
    runsWord_of_agentWord (fun _ _ => rfl) fun o s k => next_of_iff_not bne_iff_ne,
    runsWord_of_agentWord (fun _ _ => rfl) fun o s k => next_of_iff_not klaunch_iff,
    fun s k o => ⟨fun h => ?_, fun h => ?_⟩⟩
  · have hrun : exec (.aLd o) s = loadEff o s k := (exec_aLd o s).trans (agentWord_issues h _)
    rw [hrun]
    exact ⟨loadEff_outside, fun hin e => loadEff_untranslated hin, fun hin key => loadEff_served hin⟩
  · have hrun : exec (.aSt o) s = storeEff o s k := (exec_aSt o s).trans (agentWord_issues h _)
    rw [hrun]
    exact ⟨storeEff_outside, fun hin e => storeEff_untranslated hin, fun hin key => storeEff_translated hin⟩

end Sys2Proof.Proofs.AgentWords
end

section
/-! SUPPORT. The context-management words (R356 to R369). -/

namespace Sys2Proof.Proofs.ContextWords

open Sys2Proof.Machine Sys2Proof.Proofs.AgentWords

/-! ### Branches whose every outcome is a state -/

section
variable {c p : Prop} [Decidable c] [Decidable p] {x y : Out} {a b : State}

theorem next_ite (h : c ↔ p) (hx : x = .next a) (hy : y = .next b) : (if c then x else y) = .next (if p then a else b) := by
  rw [hx, hy, next_of_iff h]

theorem next_ite_not (h : c ↔ ¬p) (hx : x = .next a) (hy : y = .next b) : (if c then y else x) = .next (if p then a else b) := by
  rw [hx, hy, next_of_iff_not h]

end

/-- The state of a word on the context that a register holds; an empty register takes ACTX. -/
def heldOf (r : BitVec 4) (g : State → Slot → Ctx → State) (s : State) (k : Slot) : State :=
  match ctxOf s k.num r.toNat with
  | none => agentTrap s k 3
  | some c => g s k c

theorem onCtx_next {s : State} {k : Slot} {r : BitVec 4} {f : Ctx → Out} {g : State → Slot → Ctx → State}
    (h : ∀ c, f c = .next (g s k c)) : onCtx s k r f = .next (heldOf r g s k) := by
  unfold onCtx heldOf
  cases ctxOf s k.num r.toNat with
  | none => rfl
  | some c => exact h c

/-! ### The conditions of the words -/

theorem ctxOf_isSome_iff {s : State} {n r : Nat} : (ctxOf s n r).isSome = true ↔ ¬ctxOf s n r = none :=
  Option.isSome_iff_ne_none

/-- What `c.len` reads, by its function (R361). -/
theorem lenWord_eq (m : BitVec 8) (a b c : Word) : (match m.toNat with | 0 => a | 1 => b | _ => c) =
    if m = 0 then a else if m = 1 then b else c := by
  have h0 : m = 0 ↔ m.toNat = 0 := BitVec.toNat_inj.symm
  have h1 : m = 1 ↔ m.toNat = 1 := BitVec.toNat_inj.symm
  rw [if_congr h0 rfl (if_congr h1 rfl rfl)]
  match m.toNat with
  | 0 | 1 | _ + 2 => rfl

/-- A word that answers. -/
theorem answer_eq (s : State) (k : Slot) (o : OpC) (w : Word) : answer s k.num o.x w = .next (answered s k o w) := rfl

theorem pinned_iff {c : Ctx} : (c.pinned || c.bound.isNone || c.blocks.isEmpty) = true ↔
    (c.pinned = true ∨ c.bound = none ∨ c.blocks = []) := by
  simp only [Bool.or_eq_true, Option.isNone_iff_eq_none, List.isEmpty_iff, or_assoc]

theorem not_byteRange_iff {off : Word} {n : Nat} : (!(amRange off n 1)) = true ↔ ¬(off.toNat + n ≤ 65536) := by
  rw [not_amRange_iff, Nat.mod_one, and_iff_left rfl]

theorem bindWord_iff {c : Ctx} {n : Nat} : (!c.bytes.isEmpty && c.bound.any (· != n)) = true ↔
    (c.bytes ≠ [] ∧ c.bound ≠ none ∧ c.bound ≠ some n) := by
  cases c.bound <;> simp

theorem bindTo_eq (m : Model) (c : Ctx) : bindTo m c =
    if c.entries = [] then { c with bound := some m.num, homeSet := m.homeSet, block := m.block, ppb := m.ppb }
    else { c with bound := some m.num, homeSet := m.homeSet } := by
  simp only [bindTo, List.isEmpty_iff]

theorem noGrammar_iff {g : Nat} {imm : W32} : (g == 0xFFFF && imm != 0) = true ↔ (g = 0xFFFF ∧ imm ≠ 0) := by
  rw [Bool.and_eq_true, beq_iff_eq, bne_iff_ne]

/-- When the offset and the units of `c.gram` are outside agent memory. -/
theorem gramRange_iff {g off units : Nat} (hoff : off < 65536) :
    (g != 0xFFFF && (units == 0 || decide (1024 < units) || !(amRange (BitVec.ofNat 64 off) (64 * units) 8))) = true ↔
      (g ≠ 0xFFFF ∧ (units = 0 ∨ 1024 < units ∨ 65536 < off + 64 * units ∨ off % 8 ≠ 0)) := by
  have hnat : (BitVec.ofNat 64 off).toNat = off := by
    rw [BitVec.toNat_ofNat, Nat.mod_eq_of_lt (by omega)]
  simp only [Bool.and_eq_true, bne_iff_ne, Bool.or_eq_true, beq_iff_eq, decide_eq_true_eq, not_amRange_iff, hnat, not_and_or,
    not_le, or_assoc]

/-- Settles O38: each word's effect is the one that the statement names, branch by branch. -/
theorem contextWordsManage : Obligations.ContextWordsManage := by
  unfold Obligations.ContextWordsManage
  intro no on held
  have hheld : held = heldOf := rfl
  clear_value held
  subst hheld
  refine ⟨runsWord_of_agentWord (fun _ _ => rfl) fun o s k => ?_, runsWord_of_agentWord (fun _ _ => rfl) fun o s k => ?_,
    runsWord_of_agentWord (fun _ _ => rfl) fun o s k => ?_, runsWord_of_agentWord (fun _ _ => rfl) fun o s k => ?_,
    runsWord_of_agentWord (fun _ _ => rfl) fun o s k => ?_, runsWord_of_agentWord (fun _ _ => rfl) fun o s k => ?_,
    runsWord_of_agentWord (fun _ _ => rfl) fun o s k => ?_, runsWord_of_agentWord (fun _ _ => rfl) fun o s k => ?_,
    runsWord_of_agentWord (fun _ _ => rfl) fun o s k => ?_, runsWord_of_agentWord (fun _ _ => rfl) fun o s k => ?_,
    runsWord_of_agentWord (fun _ _ => rfl) fun o s k => ?_, runsWord_of_agentWord (fun _ _ => rfl) fun o s k => ?_,
    runsWord_of_agentWord (fun _ _ => rfl) fun o s k => ?_⟩
  case refine_1 => exact next_ite_not ctxOf_isSome_iff rfl rfl
  case refine_2 => exact onCtx_next fun c => next_ite_not ctxOf_isSome_iff rfl rfl
  case refine_3 => rfl
  case refine_4 => exact onCtx_next fun c => answer_eq _ _ _ _
  case refine_5 => exact onCtx_next fun c => (congrArg (answer s k.num o.x) (lenWord_eq _ _ _ _)).trans (answer_eq _ _ _ _)
  case refine_6 =>
    refine onCtx_next fun c => next_ite_not not_byteRange_iff ?_ rfl
    simp only [getA]
    cases amWrite s k k.a[o.w.toNat] ((c.bytes.drop (k.a[o.z.toNat]).toNat).take o.imm.toNat) with
    | none => rfl
    | some t => rfl
  case refine_7 =>
    refine onCtx_next fun c => ?_
    simp only [beq_iff_eq]
    rfl
  case refine_8 =>
    cases ctxOf s k.num o.x.toNat with
    | none => rfl
    | some c => rfl
  case refine_9 =>
    exact onCtx_next fun c => next_ite Iff.rfl (answer_eq _ _ _ _) <| next_ite pinned_iff (answer_eq _ _ _ _) <|
      next_ite Iff.rfl (answer_eq _ _ _ _) <| next_ite (Bool.not_eq_true' _).to_iff (answer_eq _ _ _ _) <|
      next_ite Iff.rfl (answer_eq _ _ _ _) rfl
  case refine_10 =>
    refine onCtx_next fun c => next_ite_not not_amRange_iff ?_ rfl
    simp only [getA]
    cases amWrite s k k.a[o.z.toNat] ((c.prog.map progBytes).getD (List.replicate 64 0)) with
    | none => rfl
    | some t => rfl
  case refine_11 =>
    refine onCtx_next fun c => next_ite Iff.rfl (answer_eq _ _ _ _) ?_
    simp only [getA]
    cases modelOf s k.tenant (k.a[o.z.toNat]).toNat with
    | none => rw [ite_self]; rfl
    | some m =>
      cases accepted s k.tenant 5 with
      | false => rfl
      | true =>
        simp only [if_true, Bool.true_eq_false, if_false]
        refine next_ite bindWord_iff (answer_eq _ _ _ _) ?_
        rw [bindTo_eq]
        rfl
  case refine_12 =>
    refine onCtx_next fun c => next_ite noGrammar_iff rfl <| next_ite (gramRange_iff (Nat.mod_lt _ (by decide))) rfl <|
      next_ite Iff.rfl (answer_eq _ _ _ _) ?_
    cases boundModel s c with
    | none => rfl
    | some m =>
      exact next_ite beq_iff_eq (answer_eq _ _ _ _) <| next_ite Iff.rfl (answer_eq _ _ _ _) (answer_eq _ _ _ _)
  case refine_13 =>
    refine next_ite_not not_amRange_iff (next_ite (Bool.not_eq_true' _).to_iff rfl ?_) rfl
    simp only [getA]
    cases amRead s k k.a[o.y.toNat] 32 with
    | none => rfl
    | some r => exact next_ite Iff.rfl (answer_eq _ _ _ _) (answer_eq _ _ _ _)

end Sys2Proof.Proofs.ContextWords
end

section
/-! SUPPORT. The five long instructions (R354, R373, R382). -/

namespace Sys2Proof.Proofs.LongWords

open Sys2Proof.Machine Sys2Proof.Proofs.AgentWords

section
variable {s s' : State} {k : Slot} {o : OpC} {c : Ctx} {op : Nat} {rd cs : List (BitVec 4)}
  {f : State → Slot → Ctx → Long → LongIssue}

/-! ### What an issue comes to -/

/-- A long instruction of an agent that has none in flight, on a context, comes to what its operands give. -/
theorem longWord_issues (h : AgentIssues s k rd [o.x] cs) (hlong : k.long = none)
    (hctx : ctxOf s k.num o.y.toNat = some c) :
    longWord o op rd cs s f = match f s k c (freshLong o op k c) with
      | .waits => .next s
      | .trap t => .next (agentTrap s k t)
      | .status s' n => .next (endLong (putLong (putSlot s' (pastWord { k with
          pend := k.pend ||| ((1 : BitVec 16) <<< o.x.toNat), long := some (freshLong o op k c) })) k.num (freshLong o op k c))
          k.num (freshLong o op k c) n)
      | .go s' l => .next (begun s' k o l) := by
  rw [longWord, agentWord_issues h]
  simp only [hlong, Option.isSome_none, Bool.false_eq_true, if_false, onCtx, hctx]
  rfl

theorem longWord_waits (h : AgentIssues s k rd [o.x] cs) (hlong : k.long = none) (hctx : ctxOf s k.num o.y.toNat = some c)
    (hf : f s k c (freshLong o op k c) = .waits) : longWord o op rd cs s f = .next s := by
  rw [longWord_issues h hlong hctx, hf]

theorem longWord_ends {n : Nat} (h : AgentIssues s k rd [o.x] cs) (hlong : k.long = none)
    (hctx : ctxOf s k.num o.y.toNat = some c) (hf : f s k c (freshLong o op k c) = .status s' n) :
    longWord o op rd cs s f = .next (endLong (putLong (putSlot s' (pastWord { k with
      pend := k.pend ||| ((1 : BitVec 16) <<< o.x.toNat), long := some (freshLong o op k c) })) k.num (freshLong o op k c))
      k.num (freshLong o op k c) n) := by
  rw [longWord_issues h hlong hctx, hf]

theorem longWord_begins {l : Long} (h : AgentIssues s k rd [o.x] cs) (hlong : k.long = none)
    (hctx : ctxOf s k.num o.y.toNat = some c) (hf : f s k c (freshLong o op k c) = .go s' l) :
    longWord o op rd cs s f = .next (begun s' k o l) := by
  rw [longWord_issues h hlong hctx, hf]

/-! ### The operands -/

/-- The bytes of agent memory at an offset, where a release there does not wait. -/
def Operand (s : State) (k : Slot) (off : Word) (n : Nat) (s' : State) (bytes : List Byte) : Prop :=
  amServed s k off n = true ∧ amRead s k off n = some (s', bytes)

theorem amBytes_of_operand {off : Word} {n : Nat} {bytes : List Byte} (h : Operand s k off n s' bytes) :
    amBytes s k off n = .ok (s', bytes) := by
  simp only [amBytes, h.1, h.2, Bool.not_true, Bool.false_eq_true, if_false]

theorem amBytes_of_release {off : Word} {n : Nat} (h : amServed s k off n = false) : amBytes s k off n = .error .waits := by
  simp only [amBytes, h, Bool.not_false, if_true]

theorem not_over_iff {n limit : Nat} : ¬(n == 0 || decide (limit < n)) = true ↔ 1 ≤ n ∧ n ≤ limit := by
  simp only [Bool.or_eq_true, beq_iff_eq, decide_eq_true_eq]
  omega

/-- An operand that its limits admit is read. -/
theorem amOperand_of_operand {off : Word} {n limit align : Nat} {g : State → List Byte → LongIssue} {bytes : List Byte}
    (hn : 1 ≤ n) (hlimit : n ≤ limit) (hrange : off.toNat + n ≤ 65536 ∧ off.toNat % align = 0)
    (hbytes : Operand s k off n s' bytes) : amOperand s k off n limit align g = g s' bytes := by
  rw [amOperand, if_neg (not_over_iff.mpr ⟨hn, hlimit⟩), if_neg (not_amRange_iff.not.mpr (not_not.mpr hrange)),
    amBytes_of_operand hbytes]

theorem amOperand_of_release {off : Word} {n limit align : Nat} {g : State → List Byte → LongIssue}
    (hn : 1 ≤ n) (hlimit : n ≤ limit) (hrange : off.toNat + n ≤ 65536 ∧ off.toNat % align = 0)
    (hserved : amServed s k off n = false) : amOperand s k off n limit align g = .waits := by
  rw [amOperand, if_neg (not_over_iff.mpr ⟨hn, hlimit⟩), if_neg (not_amRange_iff.not.mpr (not_not.mpr hrange)),
    amBytes_of_release hserved]

/-- The stop list that an instruction reads. -/
def Reads (s : State) (k : Slot) (o : OpC) (want : Bool) (s' : State) (stops : List (List Byte)) : Prop :=
  if want then o.imm.toNat < 65536 ∧ o.imm.toNat % 8 = 0 ∧ ∃ bytes,
    Operand s k (o.imm.setWidth 64) (min 512 (65536 - o.imm.toNat)) s' bytes ∧
    1 ≤ (bytes.getD 0 0).toNat ∧ (bytes.getD 0 0).toNat ≤ 16 ∧
      parseStops (bytes.getD 0 0).toNat (bytes.drop 1) = .ok (some stops)
  else s' = s ∧ stops = []

theorem stopOperand_of_reads {want : Bool} {stops : List (List Byte)} (h : Reads s k o want s' stops)
    (g : State → Option (List (List Byte)) → LongIssue) : stopOperand s k o want g = g s' (some stops) := by
  cases want with
  | false =>
    obtain ⟨rfl, rfl⟩ := h
    rfl
  | true =>
    obtain ⟨hlt, halign, bytes, hbytes, h1, h16, hparse⟩ := h
    have himm : (o.imm.setWidth 64).toNat = o.imm.toNat := by
      rw [BitVec.toNat_setWidth, Nat.mod_eq_of_lt (by omega)]
    have hrange : (o.imm.setWidth 64).toNat + 1 ≤ 65536 ∧ (o.imm.setWidth 64).toNat % 8 = 0 := by
      rw [himm]
      exact ⟨hlt, halign⟩
    have hcount : ¬((bytes.getD 0 0).toNat == 0 || decide (16 < (bytes.getD 0 0).toNat)) = true :=
      not_over_iff.mpr ⟨h1, h16⟩
    simp only [stopOperand, Bool.not_true, Bool.false_eq_true, if_false, not_amRange_iff, hrange, and_self, not_true,
      amBytes_of_operand hbytes, hcount, hparse]

theorem needBound_of_poisoned {g : Model → LongIssue} (h : c.poisoned = true) : needBound s c g = .status s 0x44 := by
  rw [needBound, if_pos h]
  rfl

theorem needBound_of_unbound {g : Model → LongIssue} (h : c.poisoned = false) (hm : boundModel s c = none) :
    needBound s c g = .status s 1 := by
  rw [needBound, if_neg (by rw [h]; exact Bool.false_ne_true), hm]

theorem needBound_of_bound {g : Model → LongIssue} {m : Model} (h : c.poisoned = false) (hm : boundModel s c = some m) :
    needBound s c g = g m := by
  rw [needBound, if_neg (by rw [h]; exact Bool.false_ne_true), hm]

/-! ### The words -/

theorem bytes_aligned {off : Word} {n : Nat} (h : off.toNat + n ≤ 65536) : off.toNat + n ≤ 65536 ∧ off.toNat % 1 = 0 :=
  ⟨h, Nat.mod_one _⟩

variable {m : Model} {bytes : List Byte} {stops : List (List Byte)}

/-- An instruction that reads bytes waits for a release there. -/
theorem cApp_waits (h : AgentIssues s k [o.z, o.w] [o.x] [o.y]) (hlong : k.long = none)
    (hctx : ctxOf s k.num o.y.toNat = some c) (hw : 1 ≤ (k.a[o.w.toNat]).toNat) (hmax : (k.a[o.w.toNat]).toNat ≤ 65536)
    (hend : (k.a[o.z.toNat]).toNat + (k.a[o.w.toNat]).toNat ≤ 65536)
    (hserved : amServed s k k.a[o.z.toNat] (k.a[o.w.toNat]).toNat = false) :
    exec (.cApp o) s = .next s ∧ exec (.cScore o) s = .next s := by
  show execCApp o s = _ ∧ execCScore o s = _
  unfold execCApp execCScore
  exact ⟨longWord_waits h hlong hctx (by exact amOperand_of_release hw hmax (bytes_aligned hend) hserved),
    longWord_waits h hlong hctx (by exact amOperand_of_release hw hmax (bytes_aligned hend) hserved)⟩

/-- Bytes to append, as they are or normalised (R382, R386). -/
theorem cApp_begins (h : AgentIssues s k [o.z, o.w] [o.x] [o.y]) (hlong : k.long = none)
    (hctx : ctxOf s k.num o.y.toNat = some c) (hpoison : c.poisoned = false) (hm : boundModel s' c = some m)
    (hw : 1 ≤ (k.a[o.w.toNat]).toNat) (hmax : (k.a[o.w.toNat]).toNat ≤ 65536)
    (hend : (k.a[o.z.toNat]).toNat + (k.a[o.w.toNat]).toNat ≤ 65536)
    (hbytes : Operand s k k.a[o.z.toNat] (k.a[o.w.toNat]).toNat s' bytes) (hne : bytes ≠ []) :
    exec (.cApp o) s =
      let out := if o.m.getLsbD 2 then bytes
        else (normText (textSet s' k.tenant (o.m.toNat % 4)) (o.m.getLsbD 3) (2 ^ 24) bytes).1
      .next (begun s' k o { freshLong o 0x60 k c with data := out,
                                                      prog := { (freshLong o 0x60 k c).prog with limit := out.length } }) := by
  show execCApp o s = _
  unfold execCApp
  refine longWord_begins h hlong hctx ?_
  refine (amOperand_of_operand hw hmax (bytes_aligned hend) hbytes).trans ?_
  exact (needBound_of_bound hpoison hm).trans (if_neg (List.isEmpty_iff.not.mpr hne))

/-- Bytes to score (R382). -/
theorem cScore_begins (h : AgentIssues s k [o.z, o.w] [o.x] [o.y]) (hlong : k.long = none)
    (hctx : ctxOf s k.num o.y.toNat = some c) (hpoison : c.poisoned = false) (hm : boundModel s' c = some m)
    (hw : 1 ≤ (k.a[o.w.toNat]).toNat) (hmax : (k.a[o.w.toNat]).toNat ≤ 65536)
    (hend : (k.a[o.z.toNat]).toNat + (k.a[o.w.toNat]).toNat ≤ 65536)
    (hbytes : Operand s k k.a[o.z.toNat] (k.a[o.w.toNat]).toNat s' bytes) (hne : bytes ≠ []) (hfull : ctxFull c = false)
    (hresult : resultOk s' k o 8 = true) :
    exec (.cScore o) s = .next (begun s' k o { freshLong o 0x62 k c with
      data := bytes, used := [(0, 0)], sums := [none]
      prog := { (freshLong o 0x62 k c).prog with limit := if o.m.getLsbD 0 then (k.a[o.w.toNat]).toNat else 0 } }) := by
  show execCScore o s = _
  unfold execCScore
  refine longWord_begins h hlong hctx ?_
  refine (amOperand_of_operand hw hmax (bytes_aligned hend) hbytes).trans ?_
  rw [hresult]
  exact (needBound_of_bound hpoison hm).trans ((if_neg (List.isEmpty_iff.not.mpr hne)).trans
    (if_neg (by rw [hfull]; exact Bool.false_ne_true)))

/-- Emissions to generate (R382). -/
theorem cGen_begins (h : AgentIssues s k [o.z] [o.x] [o.y]) (hlong : k.long = none)
    (hctx : ctxOf s k.num o.y.toNat = some c) (hpoison : c.poisoned = false) (hm : boundModel s' c = some m)
    (hreads : Reads s k o (o.m.getLsbD 0) s' stops) (hfull : ctxFull c = false) (hz : 1 ≤ (k.a[o.z.toNat]).toNat)
    (hmax : (k.a[o.z.toNat]).toNat ≤ 2 ^ 24) :
    exec (.cGen o) s = .next (begun s' k o { freshLong o 0x61 k c with
      stops := stops, prog := { (freshLong o 0x61 k c).prog with limit := (k.a[o.z.toNat]).toNat } }) := by
  show execCGen o s = _
  unfold execCGen
  refine longWord_begins h hlong hctx ?_
  refine (stopOperand_of_reads hreads _).trans ((needBound_of_bound hpoison hm).trans ?_)
  exact (if_neg (not_over_iff.mpr ⟨hz, hmax⟩)).trans (if_neg (by rw [hfull]; exact Bool.false_ne_true))

/-- A `c.gen` that ends at once (R354). -/
theorem cGen_ends {n : Nat} (h : AgentIssues s k [o.z] [o.x] [o.y]) (hlong : k.long = none)
    (hctx : ctxOf s k.num o.y.toNat = some c) (hreads : Reads s k o (o.m.getLsbD 0) s' stops)
    (hends : ∀ g : Model → LongIssue, needBound s' c g = .status s' n) :
    exec (.cGen o) s = .next (endLong (putLong (putSlot s' (pastWord { k with
      pend := k.pend ||| ((1 : BitVec 16) <<< o.x.toNat), long := some (freshLong o 0x61 k c) })) k.num (freshLong o 0x61 k c))
      k.num (freshLong o 0x61 k c) n) := by
  show execCGen o s = _
  unfold execCGen
  refine longWord_ends h hlong hctx ?_
  exact (stopOperand_of_reads hreads _).trans (hends _)

/-- Alternatives to choose from (R382). -/
theorem cChoose_begins {s1 : State} {table : List Byte} {alts : List (List Byte)} (h : AgentIssues s k [o.z, o.w] [o.x] [o.y])
    (hlong : k.long = none) (hctx : ctxOf s k.num o.y.toNat = some c) (hpoison : c.poisoned = false)
    (hm : boundModel s' c = some m) (hw : 2 ≤ (k.a[o.w.toNat]).toNat) (hmax : (k.a[o.w.toNat]).toNat ≤ 64)
    (hend : (k.a[o.z.toNat]).toNat + 8 * (k.a[o.w.toNat]).toNat ≤ 65536) (halign : (k.a[o.z.toNat]).toNat % 8 = 0)
    (htable : Operand s k k.a[o.z.toNat] (8 * (k.a[o.w.toNat]).toNat) s1 table)
    (halts : readAlts k ((List.range (k.a[o.w.toNat]).toNat).map fun j =>
      (ofBytes ((table.drop (8 * j)).take 4), ofBytes ((table.drop (8 * j + 4)).take 4))) s1 = .ok (s', some alts))
    (hresult : resultOk s' k o (4 + 4 * (k.a[o.w.toNat]).toNat) = true) (hfull : ctxFull c = false) :
    exec (.cChoose o) s = .next (begun s' k o { freshLong o 0x63 k c with
      alts := alts, used := alts.map fun _ => (0, 0), sums := alts.map fun _ => none }) := by
  have hbad : (decide ((getA k o.w).toNat < 2) || decide (64 < (getA k o.w).toNat)) = false :=
    Bool.or_eq_false_iff.mpr ⟨decide_eq_false (Nat.not_lt.mpr hw), decide_eq_false (Nat.not_lt.mpr hmax)⟩
  show execCChoose o s = _
  unfold execCChoose
  refine longWord_begins h hlong hctx ?_
  simp only [hbad, Bool.false_eq_true, if_false, Bool.not_false, Bool.true_and]
  refine (amOperand_of_operand (limit := 512) (by omega) (by omega) ⟨hend, halign⟩ htable).trans ?_
  simp only [getA, halts, hresult, Bool.not_true, Bool.false_eq_true, if_false, needBound_of_bound hpoison hm, hfull]

/-- A draft on one context, verified on another (R382). -/
theorem cSpec_begins {d : Ctx} (h : AgentIssues s k [o.w] [o.x] [o.y, o.z]) (hlong : k.long = none)
    (hctx : ctxOf s k.num o.y.toNat = some c) (hpoison : c.poisoned = false) (hm : boundModel s' c = some m)
    (hreads : Reads s k o (o.m.getLsbD 6) s' stops) (hd : ctxOf s k.num o.z.toNat = some d) (hdpoison : d.poisoned = false)
    (hdm : boundModel s' d ≠ none) (hbound : d.bound ≠ c.bound) (hfull : ctxFull c = false) (hdfull : ctxFull d = false)
    (hw : 1 ≤ (k.a[o.w.toNat]).toNat) (hmax : (k.a[o.w.toNat]).toNat ≤ 2 ^ 24) :
    exec (.cSpec o) s = .next (begun s' k o { freshLong o 0x64 k c with
      stops := stops, prog := { (freshLong o 0x64 k c).prog with limit := (k.a[o.w.toNat]).toNat } }) := by
  have hsize : ((getA k o.w).toNat == 0 || decide (2 ^ 24 < (getA k o.w).toNat)) = false :=
    Bool.eq_false_iff.mpr (not_over_iff.mpr ⟨hw, hmax⟩)
  have hsome : (boundModel s' d).isNone = false := Option.isNone_eq_false_iff.mpr (Option.isSome_iff_ne_none.mpr hdm)
  have hdiff : (d.bound == c.bound) = false := beq_false_of_ne hbound
  show execCSpec o s = _
  unfold execCSpec
  refine longWord_begins h hlong hctx ?_
  simp only [hd]
  refine (stopOperand_of_reads hreads _).trans ((needBound_of_bound hpoison hm).trans ?_)
  simp only [hsize, hdpoison, hsome, hdiff, hfull, hdfull, Bool.or_self, Bool.false_eq_true, if_false]
  rfl

end

/-- Settles O39: each word comes to what its operands give, and begins or ends its long instruction. -/
theorem longInstructionsBegin : Obligations.LongInstructionsBegin := by
  intro s k o c hlong hctx
  refine ⟨fun s' stops hpoison h hreads => cGen_ends h hlong hctx hreads fun g => needBound_of_poisoned hpoison,
    fun s' stops hpoison h hreads hm => cGen_ends h hlong hctx hreads fun g => needBound_of_unbound hpoison hm,
    fun h => cApp_waits h hlong hctx, fun hpoison s' m hm => ⟨fun bytes h hw hmax hend hbytes hne => ⟨fun hraw => ?_,
      fun hraw => ?_, cScore_begins h hlong hctx hpoison hm hw hmax hend hbytes hne⟩,
      fun stops h => cGen_begins h hlong hctx hpoison hm, fun s1 table alts h => cChoose_begins h hlong hctx hpoison hm,
      fun stops d h => cSpec_begins h hlong hctx hpoison hm⟩⟩
  · rw [cApp_begins h hlong hctx hpoison hm hw hmax hend hbytes hne, if_pos hraw]
  · rw [cApp_begins h hlong hctx hpoison hm hw hmax hend hbytes hne, if_neg (by rw [hraw]; exact Bool.false_ne_true)]

end Sys2Proof.Proofs.LongWords
end

section
/-! SUPPORT. The register files (R58). -/

namespace Sys2Proof.Proofs.RegisterFiles

open Sys2Proof.Machine

/-! ### Vectors of registers -/

section
variable {α : Type} {n : Nat}

theorem vget_setIfInBounds (v : Vector α n) (i j : Nat) (a d : α) (hi : i < n) :
    vget (v.setIfInBounds i a) j d = if j = i then a else vget v j d := by
  simp only [vget, Vector.getElem?_setIfInBounds]
  by_cases hij : i = j
  · simp [hij, hij ▸ hi]
  · simp [hij, Ne.symm hij]

end

/-! ### Bytes of a vector word -/

theorem packNat_lt (w : Nat) (l : List Nat) : packNat w l < 2 ^ (w * l.length) := by
  induction l with
  | nil => exact Nat.one_pos
  | cons x xs ih =>
    have hx : x % 2 ^ w < 2 ^ w := Nat.mod_lt _ (Nat.two_pow_pos w)
    rw [packNat, List.length_cons, Nat.mul_succ, Nat.add_comm (w * xs.length) w, pow_add]
    have hle := Nat.mul_le_mul_left (2 ^ w) (Nat.succ_le_of_lt ih)
    rw [Nat.mul_succ] at hle
    omega

theorem packNat_elem (w : Nat) (l : List Nat) (j : Nat) : packNat w l / 2 ^ (w * j) % 2 ^ w = l.getD j 0 % 2 ^ w := by
  induction l generalizing j with
  | nil => simp [packNat]
  | cons x xs ih =>
    cases j with
    | zero => simp [packNat, Nat.add_mul_mod_self_left]
    | succ j =>
      have hx : x % 2 ^ w < 2 ^ w := Nat.mod_lt _ (Nat.two_pow_pos w)
      rw [packNat, Nat.mul_succ, Nat.add_comm (w * j) w, pow_add, ← Nat.div_div_eq_div_mul,
        Nat.add_mul_div_left _ _ (Nat.two_pow_pos w), Nat.div_eq_of_lt hx, Nat.zero_add, ih, List.getD_cons_succ]

/-- A byte of a word, as a bit field and as an element. -/
theorem toNat_extractLsb'_byte (w : Vec) (j : Nat) : (w.extractLsb' (8 * j) 8).toNat = elemAt 8 w j := by
  rw [BitVec.extractLsb'_toNat, Nat.shiftRight_eq_div_pow, elemAt]

/-- Each byte of a selection is that of the word that its mask bit names (R60). -/
theorem extractLsb'_selBytes (mask : BitVec 16) (a b : Vec) {j : Nat} (hj : j < 16) :
    (selBytes mask a b).extractLsb' (8 * j) 8 =
      if mask.getLsbD j then a.extractLsb' (8 * j) 8 else b.extractLsb' (8 * j) 8 := by
  apply BitVec.eq_of_toNat_eq
  have hget : ((List.range 16).map fun j => if mask.getLsbD j then elemAt 8 a j else elemAt 8 b j).getD j 0 =
      if mask.getLsbD j then elemAt 8 a j else elemAt 8 b j := by
    rw [List.getD_eq_getElem?_getD, List.getElem?_map, List.getElem?_range hj]
    rfl
  have hlt := packNat_lt 8 ((List.range 16).map fun j => if mask.getLsbD j then elemAt 8 a j else elemAt 8 b j)
  rw [List.length_map, List.length_range] at hlt
  have hmod : ∀ v : Vec, elemAt 8 v j % 2 ^ 8 = elemAt 8 v j := fun v => Nat.mod_mod _ _
  rw [toNat_extractLsb'_byte, elemAt, selBytes, BitVec.toNat_ofNat, Nat.mod_eq_of_lt hlt, packNat_elem, hget]
  split
  · rw [hmod, toNat_extractLsb'_byte]
  · rw [hmod, toNat_extractLsb'_byte]

/-- Words that agree on their sixteen bytes are equal. -/
theorem eq_of_bytes {a b : Vec} (h : ∀ j, j < 16 → a.extractLsb' (8 * j) 8 = b.extractLsb' (8 * j) 8) : a = b := by
  refine BitVec.eq_of_getLsbD_eq fun i hi => ?_
  have hbyte := congrArg (fun w => w.getLsbD (i % 8)) (h (i / 8) (by omega))
  simpa only [BitVec.getLsbD_extractLsb', Nat.mod_lt i (by decide : 8 > 0), decide_true, Bool.true_and,
    Nat.div_add_mod i 8] using hbyte

theorem selBytes_all (a b : Vec) : selBytes 0xFFFF a b = a := by
  refine eq_of_bytes fun j hj => ?_
  have hbit : (0xFFFF : BitVec 16).getLsbD j = true := by
    interval_cases j <;> rfl
  rw [extractLsb'_selBytes _ _ _ hj, hbit, if_pos rfl]

/-! ### The files -/

theorem getX_setX (c : Core) {n : Nat} (hn : n < 32) (w : Word) (m : Nat) :
    getX (setX c n w) m = if m = n ∧ n ≠ 0 then w else getX c m := by
  by_cases h0 : n = 0
  · simp [setX, h0]
  · by_cases hm : m = 0
    · simp [getX, hm, Ne.symm h0]
    · simp [getX, setX, h0, hm, vget_setIfInBounds _ _ _ _ _ hn]

theorem setX_keeps (c : Core) (n : Nat) (w : Word) :
    (setX c n w).p = c.p ∧ (setX c n w).v = c.v ∧ (setX c n w).pc = c.pc ∧ (setX c n w).nflags = c.nflags := by
  unfold setX
  split <;> exact ⟨rfl, rfl, rfl, rfl⟩

theorem getPr_setPr (c : Core) {n : Nat} (hn : n < 8) (w : BitVec 16) (m : Nat) :
    getPr (setPr c n w) m = if m = n ∧ n ≠ 0 then w else getPr c m := by
  by_cases h0 : n = 0
  · simp [setPr, h0]
  · by_cases hm : m = 0
    · simp [getPr, hm, Ne.symm h0]
    · simp [getPr, setPr, h0, hm, vget_setIfInBounds _ _ _ _ _ hn]

theorem setPr_keeps (c : Core) (n : Nat) (w : BitVec 16) :
    (setPr c n w).x = c.x ∧ (setPr c n w).v = c.v ∧ (setPr c n w).pc = c.pc ∧ (setPr c n w).nflags = c.nflags := by
  unfold setPr
  split <;> exact ⟨rfl, rfl, rfl, rfl⟩

/-- A vector register, below the links, is the core's own. -/
theorem srcV_of_lt (v : VIn) {n : BitVec 5} (hn : n.toNat < 30) : srcV v n = vget v.core.v n.toNat 0 := by
  have h30 : n ≠ 30 := fun h => by rw [h] at hn; exact absurd hn (by decide)
  have h31 : n ≠ 31 := fun h => by rw [h] at hn; exact absurd hn (by decide)
  simp only [srcV, beq_iff_eq, h30, h31, if_false]

theorem srcV_setV_self (v : VIn) {n : BitVec 5} (hn : n.toNat < 30) (mask : BitVec 16) (w : Vec) :
    srcV { v with core := setV v.core n.toNat mask w } n = selBytes mask w (srcV v n) := by
  rw [srcV_of_lt _ hn, srcV_of_lt _ hn, setV, vget_setIfInBounds _ _ _ _ _ (by omega), if_pos rfl]

theorem srcV_setV_of_ne (v : VIn) {n m : BitVec 5} (hn : n.toNat < 30) (mask : BitVec 16) (w : Vec) (h : m ≠ n) :
    srcV { v with core := setV v.core n.toNat mask w } m = srcV v m := by
  have hnat : m.toNat ≠ n.toNat := fun heq => h (BitVec.eq_of_toNat_eq heq)
  simp only [srcV, setV, vget_setIfInBounds _ _ _ _ _ (by omega : n.toNat < 32), hnat, if_false]

theorem getG_setG (u : UFile) {n : Nat} (hn : n < 32) (w : Word) (m : Nat) :
    getG (setG u n w) m = if m = n then w else getG u m := vget_setIfInBounds _ _ _ _ _ hn

theorem getGp_setGp (u : UFile) {n : Nat} (hn : n < 8) (b : Bool) {m : Nat} (hm : m < 8) :
    getGp (setGp u n b) m = if m = n ∧ n ≠ 0 then b else getGp u m := by
  by_cases h0 : n = 0
  · simp [setGp, h0]
  · have hbit : ((u.gp &&& ~~~(1#8 <<< n)) ||| (if b then 1#8 <<< n else 0)).getLsbD m =
        if m = n then b else u.gp.getLsbD m := by
      interval_cases n <;> interval_cases m <;> cases b <;> simp
    have hset : (setGp u n b).gp.getLsbD m = if m = n then b else u.gp.getLsbD m := by
      simpa only [setGp, beq_iff_eq, h0, if_false] using hbit
    by_cases hz : m = 0
    · simp [getGp, hz, Ne.symm h0]
    · have hzero : (m == 0) = false := beq_false_of_ne hz
      simp only [getGp, hset, hzero, Bool.false_or, h0, ne_eq, not_false_eq_true, and_true]

theorem setGp_g (u : UFile) (n : Nat) (b : Bool) : (setGp u n b).g = u.g := by
  unfold setGp
  split <;> rfl

/-- Settles O53: each file reads what was written at an index and keeps the rest. -/
theorem registerFilesHold : Obligations.RegisterFilesHold :=
  ⟨fun _ => ⟨rfl, rfl⟩, fun _ => rfl, fun c n w hn => ⟨getX_setX c hn w, setX_keeps c n w⟩,
    fun c n w hn => ⟨getPr_setPr c hn w, setPr_keeps c n w⟩,
    fun v n m mask w hn => ⟨srcV_setV_of_ne v hn mask w,
      fun j hj => (congrArg (fun e => e.extractLsb' (8 * j) 8) (srcV_setV_self v hn mask w)).trans
        (extractLsb'_selBytes mask w _ hj),
      fun hmask => (srcV_setV_self v hn mask w).trans (hmask ▸ selBytes_all w _), rfl, rfl, rfl, rfl⟩,
    fun u n w hn => ⟨getG_setG u hn w, rfl⟩, fun u n b hn => ⟨fun _ hm => getGp_setGp u hn b hm, setGp_g u n b⟩⟩

end Sys2Proof.Proofs.RegisterFiles
end

section
/-! SUPPORT. Taking a trap (R270 to R272, R275): what its parts leave of the state. A projection `p` of the state that the setters of a
part's own fields keep is kept by the part. -/

namespace Sys2Proof.Proofs.TakingTraps

open Sys2Proof.Machine Sys2Proof.Proofs.Canonical

/-! ### Reservations -/

/-- A reservation changes channels alone. -/
theorem reserve_eq {s : State} {c launch : Nat} {a : Actor} {t : State × List Resv} (h : reserve s c launch a = some t) :
    ∃ chans, t.1 = setChans s chans := by
  have take (input : Bool) (rates : List (Nat × Nat)) (q r : State × List Resv) (hq : ∃ chans, q.1 = setChans s chans) :
      rates.foldlM (init := q) (fun (s, rs) (ch, rate) =>
        match chanAt s c launch ch with
        | none => none
        | some x =>
          let src := if input then x.filled else x.free
          if src.length < rate then none
          else
            let s := updChan s c launch ch fun x =>
              if input then { x with filled := x.filled.drop rate, fr := x.fr + rate }
              else { x with free := x.free.drop rate, er := x.er + rate }
            some (s, rs ++ [{ chan := ch, input := input, slots := src.take rate }])) = some r →
      ∃ chans, r.1 = setChans s chans := by
    induction rates generalizing q with
    | nil =>
      rintro ⟨⟩
      exact hq
    | cons e rates ih =>
      rw [List.foldlM_cons]
      intro hr
      obtain ⟨u, hu, hr⟩ := Option.bind_eq_some_iff.mp hr
      refine ih u ?_ hr
      obtain ⟨chans, hchans⟩ := hq
      dsimp only at hu
      split at hu
      · cases hu
      · generalize (if input = true then _ else _ : List Nat) = src at hu
        split at hu <;> cases hu
        dsimp only [updChan]
        rw [hchans]
        exact ⟨_, rfl⟩
  obtain ⟨r, hr, ht⟩ := Option.bind_eq_some_iff.mp h
  exact take false a.outs r t (take true a.ins (s, []) r ⟨s.chans, rfl⟩ hr) ht

/-! ### What the parts of a trap keep -/

section
variable {α : Type} {p : State → α} (s : State)

theorem settle_keeps (hchans : ∀ s v, p (setChans s v) = p s) (hinsts : ∀ s v, p (setInsts s v) = p s)
    (hid : ∀ s n, p (setNextId s n) = p s) (c : Nat) : p (settle s c) = p s := by
  unfold settle
  generalize s.insts = l
  induction l generalizing s with
  | nil => rfl
  | cons x l ih =>
    rw [List.foldl_cons, ih]
    split
    · cases hr : reserve s c x.launch (actorOf s x.launch x.actor) with
      | none => rfl
      | some r =>
        obtain ⟨chans, hc⟩ := reserve_eq hr
        exact (hinsts _ _).trans ((hid _ _).trans ((congrArg p hc).trans (hchans _ _)))
    · rfl

theorem returnResv_keeps (hchans : ∀ s v, p (setChans s v) = p s) (c launch : Nat) (rs : List Resv) :
    p (returnResv s c launch rs) = p s := by
  unfold returnResv
  induction rs with
  | nil => rfl
  | cons r rs ih => exact (hchans _ _).trans ih

theorem returnPopped_keeps (hinbox : ∀ s v, p (setInbox s v) = p s) (f : Firing) : p (returnPopped s f) = p s := by
  unfold returnPopped
  cases instOf s f.inst with
  | none => rfl
  | some x => exact hinbox _ _

theorem dropHeld_keeps (heng : ∀ s v, p (setEng s v) = p s) (htasks : ∀ s v, p (setTasks s v) = p s) (f : Firing) :
    p (dropHeld s f) = p s :=
  (htasks _ _).trans (heng _ _)

theorem releaseCores_keeps (hfirings : ∀ s v, p (setFirings s v) = p s) (hwaiters : ∀ s v, p (setWaiters s v) = p s)
    (htasks : ∀ s v, p (setTasks s v) = p s) (hxlat : ∀ s v, p (setXlat s v) = p s) (f : Firing) :
    p (releaseCores s f) = p s :=
  (hxlat _ _).trans ((htasks _ _).trans ((hwaiters _ _).trans (hfirings _ _)))

theorem failInst_keeps (htasks : ∀ s v, p (setTasks s v) = p s) (hinsts : ∀ s v, p (setInsts s v) = p s)
    (hlaunches : ∀ s v, p (setLaunches s v) = p s) (id launch : Nat) : p (failInst s id launch) = p s := by
  refine (hlaunches _ _).trans ((hinsts _ _).trans ?_)
  cases instOf s id with
  | none => rfl
  | some x =>
    dsimp only [ackAll]
    split
    · rfl
    · exact htasks _ _

theorem queueRecord_keeps (hrecords : ∀ s v, p (setRecords s v) = p s) (htenants : ∀ s v t, p (putTenant s v t) = p s)
    (hchans : ∀ s v, p (setChans s v) = p s) (hinsts : ∀ s v, p (setInsts s v) = p s)
    (hid : ∀ s n, p (setNextId s n) = p s) (htasks : ∀ s v, p (setTasks s v) = p s)
    (hlaunches : ∀ s v, p (setLaunches s v) = p s) (r : Record) : p (queueRecord s r) = p s := by
  unfold queueRecord
  split
  · unfold loseRecord
    dsimp only
    split
    · split
      · split
        · exact (settle_keeps _ hchans hinsts hid _).trans
            ((failInst_keeps _ htasks hinsts hlaunches _ _).trans (htenants _ _ _))
        · exact htenants _ _ _
      · exact htenants _ _ _
    · exact htenants _ _ _
  · exact hrecords _ _

end

/-! ### Instances -/

/-- Changing instances of other identities keeps the one of an identity. -/
theorem instOf_updInst_of_ne (s : State) {i j : Nat} (hij : i ≠ j) {g : Inst → Inst} (hg : ∀ x, (g x).id = x.id) :
    instOf (updInst s i g) j = instOf s j := by
  simp only [instOf, updInst, updWhere, setInsts, List.find?_map]
  have hp : ((fun x : Inst => x.id == j) ∘ fun x => if (x.id == i) = true then g x else x) = fun x => x.id == j := by
    funext x
    by_cases hx : x.id = i <;> simp [hx, hg]
  rw [hp]
  cases hfind : s.insts.find? fun x => x.id == j with
  | none => rfl
  | some x =>
    have hx : x.id = j := by simpa using List.find?_some hfind
    have hne : ¬(x.id == i) = true := by simpa [hx] using Ne.symm hij
    rw [Option.map_some, if_neg hne]

/-- The instance of an identity after a change of it. -/
theorem instOf_updInst (s : State) (i : Nat) {g : Inst → Inst} (hg : ∀ x, (g x).id = x.id) :
    instOf (updInst s i g) i = (instOf s i).map g := by
  simp only [instOf, updInst, updWhere, setInsts, List.find?_map]
  have hp : ((fun x : Inst => x.id == i) ∘ fun x => if (x.id == i) = true then g x else x) = fun x => x.id == i := by
    funext x
    by_cases hx : x.id = i <;> simp [hx, hg]
  rw [hp]
  cases hfind : s.insts.find? fun x => x.id == i with
  | none => rfl
  | some x =>
    have hx : x.id = i := by simpa using List.find?_some hfind
    rw [Option.map_some, Option.map_some, if_pos (beq_iff_eq.mpr hx)]

theorem instOf_makeEligible_of_ne (s : State) {i j : Nat} (hij : i ≠ j) {g : Inst → Inst} (hg : ∀ x, (g x).id = x.id) :
    instOf (makeEligible s i g) j = instOf s j :=
  instOf_updInst_of_ne (newId s).2 hij
    (g := fun x => { g x with st := .eligible, age := (newId s).1, since := (newId s).2.clk }) hg

/-- Settling a cluster changes no instance that does not wait. -/
theorem instOf_settle (s : State) (c : Nat) {i : Nat} (h : ∀ x ∈ s.insts, x.id = i → x.st ≠ .waiting) :
    instOf (settle s c) i = instOf s i := by
  unfold settle
  revert h
  generalize s.insts = l
  intro h
  induction l generalizing s with
  | nil => rfl
  | cons x l ih =>
    rw [List.foldl_cons, ih _ fun y hy => h y (List.mem_cons_of_mem _ hy)]
    split
    next hw =>
      have hst : x.st = .waiting := by simpa using (Bool.and_eq_true_iff.mp hw).2
      have hid : x.id ≠ i := fun hx => h x List.mem_cons_self hx hst
      cases hr : reserve s c x.launch (actorOf s x.launch x.actor) with
      | none => rfl
      | some r =>
        obtain ⟨chans, hc⟩ := reserve_eq hr
        refine (instOf_makeEligible_of_ne r.1 (g := fun x => { x with kept := some r.2 }) hid fun _ => rfl).trans ?_
        rw [hc]
        rfl
    next => rfl

/-! ### The trap -/

section
variable (s : State) (f : Firing) (t : TrapInfo) (w0 w1 : W32)

/-- The state once the firing is aborted. -/
def aborted : State := abortFiring (dropHeld s f) f (trapAccs f.id (heldAccs s f))

/-- The state once its instance is held, or has failed as the handler's does. -/
def handled : State :=
  let s1 := updInst (aborted s f) f.inst fun x => { x with st := .held 0, kept := none, notes := noticesOf s f }
  if isHandler s f then failInst s1 f.inst f.launch else s1

theorem trapFiring_eq : trapFiring s f t w0 w1 = settle (queueRecord (handled s f) (trapRecord s f t w0 w1)) f.clus := rfl

variable {s f}

section
variable {α : Type} {p : State → α}

/-- What the abort of a trap keeps, but for the firings. -/
theorem aborted_keeps (heng : ∀ s v, p (setEng s v) = p s) (htasks : ∀ s v, p (setTasks s v) = p s)
    (hpcores : ∀ s v, p (setPcores s v) = p s) (hchans : ∀ s v, p (setChans s v) = p s)
    (hinbox : ∀ s v, p (setInbox s v) = p s) (hfirings : ∀ s v, p (setFirings s v) = p s)
    (hwaiters : ∀ s v, p (setWaiters s v) = p s) (hxlat : ∀ s v, p (setXlat s v) = p s) : p (aborted s f) = p s :=
  (releaseCores_keeps _ hfirings hwaiters htasks hxlat f).trans <| (returnPopped_keeps _ hinbox f).trans <|
    (returnResv_keeps _ hchans _ _ _).trans <| (hpcores _ _).trans (dropHeld_keeps _ heng htasks f)

theorem handled_keeps (hinsts : ∀ s v, p (setInsts s v) = p s) (htasks : ∀ s v, p (setTasks s v) = p s)
    (hlaunches : ∀ s v, p (setLaunches s v) = p s) : p (handled s f) = p (aborted s f) := by
  unfold handled
  dsimp only
  split
  · exact (failInst_keeps _ htasks hinsts hlaunches _ _).trans (hinsts _ _)
  · exact hinsts _ _

end

/-- A trap takes its firing off the list and no other. -/
theorem trapFiring_firings : (trapFiring s f t w0 w1).firings = s.firings.filter fun g => g.id != f.id := by
  have haborted : (aborted s f).firings = s.firings.filter fun g => g.id != f.id := by
    have hkept : (returnPopped (returnResv (updAccs (dropHeld s f) f (trapAccs f.id (heldAccs s f))) f.clus f.launch f.resv) f).firings =
        s.firings :=
      (returnPopped_keeps (p := State.firings) _ (fun _ _ => rfl) f).trans
        (returnResv_keeps (p := State.firings) _ (fun _ _ => rfl) _ _ _)
    exact congrArg (List.filter fun g => g.id != f.id) hkept
  have hhandled := handled_keeps (s := s) (f := f) (p := State.firings) (fun _ _ => rfl) (fun _ _ => rfl) fun _ _ => rfl
  have hqueued := queueRecord_keeps (p := State.firings) (handled s f) (fun _ _ => rfl) (fun _ _ _ => rfl) (fun _ _ => rfl)
    (fun _ _ => rfl) (fun _ _ => rfl) (fun _ _ => rfl) (fun _ _ => rfl) (trapRecord s f t w0 w1)
  have hsettled := settle_keeps (p := State.firings) (queueRecord (handled s f) (trapRecord s f t w0 w1)) (fun _ _ => rfl)
    (fun _ _ => rfl) (fun _ _ => rfl) f.clus
  rw [trapFiring_eq, hsettled, hqueued, hhandled, haborted]

theorem trapFiring_full : (trapFiring s f t w0 w1).full = s.full := by
  have haborted := aborted_keeps (s := s) (f := f) (p := State.full) (fun _ _ => rfl) (fun _ _ => rfl) (fun _ _ => rfl)
    (fun _ _ => rfl) (fun _ _ => rfl) (fun _ _ => rfl) (fun _ _ => rfl) fun _ _ => rfl
  have hhandled := handled_keeps (s := s) (f := f) (p := State.full) (fun _ _ => rfl) (fun _ _ => rfl) fun _ _ => rfl
  have hqueued := queueRecord_keeps (p := State.full) (handled s f) (fun _ _ => rfl) (fun _ _ _ => rfl) (fun _ _ => rfl)
    (fun _ _ => rfl) (fun _ _ => rfl) (fun _ _ => rfl) (fun _ _ => rfl) (trapRecord s f t w0 w1)
  have hsettled := settle_keeps (p := State.full) (queueRecord (handled s f) (trapRecord s f t w0 w1)) (fun _ _ => rfl)
    (fun _ _ => rfl) (fun _ _ => rfl) f.clus
  rw [trapFiring_eq, hsettled, hqueued, hhandled, haborted]

theorem firingOf_trapFiring_self : firingOf (trapFiring s f t w0 w1) f.id = none := by
  rw [firingOf, trapFiring_firings, List.find?_eq_none]
  intro g hg
  simpa using (List.mem_filter.mp hg).2

theorem firingOf_trapFiring_of_ne {n : Nat} (hn : n ≠ f.id) : firingOf (trapFiring s f t w0 w1) n = firingOf s n := by
  rw [firingOf, trapFiring_firings, List.find?_filter]
  refine congrArg (fun q => s.firings.find? q) ?_
  funext g
  by_cases hg : g.id = n
  · simp [hg, hn]
  · simp [hg]

/-! #### The record -/

/-- Whether the queue of the firing's die has room for its record. -/
def RecordRoom (s : State) (f : Firing) : Prop := (s.records.filter fun q => q.die == dieOf f.clus).length < 256

theorem queueRecord_handled (h : RecordRoom s f) : queueRecord (handled s f) (trapRecord s f t w0 w1) =
    setRecords (handled s f) (s.records ++ [trapRecord s f t w0 w1]) := by
  have hrecords : (handled s f).records = s.records :=
    (handled_keeps (p := State.records) (fun _ _ => rfl) (fun _ _ => rfl) fun _ _ => rfl).trans
      (aborted_keeps (p := State.records) (fun _ _ => rfl) (fun _ _ => rfl) (fun _ _ => rfl)
        (fun _ _ => rfl) (fun _ _ => rfl) (fun _ _ => rfl) (fun _ _ => rfl) fun _ _ => rfl)
  have hle : (s.records.filter fun q => q.die == dieOf f.clus && !(isSaved (handled s f) q.tenant q.clus)).length ≤
      (s.records.filter fun q => q.die == dieOf f.clus).length := by
    rw [← List.countP_eq_length_filter, ← List.countP_eq_length_filter]
    exact List.countP_mono_left fun q _ hq => (Bool.and_eq_true_iff.mp hq).1
  rw [queueRecord, hrecords]
  exact if_neg (Nat.not_le.mpr (lt_of_le_of_lt hle h))

theorem mem_records_trapFiring (h : RecordRoom s f) : trapRecord s f t w0 w1 ∈ (trapFiring s f t w0 w1).records := by
  rw [trapFiring_eq, settle_keeps (p := State.records) _ (fun _ _ => rfl) (fun _ _ => rfl) (fun _ _ => rfl),
    queueRecord_handled t w0 w1 h]
  exact List.mem_append_right _ (List.mem_singleton_self _)

/-! #### The instance -/

theorem instOf_aborted (i : Nat) : instOf (aborted s f) i = instOf s i :=
  congrArg (List.find? fun x : Inst => x.id == i) (aborted_keeps (p := State.insts) (fun _ _ => rfl) (fun _ _ => rfl) (fun _ _ => rfl)
    (fun _ _ => rfl) (fun _ _ => rfl) (fun _ _ => rfl) (fun _ _ => rfl) fun _ _ => rfl)

/-- After a change of the instances of an identity, one of that identity is a changed one. -/
theorem mem_insts_updInst {s : State} {i : Nat} {g : Inst → Inst} {x : Inst}
    (hx : x ∈ (updInst s i g).insts) (hid : x.id = i) : ∃ y, x = g y := by
  obtain ⟨y, -, rfl⟩ := List.mem_map.mp hx
  by_cases hy : y.id = i
  · exact ⟨y, by simp [hy]⟩
  · simp [hy] at hid

/-- The instance of a firing that is not the handler's, held. -/
def heldInst (s : State) (f : Firing) (x : Inst) : Inst := { x with st := .held 0, kept := none, notes := noticesOf s f }

/-- The instance of a handler's firing, failed. -/
def failedInst (x : Inst) : Inst := { x with st := .failed, kept := none, disc := none, notes := [], todo := none }

theorem instOf_ackAll (s : State) (acks : List (Nat × Nat)) (i : Nat) : instOf (ackAll s acks) i = instOf s i := by
  dsimp only [ackAll]
  split <;> rfl

/-- A record that is lost changes the instances only where its own is held (R274). -/
theorem queueRecord_insts {h : State} {r : Record} (hheld : ∀ x, instOf h r.inst = some x → ∀ n, x.st ≠ .held n) :
    (queueRecord h r).insts = h.insts := by
  unfold queueRecord
  split
  · unfold loseRecord
    dsimp only
    split
    · split
      next x hx =>
        split
        next n hn => exact absurd hn (hheld x hx n)
        next => rfl
      next => rfl
    · rfl
  · rfl

theorem handled_of_firing (h : isHandler s f = false) : handled s f = updInst (aborted s f) f.inst (heldInst s f) := by
  simp only [handled, h, Bool.false_eq_true, if_false]
  rfl

theorem handled_of_handler (h : isHandler s f = true) : ∃ s1, (handled s f).insts = (updInst s1 f.inst failedInst).insts ∧
    instOf s1 f.inst = (instOf s f.inst).map (heldInst s f) := by
  have hheld : instOf (updInst (aborted s f) f.inst (heldInst s f)) f.inst = (instOf s f.inst).map (heldInst s f) := by
    rw [instOf_updInst _ _ (g := heldInst s f) fun _ => rfl, instOf_aborted]
  simp only [handled, h, if_true, failInst]
  refine ⟨_, rfl, ?_⟩
  refine Eq.trans ?_ hheld
  split
  · exact instOf_ackAll _ _ _
  · rfl

end

/-- Settles O52: a trap's parts leave memory and the other firings as they were, and its instance, which no part makes wait, keeps
what the trap made of it. -/
theorem trapsHoldTheInstance : Obligations.TrapsHoldTheInstance := by
  intro s f t w0 w1
  refine ⟨firingOf_trapFiring_self t w0 w1, fun n hn => firingOf_trapFiring_of_ne t w0 w1 hn, trapFiring_mem s f t w0 w1,
    trapFiring_full t w0 w1, mem_records_trapFiring t w0 w1, fun hroom hno x hx => ?_, fun hyes x hx => ?_⟩
  · refine ⟨heldInst s f x, ?_, rfl⟩
    rw [trapFiring_eq, queueRecord_handled t w0 w1 hroom, handled_of_firing hno, instOf_settle]
    · refine (instOf_updInst (aborted s f) f.inst (g := heldInst s f) fun _ => rfl).trans ?_
      rw [instOf_aborted, hx]
      rfl
    · intro y hy hid
      obtain ⟨z, rfl⟩ := mem_insts_updInst (s := aborted s f) (g := heldInst s f) hy hid
      exact fun hst => InstState.noConfusion hst
  · obtain ⟨s1, hinsts, hs1⟩ := handled_of_handler hyes
    have hhandled : instOf (handled s f) f.inst = some (failedInst (heldInst s f x)) := by
      refine (congrArg (List.find? fun x : Inst => x.id == f.inst) hinsts).trans ?_
      refine (instOf_updInst s1 f.inst (g := failedInst) fun _ => rfl).trans ?_
      rw [hs1, hx]
      rfl
    have hqueued : (queueRecord (handled s f) (trapRecord s f t w0 w1)).insts = (handled s f).insts :=
      queueRecord_insts fun y hy n hst => by
        obtain rfl := Option.some.inj (hhandled.symm.trans hy)
        exact InstState.noConfusion hst
    refine ⟨failedInst (heldInst s f x), ?_, rfl⟩
    rw [trapFiring_eq, instOf_settle]
    · exact (congrArg (List.find? fun x : Inst => x.id == f.inst) hqueued).trans hhandled
    · rw [hqueued, hinsts]
      intro y hy hid
      obtain ⟨z, rfl⟩ := mem_insts_updInst (s := s1) (g := failedInst) hy hid
      exact fun hst => InstState.noConfusion hst

end Sys2Proof.Proofs.TakingTraps
end

section
/-! SUPPORT. A store that shares a group number: a refutation of what the statement says of every state. -/

namespace Sys2Proof.Proofs.StoreGroups

open Sys2Proof.Machine

/-- A store of the first 8 bytes of cluster memory that carries a group number, as only the atomics of a fused gang do (R287). -/
def grouped : Acc :=
  { id := 9, kind := .store, space := 5, key := memKey .cluster 0, size := 8, sets := 2, bytes := 0xFF, grp := 1 }

/-- The part with that store alone in the order of core 0 of cluster 0. -/
def storing : State := { State.reset with pcores := [{ c := 0, i := 0, accs := [grouped] }] }

/-- A group is made of atomics, so that of a store is empty, and the store does not perform. -/
theorem groupClear_grouped : groupClear storing 0 0 grouped = false := by decide

theorem exec_grouped : exec (.explicitStorePerform 0 0 9) storing = .refused (.notEnabled "EXPLICIT_STORE_PERFORM") := rfl

/-- Refutes O55: the statement quantifies over every state, and in one whose store carries a group number, which no issue gives it,
the store is clear and yet does not perform. -/
theorem not_storesKeepOtherBytes : ¬Obligations.StoresKeepOtherBytes := by
  unfold Obligations.StoresKeepOtherBytes
  rintro ⟨-, hperform⟩
  obtain ⟨t, ht, -⟩ := hperform storing 0 0 9 grouped rfl rfl rfl (.inr (.inl rfl)) rfl rfl (by decide +kernel) rfl
  rw [exec_grouped] at ht
  cases ht

end Sys2Proof.Proofs.StoreGroups
end

section
/-! SUPPORT. What a word that computes into a register leaves (R58, R60, R63). -/

namespace Sys2Proof.Proofs.KeptRegisters

open Sys2Proof.Machine Sys2Proof.Laws.Shapes Sys2Proof.Proofs.RegisterFiles Sys2Proof.Proofs.WaitsAndSystem
  Sys2Proof.Proofs.Rules

/-! ### One register written -/

theorem vget_setIfInBounds_of_ne {α : Type} {n : Nat} (v : Vector α n) {i j : Nat} (a d : α) (h : j ≠ i) :
    vget (v.setIfInBounds i a) j d = vget v j d := by
  simp only [vget, Vector.getElem?_setIfInBounds, h.symm, if_false]

theorem getX_setX_of_ne (c : Core) (w : Word) {n m : Nat} (h : m ≠ n) : getX (setX c n w) m = getX c m := by
  unfold getX setX
  split
  · rfl
  · split
    · rfl
    · exact vget_setIfInBounds_of_ne _ _ _ h

theorem getPr_setPr_of_ne (c : Core) (w : BitVec 16) {n m : Nat} (h : m ≠ n) : getPr (setPr c n w) m = getPr c m := by
  unfold getPr setPr
  split
  · rfl
  · split
    · rfl
    · exact vget_setIfInBounds_of_ne _ _ _ h

theorem getG_setG_of_ne (u : UFile) (w : Word) {n m : Nat} (h : m ≠ n) : getG (setG u n w) m = getG u m :=
  vget_setIfInBounds_of_ne _ _ _ h

theorem getGp_setGp_of_ne (u : UFile) (b : Bool) {n m : Nat} (h : m ≠ n) : getGp (setGp u n b) m = getGp u m := by
  have hone : (1#8 <<< n).getLsbD m = false := by
    rw [BitVec.getLsbD_shiftLeft, BitVec.getLsbD_one]
    simp only [Bool.and_eq_false_iff, Bool.not_eq_false', decide_eq_true_eq, decide_eq_false_iff_not]
    omega
  have hset : ((if b then 1#8 <<< n else 0 : BitVec 8)).getLsbD m = false := by
    cases b
    · exact BitVec.getLsbD_zero
    · exact hone
  unfold getGp setGp
  split
  · rfl
  · simp only [BitVec.getLsbD_or, BitVec.getLsbD_and, BitVec.getLsbD_not, hone, hset, Bool.not_false, Bool.and_true,
      Bool.or_false]
    by_cases hm : m < 8
    · simp [hm]
    · simp [hm, BitVec.getLsbD_of_ge u.gp m (by omega)]

/-! ### Cores and firings that keep the rest -/

section
variable {x p v : Nat → Bool}

/-- A uniform file is another but for the registers that `x` and `p` select. -/
def KeepsU (x p : Nat → Bool) (u' u : UFile) : Prop :=
  (∀ n, x n = false → getG u' n = getG u n) ∧ ∀ n, p n = false → getGp u' n = getGp u n

theorem KeepsU.refl (u : UFile) : KeepsU x p u u := ⟨fun _ _ => rfl, fun _ _ => rfl⟩

theorem KeepsU.trans {a b c : UFile} (h : KeepsU x p a b) (h' : KeepsU x p b c) : KeepsU x p a c :=
  ⟨fun n hn => (h.1 n hn).trans (h'.1 n hn), fun n hn => (h.2 n hn).trans (h'.2 n hn)⟩

theorem keepsCore_refl (k : Core) : KeepsCore x p v k k := ⟨rfl, fun _ _ => ⟨rfl, rfl⟩, fun _ _ => ⟨rfl, rfl⟩, fun _ _ => rfl⟩

theorem keepsCore_trans {a b c : Core} (h : KeepsCore x p v a b) (h' : KeepsCore x p v b c) : KeepsCore x p v a c := by
  obtain ⟨hi, hx, hp, hv⟩ := h
  obtain ⟨hi', hx', hp', hv'⟩ := h'
  exact ⟨hi.trans hi', fun n hn => ⟨(hx n hn).1.trans (hx' n hn).1, (hx n hn).2.trans (hx' n hn).2⟩,
    fun n hn => ⟨(hp n hn).1.trans (hp' n hn).1, (hp n hn).2.trans (hp' n hn).2⟩, fun n hn => (hv n hn).trans (hv' n hn)⟩

/-- A core whose private uniform file alone changes. -/
theorem keepsCore_u {k : Core} {u : UFile} (h : KeepsU x p u k.u) : KeepsCore x p v { k with u := u } k :=
  ⟨rfl, fun n hn => ⟨rfl, h.1 n hn⟩, fun n hn => ⟨rfl, h.2 n hn⟩, fun _ _ => rfl⟩

/-- A firing is another but for the registers that `x`, `p` and `v` select, program counters, flags, links and marks. -/
structure KeepsFiring (x p v : Nat → Bool) (f' f : Firing) : Prop where
  id : f'.id = f.id
  clus : f'.clus = f.clus
  idx : f'.cores.map (fun k => k.idx) = f.cores.map fun k => k.idx
  cores : ∀ k' ∈ f'.cores, ∃ k ∈ f.cores, KeepsCore x p v k' k
  u : KeepsU x p f'.u f.u

theorem KeepsFiring.refl (f : Firing) : KeepsFiring x p v f f := ⟨rfl, rfl, rfl, fun k hk => ⟨k, hk, keepsCore_refl k⟩, .refl _⟩

theorem KeepsFiring.trans {a b c : Firing} (h : KeepsFiring x p v a b) (h' : KeepsFiring x p v b c) : KeepsFiring x p v a c :=
  ⟨h.id.trans h'.id, h.clus.trans h'.clus, h.idx.trans h'.idx, fun k hk => by
    obtain ⟨k1, hk1, hkeeps⟩ := h.cores k hk
    obtain ⟨k2, hk2, hkeeps'⟩ := h'.cores k1 hk1
    exact ⟨k2, hk2, keepsCore_trans hkeeps hkeeps'⟩, h.u.trans h'.u⟩

/-- A firing whose cores each change by a function. -/
theorem keepsFiring_map {f : Firing} {g : Core → Core} (hg : ∀ k ∈ f.cores, (g k).idx = k.idx ∧ ∃ c ∈ f.cores, KeepsCore x p v (g k) c) :
    KeepsFiring x p v { f with cores := f.cores.map g } f := by
  refine ⟨rfl, rfl, ?_, fun k' hk' => ?_, .refl _⟩
  · rw [List.map_map]
    exact List.map_congr_left fun k hk => (hg k hk).1
  · obtain ⟨k, hk, rfl⟩ := List.mem_map.mp hk'
    exact (hg k hk).2

theorem keepsFiring_advance (f : Firing) (units : List Core) (len : Word) : KeepsFiring x p v (advance f units len) f :=
  keepsFiring_map fun k hk => by
    split
    · exact ⟨rfl, k, hk, keepsCore_refl k⟩
    · exact ⟨rfl, k, hk, keepsCore_refl k⟩

theorem keepsFiring_putCores {f : Firing} {cs : List Core} (h : ∀ d ∈ cs, ∃ k ∈ f.cores, KeepsCore x p v d k) :
    KeepsFiring x p v (putCores f cs) f :=
  keepsFiring_map fun k hk => by
    cases hfind : cs.find? fun d => d.idx == k.idx with
    | none => exact ⟨rfl, k, hk, keepsCore_refl k⟩
    | some d => exact ⟨by simpa using List.find?_some hfind, h d (List.mem_of_find?_eq_some hfind)⟩

theorem keepsFiring_flagAll (f : Firing) (fl : FlagBits) : KeepsFiring x p v (flagAll f fl) f :=
  keepsFiring_map fun k hk => ⟨rfl, k, hk, keepsCore_refl k⟩

/-- The uniform file of an acting gang is written for all of it, or for the one core of a split gang (R114). -/
theorem keepsFiring_putUniform {f : Firing} {i : Nat} {u : UFile} (h : KeepsU x p u (uniformOf f (actingCores f i))) :
    KeepsFiring x p v (putUniform f (actingCores f i) u) f := by
  unfold putUniform
  unfold uniformOf at h
  cases hsplit : f.split with
  | false =>
    rw [hsplit] at h
    exact ⟨rfl, rfl, rfl, fun k hk => ⟨k, hk, keepsCore_refl k⟩, h⟩
  | true =>
    rw [hsplit] at h
    refine keepsFiring_map fun k hk => ?_
    cases hunits : actingCores f i with
    | nil => exact ⟨rfl, k, hk, keepsCore_refl k⟩
    | cons c cs =>
      rw [hunits] at h
      have hmem : ∀ d ∈ actingCores f i, d ∈ f.cores ∧ d.idx = i := fun d hd => by
        rw [actingCores, if_pos hsplit] at hd
        exact ⟨(List.mem_filter.mp hd).1, by simpa using (List.mem_filter.mp hd).2⟩
      have hc := hmem c (hunits ▸ List.mem_cons_self)
      by_cases hk' : k.idx = i
      · have hfind : ((c :: cs).map fun c => { c with u := u }).find? (fun d => d.idx == k.idx) = some { c with u := u } := by
          rw [List.map_cons, List.find?_cons_of_pos (by simp [hc.2, hk'])]
        rw [hfind]
        exact ⟨hc.2.trans hk'.symm, c, hc.1, keepsCore_u h⟩
      · have hfind : ((c :: cs).map fun c => { c with u := u }).find? (fun d => d.idx == k.idx) = none := by
          rw [List.find?_eq_none]
          intro d hd
          obtain ⟨e, he, rfl⟩ := List.mem_map.mp hd
          have hidx := (hmem e (hunits ▸ he)).2
          simp [hidx, Ne.symm hk']
        rw [hfind]
        exact ⟨rfl, k, hk, keepsCore_refl k⟩

theorem keepsFiring_pushLink {f f' : Firing} {i link : Nat} {word : Vec} (h : pushLink f i link word = some f') :
    KeepsFiring x p v f' f := by
  unfold pushLink at h
  dsimp only at h
  split at h
  · cases h
  next c hfind =>
    have hc : c ∈ f.cores := List.mem_of_find?_eq_some hfind
    have hput : ∀ d : Core, KeepsCore x p v d c → KeepsFiring x p v (putCores f [d]) f := fun d hd =>
      keepsFiring_putCores fun e he => ⟨c, hc, (List.mem_singleton.mp he) ▸ hd⟩
    split at h
    · split at h
      · obtain rfl := Option.some.inj h
        exact hput _ (keepsCore_refl c)
      · cases h
    · split at h
      · obtain rfl := Option.some.inj h
        exact hput _ (keepsCore_refl c)
      · cases h

theorem keepsFiring_foldlM {α : Type} {g : Firing → α → Option Firing} (hg : ∀ f a f', g f a = some f' → KeepsFiring x p v f' f)
    {l : List α} {f f' : Firing} (h : l.foldlM g f = some f') : KeepsFiring x p v f' f := by
  induction l generalizing f with
  | nil =>
    obtain rfl := Option.some.inj h
    exact .refl _
  | cons a l ih =>
    rw [List.foldlM_cons] at h
    obtain ⟨f1, h1, h2⟩ := Option.bind_eq_some_iff.mp h
    exact (ih h2).trans (hg f a f1 h1)

end

/-! ### Words -/

theorem firingOf_putFiring_of_ne (s : State) {f : Firing} {n : Nat} (hn : n ≠ f.id) :
    firingOf (putFiring s f) n = firingOf s n := by
  simp only [firingOf, putFiring, setFirings, updWhere, List.find?_map]
  have hp : ((fun g : Firing => g.id == n) ∘ fun g => if (g.id == f.id) = true then f else g) = fun g => g.id == n := by
    funext g
    by_cases hg : g.id = f.id
    · simp [hg]
    · simp [hg]
  rw [hp]
  cases hfind : s.firings.find? fun g => g.id == n with
  | none => rfl
  | some g =>
    have hg : g.id = n := by simpa using List.find?_some hfind
    rw [Option.map_some, if_neg (by simpa [hg] using hn)]

/-- A firing put over one of its number is put alone. -/
theorem putFiring_putFiring_of_id (s : State) {f f' : Firing} (h : f'.id = f.id) :
    putFiring (putFiring s f) f' = putFiring s f' := by
  simp only [putFiring, setFirings, h]
  congr 1
  simp only [updWhere, List.map_map]
  refine List.map_congr_left fun g _ => ?_
  by_cases hg : g.id = f.id
  · simp [hg]
  · simp [hg]

/-- What an outcome leaves of the state and of the firing that runs: the state as it was, or with the firing put back. -/
def Leaves (x p v : Nat → Bool) (s : State) (f : Firing) (r : Out) : Prop :=
  ∀ t, r = .next t → t = s ∨ ∃ f', t = putFiring s f' ∧ KeepsFiring x p v f' f

/-- A word changes the acting firing alone, and keeps there what its body keeps. -/
theorem keepsRest_of_withFiring {i : OpA → Instr} {x p v : OpA → Nat → Bool} {w : OpA → Site}
    {body : OpA → State → Firing → List Core → Out} (hexec : ∀ o s, exec (i o) s = withFiring (w o) s (body o))
    (hbody : ∀ o s f j, Leaves (x o) (p o) (v o) s f (body o s f (actingCores f j))) : KeepsRest i x p v := by
  intro s t o c j f hcur hf hrun
  have hput : ∀ f', KeepsFiring (x o) (p o) (v o) f' f → t = putFiring s f' →
      t = setFirings s t.firings ∧ (∀ n, n ≠ f.id → firingOf t n = firingOf s n) ∧
        ∃ f', firingAt t c j = some f' ∧ f'.id = f.id ∧ (∀ k' ∈ f'.cores, ∃ k ∈ f.cores, KeepsCore (x o) (p o) (v o) k' k) ∧
          (∀ n, x o n = false → getG f'.u n = getG f.u n) ∧ ∀ n, p o n = false → getGp f'.u n = getGp f.u n := by
    rintro f' hkeeps rfl
    have hany : f'.cores.any (fun k => k.idx == j) = f.cores.any fun k => k.idx == j := by
      have h := congrArg (List.any · fun n => n == j) hkeeps.idx
      simpa only [List.any_map, Function.comp_def] using h
    exact ⟨rfl, fun n hn => firingOf_putFiring_of_ne s (hkeeps.id ▸ hn), f',
      firingAt_putFiring hf hkeeps.id hkeeps.clus hany, hkeeps.id, hkeeps.cores, hkeeps.u.1, hkeeps.u.2⟩
  have hissued : KeepsFiring (x o) (p o) (v o) { f with issued := true } f :=
    ⟨rfl, rfl, rfl, fun k hk => ⟨k, hk, keepsCore_refl k⟩, .refl _⟩
  rw [hexec] at hrun
  simp only [withFiring, hcur, hf] at hrun
  split at hrun
  · exact hput _ hissued (Host.Outcome.next.inj hrun).symm
  · obtain rfl | ⟨f', rfl, hkeeps⟩ := hbody o _ _ _ t hrun
    · exact hput _ hissued rfl
    · refine hput f' (hkeeps.trans hissued) ?_
      exact putFiring_putFiring_of_id s hkeeps.id

theorem mem_cores_of_mem_actingCores {f : Firing} {j : Nat} {c : Core} (hc : c ∈ actingCores f j) : c ∈ f.cores := by
  unfold actingCores at hc
  split at hc
  · exact List.mem_of_mem_filter hc
  · exact hc

/-! #### Words on the scalar files -/

/-- A file is another but for the registers that `x` and `p` select, flags and marks. -/
def KeepsFile (x p : Nat → Bool) (r' r : RFile) : Prop := KeepsCore x p (fun _ => false) r'.core r.core ∧ KeepsU x p r'.u r.u

theorem keepsFile_setS (r : RFile) (n : Nat) (w : Word) : KeepsFile (fun m => m == n) (fun _ => false) (setS r n w) r := by
  unfold setS
  split
  · exact ⟨keepsCore_refl _, fun m hm => getG_setG_of_ne _ _ (by simpa using hm), fun _ _ => rfl⟩
  · refine ⟨⟨?_, fun m hm => ⟨getX_setX_of_ne _ _ (by simpa using hm), ?_⟩, fun m _ => ⟨?_, ?_⟩, fun m _ => ?_⟩, .refl _⟩
    all_goals unfold setX; split <;> rfl

theorem keepsFile_setP (r : RFile) (n : Nat) (m : BitVec 16) :
    KeepsFile (fun _ => false) (fun k => k == n) (setP r n m) r := by
  unfold setP
  split
  · refine ⟨keepsCore_refl _, fun k _ => ?_, fun k hk => getGp_setGp_of_ne _ _ (by simpa using hk)⟩
    unfold setGp
    split <;> rfl
  · refine ⟨⟨?_, fun k _ => ⟨?_, ?_⟩, fun k hk => ⟨getPr_setPr_of_ne _ _ (by simpa using hk), ?_⟩, fun k _ => ?_⟩, .refl _⟩
    all_goals unfold setPr; split <;> rfl

/-- The file that a core ends with. -/
def ranFile (f : Firing) (units : List Core) (pr : BitVec 3) (g : RFile → RFile) (c : Core) : RFile :=
  if takes (fileOf f units false c) pr then g (fileOf f units false c) else fileOf f units false c

theorem runFile_keeps {x p : Nat → Bool} {f : Firing} {j : Nat} {uni : Bool} {pr : BitVec 3} {g : RFile → RFile}
    (hg : ∀ r, KeepsFile x p (g r) r) :
    ∃ f', runFile f (actingCores f j) uni pr (fun r => .ok (g r)) = .ok f' ∧ KeepsFiring x p (fun _ => false) f' f := by
  cases uni with
  | true =>
    simp only [runFile, if_true]
    split
    · exact ⟨_, rfl, (keepsFiring_flagAll _ _).trans (keepsFiring_putUniform (hg _).2)⟩
    · exact ⟨_, rfl, .refl _⟩
  | false =>
    have hgo : (fun c => if takes (fileOf f (actingCores f j) false c) pr then (Res.ok (g (fileOf f (actingCores f j) false c)) : Res RFile)
        else .ok (fileOf f (actingCores f j) false c)) = fun c => .ok (ranFile f (actingCores f j) pr g c) := by
      funext c
      unfold ranFile
      split <;> rfl
    refine ⟨putCores f (((actingCores f j).map (ranFile f (actingCores f j) pr g)).map fun r =>
      { r.core with nflags := r.core.nflags ||| r.fl }), ?_, ?_⟩
    · simp only [runFile, Bool.false_eq_true, if_false, hgo, collect_ok]
      rfl
    · refine keepsFiring_putCores fun d hd => ?_
      obtain ⟨r, hr, rfl⟩ := List.mem_map.mp hd
      obtain ⟨c, hc, rfl⟩ := List.mem_map.mp hr
      refine ⟨c, mem_cores_of_mem_actingCores hc, ?_⟩
      unfold ranFile
      split
      · exact (hg _).1
      · exact keepsCore_refl c

theorem keepsRest_of_fileInstr {i : OpA → Instr} {x p : OpA → Nat → Bool} {w : OpA → Site} {uni : OpA → Bool}
    {pr : OpA → BitVec 3} {g : OpA → State → Firing → RFile → Res RFile}
    (hexec : ∀ o s, exec (i o) s = fileInstr (w o) (uni o) (pr o) (g o) s)
    (hg : ∀ o s f r, ∃ r', g o s f r = .ok r' ∧ KeepsFile (x o) (p o) r' r) : KeepsRest i x p fun _ _ => false :=
  keepsRest_of_withFiring hexec fun o s f j t ht => by
    choose file hfile hkeeps using hg o s f
    obtain ⟨f', hrun, hkeeps⟩ := runFile_keeps (f := f) (j := j) (uni := uni o) (pr := pr o) hkeeps
    have hok : g o s f = fun r => .ok (file r) := funext hfile
    rw [hok, hrun] at ht
    exact .inr ⟨_, (Host.Outcome.next.inj ht).symm, (keepsFiring_advance _ _ _).trans hkeeps⟩

/-! #### Words on the vector files -/

theorem keepsCore_popCore {x p v : Nat → Bool} (lw le : Bool) (c : Core) : KeepsCore x p v (popCore lw le c) c := keepsCore_refl c

theorem keepsCore_setV {x p : Nat → Bool} (c : Core) (n : Nat) (mask : BitVec 16) (w : Vec) :
    KeepsCore x p (fun m => m == n) (setV c n mask w) c :=
  ⟨rfl, fun _ _ => ⟨rfl, rfl⟩, fun _ _ => ⟨rfl, rfl⟩, fun _ hm => vget_setIfInBounds_of_ne _ _ _ (by simpa using hm)⟩

theorem applyVec_keeps {x p v : Nat → Bool} {f f' : Firing} {dst : Option (BitVec 5)} {outs : List VOut}
    (hv : ∀ d, dst = some d → v d.toNat = true) (houts : ∀ r ∈ outs, ∃ k ∈ f.cores, KeepsCore x p v r.core k)
    (h : applyVec f dst outs = some f') : KeepsFiring x p v f' f := by
  unfold applyVec at h
  refine (keepsFiring_foldlM (fun f r f' hf => keepsFiring_foldlM (fun f e f' => keepsFiring_pushLink) hf) h).trans ?_
  refine keepsFiring_putCores fun d hd => ?_
  obtain ⟨r, hr, rfl⟩ := List.mem_map.mp hd
  obtain ⟨k, hk, hkeeps⟩ := houts r hr
  refine ⟨k, hk, ?_⟩
  cases dst with
  | none => exact hkeeps
  | some d =>
    dsimp only
    split
    · refine keepsCore_trans ?_ (show KeepsCore x p v { r.core with nflags := r.core.nflags ||| r.fl } k from hkeeps)
      obtain ⟨hi, hx, hp, hvv⟩ := keepsCore_setV (x := x) (p := p) { r.core with nflags := r.core.nflags ||| r.fl } d.toNat r.mask r.val
      exact ⟨hi, hx, hp, fun n hn => hvv n (beq_false_of_ne fun heq => by rw [heq, hv d rfl] at hn; cases hn)⟩
    · exact hkeeps

theorem keepsRest_of_vecInstr {i : OpA → Instr} {x p v : OpA → Nat → Bool} {w : OpA → Site} {srcs : OpA → List (BitVec 5)}
    {dst : OpA → Option (BitVec 5)} {on : OpA → Core → Bool} {g : OpA → VIn → Res VOut}
    (hexec : ∀ o s, exec (i o) s = vecInstr (w o) (srcs o) (dst o) (on o) (g o) s)
    (hv : ∀ o d, dst o = some d → v o d.toNat = true)
    (hg : ∀ o e, ∃ r, g o e = .ok r ∧ KeepsCore (x o) (p o) (v o) r.core e.core) : KeepsRest i x p v :=
  keepsRest_of_withFiring hexec fun o s f j t ht => by
    choose out hout hkeeps using hg o
    have hok : g o = fun e => .ok (out e) := funext hout
    dsimp only at ht
    rw [hok] at ht
    split at ht
    · exact .inl (Host.Outcome.next.inj ht).symm
    · rw [collect_ok] at ht
      dsimp only at ht
      split at ht
      · exact .inl (Host.Outcome.next.inj ht).symm
      next f' happly =>
        refine .inr ⟨_, (Host.Outcome.next.inj ht).symm, (keepsFiring_advance _ _ _).trans ?_⟩
        refine applyVec_keeps (hv o) (fun r hr => ?_) happly
        obtain ⟨c, hc, rfl⟩ := List.mem_map.mp hr
        exact ⟨c, mem_cores_of_mem_actingCores (List.mem_of_mem_filter hc), keepsCore_trans (hkeeps _) (keepsCore_popCore _ _ c)⟩

/-! ### The lists of words -/

/-- The registers that a word names as its destination. -/
def destIs (o : OpA) (n : Nat) : Bool := n == o.d.toNat

/-- No register. -/
def noneOf (_ : OpA) (_ : Nat) : Bool := false

theorem keepsRest_setS {i : OpA → Instr} {g : OpA → State → Firing → RFile → Res RFile}
    (hexec : ∀ o s, exec (i o) s = fileInstr (siteOf (i o)) (k1 o) o.pr (g o) s)
    (hg : ∀ o s f r, ∃ w fl, g o s f r = .ok (raise (setS r o.d.toNat w) fl)) : KeepsRest i destIs noneOf noneOf :=
  keepsRest_of_fileInstr hexec fun o s f r => by
    obtain ⟨w, fl, h⟩ := hg o s f r
    exact ⟨_, h, keepsFile_setS r _ w⟩

theorem keepsRest_setP {i : OpA → Instr} {g : OpA → State → Firing → RFile → Res RFile}
    (hexec : ∀ o s, exec (i o) s = fileInstr (siteOf (i o)) (k1 o) o.pr (g o) s)
    (hg : ∀ o s f r, ∃ m, g o s f r = .ok (setP r o.d.toNat m)) : KeepsRest i noneOf destIs noneOf :=
  keepsRest_of_fileInstr hexec fun o s f r => by
    obtain ⟨m, h⟩ := hg o s f r
    exact ⟨_, h, keepsFile_setP r _ m⟩

/-- A word whose vector result goes to d, and whose other results leave its core as it was. -/
theorem keepsRest_vector {i : OpA → Instr} {srcs : OpA → List (BitVec 5)} {g : OpA → VIn → Res VOut}
    (hexec : ∀ o s, exec (i o) s = vecInstr (siteOf (i o)) (srcs o) (some o.d) (fun _ => true) (g o) s)
    (hg : ∀ o e, ∃ r, g o e = .ok r ∧ r.core = e.core) : KeepsRest i noneOf noneOf destIs :=
  keepsRest_of_vecInstr hexec (fun o d hd => by cases hd; exact beq_self_eq_true _) fun o e => by
    obtain ⟨r, hr, hcore⟩ := hg o e
    exact ⟨r, hr, hcore ▸ keepsCore_refl _⟩

/-! #### One lemma for each shape of word -/

section
variable {i : OpA → Instr}

theorem keepsRest_scalarAB {g : OpA → Word → Word → Word × FlagBits}
    (hexec : ∀ o s, exec (i o) s = scalarAB (i o) o (g o) s) : KeepsRest i destIs noneOf noneOf :=
  keepsRest_setS (g := fun o _ _ r => .ok (raise (setS r o.d.toNat (g o (getS r o.a.toNat) (getS r o.b.toNat)).1)
    (g o (getS r o.a.toNat) (getS r o.b.toNat)).2)) hexec fun _ _ _ _ => ⟨_, _, rfl⟩

theorem keepsRest_idValue {n : OpA → Nat} (hexec : ∀ o s, exec (i o) s = idValue (siteOf (i o)) o (n o) s) :
    KeepsRest i destIs noneOf noneOf :=
  keepsRest_setS (g := fun o s f r => .ok (setS r o.d.toNat (sysRead s f r.core (n o)))) hexec
    fun _ _ _ _ => ⟨_, 0, by rw [raise_zero]⟩

theorem keepsRest_condAB {g : OpA → Word → Word → Bool} (hexec : ∀ o s, exec (i o) s = condAB (i o) o (g o) s) :
    KeepsRest i noneOf destIs noneOf :=
  keepsRest_setP (g := fun o _ _ r => .ok (setCond r o.d.toNat (g o (getS r o.a.toNat) (getS r o.b.toNat)))) hexec
    fun _ _ _ _ => ⟨_, rfl⟩

/-- A word that works on predicates bit by bit. -/
theorem keepsRest_plog {g : BitVec 16 → BitVec 16 → BitVec 16} (hexec : ∀ o s, exec (i o) s = fileInstr (siteOf (i o)) (k1 o) o.pr
      (fun _ _ r => .ok (setP r o.d.toNat (g (getP r o.a.toNat) (getP r o.b.toNat)))) s) : KeepsRest i noneOf destIs noneOf :=
  keepsRest_setP (g := fun o _ _ r => .ok (setP r o.d.toNat (g (getP r o.a.toNat) (getP r o.b.toNat)))) hexec
    fun _ _ _ _ => ⟨_, rfl⟩

/-- A comparison by element writes its predicate alone. -/
theorem keepsRest_vcmp {g : OpA → Nat → Nat → Bool × FlagBits}
    (hexec : ∀ o s, exec (i o) s = vcmp (siteOf (i o)) o (g o) s) : KeepsRest i noneOf destIs noneOf :=
  keepsRest_of_vecInstr (dst := fun _ => none) hexec (fun _ _ => nofun)
    fun o e => by exact ⟨_, rfl, (keepsFile_setP { core := e.core } o.d.toNat _).1⟩

theorem keepsRest_elementA {g : OpA → Nat → Nat × FlagBits}
    (hexec : ∀ o s, exec (i o) s = elementA (siteOf (i o)) o (g o) s) : KeepsRest i noneOf noneOf destIs :=
  keepsRest_vector (g := fun o v => .ok (elementOut v (maskOf v o.pr) (qWidth o.q) fun e =>
    g o (elemAt (qWidth o.q) (srcV v o.a) e))) hexec fun _ _ => ⟨_, rfl, rfl⟩

theorem keepsRest_elementAB {g : OpA → Nat → Nat → Nat × FlagBits}
    (hexec : ∀ o s, exec (i o) s = elementAB (siteOf (i o)) o (g o) s) : KeepsRest i noneOf noneOf destIs :=
  keepsRest_vector (g := fun o v => .ok (elementOut v (maskOf v o.pr) (qWidth o.q) fun e =>
    g o (elemAt (qWidth o.q) (srcV v o.a) e) (elemAt (qWidth o.q) (srcV v o.b) e))) hexec fun _ _ => ⟨_, rfl, rfl⟩

theorem keepsRest_elementABD {g : OpA → Nat → Nat → Nat → Nat × FlagBits}
    (hexec : ∀ o s, exec (i o) s = elementABD (siteOf (i o)) o (g o) s) : KeepsRest i noneOf noneOf destIs :=
  keepsRest_vector (g := fun o v => .ok (elementOut v (maskOf v o.pr) (qWidth o.q) fun e =>
    g o (elemAt (qWidth o.q) (srcV v o.a) e) (elemAt (qWidth o.q) (srcV v o.b) e) (elemAt (qWidth o.q) (srcV v o.d) e))) hexec
    fun _ _ => ⟨_, rfl, rfl⟩

/-- What a dot product puts into its vector register. -/
def dotOf (fa fb : Fmt) (lane : List Val → Nat → Nat × FlagBits) (o : OpA) (v : VIn) : Res VOut :=
  .ok (elementOut v (maskOf v o.pr) 32 fun e =>
    lane ((rangeFrom (32 / fmtWidth fa * e) (32 / fmtWidth fa)).map fun i =>
      valMul (decodeFmt fa (elemAt (fmtWidth fa) (srcV v o.a) i)) (decodeFmt fb (elemAt (fmtWidth fa) (srcV v o.b) i)))
      (elemAt 32 (srcV v o.d) e))

theorem keepsRest_vdot {fa fb : Fmt} {lane : List Val → Nat → Nat × FlagBits}
    (hexec : ∀ o s, exec (i o) s = vdot (siteOf (i o)) o fa fb lane s) : KeepsRest i noneOf noneOf destIs :=
  keepsRest_vector (g := dotOf fa fb lane) hexec fun _ _ => ⟨_, rfl, rfl⟩

theorem keepsRest_vred {g : OpA → Reduction} (hexec : ∀ o s, exec (i o) s = vred (siteOf (i o)) o (g o) s) :
    KeepsRest i noneOf noneOf destIs :=
  keepsRest_vector (g := fun o v => .ok (wholeOut v (g o (maskOf v o.pr) (srcV v o.a)).1 (g o (maskOf v o.pr) (srcV v o.a)).2))
    hexec fun _ _ => ⟨_, rfl, rfl⟩

theorem keepsRest_permute {g : OpA → VIn → Nat → Nat → Nat} {srcs : OpA → List (BitVec 5)}
    (hexec : ∀ o s, exec (i o) s = permute (siteOf (i o)) o (g o) (srcs o) s) : KeepsRest i noneOf noneOf destIs :=
  keepsRest_vector (g := fun o v => .ok (elementOut v (maskOf v o.pr) (qWidth o.q) fun e => (g o v (128 / qWidth o.q) e, 0)))
    hexec fun _ _ => ⟨_, rfl, rfl⟩

theorem keepsRest_convert {mode : Nat}
    (hexec : ∀ o s, exec (i o) s = vecInstr (siteOf (i o)) [o.a] (some o.d) (fun _ => true) (convert o mode) s) :
    KeepsRest i noneOf noneOf destIs :=
  keepsRest_vector (g := fun o => convert o mode) hexec fun _ _ => ⟨_, rfl, rfl⟩

theorem keepsRest_scaleVec {g : OpA → Vec → Nat → Val → Val}
    (hexec : ∀ o s, exec (i o) s = vecInstr (siteOf (i o)) [o.a, o.b] (some o.d) (fun _ => true) (scaleVec o g) s) :
    KeepsRest i noneOf noneOf destIs :=
  keepsRest_vector (g := fun o => scaleVec o g) hexec fun _ _ => ⟨_, rfl, rfl⟩

/-- A word that puts one vector together from the mask and the sources. -/
theorem keepsRest_whole {srcs : OpA → List (BitVec 5)} {g : OpA → VIn → Vec}
    (hexec : ∀ o s, exec (i o) s = vecInstr (siteOf (i o)) (srcs o) (some o.d) (fun _ => true)
      (fun v => .ok (wholeOut v (g o v) 0)) s) : KeepsRest i noneOf noneOf destIs :=
  keepsRest_vector (g := fun o v => .ok (wholeOut v (g o v) 0)) hexec fun _ _ => ⟨_, rfl, rfl⟩

end

/-! #### The words that stand alone -/

theorem keepsRest_plogGetx : KeepsRest .plogGetx destIs noneOf noneOf :=
  keepsRest_setS (g := fun o _ _ r => .ok (setS r o.d.toNat (if r.uni then (getP r o.a.toNat &&& 1).setWidth 64
    else (getP r o.a.toNat).setWidth 64))) (fun _ _ => rfl) fun _ _ _ _ => ⟨_, 0, by rw [raise_zero]⟩

theorem keepsRest_plogSetx : KeepsRest .plogSetx noneOf destIs noneOf :=
  keepsRest_setP (g := fun o _ _ r => .ok (if r.uni then setCond r o.d.toNat (getS r o.a.toNat != 0)
    else setP r o.d.toNat ((getS r o.a.toNat).setWidth 16))) (fun _ _ => rfl) fun _ _ _ r => by
    cases r.uni
    · exact ⟨_, rfl⟩
    · exact ⟨_, rfl⟩

/-- The lane that an extraction reads. -/
def extracted (o : OpA) (v : VIn) : Word :=
  BitVec.ofNat 64 (elemAt (qWidth o.q) (srcV v o.a) ((getX v.core o.b.toNat).toNat % (128 / qWidth o.q)))

theorem keepsRest_vmovExt : KeepsRest .vmovExt destIs noneOf noneOf :=
  keepsRest_of_vecInstr (w := fun o => siteOf (.vmovExt o)) (srcs := fun o => [o.a]) (dst := fun _ => none)
    (on := fun _ _ => true) (g := fun o v => .ok { core := setX v.core o.d.toNat (extracted o v) }) (fun _ _ => rfl)
    (fun _ _ => nofun) fun o v => ⟨_, rfl, (keepsFile_setS { core := v.core } o.d.toNat (extracted o v)).1⟩

theorem keepsRest_vmovBcast : KeepsRest .vmovBcast noneOf noneOf destIs :=
  keepsRest_vector (srcs := fun _ => []) (g := fun o v => .ok (elementOut v (maskOf v o.pr) (qWidth o.q) fun _ =>
    ((getX v.core o.a.toNat).toNat % 2 ^ qWidth o.q, 0))) (fun _ _ => rfl) fun _ _ => ⟨_, rfl, rfl⟩

/-- What an insertion puts into its vector register. -/
def inserted (o : OpA) (v : VIn) : VOut :=
  let w := qWidth o.q
  let i := (getX v.core o.b.toNat).toNat % (128 / w)
  let out := elementOut v (maskOf v o.pr) w fun e => if e == i then ((getX v.core o.a.toNat).toNat % 2 ^ w, 0) else (0, 0)
  { out with mask := out.mask &&& activeBytes (BitVec.ofNat 16 (2 ^ (w * i / 8))) w }

theorem keepsRest_vmovIns : KeepsRest .vmovIns noneOf noneOf destIs :=
  keepsRest_vector (srcs := fun _ => []) (g := fun o v => .ok (inserted o v)) (fun _ _ => rfl) fun _ _ => ⟨_, rfl, rfl⟩

/-! ### The lists of words -/

theorem keepsRest_aluWords : ∀ i ∈ [Instr.aluAdd, .aluSub, .aluAnd, .aluOr, .aluXor, .aluShl, .aluShr, .aluSra],
    KeepsRest i destIs noneOf noneOf := by
  simp only [List.forall_mem_cons, List.not_mem_nil, false_imp_iff, implies_true, and_true]
  and_intros
  all_goals exact keepsRest_scalarAB fun _ _ => rfl

theorem keepsRest_muldivWords : ∀ i ∈ [Instr.muldivMul, .muldivMulh, .muldivMulhu, .muldivDiv, .muldivDivu,
    .muldivRem, .muldivRemu], KeepsRest i destIs noneOf noneOf := by
  simp only [List.forall_mem_cons, List.not_mem_nil, false_imp_iff, implies_true, and_true]
  and_intros
  all_goals exact keepsRest_scalarAB fun _ _ => rfl

theorem keepsRest_bitsWords : ∀ i ∈ [Instr.bitsClz, .bitsCtz, .bitsPopc, .bitsBrev, .bitsBswap, .bitsExtu, .bitsExts,
    .bitsRotr], KeepsRest i destIs noneOf noneOf := by
  simp only [List.forall_mem_cons, List.not_mem_nil, false_imp_iff, implies_true, and_true]
  and_intros
  · exact keepsRest_scalarAB (g := fun o a _ =>
      (BitVec.ofNat 64 (if o.q == 1 then opClz 32 (a.setWidth 32) else opClz 64 a), 0)) fun _ _ => rfl
  · exact keepsRest_scalarAB (g := fun o a _ =>
      (BitVec.ofNat 64 (if o.q == 1 then opCtz 32 (a.setWidth 32) else opCtz 64 a), 0)) fun _ _ => rfl
  · exact keepsRest_scalarAB (g := fun o a _ =>
      (BitVec.ofNat 64 (if o.q == 1 then opPopc 32 (a.setWidth 32) else opPopc 64 a), 0)) fun _ _ => rfl
  · exact keepsRest_scalarAB fun _ _ => rfl
  · exact keepsRest_scalarAB fun _ _ => rfl
  · exact keepsRest_scalarAB (g := fun _ a b => (BitVec.ofNat 64 (bitField a b).1, 0)) fun _ _ => rfl
  · exact keepsRest_scalarAB (g := fun _ a b =>
      (if (bitField a b).2 == 0 then 0 else signExt64 (bitField a b).2 (bitField a b).1, 0)) fun _ _ => rfl
  · exact keepsRest_scalarAB fun _ _ => rfl

theorem keepsRest_minmaxWords : ∀ i ∈ [Instr.minmaxMin, .minmaxMax, .minmaxMinu, .minmaxMaxu, .minmaxAbs, .minmaxAdds,
    .minmaxSubs], KeepsRest i destIs noneOf noneOf := by
  simp only [List.forall_mem_cons, List.not_mem_nil, false_imp_iff, implies_true, and_true]
  and_intros
  all_goals exact keepsRest_scalarAB fun _ _ => rfl

theorem keepsRest_identityWords : ∀ i ∈ [Instr.idLvl, .idCore, .idGpos, .idGwid, .idClus, .idCnt, .idPkg], KeepsRest i
    destIs noneOf noneOf := by
  simp only [List.forall_mem_cons, List.not_mem_nil, false_imp_iff, implies_true, and_true]
  and_intros
  all_goals exact keepsRest_idValue fun _ _ => rfl

theorem keepsRest_compareWords : ∀ i ∈ [Instr.cmpEq, .cmpNe, .cmpLt, .cmpGe, .cmpLtu, .cmpGeu, .cmpTst], KeepsRest i
    noneOf destIs noneOf := by
  simp only [List.forall_mem_cons, List.not_mem_nil, false_imp_iff, implies_true, and_true]
  and_intros
  all_goals exact keepsRest_condAB fun _ _ => rfl

theorem keepsRest_elementCompareWords : ∀ i ∈ [Instr.vcmpEq, .vcmpNe, .vcmpLt, .vcmpLe, .vcmpLtu, .vcmpLeu, .vcmpUn],
    KeepsRest i noneOf destIs noneOf := by
  simp only [List.forall_mem_cons, List.not_mem_nil, false_imp_iff, implies_true, and_true]
  and_intros
  all_goals exact keepsRest_vcmp fun _ _ => rfl

theorem keepsRest_vectorArithWords : ∀ i ∈ [Instr.varithAdd, .varithSub, .varithMul, .varithMin, .varithMax,
    .varithAdds, .varithSubs], KeepsRest i noneOf noneOf destIs := by
  simp only [List.forall_mem_cons, List.not_mem_nil, false_imp_iff, implies_true, and_true]
  and_intros
  all_goals exact keepsRest_elementAB fun _ _ => rfl

theorem keepsRest_fusedWords : ∀ i ∈ [Instr.vfmaFma, .vfmaFms, .vfmaFnma, .vfmaFnms], KeepsRest i noneOf noneOf destIs
    := by
  simp only [List.forall_mem_cons, List.not_mem_nil, false_imp_iff, implies_true, and_true]
  and_intros
  all_goals exact keepsRest_elementABD fun _ _ => rfl

theorem keepsRest_dotWords : ∀ i ∈ [Instr.vdotBf16, .vdotFp16, .vdotE4m3, .vdotE5m2, .vdotI8, .vdotU8, .vdotI8u8],
    KeepsRest i noneOf noneOf destIs := by
  simp only [List.forall_mem_cons, List.not_mem_nil, false_imp_iff, implies_true, and_true]
  and_intros
  all_goals exact keepsRest_vdot fun _ _ => rfl

theorem keepsRest_reductionWords : ∀ i ∈ [Instr.vredAdd, .vredMin, .vredMax, .vredAddw, .vredAnd, .vredOr, .vredXor,
    .vredImax], KeepsRest i noneOf noneOf destIs := by
  simp only [List.forall_mem_cons, List.not_mem_nil, false_imp_iff, implies_true, and_true]
  and_intros
  all_goals exact keepsRest_vred fun _ _ => rfl

theorem keepsRest_shiftWords : ∀ i ∈ [Instr.vlogicShl, .vlogicShr, .vlogicSra], KeepsRest i noneOf noneOf destIs := by
  simp only [List.forall_mem_cons, List.not_mem_nil, false_imp_iff, implies_true, and_true]
  and_intros
  all_goals exact keepsRest_elementAB fun _ _ => rfl

theorem keepsRest_conversionWords : ∀ i ∈ [Instr.vcvtRne, .vcvtRtz, .vcvtRup, .vcvtRdn, .vcvtSto], KeepsRest i noneOf
    noneOf destIs := by
  simp only [List.forall_mem_cons, List.not_mem_nil, false_imp_iff, implies_true, and_true]
  and_intros
  all_goals exact keepsRest_convert fun _ _ => rfl

theorem keepsRest_scaleWords : ∀ i ∈ [Instr.vscaleLdexp, .vscaleMx, .vscaleSb4, .vscaleCb], KeepsRest i noneOf noneOf
    destIs := by
  simp only [List.forall_mem_cons, List.not_mem_nil, false_imp_iff, implies_true, and_true]
  and_intros
  all_goals exact keepsRest_scaleVec fun _ _ => rfl

theorem keepsRest_specialWords : ∀ i ∈ [Instr.vsfuExp2, .vsfuLog2, .vsfuRcp, .vsfuRsqrt, .vsfuSqrt, .vsfuSin,
    .vsfuCos, .vsfuTanh, .vsfu2Sigm, .vsfu2Gelut, .vsfu2Gelue, .vsfu2Silu, .vsfu2Erf, .vsfu2Softp], KeepsRest i noneOf
    noneOf destIs := by
  simp only [List.forall_mem_cons, List.not_mem_nil, false_imp_iff, implies_true, and_true]
  and_intros
  all_goals exact keepsRest_elementA fun _ _ => rfl

theorem keepsRest_permutationWords : ∀ i ∈ [Instr.vpermZiplo, .vpermZiphi, .vpermUzpe, .vpermUzpo, .vpermSplat,
    .vpermRev], KeepsRest i noneOf noneOf destIs := by
  simp only [List.forall_mem_cons, List.not_mem_nil, false_imp_iff, implies_true, and_true]
  and_intros
  · exact keepsRest_permute (g := fun o v _ e => elemAt (qWidth o.q) (srcV v (if e % 2 == 0 then o.a else o.b)) (e / 2))
      (srcs := fun o => [o.a, o.b]) fun _ _ => rfl
  · exact keepsRest_permute
      (g := fun o v n e => elemAt (qWidth o.q) (srcV v (if e % 2 == 0 then o.a else o.b)) (e / 2 + n / 2))
      (srcs := fun o => [o.a, o.b]) fun _ _ => rfl
  · exact keepsRest_permute (g := fun o v n e => if e < n / 2 then elemAt (qWidth o.q) (srcV v o.a) (2 * e)
      else elemAt (qWidth o.q) (srcV v o.b) (2 * (e - n / 2))) (srcs := fun o => [o.a, o.b]) fun _ _ => rfl
  · exact keepsRest_permute (g := fun o v n e => if e < n / 2 then elemAt (qWidth o.q) (srcV v o.a) (2 * e + 1)
      else elemAt (qWidth o.q) (srcV v o.b) (2 * (e - n / 2) + 1)) (srcs := fun o => [o.a, o.b]) fun _ _ => rfl
  · exact keepsRest_permute (g := fun o v n _ => elemAt (qWidth o.q) (srcV v o.a) ((getX v.core o.b.toNat).toNat % n))
      (srcs := fun o => [o.a]) fun _ _ => rfl
  · exact keepsRest_permute (g := fun o v n e => elemAt (qWidth o.q) (srcV v o.a) (n - 1 - e))
      (srcs := fun o => [o.a]) fun _ _ => rfl

/-- The byte that `perm` brings to place j. -/
def permByte (o : OpA) (v : VIn) (_ j : Nat) : Nat :=
  let i := elemAt 8 (srcV v o.b) j
  if 128 ≤ i then 0
  else if i % 32 < 16 then elemAt 8 (srcV v o.a) (i % 32)
  else elemAt 8 (srcV v o.d) (i % 32 - 16)

theorem keepsRest_vpermPerm : KeepsRest .vpermPerm noneOf noneOf destIs :=
  keepsRest_permute (g := permByte) (srcs := fun o => [o.a, o.b]) fun _ _ => rfl

theorem keepsRest_bitwiseWords : ∀ i ∈ [Instr.vlogicAnd, .vlogicOr, .vlogicXor, .vlogicAndn], KeepsRest i noneOf
    noneOf destIs := by
  simp only [List.forall_mem_cons, List.not_mem_nil, false_imp_iff, implies_true, and_true]
  and_intros
  all_goals exact keepsRest_elementAB fun _ _ => rfl

theorem keepsRest_vlogicNot : KeepsRest .vlogicNot noneOf noneOf destIs :=
  keepsRest_elementA (g := fun o a => (2 ^ qWidth o.q - 1 - a, 0)) fun _ _ => rfl

theorem keepsRest_varithAbs : KeepsRest .varithAbs noneOf noneOf destIs := keepsRest_elementA fun _ _ => rfl

theorem keepsRest_vmovMov : KeepsRest .vmovMov noneOf noneOf destIs :=
  keepsRest_elementA (g := fun _ a => (a, 0)) fun _ _ => rfl

theorem keepsRest_vcvtWide : KeepsRest .vcvtWide noneOf noneOf destIs :=
  keepsRest_vector (g := widen) (fun _ _ => rfl) fun _ _ => ⟨_, rfl, rfl⟩

theorem keepsRest_vcbDec : KeepsRest .vcbDec noneOf noneOf destIs :=
  keepsRest_vector (g := cbDec) (fun _ _ => rfl) fun _ _ => ⟨_, rfl, rfl⟩

theorem keepsRest_selectionWords : ∀ i ∈ [Instr.vselSel, .vselZero, .vselCmpr, .vselExpd], KeepsRest i noneOf noneOf
    destIs := by
  simp only [List.forall_mem_cons, List.not_mem_nil, false_imp_iff, implies_true, and_true]
  and_intros
  · exact keepsRest_whole (srcs := fun o => [o.a, o.b])
      (g := fun o v => selBytes (maskOf v o.pr) (srcV v o.a) (srcV v o.b)) fun _ _ => rfl
  · exact keepsRest_whole (srcs := fun o => [o.a]) (g := fun o v => selBytes (maskOf v o.pr) (srcV v o.a) 0) fun _ _ => rfl
  · exact keepsRest_whole (srcs := fun o => [o.a]) (g := fun o v =>
      packElems (qWidth o.q) (compress (maskOf v o.pr) (qWidth o.q) (elems (qWidth o.q) (srcV v o.a)))) fun _ _ => rfl
  · exact keepsRest_whole (srcs := fun o => [o.a]) (g := fun o v => packElems (qWidth o.q)
      (expand (maskOf v o.pr) (qWidth o.q) 0 (elems (qWidth o.q) (srcV v o.a)) (128 / qWidth o.q))) fun _ _ => rfl

theorem keepsRest_predicateWords : ∀ i ∈ [Instr.plogAnd, .plogOr, .plogXor, .plogAndn, .plogNot], KeepsRest i noneOf
    destIs noneOf := by
  simp only [List.forall_mem_cons, List.not_mem_nil, false_imp_iff, implies_true, and_true]
  and_intros
  · exact keepsRest_plog (g := fun a b => a &&& b) fun _ _ => rfl
  · exact keepsRest_plog (g := fun a b => a ||| b) fun _ _ => rfl
  · exact keepsRest_plog (g := fun a b => a ^^^ b) fun _ _ => rfl
  · exact keepsRest_plog (g := fun a b => a &&& ~~~b) fun _ _ => rfl
  · exact keepsRest_plog (g := fun a _ => ~~~a) fun _ _ => rfl

/-! ### The lists of words -/

theorem forall_mem_cons_of {α : Type} {a : α} {l : List α} {p : α → Prop} (h : p a) (hl : ∀ b ∈ l, p b) : ∀ b ∈ a :: l, p b :=
  List.forall_mem_cons.mpr ⟨h, hl⟩

theorem forall_mem_append_of {α : Type} {l m : List α} {p : α → Prop} (hl : ∀ b ∈ l, p b) (hm : ∀ b ∈ m, p b) :
    ∀ b ∈ l ++ m, p b :=
  List.forall_mem_append.mpr ⟨hl, hm⟩

/-- Settles O54: each word runs its body on the acting firing, and what its body leaves is all that its shape can write. -/
theorem registerWordsKeepTheRest : Obligations.RegisterWordsKeepTheRest := by
  refine ⟨?toScalar, ?toPredicate, ?toVector⟩
  case toScalar =>
    exact forall_mem_append_of keepsRest_aluWords <| forall_mem_append_of keepsRest_muldivWords <|
      forall_mem_append_of keepsRest_bitsWords <| forall_mem_append_of keepsRest_minmaxWords <|
      forall_mem_cons_of keepsRest_plogGetx <| forall_mem_append_of keepsRest_identityWords <|
      List.forall_mem_singleton.mpr keepsRest_vmovExt
  case toPredicate =>
    exact forall_mem_append_of keepsRest_compareWords <| forall_mem_append_of keepsRest_predicateWords <|
      forall_mem_cons_of keepsRest_plogSetx keepsRest_elementCompareWords
  case toVector =>
    exact forall_mem_append_of keepsRest_vectorArithWords <| forall_mem_cons_of keepsRest_varithAbs <|
      forall_mem_append_of keepsRest_fusedWords <| forall_mem_append_of keepsRest_dotWords <|
      forall_mem_append_of keepsRest_reductionWords <| forall_mem_append_of keepsRest_bitwiseWords <|
      forall_mem_cons_of keepsRest_vlogicNot <| forall_mem_append_of keepsRest_shiftWords <|
      forall_mem_append_of keepsRest_selectionWords <| forall_mem_append_of keepsRest_conversionWords <|
      forall_mem_cons_of keepsRest_vcvtWide <| forall_mem_append_of keepsRest_scaleWords <|
      forall_mem_cons_of keepsRest_vcbDec <| forall_mem_append_of keepsRest_specialWords <|
      forall_mem_cons_of keepsRest_vmovMov <| forall_mem_cons_of keepsRest_vmovBcast <|
      forall_mem_cons_of keepsRest_vmovIns <| forall_mem_cons_of keepsRest_vpermPerm keepsRest_permutationWords

end Sys2Proof.Proofs.KeptRegisters
end

section
/-! SUPPORT. The state after reset (R176, R233, R348, R402). -/

namespace Sys2Proof.Proofs.Reset

open Sys2Proof.Machine

/-- Every tenant's registers stand at their reset values. -/
theorem tenantOf_reset (v : Nat) : tenantOf State.reset v = {} := by
  have hlist : State.reset.tenants.toList = List.replicate 16 {} := rfl
  rw [tenantOf, hlist, List.getElem?_replicate]
  split
  · rfl
  · rfl

/-- Settles O60: each field is written in the reset state, and all tenants are alike. -/
theorem resetHolds : Obligations.ResetHolds := by
  refine ⟨rfl, rfl, rfl, rfl, rfl, rfl, fun v _ => ?_⟩
  rw [tenantOf_reset]
  exact ⟨rfl, rfl, rfl, rfl, rfl, rfl, rfl⟩

end Sys2Proof.Proofs.Reset
end

section
/-! SUPPORT. The words that the spec writes out (R64 to R71, R75, R79). -/

namespace Sys2Proof.Proofs.WordsWrittenOut

open Sys2Proof.Machine

/-- A word whose format is short decodes by its candidate, whatever stands after it. -/
theorem decodeKernel_of_short {w0 : W32} (h : isLong w0 = false) (w1 : W32) : decodeKernel w0 w1 = checked (candidateShort w0) := by
  simp [decodeKernel, h]

/-- Settles O57: each word decodes by evaluation of its format, its fields and its bounds. -/
theorem wordsDecode : Obligations.WordsDecode := by
  refine ⟨fun w1 => ?_, fun w1 => ?_, fun w1 => ?_, fun w1 => ?_, fun w1 => ?_, fun w1 => ?_, rfl, rfl, rfl, rfl, fun w1 => ?_, rfl⟩
  all_goals
    rw [decodeKernel_of_short rfl]
    rfl

end Sys2Proof.Proofs.WordsWrittenOut
end

section
/-! SUPPORT. What a step runs (R63, R74, R75, R79, R80). -/

namespace Sys2Proof.Proofs.Steps

open Sys2Proof.Machine

/-- A step with a plan takes its first move. -/
theorem step_of_plan {s : State} {m : Move} {ms : List Move} (h : s.plan = m :: ms) : step s = runMove m (setPlan s ms) := by
  rw [step, h]

/-! ### A core -/

section
variable {s : State} {c i : Nat} {f : Firing}

theorem runCore_of_none (h : firingAt s c i = none) : runCore s c i = .next s := by rw [runCore, h]

theorem runCore_of_waits (h : firingAt s c i = some f) (hw : waits f (actingCores f i) = true) : runCore s c i = .next s := by
  simp only [runCore, h, hw, if_true]

theorem runCore_of_words (h : firingAt s c i = some f) (hw : waits f (actingCores f i) = false) {s' : State} {w0 w1 : W32}
    (hfetch : fetchAt s f (pcOf (actingCores f i)) = (s', .words w0 w1)) : runCore s c i = runWords s' w0 w1 := by
  simp only [runCore, h, hw, Bool.false_eq_true, if_false, hfetch]

theorem runCore_of_failed (h : firingAt s c i = some f) (hw : waits f (actingCores f i) = false) {s' : State} {addr : Word}
    {sub : Nat} {w0 : W32} (hfetch : fetchAt s f (pcOf (actingCores f i)) = (s', .failed addr sub w0)) :
    runCore s c i = exec (.instructionFetchFault addr sub w0) s' := by
  simp only [runCore, h, hw, Bool.false_eq_true, if_false, hfetch]

theorem runWords_of_instr {w0 w1 : W32} {j : Instr} (h : decodeKernel w0 w1 = .instr j) : runWords s w0 w1 = exec j s := by
  rw [runWords, h]

theorem runWords_of_reject {w0 w1 : W32} {r : Reject} (h : decodeKernel w0 w1 = .reject r) :
    runWords s w0 w1 = exec (.illegalEncoding w0 w1) s := by
  rw [runWords, h]

end

/-! ### An agent -/

section
variable {s : State} {k : Slot}

theorem actingSlot_of_running {n : Nat} (hcur : s.cur = .agent n) (h : slotOf s n = some k) (hst : k.st = .running) :
    actingSlot s = some k := by
  simp [actingSlot, hcur, h, hst]

theorem runAgent_of_fetch_none (h : actingSlot s = some k) (howed : k.owed = false) (hkl : k.klaunch = none)
    (hfetch : agentFetch s k = none) : runAgent s = exec .agentFetchFault s := by
  simp only [runAgent, h, howed, hkl, hfetch, Bool.false_eq_true, if_false, Option.isSome_none]

theorem runAgent_of_instr (h : actingSlot s = some k) (howed : k.owed = false) (hkl : k.klaunch = none) {s' : State} {w : Word}
    (hfetch : agentFetch s k = some (s', w)) {j : Instr} (hd : decodeAgent w = .instr j) : runAgent s = exec j s' := by
  simp only [runAgent, h, howed, hkl, hfetch, hd, Bool.false_eq_true, if_false, Option.isSome_none]

theorem runAgent_of_reject (h : actingSlot s = some k) (howed : k.owed = false) (hkl : k.klaunch = none) {s' : State} {w : Word}
    (hfetch : agentFetch s k = some (s', w)) {r : Reject} (hd : decodeAgent w = .reject r) :
    runAgent s = exec (.agentIllegalWord w) s' := by
  simp only [runAgent, h, howed, hkl, hfetch, hd, Bool.false_eq_true, if_false, Option.isSome_none]

end

/-- Settles O56: a step is the first move of the plan, and a party's move goes on by what its fetch finds. -/
theorem stepsRunTheDecodedInstruction : Obligations.StepsRunTheDecodedInstruction := by
  intro s ms
  refine ⟨fun c i hplan => ?core, fun n k hplan => ?agent, fun j hplan hevent hwf => ?event⟩
  case core =>
    have hstep : step s = runCore (setCur (setPlan s ms) (.core c i)) c i := step_of_plan hplan
    rw [hstep]
    refine ⟨runCore_of_none, fun f hf => ⟨runCore_of_waits hf, fun hw => ⟨fun s2 w0 w1 hfetch => ?_, fun s2 addr sub w0 =>
      runCore_of_failed hf hw⟩⟩⟩
    rw [runCore_of_words hf hw hfetch]
    exact ⟨fun j => runWords_of_instr, fun r => runWords_of_reject⟩
  case agent =>
    intro s1 hslot hst howed hkl
    have hstep : step s = runAgent s1 := step_of_plan hplan
    have hact : actingSlot s1 = some k := actingSlot_of_running rfl hslot hst
    rw [hstep]
    exact ⟨runAgent_of_fetch_none hact howed hkl, fun s2 w hfetch =>
      ⟨fun j => runAgent_of_instr hact howed hkl hfetch, fun r => runAgent_of_reject hact howed hkl hfetch⟩⟩
  case event =>
    have hstep : step s = runEvent j (setPlan s ms) := step_of_plan hplan
    simp only [hstep, runEvent, hevent, hwf, Bool.and_self, if_true]

end Sys2Proof.Proofs.Steps
end

section
/-! SUPPORT. What the fetch of a word that is no instruction comes to (R74, R75, R374). -/

namespace Sys2Proof.Proofs.FetchTraps

open Sys2Proof.Machine Sys2Proof.Proofs.Steps

section
variable {s : State} {c i : Nat} {f : Firing}

/-- The trap of a fetch whose outcome the row takes. -/
theorem fetchTrap_of_some {row : String} {g : Fetched → Option (Nat × Nat × Word × W32 × W32)} (hcur : s.cur = .core c i)
    (hf : firingAt s c i = some f) {s' : State} {r : Fetched} (hfetch : fetchAt s f (pcOf (actingCores f i)) = (s', r))
    {cause sub : Nat} {addr : Word} {w0 w1 : W32} (hg : g r = some (cause, sub, addr, w0, w1)) :
    fetchTrap row g s = .next (trapFiring s' { f with issued := true }
      { core := lowest (actingCores f i), cause := cause, sub := sub, addr := addr } w0 w1) := by
  simp only [fetchTrap, hcur, hf, hfetch, hg]

theorem illegalEncoding_traps (hcur : s.cur = .core c i) (hf : firingAt s c i = some f) {s' : State} {w0 w1 : W32}
    (hfetch : fetchAt s f (pcOf (actingCores f i)) = (s', .words w0 w1)) :
    exec (.illegalEncoding w0 w1) s = .next (trapFiring s' { f with issued := true }
      { core := lowest (actingCores f i), cause := 0x01, sub := 0, addr := 0 } w0 w1) := by
  show execIllegalEncoding w0 w1 s = _
  rw [execIllegalEncoding]
  exact fetchTrap_of_some hcur hf hfetch (by simp only [beq_self_eq_true, Bool.and_self, if_true])

theorem instructionFetchFault_traps (hcur : s.cur = .core c i) (hf : firingAt s c i = some f) {s' : State} {addr : Word}
    {sub : Nat} {w0 : W32} (hfetch : fetchAt s f (pcOf (actingCores f i)) = (s', .failed addr sub w0)) :
    exec (.instructionFetchFault addr sub w0) s = .next (trapFiring s' { f with issued := true }
      (if sub = 0x0D then { core := lowest (actingCores f i), cause := 0x0D, sub := 0, addr := addr }
       else { core := lowest (actingCores f i), cause := 0x02, sub := sub, addr := addr }) w0 0) := by
  show execInstructionFetchFault addr sub w0 s = _
  rw [execInstructionFetchFault]
  by_cases hsub : sub = 0x0D
  · rw [if_pos hsub]
    exact fetchTrap_of_some hcur hf hfetch (by simp [hsub])
  · rw [if_neg hsub]
    exact fetchTrap_of_some hcur hf hfetch (by simp [hsub])

end

/-- Settles O36: each fetch event traps with what the fetch of the acting party finds. -/
theorem fetchOutcomesTrap : Obligations.FetchOutcomesTrap := by
  refine ⟨fun s c i f hcur hf => ⟨fun s' w0 w1 => illegalEncoding_traps hcur hf, fun s' addr sub w0 =>
    instructionFetchFault_traps hcur hf⟩, fun s n k hcur hslot hst => ?_⟩
  have hact : actingSlot s = some k := actingSlot_of_running hcur hslot hst
  refine ⟨fun s' w hfetch hlegal => ?_, fun hfetch => ?_⟩
  · show execAgentIllegalWord w s = _
    simp only [execAgentIllegalWord, hact, hfetch, hlegal, bne_self_eq_false, Bool.or_self, Bool.false_eq_true, if_false]
    rfl
  · show execAgentFetchFault s = _
    simp only [execAgentFetchFault, hact, hfetch]
    rfl

end Sys2Proof.Proofs.FetchTraps
end

section
/-! SUPPORT. Tenants' registers after a write, and how the part and its functions start (R400, R406, R407, R410). -/

namespace Sys2Proof.Proofs.PartAndFunctions

open Sys2Proof.Machine Sys2Proof.Proofs.Canonical

/-! ### A tenant's registers -/

@[simp] theorem tenantOf_putTenant {v : Nat} (s : State) (t : Tenant) (hv : v < 16) : tenantOf (putTenant s v t) v = t := by
  simp [tenantOf, putTenant, setTenants, hv]

theorem tenantOf_putTenant_of_ne {v w : Nat} (s : State) (t : Tenant) (h : w ≠ v) :
    tenantOf (putTenant s v t) w = tenantOf s w := by
  simp [tenantOf, putTenant, setTenants, h.symm]

@[simp] theorem tenantOf_setCfg (s : State) (c : Cfg) (v : Nat) : tenantOf (setCfg s c) v = tenantOf s v := rfl

@[simp] theorem tenantOf_sendMsix (s : State) (v vec w : Nat) : tenantOf (sendMsix s v vec) w = tenantOf s w := rfl

/-- A function's state is the one put, and no other register of it changes (R406). -/
theorem tenantOf_setVstate {v : Nat} (s : State) (n : Nat) (hv : v < 16) :
    tenantOf (setVstate s v n) v = { tenantOf s v with vstate := n } := by
  by_cases h : (tenantOf s v).vstate = n
  · simp only [setVstate, h, beq_self_eq_true, if_true]
    rw [← h]
  · simp only [setVstate, beq_iff_eq, h, if_false, tenantOf_sendMsix, tenantOf_putTenant _ _ hv]

theorem setVstate_launches (s : State) (v n : Nat) : (setVstate s v n).launches = s.launches := by
  unfold setVstate
  dsimp only
  split
  · rfl
  · rfl

/-! ### Start-up and states of a function -/

theorem powerOn_next {s : State} (h : s.cfg.powered = false) :
    exec .powerOn s = .next (setCfg s { s.cfg with powered := true }) := by
  show execPowerOn s = _
  simp only [execPowerOn, h, Bool.false_eq_true, if_false]

theorem partReady_next {s : State} (links : BitVec 18) (hpowered : s.cfg.powered = true) (hready : s.cfg.ready = false) :
    let s1 := setCfg s { s.cfg with ready := true, links := links }
    exec (.partReady links) s =
      .next (setVstate (sendMsix (putTenant s1 0 { tenantOf s1 0 with enabled := true }) 0 3) 0 1) := by
  show execPartReady links s = _
  simp only [execPartReady, hpowered, hready, Bool.not_true, Bool.or_self, Bool.false_eq_true, if_false]

/-- An enabled VF configures, with its credibility and its queue's head at 0 and its clusters kept (R400, R406). -/
theorem vfEnable_next {s : State} {v : Nat} (hpos : 1 ≤ v) (hv : v < 16) (henabled : (tenantOf s v).enabled = false)
    (hready : s.cfg.ready = true) : ∃ s1, exec (.vfEnable v) s = .next s1 ∧
      (tenantOf s1 v).enabled = true ∧ (tenantOf s1 v).vstate = 1 ∧ (tenantOf s1 v).cred = 0 ∧ (tenantOf s1 v).lqhead = 0 ∧
      (tenantOf s1 v).clmask = (tenantOf s v).clmask ∧ s1.mem = s.mem ∧ s1.launches = s.launches := by
  have hzero : (v == 0) = false := beq_false_of_ne (by omega)
  show ∃ s1, execVfEnable v s = .next s1 ∧ _
  simp only [execVfEnable, hzero, henabled, hready, Nat.not_le.mpr hv, decide_false, Bool.not_true, Bool.or_self,
    Bool.false_eq_true, if_false]
  refine ⟨_, rfl, ?_⟩
  rw [tenantOf_setVstate _ _ hv, tenantOf_putTenant _ _ hv, setVstate_mem, setVstate_launches]
  exact ⟨rfl, rfl, rfl, rfl, rfl, rfl, rfl⟩

theorem vcmdReady_next {s : State} {v : Nat} (h : (tenantOf s v).vstate = 1) :
    exec (.vcmdReady v) s = .next (setVstate s v (if configOk s v then 2 else 4)) := by
  show Host.Outcome.next (readyTenant s v) = _
  simp only [readyTenant, h, bne_self_eq_false, Bool.false_eq_true, if_false]

theorem vcmdReady_ignored {s : State} {v : Nat} (h : (tenantOf s v).vstate ≠ 1) : exec (.vcmdReady v) s = .next s := by
  show Host.Outcome.next (readyTenant s v) = _
  simp only [readyTenant, bne_iff_ne, ne_eq, h, not_false_eq_true, if_true]

theorem reset_next {s : State} {v : Nat} (h : (tenantOf s v).enabled = true) :
    exec (.vcmdReset v) s = .next (resetTenant s v) ∧ exec (.functionLevelReset v) s = .next (resetTenant s v) := by
  constructor
  · show execVcmdReset v s = _
    rw [execVcmdReset, if_pos h]
  · show execFunctionLevelReset v s = _
    rw [execFunctionLevelReset, if_pos h]

theorem windowUncorrectableError_next {s : State} {v die off : Nat} (h : off < windowSize s v die) :
    exec (.windowUncorrectableError v die off) s = .next (setL2 s
      { s.l2 with lost := (rangeFrom (windowKey s v die (off / 256 * 256)) 256).foldr insertNat s.l2.lost }) := by
  show execWindowUncorrectableError v die off s = _
  rw [execWindowUncorrectableError, if_neg (Nat.not_le.mpr h)]

/-- Settles O43: one lemma for each event. -/
theorem partAndFunctionsStart : Obligations.PartAndFunctionsStart := fun _ _ =>
  ⟨powerOn_next, partReady_next, rfl, vfEnable_next, vcmdReady_ignored, vcmdReady_next, reset_next, rfl,
    fun _ _ => windowUncorrectableError_next⟩

end Sys2Proof.Proofs.PartAndFunctions
end

section
/-! SUPPORT. Writes to a function's registers (R6, R371, R401, R406). -/

namespace Sys2Proof.Proofs.RegisterWrites

open Sys2Proof.Machine

/-- Two halves of 32 bits make the word that they are of. -/
theorem pair32_halves (w : Word) : pair32 (w.toNat % 2 ^ 32) (w.toNat / 2 ^ 32) = w := by
  apply BitVec.eq_of_toNat_eq
  have hw := w.isLt
  rw [pair32, BitVec.toNat_ofNat]
  omega

/-- A write of 8 bytes is the whole of the new word. -/
theorem mergeWord_of_eight (old : Word) (off : Nat) (val : Word) : mergeWord old off 8 val = val := pair32_halves val

section
variable {s : State} {v off size : Nat} {val : Word}

theorem registerWrite_disabled {bar : Nat} (h : (tenantOf s v).enabled = false) :
    exec (.registerWrite v bar off size val) s = .refused (.notEnabled "REGISTER_WRITE") := by
  show execRegisterWrite v bar off size val s = _
  simp only [execRegisterWrite, h, Bool.not_false, Bool.or_true, if_true]
  rfl

/-- A write that a function takes up: its page, the PF's registers, or the pages of its slots (R401). -/
theorem registerWrite_next {bar : Nat} (hv : v < 16) (hen : (tenantOf s v).enabled = true) (hbar : bar = 0 ∨ bar = 2) :
    exec (.registerWrite v bar off size val) s = .next
      (if pageAccess off size = false then s
       else if bar = 2 then
         if (tenantOf s v).scount.toNat ≤ off / 4096 then s
         else writeSlotPage s ((tenantOf s v).sbase.toNat + off / 4096) (off % 4096) size val
       else if off < 0x1000 then writePage s v off size val
       else if v = 0 ∧ size = 8 then writePf s off val else s) := by
  have hbar' : (bar == 0 || bar == 2) = true := by simpa using hbar
  show execRegisterWrite v bar off size val s = _
  simp only [execRegisterWrite, hbar', hen, Nat.not_le.mpr hv, decide_false, Bool.not_true, Bool.or_self, Bool.false_eq_true,
    if_false, beq_iff_eq, Bool.and_eq_true, Bool.not_eq_true']
  repeat' split
  all_goals rfl

theorem writePage_reserved (h : off < 0x010) : writePage s v off size val = s := by
  have hw : off / 8 * 8 = 0 ∨ off / 8 * 8 = 8 := by omega
  obtain hw | hw := hw
  · simp only [writePage, hw]
  · simp only [writePage, hw]

theorem writePage_troot : writePage s v 0x020 8 val = putTenant s v { tenantOf s v with troot := val } := by
  simp only [writePage, mergeWord_of_eight]

theorem writePage_faccept : writePage s v 0x010 8 val =
    if (tenantOf s v).vstate = 1 then putTenant s v { tenantOf s v with faccept := val } else s := by
  simp only [writePage, mergeWord_of_eight, beq_iff_eq]

theorem writePage_pool : writePage s v 0x048 8 val =
    if (tenantOf s v).vstate = 1 then putTenant s v { tenantOf s v with pool := val } else s := by
  simp only [writePage, mergeWord_of_eight, beq_iff_eq]

end

/-- Settles O46: a write goes to a page of its function, or changes nothing. -/
theorem registersAreWritten : Obligations.RegistersAreWritten := by
  refine ⟨fun s v bar off size val => registerWrite_disabled, fun s v bar off size val hv hen => ?_⟩
  have hwrite {bar : Nat} := registerWrite_next (s := s) (off := off) (size := size) (val := val) (bar := bar) hv hen
  have hpage (hbar : bar = 0) (hacc : pageAccess off size = true) (hoff : off < 0x1000) :
      exec (.registerWrite v bar off size val) s = .next (writePage s v off size val) := by
    rw [hwrite (.inl hbar), if_neg (by simp [hacc]), if_neg (by omega), if_pos hoff]
  refine ⟨fun hacc hbar => ?_, fun hacc => ⟨fun hbar hoff hpf => ?_, fun hbar hoff hv0 hsize => ?_, fun hbar hslot => ?_,
    fun hbar hslot => ?_, fun hbar hoff hsize => ?_, fun hbar hoff hsize => ?_, fun hbar hoff hsize => ?_,
    fun hbar hoff => ?_⟩⟩
  · rw [hwrite hbar, if_pos hacc]
  · rw [hwrite (.inl hbar), if_neg (by simp [hacc]), if_neg (by omega), if_neg (by omega), if_neg (by omega)]
  · rw [hwrite (.inl hbar), if_neg (by simp [hacc]), if_neg (by omega), if_neg (by omega), if_pos ⟨hv0, hsize⟩]
  · rw [hwrite (.inr hbar), if_neg (by simp [hacc]), if_pos hbar, if_pos hslot]
  · rw [hwrite (.inr hbar), if_neg (by simp [hacc]), if_pos hbar, if_neg (Nat.not_le.mpr hslot)]
  · rw [hpage hbar hacc (by omega), hoff, hsize, writePage_troot]
  · rw [hpage hbar hacc (by omega), hoff, hsize, writePage_faccept]
  · rw [hpage hbar hacc (by omega), hoff, hsize, writePage_pool]
  · rw [hpage hbar hacc (by omega), writePage_reserved hoff]

end Sys2Proof.Proofs.RegisterWrites
end

section
/-! SUPPORT. The aperture, the membership table, links, clock broadcasts and credibility windows (R214, R406, R415, R416). -/

namespace Sys2Proof.Proofs.FabricAndClocks

open Sys2Proof.Machine

section
variable {s : State} {v : Nat}

/-! ### The aperture -/

section
variable {off size : Nat}

/-- Whether the host may name these bytes of the aperture. -/
theorem apertureAccess_taken (hen : (tenantOf s v).enabled = true) (hpos : 1 ≤ size) (hfits : off % 8 + size ≤ 8) :
    (!(tenantOf s v).enabled || size == 0 || 8 < size || off % 8 + size > 8) = false := by
  have hzero : (size == 0) = false := beq_false_of_ne (by omega)
  have height : ¬ 8 < size := by omega
  simp [hen, hzero, height, hfits]

theorem apertureAccess_beyond (hen : (tenantOf s v).enabled = true) (hpos : 1 ≤ size) (hfits : off % 8 + size ≤ 8)
    (hpa : aperturePa s v off = none) (wr : Bool) (val : Word) : exec (.apertureAccess v off size wr val) s =
      .next (if wr then s else setHostRead s (BitVec.ofNat 64 (2 ^ (8 * size) - 1))) := by
  show execApertureAccess v off size wr val s = _
  simp only [execApertureAccess, apertureAccess_taken hen hpos hfits, hpa, Bool.false_eq_true, if_false]

theorem apertureAccess_write (hen : (tenantOf s v).enabled = true) (hpos : 1 ≤ size) (hfits : off % 8 + size ≤ 8) {pa : Nat}
    (hpa : aperturePa s v off = some pa) (val : Word) : exec (.apertureAccess v off size true val) s =
      .next (putRange (dropLine s (lineOf (memKey .device pa))) (memKey .device pa)
        (toBytes size (val.toNat % 2 ^ (8 * size)))) := by
  show execApertureAccess v off size true val s = _
  simp only [execApertureAccess, apertureAccess_taken hen hpos hfits, hpa, Bool.false_eq_true, if_false, if_true]

theorem apertureAccess_read (hen : (tenantOf s v).enabled = true) (hpos : 1 ≤ size) (hfits : off % 8 + size ≤ 8) {pa : Nat}
    (hpa : aperturePa s v off = some pa) (hserved : served s .sys (memKey .device pa) size = true) (val : Word) :
    exec (.apertureAccess v off size false val) s =
      let r := getHome (outsideRead (dropLine s (lineOf (memKey .device pa))) (memKey .device pa) size) (memKey .device pa) size
      .next (setHostRead r.1 (BitVec.ofNat 64 (ofBytes r.2))) := by
  show execApertureAccess v off size false val s = _
  simp only [execApertureAccess, apertureAccess_taken hen hpos hfits, hpa, hserved, Bool.not_true, Bool.false_eq_true, if_false]

end

/-! ### Packages and links -/

theorem membershipWrite_next {word : Nat} (val : Word) (h : word < 64) :
    exec (.membershipWrite word val) s = .next (writeMembers s word val) := by
  show execMembershipWrite word val s = _
  rw [execMembershipWrite, if_neg (Nat.not_le.mpr h)]

theorem flitCrcError_next {link : Nat} (h : s.cfg.links.getLsbD link = true) : exec (.flitCrcError link) s = .next s := by
  show execFlitCrcError link s = _
  rw [execFlitCrcError, if_pos h]

theorem linkDown_next {link : Nat} (h : s.cfg.links.getLsbD link = true) : exec (.linkDown link) s =
    .next (sendMsix (setCfg s { s.cfg with links := s.cfg.links &&& ~~~((1 : BitVec 18) <<< link) }) 0 3) := by
  show execLinkDown link s = _
  rw [execLinkDown, if_pos h]

/-! ### Clocks and credibility -/

/-- The first broadcast of a clock to a slice, in the order in which they were sent. -/
theorem firstCast {casts : List (Nat × ClockId × Nat)} {slice j : Nat} {clk : ClockId} {t : Nat}
    (h : casts[j]? = some (slice, clk, t)) (hfirst : ∀ e ∈ casts.take j, ¬(e.1 = slice ∧ e.2.1 = clk)) :
    casts.findIdx? (fun e => e.1 == slice && e.2.1 == clk) = some j := by
  obtain ⟨hj, hget⟩ := List.getElem?_eq_some_iff.mp h
  rw [List.findIdx?_eq_some_iff_getElem]
  refine ⟨hj, by simp [hget], fun i hi => ?_⟩
  have hmem : casts[i] ∈ casts.take j := List.mem_take_iff_getElem.mpr ⟨i, by omega, rfl⟩
  simpa using hfirst _ hmem

theorem clockBroadcast_next {slice j : Nat} {clk : ClockId} {t : Nat} (h : s.l2.casts[j]? = some (slice, clk, t))
    (hfirst : ∀ e ∈ s.l2.casts.take j, ¬(e.1 = slice ∧ e.2.1 = clk)) : exec (.clockBroadcast clk slice) s =
      .next (broadcast (setL2 s { s.l2 with casts := s.l2.casts.eraseIdx j }) slice clk t) := by
  show execClockBroadcast clk slice s = _
  simp only [execClockBroadcast, firstCast h hfirst, h, Option.map_some, Option.getD_some]

theorem credibilityWindowClose_next (h : 65536 ≤ (tenantOf s v).promises) :
    exec (.credibilityWindowClose v) s = .next (putTenant s v (closeWindow (tenantOf s v))) := by
  show execCredibilityWindowClose v s = _
  simp only [execCredibilityWindowClose, if_neg (Nat.not_lt.mpr h), settled, if_pos h]

end

/-- Settles O47: one lemma for each event. -/
theorem fabricAndClocksMove : Obligations.FabricAndClocksMove := by
  intro s v
  refine ⟨fun off size val hen hpos hfits => ⟨fun hpa => ?_, fun pa hpa => ?_⟩, fun word val => membershipWrite_next val,
    fun link h => ⟨flitCrcError_next h, linkDown_next h⟩, fun clk slice j t => clockBroadcast_next,
    credibilityWindowClose_next⟩
  · exact ⟨apertureAccess_beyond hen hpos hfits hpa true val, apertureAccess_beyond hen hpos hfits hpa false val⟩
  · exact ⟨apertureAccess_write hen hpos hfits hpa val, fun hserved => apertureAccess_read hen hpos hfits hpa hserved val⟩

end Sys2Proof.Proofs.FabricAndClocks
end

section
/-! SUPPORT. What the PF grants, and what leaves (R225, R237, R402, R403, R418). -/

namespace Sys2Proof.Proofs.GrantedResources

open Sys2Proof.Machine Sys2Proof.Proofs.PartAndFunctions Sys2Proof.Proofs.RegisterFiles

section
variable {s : State} {v g : Nat} {val : Word}

/-! ### Channel groups -/

theorem groupAssign_next (hg : g < 48) (hval : val.getLsbD 8 = true) :
    exec (.groupAssign g val) s = .next (writeGroup s g val) := by
  show execGroupAssign g val s = _
  simp only [execGroupAssign, Nat.not_le.mpr hg, hval, decide_false, Bool.not_true, Bool.or_self, Bool.false_eq_true, if_false]

theorem groupRemove_next (hg : g < 48) (hval : val.getLsbD 8 = false) :
    exec (.groupRemove g val) s = .next (writeGroup s g val) := by
  show execGroupRemove g val s = _
  simp only [execGroupRemove, Nat.not_le.mpr hg, hval, decide_false, Bool.or_self, Bool.false_eq_true, if_false]

theorem groupZeroingDone_next (hg : g < 48) (hassigned : (groupAt s g).assigned = true) (hready : (groupAt s g).ready = false) :
    exec (.groupZeroingDone g) s =
      .next (putGroup (fillRange s (memKey .device (g * 2 ^ 34)) (2 ^ 34) []) g { groupAt s g with ready := true }) := by
  show execGroupZeroingDone g s = _
  simp only [execGroupZeroingDone, Nat.not_le.mpr hg, hassigned, hready, decide_false, Bool.not_true, Bool.or_self,
    Bool.false_eq_true, if_false]

theorem fieldOf_zero (n w : Nat) : fieldOf n 0 w = n % 2 ^ w := by rw [fieldOf, pow_zero, Nat.div_one]

theorem writeGroup_same (hval : val.getLsbD 8 = true) (hassigned : (groupAt s g).assigned = true)
    (howner : (groupAt s g).owner = val.toNat % 2 ^ 4) : writeGroup s g val = s := by
  simp only [writeGroup, hval, hassigned, fieldOf_zero, howner, beq_self_eq_true, Bool.and_self, if_true]

theorem writeGroup_gained (hval : val.getLsbD 8 = true) (hassigned : (groupAt s g).assigned = false) :
    writeGroup s g val = agreeMask (agreeMask
      (putGroup s g { owner := val.toNat % 2 ^ 4, assigned := true, ready := false }) (groupAt s g).owner)
      (val.toNat % 2 ^ 4) := by
  simp only [writeGroup, hval, hassigned, fieldOf_zero, Bool.false_and, Bool.false_eq_true, if_false, if_true]

theorem writeGroup_moved (hval : val.getLsbD 8 = true) (hassigned : (groupAt s g).assigned = true)
    (howner : (groupAt s g).owner ≠ val.toNat % 2 ^ 4) : writeGroup s g val = agreeMask (agreeMask
      (putGroup (forgetGroup s (groupAt s g).owner g) g { owner := val.toNat % 2 ^ 4, assigned := true, ready := false })
      (groupAt s g).owner) (val.toNat % 2 ^ 4) := by
  simp only [writeGroup, hval, hassigned, fieldOf_zero, beq_false_of_ne howner, Bool.and_false, Bool.false_eq_true, if_false,
    if_true]

theorem writeGroup_lost (hval : val.getLsbD 8 = false) : writeGroup s g val = agreeMask
    (putGroup (if (groupAt s g).assigned then forgetGroup s (groupAt s g).owner g else s) g
      { owner := val.toNat % 2 ^ 4, assigned := false, ready := false }) (groupAt s g).owner := by
  simp only [writeGroup, hval, fieldOf_zero, Bool.false_eq_true, if_false]

end

/-! ### Format ranges -/

theorem refuseWrite_fregs (s : State) : (refuseWrite s).cfg.fregs = s.cfg.fregs := by
  unfold refuseWrite
  split
  · rfl
  · rfl

theorem refuseWrite_error (s : State) : (refuseWrite s).cfg.error = true := by
  unfold refuseWrite
  split
  next h => exact h
  · rfl

theorem tenantOf_refuseWrite (s : State) (v : Nat) : tenantOf (refuseWrite s) v = tenantOf s v := by
  unfold refuseWrite
  split
  · rfl
  · rfl

section
variable {s : State} {reg word : Nat} {val : Word}

theorem formatRangeWrite_accepted (hreg : reg < 16) (hword : word < 4)
    (hclean : fregClean (replaceWord (vget s.cfg.fregs reg 0) word val) = true)
    (hok : fregOk s (replaceWord (vget s.cfg.fregs reg 0) word val) = true) : ∃ s1,
      exec (.formatRangeWrite reg word val) s = .next s1 ∧
      vget s1.cfg.fregs reg 0 = replaceWord (vget s.cfg.fregs reg 0) word val := by
  show ∃ s1, execFormatRangeWrite reg word val s = .next s1 ∧ _
  simp only [execFormatRangeWrite, Nat.not_le.mpr hreg, Nat.not_le.mpr hword, hclean, hok, decide_false, Bool.not_true, Bool.or_self, Bool.false_eq_true, if_false]
  refine ⟨_, rfl, ?_⟩
  exact (vget_setIfInBounds _ _ _ _ _ hreg).trans (if_pos rfl)

/-- A refused value leaves its register, sets the error bit, and names the register to the PF (R237). -/
theorem formatRangeWrite_refused (hreg : reg < 16) (hword : word < 4)
    (hbad : ¬(fregClean (replaceWord (vget s.cfg.fregs reg 0) word val) = true ∧
      fregOk s (replaceWord (vget s.cfg.fregs reg 0) word val) = true)) : ∃ s1,
      exec (.formatRangeWrite reg word val) s = .next s1 ∧ s1.cfg.fregs = s.cfg.fregs ∧ s1.cfg.error = true ∧
      (tenantOf s1 0).frerr.getLsbD reg = true := by
  show ∃ s1, execFormatRangeWrite reg word val s = .next s1 ∧ _
  have hbad' : (!(fregClean (replaceWord (vget s.cfg.fregs reg 0) word val)) ||
      !(fregOk s (replaceWord (vget s.cfg.fregs reg 0) word val))) = true := by
    rw [← Bool.not_and, Bool.not_eq_true', ← Bool.not_eq_true, Bool.and_eq_true]
    exact hbad
  simp only [execFormatRangeWrite, Nat.not_le.mpr hreg, Nat.not_le.mpr hword, hbad', decide_false, Bool.or_self,
    Bool.false_eq_true, if_false, if_true]
  refine ⟨_, rfl, refuseWrite_fregs _, refuseWrite_error _, ?_⟩
  rw [tenantOf_refuseWrite, tenantOf_putTenant _ _ (by omega)]
  have hbit : (BitVec.ofNat 16 (2 ^ reg)).getLsbD reg = true := by
    rw [BitVec.getLsbD_ofNat, Nat.testBit_two_pow_self, decide_eq_true hreg, Bool.and_true]
  rw [BitVec.getLsbD_or, hbit, Bool.or_true]

end

/-! ### A tenant's block -/

section
variable {s : State} {v off : Nat} {val : Word}

theorem tenantBlockWrite_next (hv : v < 16) (hoff : off < 0x400) (halign : off % 8 = 0) :
    exec (.tenantBlockWrite v off val) s = .next (takeBlock s v off val) := by
  show execTenantBlockWrite v off val s = _
  simp only [execTenantBlockWrite, Nat.not_le.mpr hv, Nat.not_le.mpr hoff, halign, bne_self_eq_false, decide_false,
    Bool.or_self, Bool.false_eq_true, if_false]

theorem takeBlock_held (hoff : off ≠ 0xB0) (hpre : (tenantOf s v).preempt ≠ []) :
    takeBlock s v off val = setCfg s { s.cfg with held := s.cfg.held ++ [(v, off, val)] } := by
  have hempty : (tenantOf s v).preempt.isEmpty = false := by simpa using hpre
  simp only [takeBlock, bne_iff_ne, ne_eq, hoff, not_false_eq_true, hempty, Bool.not_false, Bool.and_true, if_true]

theorem takeBlock_pcmd : takeBlock s v 0xB0 val = writePcmd s v (BitVec.ofNat 32 (val.toNat % 2 ^ 32)) := rfl

theorem takeBlock_taken (hpre : (tenantOf s v).preempt = []) : takeBlock s v off val = writeBlock s v off val := by
  simp only [takeBlock, hpre, List.isEmpty_nil, Bool.not_true, Bool.and_false, Bool.false_eq_true, if_false]

/-- A word of the block that no stopping pre-emption holds (R402). -/
theorem tenantBlockWrite_taken (hv : v < 16) (hpre : (tenantOf s v).preempt = []) (hoff : off < 0x400) (halign : off % 8 = 0) :
    exec (.tenantBlockWrite v off val) s = .next (writeBlock s v off val) := by
  rw [tenantBlockWrite_next hv hoff halign, takeBlock_taken hpre]

theorem writeBlock_clmask (hoff : off < 0x80) : writeBlock s v off val = writeClmask s v (off / 8) val := by
  simp only [writeBlock, hoff, if_true]

theorem writeBlock_prlim : writeBlock s v 0x98 val =
    if 20 ≤ val.toNat % 2 ^ 32 % 32 ∧ val.toNat % 2 ^ 32 % 32 ≤ 30 then
      putTenant s v { tenantOf s v with prlim := BitVec.ofNat 32 (val.toNat % 2 ^ 32 % 32) }
    else refuseWrite s := by
  simp only [writeBlock, Bool.and_eq_true, decide_eq_true_eq]
  rfl

end

/-! ### A cluster that leaves -/

section
variable {s : State} {v c : Nat}

/-- What does not touch the tenants' registers leaves each of them. -/
theorem tenantOf_congr {s t : State} (h : t.tenants = s.tenants) (v : Nat) : tenantOf t v = tenantOf s v := by
  rw [tenantOf, tenantOf, h]

theorem tenantOf_foldl_forgetLost (l : List (Nat × Nat)) (s : State) (v : Nat) :
    tenantOf (l.foldl (fun s w => forgetLost s w.1 w.2) s) v = tenantOf s v := by
  induction l generalizing s with
  | nil => rfl
  | cons w l ih => exact (ih _).trans (tenantOf_congr rfl v)

/-- The tenant's registers once the cluster has left its mask. -/
def leftTenant (t : Tenant) (c : Nat) : Tenant :=
  { t with clmask := t.clmask &&& ~~~((1 : BitVec 1024) <<< c), leaving := t.leaving.filter fun k => k != c }

/-- The part once the cluster has left the mask, the saved states and the home sets. -/
def leftState (s : State) (v c : Nat) : State :=
  (clusterWays (tenantOf s v) c).foldl (fun s w => forgetLost s w.1 w.2) (leaveHomes (setSaved
    (putTenant s v (leftTenant (tenantOf s v) c)) (s.saved.filter fun x => !(x.v == v && x.c == c))) v c)

theorem tenantOf_leftState (hv : v < 16) : tenantOf (leftState s v c) v = leftTenant (tenantOf s v) c := by
  rw [leftState, tenantOf_foldl_forgetLost]
  exact (tenantOf_congr rfl v).trans (tenantOf_putTenant s _ hv)

theorem clusterLeavePartition_next (hleaving : (tenantOf s v).leaving.contains c = true)
    (hinst : ∀ x ∈ s.insts, ¬(x.tenant = v ∧ x.clus = c))
    (hwin : ∀ l ∈ s.launches, l.tenant = v → ∀ w ∈ l.windows, ¬(w.space ≠ 4 ∧ w.place = c)) :
    exec (.clusterLeavePartition v c) s = .next (leavePcmd (leftState s v c) v c) := by
  have hi : s.insts.any (fun x => x.tenant == v && x.clus == c) = false := by
    rw [List.any_eq_false]
    exact fun x hx => by simpa using hinst x hx
  have hl : (s.launches.any fun l => l.tenant == v && l.windows.any fun w => w.space != 4 && w.place == c) = false := by
    rw [List.any_eq_false]
    intro l hl
    rw [Bool.and_eq_true, List.any_eq_true]
    rintro ⟨hv, w, hw, hplace⟩
    exact hwin l hl (by simpa using hv) w hw (by simpa using hplace)
  show execClusterLeavePartition v c s = _
  simp only [execClusterLeavePartition, hleaving, hi, hl, Bool.not_true, Bool.or_self, Bool.false_eq_true, if_false]
  rfl

/-- A list that does not end with this cluster. -/
theorem not_ends {l : List Nat} (h : l.contains c = false ∨ l.filter (fun k => k != c) ≠ []) :
    (l.contains c && (l.filter fun k => k != c).isEmpty) = false := by
  obtain h | h := h
  · rw [h, Bool.false_and]
  · rw [List.isEmpty_eq_false_iff.mpr h, Bool.and_false]

theorem leavePcmd_leftState (hv : v < 16)
    (hpre : (tenantOf s v).preempt.contains c = false ∨ (tenantOf s v).preempt.filter (fun k => k != c) ≠ [])
    (hres : (tenantOf s v).resume.contains c = false ∨ (tenantOf s v).resume.filter (fun k => k != c) ≠ []) :
    leavePcmd (leftState s v c) v c = putTenant (leftState s v c) v { tenantOf (leftState s v c) v with
      preempt := (tenantOf s v).preempt.filter (fun k => k != c), urgent := (tenantOf s v).urgent.filter (fun k => k != c),
      resume := (tenantOf s v).resume.filter (fun k => k != c) } := by
  have ht := tenantOf_leftState (s := s) (c := c) hv
  have hp : (tenantOf (leftState s v c) v).preempt = (tenantOf s v).preempt := by rw [ht, leftTenant]
  have hu : (tenantOf (leftState s v c) v).urgent = (tenantOf s v).urgent := by rw [ht, leftTenant]
  have hr : (tenantOf (leftState s v c) v).resume = (tenantOf s v).resume := by rw [ht, leftTenant]
  simp only [leavePcmd, hp, hu, hr, not_ends hpre, not_ends hres, Bool.false_eq_true, if_false]

end

/-- Settles O44: one lemma for each register and each case of its value. -/
theorem resourcesAreGranted : Obligations.ResourcesAreGranted := by
  refine ⟨fun s g val hg => ⟨fun hval has how => ?_, fun hval has => ?_, fun hval has how => ?_, fun hval => ?_,
    groupZeroingDone_next hg⟩, fun s reg word val hreg hword => ⟨fun hok => formatRangeWrite_accepted hreg hword hok.1 hok.2,
    formatRangeWrite_refused hreg hword⟩, fun s v off val hv hoff halign hne hpre => ?_, fun s v val hv => ?_,
    fun s v val hv hpre => ⟨?_, fun hlow hhigh => ?_, fun hbad => ?_, fun off hoff halign => ?_, ?_, ?_, ?_⟩,
    fun s v c hleaving hinst hwin => ⟨clusterLeavePartition_next hleaving hinst hwin, fun hpre hres hv => ?_⟩⟩
  · rw [groupAssign_next hg hval, writeGroup_same hval has how]
  · rw [groupAssign_next hg hval, writeGroup_gained hval has]
  · rw [groupAssign_next hg hval, writeGroup_moved hval has how]
  · rw [groupRemove_next hg hval, writeGroup_lost hval]
  · rw [tenantBlockWrite_next hv hoff halign, takeBlock_held hne hpre]
  · rw [tenantBlockWrite_next hv (by omega) rfl, takeBlock_pcmd]
  · exact tenantBlockWrite_taken hv hpre (by omega) rfl
  · rw [tenantBlockWrite_taken hv hpre (by omega) rfl, writeBlock_prlim, if_pos ⟨hlow, hhigh⟩]
  · rw [tenantBlockWrite_taken hv hpre (by omega) rfl, writeBlock_prlim, if_neg (by omega)]
  · rw [tenantBlockWrite_taken hv hpre (by omega) halign, writeBlock_clmask hoff]
  · exact tenantBlockWrite_taken hv hpre (by omega) rfl
  · exact tenantBlockWrite_taken hv hpre (by omega) rfl
  · exact tenantBlockWrite_taken hv hpre (by omega) rfl
  · exact leavePcmd_leftState hv hpre hres

end Sys2Proof.Proofs.GrantedResources
end

section
/-! SUPPORT. A host's commands to an agent's slot (R371, R372, R382, R383). -/

namespace Sys2Proof.Proofs.SlotCommands

open Sys2Proof.Machine

section
variable {s : State} {n v : Nat}

/-- A command to a slot that a tenant has. -/
theorem slotEvent_next {row : String} {f : State → Nat → State} (h : slotTenant s n = some v) :
    slotEvent row n s f = .next (f s n) := by
  simp only [slotEvent, h, Option.isNone_some, Bool.false_eq_true, if_false]

/-! ### Start -/

theorem startSlot_taken_state (hst : (slotAt s n).st = .idle ∨ (slotAt s n).st = .halted) :
    ((slotAt s n).st == SlotState.idle || (slotAt s n).st == SlotState.halted) = true := by
  simpa using hst

theorem startSlot_ignored (hidle : (slotAt s n).st ≠ .idle) (hhalted : (slotAt s n).st ≠ .halted) : startSlot s n = s := by
  simp [startSlot, hidle, hhalted]

variable (h : slotTenant s n = some v)
include h

theorem startSlot_not_accepted (hst : (slotAt s n).st = .idle ∨ (slotAt s n).st = .halted) (hacc : accepted s v 1 = false) :
    startSlot s n = putSlot s { slotAt s n with cause := 2 } := by
  simp only [startSlot, h, Option.getD_some, startSlot_taken_state hst, hacc, Bool.not_true, Bool.not_false, Bool.false_eq_true,
    if_false, if_true]
  rfl

theorem startSlot_bad_fields (hst : (slotAt s n).st = .idle ∨ (slotAt s n).st = .halted) (hacc : accepted s v 1 = true)
    (hok : startOk s { slotAt s n with tenant := v } = false) :
    startSlot s n = putSlot s { slotAt s n with tenant := v, st := .idle, cause := 2 } := by
  simp only [startSlot, h, Option.getD_some, Option.isNone_some, startSlot_taken_state hst, hacc, hok, Bool.not_true,
    Bool.not_false, Bool.or_true, Bool.false_eq_true, if_false, if_true]
  rfl

/-- A slot that starts runs from its entry, with its first registers given and no work of before (R372). -/
theorem startSlot_starts (hst : (slotAt s n).st = .idle ∨ (slotAt s n).st = .halted) (hacc : accepted s v 1 = true)
    (hok : startOk s { slotAt s n with tenant := v } = true) : ∃ t, startSlot s n = putSlot s t ∧
      t.num = (slotAt s n).num ∧ t.tenant = v ∧ t.st = .running ∧ t.pc = (slotAt s n).entry ∧ t.pend = 0 ∧ t.samp = {} ∧
      t.long = none ∧ t.rprog = (slotAt s n).prog ∧ t.rpsize = (slotAt s n).psize ∧ t.ramem = (slotAt s n).amem ∧
      ∀ j : Fin 16, t.a[j] = if j.val < 4 then (slotAt s n).init.getD j.val 0 else 0 := by
  simp only [startSlot, h, Option.getD_some, Option.isNone_some, startSlot_taken_state hst, hacc, hok, Bool.not_true,
    Bool.or_self, Bool.false_eq_true, if_false]
  refine ⟨_, rfl, rfl, rfl, rfl, rfl, rfl, rfl, rfl, rfl, rfl, rfl, fun j => ?_⟩
  simp

end

/-! ### Stop, resume and reset -/

section
variable {s : State} {n : Nat}

theorem stopSlot_waits (hst : (slotAt s n).st = .running) (hwait : isSeated s n = true ∨ midRound (slotAt s n) = true) :
    stopSlot s n = putSlot s { slotAt s n with st := .stopping } := by
  simp only [stopSlot, hst, bne_self_eq_false, Bool.false_eq_true, if_false, Bool.or_eq_true, hwait, if_true]

theorem stopSlot_stops (hst : (slotAt s n).st = .running) (hseat : isSeated s n = false)
    (hround : midRound (slotAt s n) = false) : stopSlot s n = putSlot s (suspend { slotAt s n with st := .stopped }) := by
  simp only [stopSlot, hst, hseat, hround, bne_self_eq_false, Bool.or_self, Bool.false_eq_true, if_false]

theorem stopSlot_ignored (hst : (slotAt s n).st ≠ .running) : stopSlot s n = s := by
  simp only [stopSlot, bne_iff_ne, ne_eq, hst, not_false_eq_true, if_true]

theorem resumeSlot_resumes (hst : (slotAt s n).st = .stopped ∨ (slotAt s n).st = .trapped) : resumeSlot s n =
    putSlot s { slotAt s n with st := .running, long := (slotAt s n).long.map fun l => { l with susp := false } } := by
  have hst' : ((slotAt s n).st == SlotState.stopped || (slotAt s n).st == SlotState.trapped) = true := by simpa using hst
  simp only [resumeSlot, hst', Bool.not_true, Bool.false_eq_true, if_false]

theorem resumeSlot_ignored (hstopped : (slotAt s n).st ≠ .stopped) (htrapped : (slotAt s n).st ≠ .trapped) :
    resumeSlot s n = s := by
  simp [resumeSlot, hstopped, htrapped]

theorem resetSlot_waits (hseat : isSeated s n = true) :
    resetSlot s n = putSlot s { slotAt s n with st := .stopping, rst := true } := by
  simp only [resetSlot, hseat, if_true]

theorem resetSlot_resets (hseat : isSeated s n = false) (hslot : slotOf s n ≠ none) : resetSlot s n = finishReset s n := by
  simp only [resetSlot, hseat, Option.isSome_iff_ne_none.mpr hslot, Bool.false_eq_true, if_false, if_true]

end

/-- Settles O49: each command acts by the state of its slot. -/
theorem slotCommandsAct : Obligations.SlotCommandsAct := by
  intro s n v h
  have hsig (val : Word) : exec (.sigWrite n val) s = .next (signalSlot s n val) :=
    slotEvent_next (f := fun s n => signalSlot s n val) h
  have hstart : exec (.slotStart n) s = .next (startSlot s n) := slotEvent_next h
  have hstop : exec (.slotStop n) s = .next (stopSlot s n) := slotEvent_next h
  have hresume : exec (.slotResume n) s = .next (resumeSlot s n) := slotEvent_next h
  have hreset : exec (.slotReset n) s = .next (resetSlot s n) := slotEvent_next h
  rw [hstart, hstop, hresume, hreset]
  refine ⟨hsig, fun hst hacc => ?_, fun hst hacc hok => ?_, fun hst hacc hok => ?_,
    fun hidle hhalted => ?_, fun hst hwait => ?_, fun hst hseat hround => ?_, fun hst => ?_, fun hst => ?_,
    fun hstopped htrapped => ?_, fun hseat => ?_, fun hseat hslot => ?_⟩
  · rw [startSlot_not_accepted h hst hacc]
  · rw [startSlot_bad_fields h hst hacc hok]
  · obtain ⟨t, ht, hfields⟩ := startSlot_starts h hst hacc hok
    exact ⟨t, congrArg _ ht, hfields⟩
  · rw [startSlot_ignored hidle hhalted]
  · rw [stopSlot_waits hst hwait]
  · rw [stopSlot_stops hst hseat hround]
  · rw [stopSlot_ignored hst]
  · rw [resumeSlot_resumes hst]
  · rw [resumeSlot_ignored hstopped htrapped]
  · rw [resetSlot_waits hseat]
  · rw [resetSlot_resets hseat hslot]
    rfl

end Sys2Proof.Proofs.SlotCommands
end

section
/-! SUPPORT. Invalidations, Translation Completions, page responses and their time limit (R231 to R234, R244, R245). -/

namespace Sys2Proof.Proofs.Translations

open Sys2Proof.Machine

section
variable {s : State} {k : Nat}

/-! ### Invalidations -/

/-- The part once the invalidation at this place has completed: its pending counts are recalled, and the driver's count
goes up (R234). -/
def completedInval (s : State) (k : Nat) (e : Inval) : State :=
  let r := recallWhere s fun _ _ _ => true
  let s1 := setXlat r { r.xlat with invals := r.xlat.invals.eraseIdx k }
  if e.driver then putTenant s1 e.fn { tenantOf s1 e.fn with invdone := (tenantOf s1 e.fn).invdone + 1 } else s1

theorem invalidationComplete_next {e : Inval} (h : s.xlat.invals[k]? = some e) (hdrained : drained s e = true) :
    exec (.invalidationComplete k) s = match e.core with
      | some (c, i, id) => .next (sweep (dropAcc (completedInval s k e) c i id))
      | none => .next (completedInval s k e) := by
  show execInvalidationComplete k s = _
  simp only [execInvalidationComplete, h, hdrained, Bool.not_true, Bool.false_eq_true, if_false] <;> rfl

theorem priRestart_next (v : Nat) (val : W32) : exec (.priRestart v val) s =
    .next (if val = 1 then putTenant s v { tenantOf s v with priStop := false } else s) := by
  show execPriRestart v val s = _
  simp only [execPriRestart, beq_iff_eq]
  split
  · rfl
  · rfl

/-! ### Translation Completions -/

theorem max_two_pow_4096 (n : Nat) : max (2 ^ n) 4096 = 2 ^ Nat.log2 (max (2 ^ n) 4096) := by
  obtain h | h : max (2 ^ n) 4096 = 2 ^ n ∨ max (2 ^ n) 4096 = 2 ^ 12 := by omega
  · rw [h, Nat.log2_two_pow]
  · rw [h, Nat.log2_two_pow]

/-- The translations that the probes of a request await. -/
def probedState (s : State) (q : PageReq) (e : TEntry) : State :=
  setXlat s { s.xlat with probed := s.xlat.probed ++ q.probers.map fun p => (p, e) }

/-- A completion fills the cache unless a probe alone asked, and ends the request; it fails the accesses that a page
response let ask again and that it still does not grant (R232, R244). -/
theorem translationCompletion_next {q : PageReq} (h : s.xlat.reqs[k]? = some q) {ta : Word} {n : Nat} {r w u : Bool}
    (hpa : (hostEntry q ta (2 ^ n) r w u).pa % max (2 ^ n) 4096 = 0) (h1 : q.phase ≠ 1) (h3 : q.phase ≠ 3) :
    exec (.translationCompletion k ta (2 ^ n) r w u) s = .next (endReq
      (if q.phase = 4 ∧ q.waiters = [] ∧ q.cmds = [] then probedState s q (hostEntry q ta (2 ^ n) r w u)
       else fillHost (probedState s q (hostEntry q ta (2 ^ n) r w u)) (hostEntry q ta (2 ^ n) r w u)) q
      fun want => q.phase == 2 && answers q want && !(hostGrants (hostEntry q ta (2 ^ n) r w u) want)) := by
  have hsize : (max (2 ^ n) 4096 != 2 ^ Nat.log2 (max (2 ^ n) 4096)) = false := by
    rw [← max_two_pow_4096, bne_self_eq_false]
  have hpa' : ((hostEntry q ta (2 ^ n) r w u).pa % (hostEntry q ta (2 ^ n) r w u).size != 0) = false := by
    rw [show (hostEntry q ta (2 ^ n) r w u).size = max (2 ^ n) 4096 from rfl, hpa, bne_self_eq_false]
  show execTranslationCompletion k ta (2 ^ n) r w u s = _
  simp only [execTranslationCompletion, h, beq_false_of_ne h1, beq_false_of_ne h3, hsize, hpa', Bool.or_self,
    Bool.false_eq_true, if_false, Bool.and_eq_true, beq_iff_eq, List.isEmpty_iff, and_assoc]
  rfl

/-! ### Page responses -/

theorem prgResponse_taken {q : PageReq} (h : s.xlat.reqs[k]? = some q) (hphase : q.phase = 1)
    (hlate : ¬q.since + 2 ^ ((tenantOf s q.fn).prlim.toNat % 32) ≤ s.clk) :
    exec (.prgResponse k 0) s = .next (nextPri (updReq s q.id fun q => { q with phase := 2 }) q.fn) ∧
      exec (.prgResponse k 1) s = .next (failReq s q) ∧
      exec (.prgResponse k 15) s = .next (((putTenant s q.fn { tenantOf s q.fn with priStop := true }).xlat.reqs.filter
          fun r => r.fn == q.fn && r.phase == 3).foldl (fun s r => endReq s r (answers r))
        (failReq (putTenant s q.fn { tenantOf s q.fn with priStop := true }) q)) := by
  have hlate' : pageLate s q = false := decide_eq_false hlate
  refine ⟨?_, ?_, ?_⟩
  · show execPrgResponse k 0 s = _
    simp only [execPrgResponse, h, hphase, hlate', bne_self_eq_false, Bool.or_self, Bool.false_eq_true, if_false]
  · show execPrgResponse k 1 s = _
    simp only [execPrgResponse, h, hphase, hlate', bne_self_eq_false, Bool.or_self, Bool.false_eq_true, if_false]
  · show execPrgResponse k 15 s = _
    simp only [execPrgResponse, h, hphase, hlate', bne_self_eq_false, Bool.or_self, Bool.false_eq_true, if_false]

theorem pageRequestTimeout_next {q : PageReq} (h : s.xlat.reqs[k]? = some q) (hphase : q.phase = 1 ∨ q.phase = 3)
    (hlate : q.since + 2 ^ ((tenantOf s q.fn).prlim.toNat % 32) ≤ s.clk) :
    exec (.pageRequestTimeout k) s = .next (failReq s q) := by
  have hphase' : (q.phase == 1 || q.phase == 3) = true := by simpa using hphase
  have hlate' : pageLate s q = true := decide_eq_true hlate
  show execPageRequestTimeout k s = _
  simp only [execPageRequestTimeout, h, hphase', hlate', Bool.and_self, if_true]

end

/-- Settles O48: one lemma for each event, and the three phases in which a completion can meet its request. -/
theorem translationEventsAct : Obligations.TranslationEventsAct := by
  refine ⟨fun _ _ _ => rfl, fun _ _ _ _ => rfl, fun _ _ _ _ => rfl, fun s k e h hdrained => ⟨fun hcore => ?_,
    fun c i id hcore => ?_⟩, fun s v val => priRestart_next v val, fun s k q h => ⟨fun ta n r w u => ?_,
    prgResponse_taken h, pageRequestTimeout_next h⟩⟩
  · rw [invalidationComplete_next h hdrained, hcore]
    rfl
  · rw [invalidationComplete_next h hdrained, hcore]
    rfl
  · intro size e hpa s1
    have hnext := translationCompletion_next (r := r) (w := w) (u := u) h hpa
    refine ⟨fun hphase => ?_, fun hphase => ?_, fun hphase => ?_⟩
    · rw [hnext (by omega) (by omega), if_neg (by omega), hphase]
      rfl
    · rw [hnext (by omega) (by omega), if_neg (by omega), hphase]
      rfl
    · rw [hnext (by omega) (by omega), hphase]
      simp only [true_and]
      rfl

end Sys2Proof.Proofs.Translations
end

section
/-! SUPPORT. Pre-emption of time-sliced tenants, and the state of a cluster that is saved and restored (R278 to R280, R411). -/

namespace Sys2Proof.Proofs.Preemption

open Sys2Proof.Machine Sys2Proof.Proofs.Canonical Sys2Proof.Proofs.TakingTraps Sys2Proof.Proofs.PartAndFunctions
  Sys2Proof.Proofs.GrantedResources

/-! ### Requests -/

section
variable {s : State} {v : Nat} {val : W32}

theorem pcmdPreempt_next (h : val.toNat % 2 ^ 8 = 1) : exec (.pcmdPreempt v val) s = .next (preemptTenant s v val false) := by
  show execPcmdPreempt v val s = _
  simp only [execPcmdPreempt, fieldOf_zero, h, bne_self_eq_false, Bool.false_eq_true, if_false]

theorem pcmdPreemptUrgent_next (h : val.toNat % 2 ^ 8 = 2) :
    exec (.pcmdPreemptUrgent v val) s = .next (preemptTenant s v val true) := by
  show execPcmdPreemptUrgent v val s = _
  simp only [execPcmdPreemptUrgent, fieldOf_zero, h, bne_self_eq_false, Bool.false_eq_true, if_false]

theorem pcmdResume_next (h : val.toNat % 2 ^ 8 = 3) : exec (.pcmdResume v val) s = .next (resumeTenant s v val) := by
  show execPcmdResume v val s = _
  simp only [execPcmdResume, fieldOf_zero, h, bne_self_eq_false, Bool.false_eq_true, if_false]

theorem preemptTenant_refused (h : (tenantOf s v).slice = false) (urgent : Bool) :
    preemptTenant s v val urgent = setPstat s v 3 := by
  simp only [preemptTenant, h, Bool.not_false, if_true]

/-- The clusters that a request names and that are not saved. -/
def asked (s : State) (v : Nat) (val : W32) : List Nat := (pcmdClusters (tenantOf s v) val).filter fun c => !(isSaved s v c)

/-- The clusters that stop, with those that a request adds. -/
def stopping (s : State) (v : Nat) (val : W32) : List Nat :=
  (tenantOf s v).preempt ++ (asked s v val).filter fun c => !((tenantOf s v).preempt.contains c)

/-- The part once a request is taken up, with the clusters that it stops at once. -/
def requested (s : State) (v : Nat) (val : W32) (hot : List Nat) : State :=
  setPstat (putTenant s v { tenantOf s v with
    preempt := stopping s v val
    urgent := (tenantOf s v).urgent ++ hot.filter fun c => !((tenantOf s v).urgent.contains c) }) v
    (if (stopping s v val).isEmpty then 2 else 1)

theorem preemptTenant_taken (h : (tenantOf s v).slice = true) :
    preemptTenant s v val false = requested s v val [] ∧
      preemptTenant s v val true = (asked s v val).foldl (fun s c => discardOn s v c) (requested s v val (asked s v val)) := by
  have hslice : (!(tenantOf s v).slice) = false := by rw [h, Bool.not_true]
  simp only [preemptTenant, hslice, Bool.false_eq_true, if_false, if_true]
  exact ⟨rfl, rfl⟩

theorem resumeTenant_refused (h : (tenantOf s v).preempt ≠ []) : resumeTenant s v val = setPstat s v 3 := by
  have hempty : (tenantOf s v).preempt.isEmpty = false := List.isEmpty_eq_false_iff.mpr h
  simp only [resumeTenant, hempty, Bool.not_false, if_true]

theorem resumeTenant_taken (h : (tenantOf s v).preempt = []) :
    let cl := (pcmdClusters (tenantOf s v) val).filter fun c => isSaved s v c
    let s1 := putTenant s v { tenantOf s v with
      resume := (tenantOf s v).resume ++ cl.filter fun c => !((tenantOf s v).resume.contains c) }
    resumeTenant s v val = if cl = [] then setPstat s1 v 0 else s1 := by
  simp only [resumeTenant, h, List.isEmpty_nil, Bool.not_true, Bool.false_eq_true, if_false, List.isEmpty_iff]

end

/-! ### What writes of the part keep -/

section
variable {α : Type} {p : State → α}

theorem foldl_keeps {β : Type} {g : State → β → State} (h : ∀ s b, p (g s b) = p s) (l : List β) (s : State) :
    p (l.foldl g s) = p s := by
  induction l generalizing s with
  | nil => rfl
  | cons b l ih => exact (ih _).trans (h s b)

section
variable (hmem : ∀ s v, p (setMem s v) = p s) (hl2 : ∀ s v, p (setL2 s v) = p s)
include hmem hl2

theorem putHome_keeps (s : State) (key mask : Nat) (bytes : List Byte) : p (putHome s key mask bytes) = p s := by
  unfold putHome
  dsimp only
  split
  · exact hmem _ _
  · exact (hl2 _ _).trans (hmem _ _)

variable (hhts : ∀ s v, p (setHts s v) = p s) (hpcores : ∀ s v, p (setPcores s v) = p s)
include hpcores

theorem recallWhere_keeps (s : State) (q : Nat → Nat → Update → Bool) : p (recallWhere s q) = p s := by
  unfold recallWhere
  exact (foldl_keeps (fun s u => (hl2 _ _).trans (putHome_keeps hmem hl2 s _ _ _)) _ _).trans (hpcores _ _)

theorem recallLine_keeps (s : State) (line : Nat) : p (recallLine s line) = p s := by
  unfold recallLine
  split
  · exact recallWhere_keeps hmem hl2 hpcores _ _
  · rfl

variable (hdir : ∀ s v, p (setDir s v) = p s) (hacq : ∀ s v, p (setAcq s v) = p s)
include hhts hdir hacq

theorem partPutAt_keeps (s : State) (k n : Nat) (bs : List Byte) : p (partPutAt s k n bs) = p s := by
  have hput := (putHome_keeps hmem hl2 (recallLine s (lineOf k)) k (2 ^ n - 1) bs).trans (recallLine_keeps hmem hl2 hpcores s _)
  unfold partPutAt
  refine (hacq _ _).trans ((hdir _ _).trans ?_)
  split
  · exact (hhts _ _).trans ((hl2 _ _).trans hput)
  · exact hput

theorem partWrite_keeps {s t : State} {v : Nat} {ea : Word} {bs : List Byte} (h : partWrite s v ea bs = .ok t) : p t = p s := by
  unfold partWrite at h
  generalize bs.length / 8 + 2 = fuel at h
  induction fuel generalizing s ea bs with
  | zero =>
    cases h
    rfl
  | succ fuel ih =>
    unfold partWriteFrom at h
    dsimp only at h
    split at h
    · cases h
      rfl
    · split at h
      · cases h
      · exact (ih h).trans (partPutAt_keeps hmem hl2 hhts hpcores hdir hacq _ _ _ _)

end

section
variable (hchans : ∀ s v, p (setChans s v) = p s) (hinsts : ∀ s v, p (setInsts s v) = p s)
  (hid : ∀ s n, p (setNextId s n) = p s) (htasks : ∀ s v, p (setTasks s v) = p s)
  (hlaunches : ∀ s v, p (setLaunches s v) = p s)
include hchans hinsts hid htasks hlaunches

theorem resolveSaved_keeps (s : State) (v c : Nat) : p (resolveSaved s v c) = p s := by
  have hinst (s : State) (x : Inst) (act ts : Nat) (pend : List Nat) : p (resolveAs s x act ts pend) = p s := by
    refine (hinsts _ _).trans ?_
    unfold resolveInst
    split
    · exact (settle_keeps _ hchans hinsts hid _).trans (failInst_keeps _ htasks hinsts hlaunches _ _)
    · exact (settle_keeps _ hchans hinsts hid _).trans (hinsts _ _)
  unfold resolveSaved
  refine foldl_keeps (fun s x => ?_) _ _
  split
  · exact hinst _ _ _ _ _
  · rfl

end

end

/-! ### Saving -/

section
variable {s : State} {v c : Nat}

theorem contextSave_next (hpre : (tenantOf s v).preempt.contains c = true)
    (hbound : atBoundary (if (tenantOf s v).urgent.contains c then discardOn s v c else s) v c = true) :
    exec (.contextSave v c) s = .next (takeFaults (leavePcmd (saveCluster
      (if (tenantOf s v).urgent.contains c then discardOn s v c else s) v c) v c)) := by
  show execContextSave v c s = _
  simp only [execContextSave, hpre, hbound, Bool.not_true, Bool.or_self, Bool.false_eq_true, if_false]

/-- The part once the L1 of a cluster that is saved is quiet and its groups are open again. -/
def quietCluster (s : State) (v c : Nat) : State :=
  quietL1 (setClosed s (s.closed.filter fun g => !(g.c == c && (instOf s g.inst).any fun x => x.tenant == v))) c

/-- The saved state of a cluster: the bytes and the full words of the tenant's windows there. -/
def savedOf (s : State) (v c : Nat) : Saved :=
  let within (k : Nat) : Bool := (tenantRanges s v c).any fun r => decide (r.1 ≤ k ∧ k < r.1 + r.2)
  { v := v, c := c, cells := s.mem.filter fun e => within e.1, full := s.full.filter within }

theorem mem_saveRanges (s : State) (v c : Nat) : savedOf s v c ∈ (saveRanges s v c).saved := by
  have hsaved : (saveRanges s v c).saved = s.saved ++ [savedOf s v c] := by
    simp only [saveRanges, savedOf, setSaved, setFull, Bool.decide_and]
  rw [hsaved]
  exact List.mem_append_right _ (List.mem_singleton_self _)

theorem mem_saveChip {x : Saved} (h : x ∈ s.saved) (d : Nat) : x ∈ (saveChip s v d).saved := by
  unfold saveChip
  dsimp only
  split
  · exact List.mem_append_left _ h
  · exact h

theorem spoilSave_saved (s : State) (v : Nat) : (spoilSave s v).saved = s.saved := by
  unfold spoilSave
  dsimp only
  split
  · rfl
  next t h =>
    show t.saved = s.saved
    exact partWrite_keeps (p := State.saved) (fun _ _ => rfl) (fun _ _ => rfl) (fun _ _ => rfl) (fun _ _ => rfl)
      (fun _ _ => rfl) (fun _ _ => rfl) h

/-- What is saved of a cluster stays among the saved states (R279). -/
theorem mem_saveCluster (s : State) (v c : Nat) : savedOf (quietCluster s v c) v c ∈ (saveCluster s v c).saved := by
  show savedOf (quietCluster s v c) v c ∈ (spoilSave (saveChip (saveRanges (quietCluster s v c) v c) v (dieOf c)) v).saved
  rw [spoilSave_saved]
  exact mem_saveChip (mem_saveRanges _ v c) _

theorem isSaved_of_mem {x : Saved} (h : x ∈ s.saved) (hv : x.v = v) (hc : x.c = c) : isSaved s v c = true :=
  List.any_eq_true.mpr ⟨x, h, by simp [hv, hc]⟩

theorem tenantOf_setPstat (s : State) (n : Nat) (hv : v < 16) :
    tenantOf (setPstat s v n) v = { tenantOf s v with pstat := n } := by
  by_cases h : (tenantOf s v).pstat = n
  · simp only [setPstat, h, beq_self_eq_true, if_true]
    rw [← h]
  · simp only [setPstat, beq_iff_eq, h, if_false, tenantOf_sendMsix, tenantOf_putTenant _ _ hv]

theorem setPstat_held (s : State) (v n : Nat) : (setPstat s v n).cfg.held = s.cfg.held := by
  unfold setPstat
  dsimp only
  split
  · rfl
  · rfl

/-- Where no write to a tenant's block waits, none is taken up. -/
theorem tenantOf_takeHeld (h : ∀ e ∈ s.cfg.held, e.1 ≠ v) (w : Nat) : tenantOf (takeHeld s v) w = tenantOf s w := by
  have hnone : s.cfg.held.filter (fun e => e.1 == v) = [] := List.filter_eq_nil_iff.mpr fun e he => by simpa using h e he
  simp only [takeHeld, hnone, List.foldl_nil, tenantOf_setCfg]

/-- The last cluster that is saved ends the pre-emption (R279). -/
theorem leavePcmd_ends (hv : v < 16) (hpre : (tenantOf s v).preempt.contains c = true)
    (hres : (tenantOf s v).resume.contains c = false) (hrest : (tenantOf s v).preempt.filter (fun k => k != c) = [])
    (hheld : ∀ e ∈ s.cfg.held, e.1 ≠ v) :
    (tenantOf (leavePcmd s v c) v).pstat = 2 ∧ (tenantOf (leavePcmd s v c) v).preempt = [] := by
  have hends : ((tenantOf s v).resume.contains c && ((tenantOf s v).resume.filter fun k => k != c).isEmpty) = false :=
    not_ends (.inl hres)
  simp only [leavePcmd, hends, hpre, hrest, List.isEmpty_nil, Bool.and_self, Bool.false_eq_true, if_false, if_true]
  rw [tenantOf_takeHeld (by rw [setPstat_held]; exact hheld), tenantOf_setPstat _ _ hv, tenantOf_putTenant _ _ hv]
  exact ⟨rfl, rfl⟩

theorem leavePcmd_goes_on (hres : (tenantOf s v).resume.contains c = false)
    (hrest : (tenantOf s v).preempt.filter (fun k => k != c) ≠ []) :
    leavePcmd s v c = putTenant s v { tenantOf s v with
      preempt := (tenantOf s v).preempt.filter (fun k => k != c), urgent := (tenantOf s v).urgent.filter (fun k => k != c),
      resume := (tenantOf s v).resume.filter (fun k => k != c) } := by
  simp only [leavePcmd, not_ends (.inr hrest), not_ends (.inl hres), Bool.false_eq_true, if_false]

end

/-! ### Restoring -/

/-- The part once a cluster's bytes have returned, and its commands and tasks may run on. -/
def returned (s : State) (v c : Nat) (x : Saved) : State :=
  let s := restoreRanges s x
  let s := setEng s { s.eng with
    cmds := updWhere (fun m => m.tenant == v && m.c == c) (fun m => { m with stopped := false }) s.eng.cmds }
  setTasks s { s.tasks with
    tasks := updWhere (fun k => k.tenant == v && k.engine.getD k.c == c) (fun k => { k with stopped := false }) s.tasks.tasks }

/-- The part once the clusters that are left to return are counted, and the instances of this one go on. -/
def resumed (s : State) (v c : Nat) (left : List Nat) : State :=
  let s := resolveSaved (putTenant s v { tenantOf s v with resume := left }) v c
  settle (if left.isEmpty then setPstat s v 0 else s) c

section
variable {s s1 : State} {v c : Nat} {x : Saved}

theorem contextRestore_next (hx : (s.saved.find? fun y => y.v == v && y.c == c) = some x)
    (hres : (tenantOf s v).resume.contains c = true) (hothers : othersOn s v c = false)
    (hchip : restoreChip s v (dieOf c) = some s1) : exec (.contextRestore v c) s =
      .next (resumed (returned s1 v c x) v c ((tenantOf s v).resume.filter fun k => k != c)) := by
  show execContextRestore v c s = _
  simp only [execContextRestore, hx, hres, hothers, hchip, Bool.not_false, Bool.and_self, if_true]
  rfl

theorem resumed_keeps {α : Type} {p : State → α} (hchans : ∀ s v, p (setChans s v) = p s)
    (hinsts : ∀ s v, p (setInsts s v) = p s) (hid : ∀ s n, p (setNextId s n) = p s) (htasks : ∀ s v, p (setTasks s v) = p s)
    (hlaunches : ∀ s v, p (setLaunches s v) = p s) (htenants : ∀ s v, p (setTenants s v) = p s)
    (hcfg : ∀ s v, p (setCfg s v) = p s) (s : State) (left : List Nat) : p (resumed s v c left) = p s := by
  have hresolved := (resolveSaved_keeps hchans hinsts hid htasks hlaunches
    (putTenant s v { tenantOf s v with resume := left }) v c).trans (htenants _ _)
  unfold resumed
  refine (settle_keeps _ hchans hinsts hid _).trans ?_
  split
  · unfold setPstat
    dsimp only
    split
    · exact hresolved
    · exact (hcfg _ _).trans ((htenants _ _).trans hresolved)
  · exact hresolved

theorem tenantOf_resumed (hv : v < 16) (s : State) (left : List Nat) : (tenantOf (resumed s v c left) v).resume = left := by
  have hresolved : tenantOf (resolveSaved (putTenant s v { tenantOf s v with resume := left }) v c) v =
      { tenantOf s v with resume := left } :=
    (tenantOf_congr (resolveSaved_keeps (p := State.tenants) (fun _ _ => rfl) (fun _ _ => rfl) (fun _ _ => rfl)
      (fun _ _ => rfl) (fun _ _ => rfl) _ v c) v).trans (tenantOf_putTenant s _ hv)
  unfold resumed
  rw [tenantOf_congr (settle_keeps (p := State.tenants) _ (fun _ _ => rfl) (fun _ _ => rfl) (fun _ _ => rfl) c) v]
  split
  · rw [tenantOf_setPstat _ _ hv, hresolved]
  · rw [hresolved]

theorem lt_of_resume_contains (h : (tenantOf s v).resume.contains c = true) : v < 16 := by
  by_contra hv
  have ht : tenantOf s v = {} := by
    rw [tenantOf, List.getElem?_eq_none (by rw [Vector.length_toList]; omega)]
    rfl
  rw [ht] at h
  exact absurd h (by simp)

end

/-- Settles O45: requests by their code, a cluster's state kept among the saved ones, and returned from there. -/
theorem tenantsArePreempted : Obligations.TenantsArePreempted := by
  refine ⟨fun s v val => ⟨fun hslice hcode => ?_, fun hslice hcode => ?_, fun hslice => ⟨fun hcode => ?_, fun hcode => ?_⟩,
    fun hcode hpre => ?_, fun hcode hpre => ?_⟩, ?save,
    fun s v c x s1 hx hres hothers hchip => ?restore⟩
  · rw [pcmdPreempt_next hcode, preemptTenant_refused hslice]
  · rw [pcmdPreemptUrgent_next hcode, preemptTenant_refused hslice]
  · rw [pcmdPreempt_next hcode, (preemptTenant_taken hslice).1]
    rfl
  · rw [pcmdPreemptUrgent_next hcode, (preemptTenant_taken hslice).2]
    rfl
  · rw [pcmdResume_next hcode, resumeTenant_refused hpre]
  · rw [pcmdResume_next hcode, resumeTenant_taken hpre]
  case save =>
    intro s v c hv hpre s1 hbound
    have hmem := mem_saveCluster s1 v c
    exact ⟨contextSave_next hpre hbound, isSaved_of_mem hmem rfl rfl, ⟨_, hmem, rfl, rfl, rfl, rfl⟩,
      leavePcmd_goes_on, leavePcmd_ends hv⟩
  case restore =>
    have hxv : x.v = v ∧ x.c = c := by simpa using List.find?_some hx
    obtain ⟨rfl, rfl⟩ := hxv
    have hkeeps {α : Type} {p : State → α} := resumed_keeps (p := p) (v := x.v) (c := x.c)
    refine ⟨_, contextRestore_next hx hres hothers hchip, ?_, ?_, ?_, tenantOf_resumed (lt_of_resume_contains hres) _ _⟩
    · have hsaved : (resumed (returned s1 x.v x.c x) x.v x.c ((tenantOf s x.v).resume.filter fun k => k != x.c)).saved =
          s1.saved.filter fun y => !(y.v == x.v && y.c == x.c) :=
        hkeeps (p := State.saved) (fun _ _ => rfl) (fun _ _ => rfl) (fun _ _ => rfl) (fun _ _ => rfl) (fun _ _ => rfl)
          (fun _ _ => rfl) (fun _ _ => rfl) _ _
      rw [isSaved, hsaved, List.any_eq_false]
      intro y hy
      simpa [Decidable.imp_iff_not_or] using (List.mem_filter.mp hy).2
    · exact hkeeps (p := State.mem) (fun _ _ => rfl) (fun _ _ => rfl) (fun _ _ => rfl) (fun _ _ => rfl) (fun _ _ => rfl)
        (fun _ _ => rfl) (fun _ _ => rfl) _ _
    · refine (hkeeps (p := State.full) (fun _ _ => rfl) (fun _ _ => rfl) (fun _ _ => rfl) (fun _ _ => rfl) (fun _ _ => rfl)
        (fun _ _ => rfl) (fun _ _ => rfl) _ _).trans ?_
      simp only [returned, restoreRanges, Bool.decide_and]
      rfl

end Sys2Proof.Proofs.Preemption
end

section
/-! SUPPORT. A message that a FENCE still holds back: a refutation of what the statement says of delivery. -/

namespace Sys2Proof.Proofs.FencedMessages

open Sys2Proof.Machine

/-- A message that was staged while the FENCE 7 of its core had not completed (R255). -/
def fencedMessage : Msg := { fences := [7] }

/-- The part with that message on its way and that FENCE still in the order of a core. -/
def delivering : State := { State.reset with transit := [fencedMessage], pcores := [{ accs := [{ id := 7, kind := .fence }] }] }

/-- The message names an instance of no launch, so it would be dropped once it could be delivered. -/
theorem targetOf_fencedMessage : targetOf delivering fencedMessage = .none := rfl

/-- It waits for its FENCE. -/
theorem exec_messageDeliver : exec (.messageDeliver 0) delivering = .refused (.notEnabled "MESSAGE_DELIVER") := rfl

/-- Refutes O42: the statement has no hypothesis that the FENCEs of a message have completed, and one whose FENCE still stands in
its core's order is neither delivered nor dropped. -/
theorem not_recordsAndMessagesMove : ¬Obligations.RecordsAndMessagesMove := by
  unfold Obligations.RecordsAndMessagesMove
  rintro ⟨-, -, hdeliver, -⟩
  have hdropped := (hdeliver delivering 0 fencedMessage rfl rfl rfl).1 targetOf_fencedMessage
  rw [exec_messageDeliver] at hdropped
  cases hdropped

end Sys2Proof.Proofs.FencedMessages
end

section
/-! SUPPORT. How a firing binds, commits and ends (R27, R28, R106 to R109, R281). -/

namespace Sys2Proof.Proofs.FiringEvents

open Sys2Proof.Machine

section
variable {s : State} {c : Nat}

/-! ### Binding -/

theorem firingBind_binds {x : Inst} {lead : Nat}
    (hgroup : ∀ y ∈ s.insts, y.clus = c → y.st = .eligible → noGroup s c (instWidth s y) = false)
    (hx : oldestInst (s.insts.filter fun y => readyInst s c y && inputsQuiet s y && (bindLead s y).isSome) = some x)
    (hlead : bindLead s x = some lead) : exec (.firingBind c) s = .next (bindInst s x lead) := by
  have hany : (s.insts.any fun y => y.clus == c && y.st == .eligible && noGroup s c (instWidth s y)) = false := by
    rw [List.any_eq_false]
    intro y hy
    rw [Bool.and_eq_true, Bool.and_eq_true, beq_iff_eq, beq_iff_eq]
    rintro ⟨⟨hc, hst⟩, hno⟩
    rw [hgroup y hy hc hst] at hno
    cases hno
  show execFiringBind c s = _
  simp only [execFiringBind, hany, hx, hlead, Bool.false_and, Bool.false_eq_true, if_false]

theorem firingBind_fences {x : Inst} (hx : x ∈ s.insts) (hc : x.clus = c) (hst : x.st = .eligible)
    (hno : noGroup s c (instWidth s x) = true) (hfenced : s.cfg.fenced.contains c = false) :
    exec (.firingBind c) s = .next (fenceCluster s c) := by
  have hany : (s.insts.any fun y => y.clus == c && y.st == .eligible && noGroup s c (instWidth s y)) = true :=
    List.any_eq_true.mpr ⟨x, hx, by simp [hc, hst, hno]⟩
  show execFiringBind c s = _
  simp only [execFiringBind, hany, hfenced, Bool.not_false, Bool.and_self, if_true]

/-- The group that the instance which starves waits for is closed (R106). -/
theorem starvationClose_next {x : Inst} {lead : Nat} (hx : oldestInst (s.insts.filter (readyInst s c)) = some x)
    (hclk : x.since + 4096 ≤ s.clk) (hopen : ∀ g ∈ s.closed, g.inst ≠ x.id)
    (hlead : (leadsOf s x).find? (groupSound s x) = some lead) : exec (.starvationClose c) s =
      .next (setClosed s (s.closed ++ [{ c := c, inst := x.id, lead := lead, width := instWidth s x }])) := by
  have hwait : waitGroup s c = some { c := c, inst := x.id, lead := lead, width := instWidth s x } := by
    simp only [waitGroup, hx, Option.bind_some, hlead, Option.map_some]
  have hany : (s.closed.any fun g => g.inst == x.id) = false := by
    rw [List.any_eq_false]
    exact fun g hg => by simpa using hopen g hg
  show execStarvationClose c s = _
  simp only [execStarvationClose, hx, hany, hwait, Nat.not_lt.mpr hclk, decide_false, Bool.or_self, Bool.false_eq_true, if_false]

theorem clusterUnitFailure_next (h : s.cfg.fenced.contains c = false) :
    exec (.clusterUnitFailure c) s = .next (sweep (fenceCluster s c)) := by
  show execClusterUnitFailure c s = _
  simp only [execClusterUnitFailure, h, Bool.false_eq_true, if_false]

end

/-! ### Ending -/

section
variable {s : State} {n : Nat} {f : Firing} (hf : firingOf s n = some f)
include hf

theorem commitTakeEffect_next (hending : f.ending = true) (hexpired : expired f = false) (hquiet : commitQuiet s f = true)
    (hfit : sendsFit s f = true) : exec (.commitTakeEffect n) s = .next (sweep (commitFiring s f)) := by
  show execCommitTakeEffect n s = _
  simp only [execCommitTakeEffect, hf, hending, hexpired, hquiet, hfit, Bool.not_true, Bool.or_self, Bool.and_self,
    Bool.false_eq_true, if_false, if_true]

theorem watchdogExpiry_next (hissued : f.issued = true) (hlimit : f.wdlimit ≤ f.wdcount) :
    exec (.watchdogExpiry n) s = .next (sweep (trapFiring s f { core := (stalledCore f).idx, cause := 0x11 }
      (wordsAt s f (stalledCore f)).1 (wordsAt s f (stalledCore f)).2)) := by
  have hexpired : expired f = true := by simp [expired, hissued, hlimit]
  show execWatchdogExpiry n s = _
  simp only [execWatchdogExpiry, hf, hexpired, Bool.not_true, Bool.false_eq_true, if_false]

/-! ### Hardware errors -/

/-- Whether a firing may start again after a hardware error (R281). -/
def mayRestart (s : State) (f : Firing) : Prop :=
  ((launchOf s f.launch).map fun l => l.rst).getD false = true ∧ (actorOf s f.launch f.actor).rst = true ∧ f.attempt < 3

variable {core : Nat} {passes : Bool} (hcore : ∃ k ∈ f.cores, k.idx = core)
include hcore

theorem hardwareError_eq : exec (.hardwareError n core passes) s =
    let s1 := noteError s f.clus core
    if !(((launchOf s1 f.launch).map fun l => l.rst).getD false && (actorOf s1 f.launch f.actor).rst && f.attempt < 3) then
      .next (sweep (hwFail s1 f core))
    else match instOf s1 f.inst with
      | none => .fault (.inconsistent "instance")
      | some x =>
        if (leadsOf s1 x).any (groupSound s1 { x with avoid := some core }) then .next (sweep (restartFiring s1 f core true))
        else if passes && inService s1 f.clus core then .next (sweep (restartFiring s1 f core false))
        else .next (sweep (hwFail (putPcore s1 { pcoreAt s1 f.clus core with out := true }) f core)) := by
  have hany : (f.cores.any fun k => k.idx == core) = true := by simpa using hcore
  show execHardwareError n core passes s = _
  simp only [execHardwareError, hf, hany, Bool.not_true, Bool.false_eq_true, if_false] <;> rfl

theorem hardwareError_fails (hmay : ¬mayRestart (noteError s f.clus core) f) :
    exec (.hardwareError n core passes) s = .next (sweep (hwFail (noteError s f.clus core) f core)) := by
  have hno : (!(((launchOf (noteError s f.clus core) f.launch).map fun l => l.rst).getD false &&
      (actorOf (noteError s f.clus core) f.launch f.actor).rst && decide (f.attempt < 3))) = true := by
    rw [Bool.not_eq_true', ← Bool.not_eq_true, Bool.and_eq_true, Bool.and_eq_true, decide_eq_true_iff, and_assoc]
    exact hmay
  rw [hardwareError_eq hf hcore]
  dsimp only
  rw [if_pos hno]

/-- A firing that may start again does so on other cores, or on this one after a check that it passes; else its core goes out
of service, and it fails (R281). -/
theorem hardwareError_restarts {x : Inst} (hmay : mayRestart (noteError s f.clus core) f)
    (hx : instOf (noteError s f.clus core) f.inst = some x) : exec (.hardwareError n core passes) s =
      let s1 := noteError s f.clus core
      if (leadsOf s1 x).any (groupSound s1 { x with avoid := some core }) then .next (sweep (restartFiring s1 f core true))
      else if passes && inService s1 f.clus core then .next (sweep (restartFiring s1 f core false))
      else .next (sweep (hwFail (putPcore s1 { pcoreAt s1 f.clus core with out := true }) f core)) := by
  obtain ⟨hlaunch, hactor, hattempt⟩ := hmay
  rw [hardwareError_eq hf hcore]
  simp only [hlaunch, hactor, hattempt, hx, decide_true, Bool.and_self, Bool.not_true, Bool.false_eq_true, if_false]

end

/-- Settles O41: one lemma for each event, and the cases of a hardware error. -/
theorem firingsBindAndEnd : Obligations.FiringsBindAndEnd := by
  refine ⟨fun s c x lead => firingBind_binds, fun s c x => firingBind_fences, fun s c x lead => starvationClose_next,
    fun s c => clusterUnitFailure_next, fun s n f hf => ⟨commitTakeEffect_next hf, watchdogExpiry_next hf,
    fun core passes hcore => ⟨hardwareError_fails hf hcore, fun x hmay hx => ?_⟩⟩⟩
  have hany {y : Inst} : (leadsOf (noteError s f.clus core) x).any (groupSound (noteError s f.clus core) y) = true ↔
      ∃ l ∈ leadsOf (noteError s f.clus core) x, groupSound (noteError s f.clus core) y l = true := List.any_eq_true
  rw [hardwareError_restarts hf hcore hmay hx]
  refine ⟨fun haway => ?_, fun haway hpasses hservice => ?_, fun haway hout => ?_⟩
  · exact if_pos (hany.mpr haway)
  · exact (if_neg (mt hany.mp haway)).trans (if_pos (by rw [hpasses, hservice]; rfl))
  · refine (if_neg (mt hany.mp haway)).trans (if_neg ?_)
    obtain hout | hout := hout
    · simp [hout]
    · simp [hout]

end Sys2Proof.Proofs.FiringEvents
end

section
/-! SUPPORT. How launches are accepted, proceed, take context and end (R19, R20, R23, R24, R409). -/

namespace Sys2Proof.Proofs.LaunchEvents

open Sys2Proof.Machine Sys2Proof.Proofs.TakingTraps

/-! ### Acceptance -/

section
variable {s : State} {v : Nat}

theorem suplWrite_ignored (h : (tenantOf s v).vstate ≠ 2) (val : Word) : exec (.suplWrite v val) s = .next s := by
  show execSuplWrite v val s = _
  simp only [execSuplWrite, bne_iff_ne, ne_eq, h, not_false_eq_true, if_true]

theorem lqDoorbell_next (tail : W32) : exec (.lqDoorbell v tail) s =
    .next (if (tenantOf s v).vstate = 2 ∧ (tail - (tenantOf s v).lqhead).toNat ≤ 2 ^ (tenantOf s v).lqlog.toNat then
      putTenant s v { tenantOf s v with lqtail := tail } else s) := by
  show execLqDoorbell v tail s = _
  simp only [execLqDoorbell, Bool.and_eq_true, beq_iff_eq, decide_eq_true_eq]
  split
  · rfl
  · rfl

variable (hready : (tenantOf s v).vstate = 2)
include hready

theorem suplWrite_taken (val : Word) : exec (.suplWrite v val) s = .next (putTenant s v
    (if (tenantOf s v).suplLaunch = none ∧ (tenantOf s v).supl = none then { tenantOf s v with supl := some val }
     else { tenantOf s v with suplHeld := some val })) := by
  have hnone : ((tenantOf s v).suplLaunch.isSome || (tenantOf s v).supl.isSome) = true ↔
      ¬((tenantOf s v).suplLaunch = none ∧ (tenantOf s v).supl = none) := by
    rw [Bool.or_eq_true, Option.isSome_iff_ne_none, Option.isSome_iff_ne_none, not_and_or]
  show execSuplWrite v val s = _
  simp only [execSuplWrite, hready, bne_self_eq_false, Bool.false_eq_true, if_false, hnone, ite_not]
  split
  · rfl
  · rfl

/-- The queue is read while it holds an entry and no supervisor's launch is taken up (R409). -/
theorem launchAccept_queue (hq : (tenantOf s v).lqhead ≠ (tenantOf s v).lqtail) (hsupl : (tenantOf s v).supl = none) :
    exec (.launchAccept v .queue) s = acceptQueue s v := by
  show execLaunchAccept v .queue s = _
  simp only [execLaunchAccept, hready, hsupl, beq_false_of_ne hq, bne_self_eq_false, Option.isSome_none, Bool.or_self,
    Bool.false_eq_true, if_false]

theorem launchAccept_supl {va : Word} (hsupl : (tenantOf s v).supl = some va) : exec (.launchAccept v .supl) s =
    match acceptRecord s v va .supl with
    | (s, .asking) => .next s
    | (s, .accepted id) => .next (tookSupl s v (some id))
    | (s, _) => .next (tookSupl s v none) := by
  show execLaunchAccept v .supl s = _
  simp only [execLaunchAccept, hready, hsupl, bne_self_eq_false, Bool.false_eq_true, if_false] <;> rfl

theorem launchAccept_klaunch {n dest id : Nat} {va : Word} {k k1 : Slot} {s1 : State} (hk : slotOf s n = some k)
    (hkl : k.klaunch = some (dest, va)) (htenant : k.tenant = v)
    (hacc : acceptRecord s v va (.klaunch n dest) = (s1, .accepted id)) (hk1 : slotOf s1 n = some k1) :
    exec (.launchAccept v (.klaunch n)) s =
      .next (putSlot s1 { k1 with a := k1.a.setIfInBounds dest 0, pc := k1.pc + 8, klaunch := none }) := by
  show execLaunchAccept v (.klaunch n) s = _
  simp only [execLaunchAccept, hready, hk, hkl, htenant, hacc, hk1, bne_self_eq_false, Bool.false_eq_true, if_false]

end

section
variable {s s1 : State} {v : Nat}

/-- The address of the queue's first entry. -/
def queueEntry (t : Tenant) : Word := t.lqbase + BitVec.ofNat 64 (8 * (t.lqhead.toNat % 2 ^ t.lqlog.toNat))

theorem acceptQueue_asks (h : partServed s v (queueEntry (tenantOf s v)) 8 = false) : acceptQueue s v = .next s := by
  rw [queueEntry] at h
  simp only [acceptQueue, h, Bool.not_false, if_true]

variable {bytes : List Byte} (hserved : partServed s v (queueEntry (tenantOf s v)) 8 = true)
  (hread : partRead s v (queueEntry (tenantOf s v)) 8 = .ok (s1, bytes))
include hserved hread

theorem acceptQueue_skips
    (hbad : (BitVec.ofNat 64 (ofBytes bytes)).toNat % 32 ≠ 0 ∨ spaceOf (BitVec.ofNat 64 (ofBytes bytes)) ≠ 0) :
    acceptQueue s v = .next (putTenant s1 v { tenantOf s1 v with
      lqhead := (tenantOf s1 v).lqhead + 1, lqerr := (tenantOf s1 v).lqerr + 1 }) := by
  have hbad' : ((BitVec.ofNat 64 (ofBytes bytes)).toNat % 32 != 0 || spaceOf (BitVec.ofNat 64 (ofBytes bytes)) != 0) = true := by
    simpa only [Bool.or_eq_true, bne_iff_ne] using hbad
  rw [queueEntry] at hserved hread
  simp only [acceptQueue, hserved, hread, hbad', Bool.not_true, Bool.false_eq_true, if_false, if_true]

theorem acceptQueue_accepts {s2 : State} {id : Nat} (halign : (BitVec.ofNat 64 (ofBytes bytes)).toNat % 32 = 0)
    (hspace : spaceOf (BitVec.ofNat 64 (ofBytes bytes)) = 0)
    (hacc : acceptRecord s1 v (BitVec.ofNat 64 (ofBytes bytes)) .queue = (s2, .accepted id)) :
    acceptQueue s v = .next (putTenant s2 v { tenantOf s2 v with lqhead := (tenantOf s2 v).lqhead + 1 }) := by
  rw [queueEntry] at hserved hread
  simp only [acceptQueue, hserved, hread, halign, hspace, hacc, bne_self_eq_false, Bool.or_self, Bool.not_true,
    Bool.false_eq_true, if_false]

end

/-! ### A held launch goes on -/

section
variable {s : State} {n : Nat} {k : Launch}

variable (hk : launchOf s n = some k) (hheld : k.held = true)
include hk hheld

theorem launchProceed_at_once {s1 : State} {counts : List Nat} (hafter : k.after = 0)
    (hcounts : readCounts s k.tenant n k.levels = .ok (s1, some counts)) :
    exec (.launchProceed n) s = .next (putLaunch s1 { proceeding s1 n k with held := false, counts := counts, ts := s1.hts }) := by
  show execLaunchProceed n s = _
  simp only [execLaunchProceed, hk, hheld, hafter, hcounts, Bool.not_true, Bool.false_eq_true, if_false, beq_self_eq_true,
    if_true]

theorem launchProceed_after {s1 s2 : State} {p : Place} {counts : List Nat} (hafter : k.after ≠ 0)
    (hlocate : partLocate s k.tenant k.after .rd = (s1, .ok p)) (hword : (partWord s1 p.key 8 n).2 ≠ 0)
    (hserved : served s1 .sys p.key 8 = true)
    (hcounts : readCounts (partWord s1 p.key 8 n).1 k.tenant n k.levels = .ok (s2, some counts)) :
    exec (.launchProceed n) s = .next (putLaunch s2 { proceeding s2 n k with held := false, counts := counts, ts := s2.hts }) := by
  show execLaunchProceed n s = _
  simp only [execLaunchProceed, hk, hheld, hlocate, hserved, hcounts, beq_false_of_ne hafter, beq_false_of_ne hword,
    Bool.not_true, Bool.or_self, Bool.false_eq_true, if_false]

end

/-! ### A level instance takes context -/

section
variable {s t : State} {c : Nat}

/-- An instance is another but for what it waits on and has reserved. -/
def SamePlace (y x : Inst) : Prop := y.launch = x.launch ∧ y.actor = x.actor ∧ y.path = x.path ∧ y.clus = x.clus

/-- What becomes eligible stays in its place. -/
theorem mem_settle (s : State) (c : Nat) {x : Inst} (hx : x ∈ s.insts) : ∃ y ∈ (settle s c).insts, SamePlace y x := by
  unfold settle
  generalize s.insts = l
  induction l generalizing s x with
  | nil => exact ⟨x, hx, rfl, rfl, rfl, rfl⟩
  | cons a l ih =>
    rw [List.foldl_cons]
    split
    · split
      · exact ih s hx
      next r rs hr =>
        obtain ⟨chans, hc⟩ := reserve_eq hr
        obtain rfl : r = setChans s chans := hc
        have hy : ∃ y ∈ (makeEligible (setChans s chans) a.id fun x => { x with kept := some rs }).insts, SamePlace y x := by
          refine ⟨_, List.mem_map_of_mem (l := s.insts) hx, ?_⟩
          split
          · exact ⟨rfl, rfl, rfl, rfl⟩
          · exact ⟨rfl, rfl, rfl, rfl⟩
        obtain ⟨y, hy, hl, ha, hp, hcl⟩ := hy
        obtain ⟨z, hz, hl', ha', hp', hcl'⟩ := ih _ hy
        exact ⟨z, hz, hl'.trans hl, ha'.trans ha, hp'.trans hp, hcl'.trans hcl⟩
    · exact ih s hx

/-- The part with one more instance, of an actor that took context. -/
def placeOne (c : Nat) (group : Option (Nat × Nat)) (l : Launch) (path : List Nat) (s : State) (a : Nat) : State :=
  setInsts (newId s).2 ((newId s).2.insts ++
    [{ id := (newId s).1, launch := l.id, tenant := l.tenant, actor := a, path := path, clus := c, group := group }])

section
variable {group : Option (Nat × Nat)} {l : Launch} {path : List Nat}

theorem mem_foldl_placeOne (actors : List Nat) (s : State) {x : Inst} (hx : x ∈ s.insts) :
    x ∈ (actors.foldl (placeOne c group l path) s).insts := by
  induction actors generalizing s with
  | nil => exact hx
  | cons b actors ih => exact ih _ (List.mem_append_left _ hx)

theorem foldl_placeOne_places (actors : List Nat) (s : State) : (actors.foldl (placeOne c group l path) s).bars = s.bars ∧
    ∀ a ∈ actors, ∃ x ∈ (actors.foldl (placeOne c group l path) s).insts,
      x.launch = l.id ∧ x.actor = a ∧ x.path = path ∧ x.clus = c := by
  induction actors generalizing s with
  | nil => exact ⟨rfl, fun a ha => absurd ha List.not_mem_nil⟩
  | cons b actors ih =>
    refine ⟨(ih _).1, fun a ha => ?_⟩
    obtain rfl | ha := List.mem_cons.mp ha
    · exact ⟨_, mem_foldl_placeOne actors _ (List.mem_append_right _ (List.mem_singleton_self _)), rfl, rfl, rfl, rfl⟩
    · exact (ih _).2 a ha

/-- The places of the actors of a level, one new instance for each (R24). -/
theorem mem_placeInsts {actors : List Nat} (h : placeInsts c group l path actors s = some t) : t.bars = s.bars ∧
      ∀ a ∈ actors, ∃ x ∈ t.insts, x.launch = l.id ∧ x.actor = a ∧ x.path = path ∧ x.clus = c := by
  unfold placeInsts at h
  dsimp only at h
  split at h
  · cases h
  · obtain rfl := Option.some.inj h
    exact foldl_placeOne_places actors s

end

theorem mem_allotBars {id : Nat} (h : allotBars c id s = some t) : ∃ g ∈ t.bars, g.clus = c ∧ g.launch = id := by
  unfold allotBars at h
  split at h
  next hany =>
    obtain rfl := Option.some.inj h
    obtain ⟨g, hg, heq⟩ := List.any_eq_true.mp hany
    exact ⟨g, hg, by simpa using heq⟩
  next =>
    obtain ⟨j, -, rfl⟩ := Option.map_eq_some_iff.mp h
    exact ⟨_, List.mem_append_right _ (List.mem_singleton_self _), rfl, rfl⟩

theorem makeChans_bars {l : Launch} {actors : List Nat} (h : makeChans c l actors s = some t) : t.bars = s.bars := by
  unfold makeChans at h
  dsimp only at h
  split at h
  · cases h
  · obtain rfl := Option.some.inj h
    rfl

/-- A level instance that took context has its barriers, and a place for each of its actors (R24). -/
theorem takeOn_places {u : HwUnit} {l : Launch} {path actors : List Nat} (h : takeOn c u l path actors s = some t) :
    (∃ g ∈ t.bars, g.clus = c ∧ g.launch = l.id) ∧
      ∀ a ∈ actors, ∃ x ∈ t.insts, x.launch = l.id ∧ x.actor = a ∧ x.path = path ∧ x.clus = c := by
  unfold takeOn at h
  obtain ⟨s1, -, h⟩ := Option.bind_eq_some_iff.mp h
  obtain ⟨s2, -, h⟩ := Option.bind_eq_some_iff.mp h
  obtain ⟨s3, -, h⟩ := Option.bind_eq_some_iff.mp h
  obtain ⟨s4, hbars, h⟩ := Option.bind_eq_some_iff.mp h
  obtain ⟨s5, hchans, h⟩ := Option.bind_eq_some_iff.mp h
  obtain ⟨s6, hinsts, h⟩ := Option.bind_eq_some_iff.mp h
  obtain rfl := Option.some.inj h
  obtain ⟨hsame, hplaces⟩ := mem_placeInsts hinsts
  constructor
  · rw [settle_keeps (p := State.bars) s6 (fun _ _ => rfl) (fun _ _ => rfl) (fun _ _ => rfl) c, hsame, makeChans_bars hchans]
    exact mem_allotBars hbars
  · intro a ha
    obtain ⟨x, hx, hl, hac, hp, hcl⟩ := hplaces a ha
    obtain ⟨y, hy, hl', hac', hp', hcl'⟩ := mem_settle s6 c hx
    exact ⟨y, hy, hl'.trans hl, hac'.trans hac, hp'.trans hp, hcl'.trans hcl⟩

end

section
variable {s : State} {n : Nat} {path : List Nat} {k : Launch} (hk : launchOf s n = some k) (hheld : k.held = false)
include hk hheld

theorem levelTakeContext_next {u : HwUnit} {c : Nat} {s1 : State} (hready : pathReady k path = true)
    (hunit : unitAt k.part (launchWidth k) k.levels path {} = some u) (hplace : placeOf k.part u = some c)
    (hholds : holdsCluster s k.tenant c = true) (hleaving : (tenantOf s k.tenant).leaving.contains c = false)
    (hsaved : isSaved s k.tenant c = false) (hothers : othersOn s k.tenant c = false) (hfenced : s.cfg.fenced.contains c = false)
    (hahead : ∀ e ∈ s.launches, e.tenant = k.tenant → e.id < n → e.held = false → hasOpen e (some c) = false)
    (htake : takeOn c u k path (actorsAt k (path.length - 1)) (setLaunches s (s.launches.map fun x =>
      if x.id == n then { x with taken := x.taken ++ [path] } else x)) = some s1) :
    exec (.levelTakeContext n path) s = .next s1 := by
  have hany : (s.launches.any fun e => e.tenant == k.tenant && decide (e.id < n) && !e.held && hasOpen e (some c)) = false := by
    rw [List.any_eq_false]
    intro e he
    simp only [Bool.and_eq_true, beq_iff_eq, decide_eq_true_eq, Bool.not_eq_true']
    rintro ⟨⟨⟨htenant, hid⟩, hopen⟩, hyes⟩
    rw [hahead e he htenant hid hopen] at hyes
    cases hyes
  show execLevelTakeContext n path s = _
  simp only [execLevelTakeContext, hk, hheld, hready, hunit, hplace, hholds, hleaving, hsaved, hothers, hfenced, hany,
    Option.bind_some, Option.map_some, Bool.not_true, Bool.or_self, Bool.false_eq_true, if_false]
  rw [updWhere, htake]

end

/-! ### Ends -/

theorem workLeft_of_none {s : State} {cmd : Cmd → Bool} {task : Task → Bool} (hcmd : ∀ m ∈ s.eng.cmds, cmd m = false)
    (htask : ∀ t ∈ s.tasks.tasks, task t = true → t.fin = true) : workLeft s cmd task = false := by
  have hc : s.eng.cmds.any cmd = false := List.any_eq_false.mpr fun m hm => by simp [hcmd m hm]
  have ht : (s.tasks.tasks.any fun t => task t && !t.fin) = false := by
    rw [List.any_eq_false]
    intro t ht
    rw [Bool.and_eq_true, Bool.not_eq_true']
    rintro ⟨hyes, hfin⟩
    rw [htask t ht hyes] at hfin
    cases hfin
  rw [workLeft, hc, ht]
  rfl

section
variable {s : State} {n : Nat} {k : Launch} (hk : launchOf s n = some k)
include hk

/-- Whether an instance is of a path of a launch. -/
def isUnder (n : Nat) (path : List Nat) (x : Inst) : Bool := x.launch == n && x.path.take path.length == path

theorem repeatInstanceFinish_next {path : List Nat} (hpath : path ≠ []) (hdom : (k.levels.getD (path.length - 1) {}).dom = 6)
    (htaken : k.taken.contains path = true) (hfinished : isFinished k path = false)
    (hbelow : ((unitAt k.part (launchWidth k) k.levels path {}).any fun u =>
      openLevel k (launchWidth k) (fun _ _ => true) ((k.levels.zip k.counts).drop path.length) path u) = false)
    (hquiet : ∀ x ∈ s.insts, isUnder n path x = true → quiescent x = true)
    (htransit : ∀ m ∈ s.transit, m.launch = n → ∀ x a, targetOf s m = .inst x a → isUnder n path x = false)
    (hinbox : ∀ e ∈ s.inbox, e.2.inst ∉ (s.insts.filter (isUnder n path)).map fun x => x.id)
    (hcmds : ∀ m ∈ s.eng.cmds, m.inst ∉ (s.insts.filter (isUnder n path)).map fun x => x.id)
    (htasks : ∀ t ∈ s.tasks.tasks, t.inst ∈ (s.insts.filter (isUnder n path)).map (fun x => x.id) → t.fin = true) :
    exec (.repeatInstanceFinish n path) s = .next (putLaunch (setClosed (setInsts s
        (s.insts.filter fun x => !(isUnder n path x)))
        (s.closed.filter fun g => !(((s.insts.filter (isUnder n path)).map fun x => x.id).contains g.inst)))
        { k with finished := k.finished ++ [path] }) := by
  have hwork : workLeft s (fun m => ((s.insts.filter (isUnder n path)).map fun x => x.id).contains m.inst)
      (fun t => ((s.insts.filter (isUnder n path)).map fun x => x.id).contains t.inst) = false :=
    workLeft_of_none (fun m hm => by simpa only [← Bool.not_eq_true, List.contains_iff_mem] using hcmds m hm)
      fun t ht hin => htasks t ht (List.contains_iff_mem.mp hin)
  have hq : (s.insts.all fun x => !(isUnder n path x) || quiescent x) = true := by
    rw [List.all_eq_true]
    intro x hx
    cases hu : isUnder n path x with
    | false => rfl
    | true => exact hquiet x hx hu
  have hmsg : (s.transit.any fun m => m.launch == n && match targetOf s m with
      | .inst x _ => isUnder n path x
      | _ => false) = false := by
    rw [List.any_eq_false]
    intro m hm
    rw [Bool.and_eq_true, beq_iff_eq]
    rintro ⟨hl, hyes⟩
    split at hyes
    next x a htarget =>
      rw [htransit m hm hl x a htarget] at hyes
      cases hyes
    next => cases hyes
  have hin : (s.inbox.any fun e => ((s.insts.filter (isUnder n path)).map fun x => x.id).contains e.2.inst) = false := by
    rw [List.any_eq_false]
    exact fun e he => by simpa only [List.contains_iff_mem] using hinbox e he
  have hempty : path.isEmpty = false := List.isEmpty_eq_false_iff.mpr hpath
  show execRepeatInstanceFinish n path s = _
  unfold isUnder at hwork hq hmsg hin
  simp only [execRepeatInstanceFinish, hk, hempty, hdom, htaken, hfinished, hbelow, bne_self_eq_false, Bool.not_true,
    Bool.or_self, Bool.false_or, hq, hin, hwork, Bool.or_false]
  exact if_neg (Bool.not_eq_true _ ▸ hmsg)

theorem launchComplete_next (hheld : k.held = false) (hopen : hasOpen k none = false)
    (hquiet : ∀ x ∈ s.insts, x.launch = n → quiescent x = true) (hfirings : ∀ f ∈ s.firings, f.launch ≠ n)
    (htransit : ∀ m ∈ s.transit, m.launch = n → m.kind = 4) (hinbox : ∀ e ∈ s.inbox, e.2.launch = n → canFill s e = false)
    (hcmds : ∀ m ∈ s.eng.cmds, m.launch ≠ n) (htasks : ∀ t ∈ s.tasks.tasks, t.launch = n → t.fin = true)
    (haccs : ∀ p ∈ s.pcores, ∀ a ∈ p.accs, a.launch = n → a.kind ≠ .fence → sysDone a = true) :
    exec (.launchComplete n) s = .next (endLaunch s k (if k.failed then 3 else 1)) := by
  have hwork : workLeft s (fun m => m.launch == n) (fun t => t.launch == n) = false :=
    workLeft_of_none (fun m hm => beq_false_of_ne (hcmds m hm)) fun t ht hin => htasks t ht (by simpa using hin)
  have hinsts : (s.insts.any fun x => x.launch == n && !(quiescent x)) = false := by
    rw [List.any_eq_false]
    intro x hx
    rw [Bool.and_eq_true, beq_iff_eq, Bool.not_eq_true']
    rintro ⟨hl, hno⟩
    rw [hquiet x hx hl] at hno
    cases hno
  have hf : (s.firings.any fun f => f.launch == n) = false := by
    rw [List.any_eq_false]
    exact fun f hf => by simpa using hfirings f hf
  have hmsg : (s.transit.any fun m => m.launch == n && m.kind != 4) = false := by
    rw [List.any_eq_false]
    exact fun m hm => by simpa using htransit m hm
  have hin : (s.inbox.any fun e => e.2.launch == n && canFill s e) = false := by
    rw [List.any_eq_false]
    intro e he
    rw [Bool.and_eq_true, beq_iff_eq]
    rintro ⟨hl, hyes⟩
    rw [hinbox e he hl] at hyes
    cases hyes
  have hdone : (s.pcores.all fun p => (p.accs.filter fun a => a.launch == n && a.kind != .fence).all sysDone) = true := by
    rw [List.all_eq_true]
    intro p hp
    rw [List.all_eq_true]
    intro a ha
    obtain ⟨ha, hmine⟩ := List.mem_filter.mp ha
    rw [Bool.and_eq_true, beq_iff_eq, bne_iff_ne] at hmine
    exact haccs p hp a ha hmine.1 hmine.2
  show execLaunchComplete n s = _
  simp only [execLaunchComplete, hk, hheld, hopen, hinsts, hf, hmsg, hin, hwork, hdone, Bool.or_self, Bool.false_eq_true,
    if_false, if_true]

end

/-- A launch ends with its status written, and frees the supervisor's place (R19, R23, R409). -/
theorem endLaunch_eq {s s1 : State} {k : Launch} {p : Place} (code : Nat) (hstep : isStep k.origin = false)
    (hlocate : partLocate s k.tenant k.done .wr = (s1, .ok p)) (hspace : spaceOf k.done = 0) : endLaunch s k code =
      freeSupl (stepEnded (forgetLaunch (partPut s1 p.key 8 code k.wts) k.id) k.id (code != 1)) k.tenant k.id := by
  have hhost : (spaceOf k.done == 1) = false := by rw [hspace]; rfl
  simp only [endLaunch, writeStatus, hstep, hlocate, hhost, Bool.false_eq_true, if_false]

/-- Settles O40: one lemma for each event and each outcome of an acceptance. -/
theorem launchesRun : Obligations.LaunchesRun := by
  refine ⟨fun s v => ⟨fun val h => suplWrite_ignored h val, fun tail h => ?_, fun hready => ⟨suplWrite_taken hready,
    fun tail => ?_, ⟨fun hq hsupl hserved => ?_, fun s1 bytes hq hsupl hserved hread => ?_⟩, fun va s1 id hsupl hacc => ?_,
    fun va s1 a hsupl hacc hout => ?_, fun n k dest va s1 id k1 => launchAccept_klaunch hready⟩⟩,
    fun s n k hk hheld => ?_, fun s n path k hk hheld => ⟨fun u c s1 hr hu hp hh hl hs ho hf ha htake => ?_,
      repeatInstanceFinish_next hk, launchComplete_next hk hheld⟩,
    fun s k code s1 p => endLaunch_eq code⟩
  · rw [lqDoorbell_next, if_neg fun hboth => h hboth.1]
  · rw [lqDoorbell_next]
    simp only [hready, true_and]
  · rw [launchAccept_queue hready hq hsupl, acceptQueue_asks hserved]
  · rw [launchAccept_queue hready hq hsupl]
    exact ⟨acceptQueue_skips hserved hread, fun s2 id => acceptQueue_accepts hserved hread⟩
  · rw [launchAccept_supl hready hsupl, hacc]
    rfl
  · rw [launchAccept_supl hready hsupl, hacc]
    obtain rfl | ⟨n, rfl⟩ := hout
    · rfl
    · rfl
  · exact ⟨fun s1 counts => launchProceed_at_once hk hheld, fun s1 p s2 counts => launchProceed_after hk hheld⟩
  · have hid : k.id = n := by simpa using List.find?_some hk
    have hplaces := takeOn_places htake
    rw [hid] at hplaces
    exact ⟨levelTakeContext_next hk hheld hr hu hp hh hl hs ho hf ha htake, hplaces⟩

end Sys2Proof.Proofs.LaunchEvents
end

section
/-! SUPPORT. How a step is filled and commits (R377 to R379, R397). -/

namespace Sys2Proof.Proofs.AgentSteps

open Sys2Proof.Machine

section
variable {s : State} {v n : Nat} {m : Model}

/-- A step that begins stands among the steps in flight, whatever its record comes to. -/
theorem mem_steps_beginStep (s : State) (v n : Nat) (m : Model) (f : Filling) (waiting : List ReadyAgent) :
    ∃ t ∈ (beginStep s v n m f waiting).ctx.steps, t.tenant = v ∧ t.inst = n := by
  unfold beginStep
  dsimp only
  split
  · exact ⟨_, List.mem_append_right _ (List.mem_singleton_self _), rfl, rfl⟩
  · exact ⟨_, List.mem_append_right _ (List.mem_singleton_self _), rfl, rfl⟩

theorem stepFill_next (hm : modelOf s v n = some m) (hpin : pinHolds s v n = false)
    (hsteps : ∀ t ∈ s.ctx.steps, ¬(t.tenant = v ∧ t.inst = n)) (hseated : (fillStep (takeFaults s) m).seated ≠ []) :
    exec (.stepFill v n) s = .next (beginStep (takeFaults s) v n m (fillStep (takeFaults s) m)
      ((readyFor (takeFaults s) m).filter fun r => !((fillStep (takeFaults s) m).seated.any fun x => x.slot == r.slot))) := by
  have hany : (s.ctx.steps.any fun t => t.tenant == v && t.inst == n) = false := by
    rw [List.any_eq_false]
    exact fun t ht => by simpa using hsteps t ht
  have hempty : (fillStep (takeFaults s) m).seated.isEmpty = false := List.isEmpty_eq_false_iff.mpr hseated
  show execStepFill v n s = _
  simp only [execStepFill, hm, hpin, hany, hempty, Bool.or_self, Bool.false_eq_true, if_false]

end

/-- Settles O51: a step begins with the seats that the filling gives it, and commits its seats' transactions in order. -/
theorem stepsFillAndCommit : Obligations.StepsFillAndCommit := by
  intro s v n m hm
  refine ⟨fun hpin hsteps => ?fill, fun t ht hlaunches => ?commit⟩
  case fill =>
    intro s1 f hseated
    exact ⟨stepFill_next hm hpin hsteps hseated, mem_steps_beginStep _ v n m _ _⟩
  case commit =>
    show execStepCommit v n s = _
    simp only [execStepCommit, ht, hm, hlaunches, List.isEmpty_nil, Bool.not_true, Bool.false_eq_true, if_false]

end Sys2Proof.Proofs.AgentSteps
end

section
/-! SUPPORT. Pages of contexts: evicted, promoted, failed and rehomed (R344, R346 to R353). -/

namespace Sys2Proof.Proofs.PageEvents

open Sys2Proof.Machine

section
variable {s : State} {v n : Nat} {p : Page}

/-! ### Eviction -/

theorem evictionStart_next
    (hshort : comingFrames s v < max (tenantOf s v).headroom.toNat (pinNeed s v + faultNeed s v + fillNeed s v))
    (hchoose : chooseEviction s v = some p) (hcan : canEvict s p = true) :
    exec (.evictionStart v) s = .next (beginTwilight s p (decide (comingFrames s v < pinNeed s v))) := by
  show execEvictionStart v s = _
  simp only [execEvictionStart, if_neg (Nat.not_le.mpr hshort), hchoose, hcan, if_true]

/-- The cases of the commit, without evaluating the walk over a frame's bytes. -/
theorem evictionCommit_next {pl : Nat} {l : List (Nat × Nat × Nat)} {s2 : State} (hp : pageAt s v n = some p)
    (hst : p.st = .twilight) (hplace : p.place = some pl) (hbusy : pageBusy s p = false)
    (hspan : placeSpan (frameCells s p.pa).1 v pl .wr = (s2, .ok l)) : exec (.evictionCommit v n) s =
      .next (takeFaults (evictIndexOnly (updPage (writePlace s2 l (frameCells s p.pa).2 p.tag) v n fun p =>
        { p with st := .absent, frame := none, pa := 0, tag := 0, forPin := false }) v n)) := by
  show execEvictionCommit v n s = _
  fun_cases execEvictionCommit v n s with
  | case1 hnone =>
    rw [hp] at hnone
    cases hnone
  | case2 q hq pl' hpl' hst' hbusy' =>
    obtain rfl : p = q := Option.some.inj (hp.symm.trans hq)
    rw [hbusy] at hbusy'
    cases hbusy'
  | case3 q hq pl' hpl' hst' hbusy' s1 cells hcells s2' hspan' =>
    obtain rfl : p = q := Option.some.inj (hp.symm.trans hq)
    obtain rfl : pl = pl' := Option.some.inj (hplace.symm.trans hpl')
    rw [hcells] at hspan
    cases hspan.symm.trans hspan'
  | case4 q hq pl' hpl' hst' hbusy' s1 cells hcells s2' hspan' =>
    obtain rfl : p = q := Option.some.inj (hp.symm.trans hq)
    obtain rfl : pl = pl' := Option.some.inj (hplace.symm.trans hpl')
    rw [hcells] at hspan
    cases hspan.symm.trans hspan'
  | case5 q hq pl' hpl' hst' hbusy' s1 cells hcells s2' l' hspan' =>
    obtain rfl : p = q := Option.some.inj (hp.symm.trans hq)
    obtain rfl : pl = pl' := Option.some.inj (hplace.symm.trans hpl')
    rw [hcells] at hspan ⊢
    cases hspan.symm.trans hspan'
    rfl
  | case6 q hq hno =>
    obtain rfl : p = q := Option.some.inj (hp.symm.trans hq)
    exact absurd hplace fun h => hno pl hst h

/-! ### Promotion -/

theorem promotionStart_next {fr pa : Nat} (hchoose : choosePromotion (takeFaults s) v = some n)
    (hframe : lowestFrame (takeFaults s) v = some fr) (hpa : framePa (takeFaults s) v fr = some pa) : ∃ s2,
      exec (.promotionStart v) s = .next s2 ∧ (v, n) ∉ s2.ctx.faults ∧
      s2.ctx.pages = ((takeFaults s).ctx.pages.map fun p =>
        if p.tenant == v && p.num == n then { p with st := .promoting, frame := some fr, pa := pa } else p) := by
  show ∃ s2, execPromotionStart v s = .next s2 ∧ _
  simp only [execPromotionStart, hchoose, hframe, hpa, Option.bind_some, Option.map_some]
  exact ⟨_, rfl, fun hmem => absurd (List.mem_filter.mp hmem).2 (by simp), rfl⟩

/-- A promotion whose place can be read completes by what the host's completion and the tag say (R351, R352). -/
theorem promotionComplete_eq {pl : Nat} {l : List (Nat × Nat × Nat)} {s2 : State} (hp : pageAt s v n = some p)
    (hst : p.st = .promoting) (hplace : p.place = some pl) (hfailed : p.failed = false)
    (hspan : placeSpan s v pl .rd = (s2, .ok l)) (lost : List Host.Cell) : exec (.promotionComplete v n lost) s =
      let r := readPlace s2 l
      let cells := memWriteCells r.2.1 (lost.filter fun c => decide (c.1 < frameSize))
      if r.1.xlat.hostError && spaceOf (tenantOf r.1 v).backing == 1 then
        .next (failPage (queueRecord (setXlat r.1 { r.1.xlat with hostError := false })
          { die := 4, tenant := v, rtype := 4, val := (tenantOf r.1 v).backing + BitVec.ofNat 64 (pl * placeSize) }) v n)
      else if tagOf cells != r.2.2 then .next (failPage r.1 v n)
      else .next (takeFaults (settleAppends (settlePins (updPage (fillFrame r.1 p.pa cells) v n fun p =>
        { p with st := .resident, place := none, tag := 0 })))) := by
  show execPromotionComplete v n lost s = _
  simp only [execPromotionComplete, hp, hst, hplace, hfailed, hspan, Bool.false_eq_true, if_false]

theorem integrityFailure_next (hp : pageAt s v n = some p) (hfailed : p.failed = true) (hstep : stepOn s v n = false) :
    exec (.integrityFailure v n) s = .next (integrityAct s v n) := by
  show execIntegrityFailure v n s = _
  simp only [execIntegrityFailure, hp, hfailed, hstep, Bool.not_true, Bool.or_self, Bool.false_eq_true, if_false]

end

/-! ### Rehoming -/

section
variable {s : State} {v : Nat}

/-- The pages of a block moved to a new home. -/
def rehomed (s : State) (v new : Nat) (pages : List Nat) : State :=
  pages.foldl (init := s) fun s n => updPage s v n fun p => { p with home := new }

/-- A page has its new home, or is of another tenant or number. -/
def HomeIs (v new k : Nat) (q : Page) : Prop := q.tenant = v → q.num = k → q.home = new

theorem rehomed_keeps (new : Nat) (pages : List Nat) {s : State} {k : Nat} (h : ∀ q ∈ s.ctx.pages, HomeIs v new k q) :
    ∀ q ∈ (rehomed s v new pages).ctx.pages, HomeIs v new k q := by
  induction pages generalizing s with
  | nil => exact h
  | cons n pages ih =>
    refine ih (s := updPage s v n fun p => { p with home := new }) fun q hq => ?_
    obtain ⟨p, hp, rfl⟩ := List.mem_map.mp hq
    split
    · exact fun _ _ => rfl
    · exact h p hp

theorem rehomed_homes (new : Nat) (pages : List Nat) (s : State) {k : Nat} (hk : k ∈ pages) :
    ∀ q ∈ (rehomed s v new pages).ctx.pages, HomeIs v new k q := by
  induction pages generalizing s with
  | nil => exact absurd hk List.not_mem_nil
  | cons n pages ih =>
    obtain rfl | hk := List.mem_cons.mp hk
    · refine rehomed_keeps new pages (s := updPage s v k fun p => { p with home := new }) fun q hq => ?_
      obtain ⟨p, -, rfl⟩ := List.mem_map.mp hq
      split
      · exact fun _ _ => rfl
      next hne => exact fun htenant hnum => absurd (by simp [htenant, hnum]) hne
    · exact ih _ hk

theorem rehomed_launches (new : Nat) (pages : List Nat) (s : State) : (rehomed s v new pages).launches = s.launches := by
  induction pages generalizing s with
  | nil => rfl
  | cons n pages ih => exact ih _

/-- The first block that moves is the one of this place, where none before it does. -/
theorem findSome_rehoming {block j : Nat} {l : List (List Nat × Nat × List Nat)} {b : List Nat × Nat × List Nat}
    {r : Nat × Nat × List Nat} (hb : l[j]? = some b) (hr : rehoming s v block b = some r)
    (hbefore : ∀ b ∈ l.take j, rehoming s v block b = none) : l.findSome? (rehoming s v block) = some r := by
  obtain ⟨hj, rfl⟩ := List.getElem?_eq_some_iff.mp hb
  have hnone : (l.take j).findSome? (rehoming s v block) = none := List.findSome?_eq_none_iff.mpr hbefore
  rw [← List.take_append_drop j l, List.findSome?_append, hnone, List.drop_eq_getElem_cons hj, List.findSome?_cons, hr]
  rfl

theorem rehoming_of_moves {block first n : Nat} {home rest : List Nat} {p : Page} (hp : pageAt s v n = some p)
    (hfree : ∀ k ∈ n :: rest, ∀ q, pageAt s v k = some q → pageBusy s q = false) (hmoves : p.home ≠ homeOf home first block) :
    rehoming s v block (home, first, n :: rest) = some (p.home, homeOf home first block, n :: rest) := by
  have hany : ((n :: rest).any fun n => (pageAt s v n).any (pageBusy s)) = false := by
    rw [List.any_eq_false]
    intro k hk
    cases hq : pageAt s v k with
    | none => simp
    | some q => simp [hfree k hk q hq]
  simp only [rehoming, List.head?_cons, Option.bind_some, hp, Option.map_some, hany, beq_false_of_ne hmoves, Bool.or_self,
    Bool.false_eq_true, if_false]

/-- The stub of a block that moved stays for the launches accepted before (R344). -/
def stubOf (s : State) (v old new : Nat) (pages : List Nat) : Stub :=
  { tenant := v, pages := pages, old := old, new := new, launches := s.launches.map fun l => l.id }

theorem blockRehome_next {ctx block old new : Nat} {pages : List Nat}
    (h : (blocksAt s v ctx block).findSome? (rehoming s v block) = some (old, new, pages)) : ∃ s2,
      exec (.blockRehome v ctx block) s = .next s2 ∧ s2.ctx.pages = (rehomed s v new pages).ctx.pages ∧
        (s.launches ≠ [] → stubOf s v old new pages ∈ s2.ctx.stubs) := by
  show ∃ s2, execBlockRehome v ctx block s = .next s2 ∧ _
  simp only [execBlockRehome, h]
  refine ⟨_, rfl, ?_, fun hne => ?_⟩
  · show (if _ then _ else _ : State).ctx.pages = _
    split
    · rfl
    · rfl
  · have hlaunches : (rehomed s v new pages).launches = s.launches := rehomed_launches new pages s
    have hempty : (rehomed s v new pages).launches.isEmpty = false := by
      rw [hlaunches]
      exact List.isEmpty_eq_false_iff.mpr hne
    show stubOf s v old new pages ∈ (if (rehomed s v new pages).launches.isEmpty then _ else _ : State).ctx.stubs
    rw [hempty, stubOf, ← hlaunches]
    exact List.mem_append_right _ (List.mem_singleton_self _)

end

/-- Settles O50: one lemma for each event, and what a completed promotion's bytes decide. -/
theorem pagesMove : Obligations.PagesMove := by
  intro s v
  refine ⟨fun p => evictionStart_next, fun n fr pa => promotionStart_next, fun n p hp => ⟨fun pl l s2 hst hplace hbusy =>
    evictionCommit_next hp hst hplace hbusy, fun pl l s2 lost hst hplace hfailed hspan => ?complete,
    integrityFailure_next hp⟩, fun ctx block j home first n rest p hb hp hfree hbefore => ?rehome⟩
  case complete =>
    rw [promotionComplete_eq hp hst hplace hfailed hspan lost]
    refine ⟨fun hbad => ?_, fun hbad htag => ?_, fun hbad htag => ?_⟩
    · exact if_pos (by simpa only [Bool.and_eq_true, beq_iff_eq] using hbad)
    · exact (if_neg (by simpa only [Bool.and_eq_true, beq_iff_eq] using hbad)).trans (if_pos (bne_iff_ne.mpr htag))
    · exact (if_neg (by simpa only [Bool.and_eq_true, beq_iff_eq] using hbad)).trans
        (if_neg (by simpa only [bne_iff_ne, ne_eq, not_not] using htag))
  case rehome =>
    intro new hmoves
    obtain ⟨s2, hexec, hpages, hstub⟩ :=
      blockRehome_next (findSome_rehoming hb (rehoming_of_moves hp hfree hmoves) hbefore)
    refine ⟨s2, hexec, fun k hk q hq => ?_, fun hne => ⟨_, hstub hne, rfl, rfl, rfl, rfl, rfl⟩⟩
    rw [pageAt, hpages] at hq
    have hq' : q.tenant = v ∧ q.num = k := by simpa using List.find?_some hq
    exact rehomed_homes _ _ s hk q (List.mem_of_find?_eq_some hq) hq'.1 hq'.2

end Sys2Proof.Proofs.PageEvents
end

section
/-! SUPPORT. A group of unlike atomics: a refutation of what the statement says of every state. -/

namespace Sys2Proof.Proofs.UnlikeGroups

open Sys2Proof.Machine

/-- A RED that adds 5 to the first word of cluster memory, of the group 1. -/
def adding : Acc :=
  { id := 1, kind := .red, space := 5, key := memKey .cluster 0, bytes := 0xFF, data := 5, grp := 1 }

/-- An AMO of the same word that carries the same group, as no fused gang makes it: its instruction is one for all cores (R287). -/
def unlike : Acc :=
  { id := 2, kind := .amo, space := 5, key := memKey .cluster 0, bytes := 0xFF, data := 3, grp := 1 }

/-- The part with the RED in the order of core 0 and the AMO in that of core 1. -/
def mixed : State :=
  { State.reset with pcores := [{ c := 0, i := 0, accs := [adding] }, { c := 0, i := 1, accs := [unlike] }] }

theorem groupClear_adding : groupClear mixed 0 0 adding = true := by decide

/-- The byte at the word that an outcome leaves. -/
def leftByte : Out → Byte
  | .next t => memRead t.mem (memKey .cluster 0)
  | _ => 0

/-- The event treats the AMO of its group as a store. -/
theorem leftByte_exec : leftByte (exec (.explicitStorePerform 0 0 1) mixed) = 3 := by rfl

/-- Refutes O25: the statement has every access of a RED's group act as a RED, and in the state in which an AMO carries the group of
one the event acts on each by its own kind. -/
theorem not_storesPerform : ¬Obligations.StoresPerform := by
  unfold Obligations.StoresPerform
  intro h
  have hred := (h mixed 0 0 1 adding rfl rfl groupClear_adding).2.1 rfl (by decide)
  have hbyte := leftByte_exec.symm.trans (congrArg leftByte hred)
  exact absurd hbyte (by decide)

end Sys2Proof.Proofs.UnlikeGroups
end

section
/-! SUPPORT. Loads that perform and return, waiters that are served, and host errors (R194, R197, R219, R235, R251 to R253). -/

namespace Sys2Proof.Proofs.LoadEvents

open Sys2Proof.Machine

section
variable {s t : State} {c i n : Nat} {a : Acc}

/-! ### Waiters and host errors -/

theorem feWaiterServe_next {k : Nat} {w : FeWaiter} (hw : s.waiters[k]? = some w) (ha : waiterAcc s w = some a)
    (hbit : bitReady s a = true) (hqueue : queuedOn (s.waiters.take k) s a = false) (hmay : mayPerform s w.c w.i a = true)
    (ht : deliver (setWaiters (bankMove s w.c w.i a).1 ((bankMove s w.c w.i a).1.waiters.eraseIdx k)) w.c w.i
      (bankMove s w.c w.i a).2 = some t) : exec (.feWaiterServe k) s = .next (sweep t) := by
  show execFeWaiterServe k s = _
  simp only [execFeWaiterServe, hw, ha, hbit, hqueue, hmay, ht, Bool.not_true, Bool.or_self, Bool.false_eq_true, if_false]

theorem id_of_accAt (ha : accAt s c i n = some a) : a.id = n := by simpa using List.find?_some ha

variable (ha : accAt s c i n = some a)
include ha

theorem hostCompletionError_next (hspace : a.space = 1) (hkind : a.kind = .load ∨ isAtomic a = true)
    (hlink : linkWaits s c i a = false) (ht : deliver s c i { a with performed := true, val := BitVec.allOnes 128 } = some t) :
    exec (.hostCompletionError c i n) s = .next (sweep (queueRecord (failLaunch t a.launch) (memErr s c i a))) := by
  have hkind' : (a.kind == .load || isAtomic a) = true := by simpa using hkind
  have hspace' : (a.space != 1) = false := by rw [hspace, bne_self_eq_false]
  show execHostCompletionError c i n s = _
  simp only [execHostCompletionError, ha, hspace', hkind', hlink, ht, Bool.not_true, Bool.or_self,
    Bool.false_eq_true, if_false]

/-! ### Loads that perform -/

/-- A read that meets a poisoned sector traps once its firing is still there (R219). -/
theorem lateTrap_of_firing {f : Firing} (cause sub : Nat) (hf : firingOf (dropAcc s c i n) a.firing = some f) :
    lateTrap s c i a cause sub = .next (sweep (trapFiring (dropAcc s c i n) f
      { core := i, cause := cause, sub := sub, addr := a.ea, pc := some a.pc } (a.words.head?.getD 0) (a.words[1]?.getD 0))) := by
  have hid := id_of_accAt ha
  subst hid
  simp only [lateTrap, hf]

omit ha in
theorem load_free (hkind : a.kind = .load) (hclear : clear s c i a = true) :
    mayPerform s c i a = true ∧ clashes s c i a = [] ∧ l2Blocked s a false = false := by
  have hno : (AccKind.load == AccKind.cache) = false := rfl
  simpa [clear, accWrites, hkind, hno, and_assoc] using hclear

theorem explicitLoadPerform_home (hkind : a.kind = .load) (hcoherent : coherent a = false) (hspace : a.space ≠ 2)
    (hperf : a.performed = false) (hclear : clear s c i a = true) : exec (.explicitLoadPerform c i n) s =
      if meetsPoison s a then lateTrap s c i a 0x0D 0
      else
        let r := readBytes (placeL2 (noteSeen s c i a s.dir s.acq) a false) a
        .next (sweep (updAcc r.1 c i n fun b => { b with performed := true, val := vecOf r.2 })) := by
  obtain ⟨hmay, hclash, hblocked⟩ := load_free hkind hclear
  show execExplicitLoadPerform c i n s = _
  simp only [execExplicitLoadPerform, ha, hkind, hcoherent, hperf, hmay, hclash, hblocked, beq_false_of_ne hspace,
    bne_self_eq_false, List.any_nil, youngest, Bool.not_true, Bool.or_self, Bool.false_eq_true, if_false]

theorem explicitLoadPerform_forwards (hkind : a.kind = .load) (hcoherent : coherent a = false) (hspace : a.space ≠ 2)
    (hperf : a.performed = false) (hmay : mayPerform s c i a = true) (hblocked : l2Blocked s a false = false)
    {e : Nat × Acc} {bytes : List Byte} (he : youngest (clashes s c i a) = some e)
    (hstores : ∀ b ∈ clashes s c i a, b.2.kind = .store) (hbytes : forwardBytes e.2 a = some bytes) :
    exec (.explicitLoadPerform c i n) s =
      .next (sweep (updAcc s c i n fun b => { b with performed := true, val := vecOf bytes })) := by
  have hany : ((clashes s c i a).any fun e => e.2.kind != .store) = false := by
    rw [List.any_eq_false]
    exact fun b hb => by simp [hstores b hb]
  show execExplicitLoadPerform c i n s = _
  simp only [execExplicitLoadPerform, ha, hkind, hcoherent, hperf, hmay, hblocked, hany, he, hbytes, beq_false_of_ne hspace,
    bne_self_eq_false, Bool.not_true, Bool.or_self, Bool.false_eq_true, if_false]

/-! ### Loads that return -/

omit ha in
theorem deliver_of_firing {f f' : Firing} (hf : firingOf s a.firing = some f) (hwrite : writeDest f i a = some f') :
    deliver s c i a = some (dropAcc (putFiring s (release f' a.id (accLen a))) c i a.id) := by
  simp only [deliver, hf, hwrite, Option.map_some]

theorem loadDataReturn_performed {lease : Nat} (hkind : a.kind = .load ∨ a.kind = .amo ∨ a.kind = .cas) (hspace : a.space ≠ 2)
    (hperf : a.performed = true) (hlink : linkWaits s c i a = false) (ht : deliver s c i a = some t) :
    exec (.loadDataReturn c i n lease) s = .next (sweep t) := by
  have hkind' : (a.kind == .load || (a.kind == .amo || a.kind == .cas)) = true := by simpa using hkind
  show execLoadDataReturn c i n lease s = _
  simp only [execLoadDataReturn, ha, hkind', hlink, hperf, ht, beq_false_of_ne hspace, Bool.not_true, Bool.or_self,
    Bool.false_eq_true, if_false, if_true]

omit ha in
theorem space_of_coherent (hcoherent : coherent a = true) : a.space = 0 := by
  rw [coherent, Bool.and_eq_true, beq_iff_eq] at hcoherent
  exact hcoherent.1

theorem loadDataReturn_coherent {lease : Nat} (hkind : a.kind = .load) (hcoherent : coherent a = true)
    (hperf : a.performed = false) (hclear : clear s c i a = true) (hlink : linkWaits s c i a = false) :
    exec (.loadDataReturn c i n lease) s =
      if (leaseOf s c i a).isNone && meetsPoison s a then lateTrap s c i a 0x0D 0
      else match deliver (coherentLoad s c i lease a).1 c i (coherentLoad s c i lease a).2 with
        | some s => .next (sweep s)
        | none => notEnabled "LOAD_DATA_RETURN" := by
  have hspace : (a.space == 2) = false := by rw [space_of_coherent hcoherent]; rfl
  show execLoadDataReturn c i n lease s = _
  simp only [execLoadDataReturn, ha, hkind, hcoherent, hperf, hclear, hlink, hspace, beq_self_eq_true, Bool.true_or,
    Bool.and_self, Bool.not_true, Bool.or_self, Bool.false_eq_true, if_false, if_true] <;> rfl

end

/-- Settles O26: one lemma for each event and each way in which a load performs. -/
theorem loadsReturnAndWaitersServe : Obligations.LoadsReturnAndWaitersServe := by
  refine ⟨⟨fun s k w a hw ha hbit hqueue hmay t => feWaiterServe_next hw ha hbit hqueue hmay,
    fun s c i n a ha hspace hkind hlink t => hostCompletionError_next ha hspace hkind hlink⟩, fun s c i n lease a ha => ?_⟩
  intro uce
  refine ⟨fun hkind hcoherent hspace hperf hclear => ⟨fun hpoison f hf => ?_, fun hpoison => ?_⟩,
    fun hkind hcoherent hspace hperf hmay hblocked e bytes => explicitLoadPerform_forwards ha hkind hcoherent hspace hperf hmay
      hblocked, fun hkind hspace hperf hlink f f' hf hwrite => ?_,
    fun hkind hcoherent hperf hclear hlink => ⟨fun hpoison f hf => ?_, fun hfree t ht => ?_⟩⟩
  · rw [explicitLoadPerform_home ha hkind hcoherent hspace hperf hclear, if_pos hpoison, lateTrap_of_firing ha _ _ hf]
  · rw [explicitLoadPerform_home ha hkind hcoherent hspace hperf hclear, if_neg (by simp [hpoison])]
  · exact loadDataReturn_performed ha hkind hspace hperf hlink (deliver_of_firing hf hwrite)
  · rw [loadDataReturn_coherent ha hkind hcoherent hperf hclear hlink, if_pos (by simp [hpoison]),
      lateTrap_of_firing ha _ _ hf]
  · have hno : ¬((leaseOf s c i a).isNone && meetsPoison s a) = true := by
      rw [Bool.and_eq_true, Option.isNone_iff_eq_none]
      rintro ⟨hnone, hyes⟩
      obtain hlease | hclean := hfree
      · exact hlease hnone
      · rw [hclean] at hyes
        cases hyes
    rw [loadDataReturn_coherent ha hkind hcoherent hperf hclear hlink, if_neg hno, ht]

end Sys2Proof.Proofs.LoadEvents
end

section
/-! SUPPORT. Remote packets, replies, posted faults and flush markers (R236, R259, R263, R264). -/

namespace Sys2Proof.Proofs.RemoteEvents

open Sys2Proof.Machine Sys2Proof.Proofs.LoadEvents

/-! ### Packets -/

section
variable {s s' : State} {vf va size : Nat} {op : RemoteOp} {d d2 : Vec}

theorem remotePacketPerform_dropped {k : Nat} (h : remoteHome s 0 (packetAcc vf va size op d d2) = (s', .error k)) :
    exec (.remotePacketPerform (.incoming vf va size op d d2)) s = .next s' := by
  show execRemotePacketPerform (.incoming vf va size op d d2) s = _
  simp only [execRemotePacketPerform, h]

theorem remotePacketPerform_next {b : Acc} (h : remoteHome s 0 (packetAcc vf va size op d d2) = (s', .ok b))
    (hserved : accReads b = true → served s' .dom b.key b.size = true) :
    exec (.remotePacketPerform (.incoming vf va size op d d2)) s = .next (sweep (performIncoming s' b)) := by
  have hread : (accReads b && !(served s' .dom b.key b.size)) = false := by
    cases hb : accReads b with
    | false => rfl
    | true => rw [hserved hb]; rfl
  show execRemotePacketPerform (.incoming vf va size op d d2) s = _
  simp only [execRemotePacketPerform, h, hread, Bool.false_eq_true, if_false]

end

/-! ### Replies and posted faults -/

section
variable {s : State} {c i n : Nat} {a : Acc} (ha : accAt s c i n = some a) (hspace : a.space = 2)
include ha hspace

/-- A reply to an access of another package: its value, or its remote cause (R236). -/
theorem remoteReply_eq (hkind : a.kind = .load ∨ a.kind = .amo ∨ a.kind = .cas) (hpkg : pkgOf a ≠ s.cfg.pkgid.toNat)
    (hlink : linkWaits s c i a = false) (hclear : clear s c i a = true) (harrives : arrives s c i a = true) (cause : Nat)
    (val : Vec) : exec (.remoteReply c i n cause val) s =
      if cause == 0 then
        match deliver (popPath s (.acc c i n)) c i
            { a with performed := true, val := val, flag := a.kind == .amo && (atomicNew a (val.toNat % 2 ^ (8 * a.size))).2 } with
        | some s => .next (sweep s)
        | none => notEnabled "REMOTE_REPLY"
      else lateTrap (popPath s (.acc c i n)) c i a 0x0C cause := by
  have hkind' : (a.kind == .load || a.kind == .amo || a.kind == .cas) = true := by simpa [or_assoc] using hkind
  have hspace' : (a.space != 2) = false := by rw [hspace, bne_self_eq_false]
  have hown : (pkgOf a == s.cfg.pkgid.toNat) = false := beq_false_of_ne hpkg
  show execRemoteReply c i n cause val s = _
  simp only [execRemoteReply, ha, hkind', hspace', hown, hlink, hclear, harrives, Bool.false_and, Bool.and_self, Bool.not_true,
    Bool.not_false, Bool.and_false, Bool.or_self, Bool.false_eq_true, if_false] <;> rfl

theorem remotePostedFault_next (hkind : a.kind = .store ∨ a.kind = .red) (hsent : a.sent = true)
    (hpkg : pkgOf a ≠ s.cfg.pkgid.toNat) (hthere : a.performed = true ∨ arrives s c i a = true)
    (hpath : (firstUp s (pkgOf a)).isSome = true) : exec (.remotePostedFault c i n) s = .next (sweep (queueRecord
      (failLaunch (dropAcc (popPath s (.acc c i n)) c i n) a.launch) (memErr s c i a))) := by
  have hkind' : (a.kind == .store || a.kind == .red) = true := by simpa using hkind
  have hspace' : (a.space != 2) = false := by rw [hspace, bne_self_eq_false]
  have hown : (pkgOf a == s.cfg.pkgid.toNat) = false := beq_false_of_ne hpkg
  have hnone : (firstUp s (pkgOf a)).isNone = false := by
    rw [← Option.not_isSome, hpath, Bool.not_true]
  have hthere' : (!a.performed && !(arrives s c i a)) = false := by
    obtain h | h := hthere
    · rw [h, Bool.not_true, Bool.false_and]
    · rw [h, Bool.not_true, Bool.and_false]
  show execRemotePostedFault c i n s = _
  simp only [execRemotePostedFault, ha, hkind', hspace', hsent, hown, hnone, hthere', Bool.false_and, Bool.not_true,
    Bool.not_false, Bool.true_and, Bool.or_self, Bool.false_eq_true, if_false]

end

theorem accAt_popPath (s : State) (k : Packet) (c i n : Nat) : accAt (popPath s k) c i n = accAt s c i n := rfl

/-! ### Flush markers -/

section
variable {s : State} {k : Nat} {m : Marker} (hm : s.markers[k]? = some m) (hpath : (firstUp s m.pkg).isSome = true)
include hm hpath

theorem flushMarkerArrive_next (hsent : m.sent = true) (hanswered : m.answered = false)
    (hahead : ∀ p ∈ aheadOf s m, m.pkg ≠ s.cfg.pkgid.toNat ∧ ∀ g, p ≠ .marker g) :
    exec (.flushMarkerArrive k) s = .next (sweep ((aheadOf s m).foldl (settlePacket m)
      (setPaths (setMarkers s (s.markers.set k { m with answered := true })) (takeMarker m s.paths)))) := by
  have hnone : (firstUp s m.pkg).isNone = false := by rw [← Option.not_isSome, hpath, Bool.not_true]
  show execFlushMarkerArrive k s = _
  simp only [execFlushMarkerArrive, hm, hsent, hanswered, hnone, Bool.not_true, Bool.false_or, Bool.or_false]
  refine if_neg ?_
  rw [Bool.not_eq_true', Bool.not_eq_false, List.all_eq_true]
  intro p hp
  obtain ⟨hpkg, hmarker⟩ := hahead p hp
  rw [Bool.and_eq_true, bne_iff_ne]
  refine ⟨hpkg, ?_⟩
  cases p with
  | acc => rfl
  | write => rfl
  | marker g => exact absurd rfl (hmarker g)

theorem flushAnswerArrive_next (hanswered : m.answered = true) : exec (.flushAnswerArrive k) s =
    .next (sweep (if (s.markers.eraseIdx k).any fun x => x.group == m.group then setMarkers s (s.markers.eraseIdx k)
      else gatherMarker (setMarkers s (s.markers.eraseIdx k)) m)) := by
  have hnone : (firstUp s m.pkg).isNone = false := by rw [← Option.not_isSome, hpath, Bool.not_true]
  show execFlushAnswerArrive k s = _
  simp only [execFlushAnswerArrive, hm, hanswered, hnone, Bool.not_true, Bool.or_self, Bool.false_eq_true, if_false]
  rfl

end

/-- Settles O27: one lemma for each event and each of its outcomes. -/
theorem remoteAccessesPerform : Obligations.RemoteAccessesPerform := by
  refine ⟨fun s vf va size op d d2 => ⟨fun s' k => remotePacketPerform_dropped, fun s' b => remotePacketPerform_next⟩,
    fun s c i n a val ha hspace hkind hpkg hlink hclear harrives => ?reply,
    fun s c i n a ha hspace hkind hsent hpkg hthere hpath => remotePostedFault_next ha hspace hkind hsent hpkg hthere hpath,
    ?flush,
    fun s k m hm hanswered hpath => ?answer⟩
  case flush =>
    intro s k m hm hsent hanswered hahead hpath
    exact flushMarkerArrive_next hm hpath hsent hanswered hahead
  case reply =>
    have hreply := remoteReply_eq ha hspace hkind hpkg hlink hclear harrives
    refine ⟨fun cause f hcause hf => ?_, fun t hamo ht => ?_, fun t hamo ht => ?_⟩
    · rw [hreply, if_neg (by simpa using hcause)]
      exact lateTrap_of_firing ((accAt_popPath s _ c i n).trans ha) 0x0C cause hf
    · rw [hreply, if_pos (beq_self_eq_true 0), beq_false_of_ne hamo, Bool.false_and, ht]
    · have hflag : (a.kind == AccKind.amo) = true := by rw [hamo]; rfl
      rw [hreply, if_pos (beq_self_eq_true 0), hflag, Bool.true_and, ht]
  case answer =>
    intro s1
    rw [flushAnswerArrive_next hm hpath hanswered]
    refine ⟨fun hlast => ?_, fun hmore => ?_⟩
    · have hany : ((s.markers.eraseIdx k).any fun x => x.group == m.group) = false := by
        rw [List.any_eq_false]
        exact fun x hx => by simpa using hlast x hx
      rw [hany]
      rfl
    · have hany : ((s.markers.eraseIdx k).any fun x => x.group == m.group) = true := by
        obtain ⟨x, hx, hgroup⟩ := hmore
        exact List.any_eq_true.mpr ⟨x, hx, by simpa using hgroup⟩
      rw [hany]
      rfl

end Sys2Proof.Proofs.RemoteEvents
end

section
/-! SUPPORT. The events of an engine command: start, completion, faults, pre-emption and publication (R316, R321 to R324, R329). -/

namespace Sys2Proof.Proofs.EngineEvents

open Sys2Proof.Machine

@[simp] theorem workOut_ok (row : String) (m : Cmd) (s : State) (n : Cmd) (done : State → Cmd → Out) (reject : Nat → Out) :
    workOut row m (.ok s n) done reject = done s n := rfl

/-! ### The guard word -/

/-- A command whose guard word has been read, `n` its count of work. -/
def guarded (m : Cmd) (n : Nat) (skip : Bool) : Cmd := { m with begun := true, count := n, skip := skip }

/-- A guarded command that its unit has started, with the tables of an NBMV command as they stand now. -/
def started (s : State) (m : Cmd) (n : Nat) (skip : Bool) : Cmd :=
  { guarded m n skip with code := 1, tables := if m.maj = 0x47 then s.eng.nbTables else [] }

section
variable {s s' : State} {m : Cmd}

theorem readGuard_none (h : m.e.guard = 0) : readGuard s m = .ok s (guarded m (cmdCount m) m.skip) := by
  have hguard : (m.e.guard == 0) = true := beq_iff_eq.2 h
  simp only [readGuard, hguard, if_true, guarded]

theorem readGuard_word {bytes : List Byte} (h : m.e.guard ≠ 0) (hread : unitRead (cmdMaster m) 30 0 s m.guard 4 = .ok s' bytes) :
    readGuard s m = .ok s' (guarded m (min (ofBytes bytes) (cmdCount m)) (ofBytes bytes == 0)) := by
  have hguard : (m.e.guard == 0) = false := beq_false_of_ne h
  simp only [readGuard, hguard, Bool.false_eq_true, if_false, hread, Work.bindOk, guarded]

end

/-! ### The granule at which a command stops -/

/-- Without a pre-emption nothing stops a command: no granule lies behind its stop. -/
theorem behindStop_of_not_preempted {s : State} {m : Cmd} (h : (tenantOf s m.tenant).preempt.contains m.c = false) (g : Nat) :
    behindStop s m g = false := by
  have hbound : stopBound s m = none := by
    simp only [stopBound, h, Bool.and_false, Bool.false_eq_true, if_false]
  simp only [behindStop, hbound]

theorem doneVersion_of_not_nbmv {m : Cmd} (h : m.maj ≠ 0x47) : doneVersion m = m.ver := by
  have hmaj : (m.maj != 0x47) = true := by simpa using h
  simp only [doneVersion, hmaj, Bool.true_or, if_true]

/-! ### The events -/

section
variable {s : State} {id : Nat} {m : Cmd} (hcmd : cmdOf s id = some m)
include hcmd

theorem engineCommandStart_next (hcode : m.code = 0) (hfirst : startsBehind s m = false)
    (hpreempt : (tenantOf s m.tenant).preempt.contains m.c = false) (hheld : enginesHeld s m = false)
    (hfence : engineFenced s m.c m.cores m.id = false) {s' : State} {n : Nat} {skip : Bool}
    (hguard : readGuard s m = .ok s' (guarded m n skip)) :
    exec (.engineCommandStart id) s = .next (putCmd s' (started s' m n skip)) := by
  have hcode' : (m.code != 0) = false := by rw [hcode]; rfl
  have htables : (if (guarded m n skip).maj == 0x47 then s'.eng.nbTables else []) = if m.maj = 0x47 then s'.eng.nbTables else [] := by
    simp only [guarded, beq_iff_eq]
  show execEngineCommandStart id s = _
  simp only [execEngineCommandStart, hcmd, hcode', hfirst, hpreempt, hheld, hfence, Bool.and_false, Bool.or_self,
    Bool.false_eq_true, if_false, hguard, workOut_ok, htables, started]

/-- An NBMV command that does not refine, and every other command, completes once its work is done. -/
theorem engineCommandComplete_next (hcode : m.code = 1) (hheld : enginesHeld s m = false)
    (hnb : m.maj = 0x47 → m.e.ver ≠ 1 ∧ m.haltAt ≠ s.clk + 1) (hpreempt : (tenantOf s m.tenant).preempt.contains m.c = false)
    {s' : State} {m' : Cmd} (hfinish : finishCmd s m = .ok s' m') : exec (.engineCommandComplete id) s = .next (endCmd
      (if m.maj = 0x47 ∧ m'.ver ≠ m.ver then nbNotice s' m' (endStatus m' (if m'.skip then 3 else 2) 0) else s') m') := by
  have hcode' : (m.code != 1) = false := by rw [hcode]; rfl
  have htwo : (m.maj == 0x47 && m.e.ver == 1) = false := by
    rw [Bool.and_eq_false_imp]
    intro hmaj
    exact beq_false_of_ne (hnb (beq_iff_eq.1 hmaj)).1
  have hlate : (m.haltAt == s.clk + 1 && doneVersion m != m.ver) = false := by
    by_cases hmaj : m.maj = 0x47
    · rw [beq_false_of_ne (hnb hmaj).2, Bool.false_and]
    · rw [doneVersion_of_not_nbmv hmaj, bne_self_eq_false, Bool.and_false]
  have hgran : (leftGranules m).any (behindStop s m) = false :=
    List.any_eq_false.2 fun g _ => by simp [behindStop_of_not_preempted hpreempt g]
  have hnotice : (m.maj == 0x47 && (m'.ver != m.ver || false)) = decide (m.maj = 0x47 ∧ m'.ver ≠ m.ver) := by
    simp [Bool.beq_eq_decide_eq, bne]
  show execEngineCommandComplete id s = _
  simp only [execEngineCommandComplete, hcmd, hcode', hheld, htwo, hlate, hgran, Bool.false_and, Bool.or_self,
    Bool.false_eq_true, if_false, hfinish, workOut_ok, hnotice, decide_eq_true_eq]

theorem enginePark_next (hmay : mayFault s m = true) {c : Nat} {s' : State} {k : Cmd} (hnext : nextFault s m = some (c, s', k))
    (hparks : parks c = true) : exec (.enginePark id) s = .next (parkCmd s' { k with ver := m.ver } c) := by
  show execEnginePark id s = _
  simp only [execEnginePark, hcmd, hmay, if_true, hnext, hparks]

theorem engineCommandFault_next (hmay : mayFault s m = true) {c : Nat} {s' : State} {k : Cmd}
    (hnext : nextFault s m = some (c, s', k)) (hparks : parks c = false) :
    exec (.engineCommandFault id c) s = .next (faultCmd s m c) := by
  have hremote : (c == 0x0C) = false := by
    simp only [parks, Bool.or_eq_false_iff] at hparks
    exact hparks.2
  show execEngineCommandFault id c s = _
  simp only [execEngineCommandFault, hcmd, hmay, hremote, hparks, hnext, Option.map_some, BEq.rfl, Bool.false_and,
    Bool.not_true, Bool.not_false, Bool.true_or, Bool.and_self, Bool.false_eq_true, if_false, if_true]

theorem enginePreemptStop_next (hcode : m.code = 1) (hstopped : m.stopped = false) (hgran : hasGranules m = true)
    (hpreempt : (tenantOf s m.tenant).preempt.contains m.c = true) (hprog : progOf m % 2 ^ m.e.sg.toNat = 0)
    (houts : m.outs = []) : exec (.enginePreemptStop id) s = .next (putCmd s { m with stopped := true }) := by
  have hcode' : (m.code != 1) = false := by rw [hcode]; rfl
  have hprog' : (progOf m % 2 ^ m.e.sg.toNat != 0) = false := by rw [hprog]; rfl
  have houts' : m.outs.isEmpty = true := by rw [houts]; rfl
  show execEnginePreemptStop id s = _
  simp only [execEnginePreemptStop, hcmd, hcode', hstopped, hgran, hpreempt, hprog', houts', Bool.not_true, Bool.or_self,
    Bool.false_eq_true, if_false]

theorem nbmvPublish_next (hcode : m.code = 1) (hmaj : m.maj = 0x47) (hrefine : m.e.ver = 1) (hver : m.ver = 0)
    (hskip : m.skip = false) (hheld : enginesHeld s m = false) (hhalt : m.haltAt ≠ s.clk + 1) {s' : State} {m' : Cmd}
    (hfirst : firstVersion s m = .ok s' m') : exec (.nbmvPublish id) s =
      .next (sweep (observeCmd (putCmd (nbNotice s' m' (liveStatus m')) m') m')) := by
  have hcode' : (m.code != 1) = false := by rw [hcode]; rfl
  have hmaj' : (m.maj != 0x47) = false := by rw [hmaj]; rfl
  have hrefine' : (m.e.ver != 1) = false := by rw [hrefine]; rfl
  have hver' : (m.ver != 0) = false := by rw [hver]; rfl
  have hhalt' : (m.haltAt == s.clk + 1) = false := beq_false_of_ne hhalt
  show execNbmvPublish id s = _
  simp only [execNbmvPublish, hcmd, hcode', hmaj', hrefine', hver', hskip, hheld, hhalt', Bool.or_self, Bool.false_eq_true,
    if_false, hfirst, workOut_ok]

end

/-- Settles O33: each event of an engine command goes on as its conditions let it, its guard word read as the command asks. -/
theorem engineCommandsRun : Obligations.EngineCommandsRun := by
  intro s id m hcmd
  refine ⟨fun hcode hfirst hpreempt hheld hfence => ?start, fun hcode hheld hnb hpreempt _ _ hfinish =>
    engineCommandComplete_next hcmd hcode hheld hnb hpreempt hfinish, fun hmay _ _ _ hnext =>
    ⟨enginePark_next hcmd hmay hnext, engineCommandFault_next hcmd hmay hnext⟩, enginePreemptStop_next hcmd,
    fun hcode hmaj hrefine hver hskip hheld hhalt _ _ => nbmvPublish_next hcmd hcode hmaj hrefine hver hskip hheld hhalt⟩
  case start =>
    have start {s' : State} {n : Nat} {skip : Bool} :=
      engineCommandStart_next hcmd hcode hfirst hpreempt hheld hfence (s' := s') (n := n) (skip := skip)
    exact ⟨fun hguard => start (readGuard_none hguard), fun _ _ hguard hread => start (readGuard_word hguard hread)⟩

end Sys2Proof.Proofs.EngineEvents
end

section
/-! SUPPORT. The events of a tile task: issue, publication, a further firing, retirement, faults and pre-emption (R295, R296,
R298, R303, R304, R307, R308). -/

namespace Sys2Proof.Proofs.TaskEvents

open Sys2Proof.Machine

/-! ### Issue -/

section
variable {s : State} {t : Task} (hfree : engineFenced s t.c t.cores t.id = false)
include hfree

/-- A task that waits for its first firing, or for a further one, fires on the engine that is free. A first firing goes to a
task that has lost no engine, since such a one takes another engine first. -/
theorem issueStep_fires {again : Bool} (hcbld : t.cbld = false) (hagain : again = (t.firings != 0))
    (hlost : (!again && lostEngine t) = false) {cl : Nat} (hengine : freeEngine s t = some cl) (hwants : wantsFiring s t = true)
    {s' : State} {t' : Task} (hfire : fireTask s t cl = .ok s' t') (hfin : t'.fin = false) :
    issueStep s t again = .ok s' (putTask s' t') := by
  have hagain' : (again == (t.firings != 0)) = true := beq_iff_eq.2 hagain
  simp only [issueStep, hfree, hcbld, hengine, hlost, hagain', hwants, hfire, hfin, Work.bindOk, Bool.false_and, Bool.and_self,
    Bool.false_eq_true, if_false, if_true]

theorem issueStep_loads (hcbld : t.cbld = true) (hready : tableReady s t = true) :
    issueStep s t false = loadTable s t := by
  simp only [issueStep, hfree, hcbld, hready, Bool.not_false, Bool.and_self, Bool.false_eq_true, if_false, if_true]

end

section
variable {s : State} {id : Nat} {t : Task} (htask : taskOf s id = some t)
include htask

theorem taskIssue_next {s1 s' : State} (h : issueStep s t false = .ok s1 s') : exec (.taskIssue id) s = .next s' := by
  show execTaskIssue id s = _
  simp only [execTaskIssue, htask, h]

theorem taskRefire_next {s1 s' : State} (h : issueStep s t true = .ok s1 s') : exec (.taskRefire id) s = .next s' := by
  show execTaskRefire id s = _
  simp only [execTaskRefire, htask, h]

/-! ### Publication -/

theorem taskPublish_next (hstop : t.stopAt ≠ s.clk + 1) {s1 s' : State} (h : resultStep s t = .ok s1 s') :
    exec (.taskPublish id) s = .next s' := by
  have hstop' : (t.stopAt == s.clk + 1) = false := beq_false_of_ne hstop
  show execTaskPublish id s = _
  simp only [execTaskPublish, htask, hstop', Bool.false_eq_true, if_false, h]

end

section
variable {s : State} {t : Task}

/-- Older overlapping tasks keep the version of a pass in the rename tile. -/
theorem resultStep_renames (hready : readyOf s t = .pass) (hheld : heldAtD s t = true) :
    resultStep s t = .ok s (putTask s { (passDone t).1 with tile := some (passDone t).2, renamed := true }) := by
  simp only [resultStep, hready, hheld, if_true]

theorem resultStep_publishes (hready : readyOf s t = .pass) (hheld : heldAtD s t = false) : resultStep s t =
    publishRows s (passDone t).1 (passDone t).2.1 (passDone t).2.2.1 (passDone t).2.2.2 := by
  simp only [resultStep, hready, hheld, Bool.false_eq_true, if_false]

theorem resultStep_empties {v : Nat} {last : Bool} {rows : List (Word × List Byte)} (hready : readyOf s t = .tile v last rows) :
    resultStep s t = publishRows s t v last rows := by
  simp only [resultStep, hready]

end

/-! ### Ends -/

section
variable {s : State} {id : Nat} {t : Task} (htask : taskOf s id = some t)
include htask

theorem taskRetire_next (hfin : t.fin = true) (hnotes : t.notes = [])
    (hyounger : ∀ k ∈ youngerTasks s t, k.fin = true ∨ tasksMeet t k = false ∨ k.firings ≠ 0) : exec (.taskRetire id) s =
      .next (setTasks s { s.tasks with tasks := (s.tasks.tasks.filter fun k => k.id != id).map (leaveTask t) }) := by
  have hnotes' : t.notes.isEmpty = true := by rw [hnotes]; rfl
  have hwaits : ((youngerTasks s t).any fun k => !k.fin && tasksMeet t k && k.firings == 0) = false := by
    refine List.any_eq_false.2 fun k hk => ?_
    obtain hfin | hmeet | hfired := hyounger k hk
    · simp [hfin]
    · simp [hmeet]
    · simp [hfired]
  show execTaskRetire id s = _
  simp only [execTaskRetire, htask, hfin, hnotes', hwaits, Bool.not_true, Bool.or_self, Bool.false_eq_true, if_false]

theorem taskFault_inherited (hfin : t.fin = false) (hinherits : inheritsFault s t = true) :
    exec (.taskFault id 0) s = .next (faultTask s t 0) := by
  show execTaskFault id 0 s = _
  simp only [execTaskFault, htask, hfin, hinherits, BEq.rfl, Bool.not_false, Bool.and_self, if_true]

theorem taskFault_own {s' : State} {cause : Nat} (hcause : cause ≠ 0) (hfault : faultAt s t cause = some s') :
    exec (.taskFault id cause) s = .next (faultTask s' t cause) := by
  have hcause' : (cause == 0) = false := beq_false_of_ne hcause
  show execTaskFault id cause s = _
  simp only [execTaskFault, htask, hcause', Bool.false_eq_true, if_false, hfault]

section
variable {c : Nat} (hengine : t.engine = some c)
include hengine

theorem engineHwRerun_moves (hother : ∃ k ∈ sectorClusters s t.tenant t.sec, k ≠ c) : exec (.engineHwRerun id) s =
    .next (putTask s { t with engine := freeEngine s { t with shun := some c }, shun := some c, stopped := false }) := by
  have hother' : ((sectorClusters s t.tenant t.sec).any fun k => k != c) = true := by simpa using hother
  show execEngineHwRerun id s = _
  simp only [execEngineHwRerun, htask, hengine, hother', if_true]

theorem engineHwRerun_faults (hnone : ∀ k ∈ sectorClusters s t.tenant t.sec, k = c) :
    exec (.engineHwRerun id) s = .next (faultTask s t 0x18) := by
  have hnone' : ((sectorClusters s t.tenant t.sec).any fun k => k != c) = false := by simpa using hnone
  show execEngineHwRerun id s = _
  simp only [execEngineHwRerun, htask, hengine, hnone', Bool.false_eq_true, if_false]

theorem taskPreemptStop_next (hstopped : t.stopped = false) (hpreempt : (tenantOf s t.tenant).preempt.contains c = true) :
    exec (.taskPreemptStop id) s = .next (putTask s { t with stopped := true }) := by
  show execTaskPreemptStop id s = _
  simp only [execTaskPreemptStop, htask, hengine, hstopped, hpreempt, Bool.not_true, Bool.or_self, Bool.false_eq_true, if_false]

end
end

/-- Settles O35: what a scheduler may do for a task is one step of its issue or of its results, and each end is its own event. -/
theorem tasksRun : Obligations.TasksRun := by
  intro s id t htask
  refine ⟨?first, fun _ _ hfree hcbld hready hload => taskIssue_next htask ((issueStep_loads hfree hcbld hready).trans hload),
    ?again, fun hstop hready => ⟨fun hheld => taskPublish_next htask hstop (resultStep_renames hready hheld), fun _ _ hheld hrows =>
      taskPublish_next htask hstop ((resultStep_publishes hready hheld).trans hrows)⟩,
    fun _ _ _ _ _ hstop hready hrows => taskPublish_next htask hstop ((resultStep_empties hready).trans hrows),
    taskRetire_next htask, taskFault_inherited htask, fun _ _ => taskFault_own htask,
    fun _ => engineHwRerun_moves htask, fun _ => engineHwRerun_faults htask, fun _ => taskPreemptStop_next htask⟩
  case first =>
    intro cl s' t' hfree hcbld hfirings hlost hengine hwants hfire hfin
    exact taskIssue_next htask (issueStep_fires hfree hcbld (by rw [hfirings]; rfl) (by rw [hlost]; rfl) hengine hwants hfire hfin)
  case again =>
    intro cl s' t' hfree hcbld hfirings hengine hwants hfire hfin
    have hagain : true = (t.firings != 0) := (bne_iff_ne.2 hfirings).symm
    exact taskRefire_next htask (issueStep_fires hfree hcbld hagain rfl hengine hwants hfire hfin)

end Sys2Proof.Proofs.TaskEvents
end
